-- ==== Sys2Proof/Word.lean ====
section
/-! DEFINITION. The word types: bytes, the 32-bit parameter words and 64-bit values of the manual (R12, R60). -/

namespace Sys2Proof

/-- A byte of a packet, a frame or a memory. -/
abbrev Byte := BitVec 8

/-- A parameter or result word (R60, R66), and a binary32 bit pattern (R135). -/
abbrev Word := BitVec 32

/-- A parameter value, a counter, a Keyring entry (R83, R103). -/
abbrev DWord := BitVec 64

end Sys2Proof
end

