-- ==== Sys2Proof/Syntax.lean ====
section
/-! DEFINITION. The commands: one constructor of `Instr` per row of the opcode table, with the operands the row's rule
names. The table gives no row any bits. An operand that says what the OUTSIDE answers (a memory-port error, a
signature verdict, a measured slack) is marked "outside" (log 4). -/

namespace Sys2Proof

/-- A command packet: the header of R60 and its payload. -/
structure Packet where
  opcode     : Byte
  cls        : BitVec 2
  after      : Bool
  tag        : BitVec 16
  jobTag     : BitVec 24
  hdrVersion : Byte
  payloadLen : BitVec 16
  p0 : Word
  p1 : Word
  p2 : Word
  p3 : Word
  p4 : Word
  payload    : List Byte
  deriving DecidableEq, Repr

/-- Outside: which memory-port request failed, and how: the request of index `at_` among the read requests, or the write
requests, that the access makes (R44). `err` is rd_err or wr_err (a read's 3: poisoned). -/
structure IoErr where
  at_     : Nat
  write   : Bool
  timeout : Bool
  err     : Nat
  deriving DecidableEq, Repr

/-- Outside: how the memory port answered the accesses of a command (R45 to R48). `walk`: a read of a page table met the
error (kind 6 of R336), the entry of `level` for `va`. -/
inductive Io where
  | ok
  | bad (e : IoErr)
  | walk (e : IoErr) (ctx level va : Nat)
  deriving DecidableEq, Repr

/-- Outside: what the ECDSA checks of R470 (and R478) found for the two images of a bundle. -/
structure Verdict where
  ctlVendor     : Bool
  ctlIntegrator : Bool
  wardVendor    : Bool
  wardIntegrator : Bool
  deriving DecidableEq, Repr

/-- Outside: what the checks of R478 that need keys found for an install record. -/
structure KeyVerdict where
  sigOk    : Bool
  unwrapOk : Bool
  deriving DecidableEq, Repr

/-- A Funnel packet: port, header of R107 and the chunks after it. -/
structure FunnelPkt where
  funnel     : Nat
  slot       : Nat
  generation : Nat
  step       : Nat
  firstToken : Nat
  nRows      : Nat
  cls        : Nat
  body       : List Byte
  deriving DecidableEq, Repr

/-- The KFT header (R254). -/
structure KftHdr where
  ver : Nat
  vc : Nat
  op : Nat
  resp : Bool
  flag : Bool
  last : Bool
  cls : Nat
  jobTag : Nat
  partKey : Nat
  srcSeat : Nat
  dstSeat : Nat
  seq : Nat
  ackSeq : Nat
  ackVc : Nat
  ackValid : Bool
  region : Nat
  pathId : Nat
  pathEpoch : Nat
  ktLo : Nat
  offset : Nat
  length : Nat
  msgChunks : Nat
  msgSeq : Nat
  operand0 : Nat
  operand1 : Nat
  aop : Nat
  width : Nat
  nackCode : Nat
  chunkCrc : Nat
  deriving DecidableEq, Repr

/-- A frame as a Hinge receives it (R253): what FEC corrected and could not, per lane of its link (R251), the outcome of FCS,
its Ethernet fields, its MACsec association and packet number (R282), header and payload. -/
structure Frame where
  fecSymbols : List Nat
  fecUncorr : List Nat
  fcsOk     : Bool
  bytes     : Nat
  tpidOk    : Bool
  vid       : Nat
  pcp       : Nat
  ethertype : Nat
  macsecOk  : Bool
  an        : Nat
  pn        : Nat
  hdr       : KftHdr
  payload   : List Byte
  deriving DecidableEq, Repr

/-- The header of a token tile (R216). -/
structure TileHdr where
  kind : Nat
  srcSlot : Nat
  generation : Nat
  rank : Nat
  cls : Nat
  step : Nat
  token : Nat
  srcSeat : Nat
  localSlot : Nat
  expert : Nat
  layer : Nat
  tileFmt : Nat
  slotIndex : Nat
  sr : Bool
  deriving DecidableEq, Repr

/-- A count message (R221). -/
structure CountMsg where
  cancelled : Bool
  step : Nat
  layer : Nat
  epoch : Nat
  srcSeat : Nat
  counts : List Nat
  deriving DecidableEq, Repr

/-- A cancel notice or cancel acknowledgement (R242). -/
structure CancelMsg where
  srcSlot : Nat
  generation : Nat
  step : Nat
  sender : Nat
  retSeq : Nat
  cls : Nat
  deriving DecidableEq, Repr

/-- The header of a collective chunk (R299). -/
structure CollHdr where
  lengthRound : Bool
  group : Nat
  loopQ : Bool
  level : Nat
  distribute : Bool
  buffer : Nat
  wide : Bool
  crcEn : Bool
  dynamic : Bool
  opSeq : Nat
  chunk : Nat
  length : Nat
  srcSeat : Nat
  nElem : Nat
  defCrc : Nat
  dataCrc : Nat
  upWait : Nat
  fmt : Nat
  deriving DecidableEq, Repr

/-- A start-barrier notice (R385). -/
structure Notice where
  kind : Nat
  listCrc : Nat
  release : Nat
  sender : Nat
  subtree : Nat
  t1 : Nat
  t2 : Nat
  t3 : Nat
  deriving DecidableEq, Repr

/-- Outside: the PTP messages whose timestamps the servo uses (R279, R281). The block's own receive stamps (t2 of a Sync, t4 of a
peer delay) are as its MAC samples them, with the lane deskew in ps; the others are what the messages carry. All are in 64ths
of a KT tick. The stamps of its own requests are in its state. -/
inductive PtpMsg where
  | sync (t1 t2 : Int) (deskew : Nat)
  | delayResp (t4 : Int)
  | pdelayResp (t2 t3 t4 : Int) (deskew : Nat)
  | announce
  deriving DecidableEq, Repr

/-- A management request (R476), with what the fabric and its reads found. -/
structure MgmtReq where
  seat : Nat
  kind : Nat
  reqId : Nat
  arg0 : Nat
  arg1 : Nat
  body : List Byte
  poisoned : Bool
  deriving DecidableEq, Repr

/-- Outside: the monitor readings of one measurement interval (R439, R442). -/
structure Monitors where
  slack  : List Nat
  ring   : List Nat
  margin : List Nat
  eye    : List Nat
  deriving DecidableEq, Repr

/-- Outside: what the patrol scrubber found in a word (R314). -/
inductive ScrubFind where
  | clean
  | single
  | uncorrectable
  deriving DecidableEq, Repr

/-- Who consumed a poisoned queue word (R330). `tensor`: the class of the tensor command whose write it is. -/
inductive QueueConsumer where
  | datapath (unit : Nat)
  | hingeEgress (dst vc seq : Nat)
  | mportWrite (unit : Nat) (tensor : Option Nat)
  | mgmt
  deriving DecidableEq, Repr

/-- An edge of a collective ring (R299). -/
structure Edge where
  group : Nat
  loopQ : Bool
  level : Nat
  distribute : Bool
  deriving DecidableEq, Repr

/-- A unit of the step chain, with the position at which it sets work aside (R130, R131, R151, R184, R211): of an engine the
token block, the panel of its slice, the weight set and the token; of the SFU the token and the pass. `tensor`: the tensor
command of class `cls` goes on for `tiles` tiles. -/
inductive WorkUnit where
  | engine (engine block panel chunk token : Nat)
  | sfu (token pass : Nat)
  | tumbler (token : Nat)
  | dispatch
  | combine
  | tensor (cls tiles : Nat)
  deriving DecidableEq, Repr

/-- Outside: what a slice's own checks met (R121, R152, R185, R403): an error in a Keyring entry, a router word or operand,
an engine's column, a ROM entry, a loaded table, the SFU's adders, an SFU operand, the Tumbler's output, the combine
adders or converters. -/
inductive UnitErr where
  | keyring (entry : Nat)
  | weight
  | column (engine column : Nat)
  | rom
  | table
  | sfuAdder
  | operand
  | tumbler
  | adder
  deriving DecidableEq, Repr

/-- Outside: such an error, met in a slice; `single`: one bit of a SECDED word, which is corrected. -/
structure Found where
  slice : Nat
  err : UnitErr
  single : Bool
  deriving DecidableEq, Repr

/-- The commands: the rows of spec/opcode_table.json, in its order. -/
inductive Instr where
  | echo (p : Packet)
  | identify (p : Packet)
  | paramGet (p : Packet) (io : Io)
  | paramSet (p : Packet)
  | snapshot (p : Packet) (io : Io)
  | jobOpen (p : Packet) (io : Io)
  | jobClose (p : Packet)
  | jobStart (p : Packet)
  | layerLoad (p : Packet) (io : Io)
  | keyringCommit (p : Packet)
  | tableLoad (p : Packet) (io : Io)
  | stepRun (p : Packet)
  | batchCancel (p : Packet)
  | batchPreempt (p : Packet)
  | batchResume (p : Packet)
  | tensorCopy (p : Packet) (io : Io) (tiles : Nat)
  | gather (p : Packet) (io : Io) (tiles : Nat)
  | scatterAcc (p : Packet) (io : Io) (arrival : List Nat) (tiles : Nat)
  | groupDefine (p : Packet) (io : Io)
  | collPost (p : Packet) (io : Io)
  | fence (p : Packet)
  | pourStart (p : Packet)
  | pourAbort (p : Packet)
  | pourRestartAll (p : Packet)
  | pourResume (p : Packet)
  | mmuMap (p : Packet)
  | mmuUnmap (p : Packet)
  | mmuInval (p : Packet)
  | poolConfig (p : Packet) (io : Io)
  | remoteInval (p : Packet)
  | timeCfg (p : Packet)
  | fwStage (p : Packet) (io : Io) (v : Verdict)
  | fwActivate (p : Packet) (v : Verdict)
  | vaultRead (p : Packet) (io : Io)
  | vaultPeriodClose (p : Packet) (io : Io)
  | traceCfg (p : Packet) (io : Io)
  | domainReset (p : Packet)
  | dumpRead (p : Packet) (io : Io)
  | rollbackCommit (p : Packet)
  | keyInstall (p : Packet) (v : KeyVerdict)
  | hingeEnable (p : Packet)
  | laneModeWrite (p : Packet)
  | recEnable (p : Packet)
  | latchFramingError (p : Packet)
  | latchStrayBeat
  | latchParityError (hdr : List Byte) (hdrGood : Bool)
  | replyBeatTaken (two bad : Bool)
  | routerRowsPacket (f : FunnelPkt)
  | sharedOutputPacket (f : FunnelPkt)
  | answerReadyReceive (f : FunnelPkt) (io : Io)
  | answerReadyReturn (f : FunnelPkt)
  | replayArrivalInject (funnel : Nat) (h : KftHdr) (payload : List Byte) (full : Bool) (io : Io)
  | funnelMalformed (funnel : Nat)
  | funnelPoisonedBeat (funnel slot : Nat)
  | spoutLocalCopySent (slot token rank : Nat)
  | mportReadData (channel id err : Nat) (last badParity : Bool)
  | mportWriteResponse (channel id err : Nat)
  | mportTimeout (write : Bool) (channel id : Nat)
  | kftFrameReceive (hinge link : Nat) (f : Frame)
  | kftChunkApply (src vc seq : Nat) (io : Io)
  | kftAckReceive (h : KftHdr)
  | kftNackReceive (h : KftHdr)
  | kftAckDelayExpiry (seat vc : Nat)
  | kftRetransmitTimeout (dst vc seq : Nat)
  | pathHoldoffExpiry (link dst : Nat)
  | pfcFrameReceive (hinge : Nat) (pause resume : List Nat)
  | countMessageReceive (hinge : Nat) (m : CountMsg)
  | countExchangeTimeout (step : Nat)
  | cancelNoticeReceive (hinge : Nat) (m : CancelMsg)
  | cancelAckSend (src step : Nat)
  | cancelAckReceive (m : CancelMsg)
  | answerReceive (hinge : Nat) (h : TileHdr) (data : List Byte)
  | copyLanded (hinge : Nat) (h : TileHdr) (slotIndex : Nat)
  | workListEmit (step localSlot : Nat)
  | collChunkReceive (h : CollHdr) (data : List Byte) (adderBad : Bool)
  | collCreditReceive (e : Edge) (count : Nat)
  | collTimeout (group : Nat) (loopQ : Bool)
  | collOperationComplete (group : Nat) (loopQ : Bool) (io : Io)
  | collOperationStart (group : Nat) (loopQ : Bool)
  | startBarrierNotice (n : Notice)
  | calibrationRequest (link deskew : Nat) (n : Notice) (t2 t3 : Nat)
  | calibrationReply (link deskew : Nat) (n : Notice) (t4 : Nat)
  | calibrationWindow (t : Nat)
  | releaseInstant
  | remoteLoad (src seq loadTag off size : Nat)
  | remoteStore (src seq off : Nat) (data : List Byte)
  | flagStore (src seq off : Nat) (data : List Byte)
  | remoteAtomic (src seq loadTag aop width off a b : Nat)
  | loadResponseReceive (src loadTag : Nat) (data : List Byte)
  | rld (core thread size seat off : Nat)
  | rstr (core thread seat off srcOff len : Nat)
  | rstf (core thread seat off len value : Nat)
  | ramo (core thread aop width seat off a b : Nat)
  | rinv (core thread : Nat) (all : Bool) (seat off len : Nat)
  | managementRequest (r : MgmtReq) (v : Verdict)
  | ptpEventMessage (domain : Nat) (m : PtpMsg)
  | ptpSyncMissed
  | laneTrainDone (hinge lane : Nat) (ok : Bool) (eye : Nat)
  | laneTrainTimeout (hinge lane : Nat)
  | laneLockChange (hinge lane : Nat) (lock : Bool)
  | linkAlignTimeout (link : Nat)
  | fecFailLimit (link : Nat)
  | remoteFaultReceive (link : Nat)
  | relinkHoldoffExpiry (link : Nat)
  | quiesceComplete (link : Nat)
  | stage1Complete (slot : Nat)
  | stepScoringDone (slot : Nat) (io : Io) (found : List Found)
  | dispatchStart (slot : Nat)
  | dispatchAcked (slot : Nat)
  | combineStart (slot rows : Nat) (io : Io) (found : List Found)
  | combineDone (slot : Nat) (io : Io)
  | preemptBoundary (slot : Nat)
  | cancelTeardownComplete (slot : Nat)
  | classSwitch (slice slot cls : Nat) (unit : WorkUnit)
  | loopSumPost (window : Nat)
  | biasUpdate (window : Nat)
  | commitLoadsDone
  | epochTakesEffect
  | jobDrainComplete
  | crashDump (io : Io)
  | crashDumpComplete (io : Io)
  | stepDeadlineExpiry (slot : Nat)
  | unitHang (unit index cls : Nat)
  | portBackpressureExpiry (unit index cls : Nat)
  | firmwareHeartbeatMiss (core : Nat)
  | controlStateError (code : Nat)
  | coreMemoryUncorrectable (ward : Bool) (core : Nat)
  | domainFenceClosed (code : Nat)
  | domainDrainComplete (code : Nat)
  | domainDrainDeadline (code leftover : Nat)
  | domainResetElapsed (code : Nat)
  | domainSelfCheck (code : Nat) (ok : Bool)
  | escalationWindowExpiry
  | aoPorAssert
  | aoPorRelease (eccOk : Bool) (romCrc : Nat)
  | porAssert
  | porReleaseBoot (io : Io) (v : Verdict)
  | bootRetry (io : Io) (v : Verdict)
  | rootLockLoss
  | pwrWarnActed
  | braceInflightDone
  | braceSealed (err : Nat)
  | pwrWarnClear
  | braceHoldoffExpiry
  | pwrResetRise
  | pwrResetFall (warn : Bool)
  | throttleChange (n : Nat)
  | vddAckRise
  | vddAckTimeout
  | marginPlanPeriodic
  | canaryAlarm (slice slack : Nat)
  | ceLimitReplan (code : Nat)
  | relaxPeriodExpiry
  | measurementIntervalEnd (m : Monitors)
  | vaultSealCheck (eccOk : Bool) (romCrc : Nat)
  | vaultNonceRefill
  | patrolScrub (off : Nat) (found : ScrubFind)
  | carafeGrant
  | carafeListError (pool : Nat) (entry : Option Nat)
  | pourDescriptorRead (ch : Nat) (io : Io)
  | pourPipeGrant (pipe : Nat)
  | pourGranuleYield (ch : Nat)
  | move (ch : Nat) (io : Io) (granules : Nat)
  | fill (ch : Nat) (io : Io) (granules : Nat)
  | cmp (ch : Nat) (io : Io) (granules : Nat)
  | loop (ch : Nat) (io : Io)
  | wait (ch : Nat) (io : Io)
  | waitPoll (ch : Nat) (io : Io)
  | waitTimeout (ch : Nat)
  | signal (ch : Nat) (io : Io)
  | endProg (ch : Nat) (io : Io)
  | pourIllegalOpcode (ch : Nat) (io : Io)
  | pourInstructionComplete (ch : Nat)
  | pourPark (ch : Nat)
  | pourWritebackComplete (ch : Nat) (io : Io)
  | pourCancelDrained (ch : Nat)
  | pourBusErrorStop
  | pourStopDrained
  | dripSample
  | dripRecordWritten (io : Io)
  | dripRingFault (code : Nat)
  | recordWritten (io : Io)
  | recordRingFault (code : Nat)
  | queuePoisonConsume (c : QueueConsumer)
  | alignmentMarkersFound (link : Nat)
  | laneAlignmentLoss (link lane : Nat)
  | relinkHoldoffRestore (link : Nat)
  | marginExhaustedAdvisoryEnd
  | creditCoalesceExpiry (e : Edge)
  | delayRequestInterval
  | syncIntervalTransmit
  | pfcPauseExpiry (hinge prio : Nat)
  deriving DecidableEq, Repr

end Sys2Proof
end

