-- ==== Sys2Proof/Config.lean ====
section
/-! DEFINITION. What the manual leaves open: free values. Each is a constant with no body, so nothing can be proved
about its value; a meaning applies it to `State.freeCtr`, which it then advances (log 7), or to its operands. -/

namespace Sys2Proof.Config

/-- A byte the manual does not define: overlapping destinations (R190, R201, R352), bytes whose write ended in a bus
error (R47), partial output of a cancelled step (R93). -/
opaque freeByte : Nat → Byte

/-- Which of several values written to one byte it ends with (R190). -/
opaque freePick : Nat → Nat

/-- The INT32 code that a floating-point value becomes where a rule copies it into an INT32 tensor (R137 performs no such
conversion; R14): of the value's W36 code. -/
opaque freeInt : Nat → Nat

/-- Which weight-set boundary a stolen panel is split at (R132, R150); 0 means no split. -/
opaque freeSplit : Nat → Nat

/-- Whether the KT servo slews in this LCLK cycle: 0 no, 1 omit an advance, 2 advance by two (R278, R281). -/
opaque freeSlew : Nat → Nat

/-- The 6-bit fraction of a tick at which a timestamped message left (R279). -/
opaque freeFrac : Nat → Nat

/-- The share of a Hinge's ingress buffer that a priority has, in bytes (R267 names it and gives no value). -/
opaque freeShare : Nat → Nat

/-- A Vault signature (r, s) over the given bytes with the n-th nonce pair (R450, R461, R465). -/
opaque vaultSign : List Byte → Nat → Nat × Nat

/-- Public halves of Vault's signing and management keys, derived from the device secret (R450): x, y. -/
opaque signPub : Nat → Nat × Nat

/-- See `signPub`. -/
opaque mgmtPub : Nat → Nat × Nat

/-- Which of several waiting events of one instant the stream takes when R82 leaves the order open. -/
opaque freeOrder : Nat → Nat

/-- The code on kw_pwr_vin when it is sampled (R54, R434, R437): an input pin. -/
opaque freeVin : Nat → Nat

/-- What an open counter reads as at a KT, after a number of packets (R489, R491, log 49): index, KT, packets taken. -/
opaque freeCount : Nat → Nat → Nat → Nat

end Sys2Proof.Config
end

