-- ==== Sys2Proof/Machine/Bits.lean ====
section
/-! DEFINITION. Bit fields, byte order (R12: little endian), wrapping comparisons, list helpers, and the published
algorithms the manual names: CRC-32C, CRC-64, AES-128, SHA-384 (log 10). -/

namespace Sys2Proof.Machine

/-- Bits `hi` down to `lo` of `x`. -/
def bits (x hi lo : Nat) : Nat := (x >>> lo) % 2 ^ (hi + 1 - lo)

/-- Bit `i` of `x`. -/
def bit (x i : Nat) : Bool := x.testBit i

/-- 1 for true. -/
def b01 (b : Bool) : Nat := if b then 1 else 0

/-- Little-endian value of bytes. -/
def leNat : List Byte → Nat
  | [] => 0
  | b :: r => b.toNat + 256 * leNat r

/-- The `n` low bytes of `v`, little endian. -/
def leBytes : Nat → Nat → List Byte
  | 0, _ => []
  | n + 1, v => BitVec.ofNat 8 v :: leBytes n (v / 256)

/-- `v` of `w` bits as a two's-complement number. -/
def sext (w v : Nat) : Int := if v % 2 ^ w < 2 ^ (w - 1) then (v % 2 ^ w : Nat) else ((v % 2 ^ w : Nat) : Int) - (2 ^ w : Nat)

/-- Two's complement of `i` in `w` bits. -/
def unsext (w : Nat) (i : Int) : Nat := (i % ((2 ^ w : Nat) : Int)).toNat

/-- `x` rounded up to a multiple of `m`. -/
def roundUp (m x : Nat) : Nat := (x + m - 1) / m * m

/-- Quotient rounded up. -/
def ceilDiv (x m : Nat) : Nat := (x + m - 1) / m

/-- Exactly `n` bytes: cut, or filled with zeros. -/
def padTo (n : Nat) (l : List Byte) : List Byte := l.take n ++ List.replicate (n - l.length) 0

/-- `n` bytes from byte `o`, zeros past the end. -/
def slice (l : List Byte) (o n : Nat) : List Byte := padTo n ((l.drop o).take n)

/-- Little-endian value of `n` bytes from byte `o`. -/
def leAt (l : List Byte) (o n : Nat) : Nat := leNat ((l.drop o).take n)

/-- Serial-number comparison in `w` bits: `a` comes before `b` (R7). -/
def serialLt (w a b : Nat) : Bool := let d := (b + 2 ^ w - a % 2 ^ w) % 2 ^ w; decide (0 < d ∧ d < 2 ^ (w - 1))

/-- `a` is `b` or comes before it. -/
def serialLe (w a b : Nat) : Bool := decide (a % 2 ^ w = b % 2 ^ w) || serialLt w a b

/-- The value of key `k`, or `d`. -/
def findD (l : List (Nat × Nat)) (k d : Nat) : Nat :=
  match l with
  | [] => d
  | (a, v) :: r => if a = k then v else findD r k d

/-- Set key `k` in a list with rising keys. -/
def insertKey (l : List (Nat × Nat)) (k v : Nat) : List (Nat × Nat) :=
  match l with
  | [] => [(k, v)]
  | (a, x) :: r => if a < k then (a, x) :: insertKey r k v else if a = k then (k, v) :: r else (k, v) :: (a, x) :: r

/-- `f` on the entries that satisfy `p`. -/
def mapIf {α : Type} (p : α → Bool) (f : α → α) (l : List α) : List α := l.map fun a => if p a then f a else a

/-- No entry twice. -/
def distinct {α : Type} [DecidableEq α] : List α → Bool
  | [] => true
  | a :: r => !r.contains a && distinct r

/-- Entries without repeats, first kept. -/
def dedup {α : Type} [DecidableEq α] (l : List α) : List α :=
  (l.foldl (fun acc a => if acc.contains a then acc else a :: acc) []).reverse

/-- Insert before the first entry that must come later. -/
def insertBy {α : Type} (lt : α → α → Bool) (a : α) : List α → List α
  | [] => [a]
  | b :: r => if lt a b then a :: b :: r else b :: insertBy lt a r

/-- Stable insertion sort. -/
def sortBy {α : Type} (lt : α → α → Bool) (l : List α) : List α := l.foldl (fun acc a => insertBy lt a acc) []

/-- Sum of a list. -/
def sumN (l : List Nat) : Nat := l.foldl (· + ·) 0

/-- Bitwise or of powers of two. -/
def maskOf (l : List Nat) : Nat := l.foldl (fun m i => m ||| 2 ^ i) 0

/-- Pieces of `n` entries (`fuel` pieces at most). -/
def chunksOf {α : Type} (n : Nat) : Nat → List α → List (List α)
  | 0, _ => []
  | fuel + 1, l => if l.isEmpty then [] else l.take n :: chunksOf n fuel (l.drop n)

/-- All pieces of `n` entries. -/
def splitEvery {α : Type} (n : Nat) (l : List α) : List (List α) := chunksOf n l.length l

/-- Eight steps of a reflected CRC. -/
def crcBits (poly : Nat) : Nat → Nat → Nat
  | 0, c => c
  | n + 1, c => crcBits poly n (if c % 2 = 1 then (c / 2) ^^^ poly else c / 2)

/-- CRC-32C (R12). -/
def crc32c (l : List Byte) : Nat :=
  (l.foldl (fun c b => crcBits 0x82F63B78 8 (c ^^^ b.toNat)) 0xFFFFFFFF) ^^^ 0xFFFFFFFF

/-- Steps of a forward CRC-64. -/
def crc64Bits : Nat → Nat → Nat
  | 0, c => c
  | n + 1, c => crc64Bits n (if c / 2 ^ 63 = 1 then ((c * 2) % 2 ^ 64) ^^^ 0x42F0E1EBA9EA3693 else c * 2)

/-- CRC-64 of ECMA-182 (R103). -/
def crc64 (l : List Byte) : Nat := l.foldl (fun c b => crc64Bits 8 (c ^^^ (b.toNat * 2 ^ 56))) 0

/-- Multiplication by x in GF(2^8) of AES. -/
def gfDouble (a : Nat) : Nat := if a < 128 then a * 2 else (a * 2) % 256 ^^^ 0x1B

/-- Product in GF(2^8) of AES: `n` bits of `b`. -/
def gfMul : Nat → Nat → Nat → Nat
  | 0, _, _ => 0
  | n + 1, a, b => (if b % 2 = 1 then a else 0) ^^^ gfMul n (gfDouble a) (b / 2)

/-- Inverse in GF(2^8), a^254; 0 stays 0. -/
def gfInv (a : Nat) : Nat :=
  let m := gfMul 8
  let a2 := m a a
  let a3 := m a2 a
  let a6 := m a3 a3
  let a12 := m a6 a6
  let a15 := m a12 a3
  let a30 := m a15 a15
  let a60 := m a30 a30
  let a120 := m a60 a60
  let a126 := m a120 a6
  let a127 := m a126 a
  m a127 a127

/-- The AES S-box. -/
def aesSub (a : Nat) : Nat :=
  let x := gfInv a
  let rot := fun n => ((x * 2 ^ n) ||| (x / 2 ^ (8 - n))) % 256
  x ^^^ rot 1 ^^^ rot 2 ^^^ rot 3 ^^^ rot 4 ^^^ 0x63

/-- The S-box as a table. -/
def aesTable : List Nat := (List.range 256).map aesSub

/-- The next round key of 16 bytes. -/
def aesNextKey (sb : List Nat) (rcon : Nat) (k : List Nat) : List Nat :=
  let g := fun i => k.getD i 0
  let t := [sb.getD (g 13) 0 ^^^ rcon, sb.getD (g 14) 0, sb.getD (g 15) 0, sb.getD (g 12) 0]
  let w0 := List.zipWith (· ^^^ ·) (k.take 4) t
  let w1 := List.zipWith (· ^^^ ·) ((k.drop 4).take 4) w0
  let w2 := List.zipWith (· ^^^ ·) ((k.drop 8).take 4) w1
  let w3 := List.zipWith (· ^^^ ·) ((k.drop 12).take 4) w2
  w0 ++ w1 ++ w2 ++ w3

/-- MixColumns on one column. -/
def aesMix (c : List Nat) : List Nat :=
  let g := fun i => c.getD (i % 4) 0
  (List.range 4).map fun i => gfDouble (g i) ^^^ gfDouble (g (i + 1)) ^^^ g (i + 1) ^^^ g (i + 2) ^^^ g (i + 3)

/-- Rounds of AES-128 left to do. -/
def aesRounds (sb : List Nat) : Nat → Nat → List Nat → List Nat → List Nat
  | 0, _, _, st => st
  | n + 1, rcon, key, st =>
    let key' := aesNextKey sb rcon key
    let sub := st.map fun b => sb.getD b 0
    let sh := (List.range 16).map fun i => sub.getD ((i + 4 * (i % 4)) % 16) 0
    let mx := if n = 0 then sh else aesMix (sh.take 4) ++ aesMix ((sh.drop 4).take 4) ++ aesMix ((sh.drop 8).take 4) ++ aesMix (sh.drop 12)
    aesRounds sb n (gfDouble rcon) key' (List.zipWith (· ^^^ ·) mx key')

/-- AES-128 of one block; key and block are 16 bytes, byte 0 first. -/
def aes128 (key block : List Byte) : List Byte :=
  let k := (padTo 16 key).map (·.toNat)
  let st := List.zipWith (· ^^^ ·) ((padTo 16 block).map (·.toNat)) k
  (aesRounds aesTable 10 1 k st).map (BitVec.ofNat 8)

/-- SHA-512 round constants. -/
def shaK : List Nat :=
  [0x428a2f98d728ae22, 0x7137449123ef65cd, 0xb5c0fbcfec4d3b2f, 0xe9b5dba58189dbbc] ++
  [0x3956c25bf348b538, 0x59f111f1b605d019, 0x923f82a4af194f9b, 0xab1c5ed5da6d8118] ++
  [0xd807aa98a3030242, 0x12835b0145706fbe, 0x243185be4ee4b28c, 0x550c7dc3d5ffb4e2] ++
  [0x72be5d74f27b896f, 0x80deb1fe3b1696b1, 0x9bdc06a725c71235, 0xc19bf174cf692694] ++
  [0xe49b69c19ef14ad2, 0xefbe4786384f25e3, 0x0fc19dc68b8cd5b5, 0x240ca1cc77ac9c65] ++
  [0x2de92c6f592b0275, 0x4a7484aa6ea6e483, 0x5cb0a9dcbd41fbd4, 0x76f988da831153b5] ++
  [0x983e5152ee66dfab, 0xa831c66d2db43210, 0xb00327c898fb213f, 0xbf597fc7beef0ee4] ++
  [0xc6e00bf33da88fc2, 0xd5a79147930aa725, 0x06ca6351e003826f, 0x142929670a0e6e70] ++
  [0x27b70a8546d22ffc, 0x2e1b21385c26c926, 0x4d2c6dfc5ac42aed, 0x53380d139d95b3df] ++
  [0x650a73548baf63de, 0x766a0abb3c77b2a8, 0x81c2c92e47edaee6, 0x92722c851482353b] ++
  [0xa2bfe8a14cf10364, 0xa81a664bbc423001, 0xc24b8b70d0f89791, 0xc76c51a30654be30] ++
  [0xd192e819d6ef5218, 0xd69906245565a910, 0xf40e35855771202a, 0x106aa07032bbd1b8] ++
  [0x19a4c116b8d2d0c8, 0x1e376c085141ab53, 0x2748774cdf8eeb99, 0x34b0bcb5e19b48a8] ++
  [0x391c0cb3c5c95a63, 0x4ed8aa4ae3418acb, 0x5b9cca4f7763e373, 0x682e6ff3d6b2b8a3] ++
  [0x748f82ee5defb2fc, 0x78a5636f43172f60, 0x84c87814a1f0ab72, 0x8cc702081a6439ec] ++
  [0x90befffa23631e28, 0xa4506cebde82bde9, 0xbef9a3f7b2c67915, 0xc67178f2e372532b] ++
  [0xca273eceea26619c, 0xd186b8c721c0c207, 0xeada7dd6cde0eb1e, 0xf57d4f7fee6ed178] ++
  [0x06f067aa72176fba, 0x0a637dc5a2c898a6, 0x113f9804bef90dae, 0x1b710b35131c471b] ++
  [0x28db77f523047d84, 0x32caab7b40c72493, 0x3c9ebe0a15c9bebc, 0x431d67c49c100d4c] ++
  [0x4cc5d4becb3e42b6, 0x597f299cfc657e2a, 0x5fcb6fab3ad6faec, 0x6c44198c4a475817]

/-- SHA-384 initial value. -/
def shaH : List Nat :=
  [0xcbbb9d5dc1059ed8, 0x629a292a367cd507, 0x9159015a3070dd17, 0x152fecd8f70e5939] ++
  [0x67332667ffc00b31, 0x8eb44a8768581511, 0xdb0c2e0d64f98fa7, 0x47b5481dbefa4fa4]

/-- Rotate right in 64 bits. -/
def rotr (x n : Nat) : Nat := (x / 2 ^ n) ||| ((x * 2 ^ (64 - n)) % 2 ^ 64)

/-- Big-endian value. -/
def beNat (l : List Byte) : Nat := l.foldl (fun a b => a * 256 + b.toNat) 0

/-- `n` bytes of `v`, big endian. -/
def beBytes (n v : Nat) : List Byte := (leBytes n v).reverse

/-- The message schedule, newest word first. -/
def shaSched : Nat → List Nat → List Nat
  | 0, w => w
  | n + 1, w =>
    let g := fun i => w.getD (i - 1) 0
    let s0 := rotr (g 15) 1 ^^^ rotr (g 15) 8 ^^^ (g 15 / 2 ^ 7)
    let s1 := rotr (g 2) 19 ^^^ rotr (g 2) 61 ^^^ (g 2 / 2 ^ 6)
    shaSched n ((s1 + g 7 + s0 + g 16) % 2 ^ 64 :: w)

/-- One SHA-512 round on the eight working variables. -/
def shaRound (v : List Nat) (kw : Nat) : List Nat :=
  match v with
  | [a, b, c, d, e, f, g, h] =>
    let s1 := rotr e 14 ^^^ rotr e 18 ^^^ rotr e 41
    let ch := (e &&& f) ^^^ ((2 ^ 64 - 1 - e) &&& g)
    let t1 := h + s1 + ch + kw
    let s0 := rotr a 28 ^^^ rotr a 34 ^^^ rotr a 39
    let mj := (a &&& b) ^^^ (a &&& c) ^^^ (b &&& c)
    [(t1 + s0 + mj) % 2 ^ 64, a, b, c, (d + t1) % 2 ^ 64, e, f, g]
  | _ => v

/-- One block of 128 bytes. -/
def shaBlock (h : List Nat) (blk : List Byte) : List Nat :=
  let w := (shaSched 64 ((splitEvery 8 blk).map beNat).reverse).reverse
  let v := (List.zipWith (· + ·) shaK w).foldl shaRound h
  List.zipWith (fun a b => (a + b) % 2 ^ 64) h v

/-- SHA-384. -/
def sha384 (m : List Byte) : List Byte :=
  let z := (111 + 128 - m.length % 128) % 128
  let msg := m ++ [0x80] ++ List.replicate z 0 ++ beBytes 16 (8 * m.length)
  (((splitEvery 128 msg).foldl shaBlock shaH).take 6).flatMap (beBytes 8)

end Sys2Proof.Machine
end

