-- ==== Sys2Proof/Machine/Num.lean ====
section
/-! DEFINITION. Numbers: exact values, the element formats of R134 and R135 and the SFU's W36 (R156), rounding to nearest
even (R136, R137), and MX blocks (R138, R139). -/

namespace Sys2Proof.Machine

/-- A value: NaN, an infinity, or ± m × 2^e exactly (m = 0 is a signed zero). -/
inductive Num where
  | nan
  | inf (neg : Bool)
  | fin (neg : Bool) (m : Nat) (e : Int)
  deriving DecidableEq, Repr

/-- What the top exponent of a format means: infinities and NaNs; one NaN (E4M3); or ordinary values (MX elements). -/
inductive Top where
  | ieee
  | oneNan
  | plain
  deriving DecidableEq, Repr

/-- A binary format (R135): exponent bits, mantissa bits, bias, use of the top exponent, whether finite overflow saturates
(R137), and the canonical NaN. -/
structure Fmt where
  eb : Nat
  mb : Nat
  bias : Nat
  top : Top
  sat : Bool
  cnan : Nat
  deriving DecidableEq, Repr

/-- FP32 (binary32). -/
def fp32 : Fmt := ⟨8, 23, 127, .ieee, false, 0x7FC00000⟩
/-- BF16. -/
def bf16 : Fmt := ⟨8, 7, 127, .ieee, false, 0x7FC0⟩
/-- FP16 (binary16). -/
def fp16 : Fmt := ⟨5, 10, 15, .ieee, false, 0x7E00⟩
/-- FP8 E4M3. -/
def e4m3 : Fmt := ⟨4, 3, 7, .oneNan, true, 0x7F⟩
/-- FP8 E5M2. -/
def e5m2 : Fmt := ⟨5, 2, 15, .ieee, true, 0x7E⟩
/-- MX element E2M3. -/
def e2m3 : Fmt := ⟨2, 3, 1, .plain, true, 0⟩
/-- MX element E3M2. -/
def e3m2 : Fmt := ⟨3, 2, 3, .plain, true, 0⟩
/-- MX element E2M1. -/
def e2m1 : Fmt := ⟨2, 1, 1, .plain, true, 0⟩
/-- W36 (R156). -/
def w36 : Fmt := ⟨11, 24, 1023, .ieee, false, 0x7FF800000⟩

/-- Exponent of the least subnormal. -/
def Fmt.emin (f : Fmt) : Int := 1 - (f.bias : Int) - f.mb

/-- Largest finite value: significand and exponent. -/
def Fmt.maxM (f : Fmt) : Nat :=
  match f.top with
  | .oneNan => 2 ^ (f.mb + 1) - 2
  | _ => 2 ^ (f.mb + 1) - 1

/-- Exponent that goes with `maxM`. -/
def Fmt.maxE (f : Fmt) : Int :=
  match f.top with
  | .ieee => (2 ^ f.eb - 2 : Nat) - (f.bias : Int) - f.mb
  | _ => (2 ^ f.eb - 1 : Nat) - (f.bias : Int) - f.mb

/-- The value of an encoding. -/
def Fmt.decode (f : Fmt) (b : Nat) : Num :=
  let neg := bit b (f.eb + f.mb)
  let e := (b >>> f.mb) % 2 ^ f.eb
  let m := b % 2 ^ f.mb
  if f.top = .ieee ∧ e = 2 ^ f.eb - 1 then (if m = 0 then .inf neg else .nan)
  else if f.top = .oneNan ∧ e = 2 ^ f.eb - 1 ∧ m = 2 ^ f.mb - 1 then .nan
  else if e = 0 then .fin neg m f.emin
  else .fin neg (2 ^ f.mb + m) ((e : Int) - f.bias - f.mb)

/-- ⌊log2 (p / q)⌋ for positive p and q. -/
def log2Q (p q : Nat) : Int :=
  let d : Int := (p.log2 : Int) - q.log2
  if 0 ≤ d then (if p < q * 2 ^ d.toNat then d - 1 else d)
  else (if p * 2 ^ (-d).toNat < q then d - 1 else d)

/-- p × 2^s / q to the nearest integer, ties to even. -/
def rneQ (p q : Nat) (s : Int) : Nat :=
  let n := if 0 ≤ s then p * 2 ^ s.toNat else p
  let d := if 0 ≤ s then q else q * 2 ^ (-s).toNat
  let k := n / d
  let r := n % d
  if 2 * r < d then k else if d < 2 * r then k + 1 else if k % 2 = 0 then k else k + 1

/-- m × 2^a exceeds n × 2^b. -/
def dyGt (m : Nat) (a : Int) (n : Nat) (b : Int) : Bool :=
  if b ≤ a then decide (n < m * 2 ^ (a - b).toNat) else decide (n * 2 ^ (b - a).toNat < m)

/-- ± (p / q) × 2^e rounded once to the format (R137). -/
def Fmt.roundQ (f : Fmt) (neg : Bool) (p q : Nat) (e : Int) : Num :=
  if p = 0 then .fin neg 0 f.emin
  else
    let qe := max (log2Q p q + e - f.mb) f.emin
    let m := rneQ p q (e - qe)
    if dyGt m qe f.maxM f.maxE then (if f.sat then .fin neg f.maxM f.maxE else .inf neg) else .fin neg m qe

/-- A value rounded once to the format. Infinities and NaNs stay; `encode` writes what the format has for them. -/
def Fmt.round (f : Fmt) : Num → Num
  | .fin neg m e => f.roundQ neg m 1 e
  | x => x

/-- The encoding of a value the format holds; NaN and infinity as R137 has them. -/
def Fmt.encode (f : Fmt) : Num → Nat
  | .nan => f.cnan
  | .inf neg => if f.top = .ieee then b01 neg * 2 ^ (f.eb + f.mb) + (2 ^ f.eb - 1) * 2 ^ f.mb else f.cnan
  | .fin neg m e =>
    let s := b01 neg * 2 ^ (f.eb + f.mb)
    if m = 0 then s
    else
      let l := (m.log2 : Int) + e
      if 1 - (f.bias : Int) ≤ l then
        let k := l - f.mb
        let v := if k ≤ e then m * 2 ^ (e - k).toNat else m / 2 ^ (k - e).toNat
        s + (l + f.bias).toNat * 2 ^ f.mb + v % 2 ^ f.mb
      else
        s + (if f.emin ≤ e then m * 2 ^ (e - f.emin).toNat else m / 2 ^ (f.emin - e).toNat)

/-- Convert a value to an encoding (R137). -/
def Fmt.conv (f : Fmt) (x : Num) : Nat := f.encode (f.round x)

/-- A signed integer times a power of two. -/
structure Dy where
  n : Int
  e : Int
  deriving DecidableEq, Repr

/-- Exact sum. -/
def Dy.add (a b : Dy) : Dy :=
  if a.e ≤ b.e then ⟨a.n + b.n * ((2 ^ (b.e - a.e).toNat : Nat) : Int), a.e⟩
  else ⟨a.n * ((2 ^ (a.e - b.e).toNat : Nat) : Int) + b.n, b.e⟩

/-- Exact product. -/
def Dy.mul (a b : Dy) : Dy := ⟨a.n * b.n, a.e + b.e⟩

/-- ⌊value × 2^k⌋. -/
def Dy.floorAt (a : Dy) (k : Int) : Int :=
  let s := a.e + k
  if 0 ≤ s then a.n * ((2 ^ s.toNat : Nat) : Int) else a.n / ((2 ^ (-s).toNat : Nat) : Int)

/-- a < b. -/
def Dy.lt (a b : Dy) : Bool := decide ((a.add ⟨-b.n, b.e⟩).n < 0)

/-- The signed value of a finite number. -/
def dyOf (neg : Bool) (m : Nat) (e : Int) : Dy := ⟨if neg then -(m : Int) else m, e⟩

/-- A dyadic value as a number; `zneg` is the sign of an exact zero. -/
def Dy.num (d : Dy) (zneg : Bool) : Num := if d.n = 0 then .fin zneg 0 0 else .fin (decide (d.n < 0)) d.n.natAbs d.e

/-- Sum before rounding (R136: an exact zero is +0 unless both terms are −0). -/
def Num.addExact : Num → Num → Num
  | .nan, _ => .nan
  | _, .nan => .nan
  | .inf a, .inf b => if a = b then .inf a else .nan
  | .inf a, _ => .inf a
  | _, .inf b => .inf b
  | .fin a m e, .fin b n f =>
    ((dyOf a m e).add (dyOf b n f)).num (decide (m = 0) && decide (n = 0) && a && b)

/-- Negation. -/
def Num.neg : Num → Num
  | .nan => .nan
  | .inf a => .inf (!a)
  | .fin a m e => .fin (!a) m e

/-- Exact product. -/
def Num.mulExact : Num → Num → Num
  | .nan, _ => .nan
  | _, .nan => .nan
  | .inf a, .inf b => .inf (a != b)
  | .inf a, .fin b m _ => if m = 0 then .nan else .inf (a != b)
  | .fin a m _, .inf b => if m = 0 then .nan else .inf (a != b)
  | .fin a m e, .fin b n f => .fin (a != b) (m * n) (e + f)

/-- Addition in a format. -/
def Fmt.add (f : Fmt) (a b : Num) : Num := f.round (a.addExact b)

/-- Multiplication in a format. -/
def Fmt.mul (f : Fmt) (a b : Num) : Num := f.round (a.mulExact b)

/-- a < b for numbers that are not NaN; zeros are equal. -/
def Num.lt : Num → Num → Bool
  | .nan, _ => false
  | _, .nan => false
  | .inf a, .inf b => a && !b
  | .inf a, _ => a
  | _, .inf b => !b
  | .fin a m e, .fin b n f => (dyOf a m e).lt (dyOf b n f)

/-- NaN. -/
def Num.isNan : Num → Bool
  | .nan => true
  | _ => false

/-- Neither NaN nor infinite. -/
def Num.isFin : Num → Bool
  | .fin _ _ _ => true
  | _ => false

/-- Positive zero. -/
def Num.zero : Num := .fin false 0 0

/-- One. -/
def Num.one : Num := .fin false 1 0

/-- Bits of binary32 as a value. -/
def f32 (b : Nat) : Num := fp32.decode b

/-! ### Exact sums (the long accumulator of R158, and the set sums of R147) -/

/-- The sum of many values, exactly, with the flags of R158. -/
structure Acc2 where
  sum : Dy
  nan : Bool
  pinf : Bool
  ninf : Bool
  allNegZero : Bool
  deriving DecidableEq, Repr

/-- No term yet. -/
def Acc2.start : Acc2 := ⟨⟨0, 0⟩, false, false, false, true⟩

/-- Take a term. -/
def Acc2.put (a : Acc2) (x : Num) : Acc2 :=
  match x with
  | .nan => { a with nan := true, allNegZero := false }
  | .inf true => { a with ninf := true, allNegZero := false }
  | .inf false => { a with pinf := true, allNegZero := false }
  | .fin n m e => { a with sum := if m = 0 then a.sum else a.sum.add (dyOf n m e),
                           allNegZero := a.allNegZero && n && decide (m = 0) }

/-- Read out, divided by `n`, rounded once to a format (R158). -/
def Acc2.readDiv (f : Fmt) (a : Acc2) (n : Nat) : Num :=
  if a.nan ∨ (a.pinf ∧ a.ninf) then .nan
  else if a.pinf then .inf false
  else if a.ninf then .inf true
  else if a.sum.n = 0 then .fin a.allNegZero 0 0
  else f.roundQ (decide (a.sum.n < 0)) a.sum.n.natAbs n a.sum.e

/-- Sum of a list, rounded once. -/
def sumRound (f : Fmt) (l : List Num) : Num := Acc2.readDiv f (l.foldl Acc2.put Acc2.start) 1

/-! ### Format codes (R134) and MX blocks -/

/-- Element format of a code; none for INT32 and reserved codes. -/
def elemFmt (code : Nat) : Option Fmt :=
  match code with
  | 0 => some fp32 | 1 => some bf16 | 2 => some fp16 | 3 => some e4m3 | 4 => some e5m2 | 5 => some e4m3
  | 6 => some e5m2 | 7 => some e2m3 | 8 => some e3m2 | 9 => some e2m1 | _ => none

/-- Element bits of a code. -/
def elemBits (code : Nat) : Nat :=
  match code with
  | 0 => 32 | 1 => 16 | 2 => 16 | 7 => 6 | 8 => 6 | 9 => 4 | 10 => 32 | _ => 8

/-- A block-scaled code. -/
def isMx (code : Nat) : Bool := decide (5 ≤ code ∧ code ≤ 9)

/-- emax of R138. -/
def mxEmax (code : Nat) : Int :=
  match code with
  | 5 => 8 | 6 => 15 | 7 => 2 | 8 => 4 | _ => 2

/-- The value of an MX element under its scale code (R139). -/
def mxValue (f : Fmt) (scale b : Nat) : Num :=
  if scale = 255 then .nan
  else match f.decode b with
    | .fin n m e => .fin n m (e + scale - 127)
    | x => x

/-- Magnitude as significand and exponent. -/
def magOf : Num → Nat × Int
  | .fin _ m e => (m, e)
  | _ => (0, 0)

/-- The largest magnitude. -/
def amaxOf (l : List Num) : Nat × Int :=
  l.foldl (fun a x => let b := magOf x; if dyGt b.1 b.2 a.1 a.2 then b else a) (0, 0)

/-- x / 2^X. -/
def scaleBy (x : Num) (k : Int) : Num :=
  match x with
  | .fin n m e => .fin n m (e + k)
  | x => x

/-- The scale exponent X of a block, none where the scale is 0xFF (R138). -/
def mxScale (code : Nat) (l : List Num) : Option Int :=
  if l.any fun x => !x.isFin then none
  else
    let a := amaxOf l
    if a.1 = 0 then some 0
    else some (max (-127) (min 127 ((a.1.log2 : Int) + a.2 - mxEmax code)))

/-- Quantise a block: the scale code and the element codes (R138). -/
def mxQuant (code : Nat) (l : List Num) : Nat × List Nat :=
  match mxScale code l, elemFmt code with
  | some x, some f => ((x + 127).toNat, l.map fun v => f.conv (scaleBy v (-x)))
  | _, _ => (255, l.map fun _ => 0)

/-- Pack element codes of `bits` bits (R139): 8-, 6- and 4-bit elements of a block, and wider ones in order. -/
def packElems (bits : Nat) (l : List Nat) : List Byte :=
  leBytes (ceilDiv (bits * l.length) 8)
    ((l.foldl (fun (a : Nat × Nat) v => (a.1 + (v % 2 ^ bits) * 2 ^ a.2, a.2 + bits)) (0, 0)).1)

end Sys2Proof.Machine
end

