-- ==== Sys2Proof/Machine/State.lean ====
section
/-! DEFINITION. The state of the block as plain data: every register, queue, counter and mode the manual names, and the
queue of waiting commands. Reset values follow the manual's Reset columns; the others are named in the log. -/

namespace Sys2Proof.Machine

/-- Memory: (address, byte) pairs with strictly rising addresses; an unlisted byte reads 0 (R315 for the scratchpad;
log 3 for host memory), and no 0 is listed. -/
abbrev Mem := List Host.Cell

/-- Status codes are the 16-bit codes of R76. -/
abbrev Status := Nat

/-- Reset, root-lock and boot conditions (R21, R24, R25, R55, R471). -/
structure Rst where
  aoHeld : Bool
  porHeld : Bool
  rootLost : Bool
  aoStopped : Bool
  ctlReady : Bool
  bootFail : Bool
  bootCount : Nat
  deriving DecidableEq, Repr

/-- Fuses (R449) and the stepping code. Their contents are log 8. -/
structure Fuses where
  stepping : Nat
  deviceId : Nat
  deviceSecret : Nat
  vaultChecksum : Nat
  integratorKey : Nat
  mgmtAuthorityKey : Nat
  bootPa : Nat
  rollback : Nat
  options : Nat
  deriving DecidableEq, Repr

/-- A step-bound parameter value waiting for its step (R85). -/
structure PendParam where
  id : Nat
  step : Nat
  value : Nat
  deriving DecidableEq, Repr

/-- A reply record (R66). `order` is the command's place in the order taken; `first` marks the reply that frees the
command slot (R31), `entry` the one that frees a completion entry (R65). -/
structure Reply where
  tag : Nat
  status : Status
  opcode : Nat
  final : Bool
  kt : Nat
  r0 : Nat
  r1 : Nat
  r2 : Nat
  r3 : Nat
  order : Nat
  first : Bool
  entry : Bool
  deriving DecidableEq, Repr

/-- An event record (R77); `code` without the fatal bit. -/
structure Event where
  code : Nat
  fatal : Bool
  seq : Nat
  kt : Nat
  jobTag : Nat
  slot : Nat
  slotValid : Bool
  generation : Nat
  step : Nat
  unit : Nat
  detail : Nat
  deriving DecidableEq, Repr

/-- The merge summary (R81). -/
structure MergeSum where
  count : Nat
  lastSeq : Nat
  mask : Nat
  firstSeq : Nat
  kt : Nat
  deriving DecidableEq, Repr

/-- What the host reads on one 32-byte record (R35): a reply, an event, or the header bytes of R80's second record. -/
inductive Record where
  | reply (r : Reply)
  | event (e : Event)
  | header (bytes : List Byte)
  deriving DecidableEq, Repr

/-- Why a command is held: it has not started (`after`: R68, or MEM is out of service), brace (R94), the release instant
(R90). -/
inductive HoldWhy where
  | after
  | brace
  | release
  deriving DecidableEq, Repr

/-- A held command, whole. -/
structure Held where
  why : HoldWhy
  cmd : Packet
  io : Io
  arrival : List Nat
  tiles : Nat
  verdict : Verdict
  key : KeyVerdict
  order : Nat
  deriving DecidableEq, Repr

/-- An asynchronous command whose final reply is still to come (R64). -/
structure OpenCmd where
  tag : Nat
  opcode : Nat
  order : Nat
  jobScope : Bool
  deriving DecidableEq, Repr

/-- The Latch port and the reply stream. `owed`: an EV_LATCH_PARITY whose second record is owed (R80). `beat`: the beat the
host took last, and whether kw_reply_poison went with it (R28, R35). -/
structure Latch where
  free : Nat
  order : Nat
  completions : Nat
  replies : List Reply
  parity : List (Event × List Byte)
  opened : List OpenCmd
  held : List Held
  owed : Option (Event × List Byte)
  beat : List Record
  beatPoison : Bool
  deriving DecidableEq, Repr

/-- The event queue (R81). -/
structure EvQueue where
  seq : Nat
  fatal : List Event
  waitFatal : List Event
  other : List Event
  summary : Option MergeSum
  deriving DecidableEq, Repr

/-- Job states (R90). -/
inductive JobState where
  | closed
  | opened
  | starting
  | running
  | draining
  | faulted
  deriving DecidableEq, Repr

/-- The job descriptor (R98). -/
structure JobDesc where
  nMembers : Nat
  kMax : Nat
  bMax : Nat
  hMax : Nat
  nLayers : Nat
  rxWindows : Nat
  tileFmt : Nat
  rxPool : Nat
  deterministic : Bool
  stochRound : Bool
  d : Nat
  memberVa : Nat
  krKib : Nat
  dumpVa : Nat
  dumpBytes : Nat
  seed : Nat
  deriving DecidableEq, Repr

/-- The job (R90, R99). `closeCmd` and `startCmd` are the outstanding JOB_CLOSE and JOB_START. -/
structure Job where
  st : JobState
  tag : Nat
  desc : JobDesc
  members : List Nat
  listCrc : Nat
  startCmd : Option OpenCmd
  release : Nat
  closeCmd : Option OpenCmd
  closeAbort : Bool
  closeFence : Bool
  closeDrops : Nat
  topStep : Option Nat
  lastDone : Nat
  faultKt : Nat
  deriving DecidableEq, Repr

/-- A layer image as loaded (R102), without its entries, which lie in the Keyring copies. -/
structure Layer where
  layer : Nat
  nExperts : Nat
  k : Nat
  nGroups : Nat
  gKeep : Nat
  groupRank : Bool
  norm : Nat
  gate : Bool
  renorm : Bool
  exitEn : Bool
  routerSrc : Bool
  shared : Bool
  keepBias : Bool
  inFmt : Nat
  wFmt : Nat
  biasGroup : Nat
  logitScale : Nat
  eps : Nat
  routeScale : Nat
  exitThresh : Nat
  wAddr : Nat
  gain : List Nat
  offset : List Nat
  deriving DecidableEq, Repr

/-- A layer image in the staging area with its entries (R87). -/
structure StagedLayer where
  img : Layer
  entries : List DWord
  deriving DecidableEq, Repr

/-- A function table (R176): coefficients a, b, c per segment; `id` is its identity (R180). -/
structure Table where
  index : Nat
  quadratic : Bool
  xLo : Nat
  xHi : Nat
  segs : List (Nat × Nat × Nat)
  id : Nat
  deriving DecidableEq, Repr

/-- An epoch (R87): its number, first step, layers and tables. -/
structure Epoch where
  num : Nat
  first : Nat
  layers : List Layer
  tables : List Table
  deriving DecidableEq, Repr

/-- A pending KEYRING_COMMIT (R88): `loads`, the orders of the LAYER_LOADs and TABLE_LOADs it waits for; `bad`, one of them
failed; `ready` once its loads and checks are done. -/
structure Commit where
  step : Nat
  cmd : OpenCmd
  loads : List Nat
  bad : Bool
  ready : Bool
  deriving DecidableEq, Repr

/-- Epochs, the staging area and the pending commit (R87, R88). `epochs` is newest first. -/
structure Epochs where
  num : Nat
  epochs : List Epoch
  staged : List StagedLayer
  stagedTables : List Table
  commit : Option Commit
  deriving DecidableEq, Repr

/-- One entry array of one slice copy (R105, R120). -/
structure KrArray where
  epoch : Nat
  layer : Nat
  entries : List DWord
  digest : Nat
  deriving DecidableEq, Repr

/-- One bias window (R123, R124): INT32 counts per layer; `posted` and `sums` per bias group. -/
structure BiasWin where
  w : Nat
  epoch : Nat
  cls : Nat
  closed : Bool
  frozen : Bool
  counts : List (Nat × List Nat)
  posted : List Nat
  sums : List (Nat × List Nat)
  applied : Bool
  dropped : Bool
  deriving DecidableEq, Repr

/-- A run of windows of one length (R124): first step, number of its first window, U. -/
structure WinSeg where
  step : Nat
  win : Nat
  len : Nat
  deriving DecidableEq, Repr

/-- The bias loop (R122 to R128). -/
structure Bias where
  wins : List BiasWin
  deriving DecidableEq, Repr

/-- One selected expert of a token: rank order, weight as binary32 bits (R115, R116). -/
structure Pick where
  expert : Nat
  weight : Nat
  deriving DecidableEq, Repr

/-- What stages 5 to 10 leave for a token (R115 to R117). -/
structure TokSel where
  token : Nat
  exited : Bool
  picks : List Pick
  deriving DecidableEq, Repr

/-- One copy of a token (R118, R218, R226, R234). `seq` is the last chunk's sequence number once sent. -/
structure Copy where
  token : Nat
  rank : Nat
  expert : Nat
  dest : Nat
  localSlot : Nat
  pos : Nat
  sent : Bool
  acked : Bool
  answered : Bool
  seq : Nat
  deriving DecidableEq, Repr

/-- A destination of a cancelled step (R92): whether it has acknowledged, and the return-data sequence it reported. -/
structure CancelDest where
  seat : Nat
  acked : Bool
  retSeq : Nat
  deriving DecidableEq, Repr

/-- An output row (R237, R238): its values, and its codes where the format has no blocks. -/
structure OutRow where
  vals : List Num
  codes : List Nat
  deriving DecidableEq, Repr

/-- Work of a step that a unit of a slice has set aside (R131, R151, R184). `bank`: an engine's FP32 accumulators, per token
of the block and column of the panel. `back`: the unit has gone on with it. -/
structure Aside where
  slice : Nat
  unit : WorkUnit
  bank : List (List Nat)
  back : Bool
  deriving DecidableEq, Repr

/-- Vault's counts of work not yet settled (R453, R454). -/
structure VCounts where
  tokensIn : Nat
  tokensExited : Nat
  copies : Nat
  local_ : Nat
  bytesOut : Nat
  bytesIn : Nat
  busy : Nat
  deriving DecidableEq, Repr

/-- Batch-slot states with their SNAPSHOT codes (R86, R91). -/
inductive SlotState where
  | idle
  | scored
  | dispatched
  | awaiting
  | combining
  | done
  | preempted
  | cancelled
  deriving DecidableEq, Repr

/-- The step in flight in a batch slot. `rows`, `shared`: rows taken, as values. `outs`: the combined rows, of which the
first `outPos` have been written. `aside`: work set aside. `resume`: the state a Pre-empted slot had. `digests`: stream code, digest and
bytes digested (R394, R398). -/
structure StepCtx where
  step : Nat
  layer : Nat
  nTok : Nat
  cls : Nat
  inSrc : Bool
  outDesc : Nat
  inDesc : Nat
  exitVa : Nat
  exitEn : Bool
  gen : Nat
  cmd : OpenCmd
  startKt : Nat
  epoch : Nat
  awaitCommit : Bool
  rows : List (Nat × List Num)
  shared : List (Nat × List Num)
  sels : List TokSel
  copies : List Copy
  outs : List OutRow
  outPos : Nat
  aside : List Aside
  countsSent : Bool
  cancelled : Bool
  dests : List CancelDest
  cancelCmd : Option OpenCmd
  preemptCmds : List OpenCmd
  resume : SlotState
  digests : List (Nat × Nat × Nat)
  held : VCounts
  deriving DecidableEq, Repr

/-- A batch slot. `stage` is the stage of R96 the step in flight has reached. -/
structure Slot where
  st : SlotState
  gen : Nat
  stage : Nat
  lastStep : Nat
  prevLayer : Option Nat
  exits : List Nat
  ctx : Option StepCtx
  deriving DecidableEq, Repr

/-- A work-list entry (R229). -/
structure WorkEntry where
  localSlot : Nat
  local_ : Bool
  last : Bool
  srcSeat : Nat
  count : Nat
  firstSlot : Nat
  deriving DecidableEq, Repr

/-- A copy that has landed at this destination (R227), and whether its answer-ready entry has been taken (R233). -/
structure Landed where
  hdr : TileHdr
  slotIndex : Nat
  listed : Bool
  answered : Bool
  deriving DecidableEq, Repr

/-- A source that cancelled a step (R243): `early`, its notice came before the step was reached here; `acked` once the
acknowledgement has been sent. -/
structure CancelSrc where
  msg : CancelMsg
  early : Bool
  acked : Bool
  deriving DecidableEq, Repr

/-- One source's part of a destination duty: its unsettled counts, and the sequence number of the last answer chunk sent
to it (R454). -/
structure DutySrc where
  seat : Nat
  held : VCounts
  last : Option Nat
  deriving DecidableEq, Repr

/-- The destination duty of one step number (R222 to R243). `reached`: the own STEP_RUN has been taken. `closed`: the
local slots whose last entry has been emitted. `landed` also holds the block's own local copies, whose `listed` says that
their last Spout beat has moved (R217). `ended`: a duty that was over when a notice for it came (R243). -/
structure Duty where
  step : Nat
  layer : Nat
  epoch : Nat
  reached : Bool
  counts : List CountMsg
  landed : List Landed
  closed : List Nat
  cancels : List CancelSrc
  srcs : List DutySrc
  ended : Bool
  deriving DecidableEq, Repr

/-- A packet on a Spout (R228). `tiles`: header and data of each local copy of a kind 0x12 packet. -/
structure SpoutPkt where
  spout : Nat
  kind : Nat
  slot : Nat
  generation : Nat
  step : Nat
  layer : Nat
  cls : Nat
  entries : List WorkEntry
  tiles : List (TileHdr × List Byte)
  poison : Bool
  deriving DecidableEq, Repr

/-- The transmit side of a (seat, VC) space (R257). -/
structure TxSpace where
  seat : Nat
  vc : Nat
  next : Nat
  ack : Nat
  sacks : List Nat
  deriving DecidableEq, Repr

/-- The receive side of a (seat, VC) space (R257, R259). `owed`: chunks applied and not yet acknowledged. `epoch`: the path
epoch of the last chunk applied, which an acknowledgement echoes (R264). -/
structure RxSpace where
  seat : Nat
  vc : Nat
  cum : Nat
  sacks : List Nat
  owed : List Nat
  epoch : Nat
  deriving DecidableEq, Repr

/-- A chunk not yet acknowledged (R260). `tries` counts transmissions; 0: waiting for the window. `queued`: it waits to be
sent or sent again; `placed`: on the egress queue of `link` (R262, R265). `seen`: chunks above it newly applied since it was
last sent. `again`: refused as beyond the window, sent again after the next acknowledgement (R258). -/
structure TxChunk where
  hdr : KftHdr
  payload : List Byte
  tries : Nat
  link : Nat
  lastKt : Nat
  timeout : Nat
  crcNacks : Nat
  again : Bool
  queued : Bool
  placed : Bool
  seen : List Nat
  deriving DecidableEq, Repr

/-- A frame admitted at ingress and not yet applied (R256, R277). -/
structure RxChunk where
  hinge : Nat
  link : Nat
  pcp : Nat
  hdr : KftHdr
  payload : List Byte
  deriving DecidableEq, Repr

/-- A line of the remote-read cache (R272). -/
structure RLine where
  seat : Nat
  off : Nat
  data : List Byte
  deriving DecidableEq, Repr

/-- A Ward load or atomic awaiting its response (R272 to R274), or one waiting for a store (R273, `issued` false).
`install`: no invalidation has completed since it was issued. -/
structure RLoad where
  tag : Nat
  core : Nat
  thread : Nat
  seat : Nat
  off : Nat
  size : Nat
  atomic : Bool
  aop : Nat
  a : Nat
  b : Nat
  issued : Bool
  install : Bool
  deriving DecidableEq, Repr

/-- A Ward store not yet acknowledged (R273, R307): `last` is the sequence number of its last chunk. -/
structure RStore where
  core : Nat
  thread : Nat
  seat : Nat
  off : Nat
  len : Nat
  last : Nat
  deriving DecidableEq, Repr

/-- A fence (R268): its command and the fence points (seat, VC, seq) still open. -/
structure Fence where
  cmd : Option OpenCmd
  points : List (Nat × Nat × Nat)
  deriving DecidableEq, Repr

/-- A flag store held at its home seat (R271). -/
structure FlagHeld where
  src : Nat
  seq : Nat
  epoch : Nat
  off : Nat
  data : List Byte
  deriving DecidableEq, Repr

/-- The instants of a link's misses for a destination (R263). -/
structure Miss where
  link : Nat
  dst : Nat
  times : List Nat
  deriving DecidableEq, Repr

/-- Path state per destination (R262, R264): epoch, the last link used. -/
structure Path where
  dst : Nat
  epoch : Nat
  last : Nat
  deriving DecidableEq, Repr

/-- A Ward thread's result register, as the Ward instruction that completed left it (R307). -/
structure WardRes where
  core : Nat
  thread : Nat
  data : List Byte
  deriving DecidableEq, Repr

/-- An ack or nack frame that waits for a link, or for the priority of VC5 on its link (R259, R267). -/
structure CtlWait where
  hdr : KftHdr
  placed : Option Nat
  deriving DecidableEq, Repr

/-- A frame as sent on a link: Ethernet header, tag, EtherType and KFT header (R253), and the payload's bytes. -/
structure Wire where
  link : Nat
  head : List Byte
  length : Nat
  deriving DecidableEq, Repr

/-- A whole message, reassembled by offset, and the sequence numbers of its chunks, whose cells hold it (R255, R258). -/
structure Message where
  src : Nat
  vc : Nat
  seqs : List Nat
  bytes : List Byte
  deriving DecidableEq, Repr

/-- A VC2 answer of several chunks: whether its return slot takes it, and its chunks still to come (R234). -/
structure AnswerMsg where
  src : Nat
  seq : Nat
  take : Bool
  left : Nat
  deriving DecidableEq, Repr

/-- A remote copy of a step that ended as cancelled, sent and not yet acknowledged: its send cell is still counted (R217). -/
structure TileAck where
  slot : Nat
  step : Nat
  token : Nat
  dst : Nat
  seq : Nat
  deriving DecidableEq, Repr

/-- The fabric transport. `ctl`: ack and nack frames sent; `ctlWait`: those that wait. `wire`: the last 64 frames sent, oldest first. `msgs`: applied chunks of messages not yet whole; `inbox`: whole messages
their rows have not taken. -/
structure Kft where
  tx : List TxSpace
  rx : List RxSpace
  unacked : List TxChunk
  ingress : List RxChunk
  ctl : List KftHdr
  ctlWait : List CtlWait
  wire : List Wire
  msgs : List RxChunk
  inbox : List Message
  answers : List AnswerMsg
  tileAcks : List TileAck
  paths : List Path
  misses : List Miss
  unusable : List (Nat × Nat)
  fences : List Fence
  flags : List FlagHeld
  rcache : List RLine
  loads : List RLoad
  stores : List RStore
  loadTag : Nat
  ward : List WardRes
  deriving DecidableEq, Repr

/-- Link states with their codes (R252). -/
inductive LinkState where
  | off
  | training
  | aligning
  | up
  | down
  | quiescing
  deriving DecidableEq, Repr

/-- One link: its state, the instants it entered Down in the last 60 s, its doubled holdoff in ns (0: the set value),
whether its alignment markers have been found, and whether its partner reports a fault. -/
structure Link where
  st : LinkState
  downs : List Nat
  holdoff : Nat
  markers : Bool
  fault : Bool
  deriving DecidableEq, Repr

/-- One lane (R49 to R53). -/
structure Lane where
  rate : Nat
  trainReq : Bool
  trained : Bool
  lock : Bool
  eye : Nat
  eyeTrained : Nat
  deriving DecidableEq, Repr

/-- A PTP message sent: its type, its transmit timestamp in 64ths of a KT tick, domain, priority (none: untagged) and clock
identity (R279, R280). -/
structure PtpSent where
  kind : Nat
  stamp : Int
  domain : Nat
  pcp : Option Nat
  clockId : Nat
  deriving DecidableEq, Repr

/-- PTP (R280, R281). `delay` and the last sync difference are the servo's own. -/
structure Ptp where
  role : Nat
  delayMech : Bool
  domain : Nat
  hinge : Nat
  link : Nat
  backup : Nat
  logSync : Nat
  logDelay : Nat
  pcp : Nat
  tagged : Bool
  lockNs : Nat
  alarmNs : Nat
  clockId : Nat
  locked : Bool
  good : Nat
  bad : Nat
  missed : Nat
  offset : Int
  delay : Int
  alarmed : Bool
  sent : List PtpSent
  slewGap : Nat
  slewHeld : Bool
  deriving DecidableEq, Repr

/-- The start barrier and leaf calibration (R384 to R388). Calibration exchanges are (t1, t2, t3, t4). -/
structure Barrier where
  early : List Notice
  cls : Nat
  reports : List Nat
  go : Bool
  reported : Bool
  cal : List (Nat × Nat × Nat × Nat)
  offset : Option Int
  calFrom : List (Nat × Nat)
  deriving DecidableEq, Repr

/-- A collective group (R286 to R290). Extents, strides and switch levels of levels 1 to 3. -/
structure Group where
  num : Nat
  nLevels : Nat
  extents : List Nat
  sw : List Nat
  chunk : Nat
  bufs : Nat
  planeMask : Nat
  members : List Nat
  defCrc : Nat
  hostSeq : Nat
  deriving DecidableEq, Repr

/-- A sum this member holds: `key` 0 for the length round and c + 1 for chunk c; `level` 0 for its own contribution, L for
the level-L sum, 4 for the total; wire codes; the KT at which it held it (R296, R302). -/
structure CollPart where
  key : Nat
  level : Nat
  vals : List Nat
  kt : Nat
  deriving DecidableEq, Repr

/-- A collective operation (R291 to R305). `desc` is the 64-byte descriptor; `io` how the memory port answers its reads;
`own` its contribution as wire codes; `agreed` the length; `charges` per level (level, seat, ticks). `counts`, for a loop
sum: the window's layers and their counts. -/
structure CollOp where
  group : Nat
  loopQ : Bool
  seq : Nat
  cmd : Option OpenCmd
  cls : Nat
  desc : Nat
  io : Io
  wide : Bool
  crc : Bool
  residue : Bool
  dynamic : Bool
  fmt : Nat
  own : List Nat
  running : Bool
  agreed : Option Nat
  parts : List CollPart
  charges : List (Nat × Nat × Nat)
  thresh : Nat
  counts : List (Nat × Nat)
  deriving DecidableEq, Repr

/-- A collective chunk in a staging buffer, with the KT at which it landed; `adderBad`: the adder's residue check will find
an error in its addition (R299 to R302). -/
structure Staged where
  hdr : CollHdr
  data : List Byte
  landed : Nat
  adderBad : Bool
  deriving DecidableEq, Repr

/-- A chunk ready to leave (R299). Its send cell is that of `sending num`. -/
structure Outgoing where
  num : Nat
  dst : Nat
  hdr : CollHdr
  data : List Byte
  deriving DecidableEq, Repr

/-- A count per edge (R299). -/
structure EdgeCount where
  edge : Edge
  count : Nat
  deriving DecidableEq, Repr

/-- A staging buffer whose data has been taken: it is free once the chunks `nums` made from it have their send cells (R299). -/
structure BufHeld where
  edge : Edge
  nums : List Nat
  deriving DecidableEq, Repr

/-- The collective unit. `sent` and `credits`: chunks sent and credits returned on each outgoing edge; `freed`: buffers
freed and not yet credited on each incoming edge; `busy`: buffers not yet free; `waiting`: chunks ready to leave, which
`nextNum` numbers; `retired`: the last operation retired per group and queue. -/
structure Coll where
  groups : List Group
  ops : List CollOp
  staged : List Staged
  sent : List EdgeCount
  credits : List EdgeCount
  freed : List EdgeCount
  busy : List BufHeld
  waiting : List Outgoing
  nextNum : Nat
  retired : List (Nat × Bool × Nat)
  lagSeat : Nat
  lagTicks : Nat
  stallGroup : List Nat
  deriving DecidableEq, Repr

/-- One Carafe pool (R319 to R323): `free` is the free list, head first. -/
structure Pool where
  base : Nat
  cells : Nat
  free : List Nat
  deriving DecidableEq, Repr

/-- What a held cell serves: a send tile of a step (R217), an operand row in the staging area (R144), a row held or a shared
row (R108, R235), a count message or a cancel notice held (R222, R243), a collective chunk about to be sent or being sent (R299), a frame held
(R245, R277), Pour's staging and its prefetch (R375), or nothing known, the entry having been lost (R326). -/
inductive CellUse where
  | tile (slot step token : Nat)
  | staging (slot step token : Nat)
  | notice (seat step : Nat)
  | held (slot step token : Nat)
  | shared (slot step token : Nat)
  | group (num : Nat)
  | message (seat seq : Nat)
  | sending (num : Nat)
  | send (seat seq : Nat)
  | arrival (seat vc seq : Nat)
  | pour (ch : Nat)
  | prefetch
  | unknown
  deriving DecidableEq, Repr

/-- A held cell of the side table (R323, R325). -/
structure CellHeld where
  pool : Nat
  addr : Nat
  owner : Nat
  ref : Nat
  use : CellUse
  deriving DecidableEq, Repr

/-- A waiting Carafe request (R324). -/
structure CellWait where
  owner : Nat
  bytes : Nat
  cls : Nat
  ref : Nat
  use : CellUse
  since : Nat
  deriving DecidableEq, Repr

/-- Carafe. `runs`: free runs (pool, VA, cells) of the host pools in ascending VA (R327). `lost`: cells (pool, address) whose
side-table entry is lost (R326). -/
structure Carafe where
  pools : List Pool
  cells : List CellHeld
  waits : List CellWait
  runs : List (Nat × Nat × Nat)
  jobRuns : List (Nat × Nat × Nat)
  lost : List (Nat × Nat)
  deriving DecidableEq, Repr

/-- A cached translation (R337): context, page base VA, page bytes, page base PA, read, write. -/
structure Tlb where
  ctx : Nat
  va : Nat
  bytes : Nat
  pa : Nat
  read : Bool
  write : Bool
  deriving DecidableEq, Repr

/-- A cached upper-level entry (R337): the table of `level` that serves the VAs with prefix `va`. -/
structure Upper where
  ctx : Nat
  level : Nat
  va : Nat
  pa : Nat
  deriving DecidableEq, Repr

/-- Who waits for a memory-port request (R47). -/
inductive Requester where
  | stepRow (slot step token : Nat)
  | outRow (slot step : Nat)
  deriving DecidableEq, Repr

/-- A memory-port request and the physical bytes it names (R43, R44, R48). -/
structure MReq where
  write : Bool
  channel : Nat
  id : Nat
  cls : Nat
  pa : Nat
  len : Nat
  who : Requester
  deriving DecidableEq, Repr

/-- An MMU_INVAL or MMU_UNMAP and what it still waits for (R338, R374): requests, running Pour channels, tensor commands (by
their order), and, for the job context's MMU_UNMAP, channels of that context. -/
structure MmuWait where
  cmd : OpenCmd
  reqs : List MReq
  pours : List Nat
  tensors : List Nat
  unmapJob : Bool
  deriving DecidableEq, Repr

/-- Keyway (R333 to R341). -/
structure Keyway where
  root0 : Option Nat
  root1 : Option Nat
  tlb : List Tlb
  upper : List Upper
  lastFault : Nat
  retire : List MmuWait
  deriving DecidableEq, Repr

/-- The memory port. `wait`: requests that have no free identifier yet. -/
structure Mport where
  out : List MReq
  wait : List MReq
  quar : List (Bool × Nat × Nat)
  deriving DecidableEq, Repr

/-- A tile of a tensor command (R211): the physical runs (address, bytes) it writes, what it writes there, and by how much it
raises the count of bytes or rows written (R212). -/
structure TTile where
  runs : List (Nat × Nat)
  bytes : List Byte
  count : Nat
  deriving DecidableEq, Repr

/-- A tensor command that has started and was set aside, with the tiles it still has to write, the bytes or rows written so far
and the result words it will end with; or one that waits behind another of its class: `queued` (R210 to R212). -/
structure TensorRun where
  cmd : OpenCmd
  cls : Nat
  queued : Option Held
  tiles : List TTile
  done : Nat
  r0 : Nat
  r1 : Nat
  deriving DecidableEq, Repr

/-- One bank of the operand buffers, which hold the same rows in every slice (R144 to R146): the operand rows of a token
block, as block scales and codes. -/
structure OpBank where
  slot : Nat
  step : Nat
  block : Nat
  rows : List (List Nat × List Nat)
  deriving DecidableEq, Repr

/-- Pour channel states and codes (R369). -/
inductive PourState where
  | idle
  | armed
  | running
  | suspended
  | parked
  | cancelling
  | done
  | stopped
  deriving DecidableEq, Repr

/-- An open LOOP (R355): index of the LOOP, body length, count, iteration, steps. -/
structure PourLoop where
  at_ : Nat
  body : Nat
  count : Nat
  iter : Nat
  srcStep : Int
  dstStep : Int
  deriving DecidableEq, Repr

/-- A Pour channel (R345, R346). `read`: the descriptor has been read. `hold`: it holds its pipe. `pos`: bytes of the
current instruction done, at a granule boundary. `hit`: the current CMP has found a difference. `busy`: an instruction has
issued its accesses and awaits its responses (R361). `waiting`: in WAIT, its condition not met since `waitFrom`; `insn`: that
WAIT (R358). `wb`: the
write-back is in progress. `ready`: its place in the order in which channels became ready. -/
structure PourCh where
  st : PourState
  prio : Nat
  cmd : Option OpenCmd
  abortCmds : List OpenCmd
  descVa : Nat
  ctx : Nat
  cls : Nat
  progVa : Nat
  pc : Nat
  pos : Nat
  hit : Bool
  loops : List PourLoop
  bytes : Nat
  mismatches : Nat
  firstMismatch : Nat
  status : Status
  faultVa : Nat
  pending : Option Nat
  read : Bool
  hold : Bool
  busy : Bool
  waiting : Bool
  waitFrom : Option Nat
  insn : List Byte
  wb : Bool
  ready : Nat
  deriving DecidableEq, Repr

/-- Pour: the channels, the bus-error drain of R364, and the ready counter. -/
structure Pour where
  ch : List PourCh
  drain : Bool
  readySeq : Nat
  deriving DecidableEq, Repr

/-- A record of the record ring (R394) waiting to be written. -/
structure RecEnt where
  kind : Nat
  full : Bool
  poison : Bool
  source : Nat
  link : Nat
  kt : Nat
  seq : Nat
  crc : Nat
  origBytes : Nat
  context : Nat
  payload : List Byte
  deriving DecidableEq, Repr

/-- The record ring (R392 to R395). `lossFirst`, `lossLast`: KT of the first and last record lost. -/
structure Rec where
  head : Nat
  seq : Nat
  lost : Nat
  status : Nat
  buf : List RecEnt
  lossCount : Nat
  lossFirst : Nat
  lossLast : Nat
  deriving DecidableEq, Repr

/-- A Drip record (R487). -/
structure DripRec where
  kind : Nat
  slot : Nat
  slotValid : Bool
  unit : Nat
  kt : Nat
  step : Nat
  generation : Nat
  payload : Nat
  deriving DecidableEq, Repr

/-- Drip (R482 to R488). -/
structure Drip where
  enable : Bool
  base : Nat
  size : Nat
  kindMask : Nat
  unitMask : Nat
  sampleUs : Nat
  sel : List Nat
  head : Nat
  lost : Nat
  status : Nat
  buf : List DripRec
  lossCount : Nat
  lossFirst : Nat
  lossLast : Nat
  deriving DecidableEq, Repr

/-- Domain states and codes (R414). -/
inductive DomState where
  | inService
  | fencing
  | draining
  | inReset
  | rejoining
  deriving DecidableEq, Repr

/-- A reset domain. `cmds`: the DOMAIN_RESET commands this reset ends. `again`, `againCmds`: a trigger recorded while
Rejoining and its commands. `left`: requests left at the drain deadline. `kept`: the counters at the fence, with its KT and
the packets taken until then (R86, R489). -/
structure Dom where
  st : DomState
  trigger : Nat
  cmds : List OpenCmd
  again : Option Nat
  againCmds : List OpenCmd
  left : Nat
  kept : List (Nat × Nat)
  keptKt : Nat
  keptOrder : Nat
  deriving DecidableEq, Repr

/-- Escalation (R425, R426), in AO. -/
structure Esc where
  resets : List Nat
  steps : List Nat
  deriving DecidableEq, Repr

/-- A retention-log entry (R418). -/
structure LogEnt where
  kind : Nat
  bootCount : Nat
  seq : Nat
  kt : Nat
  body : Nat
  deriving DecidableEq, Repr

/-- A write to AO storage that waits while AO writes are stopped (R25, R55), beside log entries: a history record of the ledger
(R447), the margin step, the end of the advisory (R426), a dump header (R419), a counted reset and its KT (R425). -/
inductive AoWrite where
  | ledger (rec_ : Nat)
  | step (n : Nat)
  | advisory
  | header (b : List Byte)
  | reset (kt : Nat)
  deriving DecidableEq, Repr

/-- The crash dump (R420 to R423): `active` while in progress; the sampled sections; the last header. -/
structure Dump where
  wanted : Bool
  active : Bool
  region : Nat
  ctx : Nat
  bytes : Nat
  sections : List (Nat × List Byte)
  fault : Event
  key : Nat
  kt : Nat
  written : Nat
  status : Nat
  header : List Byte
  seq : Nat
  deriving DecidableEq, Repr

/-- Brace states and codes (R434). -/
inductive BraceState where
  | normal
  | bracing
  | sealing
  | braced
  | resetWarned
  deriving DecidableEq, Repr

/-- Phases of a margin plan (R442). -/
inductive PlanPhase where
  | none
  | raise
  | unskip
  | raiseMargin
  | lower
  | lowerCheck
  | links
  | linkWait
  | skip
  | safest
  deriving DecidableEq, Repr

/-- The margin planner, ledger and monitors (R439 to R447), in AO. -/
structure Plan where
  s : Nat
  exhausted : Bool
  vddReq : Nat
  vddPrev : Nat
  vddAck : Bool
  skipPlan : Nat
  plans : Nat
  lastKt : Nat
  slack : List Nat
  baseline : List Nat
  baselineVdd : Nat
  ceiling : Nat
  roBase : List Nat
  roNow : List Nat
  history : List Nat
  historyHead : Nat
  phase : PlanPhase
  cause : Nat
  changedSkip : Bool
  changedVdd : Bool
  retrained : Bool
  linkAt : Nat
  pending : List Nat
  margins : List Nat
  eyes : List Nat
  deriving DecidableEq, Repr

/-- The power-status port and the brace controller (R54 to R57, R434 to R437). `warn`: the warning is held; `holdoff`: the
hold-off timer runs; `cleared`: it has completed and Braced is awaited; `resetPin`: kw_pwr_reset is high. -/
structure Power where
  brace : BraceState
  entryKt : Nat
  entryVin : Nat
  warn : Bool
  holdoff : Bool
  cleared : Bool
  resetPin : Bool
  throttle : Nat
  skipInForce : Nat
  deriving DecidableEq, Repr

/-- A Vault period record (R456, R461). -/
structure VPeriod where
  num : Nat
  jobTag : Nat
  ktOpen : Nat
  ktClose : Nat
  inconsistent : Bool
  recovered : Bool
  fresh : Bool
  ord : VCounts
  canc : VCounts
  deriving DecidableEq, Repr

/-- A Vault copy (R458). -/
structure VCopy where
  seq : Nat
  period : VPeriod
  readingSeq : Nat
  held : VCounts
  good : Bool
  deriving DecidableEq, Repr

/-- Vault (R451 to R468), in AO. -/
structure Vault where
  cur : VPeriod
  readingSeq : Nat
  writeSeq : Nat
  copies : List VCopy
  closed : List VPeriod
  status : Nat
  sealBroken : Bool
  checksum : Nat
  nonces : Nat
  nonceSeq : Nat
  owed : Bool
  busyHeld : Nat
  waiting : List Held
  deriving DecidableEq, Repr

/-- A firmware image in the store (R469). -/
structure FwImage where
  version : Nat
  svn : Nat
  image : List Byte
  deriving DecidableEq, Repr

/-- The firmware store (R471 to R475). `chunks`: a management staging in progress (R477). -/
structure Fw where
  ctl : Option FwImage
  ward : Option FwImage
  stagedCtl : Option FwImage
  stagedWard : Option FwImage
  chunks : List (Nat × List Byte)
  deriving DecidableEq, Repr

/-- A management response (R476, R477). -/
structure MgmtResp where
  seat : Nat
  reqId : Nat
  kind : Nat
  status : Status
  body : List Byte
  deriving DecidableEq, Repr

/-- Management and its associations (R477 to R480): association number, next packet number, recorded mark, newest first.
`sent`: responses with the link each left on. `nextPn`: the next packet number to be received, per association (R282).
`waiting`: requests that wait for a nonce pair, and those behind them. -/
structure Mgmt where
  cache : List MgmtResp
  sent : List (Nat × MgmtResp)
  waiting : List (MgmtReq × Verdict)
  assocs : List (Nat × Nat × Nat)
  nextPn : List (Nat × Nat)
  lastInstall : Nat
  keyStatus : Nat
  deriving DecidableEq, Repr

/-- The block. -/
@[ext]
structure State where
  pending : List Instr
  freeCtr : Nat
  rst : Rst
  kt : Nat
  fuses : Fuses
  params : List (Nat × Nat)
  pendParams : List PendParam
  counters : List (Nat × Nat)
  latch : Latch
  ev : EvQueue
  job : Job
  slots : List Slot
  opBanks : List OpBank
  tensors : List TensorRun
  duties : List Duty
  spout : List SpoutPkt
  funnelHeld : List (Nat × FunnelPkt)
  ep : Epochs
  keyring : List (List KrArray)
  keyringBad : List (Nat × Nat × Nat)
  bias : Bias
  kft : Kft
  links : List Link
  lanes : List Lane
  pfcPaused : List (Nat × Nat)
  pfcSent : List (Nat × Nat)
  ptp : Ptp
  barrier : Barrier
  coll : Coll
  carafe : Carafe
  sp : Mem
  spPoison : List Nat
  hostMem : Mem
  keyway : Keyway
  mport : Mport
  pour : Pour
  recRing : Rec
  drip : Drip
  doms : List Dom
  esc : Esc
  rlog : List LogEnt
  rlogSeq : Nat
  rlogWait : List LogEnt
  aoWait : List AoWrite
  dump : Dump
  pwr : Power
  plan : Plan
  vault : Vault
  fw : Fw
  mgmt : Mgmt
  deriving DecidableEq, Repr

/-- Where the manual guarantees no behaviour. -/
inductive Fault where
  /-- Raised by every command but the two reset assertions after kw_root_lock has fallen (R25: "Kwaing guarantees no
  other behaviour until kw_por_n and kw_ao_por_n have been asserted"). Safe. -/
  | rootLockLost
  deriving DecidableEq, Repr

/-- Commands the model refuses. -/
inductive Refusal where
  /-- Raised by the arm of a command that has no meaning yet. Safe. -/
  | notModelled (mnemonic : String)
  deriving DecidableEq, Repr

/-- No counts. -/
def VCounts.zero : VCounts := ⟨0, 0, 0, 0, 0, 0, 0⟩

/-- A descriptor of no job. -/
def JobDesc.zero : JobDesc := ⟨0, 0, 0, 0, 0, 0, 0, 0, false, false, 0, 0, 0, 0, 0, 0⟩

/-- The job state at reset: Closed. -/
def Job.zero : Job :=
  { st := .closed, tag := 0, desc := JobDesc.zero, members := [], listCrc := 0, startCmd := none, release := 0,
    closeCmd := none, closeAbort := false, closeFence := false, closeDrops := 0, topStep := none, lastDone := 0,
    faultKt := 0 }

/-- An Idle slot of generation 0. -/
def Slot.idle : Slot :=
  { st := .idle, gen := 0, stage := 0, lastStep := 0, prevLayer := none, exits := [], ctx := none }

/-- An Idle Pour channel. -/
def PourCh.idle : PourCh :=
  { st := .idle, prio := 0, cmd := none, abortCmds := [], descVa := 0, ctx := 0, cls := 0, progVa := 0, pc := 0, pos := 0,
    hit := false, loops := [], bytes := 0, mismatches := 0, firstMismatch := 0, status := 0, faultVa := 0,
    pending := none, read := false, hold := false, busy := false, waiting := false, waitFrom := none, insn := [], wb := false,
    ready := 0 }

/-- A link that is Off. -/
def Link.reset : Link := { st := .off, downs := [], holdoff := 0, markers := false, fault := false }

/-- A powered-down lane. -/
def Lane.reset : Lane :=
  { rate := 0, trainReq := false, trained := false, lock := false, eye := 0, eyeTrained := 0 }

/-- A disabled pool. -/
def Pool.none : Pool := { base := 0, cells := 0, free := [] }

/-- A domain in service. -/
def Dom.reset : Dom :=
  { st := .inService, trigger := 0, cmds := [], again := Option.none, againCmds := [], left := 0, kept := [], keptKt := 0,
    keptOrder := 0 }

/-- An event record of zeros. -/
def Event.zero : Event :=
  { code := 0, fatal := false, seq := 0, kt := 0, jobTag := 0, slot := 0, slotValid := false, generation := 0,
    step := 0, unit := 0, detail := 0 }

/-- No dump taken. -/
def Dump.zero : Dump :=
  { wanted := false, active := false, region := 0, ctx := 0, bytes := 0, sections := [], fault := Event.zero, key := 0, kt := 0,
    written := 0, status := 0, header := [], seq := 0 }

/-- A period record of zeros. -/
def VPeriod.zero : VPeriod :=
  { num := 0, jobTag := 0, ktOpen := 0, ktClose := 0, inconsistent := false, recovered := false, fresh := false,
    ord := VCounts.zero, canc := VCounts.zero }

/-- Transport state with no job (R257, R264). -/
def Kft.reset : Kft :=
  { tx := [], rx := [], unacked := [], ingress := [], ctl := [], ctlWait := [], wire := [], msgs := [], inbox := [], answers := [], tileAcks := [], paths := [], misses := [],
    unusable := [], fences := [], flags := [], rcache := [], loads := [], stores := [], loadTag := 0, ward := [] }

/-- No collective state. -/
def Coll.reset : Coll :=
  { groups := [], ops := [], staged := [], sent := [], credits := [], freed := [], busy := [], waiting := [], nextNum := 0, retired := [],
    lagSeat := 0, lagTicks := 0, stallGroup := [0, 0, 0] }

/-- The barrier at rest. -/
def Barrier.reset : Barrier :=
  { early := [], cls := 0, reports := [], go := false, reported := false, cal := [], offset := none, calFrom := [] }

/-- PTP free-running (log 17). -/
def Ptp.reset : Ptp :=
  { role := 0, delayMech := false, domain := 0, hinge := 0, link := 0, backup := 0, logSync := 0, logDelay := 0,
    pcp := 0, tagged := false, lockNs := 0, alarmNs := 0, clockId := 0, locked := false, good := 0, bad := 0,
    missed := 0, offset := 0, delay := 0, alarmed := false, sent := [], slewGap := 0, slewHeld := false }

/-- The ledger and planner at reset (R447). -/
def Plan.reset : Plan :=
  { s := 0, exhausted := false, vddReq := 50, vddPrev := 50, vddAck := false, skipPlan := 0, plans := 0, lastKt := 0,
    slack := [0, 0, 0, 0], baseline := [0, 0, 0, 0], baselineVdd := 0, ceiling := 70, roBase := [], roNow := [],
    history := [], historyHead := 0, phase := .none, cause := 0, changedSkip := false, changedVdd := false,
    retrained := false, linkAt := 0, pending := [], margins := [], eyes := [] }

/-- Power status at reset. -/
def Power.reset : Power :=
  { brace := .normal, entryKt := 0, entryVin := 0, warn := false, holdoff := false, cleared := false, resetPin := false,
    throttle := 0, skipInForce := 0 }

/-- Vault before its first release of kw_ao_por_n: no copy is good (R460). -/
def Vault.reset : Vault :=
  { cur := VPeriod.zero, readingSeq := 0, writeSeq := 0, copies := [], closed := [], status := 0, sealBroken := false,
    checksum := 0, nonces := 0, nonceSeq := 0, owed := false, busyHeld := 0, waiting := [] }

/-- The Latch at reset: no slot free, nothing waiting. -/
def Latch.reset : Latch :=
  { free := 0, order := 0, completions := 0, replies := [], parity := [], opened := [], held := [], owed := none, beat := [], beatPoison := false }

/-- The event queue at reset. -/
def EvQueue.reset : EvQueue := { seq := 0, fatal := [], waitFatal := [], other := [], summary := none }

/-- Carafe with every pool disabled. -/
def Carafe.reset : Carafe := { pools := List.replicate 8 Pool.none, cells := [], waits := [], runs := [], jobRuns := [], lost := [] }

/-- The record ring at reset. -/
def Rec.reset : Rec :=
  { head := 0, seq := 0, lost := 0, status := 0, buf := [], lossCount := 0, lossFirst := 0, lossLast := 0 }

/-- Drip at reset. -/
def Drip.reset : Drip :=
  { enable := false, base := 0, size := 0, kindMask := 0, unitMask := 0, sampleUs := 0, sel := [], head := 0, lost := 0,
    status := 0, buf := [], lossCount := 0, lossFirst := 0, lossLast := 0 }

/-- The machine with kw_ao_por_n and kw_por_n both asserted (R21; log 2). A program of commands comes to run after
AO_POR_RELEASE and POR_RELEASE_BOOT. -/
def State.reset : State :=
  { pending := [], freeCtr := 0,
    rst := { aoHeld := true, porHeld := true, rootLost := false, aoStopped := false, ctlReady := false,
             bootFail := false, bootCount := 0 },
    kt := 0,
    fuses := { stepping := 0x11, deviceId := 0, deviceSecret := 0, vaultChecksum := 0, integratorKey := 0,
               mgmtAuthorityKey := 0, bootPa := 0, rollback := 0, options := 2 },
    params := [], pendParams := [], counters := [], latch := Latch.reset, ev := EvQueue.reset, job := Job.zero,
    slots := List.replicate 64 Slot.idle, opBanks := [], tensors := [], duties := [], spout := [], funnelHeld := [],
    ep := { num := 0, epochs := [], staged := [], stagedTables := [], commit := none },
    keyring := [[], [], [], []], keyringBad := [],
    bias := { wins := [] },
    kft := Kft.reset, links := List.replicate 32 Link.reset, lanes := List.replicate 64 Lane.reset, pfcPaused := [], pfcSent := [],
    ptp := Ptp.reset, barrier := Barrier.reset, coll := Coll.reset, carafe := Carafe.reset, sp := [], spPoison := [],
    hostMem := [], keyway := { root0 := none, root1 := none, tlb := [], upper := [], lastFault := 0, retire := [] },
    mport := { out := [], wait := [], quar := [] },
    pour := { ch := List.replicate 32 PourCh.idle, drain := false, readySeq := 0 },
    recRing := Rec.reset, drip := Drip.reset, doms := List.replicate 14 Dom.reset, esc := { resets := [], steps := [] },
    rlog := [], rlogSeq := 0, rlogWait := [], aoWait := [], dump := Dump.zero, pwr := Power.reset, plan := Plan.reset, vault := Vault.reset,
    fw := { ctl := none, ward := none, stagedCtl := none, stagedWard := none, chunks := [] },
    mgmt := { cache := [], sent := [], waiting := [], assocs := [], nextPn := [], lastInstall := 0, keyStatus := 7 } }

end Sys2Proof.Machine
end

