-- ==== Sys2Proof/Machine/Params.lean ====
section
/-! DEFINITION. The parameter map (R495): width, access, scope and reset value of every ID, the ranges of R494, and the
value a parameter holds. -/

namespace Sys2Proof.Machine

/-- Access codes of R13's table. -/
inductive Acc where
  | ro
  | rw
  | wo
  deriving DecidableEq, Repr

/-- Scopes of R495: B, J, J*, AO. -/
inductive Scope where
  | block
  | job
  | bound
  | ao
  deriving DecidableEq, Repr

/-- A row of R495. -/
structure PInfo where
  bits : Nat
  scope : Scope
  acc : Acc
  reset : Nat
  deriving DecidableEq, Repr

/-- The rows of R495 that name one ID. -/
def paramRows0 : List (Nat × PInfo) :=
  [(0x0000, ⟨24, .block, .ro, 0⟩), (0x0001, ⟨16, .block, .rw, 0⟩), (0x0002, ⟨64, .block, .ro, 0⟩),
   (0x0003, ⟨16, .block, .ro, 0⟩), (0x0008, ⟨64, .block, .ro, 0⟩), (0x0009, ⟨32, .block, .ro, 0⟩),
   (0x000A, ⟨32, .block, .ro, 0⟩), (0x0018, ⟨11, .job, .ro, 0⟩), (0x0019, ⟨1, .bound, .rw, 0⟩),
   (0x0020, ⟨16, .ao, .ro, 0x0100⟩), (0x0021, ⟨32, .ao, .ro, 0⟩), (0x0022, ⟨16, .ao, .ro, 0⟩),
   (0x0023, ⟨48, .block, .rw, 0⟩), (0x0028, ⟨32, .block, .ro, 0⟩), (0x0029, ⟨32, .block, .ro, 0⟩),
   (0x002A, ⟨2, .block, .ro, 0⟩), (0x002B, ⟨8, .block, .ro, 0⟩), (0x002C, ⟨32, .block, .wo, 0⟩)]

/-- Power and clock rows. -/
def paramRows1 : List (Nat × PInfo) :=
  [(0x0100, ⟨1, .block, .rw, 1⟩), (0x0101, ⟨8, .block, .rw, 8⟩), (0x0102, ⟨24, .block, .rw, 250000⟩),
   (0x0103, ⟨27, .block, .rw, 1000000⟩), (0x0104, ⟨6, .block, .ro, 0⟩), (0x0105, ⟨6, .block, .ro, 0⟩),
   (0x0106, ⟨3, .block, .ro, 0⟩), (0x0118, ⟨8, .block, .rw, 24⟩), (0x0119, ⟨8, .block, .rw, 8⟩),
   (0x011A, ⟨8, .block, .rw, 8⟩), (0x011B, ⟨8, .block, .rw, 30⟩), (0x011C, ⟨8, .block, .rw, 70⟩),
   (0x011D, ⟨8, .block, .rw, 12⟩), (0x011E, ⟨8, .block, .rw, 2⟩), (0x011F, ⟨8, .block, .rw, 24⟩),
   (0x0120, ⟨8, .block, .rw, 16⟩), (0x0121, ⟨8, .block, .rw, 32⟩), (0x0122, ⟨8, .block, .rw, 16⟩),
   (0x0123, ⟨56, .block, .rw, 2592000000000000⟩)]

/-- Hinge-wide, transport and management rows. -/
def paramRows2 : List (Nat × PInfo) :=
  [(0x0300, ⟨8, .block, .rw, 0⟩), (0x0301, ⟨18, .block, .rw, 0x000318D7⟩),
   (0x0302, ⟨40, .block, .rw, 0x002010304040⟩), (0x0303, ⟨30, .block, .rw, 1000000⟩),
   (0x0304, ⟨16, .block, .rw, 64⟩), (0x0305, ⟨16, .block, .rw, 0x88B5⟩), (0x0306, ⟨5, .block, .rw, 0⟩),
   (0x0307, ⟨7, .block, .rw, 16⟩), (0x0308, ⟨3, .ao, .ro, 7⟩), (0x0340, ⟨16, .job, .rw, 0⟩),
   (0x0341, ⟨27, .job, .rw, 0⟩), (0x0342, ⟨14, .job, .rw, 8192⟩), (0x0343, ⟨9, .job, .rw, 256⟩),
   (0x0344, ⟨14, .bound, .rw, 1000⟩), (0x0345, ⟨24, .bound, .rw, 20000⟩), (0x0346, ⟨8, .job, .rw, 16⟩),
   (0x0347, ⟨8, .job, .rw, 3⟩), (0x0348, ⟨8, .job, .rw, 32⟩), (0x0349, ⟨30, .job, .rw, 10000000⟩)]

/-- Memory rows. -/
def paramRows3 : List (Nat × PInfo) :=
  [(0x0400, ⟨2, .block, .rw, 2⟩), (0x0401, ⟨1, .block, .rw, 0⟩), (0x0402, ⟨30, .block, .rw, 100000⟩),
   (0x0404, ⟨27, .job, .ro, 0x06000000⟩), (0x0405, ⟨50, .block, .rw, 86400000000000⟩),
   (0x0408, ⟨64, .block, .rw, 0x0004001000000000⟩), (0x0411, ⟨64, .block, .rw, 0x0004000000000000⟩),
   (0x0412, ⟨64, .block, .rw, 0x0001000000000010⟩), (0x0413, ⟨64, .block, .rw, 0x0001000000100000⟩),
   (0x0418, ⟨55, .block, .ro, 0⟩), (0x0420, ⟨20, .block, .rw, 1000⟩)]

/-- Step, collective, determinism and fault rows. -/
def paramRows4 : List (Nat × PInfo) :=
  [(0x0500, ⟨16, .bound, .rw, 64⟩), (0x0501, ⟨16, .bound, .rw, 32⟩), (0x0502, ⟨16, .bound, .rw, 3277⟩),
   (0x0503, ⟨16, .bound, .rw, 0⟩), (0x0504, ⟨1, .bound, .rw, 1⟩), (0x0508, ⟨48, .job, .ro, 0⟩),
   (0x0509, ⟨48, .job, .ro, 0⟩), (0x050A, ⟨16, .job, .ro, 0⟩), (0x050B, ⟨48, .job, .ro, 0⟩),
   (0x050C, ⟨30, .bound, .rw, 50000000⟩), (0x0510, ⟨1, .job, .rw, 0⟩), (0x0511, ⟨30, .job, .rw, 10000⟩),
   (0x0512, ⟨34, .job, .rw, 100000000⟩), (0x0513, ⟨16, .job, .ro, 0⟩), (0x0514, ⟨48, .job, .ro, 0⟩),
   (0x0520, ⟨1, .job, .rw, 0⟩), (0x0521, ⟨8, .bound, .rw, 0⟩), (0x0522, ⟨8, .job, .rw, 0⟩),
   (0x0523, ⟨3, .block, .rw, 0⟩), (0x0600, ⟨34, .bound, .rw, 200000000⟩), (0x0601, ⟨30, .block, .rw, 2000000⟩),
   (0x0602, ⟨34, .block, .rw, 10000000⟩), (0x0603, ⟨24, .block, .rw, 100000⟩), (0x0604, ⟨8, .block, .rw, 8⟩),
   (0x0605, ⟨47, .block, .rw, 3600000000000⟩), (0x0606, ⟨32, .block, .rw, 4096⟩), (0x0607, ⟨8, .ao, .ro, 0⟩)]

/-- Record ring and Drip rows (R392, R484). -/
def paramRows5 : List (Nat × PInfo) :=
  [(0x0A00, ⟨48, .block, .rw, 0⟩), (0x0A01, ⟨41, .block, .rw, 0⟩), (0x0A02, ⟨8, .block, .rw, 0⟩),
   (0x0A03, ⟨41, .block, .ro, 0⟩), (0x0A04, ⟨41, .block, .rw, 0⟩), (0x0A05, ⟨64, .block, .ro, 0⟩),
   (0x0A06, ⟨2, .block, .ro, 0⟩), (0x0A08, ⟨41, .block, .ro, 0⟩), (0x0A09, ⟨41, .block, .rw, 0⟩),
   (0x0A0A, ⟨64, .block, .ro, 0⟩), (0x0A0B, ⟨2, .block, .ro, 0⟩)]

/-- Rows of R495 that name a run of IDs: first, last, row. -/
def paramRuns : List (Nat × Nat × PInfo) :=
  [(0x0010, 0x0017, ⟨32, .job, .ro, 0⟩), (0x0108, 0x0115, ⟨3, .block, .ro, 0⟩), (0x0130, 0x0144, ⟨64, .block, .ro, 0⟩),
   (0x0180, 0x01C7, ⟨64, .ao, .ro, 0⟩), (0x0280, 0x02FF, ⟨20, .block, .rw, 0⟩), (0x0310, 0x0337, ⟨64, .block, .wo, 0⟩),
   (0x0409, 0x0410, ⟨64, .block, .rw, 0x0002000000080020⟩), (0x0440, 0x045F, ⟨3, .block, .ro, 0⟩),
   (0x0518, 0x051A, ⟨8, .job, .ro, 0⟩), (0x0528, 0x052B, ⟨64, .job, .ro, 0⟩), (0x052C, 0x052F, ⟨48, .job, .ro, 0⟩),
   (0x0800, 0x08FF, ⟨64, .block, .ro, 0⟩), (0x0900, 0x09FF, ⟨64, .block, .ro, 0⟩), (0xC000, 0xC3FF, ⟨64, .block, .ro, 0⟩)]

/-- The four parameters of each Hinge, at 0x0200 + 16p. -/
def hingeRow (k : Nat) : Option PInfo :=
  match k with
  | 0 => some ⟨1, .block, .rw, 0⟩
  | 1 => some ⟨4, .block, .rw, 0⟩
  | 2 => some ⟨12, .block, .rw, 1⟩
  | 3 => some ⟨1, .block, .rw, 0⟩
  | _ => none

/-- First row whose ID is `id`. -/
def findRow (id : Nat) : List (Nat × PInfo) → Option PInfo
  | [] => none
  | (a, p) :: r => if a = id then some p else findRow id r

/-- First run that holds `id`. -/
def findRun (id : Nat) : List (Nat × Nat × PInfo) → Option PInfo
  | [] => none
  | (a, b, p) :: r => if a ≤ id ∧ id ≤ b then some p else findRun id r

/-- The row of an ID, if the map lists it (R495). -/
def paramInfo (id : Nat) : Option PInfo :=
  if 0x0200 ≤ id ∧ id < 0x0280 then hingeRow (id % 16)
  else match findRun id paramRuns with
    | some p => some p
    | none =>
      findRow id (if id < 0x0100 then paramRows0 else if id < 0x0200 then paramRows1 else if id < 0x0400 then paramRows2
        else if id < 0x0500 then paramRows3 else if id < 0x0A00 then paramRows4 else paramRows5)

/-- The reset value of an ID; 0 where the map lists none. -/
def paramReset (id : Nat) : Nat :=
  match paramInfo id with
  | some p => p.reset
  | none => 0

/-- The stored value of a parameter: what was last written, or its reset value. -/
def getP (s : State) (id : Nat) : Nat := findD s.params id (paramReset id)

/-- Store a value. -/
def setP (s : State) (id v : Nat) : State := { s with params := insertKey s.params id v }

/-- The latest step-bound value of `id` for step `n` among the waiting ones (R85): the largest step not above `n`, the
later write of equal steps. -/
def boundBest (id n : Nat) : List PendParam → Option PendParam → Option PendParam
  | [], b => b
  | p :: r, b =>
    if p.id = id ∧ p.step ≤ n then
      boundBest id n r (match b with
        | none => some p
        | some q => if q.step ≤ p.step then some p else some q)
    else boundBest id n r b

/-- The value of a step-bound parameter for step `n` (R85). dp.work_steal is 0 in a deterministic job (R132). -/
def stepP (s : State) (id n : Nat) : Nat :=
  if id = 0x0504 ∧ s.job.desc.deterministic then 0
  else match boundBest id n s.pendParams none with
    | some p => p.value
    | none => getP s id

/-- The value in force now. -/
def curP (s : State) (id : Nat) : Nat :=
  match s.job.topStep with
  | some n => stepP s id n
  | none => if id = 0x0504 ∧ s.job.desc.deterministic then 0 else getP s id

/-- A parameter that holds ns, in whole KT ticks of 0.64 ns, rounded up (R494). -/
def ticksOf (ns : Nat) : Nat := ceilDiv (ns * 25) 16

/-- KT ticks in ns, rounded down. -/
def nsOf (ticks : Nat) : Nat := ticks * 16 / 25

/-- `lo ≤ v ≤ hi`. -/
def inR (v lo hi : Nat) : Bool := decide (lo ≤ v) && decide (v ≤ hi)

/-- Ranges of block parameters below 0x0300 (R446, R249, R285, R54, R435, R436). -/
def rangeLow (id v : Nat) : Bool :=
  if id = 0x0102 then inR v 0 10000000
  else if id = 0x0103 then inR v 10000 100000000
  else if id = 0x0118 then inR v 8 128
  else if id = 0x0119 then inR v 1 32
  else if id = 0x011A then inR v 2 64
  else if id = 0x011B ∨ id = 0x011C then inR v 30 70
  else if id = 0x011D then inR v 0 63
  else if id = 0x011E then inR v 0 15
  else if id = 0x011F ∨ id = 0x0120 then inR v 1 255
  else if id = 0x0121 ∨ id = 0x0122 then inR v 0 48
  else if id = 0x0123 then inR v 86400000000000 31536000000000000
  else if 0x0200 ≤ id ∧ id < 0x0280 ∧ id % 16 = 1 then decide (v / 4 < 3)
  else if 0x0200 ≤ id ∧ id < 0x0280 ∧ id % 16 = 2 then inR v 1 4094
  else true

/-- Ranges of 0x0300 to 0x04FF (R285, R265, R314, R44, R48, R358). -/
def rangeMid (id v : Nat) : Bool :=
  if id = 0x0302 then (List.range 5).all fun i => decide (1 ≤ (v >>> (8 * i)) % 256)
  else if id = 0x0303 then inR v 100000 1000000000
  else if id = 0x0304 then inR v 1 65535
  else if id = 0x0305 then inR v 0x0600 0xFFFF && decide (v ≠ 0x88E5) && decide (v ≠ 0x88F7)
  else if id = 0x0307 then inR v 0 64
  else if id = 0x0341 then decide (v % 65536 = 0)
  else if id = 0x0342 then decide (v = 2048 ∨ v = 4096 ∨ v = 8192)
  else if id = 0x0343 then inR v 16 256
  else if id = 0x0344 then inR v 0 10000
  else if id = 0x0345 then inR v 4000 10000000
  else if id = 0x0346 then inR v 1 64
  else if id = 0x0347 then inR v 1 16
  else if id = 0x0348 then inR v 8 128
  else if id = 0x0349 then inR v 100000 1000000000
  else if id = 0x0400 then inR v 0 2
  else if id = 0x0402 then inR v 1000 1000000
  else if id = 0x0405 then inR v 3600000000000 604800000000000
  else if id = 0x0420 then inR v 100 1000000
  else true

/-- Ranges of 0x0500 and above (R122, R223, R302, R304, R429, R392, R484). -/
def rangeHigh (id v : Nat) : Bool :=
  if id = 0x0500 then inR v 1 65535
  else if id = 0x0501 then inR v 0 4096
  else if id = 0x0502 then inR v 0 32767
  else if id = 0x0503 then inR v 0 1
  else if id = 0x050C then inR v 10000 1000000000
  else if id = 0x0511 then inR v 1000 1000000000
  else if id = 0x0512 then inR v 1000000 10000000000
  else if id = 0x0600 then inR v 100000 10000000000
  else if id = 0x0601 then inR v 10000 1000000000
  else if id = 0x0602 then inR v 100000 10000000000
  else if id = 0x0603 then inR v 10000 10000000
  else if id = 0x0604 then inR v 1 255
  else if id = 0x0605 then inR v 60000000000 86400000000000
  else if id = 0x0606 then inR v 1 4294967295
  else if id = 0x0A00 then decide (v % 65536 = 0)
  else if id = 0x0A01 then inR v 65536 1099511627776 && decide (v % 65536 = 0)
  else if id = 0x0A04 then decide (v % 64 = 0)
  else if id = 0x0A09 then decide (v % 32 = 0)
  else true

/-- The value lies in the parameter's width and range (R494). -/
def paramRange (id v : Nat) : Bool :=
  match paramInfo id with
  | none => false
  | some p => decide (v < 2 ^ p.bits) &&
      (if id < 0x0300 then rangeLow id v else if id < 0x0500 then rangeMid id v else rangeHigh id v)

/-- Every RW parameter in ascending ID (R492, set 4). -/
def rwIds : List Nat :=
  let bIds := [0x0001, 0x0019, 0x0023, 0x0100, 0x0101, 0x0102, 0x0103] ++ (List.range 12).map (0x0118 + ·)
  let hIds := (List.range 8).flatMap fun p => (List.range 4).map fun k => 0x0200 + 16 * p + k
  let tIds := (List.range 128).map (0x0280 + ·) ++ (List.range 8).map (0x0300 + ·) ++ (List.range 10).map (0x0340 + ·)
  let mIds := [0x0400, 0x0401, 0x0402, 0x0405] ++ (List.range 12).map (0x0408 + ·) ++ [0x0420]
  let jIds := [0x0500, 0x0501, 0x0502, 0x0503, 0x0504, 0x050C, 0x0510, 0x0511, 0x0512, 0x0520, 0x0521, 0x0522, 0x0523]
  let fIds := (List.range 7).map (0x0600 + ·) ++ [0x0A00, 0x0A01, 0x0A02, 0x0A04, 0x0A09]
  bIds ++ hIds ++ tIds ++ mIds ++ jIds ++ fIds

/-- The domain index 0 to 13 of a domain code (R95): CTL, DP0 to DP3, HG0 to HG7, MEM. -/
def domOf (code : Nat) : Option Nat :=
  if code = 0 then some 0
  else if 0x10 ≤ code ∧ code ≤ 0x13 then some (code - 0x10 + 1)
  else if 0x20 ≤ code ∧ code ≤ 0x27 then some (code - 0x20 + 5)
  else if code = 0x30 then some 13
  else none

/-- The state of the domain of index `i`. -/
def domState (s : State) (i : Nat) : DomState := (s.doms.getD i Dom.reset).st

/-- Domain codes as pwr.dom.state reads them (R414). -/
def DomState.code : DomState → Nat
  | .inService => 0
  | .fencing => 1
  | .draining => 2
  | .inReset => 3
  | .rejoining => 4

/-- The job state codes of R86. -/
def JobState.code : JobState → Nat
  | .closed => 0
  | .opened => 1
  | .starting => 2
  | .running => 3
  | .draining => 4
  | .faulted => 5

/-- The slot state codes of R86. -/
def SlotState.code : SlotState → Nat
  | .idle => 0
  | .scored => 1
  | .dispatched => 2
  | .awaiting => 3
  | .combining => 4
  | .done => 5
  | .preempted => 6
  | .cancelled => 7

/-- Brace state codes (R434). -/
def BraceState.code : BraceState → Nat
  | .normal => 0
  | .bracing => 1
  | .sealing => 2
  | .braced => 3
  | .resetWarned => 4

/-- A job exists: its state is not Closed (R3). -/
def jobExists (s : State) : Bool := decide (s.job.st ≠ .closed)

/-- Braced in any way: R434's states other than Normal. -/
def inBrace (s : State) : Bool := decide (s.pwr.brace ≠ .normal)

end Sys2Proof.Machine
end

