-- ==== Sys2Proof/Machine/Ops.lean ====
section
/-! DEFINITION. The shared operations: memory, parameters and counters, trace and record entries, events, replies, the
retention log, Vault's counts, batch slots, and the job fault (R407). -/

namespace Sys2Proof.Machine

/-- A command's effect, unless kw_root_lock has fallen: then no behaviour is guaranteed (R25). -/
def live (f : State → State) (s : State) : Host.Outcome State Fault Refusal :=
  if s.rst.rootLost then .fault .rootLockLost else .next (f s)

/-! ### Memory -/

/-- The byte at an address; 0 where none is listed. -/
def memGet : Mem → Nat → Byte
  | [], _ => 0
  | (k, b) :: r, a => if k = a then b else memGet r a

/-- `n` bytes from `a`, read along the list. -/
def memTake : Nat → Nat → Mem → List Byte
  | 0, _, _ => []
  | n + 1, _, [] => 0 :: memTake n 0 []
  | n + 1, a, (k, b) :: r => if k = a then b :: memTake n (a + 1) r else 0 :: memTake n (a + 1) ((k, b) :: r)

/-- `n` bytes from `a`. -/
def memRead (m : Mem) (a n : Nat) : List Byte := memTake n a (m.filter fun c => decide (a ≤ c.1))

/-- The cells of a run of bytes; a 0 is not listed. -/
def cellsOf : Nat → List Byte → Mem
  | _, [] => []
  | a, b :: r => if b = 0 then cellsOf (a + 1) r else (a, b) :: cellsOf (a + 1) r

/-- Write a run of bytes. -/
def memWrite (m : Mem) (a : Nat) (bs : List Byte) : Mem :=
  m.filter (fun c => decide (c.1 < a)) ++ cellsOf a bs ++ m.filter (fun c => decide (a + bs.length ≤ c.1))

/-- Rising addresses from `lo` on, and no listed 0. -/
def memWfFrom : Nat → Mem → Bool
  | _, [] => true
  | lo, (k, b) :: r => decide (lo ≤ k) && decide (b ≠ 0) && memWfFrom (k + 1) r

/-- The canonical form of a memory. -/
def Mem.wf (m : Mem) : Bool := memWfFrom 0 m

/-! ### Counters (R489) -/

/-- Counter `i`. -/
def ctr (s : State) (i : Nat) : Nat := findD s.counters i 0

/-- Counters of what no row of the table tells the block: cycles spent, how accesses are cut into requests, corrections of
its own storage, symbols the line coding corrects (R491). -/
def ctrOpen (i : Nat) : Bool :=
  decide ((128 ≤ i ∧ i < 256 ∧ i % 32 = 4) ∨ (640 ≤ i ∧ i < 896 ∧ (i % 8 < 4 ∨ i % 8 = 7)) ∨ i = 22 ∨ i = 23 ∨
    (27 ≤ i ∧ i ≤ 40))

/-- The domain whose unit keeps counter `i` (R411, R490, R491). -/
def ctrDom (i : Nat) : Option Nat :=
  if 41 ≤ i ∧ i ≤ 43 then some 0
  else if i = 17 ∨ i = 22 ∨ i = 24 then some 13
  else if 27 ≤ i ∧ i ≤ 40 then some (i - 27)
  else if 128 ≤ i ∧ i < 256 then some (1 + (i - 128) / 32)
  else if 256 ≤ i ∧ i < 512 then some (5 + (i - 256) / 32)
  else if 512 ≤ i ∧ i < 640 then some (5 + (i - 512) / 16)
  else if (640 ≤ i ∧ i < 896) ∨ (939 ≤ i ∧ i < 971) then some 13
  else none

/-- What counter `i` reads as: an open one is a free value at this KT (log 49). From the fence of its domain until the rejoin
it reads as it did at the fence (R86, R489). -/
def ctrRead (s : State) (i : Nat) : Nat :=
  let at_ := fun (l : List (Nat × Nat)) kt order =>
    if ctrOpen i then Config.freeCount i kt order % 2 ^ 64 else findD l i 0
  match ctrDom i with
  | some k =>
    if domState s k = .inService then at_ s.counters s.kt s.latch.order
    else let d := s.doms.getD k Dom.reset; at_ d.kept d.keptKt d.keptOrder
  | none => at_ s.counters s.kt s.latch.order

/-- Add `n` to counter `i`, modulo 2^64. -/
def ctrAdd (i n : Nat) (s : State) : State :=
  { s with counters := insertKey s.counters i ((ctr s i + n) % 2 ^ 64) }

/-- Add 1 to counter `i`. -/
def ctrInc (i : Nat) (s : State) : State := ctrAdd i 1 s

/-! ### Scratchpad (R309, R313) -/

/-- The size of the scratchpad. -/
def spSize : Nat := 0x06000000

/-- Read `n` bytes at an offset: zeros outside, counted in sp.oob. -/
def spRead (s : State) (a n : Nat) : List Byte :=
  let k := min n (spSize - a)
  memRead s.sp a k ++ List.replicate (n - k) 0

/-- Count an access outside the scratchpad. -/
def spCount (a n : Nat) (s : State) : State := if spSize < a + n then ctrInc 12 s else s

/-- The 8-byte words whose bytes all lie in the range. -/
def wholeWord (a n w : Nat) : Bool := decide (a ≤ 8 * w ∧ 8 * w + 8 ≤ a + n)

/-- Write bytes at an offset; a write of a whole word clears its poison (R313). -/
def spWrite (a : Nat) (bs : List Byte) (s : State) : State :=
  let cut := bs.take (spSize - a)
  spCount a bs.length
    { s with sp := memWrite s.sp a cut, spPoison := s.spPoison.filter fun w => !wholeWord a cut.length w }

/-- Some word of the range is poisoned. -/
def spPoisoned (s : State) (a n : Nat) : Bool := s.spPoison.any fun w => decide (8 * w < a + n ∧ a < 8 * w + 8)

/-! ### Drip (R482 to R488) -/

/-- Bytes of the ring that lie after the tail, not counting one record: head would meet tail otherwise. -/
def ringFree (size head tail : Nat) : Nat := if size = 0 then 0 else size - 1 - (head + size - tail % size) % size

/-- A record is lost: counted, and remembered for the loss record. -/
def dripLose (s : State) : State :=
  let d := s.drip
  { s with drip := { d with lost := (d.lost + 1) % 2 ^ 64, lossCount := d.lossCount + 1,
                            lossFirst := (if d.lossCount = 0 then s.kt else d.lossFirst), lossLast := s.kt } }

/-- The loss record owed before the next record that fits. -/
def dripLoss (s : State) : List DripRec :=
  if s.drip.lossCount = 0 then [] else
    [{ kind := 14, slot := 0, slotValid := false, unit := 0, kt := s.drip.lossFirst, step := 0, generation := 0,
       payload := min s.drip.lossCount (2 ^ 32 - 1) + s.drip.lossLast * 2 ^ 32 }]

/-- The domain of a unit code, if it has one (R78, R411). -/
def unitDom (u : Nat) : Option Nat :=
  if u = 1 ∨ u = 2 then some 0
  else if 0x10 ≤ u ∧ u ≤ 0x13 then some (1 + (u - 0x10))
  else if 0x18 ≤ u ∧ u ≤ 0x1F then some (1 + u % 4)
  else if 0x20 ≤ u ∧ u ≤ 0x27 then some (5 + (u - 0x20))
  else if u = 0x30 ∨ u = 0x38 ∨ u = 0x40 then some 13
  else none

/-- The unit's domain is fenced, or not yet back in service: it produces no trace records (R486). -/
def unitFenced (s : State) (u : Nat) : Bool :=
  match unitDom u with
  | some i => decide (domState s i ≠ .inService)
  | none => false

/-- Build a Drip record if Drip writes records of its kind and unit; it is lost where it would pass the tail or overflow
the 256 KiB buffer (R484, R485). -/
def dripPut (r : DripRec) (s : State) : State :=
  let d := s.drip
  if d.enable = true ∧ bit d.kindMask r.kind = true ∧ bit d.unitMask (r.unit / 8) = true ∧ (r.kind = 9 ∨ unitFenced s r.unit = false) then
    let more := dripLoss s ++ [r]
    let used := 32 * (d.buf.length + more.length)
    if used ≤ 262144 ∧ used ≤ ringFree (d.size * 65536) d.head (getP s 0x0A09) then
      { s with drip := { d with buf := d.buf ++ more, lossCount := 0 } }
    else dripLose s
  else s

/-- A record with no slot. -/
def dripAt (kind unit payload : Nat) (s : State) : State :=
  dripPut { kind := kind, slot := 0, slotValid := false, unit := unit, kt := s.kt, step := 0, generation := 0,
            payload := payload } s

/-- A record of a slot (kinds 1 and 2). -/
def dripSlot (kind unit slot gen step payload : Nat) (s : State) : State :=
  dripPut { kind := kind, slot := slot, slotValid := true, unit := unit, kt := s.kt, step := step, generation := gen,
            payload := payload } s

/-- A stage of R96 begins (`fin` 0) or ends (1) on a unit. -/
def dripStage (unit slot gen step stage fin cls : Nat) (s : State) : State :=
  dripSlot 1 unit slot gen step (stage + fin * 32 + cls * 64) s

/-- A stage of a step begins or ends: on every slice for stages 1 to 11 and 16, on Hasp for 12 to 15 (R488). -/
def dripStageAll (slot gen step stage fin cls : Nat) (s : State) : State :=
  if 12 ≤ stage ∧ stage ≤ 15 then dripStage 0x60 slot gen step stage fin cls s
  else (List.range 4).foldl (fun t i => dripStage (0x10 + i) slot gen step stage fin cls t) s

/-! ### The record ring (R392 to R395) -/

/-- A record's length in the ring: its header, and its payload padded to 64 B. -/
def recLen (r : RecEnt) : Nat := 64 + roundUp 64 r.payload.length

/-- Where a record of `len` bytes ends when the head stands at `pos`: it never wraps (R395). -/
def recEnd (size pos len : Nat) : Nat × Nat :=
  if pos + len ≤ size then ((pos + len) % size, len) else (len % size, size - pos + len)

/-- Ring bytes that the buffered records will take, and the head after them. -/
def recUsed (size : Nat) : List RecEnt → Nat → Nat → Nat × Nat
  | [], pos, used => (pos, used)
  | r :: l, pos, used =>
    let e := recEnd size pos (recLen r)
    recUsed size l e.1 (used + e.2)

/-- A record is lost. -/
def recLose (s : State) : State :=
  let r := s.recRing
  { s with recRing := { r with lost := (r.lost + 1) % 2 ^ 64, seq := (r.seq + 1) % 2 ^ 64, lossCount := r.lossCount + 1,
                               lossFirst := (if r.lossCount = 0 then s.kt else r.lossFirst), lossLast := s.kt } }

/-- Buffer a record and the loss record owed before it, if they fit the ring and the 512 KiB buffer. -/
def recPut (e : RecEnt) (s : State) : State :=
  let r := s.recRing
  let loss : List RecEnt := if r.lossCount = 0 then [] else
    [{ kind := 4, full := false, poison := false, source := 0, link := 0, kt := r.lossFirst, seq := r.seq,
       crc := r.lossCount, origBytes := 0, context := r.lossLast, payload := [] }]
  let more := loss ++ [{ e with seq := (r.seq + loss.length) % 2 ^ 64 }]
  let size := getP s 0x0A01
  let plan := recUsed size (r.buf ++ more) r.head 0
  let held := sumN ((r.buf ++ more).map recLen)
  if held ≤ 524288 ∧ plan.2 ≤ ringFree size r.head (getP s 0x0A04) then
    { s with recRing := { r with buf := r.buf ++ more, seq := (r.seq + more.length) % 2 ^ 64, lossCount := 0 } }
  else recLose s

/-- Recording of class `k` (0 commands, 1 Funnel, 2 arrivals) is on: rec.ctl of R392. -/
def recOn (s : State) (k : Nat) : Bool :=
  bit (getP s 0x0A02) 0 && bit (getP s 0x0A02) (1 + k)

/-- Record an original packet, Funnel packet or chunk (R393). -/
def recOriginal (k source link : Nat) (poison : Bool) (orig : List Byte) (s : State) : State :=
  if recOn s k then
    let full := bit (getP s 0x0A02) (4 + k)
    recPut { kind := k + 1, full := full, poison := poison, source := source, link := link, kt := s.kt, seq := 0,
             crc := crc64 orig, origBytes := orig.length, context := 0,
             payload := (if full then orig else padTo 64 (orig.take 64)) } s
  else s

/-! ### Events (R77 to R82) -/

/-- Fold the oldest queued non-fatal event into the merge summary (R81). -/
def evFold (e : Event) : Option MergeSum → MergeSum
  | none => { count := 1, lastSeq := e.seq, mask := 2 ^ (e.code - 1) % 65536, firstSeq := e.seq, kt := e.kt }
  | some m => { m with count := m.count + 1, lastSeq := e.seq, mask := m.mask ||| (2 ^ (e.code - 1) % 65536) }

/-- Put an event in the queue (R81). -/
def evQueue (e : Event) (s : State) : State :=
  let q := s.ev
  if e.fatal then
    if q.fatal.length < 16 then { s with ev := { q with fatal := q.fatal ++ [e] } }
    else { s with ev := { q with waitFatal := q.waitFatal ++ [e] } }
  else if q.other.length < 239 then { s with ev := { q with other := q.other ++ [e] } }
  else match q.other with
    | [] => { s with ev := { q with other := [e] } }
    | o :: r => ctrInc 44 { s with ev := { q with other := r ++ [e], summary := some (evFold o q.summary) } }

/-- The tag of the job, or 0 (R77). -/
def evTag (s : State) : Nat := if jobExists s then s.job.tag else 0

/-- An event record of this instant with the next sequence number. -/
def evMake (s : State) (code : Nat) (fatal : Bool) (unit detail : Nat) : Event :=
  { Event.zero with code := code, fatal := fatal, seq := s.ev.seq, kt := s.kt, jobTag := evTag s, unit := unit,
                    detail := detail }

/-- Count the sequence number, trace the event (kind 5) and queue it. -/
def evSend (e : Event) (s : State) : State :=
  let s := { s with ev := { s.ev with seq := (s.ev.seq + 1) % 65536 } }
  evQueue e (dripAt 5 0x0001 (e.code + b01 e.fatal * 2 ^ 15 + e.seq * 2 ^ 16) s)

/-- Emit a non-fatal event with no slot. -/
def emit (code unit detail : Nat) (s : State) : State := evSend (evMake s code false unit detail) s

/-! ### Replies (R64 to R67) -/

/-- A reply record as 256 bits (R66). -/
def Reply.word (r : Reply) : Nat :=
  r.tag + r.status * 2 ^ 16 + r.opcode * 2 ^ 32 + b01 r.final * 2 ^ 40 + r.kt * 2 ^ 64 + r.r0 * 2 ^ 128 + r.r1 * 2 ^ 160 +
    r.r2 * 2 ^ 192 + r.r3 * 2 ^ 224

/-- Add a reply record and trace it (kind 4). -/
def reply (r : Reply) (s : State) : State :=
  dripAt 4 0x0001 (r.opcode + r.tag * 2 ^ 8 + r.status * 2 ^ 24 + b01 r.final * 2 ^ 40)
    { s with latch := { s.latch with replies := s.latch.replies ++ [r] } }

/-- The single reply of a synchronous command, or of one that fails validation. -/
def replyOne (p : Packet) (order status r0 r1 r2 r3 : Nat) (s : State) : State :=
  reply { tag := p.tag.toNat, status := status, opcode := p.opcode.toNat, final := true, kt := s.kt, r0 := r0, r1 := r1,
          r2 := r2, r3 := r3, order := order, first := true, entry := false } s

/-- Two commands are the same one. -/
def sameCmd (a b : OpenCmd) : Bool := decide (a.order = b.order)

/-- The final reply of an asynchronous command: one, and no more (R64). -/
def finish (c : OpenCmd) (status r0 r1 r2 r3 : Nat) (s : State) : State :=
  if s.latch.opened.any (fun o => sameCmd o c) then
    reply { tag := c.tag, status := status, opcode := c.opcode, final := true, kt := s.kt, r0 := r0, r1 := r1, r2 := r2,
            r3 := r3, order := c.order, first := false, entry := true }
      { s with latch := { s.latch with opened := s.latch.opened.filter fun o => !sameCmd o c } }
  else s

/-- The final reply of a command that may be absent. -/
def finishOpt (c : Option OpenCmd) (status r0 : Nat) (s : State) : State :=
  match c with
  | some c => finish c status r0 0 0 0 s
  | none => s

/-! ### The retention log (R418, R419) -/

/-- Write an entry: 1,024 are kept, the oldest overwritten. -/
def logPut (e : LogEnt) (s : State) : State :=
  { s with rlog := ((s.rlog ++ [{ e with seq := s.rlogSeq }]).drop (s.rlog.length - 1023)),
           rlogSeq := (s.rlogSeq + 1) % 2 ^ 32 }

/-- Write an entry, or hold it while AO writes are stopped (R25, R55). -/
def logAdd (kind body : Nat) (s : State) : State :=
  let e : LogEnt := { kind := kind, bootCount := s.rst.bootCount % 65536, seq := 0, kt := s.kt, body := body }
  if s.rst.aoStopped then { s with rlogWait := s.rlogWait ++ [e] } else logPut e s

/-- Hold a write to AO storage until AO writes resume (R25, R55). -/
def aoHold (w : AoWrite) (s : State) : State := { s with aoWait := s.aoWait ++ [w] }

/-- Write the entries held while AO writes were stopped. -/
def logResume (s : State) : State := s.rlogWait.foldl (fun t e => logPut e t) { s with rlogWait := [] }

/-- An event record as 256 bits (R77). -/
def Event.word (e : Event) : Nat :=
  e.code + b01 e.fatal * 2 ^ 15 + e.seq * 2 ^ 16 + e.kt * 2 ^ 32 + e.jobTag * 2 ^ 96 + e.slot * 2 ^ 120 +
    b01 e.slotValid * 2 ^ 126 + e.generation * 2 ^ 128 + e.step * 2 ^ 136 + e.unit * 2 ^ 192 + e.detail * 2 ^ 208

/-! ### Vault's counts (R453 to R459) -/

/-- Sum of two sets of counts, modulo 2^64. -/
def VCounts.add (a b : VCounts) : VCounts :=
  let m := fun x y => (x + y) % 2 ^ 64
  { tokensIn := m a.tokensIn b.tokensIn, tokensExited := m a.tokensExited b.tokensExited, copies := m a.copies b.copies,
    local_ := m a.local_ b.local_, bytesOut := m a.bytesOut b.bytesOut, bytesIn := m a.bytesIn b.bytesIn,
    busy := m a.busy b.busy }

/-- Counts that settle nothing. -/
def VCounts.isZero (c : VCounts) : Bool := decide (c = VCounts.zero)

/-- The counts of unsettled work (R454). -/
def heldCounts (s : State) : VCounts :=
  (s.slots.foldl (fun a (x : Slot) => match x.ctx with
    | some c => a.add c.held
    | none => a) VCounts.zero).add
    (s.duties.foldl (fun a (d : Duty) => d.srcs.foldl (fun b (x : DutySrc) => b.add x.held) a) VCounts.zero)

/-- The three copies; a copy never written is absent. -/
def vaultCopies (v : Vault) : List VCopy :=
  if v.copies.length = 3 then v.copies
  else List.replicate 3 { seq := 0, period := VPeriod.zero, readingSeq := 0, held := VCounts.zero, good := false }

/-- The copy Vault writes now. -/
def vaultCopyNow (s : State) (seq : Nat) : VCopy :=
  { seq := seq, period := s.vault.cur, readingSeq := s.vault.readingSeq, held := heldCounts s, good := true }

/-- Write copy (w mod 3), or owe the write while AO writes are stopped (R459). -/
def vaultWrite (s : State) : State :=
  if s.rst.aoStopped then { s with vault := { s.vault with owed := true } }
  else
    let w := s.vault.writeSeq
    { s with vault := { s.vault with copies := (vaultCopies s.vault).set (w % 3) (vaultCopyNow s w), writeSeq := w + 1 } }

/-- Write all three copies with one sequence number (R459). -/
def vaultWriteAll (s : State) : State :=
  if s.rst.aoStopped then { s with vault := { s.vault with owed := true } }
  else
    let w := s.vault.writeSeq
    { s with vault := { s.vault with copies := List.replicate 3 (vaultCopyNow s w), writeSeq := w + 1, owed := false } }

/-- Credit settled counts to the open period (R454, R455). The ticks in which work was unsettled go to the ordinary
busy figure. -/
def vaultSettle (cancelled : Bool) (c : VCounts) (s : State) : State :=
  let v := s.vault
  let busy : VCounts := { VCounts.zero with busy := v.busyHeld }
  let cur := if cancelled then { v.cur with canc := v.cur.canc.add c, ord := v.cur.ord.add busy }
             else { v.cur with ord := (v.cur.ord.add c).add busy }
  vaultWrite { s with vault := { v with cur := cur, busyHeld := 0 } }

/-- EV_VAULT about a period (R468). -/
def vaultEvent (period : Nat) (s : State) : State := emit 0x000D 0x0068 (s.vault.status + period * 2 ^ 16) s

/-- Set a bit of vault.status; EV_VAULT if it was clear. -/
def vaultStatus (b : Nat) (s : State) : State :=
  if bit s.vault.status b then s
  else vaultEvent s.vault.cur.num { s with vault := { s.vault with status := s.vault.status ||| 2 ^ b } }

/-- Close the open period and open the next one with a job tag (R456, R457). -/
def vaultClose (newTag : Nat) (inconsistent recovered : Bool) (s : State) : State :=
  let v := s.vault
  let old := { v.cur with ktClose := s.kt, inconsistent := v.cur.inconsistent || inconsistent,
                          recovered := v.cur.recovered || recovered }
  let new := { VPeriod.zero with num := (v.cur.num + 1) % 2 ^ 32, jobTag := newTag, ktOpen := s.kt, recovered := recovered }
  let s := { s with vault := { v with cur := new, closed := (v.closed ++ [old]).drop (v.closed.length - 15),
                                      status := v.status ||| 4 } }
  vaultEvent old.num (vaultWriteAll s)

/-! ### Batch slots (R91) -/

/-- Slot `i`. -/
def slotAt (s : State) (i : Nat) : Slot := s.slots.getD i Slot.idle

/-- Replace slot `i`. -/
def setSlot (i : Nat) (x : Slot) (s : State) : State := { s with slots := s.slots.set i x }

/-- The step number of the step in a slot, or 0. -/
def Slot.stepNo (x : Slot) : Nat := match x.ctx with
  | some c => c.step
  | none => 0

/-- Move slot `i` to a state, traced as a Drip record of kind 2. -/
def slotMove (i : Nat) (st : SlotState) (s : State) : State :=
  let x := slotAt s i
  dripSlot 2 0 i x.gen (if x.stepNo = 0 then x.lastStep else x.stepNo) (x.st.code + st.code * 16) (setSlot i { x with st := st } s)

/-- Change the step in flight of slot `i`. -/
def ctxMap (i : Nat) (f : StepCtx → StepCtx) (s : State) : State :=
  setSlot i { slotAt s i with ctx := (slotAt s i).ctx.map f } s

/-- Add to the counts Vault holds for the step in slot `i` (R454). -/
def ctxCount (i : Nat) (c : VCounts) (s : State) : State := ctxMap i (fun x => { x with held := x.held.add c }) s

/-- Settle the step in slot `i` (R454): ordinary, or cancelled with the ticks since its stage 1. -/
def ctxSettle (cancelled : Bool) (i : Nat) (s : State) : State :=
  match (slotAt s i).ctx with
  | none => s
  | some c =>
    let h := if cancelled then { c.held with busy := s.kt - c.startKt } else c.held
    vaultSettle cancelled h (ctxMap i (fun x => { x with held := VCounts.zero }) s)

/-! ### The job fault (R90, R407) -/

/-- The slot, generation and step an event names. -/
structure Where where
  slot : Option Nat
  gen : Nat
  step : Nat
  deriving DecidableEq, Repr

/-- No slot applies. -/
def Where.none : Where := { slot := Option.none, gen := 0, step := 0 }

/-- The step in slot `i`. -/
def whereSlot (s : State) (i : Nat) : Where :=
  { slot := some i, gen := (slotAt s i).gen, step := (slotAt s i).stepNo }

/-- The record of a fault (R408). -/
def faultEvent (s : State) (code unit detail : Nat) (w : Where) : Event :=
  { evMake s code true unit detail with
    slot := w.slot.getD 0, slotValid := w.slot.isSome, generation := w.gen, step := w.step }

/-- Job-scope opcodes (R62). -/
def jobScope (op : Nat) : Bool :=
  decide (op ∈ [0x11, 0x12, 0x14, 0x15, 0x16, 0x20, 0x21, 0x22, 0x23, 0x28, 0x29, 0x2A, 0x30, 0x31, 0x32])

/-- The command of a packet as an open command. -/
def openOf (p : Packet) (order : Nat) : OpenCmd :=
  { tag := p.tag.toNat, opcode := p.opcode.toNat, order := order, jobScope := jobScope p.opcode.toNat }

/-- The result words of a STEP_RUN in slot `i`: tokens in, tokens exited, copies dispatched, slot and generation (R75). -/
def stepWords (i : Nat) (c : StepCtx) : Nat × Nat × Nat × Nat :=
  (c.nTok, (c.sels.filter (·.exited)).length, c.held.copies, i + c.gen * 2 ^ 8)

/-- The final reply of a STEP_RUN with the words of R75. -/
def finishStep (i : Nat) (c : StepCtx) (status : Nat) (s : State) : State :=
  let w := stepWords i c
  finish c.cmd status w.1 w.2.1 w.2.2.1 w.2.2.2 s

/-- The slot whose step a command started. -/
def slotOfCmd (s : State) (o : OpenCmd) : Option (Nat × StepCtx) :=
  (List.range 64).findSome? fun i => match (slotAt s i).ctx with
    | some c => if sameCmd c.cmd o then some (i, c) else none
    | none => none

/-- End an open command with a status; a STEP_RUN carries its result words. -/
def endOpen (status : Nat) (o : OpenCmd) (s : State) : State :=
  match slotOfCmd s o with
  | some (i, c) => finishStep i c status s
  | none => finish o status 0 0 0 0 s

/-- The words of a STEP_RUN that never started. -/
def heldWords (p : Packet) : Nat × Nat := (bits p.p2.toNat 28 16, p.p0.toNat % 64 + bits p.p0.toNat 15 8 * 2 ^ 8)

/-- End one held command with a status. BATCH_RESUME has had no reply yet (R94). -/
def endHeld (h : Held) (status : Nat) (s : State) : State :=
  let s := { s with latch := { s.latch with held := s.latch.held.filter fun x => decide (x.order ≠ h.order) } }
  if h.cmd.opcode.toNat = 0x23 then replyOne h.cmd h.order status 0 0 0 0 s
  else if h.cmd.opcode.toNat = 0x20 then
    finish (openOf h.cmd h.order) status (heldWords h.cmd).1 0 0 (heldWords h.cmd).2 s
  else finish (openOf h.cmd h.order) status 0 0 0 0 s

/-- End every held command that `p` selects. -/
def endHeldAll (p : Held → Bool) (status : Nat) (s : State) : State :=
  (s.latch.held.filter p).foldl (fun t h => endHeld h status t) s

/-- Settle all unsettled work as cancelled (R454). -/
def settleAll (s : State) : State :=
  let s := (List.range 64).foldl (fun t i => if (slotAt t i).ctx.isSome then ctxSettle true i t else t) s
  (s.duties.flatMap (·.srcs)).foldl (fun t x => if x.held.isZero then t else vaultSettle true x.held t)
    { s with duties := s.duties.map fun d => { d with srcs := d.srcs.map fun x => { x with held := VCounts.zero } } }

/-- Carafe requests that `p` selects end without a grant; their wait is counted (R324). -/
def endWaits (p : CellWait → Bool) (s : State) : State :=
  (s.carafe.waits.filter p).foldl (fun t w => ctrAdd (897 + 2 * w.owner) (t.kt - w.since) t)
    { s with carafe := { s.carafe with waits := s.carafe.waits.filter fun w => !p w } }

/-- The request is not Pour's. -/
def CellWait.ofJob (w : CellWait) : Bool := match w.use with
  | .pour _ => false
  | .prefetch => false
  | _ => true

/-- The job moves to Faulted: held and outstanding job-scope commands end with all they
still had to do, unsettled work settles as cancelled, the crash
dump is wanted (R90, R420, R437, R454). `supply`: the fault is a supply reset. -/
def enterFaulted (supply : Bool) (e : Event) (s : State) : State :=
  let s := if supply then endHeldAll (fun h => decide (h.why ≠ .after)) 0x0602 s
    else endHeldAll (fun h => decide (h.why ≠ .after) && jobScope h.cmd.opcode.toNat) 0x0401 s
  let s := (s.latch.opened.filter (·.jobScope)).foldl (fun t c => endOpen 0x0401 c t) s
  let s := endWaits CellWait.ofJob (settleAll s)
  { s with job := { s.job with st := .faulted, startCmd := none, closeCmd := none, faultKt := s.kt },
           slots := s.slots.map fun x => { x with ctx := x.ctx.map fun c => { c with preemptCmds := [] } },
           ep := { s.ep with commit := none }, tensors := [],
           dump := { s.dump with wanted := true, fault := e, kt := s.kt } }

/-- A fault after the first: counted and logged (R407). -/
def secondary (e : Event) (s : State) : State := logAdd 0x0007 e.word (ctrInc 19 s)

/-- In the tick of the first fault, the unit with the lowest code is the one the fatal event names (R407). -/
def renames (e : Event) (s : State) : Bool :=
  decide (s.kt = s.job.faultKt) && decide (e.unit < s.dump.fault.unit) && s.ev.fatal.contains s.dump.fault

/-- A job fault: the first of a job emits its one fatal event; later ones are counted and logged (R407). Nothing
happens with no job (R406). -/
def jobFault (unit status detail : Nat) (w : Where) (s : State) : State :=
  let e := faultEvent s 1 unit (status + detail * 2 ^ 16) w
  match s.job.st with
  | .closed => s
  | .faulted =>
    if renames e s then
      let old := s.dump.fault
      let new := { e with seq := old.seq }
      secondary old { s with ev := { s.ev with fatal := s.ev.fatal.map fun x => if x = old then new else x },
                             rlog := s.rlog.map fun l => if l.kind = 1 ∧ l.body = old.word then { l with body := new.word } else l,
                             dump := { s.dump with fault := new } }
    else secondary e s
  | _ => enterFaulted false e (logAdd 0x0001 e.word (evSend e s))

/-- A failed memory-port request: where it was, and its rd_err or wr_err. -/
structure ReqErr where
  channel : Nat
  id : Nat
  write : Bool
  timeout : Bool
  err : Nat
  deriving DecidableEq, Repr

/-- A memory-port error on job data (R47, R497): unit 0x0030 with channel, direction, timeout, identifier and code. -/
def ioDetail (e : ReqErr) : Nat :=
  e.channel + b01 e.write * 2 ^ 5 + b01 e.timeout * 2 ^ 6 + e.id * 2 ^ 8 + e.err * 2 ^ 14

/-- The status of a memory-port error on job data: poison, timeout, or a bus error (log 19). A write response with the
reserved code 3 is taken as a bus error (log 65). -/
def ioStatus (e : ReqErr) : Nat := if e.err = 3 ∧ e.write = false then 0x0406 else if e.timeout then 0x0405 else 0x0401

/-- A failed request on job data ends the job (R47). -/
def reqFault (e : ReqErr) (w : Where) (s : State) : State := jobFault 0x0030 (ioStatus e) (ioDetail e) w s

end Sys2Proof.Machine
end

