-- ==== Sys2Proof/Machine/Keyway.lean ====
section
/-! DEFINITION. Keyway's translation (R333 to R341), and host-memory accesses through it. -/

namespace Sys2Proof.Machine

/-- A level of the page table (R334): its number, the lowest VA bit it consumes, its index bits, the alignment of the
table below it, and whether its entries may be leaves and must be. -/
structure Level where
  num : Nat
  shift : Nat
  width : Nat
  below : Nat
  deriving DecidableEq, Repr

/-- The four levels. -/
def levels : List Level := [⟨1, 39, 9, 4096⟩, ⟨2, 30, 9, 4096⟩, ⟨3, 21, 9, 256⟩, ⟨4, 16, 5, 256⟩]

/-- A translation failure (R336). -/
structure XFault where
  kind : Nat
  level : Nat
  va : Nat
  ctx : Nat
  deriving DecidableEq, Repr

/-- What a walk finds: a page, with the upper entries read on the way, or a failure. -/
inductive Walk where
  | page (t : Tlb) (up : List Upper)
  | bad (kind level : Nat)
  deriving DecidableEq, Repr

/-- Walk from a table through the given levels. -/
def walkFrom (m : Mem) (ctx va : Nat) (write : Bool) : List Level → Nat → List Upper → Walk
  | [], _, _ => .bad 1 4
  | l :: rest, table, up =>
    let e := leNat (memRead m (table + 8 * ((va >>> l.shift) % 2 ^ l.width)) 8)
    let addr := (bits e 51 8) * 256
    if !bit e 0 then .bad 1 l.num
    else if bit e 1 then
      if l.num = 1 then .bad 2 1
      else if addr % 2 ^ l.shift ≠ 0 then .bad 3 l.num
      else if (if write then bit e 3 else bit e 2) then
        .page { ctx := ctx, va := (va >>> l.shift) * 2 ^ l.shift, bytes := 2 ^ l.shift, pa := addr, read := bit e 2,
                write := bit e 3 } up
      else .bad 4 l.num
    else if l.num = 4 then .bad 2 4
    else if addr % l.below ≠ 0 then .bad 3 l.num
    else walkFrom m ctx va write rest addr
      (up ++ [{ ctx := ctx, level := l.num + 1, va := (va >>> l.shift) * 2 ^ l.shift, pa := addr }])

/-- The level whose leaves map pages of `bytes`. -/
def pageLevel (bytes : Nat) : Nat := if bytes = 65536 then 4 else if bytes = 2097152 then 3 else 2

/-- The deepest cached table that serves a VA. -/
def upperFor (l : List Upper) (ctx va : Nat) : Option Upper :=
  let hit := fun (u : Upper) => decide (u.ctx = ctx) &&
    decide (u.va = (va >>> (if u.level = 2 then 39 else if u.level = 3 then 30 else 21)) * 2 ^ (if u.level = 2 then 39 else if u.level = 3 then 30 else 21))
  match l.find? fun u => decide (u.level = 4) && hit u with
  | some u => some u
  | none => match l.find? fun u => decide (u.level = 3) && hit u with
    | some u => some u
    | none => l.find? fun u => decide (u.level = 2) && hit u

/-- The root of a context. -/
def rootOf (s : State) (ctx : Nat) : Option Nat := if ctx = 0 then s.keyway.root0 else s.keyway.root1

/-- mmu.last_fault (R336). -/
def lastFaultWord (f : XFault) : Nat := f.kind + (f.level - 1) * 2 ^ 4 + f.va * 2 ^ 6 + f.ctx * 2 ^ 54

/-- Record a failure. -/
def recordFault (f : XFault) (s : State) : State := { s with keyway := { s.keyway with lastFault := lastFaultWord f } }

/-- Keep what a walk read in the cache; the oldest entries leave it (R337, log 20). -/
def tlbFill (t : Tlb) (up : List Upper) (s : State) : State :=
  { s with keyway := { s.keyway with tlb := (t :: s.keyway.tlb).take 8192,
                                     upper := (up.filter (fun u => !s.keyway.upper.contains u) ++ s.keyway.upper).take 512 } }

/-- Translate one address: the page that maps it, or a failure. -/
def xlate (s : State) (ctx va : Nat) (write : Bool) : State × Except XFault Tlb :=
  let va := va % 2 ^ 48
  let fail := fun k l => (recordFault ⟨k, l, va, ctx⟩ s, Except.error ⟨k, l, va, ctx⟩)
  match rootOf s ctx with
  | none => fail 5 1
  | some root =>
    match s.keyway.tlb.find? fun t => decide (t.ctx = ctx ∧ t.va ≤ va ∧ va < t.va + t.bytes) with
    | some t => if (if write then t.write else t.read) then (s, .ok t) else fail 4 (pageLevel t.bytes)
    | none =>
      let w := match upperFor s.keyway.upper ctx va with
        | some u => walkFrom s.hostMem ctx va write (levels.drop (u.level - 1)) u.pa []
        | none => walkFrom s.hostMem ctx va write levels root []
      match w with
      | .page t up => (tlbFill t up s, .ok t)
      | .bad k l => fail k l

/-- A run of physical bytes. -/
structure Piece where
  pa : Nat
  len : Nat
  deriving DecidableEq, Repr

/-- Translate a range page by page (`fuel` pages at most). -/
def xlateRun : Nat → State → Nat → Nat → Nat → Bool → List Piece → State × Except XFault (List Piece)
  | 0, s, _, _, _, _, acc => (s, .ok acc.reverse)
  | fuel + 1, s, ctx, va, len, write, acc =>
    if len = 0 then (s, .ok acc.reverse)
    else match xlate s ctx va write with
      | (s, .error f) => (s, .error f)
      | (s, .ok t) =>
        let off := va % 2 ^ 48 - t.va
        let k := min len (t.bytes - off)
        xlateRun fuel s ctx (va + k) (len - k) write ({ pa := t.pa + off, len := k } :: acc)

/-- Translate every byte of a range. -/
def xlateRange (s : State) (ctx va len : Nat) (write : Bool) : State × Except XFault (List Piece) :=
  xlateRun (len / 65536 + 2) s ctx va len write []

/-- The bytes of translated pieces. -/
def readPieces (m : Mem) (l : List Piece) : List Byte := l.flatMap fun p => memRead m p.pa p.len

/-- Write bytes over translated pieces. -/
def writePieces : List Piece → List Byte → Mem → Mem
  | [], _, m => m
  | p :: r, bs, m => writePieces r (bs.drop p.len) (memWrite m p.pa (bs.take p.len))

/-- Read host memory at a VA. -/
def hostRead (s : State) (ctx va n : Nat) : State × Except XFault (List Byte) :=
  match xlateRange s ctx va n false with
  | (s, .error f) => (s, .error f)
  | (s, .ok l) => (s, .ok (readPieces s.hostMem l))

/-- Write host memory at a VA; nothing is written where any byte fails to translate. -/
def hostWrite (s : State) (ctx va : Nat) (bs : List Byte) : State × Except XFault Unit :=
  match xlateRange s ctx va bs.length true with
  | (s, .error f) => (s, .error f)
  | (s, .ok l) => ({ s with hostMem := writePieces l bs s.hostMem }, .ok ())

/-- Take `n` free bytes (R47, R93; log 15). -/
def freeBytes (s : State) (n : Nat) : State × List Byte :=
  ({ s with freeCtr := s.freeCtr + n }, (List.range n).map fun i => Config.freeByte (s.freeCtr + i))

/-! ### Requests of an access, and one that fails (R43, R44, R47, R48) -/

/-- The memory-port channel of a physical address (R44). -/
def channelOf (s : State) (pa : Nat) : Nat :=
  let g := if getP s 0x0400 = 0 then 8 else if getP s 0x0400 = 1 then 10 else 12
  let c := (pa >>> g) % 32
  if getP s 0x0401 = 1 then c ^^^ ((pa >>> (g + 5)) % 32) else c

/-- Merge pieces that follow or overlap one another. -/
def mergePieces : List Piece → List Piece
  | [] => []
  | p :: r => match mergePieces r with
    | [] => [p]
    | q :: l =>
      if p.pa ≤ q.pa ∧ q.pa ≤ p.pa + p.len then { pa := p.pa, len := max p.len (q.pa + q.len - p.pa) } :: l else p :: q :: l

/-- Cut a run at granule boundaries and at 16 beats (R44). -/
def cutPiece (g : Nat) : Nat → Piece → List Piece
  | 0, _ => []
  | n + 1, p =>
    let k := min g 4096 - p.pa % min g 4096
    if p.len ≤ k then [p] else { p with len := k } :: cutPiece g n { pa := p.pa + k, len := p.len - k }

/-- The interleave granule. -/
def granule (s : State) : Nat := if getP s 0x0400 = 0 then 256 else if getP s 0x0400 = 1 then 1024 else 4096

/-- The requests that cover some pieces (R44). Accesses that one command answers whole are cut the same way for their errors
(log 78). -/
def requestsOf (s : State) (l : List Piece) : List Piece :=
  (mergePieces l).flatMap fun p => cutPiece (granule s) (p.len / 256 + 2) p

/-- The requests of an access to `n` bytes at a VA; none where it does not translate. -/
def reqCount (s : State) (ctx va n : Nat) (write : Bool) : Nat := match (xlateRange s ctx va n write).2 with
  | .ok l => (requestsOf s l).length
  | .error _ => 0

/-- Of the answer to several accesses of one row, the part that the next of them gets, of `n` requests, and what is left for
those after it (log 4). -/
def ioSplit (n : Nat) : Io → Io × Io
  | .bad e => if e.at_ < n then (.bad e, .ok) else (.ok, .bad { e with at_ := e.at_ - n })
  | io => (io, .ok)

/-- The lowest identifier that is neither outstanding nor quarantined (R43, R48). -/
def freeId (s : State) (write : Bool) (ch : Nat) : Option Nat :=
  (List.range 64).find? fun i => !(s.mport.out.any fun m => decide (m.write = write ∧ m.channel = ch ∧ m.id = i)) &&
    !s.mport.quar.contains (write, ch, i)

/-- Leave pieces with free bytes. -/
def freePieces (l : List Piece) (s : State) : State :=
  l.foldl (fun t p => let f := freeBytes t p.len; { f.1 with hostMem := memWrite f.1.hostMem p.pa f.2 }) s

/-- The address of the table entry of `level` that a walk for `va` reads. -/
def entryPa (m : Mem) (va : Nat) : List Level → Nat → Nat → Nat
  | [], _, table => table
  | l :: rest, level, table =>
    let at_ := table + 8 * ((va >>> l.shift) % 2 ^ l.width)
    if level ≤ l.num then at_ else entryPa m va rest level ((bits (leNat (memRead m at_ 8)) 51 8) * 256)

/-- A read returned poisoned data, and nothing worse. -/
def isPoison (e : IoErr) : Bool := decide (e.err = 3) && !e.write && !e.timeout

/-- A failed request is counted on its channel, and a time-out quarantines its identifier (R48, R491). -/
def errCount (r : ReqErr) (s : State) : State :=
  if r.timeout then
    ctrInc (640 + 8 * r.channel + 5) { s with mport := { s.mport with quar := s.mport.quar ++ [(r.write, r.channel, r.id)] } }
  else ctrInc (640 + 8 * r.channel + (if r.err = 3 ∧ r.write = false then 6 else 4)) s

/-- The request at `pa` fails: its channel is that of R44, its identifier the lowest free one. -/
def reqErr (pa : Nat) (write : Bool) (e : IoErr) (s : State) : ReqErr :=
  let ch := channelOf s pa
  { channel := ch, id := (freeId s write ch).getD 0, write := write, timeout := e.timeout, err := if e.timeout then 0 else e.err }

/-- Requests of an access, the failing one of them last. -/
def reqsTo (l : List Piece) (e : IoErr) (s : State) : List Piece :=
  let rs := requestsOf s l
  rs.take (e.at_ % max 1 rs.length + 1)

/-- Which request of the pieces `l` failed (R47). -/
def brokenReq (l : List Piece) (write : Bool) (e : IoErr) (s : State) : ReqErr :=
  reqErr (match (reqsTo l e s).getLast? with
    | some p => p.pa
    | none => 0) write e s

/-- A read that fails is counted. -/
def readBroken (l : List Piece) (e : IoErr) (s : State) : State := errCount (brokenReq l false e s) s

/-- A write that fails: the requests before the failing one are written, the bytes it drove are open, and the later ones
are not sent (R47; log 15). -/
def writeBroken (l : List Piece) (bs : List Byte) (e : IoErr) (s : State) : State :=
  let rs := reqsTo l e s
  let done := rs.dropLast
  freePieces (rs.drop done.length)
    (errCount (brokenReq l true e s) { s with hostMem := writePieces done (bs.take (sumN (done.map (·.len)))) s.hostMem })

/-- Set the kind-6 fields after a walk read met an error, and count it (R336). -/
def walkBroken (e : IoErr) (ctx level va : Nat) (s : State) : State :=
  let pa := entryPa s.hostMem (va % 2 ^ 48) levels level ((rootOf s ctx).getD 0)
  errCount (reqErr pa false e s) (recordFault ⟨6, level, va % 2 ^ 48, ctx⟩ s)

/-- Which walk read failed. -/
def walkReq (e : IoErr) (ctx level va : Nat) (s : State) : ReqErr :=
  reqErr (entryPa s.hostMem (va % 2 ^ 48) levels level ((rootOf s ctx).getD 0)) false e s

/-- The access that an error met: the write, if there is one and the error says so, or nothing is read. -/
def metWrite (e : IoErr) (rd wr : List Piece) : Bool := (e.write && !wr.isEmpty) || rd.isEmpty

/-- The job's accesses to the pieces `rd` and `wr`, the latter to receive `bs`, as the memory port answers them: an error
ends the job, naming the failed request (R47, R336, R497). A walk read that fails is a bus error, poisoned or not. -/
def jobIo (io : Io) (rd wr : List Piece) (bs : List Byte) (w : Where) (go : State → State) (s : State) : State :=
  match io with
  | .ok => go s
  | .walk e ctx level va =>
    jobFault 0x0030 (if e.timeout then 0x0405 else 0x0401) (ioDetail (walkReq e ctx level va s)) w (walkBroken e ctx level va s)
  | .bad e =>
    if rd.isEmpty ∧ wr.isEmpty then go s
    else if metWrite e rd wr then
      let e := { e with write := true }
      reqFault (brokenReq wr true e s) w (writeBroken wr bs e s)
    else
      let e := { e with write := false }
      reqFault (brokenReq rd false e s) w (readBroken rd e s)

/-- A translation fault on job data ends the job, naming Keyway and the VA (R191, R497). -/
def xlateFault (f : XFault) (w : Where) (s : State) : State := jobFault 0x0040 0x0402 (f.va % 2 ^ 48 / 2 ^ 16) w s

/-- An entry translates some byte of a range (R338). -/
def covers (va bytes lo len : Nat) : Bool := decide (va < lo + len ∧ lo < va + bytes)

/-- Remove the cached entries that translate any byte of a range (R338). -/
def tlbDrop (lo len : Nat) (s : State) : State :=
  { s with keyway := { s.keyway with
      tlb := s.keyway.tlb.filter fun t => !covers t.va t.bytes lo len,
      upper := s.keyway.upper.filter fun u => !covers u.va (if u.level = 2 then 2 ^ 39 else if u.level = 3 then 2 ^ 30 else 2 ^ 21) lo len } }

/-- Remove every cached entry of a context (R337). -/
def tlbDropCtx (ctx : Nat) (s : State) : State :=
  { s with keyway := { s.keyway with tlb := s.keyway.tlb.filter fun t => decide (t.ctx ≠ ctx),
                                     upper := s.keyway.upper.filter fun u => decide (u.ctx ≠ ctx) } }

/-- Empty the cache (R342). -/
def tlbClear (s : State) : State := { s with keyway := { s.keyway with tlb := [], upper := [] } }

/-- Two requests are one: the identifier is given when a request is issued. -/
def sameReq (a b : MReq) : Bool := decide ({ a with id := 0 } = { b with id := 0 })

/-- Pour channels that run and await responses, by number. -/
def poursBusy (s : State) : List Nat :=
  ((List.zip (List.range s.pour.ch.length) s.pour.ch).filter fun x => decide (x.2.st = .running) && x.2.busy).map (·.1)

/-- Tensor commands that have started, by order. -/
def tensorsOpen (s : State) : List Nat := (s.tensors.filter (·.queued.isNone)).map (·.cmd.order)

/-- What an MMU command still waits for. -/
def MmuWait.left (s : State) (w : MmuWait) : MmuWait :=
  { w with reqs := w.reqs.filter fun m => s.mport.out.any (sameReq m) || s.mport.wait.any (sameReq m),
           pours := w.pours.filter fun c => (poursBusy s).contains c,
           tensors := w.tensors.filter fun o => (tensorsOpen s).contains o }

/-- Nothing is left to wait for: for the job context's MMU_UNMAP, no Pour channel of that context either (R374). -/
def MmuWait.ended (s : State) (w : MmuWait) : Bool :=
  w.reqs.isEmpty && w.pours.isEmpty && w.tensors.isEmpty &&
    !(w.unmapJob && s.pour.ch.any fun x => decide (x.st ≠ .idle) && decide (x.ctx = 1))

/-- Work that used old translations has gone on: the MMU commands that waited for the last of it end (R338). -/
def mmuRetire (s : State) : State :=
  let l := s.keyway.retire.map (MmuWait.left s)
  (l.filter (MmuWait.ended s)).foldl (fun t w => finish w.cmd 0 0 0 0 0 t)
    { s with keyway := { s.keyway with retire := l.filter fun w => !w.ended s } }

/-- An MMU command ends when what was issued or translated before it has passed (R338; log 92). -/
def mmuEnd (unmapJob : Bool) (c : OpenCmd) (s : State) : State :=
  mmuRetire { s with keyway := { s.keyway with retire := s.keyway.retire ++
    [{ cmd := c, reqs := s.mport.out ++ s.mport.wait, pours := poursBusy s, tensors := tensorsOpen s, unmapJob := unmapJob }] } }

end Sys2Proof.Machine
end

