-- ==== Sys2Proof/Machine/Latch.lean ====
section
/-! DEFINITION. The Latch port: taking a packet, the checks of R61 in their order, acceptance, and holding (R68, R90,
R94); and the three rows of broken packets (R33, R34). -/

namespace Sys2Proof.Machine

/-- Every opcode of R71. -/
def opcodes : List Nat :=
  [0x01, 0x02, 0x03, 0x04, 0x05, 0x10, 0x11, 0x12, 0x14, 0x15, 0x16, 0x20, 0x21, 0x22, 0x23, 0x28, 0x29, 0x2A, 0x30,
   0x31, 0x32, 0x38, 0x39, 0x3A, 0x3B, 0x40, 0x41, 0x42, 0x44, 0x48, 0x50, 0x58, 0x59, 0x60, 0x61, 0x68, 0x70, 0x71]

/-- The header of R60 as 32 bytes. -/
def headerBytes (p : Packet) : List Byte :=
  leBytes 1 p.opcode.toNat ++ leBytes 1 (p.cls.toNat + b01 p.after * 4) ++ leBytes 2 p.tag.toNat ++
  leBytes 3 p.jobTag.toNat ++ leBytes 1 p.hdrVersion.toNat ++ leBytes 2 p.payloadLen.toNat ++ leBytes 2 0 ++
  leBytes 4 p.p0.toNat ++ leBytes 4 p.p1.toNat ++ leBytes 4 p.p2.toNat ++ leBytes 4 p.p3.toNat ++ leBytes 4 p.p4.toNat

/-- The payload, exactly payload_len bytes of it. -/
def pBody (p : Packet) : List Byte := padTo p.payloadLen.toNat p.payload

/-- The 48-bit value "in p1, p2" (R60). -/
def pVa (p : Packet) : Nat := p.p1.toNat + (p.p2.toNat % 65536) * 2 ^ 32

/-- The 64-bit value "in p1, p2". -/
def pVal64 (p : Packet) : Nat := p.p1.toNat + p.p2.toNat * 2 ^ 32

/-- kw_latch_accept for a first beat: boot is done, CTL is in service and a slot is free (R24, R30, R59). -/
def canTake (s : State) : Bool := s.rst.ctlReady && decide (domState s 0 = .inService) && decide (0 < s.latch.free)

/-- Taking a packet: a slot, a place in the order, the counter, the trace record and the ring record (R31, R393, R488,
R490). -/
def takePacket (p : Packet) (s : State) : State :=
  let s := { s with latch := { s.latch with free := s.latch.free - 1, order := s.latch.order + 1 } }
  recOriginal 0 0 0 false (headerBytes p ++ pBody p)
    (dripAt 3 0x0001 (p.opcode.toNat + p.tag.toNat * 2 ^ 8 + p.cls.toNat * 2 ^ 24) (ctrInc 41 s))

/-- What a held command is answered with from outside. -/
structure Ext where
  io : Io
  arrival : List Nat
  tiles : Nat
  verdict : Verdict
  key : KeyVerdict
  deriving DecidableEq, Repr

/-- Nothing from outside. -/
def Ext.none : Ext := { io := .ok, arrival := [], tiles := 0, verdict := ⟨false, false, false, false⟩, key := ⟨false, false⟩ }

/-- Only a memory-port answer. -/
def Ext.ofIo (io : Io) : Ext := { Ext.none with io := io }

/-- Only signature verdicts. -/
def Ext.ofVerdict (io : Io) (v : Verdict) : Ext := { Ext.none with io := io, verdict := v }

/-- A command with what it is answered with. -/
def heldOf (why : HoldWhy) (p : Packet) (x : Ext) (order : Nat) : Held :=
  { why := why, cmd := p, io := x.io, arrival := x.arrival, tiles := x.tiles, verdict := x.verdict, key := x.key, order := order }

/-- Hold a command. -/
def holdCmd (why : HoldWhy) (p : Packet) (x : Ext) (order : Nat) (s : State) : State :=
  { s with latch := { s.latch with held := s.latch.held ++ [heldOf why p x order] } }

/-- Opcodes whose packets name VA ranges that check 8 of R61 translates. -/
def namesVa (p : Packet) : Bool :=
  decide (p.opcode.toNat ∈ [0x05, 0x10, 0x14, 0x16, 0x30, 0x44, 0x58, 0x60, 0x61, 0x68, 0x71]) ||
    (decide (p.opcode.toNat = 0x03) && decide (4 < p.payloadLen.toNat))

/-- The command needs the memory port while MEM makes no requests (R59): it starts after the rejoin (log 66). -/
def memWaits (p : Packet) (s : State) : Bool := namesVa p && decide (domState s 13 ≠ .inService)

/-- A command may not start yet: an earlier one has set after and has not started, it has set after itself while earlier
final replies are unsent (R68), or it waits for MEM. -/
def mustWait (p : Packet) (order : Nat) (s : State) : Bool :=
  s.latch.held.any (fun h => decide (h.why = .after) && h.cmd.after && decide (h.order < order)) ||
  (p.after && (s.latch.held.any (fun h => decide (h.order < order)) || s.latch.opened.any (fun c => decide (c.order < order)) ||
    s.latch.replies.any (fun r => decide (r.order < order)))) || memWaits p s

/-- The packet of a row with opcode `op`: taken, then held by after or started. A listed opcode of another row is that
row's command and changes nothing here (log 5). -/
def takeCmd (op : Nat) (p : Packet) (x : Ext) (start : Nat → State → State) (s : State) : State :=
  if canTake s ∧ (p.opcode.toNat = op ∨ p.opcode.toNat ∉ opcodes) then
    let order := s.latch.order
    let s := takePacket p s
    if mustWait p order s then holdCmd .after p x order s else start order s
  else s

/-- The checks of a command beside those every packet has (R61): payload length, ranges of fields, states (status, r0,
r1), the VA ranges it names (context, VA, bytes, write) and resources. -/
structure Checks where
  len : Nat → Bool
  range : Bool
  state : Option (Nat × Nat × Nat)
  ranges : List (Nat × Nat × Nat × Bool)
  res : Option Nat
  deriving Inhabited

/-- No check of its own; no payload. -/
def Checks.plain : Checks := { len := fun n => decide (n = 0), range := true, state := none, ranges := [], res := none }

/-- Job states that admit a job-scope opcode (R90). COLL_POST in Draining is admitted here and checked by its own rule. -/
def jobAdmits (s : State) (op : Nat) : Bool :=
  match s.job.st with
  | .closed => false
  | .opened => decide (op ∈ [0x11, 0x12, 0x14, 0x15, 0x16, 0x30])
  | .starting => decide (op ≠ 0x12)
  | .running => decide (op ≠ 0x12)
  | .draining => decide (op ∈ [0x32, 0x21, 0x31])
  | .faulted => decide (op = 0x11)

/-- Check every range; the status of the first failure (check 8, R501). -/
def checkRanges : List (Nat × Nat × Nat × Bool) → Io → State → State × Option Nat
  | [], _, s => (s, none)
  | (ctx, va, n, w) :: r, io, s =>
    match io with
    | .walk e c level a => (walkBroken e c level a s, some 0x0407)
    | _ => match xlateRange s ctx va n w with
      | (s, .error _) => (s, some 0x0402)
      | (s, .ok _) => checkRanges r io s

/-- Checks 2 to 7 of R61: the first failing one's status, r0 and r1. -/
def checkFields (op : Nat) (p : Packet) (c : Checks) (s : State) : Option (Nat × Nat × Nat) :=
  if p.hdrVersion.toNat ≠ 2 then some (0x0103, 0, 0)
  else if p.opcode.toNat ≠ op then some (0x0104, 0, 0)
  else if ¬ (p.payloadLen.toNat ≤ 4096 ∧ c.len p.payloadLen.toNat = true) then some (0x0105, 0, 0)
  else if jobScope op = true ∧ ¬ (jobExists s = true ∧ p.jobTag.toNat = s.job.tag) then some (0x0202, 0, 0)
  else if c.range = false then some (0x0106, 0, 0)
  else if jobScope op = true ∧ jobAdmits s op = false then some (0x0201, 0, 0)
  else c.state

/-- All checks of R61; a failure is the command's single reply and has no other effect. Otherwise `ok` goes on. -/
def checked (op : Nat) (async : Bool) (p : Packet) (order : Nat) (io : Io) (c : Checks) (ok : State → State) (s : State) : State :=
  match checkFields op p c s with
  | some (st, r0, r1) => replyOne p order st r0 r1 0 0 s
  | none =>
    match checkRanges c.ranges io s with
    | (s, some st) => replyOne p order st 0 0 0 0 s
    | (s, none) =>
      match c.res with
      | some st => replyOne p order st 0 0 0 0 s
      | none =>
        if async = true ∧ 512 ≤ s.latch.completions then replyOne p order 0x0301 0 0 0 0 s else ok s

/-- ST_ASYNC: the command is accepted, with a completion entry (R64, R65). -/
def accept (p : Packet) (order r0 : Nat) (s : State) : State :=
  reply { tag := p.tag.toNat, status := 0x0001, opcode := p.opcode.toNat, final := false, kt := s.kt, r0 := r0, r1 := 0,
          r2 := 0, r3 := 0, order := order, first := true, entry := false }
    { s with latch := { s.latch with completions := s.latch.completions + 1, opened := s.latch.opened ++ [openOf p order] } }

/-- A synchronous command: checks, then its effect, which makes the reply. -/
def syncCmd (op : Nat) (p : Packet) (order : Nat) (io : Io) (c : Checks) (f : State → State) (s : State) : State :=
  checked op false p order io c f s

/-- An asynchronous command: checks, ST_ASYNC, then its effect. -/
def asyncCmd (op : Nat) (p : Packet) (order : Nat) (io : Io) (c : Checks) (f : OpenCmd → State → State) (s : State) : State :=
  checked op true p order io c (fun s => f (openOf p order) (accept p order 0 s)) s

/-- An asynchronous command that brace holds (R94): accepted, then held or started. -/
def braceCmd (op : Nat) (p : Packet) (x : Ext) (order : Nat) (c : Checks) (f : OpenCmd → State → State) (s : State) : State :=
  checked op true p order x.io c
    (fun s => let s := accept p order 0 s
              if inBrace s then holdCmd .brace p x order s else f (openOf p order) s) s

/-- The status of a failed access of a command's own: poison, or a bus error (R501). -/
def ownStatus (e : IoErr) : Nat := if isPoison e then 0x0406 else 0x0407

/-- A command's own read of `n` bytes at a VA: the bytes, or the status it fails with (R501). -/
def ownRead (ctx va n : Nat) (io : Io) (s : State) : State × Except Nat (List Byte) :=
  match io with
  | .walk e c level a => (walkBroken e c level a s, .error 0x0407)
  | .ok => match hostRead s ctx va n with
    | (s, .error _) => (s, .error 0x0402)
    | (s, .ok bs) => (s, .ok bs)
  | .bad e => match xlateRange s ctx va n false with
    | (s, .error _) => (s, .error 0x0402)
    | (s, .ok l) => (readBroken l e s, .error (ownStatus { e with write := false }))

/-- A command's own write of results at a VA: none, or the status it fails with (R47, R501). -/
def ownWrite (ctx va : Nat) (bs : List Byte) (io : Io) (s : State) : State × Option Nat :=
  match io with
  | .walk e c level a => (walkBroken e c level a s, some 0x0407)
  | .ok => match hostWrite s ctx va bs with
    | (s, .error _) => (s, some 0x0402)
    | (s, .ok _) => (s, none)
  | .bad e => match xlateRange s ctx va bs.length true with
    | (s, .error _) => (s, some 0x0402)
    | (s, .ok l) => (writeBroken l bs e s, some 0x0407)

/-! ### Broken packets -/

/-- LATCH_FRAMING_ERROR: the packet takes a slot, is not executed and is answered ST_LATCH_FRAMING (R33). -/
def execLatchFramingError (p : Packet) (s : State) : Host.Outcome State Fault Refusal :=
  live (fun s => if canTake s then
      let order := s.latch.order
      replyOne p order 0x0101 0 0 0 0 (takePacket p s)
    else s) s

/-- LATCH_STRAY_BEAT: a beat with sop low and no packet open is discarded and takes no slot (R33). -/
def execLatchStrayBeat (s : State) : Host.Outcome State Fault Refusal := live (fun s => s) s

/-- LATCH_PARITY_ERROR: answered ST_LATCH_PARITY under the received tag where header bytes 0 to 3 are good; otherwise
EV_LATCH_PARITY, held in the packet's command slot with the header as received (R34). -/
def execLatchParityError (hdr : List Byte) (hdrGood : Bool) (s : State) : Host.Outcome State Fault Refusal :=
  live (fun s => if canTake s then
      let h := padTo 32 hdr
      let p : Packet :=
        { opcode := BitVec.ofNat 8 (leAt h 0 1), cls := BitVec.ofNat 2 (leAt h 1 1), after := bit (leAt h 1 1) 2,
          tag := BitVec.ofNat 16 (leAt h 2 2), jobTag := BitVec.ofNat 24 (leAt h 4 3),
          hdrVersion := BitVec.ofNat 8 (leAt h 7 1), payloadLen := BitVec.ofNat 16 (leAt h 8 2),
          p0 := BitVec.ofNat 32 (leAt h 12 4), p1 := BitVec.ofNat 32 (leAt h 16 4), p2 := BitVec.ofNat 32 (leAt h 20 4),
          p3 := BitVec.ofNat 32 (leAt h 24 4), p4 := BitVec.ofNat 32 (leAt h 28 4), payload := [] }
      let order := s.latch.order
      let s := takePacket p s
      if hdrGood then replyOne p order 0x0102 0 0 0 0 s
      else
        let e := evMake s 0x0002 false 0x0001 0
        let s := dripAt 5 0x0001 (e.code + e.seq * 2 ^ 16) { s with ev := { s.ev with seq := (s.ev.seq + 1) % 65536 } }
        { s with latch := { s.latch with parity := s.latch.parity ++ [(e, h)] } }
    else s) s

end Sys2Proof.Machine
end

