-- ==== Sys2Proof/Machine/Sfu.lean ====
section
/-! DEFINITION. The special functions (R158 to R183, R496): the ROM tables, exp2 and log2, the composed functions,
softmax, row statistics, loaded tables, and the 1.4 compatibility forms. -/

namespace Sys2Proof.Machine

/-- sfu.rom_exp2: the entries that the construction of R496 gives. -/
def romExp2 : List Nat :=
  [0x1ec58b9000000000, 0x1ee58f6900b1afa6, 0x1ef593450163daa0, 0x1f05972402168144, 0x1f259b0502c9a3e7] ++
  [0x1f359ee9037d42e1, 0x1f45a2d004315e87, 0x1f65a6ba04e5f72f, 0x1f75aaa6059b0d31, 0x1f85ae940650a0e4] ++
  [0x1fa5b2860706b29e, 0x1fb5b67b07bd42b7, 0x1fc5ba7208745187, 0x1fe5be6b092bdf66, 0x1ff5c26809e3ecac] ++
  [0x2015c6670a9c79b2, 0x2025ca690b5586d0, 0x2035ce6e0c0f145e, 0x2055d2760cc922b7, 0x2065d6810d83b234] ++
  [0x2085da8e0e3ec32d, 0x2095de9e0efa55fe, 0x20a5e2b10fb66b00, 0x20c5e6c71073028d, 0x20d5eadf11301d01] ++
  [0x20f5eefb11edbab6, 0x2105f31912abdc07, 0x2125f73a136a814f, 0x2135fb5e1429aaeb, 0x2145ff8514e95935] ++
  [0x216603af15a98c8a, 0x217607dc166a4547, 0x21960c0b172b83c8, 0x21a6103e17ed4869, 0x21c6147318af9389] ++
  [0x21d618ac19726583, 0x21f61ce71a35beb7, 0x220621251af99f81, 0x222625661bbe0840, 0x223629aa1c82f953] ++
  [0x22562df11d487317, 0x2266323b1e0e75eb, 0x228636881ed50230, 0x22963ad81f9c1844, 0x22b63f2b2063b886] ++
  [0x22c64381212be358, 0x22e647da21f49918, 0x22f64c3622bdda28, 0x230650952387a6e7, 0x232654f72451ffb8] ++
  [0x2346595c251ce4fb, 0x23565dc425e85712, 0x2376623026b4565e, 0x2386669e2780e342, 0x23a66b0f284dfe1f] ++
  [0x23b66f83291ba759, 0x23d673fb29e9df52, 0x23e678762ab8a66d, 0x24067cf32b87fd0e, 0x241681742c57e397] ++
  [0x243685f82d285a6e, 0x24568a7f2df961f6, 0x24668f0a2ecafa94, 0x248693972f9d24ac, 0x24969828306fe0a3] ++
  [0x24b69cbb31432edf, 0x24d6a15232170fc5, 0x24e6a5ec32eb83bb, 0x2506aa8a33c08b26, 0x2516af2a3496266e] ++
  [0x2536b3ce356c55f9, 0x2556b87536431a2e, 0x2566bd1f371a7374, 0x2586c1cc37f26232, 0x2596c67d38cae6d0] ++
  [0x25b6cb3139a401b7, 0x25d6cfe83a7db34e, 0x25e6d4a23b57fbff, 0x2606d9603c32dc31, 0x2626de213d0e544f] ++
  [0x2636e2e53dea64c1, 0x2656e7ad3ec70df2, 0x2676ec783fa4504b, 0x2686f14640822c36, 0x26a6f6184160a21f] ++
  [0x26c6faed423fb271, 0x26d6ffc5431f5d95, 0x26f704a043ffa3f8, 0x2717098044e08606, 0x27270e6245c2042a] ++
  [0x2747134846a41ed2, 0x276718314786d669, 0x27771d1d486a2b5c, 0x2797220e494e1e19, 0x27b727014a32af0d] ++
  [0x27d72bf84b17dea7, 0x27e730f24bfdad53, 0x280735f04ce41b81, 0x28273af14dcb29a0, 0x28473ff64eb2d81e] ++
  [0x285744fe4f9b276a, 0x28774a0a508417f4, 0x28974f19516daa2d, 0x28b7542c5257de84, 0x28c759425342b56a] ++
  [0x28e75e5c542e2f4f, 0x29076379551a4ca6, 0x2927689a56070ddf, 0x29376dbe56f4736b, 0x295772e657e27dbe] ++
  [0x2977781258d12d49, 0x29977d4159c08280, 0x29b782735ab07dd5, 0x29d787aa5ba11fbb, 0x29e78ce45c9268a6] ++
  [0x2a0792215d84590a, 0x2a2797635e76f15b, 0x2a479ca75f6a320e, 0x2a67a1f0605e1b97, 0x2a77a73c6152ae6d] ++
  [0x2a97ac8c6247eb04, 0x2ab7b1e0633dd1d2, 0x2ad7b7376434634d, 0x2af7bc92652b9fec, 0x2b17c1f166238825] ++
  [0x2b37c753671c1c71, 0x2b47ccb968155d45, 0x2b67d223690f4b1a, 0x2b87d7916a09e668, 0x2ba7dd026b052fa7] ++
  [0x2bc7e2776c012751, 0x2be7e7f06cfdcddd, 0x2c07ed6d6dfb23c6, 0x2c27f2ee6ef92986, 0x2c47f8726ff7df95] ++
  [0x2c67fdfb70f7466f, 0x2c88038771f75e8f, 0x2c98091672f8286f, 0x2cb80eaa73f9a48a, 0x2cd8144274fbd35d] ++
  [0x2cf819de75feb564, 0x2d181f7d77024b1b, 0x2d382520780694fe, 0x2d582ac8790b938b, 0x2d7830737a11473f] ++
  [0x2d9836227b17b097, 0x2db83bd57c1ed013, 0x2dd8418c7d26a630, 0x2df847477e2f336d, 0x2e184d067f387849] ++
  [0x2e3852c980427544, 0x2e585890814d2add, 0x2e785e5b82589995, 0x2e98642a8364c1ec, 0x2eb869fd8471a462] ++
  [0x2ed86fd4857f417a, 0x2ef875af868d99b4, 0x2f187b8e879cad93, 0x2f38817188ac7d99, 0x2f58875989bd0a48] ++
  [0x2f788d448ace5423, 0x2f9893348be05bad, 0x2fb899278cf3216b, 0x2fe89f1f8e06a5e1, 0x3008a51b8f1ae991] ++
  [0x3028ab1b902fed03, 0x3048b11f9145b0b9, 0x3068b728925c353b, 0x3088bd3493737b0d, 0x30a8c345948b82b6] ++
  [0x30c8c95a95a44cbd, 0x30e8cf7496bdd9a7, 0x3108d59197d829fe, 0x3138dbb398f33e48, 0x3158e1d99a0f170d] ++
  [0x3178e8039b2bb4d5, 0x3198ee319c49182a, 0x31b8f4649d674195, 0x31d8fa9b9e86319e, 0x31f900d79fa5e8d0] ++
  [0x32290717a0c667b6, 0x32490d5ba1e7aed9, 0x326913a3a309bec5, 0x328919f0a42c9804, 0x32a92041a5503b24] ++
  [0x32d92697a674a8af, 0x32f92cf1a799e133, 0x3319334fa8bfe53c, 0x333939b2a9e6b558, 0x33594019ab0e5213] ++
  [0x33894685ac36bbfd, 0x33a94cf5ad5ff3a4, 0x33c95369ae89f996, 0x33e959e2afb4ce62, 0x34196060b0e07299] ++
  [0x343966e2b20ce6ca, 0x34596d69b33a2b85, 0x347973f4b468415b, 0x34a97a83b59728de, 0x34c98118b6c6e29f] ++
  [0x34e987b0b7f76f30, 0x35198e4eb928cf22, 0x353994f0ba5b030a, 0x35599b96bb8e0b7a, 0x3579a241bcc1e905] ++
  [0x35a9a8f1bdf69c3f, 0x35c9afa6bf2c25bd, 0x35e9b65fc0628614, 0x3619bd1dc199bdd8, 0x3639c3dfc2d1cda0] ++
  [0x3659caa6c40ab600, 0x3689d172c5447790, 0x36a9d843c67f12e5, 0x36d9df18c7ba8899, 0x36f9e5f2c8f6d940] ++
  [0x3719ecd1ca340575, 0x3749f3b4cb720dcf, 0x3769fa9cccb0f2e7, 0x379a018acdf0b556, 0x37ba087bcf3155b6] ++
  [0x37da0f72d072d4a0, 0x380a166ed1b532b1, 0x382a1d6ed2f87081, 0x385a2474d43c8ead, 0x387a2b7ed5818dd0] ++
  [0x389a328dd6c76e86, 0x38ca39a1d80e316d, 0x38ea40bad955d720, 0x391a47d7da9e603e, 0x393a4efadbe7cd64] ++
  [0x396a5622dd321f30, 0x398a5d4ede7d5642, 0x39ba6480dfc97338, 0x39da6bb7e11676b2, 0x3a0a72f2e264614f] ++
  [0x3a2a7a33e3b333b1, 0x3a5a8179e502ee79, 0x3a7a88c3e6539246, 0x3aaa9013e7a51fbc, 0x3aca9768e8f7977d] ++
  [0x3afa9ec2ea4afa2a, 0x3b2aa621eb9f4868, 0x3b4aad85ecf482d9, 0x3b7ab4eeee4aaa22, 0x3b9abc5defa1bee6] ++
  [0x3bcac3d1f0f9c1cb, 0x3bfacb49f252b377, 0x3c1ad2c7f3ac948e, 0x3c4ada4af50765b7, 0x3c6ae1d3f6632799] ++
  [0x3c9ae960f7bfdada, 0x3ccaf0f3f91d8022, 0x3ceaf88bfa7c181a, 0x3d1b0029fbdba369, 0x3d4b07cbfd3c22b9] ++
  [0x3d6b0f73fe9d96b3]

/-- sfu.rom_log2: the entries that the construction of R496 gives. -/
def romLog2 : List Nat :=
  [0xa40b8aa100000000, 0xa4bb7f2201709c47, 0xa57b73ba02dfca17, 0xa62b6868044d8c46, 0xa6db5d2d05b9e5a1] ++
  [0xa78b52070724d8ef, 0xa82b46f8088e68eb, 0xa8db3bfd09f6984a, 0xa98b31190b5d69bb, 0xaa2b26490cc2dfe2] ++
  [0xaacb1b8e0e26fd5d, 0xab7b10e70f89c4c2, 0xac1b065510eb38a0, 0xacaafbd8124b5b7e, 0xad4af16d13aa2fdd] ++
  [0xadeae7171507b836, 0xae8adcd41663f6fb, 0xaf1ad2a517beee97, 0xafbac8881918a16e, 0xb04abe7e1a7111df] ++
  [0xb0dab4871bc84241, 0xb16aaaa21d1e34e3, 0xb1faa0d01e72ec11, 0xb28a970f1fc66a0f, 0xb31a8d612118b11a] ++
  [0xb3aa83c32269c369, 0xb42a7a3823b9a32f, 0xb4ba70be25085296, 0xb53a67542655d3c5, 0xb5ca5dfc27a228db] ++
  [0xb64a54b428ed53f3, 0xb6ca4b7d2a375721, 0xb74a42572b803474, 0xb7ca39402cc7edf6, 0xb84a303a2e0e85aa] ++
  [0xb8ca27432f53fd90, 0xb94a1e5d309857a0, 0xb9ca158531db95d0, 0xba3a0cbe331dba0f, 0xbaba0405345ec646] ++
  [0xbb29fb5b359ebc5b, 0xbba9f2c136dd9e2f, 0xbc19ea35381b6d9c, 0xbc89e1b839582c79, 0xbcf9d9493a93dc98] ++
  [0xbd69d0e93bce7fc7, 0xbdd9c8973d0817cf, 0xbe49c0533e40a672, 0xbeb9b81c3f782d72, 0xbf29aff440aeae89] ++
  [0xbf99a7d941e42b6f, 0xc0099fcc4318a5d5, 0xc06997cc444c1f6b, 0xc0d98fda457e99db, 0xc13987f446b016ca] ++
  [0xc1a9801c47e097db, 0xc209785049101eac, 0xc26970914a3eacd7, 0xc2d968df4b6c43f1, 0xc33961394c98e58e] ++
  [0xc39959a04dc4933b, 0xc3f952134eef4e83, 0xc4594a92501918ec, 0xc4b9431e5141f3fb, 0xc5193bb55269e12f] ++
  [0xc57934585390e204, 0xc5d92d0654b6f7f1, 0xc62925c055dc246d, 0xc6891e86570068e8, 0xc6e917575823c6d1] ++
  [0xc739103459463f92, 0xc799091b5a67d492, 0xc7e9020e5b888736, 0xc848fb0c5ca858df, 0xc898f4145dc74aea] ++
  [0xc8e8ed275ee55eb1, 0xc948e6456002958c, 0xc998df6e611ef0cf, 0xc9e8d8a1623a71cc, 0xca38d1de635519cf] ++
  [0xca88cb26646eea24, 0xcae8c4786587e415, 0xcb38bdd466a008e4, 0xcb88b73a67b759d6, 0xcbd8b0aa68cdd82a] ++
  [0xcc18aa2469e3851c, 0xcc68a3a86af861e6, 0xccb89d356c0c6fc0, 0xcd0896cc6d1fafdd, 0xcd58906c6e322370] ++
  [0xcd988a166f43cba8, 0xcde883c97054a9b1, 0xce287d867164beb5, 0xce78774c72740bdb, 0xceb8711a73829249] ++
  [0xcf086af274905320, 0xcf4864d3759d4f81, 0xcf985ebd76a98888, 0xcfd858af77b4ff51, 0xd01852aa78bfb4f4] ++
  [0xd0684cae79c9aa88, 0xd0a846ba7ad2e11f, 0xd0e840cf7bdb59cd, 0xd1283aed7ce3159f, 0xd17835127dea15a3] ++
  [0xd1b82f417ef05ae4, 0xd1f829777ff5e66a, 0xd23823b580fab93c, 0xd2781dfc81fed45d, 0xd2b8184a830238d0] ++
  [0xd2f812a18404e794, 0xd3380cff8506e1a8, 0xd378076686082807, 0xd3a801d48708bbaa, 0xd3e7fc4988089d8b] ++
  [0xd427f6c78907ce9d, 0xd467f14c8a064fd5, 0xd4a7ebd88b042225, 0xd4d7e66c8c01467c, 0xd517e1078cfdbdc8] ++
  [0xd557dbaa8df988f5, 0xd587d6548ef4a8ed, 0xd5c7d1068fef1e98, 0xd5f7cbbe90e8eade, 0xd637c67d91e20ea1] ++
  [0xd667c14492da8ac6, 0xd6a7bc1293d2602c, 0xd6d7b6e694c98fb4, 0xd717b1c195c01a3a, 0xd747aca496b6009b] ++
  [0xd777a78d97ab43af, 0xd7b7a27c989fe451, 0xd7e79d739993e356, 0xd81798709a874193, 0xd85793749b79ffdb] ++
  [0xd8878e7e9c6c1f01, 0xd8b7898e9d5d9fd5, 0xd8e784a69e4e8325, 0xd9177fc39f3ec9bd, 0xd9577ae7a02e746a] ++
  [0xd9877611a11d83f5, 0xd9b77141a20bf926, 0xd9e76c78a2f9d4c5, 0xda1767b4a3e71797, 0xda4762f7a4d3c25e] ++
  [0xda775e40a5bfd5df, 0xdaa7598fa6ab52da, 0xdad754e4a7963a0d, 0xdb07503ea8808c38, 0xdb374b9fa96a4a17] ++
  [0xdb674705aa537465, 0xdb874271ab3c0bdc, 0xdbb73de3ac241135, 0xdbe7395bad0b8526, 0xdc1734d8adf26866] ++
  [0xdc47305baed8bba8, 0xdc772be3afbe7fa1, 0xdc972771b0a3b502, 0xdcc72305b1885c7b, 0xdcf71e9eb26c76bc] ++
  [0xdd171a3cb3500472, 0xdd4715e0b433064b, 0xdd771189b5157cf3, 0xdd970d38b5f76913, 0xddc708ebb6d8cb54] ++
  [0xddf704a4b7b9a45e, 0xde170062b899f4d9, 0xde46fc26b979bd69, 0xde66f7eeba58feb2, 0xde96f3bbbb37b959] ++
  [0xdeb6ef8ebc15edff, 0xdee6eb65bcf39d45, 0xdf06e742bdd0c7ca, 0xdf36e323bead6e2d, 0xdf56df0abf89910c] ++
  [0xdf76daf5c0653103, 0xdfa6d6e5c1404eae, 0xdfc6d2dac21aeaa6, 0xdff6ced3c2f50586, 0xe016cad2c3ce9fe4] ++
  [0xe036c6d5c4a7ba58, 0xe066c2dcc5805579, 0xe086bee9c65871da, 0xe0a6bafac7301011, 0xe0d6b70fc80730b0] ++
  [0xe0f6b329c8ddd449, 0xe116af48c9b3fb6d, 0xe136ab6bca89a6ac, 0xe166a793cb5ed695, 0xe186a3bfcc338bb7] ++
  [0xe1a69fefcd07c69e, 0xe1c69c24cddb87d6, 0xe1e6985dceaecfeb, 0xe206949acf819f66, 0xe22690dcd053f6d2] ++
  [0xe2568d22d125d6b7, 0xe276896cd1f73f9c, 0xe29685bad2c83209, 0xe2b6820dd398ae81, 0xe2d67e63d468b58c] ++
  [0xe2f67abed53847ac, 0xe316771dd6076565, 0xe3367380d6d60f39, 0xe3566fe6d7a445a9, 0xe3766c51d8720936] ++
  [0xe39668c0d93f5a60, 0xe3b66533da0c39a5, 0xe3d661aadad8a784, 0xe3f65e24dba4a47b, 0xe4165aa3dc703104] ++
  [0xe4365725dd3b4d9d, 0xe45653acde05fac0, 0xe4665036ded038e6, 0xe4864cc4df9a088a, 0xe4a64955e0636a24] ++
  [0xe4c645eae12c5e2b, 0xe4e64283e1f4e517, 0xe5063f20e2bcff5e, 0xe5163bc0e384ad75, 0xe5363864e44befd0] ++
  [0xe556350ce512c6e5, 0xe57631b7e5d93326, 0xe5962e66e69f3506, 0xe5a62b18e764ccf7, 0xe5c627cee829fb69] ++
  [0xe5e62487e8eec0ce, 0xe6062144e9b31d94, 0xe6161e04ea77122b, 0xe6361ac8eb3a9f02, 0xe656178febfdc485] ++
  [0xe666145aecc08322, 0xe6861128ed82db45, 0xe6a60df9ee44cd5a, 0xe6c60acdef0659cc, 0xe6d607a5efc78104] ++
  [0xe6f60480f088436d, 0xe706015ff148a170, 0xe725fe41f2089b75, 0xe745fb26f2c831e4, 0xe755f80ef3876524] ++
  [0xe775f4f9f446359b, 0xe785f1e7f504a3af, 0xe7a5eed9f5c2afc6, 0xe7c5ebcef6805a44, 0xe7d5e8c6f73da38e] ++
  [0xe7f5e5c1f7fa8c05, 0xe805e2bff8b7140f, 0xe825dfc0f9733c0c, 0xe835dcc4fa2f045e, 0xe855d9ccfaea6d67] ++
  [0xe865d6d6fba57787, 0xe885d3e3fc60231e, 0xe895d0f3fd1a708c, 0xe8b5ce06fdd4602e, 0xe8c5cb1cfe8df264] ++
  [0x1725c55100000000]

/-- A table's identity (R161). -/
def romId (l : List Nat) : Nat := crc32c (l.flatMap (leBytes 8))

/-- sfu.exp2_id. -/
def sfuExp2Id : Nat := romId romExp2

/-- sfu.log2_id. -/
def sfuLog2Id : Nat := romId romLog2

/-- C2 of an entry: two's complement in 12 bits. -/
def romC2 (v : Nat) : Int := sext 12 (v >>> 52)

/-- The factor exp2(a) as significand and exponent, for a value that reaches the built-in function with a finite argument
between −1,047 and 1,024 (R159). -/
def exp2Exact (a : Dy) : Nat × Int :=
  if dyGt 1 (-26) a.n.natAbs a.e then (1, 0)
  else
    let x := a.floorAt 40
    let n := x / 2 ^ 40
    let f := (x % 2 ^ 40).toNat
    let v := romExp2.getD (f / 2 ^ 32) 0
    let t := f % 2 ^ 32
    let p : Int := ((2 ^ 32 + bits v 31 0) * 2 ^ 59 : Nat) + ((bits v 51 32) * t * 2 ^ 32 : Nat) + romC2 v * ((t * t : Nat) : Int)
    (p.toNat, n - 91)

/-- exp2 (R159), rounded once to a format. -/
def exp2R (f : Fmt) (x : Num) : Num :=
  match x with
  | .nan => .nan
  | .inf neg => if neg then .zero else .inf false
  | .fin n m e =>
    let d := dyOf n m e
    if !d.lt ⟨1024, 0⟩ then .inf false
    else if !(Dy.lt ⟨-1047, 0⟩ d) then .zero
    else
      let r := exp2Exact d
      f.roundQ false r.1 1 r.2

/-- log2 of a positive finite value as an exact dyadic (R160). -/
def log2Exact (m : Nat) (e : Int) : Dy :=
  let l := m.log2
  let fr := m - 2 ^ l
  let i := fr * 256 / 2 ^ l
  let k := l + 8
  let t0 := fr * 256 - i * 2 ^ l
  let v := romLog2.getD i 0
  let t := if i = 255 then 2 ^ l - t0 else t0
  let d := 32 + 2 * k
  let p : Int := ((bits v 31 0) * 2 ^ (2 * k) : Nat) + ((bits v 51 32) * t * 2 ^ (13 + k) : Nat) + romC2 v * ((t * t * 2 ^ 21 : Nat) : Int)
  let q : Int := e + l
  if i = 255 then ⟨(q + 1) * ((2 ^ d : Nat) : Int) - p, -(d : Int)⟩ else ⟨q * ((2 ^ d : Nat) : Int) + p, -(d : Int)⟩

/-- log2 (R160). -/
def log2R (f : Fmt) (x : Num) : Num :=
  match x with
  | .nan => .nan
  | .inf neg => if neg then .nan else .inf false
  | .fin n m e =>
    if m = 0 then .inf true
    else if n then .nan
    else
      let d := log2Exact m e
      if d.n = 0 then .zero else f.roundQ (decide (d.n < 0)) d.n.natAbs 1 d.e

/-- A dyadic rounded to the nearest multiple of 2^−40; a tie goes to the even one (log 73). -/
def near40 (d : Dy) : Dy :=
  let r := rneQ d.n.natAbs 1 (d.e + 40)
  ⟨if d.n < 0 then -(r : Int) else r, -40⟩

/-- exp2 of a dyadic times 2^k, rounded once. -/
def exp2Scaled (f : Fmt) (neg : Bool) (d : Dy) (k : Int) : Num :=
  let r := exp2Exact d
  f.roundQ neg r.1 1 (r.2 + k)

/-- 1 / x (R164). -/
def recipR (f : Fmt) (x : Num) : Num :=
  match x with
  | .nan => .nan
  | .inf n => .fin n 0 0
  | .fin n m e =>
    if m = 0 then .inf n
    else
      let l := near40 (log2Exact m (-(m.log2 : Int)))
      exp2Scaled f n ⟨-l.n, l.e⟩ (-(e + m.log2))

/-- x^(−1/2) (R164). -/
def rsqrtR (f : Fmt) (x : Num) : Num :=
  match x with
  | .nan => .nan
  | .inf n => if n then .nan else .zero
  | .fin n m e =>
    if m = 0 then .inf n
    else if n then .nan
    else
      let l := near40 (log2Exact m (-(m.log2 : Int)))
      let q := e + m.log2
      if q % 2 = 0 then exp2Scaled f false ⟨-l.n, l.e - 1⟩ (-(q / 2))
      else exp2Scaled f false ⟨-(l.n + 2 ^ 40), l.e - 1⟩ (-((q - 1) / 2))

/-- The base-2 sigmoid (R164, R165). -/
def sigmoidR (x : Num) : Num := recipR fp32 (w36.add .one (exp2R w36 x.neg))

/-- log₂e as a 64-bit constant (R164): its 64 leading bits, rounded to nearest (log 74). -/
def log2eConst : Dy := ⟨0xb8aa3b295c17f0bc, -63⟩

/-- ln 2 as a 48-bit constant (R164): its 48 leading bits, rounded to nearest (log 74). -/
def ln2Const : Dy := ⟨0xb17217f7d1cf, -48⟩

/-- e^x (R164): no command of the table reaches it. -/
def expR (f : Fmt) (x : Num) : Num :=
  match x with
  | .fin n m e => exp2R f (Dy.num ⟨((dyOf n m e).mul log2eConst).floorAt 40, -40⟩ false)
  | x => exp2R f x

/-- ln x (R164): the exact log2 times ln 2, rounded once. No command of the table reaches it. -/
def lnR (f : Fmt) (x : Num) : Num :=
  match x with
  | .fin false m e =>
    if m = 0 then .inf true
    else
      let d := (log2Exact m e).mul ln2Const
      if d.n = 0 then .zero else f.roundQ (decide (d.n < 0)) d.n.natAbs 1 d.e
  | x => log2R f x

/-! ### Compatibility forms (R182, R183) -/

/-- E_j of R182: RN32 of 2^(j/128). -/
def compatE : List Nat :=
  [0x3f800000, 0x3f80b1ed, 0x3f8164d2, 0x3f8218af, 0x3f82cd87, 0x3f838359, 0x3f843a29, 0x3f84f1f6, 0x3f85aac3, 0x3f866491] ++
  [0x3f871f62, 0x3f87db35, 0x3f88980f, 0x3f8955ee, 0x3f8a14d5, 0x3f8ad4c6, 0x3f8b95c2, 0x3f8c57ca, 0x3f8d1adf, 0x3f8ddf04] ++
  [0x3f8ea43a, 0x3f8f6a81, 0x3f9031dc, 0x3f90fa4d, 0x3f91c3d3, 0x3f928e72, 0x3f935a2b, 0x3f9426ff, 0x3f94f4f0, 0x3f95c3ff] ++
  [0x3f96942d, 0x3f97657d, 0x3f9837f0, 0x3f990b88, 0x3f99e046, 0x3f9ab62b, 0x3f9b8d3a, 0x3f9c6573, 0x3f9d3eda, 0x3f9e196e] ++
  [0x3f9ef532, 0x3f9fd228, 0x3fa0b051, 0x3fa18faf, 0x3fa27043, 0x3fa3520f, 0x3fa43516, 0x3fa51958, 0x3fa5fed7, 0x3fa6e595] ++
  [0x3fa7cd94, 0x3fa8b6d5, 0x3fa9a15b, 0x3faa8d26, 0x3fab7a3a, 0x3fac6897, 0x3fad583f, 0x3fae4934, 0x3faf3b79, 0x3fb02f0e] ++
  [0x3fb123f6, 0x3fb21a32, 0x3fb311c4, 0x3fb40aaf, 0x3fb504f3, 0x3fb60094, 0x3fb6fd92, 0x3fb7fbf0, 0x3fb8fbaf, 0x3fb9fcd2] ++
  [0x3fbaff5b, 0x3fbc034a, 0x3fbd08a4, 0x3fbe0f68, 0x3fbf179a, 0x3fc0213b, 0x3fc12c4d, 0x3fc238d2, 0x3fc346cd, 0x3fc4563f] ++
  [0x3fc5672a, 0x3fc67991, 0x3fc78d75, 0x3fc8a2d8, 0x3fc9b9be, 0x3fcad226, 0x3fcbec15, 0x3fcd078c, 0x3fce248c, 0x3fcf4319] ++
  [0x3fd06334, 0x3fd184df, 0x3fd2a81e, 0x3fd3ccf1, 0x3fd4f35b, 0x3fd61b5e, 0x3fd744fd, 0x3fd87039, 0x3fd99d16, 0x3fdacb94] ++
  [0x3fdbfbb8, 0x3fdd2d82, 0x3fde60f5, 0x3fdf9613, 0x3fe0ccdf, 0x3fe2055b, 0x3fe33f89, 0x3fe47b6d, 0x3fe5b907, 0x3fe6f85b] ++
  [0x3fe8396a, 0x3fe97c38, 0x3feac0c7, 0x3fec0719, 0x3fed4f30, 0x3fee9910, 0x3fefe4ba, 0x3ff13231, 0x3ff28177, 0x3ff3d290] ++
  [0x3ff5257d, 0x3ff67a41, 0x3ff7d0df, 0x3ff9295a, 0x3ffa83b3, 0x3ffbdfed, 0x3ffd3e0c, 0x3ffe9e11, 0x40000000]

/-- L_j of R182: RN32 of log₂(1 + j/128). -/
def compatL : List Nat :=
  [0x00000000, 0x3c37f286, 0x3cb73cb4, 0x3d08e68f, 0x3d35d69c, 0x3d626fd6, 0x3d8759c5, 0x3d9d517f, 0x3db31fb8, 0x3dc8c50b] ++
  [0x3dde4212, 0x3df39761, 0x3e0462c4, 0x3e0ee68d, 0x3e19574f, 0x3e23b550, 0x3e2e00d2, 0x3e383a17, 0x3e42615f, 0x3e4c76e8] ++
  [0x3e567af1, 0x3e606db6, 0x3e6a4f72, 0x3e74205f, 0x3e7de0b6, 0x3e83c857, 0x3e88983f, 0x3e8d602e, 0x3e92203d, 0x3e96d888] ++
  [0x3e9b8926, 0x3ea03232, 0x3ea4d3c2, 0x3ea96df0, 0x3eae00d2, 0x3eb28c7f, 0x3eb7110e, 0x3ebb8e96, 0x3ec0052b, 0x3ec474e4] ++
  [0x3ec8ddd4, 0x3ecd4012, 0x3ed19bb0, 0x3ed5f0c4, 0x3eda3f60, 0x3ede8797, 0x3ee2c97d, 0x3ee70525, 0x3eeb3a9f, 0x3eef69ff] ++
  [0x3ef39355, 0x3ef7b6b4, 0x3efbd42b, 0x3effebcd, 0x3f01fed4, 0x3f0404e8, 0x3f060828, 0x3f08089e, 0x3f0a0650, 0x3f0c0146] ++
  [0x3f0df989, 0x3f0fef1f, 0x3f11e20f, 0x3f13d260, 0x3f15c01a, 0x3f17ab44, 0x3f1993e3, 0x3f1b7a00, 0x3f1d5da0, 0x3f1f3eca] ++
  [0x3f211d84, 0x3f22f9d5, 0x3f24d3c2, 0x3f26ab53, 0x3f28808c, 0x3f2a5374, 0x3f2c2411, 0x3f2df268, 0x3f2fbe80, 0x3f31885c] ++
  [0x3f335004, 0x3f35157d, 0x3f36d8cb, 0x3f3899f5, 0x3f3a58ff, 0x3f3c15ee, 0x3f3dd0c8, 0x3f3f8991, 0x3f41404f, 0x3f42f506] ++
  [0x3f44a7ba, 0x3f465872, 0x3f480731, 0x3f49b3fb, 0x3f4b5ed7, 0x3f4d07c7, 0x3f4eaed0, 0x3f5053f7, 0x3f51f740, 0x3f5398af] ++
  [0x3f553848, 0x3f56d60f, 0x3f587209, 0x3f5a0c3a, 0x3f5ba4a4, 0x3f5d3b4e, 0x3f5ed039, 0x3f60636a, 0x3f61f4e5, 0x3f6384ad] ++
  [0x3f6512c7, 0x3f669f35, 0x3f6829fb, 0x3f69b31e, 0x3f6b3a9f, 0x3f6cc083, 0x3f6e44cd, 0x3f6fc781, 0x3f7148a1, 0x3f72c832] ++
  [0x3f744636, 0x3f75c2b0, 0x3f773da4, 0x3f78b714, 0x3f7a2f04, 0x3f7ba578, 0x3f7d1a71, 0x3f7e8df2, 0x3f800000]

/-- Exact difference of two FP32 values, as a number. -/
def subExact (a b : Num) : Num := a.addExact b.neg

/-- A positive value rounded toward zero to FP32. -/
def truncF32 (x : Num) : Num :=
  match x with
  | .fin n m e =>
    if m = 0 then x
    else
      let qe := max ((m.log2 : Int) + e - 23) fp32.emin
      if qe ≤ e then x else .fin n (m / 2 ^ (qe - e).toNat) qe
  | x => x

/-- 1.4 exp2 (R182). -/
def exp2C (x : Num) : Num :=
  match x with
  | .nan => .nan
  | .inf neg => if neg then .zero else .inf false
  | .fin n m e =>
    let d := dyOf n m e
    if !d.lt ⟨1024, 0⟩ then .inf false
    else if !(Dy.lt ⟨-1047, 0⟩ d) then .zero
    else if dyGt 1 (-26) m e then .one
    else
      let q := d.floorAt 24
      let k := q / 2 ^ 24
      let f := (q % 2 ^ 24).toNat
      let i := f / 2 ^ 17
      let t := Num.fin false (f % 2 ^ 17) (-17)
      let a := f32 (compatE.getD i 0)
      let dj := subExact (f32 (compatE.getD (i + 1) 0)) a
      fp32.round (scaleBy (fp32.add a (fp32.mul dj t)) k)

/-- 1.4 log2 (R182). -/
def log2C (x : Num) : Num :=
  match x with
  | .nan => .nan
  | .inf neg => if neg then .nan else .inf false
  | .fin n m e =>
    if m = 0 then .inf true
    else if n then .nan
    else
      let l := m.log2
      let fr := m - 2 ^ l
      let i := fr * 128 / 2 ^ l
      let t := Num.fin false (fr * 128 - i * 2 ^ l) (-(l : Int))
      let a := f32 (compatL.getD i 0)
      let dj := truncF32 (subExact (f32 (compatL.getD (i + 1) 0)) a)
      fp32.add (Dy.num ⟨e + l, 0⟩ false) (fp32.add a (fp32.mul dj t))

/-- The significand of a positive value, in [1, 2). -/
def sigOf (m : Nat) : Num := .fin false m (-(m.log2 : Int))

/-- 1.4 reciprocal (R183). -/
def recipC (x : Num) : Num :=
  match x with
  | .nan => .nan
  | .inf n => .fin n 0 0
  | .fin n m e =>
    if m = 0 then .inf n
    else match exp2C (log2C (sigOf m)).neg with
      | .fin _ a b => fp32.round (.fin n a (b - (e + m.log2)))
      | y => y

/-- Half of a value. -/
def halfN (x : Num) : Num := scaleBy x (-1)

/-- 1.4 reciprocal square root (R183). -/
def rsqrtC (x : Num) : Num :=
  match x with
  | .nan => .nan
  | .inf n => if n then .nan else .zero
  | .fin n m e =>
    if m = 0 then .inf n
    else if n then .nan
    else
      let l := log2C (sigOf m)
      let q := e + m.log2
      if q % 2 = 0 then fp32.round (scaleBy (exp2C (fp32.round (halfN l)).neg) (-(q / 2)))
      else fp32.round (scaleBy (exp2C (fp32.round (halfN (fp32.add l .one))).neg) (-((q - 1) / 2)))

/-- 1.4 sigmoid (R183). -/
def sigmoidC (x : Num) : Num := recipC (fp32.add .one (exp2C x.neg))

/-- 1.4 e^x (R183): the product is rounded to FP32. -/
def expC (x : Num) : Num := exp2C (fp32.mul x (log2eConst.num false))

/-- 1.4 ln x (R183): the FP32 log2 times ln 2. -/
def lnC (x : Num) : Num := fp32.mul (log2C x) (ln2Const.num false)

/-! ### The functions under sfu.compat (R181) -/

/-- exp2 to FP32. -/
def sfuExp2 (compat : Bool) (x : Num) : Num := if compat then exp2C x else exp2R fp32 x
/-- log2 to FP32. -/
def sfuLog2 (compat : Bool) (x : Num) : Num := if compat then log2C x else log2R fp32 x
/-- Reciprocal to FP32. -/
def sfuRecip (compat : Bool) (x : Num) : Num := if compat then recipC x else recipR fp32 x
/-- Reciprocal square root to FP32. -/
def sfuRsqrt (compat : Bool) (x : Num) : Num := if compat then rsqrtC x else rsqrtR fp32 x
/-- e^x to FP32. -/
def sfuExp (compat : Bool) (x : Num) : Num := if compat then expC x else expR fp32 x
/-- ln x to FP32. -/
def sfuLn (compat : Bool) (x : Num) : Num := if compat then lnC x else lnR fp32 x
/-- Base-2 sigmoid to FP32. -/
def sfuSigmoid (compat : Bool) (x : Num) : Num := if compat then sigmoidC x else sigmoidR x

/-! ### Softmax (R166, R167, R183) -/

/-- Clamp to [−1,008, 1,008] (R166). -/
def clamp1008 (x : Num) : Num :=
  match x with
  | .nan => .nan
  | .inf n => .fin n 1008 0
  | .fin n m e => if dyGt m e 1008 0 then .fin n 1008 0 else x

/-- The value of a number that is not NaN, as a dyadic. -/
def numDy : Num → Dy
  | .fin n m e => dyOf n m e
  | _ => ⟨0, 0⟩

/-- An output above 1.0 is replaced by 1.0. -/
def capOne (x : Num) : Num := if Num.one.lt x then .one else x

/-- The softmax of a row (R166). -/
def softmaxR (row : List Num) : List Num :=
  let z := row.map clamp1008
  let s := sumRound w36 ((z.filter fun x => !x.isNan).map (exp2R w36))
  match s with
  | .fin false m e =>
    if m = 0 then row.map fun _ => .nan
    else
      let l := near40 (log2Exact m e)
      z.map fun x => if x.isNan then .nan
        else capOne (exp2R fp32 (Dy.num (Dy.add ⟨(numDy x).floorAt 40, -40⟩ ⟨-l.n, l.e⟩) false))
  | _ => row.map fun _ => .nan

/-- The largest of a list of numbers that are not NaN. -/
def maxNum : List Num → Option Num
  | [] => none
  | x :: r => match maxNum r with
    | none => some x
    | some y => if y.lt x then some x else some y

/-- The 1.4 softmax (R183). -/
def softmaxC (row : List Num) : List Num :=
  let z := row.map clamp1008
  match maxNum (z.filter fun x => !x.isNan) with
  | none => row.map fun _ => .nan
  | some m =>
    let d := fun x => fp32.add x (Num.neg m)
    let s := (z.filter fun x => !x.isNan).foldl (fun a x => fp32.add a (exp2C (d x))) Num.zero
    let l := log2C s
    z.map fun x => if x.isNan then .nan else capOne (exp2C (fp32.add (d x) l.neg))

/-- Softmax under sfu.compat. -/
def sfuSoftmax (compat : Bool) (row : List Num) : List Num := if compat then softmaxC row else softmaxR row

/-! ### Row statistics (R168 to R171) -/

/-- The mean of a row in W36. -/
def rowMean (l : List Num) : Num := Acc2.readDiv w36 (l.foldl Acc2.put Acc2.start) l.length

/-- The population variance of a row in W36 (R169, R170). -/
def rowVar (l : List Num) : Num :=
  if l.any fun x => !x.isFin then .nan
  else
    let mu := rowMean l
    rowMean (l.map fun x => let d := w36.add x mu.neg; w36.mul d d)

/-- The mean of squares in W36. -/
def rowMeanSq (l : List Num) : Num := rowMean (l.map fun x => w36.mul x x)

/-! ### Loaded tables (R177) -/

/-- σ = n_seg / (x_hi − x_lo), rounded once to W36. -/
def tableSigma (t : Table) : Num :=
  match (f32 t.xHi).addExact (f32 t.xLo).neg with
  | .fin _ m e => if m = 0 then .nan else
      w36.roundQ false (t.segs.length * 2 ^ (-e).toNat) (m * 2 ^ e.toNat) 0
  | _ => .nan

/-- a + b t + c t², exact, rounded once to FP32. -/
def polyAt (a b c : Nat) (t : Num) : Num :=
  fp32.round (((f32 a).addExact ((f32 b).mulExact t)).addExact ((f32 c).mulExact (t.mulExact t)))

/-- A loaded table at x (R177). -/
def tableEval (t : Table) (x : Num) : Num :=
  if x.isNan then .nan
  else
    let n := t.segs.length
    let u := w36.mul (w36.add x (f32 t.xLo).neg) (tableSigma t)
    let at' := fun (i : Nat) (tt : Num) => match t.segs.getD i (0, 0, 0) with
      | (a, b, c) => polyAt a b c tt
    if !(Num.zero.lt u) then at' 0 .zero
    else if !(u.lt (.fin false n 0)) then at' (n - 1) .one
    else
      let d := numDy u
      let i := (d.floorAt 0).toNat
      at' i (Dy.num (d.add ⟨-(i : Int), 0⟩) false)

end Sys2Proof.Machine
end

