-- ==== Sys2Proof/Machine/ParamView.lean ====
section
/-! DEFINITION. What every parameter reads as (R83, R495): stored values, computed ones, the reproducibility key (R379,
R380) and the margin ledger (R447). -/

namespace Sys2Proof.Machine

/-- The epoch in force for a step: the newest whose first step is not above it (R87). -/
def epochFor (s : State) (step : Nat) : Option Epoch := s.ep.epochs.find? fun e => decide (e.first ≤ step)

/-- The newest epoch in force. -/
def epochNow (s : State) : Option Epoch := s.ep.epochs.head?

/-- The loaded table of an index in an epoch. -/
def tableOf (e : Option Epoch) (i : Nat) : Option Table := match e with
  | some e => e.tables.find? fun t => decide (t.index = i)
  | none => none

/-- A loaded table's identity; 0 for an empty index (R180). -/
def tableIdOf (e : Option Epoch) (i : Nat) : Nat := match tableOf e i with
  | some t => t.id
  | none => 0

/-- The key of R379 from its inputs. -/
def reproKey (stepping compat det add steal sr digest : Nat) : Nat :=
  stepping % 256 + compat * 2 ^ 8 + det * 2 ^ 9 + add * 2 ^ 10 + steal * 2 ^ 11 + sr * 2 ^ 12 + digest * 2 ^ 32

/-- table_digest (R380). -/
def tableDigest (e : Option Epoch) : Nat :=
  crc32c (leBytes 4 sfuExp2Id ++ leBytes 4 sfuLog2Id ++ (List.range 8).flatMap fun i => leBytes 4 (tableIdOf e i))

/-- The key in force for a step (R380). -/
def keyFor (s : State) (step : Nat) : Nat :=
  reproKey s.fuses.stepping (stepP s 0x0019 step) (b01 s.job.desc.deterministic) (getP s 0x0510) (stepP s 0x0504 step)
    (b01 s.job.desc.stochRound) (tableDigest (epochFor s step))

/-- det.repro_key: the key for the step after the highest taken, without pending changes; no job: no mode bits, no loaded
tables (R380). -/
def keyNow (s : State) : Nat :=
  if jobExists s then
    reproKey s.fuses.stepping (curP s 0x0019) (b01 s.job.desc.deterministic) (getP s 0x0510) (curP s 0x0504)
      (b01 s.job.desc.stochRound) (tableDigest (epochNow s))
  else reproKey s.fuses.stepping 0 0 0 0 0 (tableDigest none)

/-- id.release (R71). -/
def releaseWord (s : State) : Nat := 3 + 2 * 2 ^ 8 + (s.fuses.stepping % 256) * 2 ^ 16

/-- Little-endian bytes of a list of codes, entries `8i` to `8i + 7`. -/
def packBytes (l : List Nat) (i : Nat) : Nat := leNat ((List.range 8).map fun j => BitVec.ofNat 8 (l.getD (8 * i + j) 0))

/-- Four 16-bit counts from entry `4i`. -/
def packHalves (l : List Nat) (i : Nat) : Nat :=
  (List.range 4).foldl (fun a j => a + (l.getD (4 * i + j) 0 % 65536) * 2 ^ (16 * j)) 0

/-- Entry `i` of pwr.ledger (R447). -/
def ledgerEntry (p : Plan) (i : Nat) : Nat :=
  match i with
  | 0 => p.s + b01 p.exhausted * 2 ^ 4 + p.vddReq * 2 ^ 8 + p.skipPlan * 2 ^ 16 + (p.plans % 2 ^ 32) * 2 ^ 32
  | 1 => p.lastKt
  | 2 => packBytes (p.slack.take 4 ++ p.baseline.take 4) 0
  | 3 => p.baselineVdd + p.ceiling * 2 ^ 8
  | 4 => packHalves p.roBase 0
  | 5 => packHalves p.roBase 1
  | 6 => packHalves p.roNow 0
  | 7 => packHalves p.roNow 1
  | 8 => p.historyHead
  | n + 9 => p.history.getD n 0

/-- Entry `i` of pwr.mon (R495). -/
def monEntry (s : State) (i : Nat) : Nat :=
  if i = 0 then packBytes (s.plan.slack.take 4) 0
  else if i ≤ 4 then packHalves s.plan.roNow (i - 1)
  else if i ≤ 12 then packBytes s.plan.margins (i - 5)
  else packBytes s.plan.eyes (i - 13)

/-- Pour channel state codes (R369). -/
def PourState.code : PourState → Nat
  | .idle => 0
  | .armed => 1
  | .running => 2
  | .suspended => 3
  | .parked => 4
  | .cancelling => 5
  | .done => 6
  | .stopped => 7

/-- Channel `c`. -/
def chAt (s : State) (c : Nat) : PourCh := s.pour.ch.getD c PourCh.idle

/-- Computed parameters below 0x0100. -/
def viewLow (s : State) (id : Nat) : Nat :=
  if id = 0x0000 then releaseWord s
  else if id = 0x0002 then s.fuses.deviceId
  else if id = 0x0003 then s.fuses.options
  else if id = 0x0008 then keyNow s
  else if id = 0x0009 then sfuExp2Id
  else if id = 0x000A then sfuLog2Id
  else if 0x0010 ≤ id ∧ id ≤ 0x0017 then (if jobExists s then tableIdOf (epochNow s) (id - 0x10) else getP s id)
  else if id = 0x0019 then curP s id
  else if id = 0x0021 then s.vault.checksum
  else if id = 0x0022 then s.vault.status
  else if id = 0x0028 then (s.fw.ctl.map (·.version)).getD 0
  else if id = 0x0029 then (s.fw.ward.map (·.version)).getD 0
  else if id = 0x002A then b01 s.fw.stagedCtl.isSome + b01 s.fw.stagedWard.isSome * 2
  else if id = 0x002B then s.fuses.rollback
  else if id = 0x002C then 0
  else getP s id

/-- Computed parameters from 0x0100 to 0x04FF. -/
def viewMid (s : State) (id : Nat) : Nat :=
  if id = 0x0104 then s.pwr.skipInForce
  else if id = 0x0105 then s.plan.skipPlan
  else if id = 0x0106 then s.pwr.brace.code
  else if 0x0108 ≤ id ∧ id ≤ 0x0115 then (domState s (id - 0x0108)).code
  else if 0x0130 ≤ id ∧ id ≤ 0x0144 then monEntry s (id - 0x0130)
  else if 0x0180 ≤ id ∧ id ≤ 0x01C7 then ledgerEntry s.plan (id - 0x0180)
  else if id = 0x0308 then s.mgmt.keyStatus
  else if 0x0310 ≤ id ∧ id ≤ 0x0337 then 0
  else if id = 0x0344 ∨ id = 0x0345 then curP s id
  else if id = 0x0418 then s.keyway.lastFault
  else if 0x0440 ≤ id ∧ id ≤ 0x045F then (chAt s (id - 0x0440)).st.code
  else getP s id

/-- Computed parameters from 0x0500 to 0x0BFF. -/
def viewHigh (s : State) (id : Nat) : Nat :=
  if id ≤ 0x0504 ∨ id = 0x050C ∨ id = 0x0521 ∨ id = 0x0600 then curP s id
  else if id = 0x0513 then s.coll.lagSeat
  else if id = 0x0514 then s.coll.lagTicks % 2 ^ 48
  else if 0x0518 ≤ id ∧ id ≤ 0x051A then s.coll.stallGroup.getD (id - 0x0518) 0
  else if id = 0x0607 then s.esc.resets.length
  else if 0x0800 ≤ id ∧ id ≤ 0x08FF then romExp2.getD (id - 0x0800) 0
  else if 0x0900 ≤ id ∧ id ≤ 0x09FF then romLog2.getD (id - 0x0900) 0
  else if id = 0x0A03 then s.recRing.head
  else if id = 0x0A05 then s.recRing.lost
  else if id = 0x0A06 then s.recRing.status
  else if id = 0x0A08 then s.drip.head
  else if id = 0x0A0A then s.drip.lost
  else if id = 0x0A0B then s.drip.status
  else getP s id

/-- What a parameter reads as; write-only ones read 0 (R13). -/
def paramValue (s : State) (id : Nat) : Nat :=
  if 0xC000 ≤ id then ctrRead s (id - 0xC000)
  else if id < 0x0100 then viewLow s id
  else if id < 0x0500 then viewMid s id
  else viewHigh s id

end Sys2Proof.Machine
end

