-- ==== Sys2Proof/Machine/Transport.lean ====
section
/-! DEFINITION. KFT's transport: sequence spaces, sending and resending over the spray set, coverage, acknowledgements,
fences and path epochs (R257 to R269). -/

namespace Sys2Proof.Machine

/-- A KFT header with nothing set but the version (R254). -/
def KftHdr.blank : KftHdr :=
  { ver := 2, vc := 0, op := 0, resp := false, flag := false, last := false, cls := 0, jobTag := 0, partKey := 0,
    srcSeat := 0, dstSeat := 0, seq := 0, ackSeq := 0, ackVc := 0, ackValid := false, region := 0, pathId := 0,
    pathEpoch := 0, ktLo := 0, offset := 0, length := 0, msgChunks := 1, msgSeq := 0, operand0 := 0, operand1 := 0,
    aop := 0, width := 0, nackCode := 0, chunkCrc := 0 }

/-- The 64 bytes of a KFT header (R254). -/
def kftHdrBytes (h : KftHdr) : List Byte :=
  leBytes 64 (h.ver + h.vc * 2 ^ 4 + h.op * 2 ^ 8 + b01 h.resp * 2 ^ 11 + b01 h.flag * 2 ^ 12 + b01 h.last * 2 ^ 13 +
    h.cls * 2 ^ 14 + h.jobTag * 2 ^ 16 + h.partKey * 2 ^ 40 + h.srcSeat * 2 ^ 56 + h.dstSeat * 2 ^ 72 + h.seq * 2 ^ 88 +
    h.ackSeq * 2 ^ 120 + h.ackVc * 2 ^ 152 + b01 h.ackValid * 2 ^ 155 + h.region * 2 ^ 156 + h.pathId * 2 ^ 160 +
    h.pathEpoch * 2 ^ 168 + h.ktLo * 2 ^ 176 + h.offset * 2 ^ 208 + h.length * 2 ^ 256 + h.msgChunks * 2 ^ 272 +
    h.msgSeq * 2 ^ 288 + h.operand0 * 2 ^ 320 + h.operand1 * 2 ^ 384 + h.aop * 2 ^ 448 + h.width * 2 ^ 451 +
    h.nackCode * 2 ^ 452 + h.chunkCrc * 2 ^ 480)

/-- Add in 32 bits. -/
def seqAdd (a n : Nat) : Nat := (a + n) % 2 ^ 32

/-- The transmit space of a (seat, VC): the first chunk carries 1 (R257). -/
def txSpace (s : State) (seat vc : Nat) : TxSpace :=
  match s.kft.tx.find? fun t => decide (t.seat = seat ∧ t.vc = vc) with
  | some t => t
  | none => { seat := seat, vc := vc, next := 1, ack := 0, sacks := [] }

/-- Replace a transmit space. -/
def setTx (t : TxSpace) (s : State) : State :=
  { s with kft := { s.kft with tx := t :: s.kft.tx.filter fun x => !decide (x.seat = t.seat ∧ x.vc = t.vc) } }

/-- The receive space of a (seat, VC). -/
def rxSpace (s : State) (seat vc : Nat) : RxSpace :=
  match s.kft.rx.find? fun t => decide (t.seat = seat ∧ t.vc = vc) with
  | some t => t
  | none => { seat := seat, vc := vc, cum := 0, sacks := [], owed := [], epoch := 0 }

/-- Replace a receive space. -/
def setRx (t : RxSpace) (s : State) : State :=
  { s with kft := { s.kft with rx := t :: s.kft.rx.filter fun x => !decide (x.seat = t.seat ∧ x.vc = t.vc) } }

/-- A sent chunk is acknowledged, cumulatively or selectively. -/
def covered (s : State) (seat vc seq : Nat) : Bool :=
  let t := txSpace s seat vc
  serialLe 32 seq t.ack || t.sacks.contains seq

/-- A received chunk has been applied already (R258). -/
def alreadyApplied (s : State) (seat vc seq : Nat) : Bool :=
  let t := rxSpace s seat vc
  serialLe 32 seq t.cum || t.sacks.contains seq

/-- A sequence number lies in the receive window (R257). -/
def inWindow (s : State) (seat vc seq : Nat) : Bool :=
  let d := (seq + 2 ^ 32 - (rxSpace s seat vc).cum) % 2 ^ 32
  decide (1 ≤ d ∧ d ≤ getP s 0x0343)

/-- The Up links, in ascending number. -/
def upLinks (s : State) : List Nat :=
  (List.range 32).filter fun k => decide ((s.links.getD k Link.reset).st = .up)

/-- The spray set of a destination (R262). -/
def sprayOf (s : State) (dst : Nat) : List Nat := (upLinks s).filter fun k => !s.kft.unusable.contains (k, dst)

/-- The links a chunk may take: collective chunks keep to the Hinges of their group's plane_mask (R299). -/
def linksFor (s : State) (h : KftHdr) : List Nat :=
  let l := sprayOf s h.dstSeat
  if h.region = 3 then match s.coll.groups.find? fun g => decide (g.num = bits h.offset 47 40) with
    | some g => l.filter fun k => bit g.planeMask (k / 4)
    | none => l
  else l

/-- A calibration request or reply, by its kind byte (R385). -/
def isCalibration (c : TxChunk) : Bool :=
  decide (c.hdr.region = 4) && (decide (c.payload.head? = some 0x53) || decide (c.payload.head? = some 0x54))

/-- The link of a calibration chunk: a reply goes out where its seat's request arrived, a request on the lowest Up link of Hinge
det.cal_hinge (R387). -/
def calLinks (s : State) (c : TxChunk) : List Nat :=
  match s.barrier.calFrom.find? fun x => decide (c.payload.head? = some 0x54 ∧ x.1 = c.hdr.dstSeat) with
  | some x => (upLinks s).filter fun k => decide (k = x.2)
  | none => ((upLinks s).filter fun k => decide (k / 4 = getP s 0x0523)).take 1

/-- The links this chunk may take. -/
def chunkLinks (s : State) (c : TxChunk) : List Nat := if isCalibration c then calLinks s c else linksFor s c.hdr

/-- Path state of a destination. -/
def pathOf (s : State) (dst : Nat) : Path :=
  match s.kft.paths.find? fun p => decide (p.dst = dst) with
  | some p => p
  | none => { dst := dst, epoch := 0, last := 31 }

/-- Replace path state. -/
def setPath (p : Path) (s : State) : State :=
  { s with kft := { s.kft with paths := p :: s.kft.paths.filter fun q => decide (q.dst ≠ p.dst) } }

/-- The next link of the rotation after `last`, in ascending link number; `avoid` is passed over where another is left. -/
def nextLink (l : List Nat) (last : Nat) (avoid : Option Nat) : Option Nat :=
  let rot := l.filter (fun k => decide (last < k)) ++ l.filter fun k => decide (k ≤ last)
  match rot.find? fun k => decide (some k ≠ avoid) with
  | some k => some k
  | none => rot.head?

/-- The path state of a destination after link `k` has joined or left its spray set, if it is part of it (R264). -/
def bumped (s : State) (k m : Nat) : Path :=
  let p := pathOf s m
  { p with epoch := if s.kft.unusable.contains (k, m) then p.epoch else (p.epoch + 1) % 256 }

/-- Link `k` joins or leaves the spray sets it is part of: the path epochs of their destinations advance (R264). -/
def bumpPaths (k : Nat) (s : State) : State :=
  if jobExists s then
    { s with kft := { s.kft with paths := (s.job.members.filter fun m => decide (m ≠ getP s 0x0001)).map (bumped s k) } }
  else s

/-- The path epoch of one destination advances. -/
def bumpPath (dst : Nat) (s : State) : State :=
  let p := pathOf s dst
  setPath { p with epoch := (p.epoch + 1) % 256 } s

/-- Counter `k` of Hinge `p` (R491). -/
def hingeCtr (p k : Nat) : Nat := 256 + 32 * p + k

/-- The chunks of a space that an acknowledgement up to `cum` leaves owed. -/
def owedAfter (t : RxSpace) : List Nat := t.owed.filter fun q => !serialLe 32 q t.cum

/-- The acknowledgement a frame to `seat` carries: that of the lowest channel that owes one (R259). -/
def owedAck (s : State) (seat : Nat) : Option RxSpace :=
  (List.range 6).findSome? fun vc => s.kft.rx.find? fun t =>
    decide (t.seat = seat ∧ t.vc = vc) && t.owed.any fun q => serialLe 32 q t.cum

/-- Put the owed acknowledgement into a header. What it does not cover, above a gap, stays owed. -/
def carryAck (seat : Nat) (h : KftHdr) (s : State) : State × KftHdr :=
  match owedAck s seat with
  | some t => (setRx { t with owed := owedAfter t } s, { h with ackSeq := t.cum, ackVc := t.vc, ackValid := true })
  | none => (s, h)

/-- The priority of a channel (R266). -/
def vcPcp (s : State) (vc : Nat) : Nat := (getP s 0x0301 >>> (3 * vc)) % 8

/-- The partner's PFC holds the priority of a channel paused on a Hinge (R266, R267). -/
def pausedOn (s : State) (hinge vc : Nat) : Bool :=
  decide (getP s (0x0203 + 16 * hinge) = 1) && s.pfcPaused.contains (hinge, vcPcp s vc)

/-- The MAC address of a seat on the plane of Hinge `p` (R253). -/
def macBytes (s : State) (p seat : Nat) : List Byte :=
  [0x02, BitVec.ofNat 8 (getP s 0x0300), BitVec.ofNat 8 p, 0x00, BitVec.ofNat 8 (seat / 256), BitVec.ofNat 8 seat]

/-- The first 82 bytes of a frame on link `k`: addresses, tag, EtherType and KFT header (R253). -/
def frameHead (s : State) (k : Nat) (h : KftHdr) : List Byte :=
  let tci := vcPcp s h.vc * 2 ^ 13 + getP s (0x0202 + 16 * (k / 4)) % 4096
  macBytes s (k / 4) h.dstSeat ++ macBytes s (k / 4) h.srcSeat ++
    [0x81, 0x00, BitVec.ofNat 8 (tci / 256), BitVec.ofNat 8 tci, BitVec.ofNat 8 (getP s 0x0305 / 256), BitVec.ofNat 8 (getP s 0x0305)] ++
    kftHdrBytes h

/-- A frame leaves on link `k`: counted with its header, payload and FCS (R253, R491). -/
def frameOut (k : Nat) (h : KftHdr) (n : Nat) (s : State) : State :=
  let w : Wire := { link := k, head := frameHead s k h, length := n }
  ctrInc (hingeCtr (k / 4) 13) (ctrAdd (hingeCtr (k / 4) 15) (86 + n)
    { s with kft := { s.kft with wire := (s.kft.wire ++ [w]).drop (s.kft.wire.length - 63) } })

/-- Replace an unacknowledged chunk. -/
def putChunk (c : TxChunk) (s : State) : State :=
  { s with kft := { s.kft with unacked := s.kft.unacked.map fun x =>
      if x.hdr.dstSeat = c.hdr.dstSeat ∧ x.hdr.vc = c.hdr.vc ∧ x.hdr.seq = c.hdr.seq then c else x } }

/-- The job state lets acknowledgements out (R277). -/
def acksSent (s : State) : Bool :=
  match s.job.st with
  | .faulted => false
  | .closed => false
  | .draining => !s.job.closeFence
  | _ => true

/-- Hinge `p` may send frames of the job: its domain is in service, and the job has neither faulted nor passed its close fence (R59,
R245, R277). -/
def hingeSends (s : State) (p : Nat) : Bool := decide (domState s (5 + p) = .inService) && acksSent s

/-- Send a chunk that stands on the egress queue of its link: path fields, acknowledgement, counters and timer (R254, R259,
R260). -/
def transmit (c : TxChunk) (s : State) : State :=
  let dst := c.hdr.dstSeat
  let r := carryAck dst { c.hdr with pathId := c.link + (c.hdr.seq % 8) * 32, pathEpoch := (pathOf s dst).epoch, ktLo := s.kt % 2 ^ 32 } s
  let rto := ticksOf (curP s 0x0345)
  let s := frameOut c.link r.2 c.payload.length r.1
  let s := if c.tries = 0 then s else ctrInc (hingeCtr (c.link / 4) 17) s
  putChunk { c with hdr := r.2, tries := c.tries + 1, lastKt := s.kt, again := false, queued := false, placed := false, seen := [],
                    timeout := (if c.tries = 0 then rto else min (2 * c.timeout) (8 * rto)) } s

/-- The window admits the chunk (R257). -/
def windowAdmits (s : State) (c : TxChunk) : Bool :=
  let t := txSpace s c.hdr.dstSeat c.hdr.vc
  decide (0 < c.tries ∨ (c.hdr.seq + 2 ^ 32 - t.ack) % 2 ^ 32 ≤ getP s 0x0343)

/-- Assign the waiting chunk to the next link of its destination's rotation, not the one last used (R260, R262). -/
def placeChunk (s : State) (c : TxChunk) : State :=
  if windowAdmits s c then
    let p := pathOf s c.hdr.dstSeat
    match nextLink (chunkLinks s c) p.last (if c.tries = 0 then none else some c.link) with
    | none => s
    | some k => setPath { p with last := k } (putChunk { c with link := k, placed := true } s)
  else s

/-- The same for an ack or nack frame (R262). -/
def placeCtl (s : State) (w : CtlWait) : State × CtlWait :=
  match w.placed with
  | some _ => (s, w)
  | none =>
    let p := pathOf s w.hdr.dstSeat
    match nextLink (sprayOf s w.hdr.dstSeat) p.last none with
    | none => (s, w)
    | some k => (setPath { p with last := k } s, { w with placed := some k })

/-- Send the ack and nack frames whose links take them, ahead of every chunk (R265). -/
def pumpCtl (s : State) : State :=
  s.kft.ctlWait.foldl (fun t w =>
    let r := placeCtl t w
    match r.2.placed with
    | some k =>
      if hingeSends t (k / 4) ∧ pausedOn t (k / 4) 5 = false then
        let h := { w.hdr with pathId := k, ktLo := t.kt % 2 ^ 32 }
        frameOut k h 0 { r.1 with kft := { r.1.kft with ctl := r.1.kft.ctl ++ [h] } }
      else { r.1 with kft := { r.1.kft with ctlWait := r.1.kft.ctlWait ++ [r.2] } }
    | none => { r.1 with kft := { r.1.kft with ctlWait := r.1.kft.ctlWait ++ [r.2] } })
    { s with kft := { s.kft with ctlWait := [] } }

/-- The place of a chunk among those of its channel: rush, then class 2, then class 3; retransmissions ahead (R265). -/
def chunkRank (c : TxChunk) : Nat :=
  2 * (if c.hdr.cls ≤ 1 then 0 else c.hdr.cls) + (if c.tries = 0 then 1 else 0)

/-- Take chunks from the head of a channel's queue while its deficit covers their frames. -/
def drrTake : Nat → List TxChunk → List TxChunk × List TxChunk × Nat
  | d, [] => ([], [], d)
  | d, c :: r =>
    if 86 + c.payload.length ≤ d then
      let x := drrTake (d - (86 + c.payload.length)) r
      (c :: x.1, x.2.1, x.2.2)
    else ([], c :: r, d)

/-- Rounds of weighted deficit round robin over queues of (weight in bytes, deficit, chunks); an empty queue keeps no
deficit (R265). -/
def drrGo : Nat → List (Nat × Nat × List TxChunk) → List TxChunk
  | 0, qs => qs.flatMap (·.2.2)
  | n + 1, qs =>
    if qs.all (·.2.2.isEmpty) then []
    else
      let l := qs.map fun q => (q.1, drrTake (if q.2.2.isEmpty then 0 else q.2.1 + q.1) q.2.2)
      l.flatMap (·.2.1) ++ drrGo n (l.map fun q => (q.1, if q.2.2.1.isEmpty then 0 else q.2.2.2, q.2.2.1))

/-- The order in which a Hinge sends chunks: rounds over VC1 to VC5 with their weights × 512 B, and by rank within one
(R265). The deficits start at 0 (log 89). -/
def egressOrder (weights : Nat) (l : List TxChunk) : List TxChunk :=
  drrGo (17 * l.length) ([1, 2, 3, 4, 5].map fun vc =>
    (bits weights (8 * (vc - 1) + 7) (8 * (vc - 1)) * 512, 0,
     (List.range 8).flatMap fun k => l.filter fun c => decide (c.hdr.vc = vc ∧ chunkRank c = k)))

/-- Chunks on the egress queues of Hinge `p` that it may send now. -/
def egressReady (s : State) (p : Nat) : List TxChunk :=
  if hingeSends s p then
    s.kft.unacked.filter fun c => c.queued && c.placed && decide (c.link / 4 = p) && !pausedOn s p c.hdr.vc
  else []

/-- Assign what waits to links, and send what the links take (R257, R262, R265, R267). -/
def pumpTx (s : State) : State :=
  let s := (s.kft.unacked.filter fun c => c.queued && !c.placed).foldl placeChunk (pumpCtl s)
  (List.range 8).foldl (fun t p => (egressOrder (getP t 0x0302) (egressReady t p)).foldl (fun u c => transmit c u) t) s

/-- A chunk sent kft.retry_max + 1 times without acknowledgement ends the job (R261). -/
def exhausted (s : State) (c : TxChunk) : Bool := decide (getP s 0x0346 + 1 ≤ c.tries)

/-- A chunk is to be sent again, or the job faults where its retries are exhausted (R260, R261). -/
def requeue (c : TxChunk) (s : State) : State :=
  if exhausted s c then jobFault (0x20 + c.link / 4) 0x0405 (c.hdr.dstSeat % 65536) Where.none s
  else putChunk { c with queued := true, placed := false, again := false } s

/-- Send chunks again (R260). -/
def resendAll (l : List TxChunk) (s : State) : State := if l.isEmpty then s else pumpTx (l.foldl (fun t c => requeue c t) s)

/-- Send a chunk again. -/
def resend (c : TxChunk) (s : State) : State := resendAll [c] s

/-- In replay mode no frame of the job is sent (R396). -/
def replayOn (s : State) : Bool := jobExists s && decide (getP s 0x0520 = 1)

/-- Send one chunk to a seat on a channel: it takes the next sequence number of its space, and goes out when the window
and the links admit it. In replay mode it counts as applied and acknowledged at once. `first`: the sequence number of its
message's first chunk, if it is not that one. Answers the sequence number. -/
def sendPart (seat vc : Nat) (first : Option Nat) (h : KftHdr) (payload : List Byte) (s : State) : State × Nat :=
  let t := txSpace s seat vc
  let seq := t.next
  if replayOn s then
    (ctrInc 11 (setTx { t with next := seqAdd seq 1, ack := seq } s), seq)
  else
    let h := { h with vc := vc, jobTag := s.job.tag, partKey := getP s 0x0340, srcSeat := getP s 0x0001, dstSeat := seat,
                      seq := seq, length := payload.length, chunkCrc := crc32c payload, msgSeq := first.getD seq }
    let c : TxChunk := { hdr := h, payload := payload, tries := 0, link := 0, lastKt := s.kt, timeout := 0, crcNacks := 0, again := false,
                         queued := true, placed := false, seen := [] }
    let s := setTx { t with next := seqAdd seq 1 } s
    let s := { s with kft := { s.kft with unacked := s.kft.unacked ++ [c] } }
    (pumpTx s, seq)

/-- Send a message of one chunk. -/
def sendChunk (seat vc : Nat) (h : KftHdr) (payload : List Byte) (s : State) : State × Nat := sendPart seat vc none h payload s

/-- Send a message in chunks of kft.chunk_max, with rising offsets from `off` (R285). Answers the last sequence number. -/
def sendMsg (seat vc : Nat) (h : KftHdr) (off : Nat) (body : List Byte) (s : State) : State × Nat :=
  let cm := getP s 0x0342
  let parts := if body.isEmpty then [[]] else splitEvery cm body
  let first := (txSpace s seat vc).next
  let n := parts.length
  (List.zip (List.range n) parts).foldl (fun r ip =>
    sendPart seat vc (some first) { h with offset := off + ip.1 * cm, msgChunks := n, last := decide (ip.1 + 1 = n) }
      ip.2 r.1) (s, 0)

/-- A region-4 message on VC5. -/
def sendNotice (seat cls : Nat) (body : List Byte) (s : State) : State × Nat :=
  sendMsg seat 5 { KftHdr.blank with op := 5, region := 4, cls := cls } 0 body s

/-- An acknowledgement or nack frame: it goes out as soon as a link of the spray set takes it (R259, R262, R267). -/
def sendCtl (h : KftHdr) (s : State) : State :=
  if replayOn s then s
  else
    let h := { h with vc := 5, region := 0, jobTag := s.job.tag, partKey := getP s 0x0340, srcSeat := getP s 0x0001 }
    pumpCtl { s with kft := { s.kft with ctlWait := s.kft.ctlWait ++ [{ hdr := h, placed := none }] } }

/-- The SACK bits of a receive space: bit i for sequence number cum + 1 + i (R254). -/
def sackBits (t : RxSpace) : Nat :=
  maskOf ((List.range 128).filter fun i => t.sacks.contains (seqAdd t.cum (1 + i)))

/-- Send an ack frame for a space, which covers what the cumulative point and 128 SACK bits report (R254, R259). It echoes
`epoch`, the path epoch of the chunk that caused it (R264). -/
def sendAck (seat vc epoch : Nat) (s : State) : State :=
  let t := rxSpace s seat vc
  let b := sackBits t
  sendCtl { KftHdr.blank with op := 3, dstSeat := seat, ackSeq := t.cum, ackVc := vc, ackValid := true,
                              operand0 := b % 2 ^ 64, operand1 := b / 2 ^ 64, pathEpoch := epoch }
    (setRx { t with owed := (owedAfter t).filter fun q => decide (128 < (q + 2 ^ 32 - t.cum) % 2 ^ 32) } s)

/-- Send a nack for a chunk (R258). -/
def sendNack (h : KftHdr) (code hinge : Nat) (s : State) : State :=
  ctrInc (hingeCtr hinge 18)
    (sendCtl { KftHdr.blank with op := 4, dstSeat := h.srcSeat, ackVc := h.vc, operand0 := h.seq, nackCode := code,
                                 pathEpoch := h.pathEpoch } s)

/-- Advance the cumulative acknowledgement over the applied chunks above it. -/
def advanceCum : Nat → Nat → List Nat → Nat × List Nat
  | 0, cum, l => (cum, l)
  | n + 1, cum, l =>
    if l.contains (seqAdd cum 1) then advanceCum n (seqAdd cum 1) (l.filter fun x => decide (x ≠ seqAdd cum 1)) else (cum, l)

/-- A chunk has been applied: it becomes eligible for acknowledgement, at once after 16 (R258, R259). -/
def markApplied (seat vc seq epoch : Nat) (s : State) : State :=
  let t := rxSpace s seat vc
  let r := advanceCum (t.sacks.length + 1) t.cum (seq :: t.sacks)
  let t := { t with cum := r.1, sacks := r.2, owed := t.owed ++ [seq], epoch := epoch }
  let s := setRx t s
  if acksSent s ∧ 16 ≤ t.owed.length then sendAck seat vc epoch s else s

/-- Fence points still open. -/
def fenceOpen (s : State) (f : Fence) : List (Nat × Nat × Nat) :=
  f.points.filter fun p => !serialLe 32 p.2.2 (txSpace s p.1 p.2.1).ack

/-- Complete the fences whose every destination has reached its point (R268); the job's close fence sets closeFence. -/
def fenceCheck (s : State) : State :=
  s.kft.fences.foldl (fun t f =>
    if (fenceOpen t f).isEmpty then
      let t := { t with kft := { t.kft with fences := t.kft.fences.filter fun g => decide (g ≠ f) } }
      match f.cmd with
      | some c => finish c 0x0000 0 0 0 0 t
      | none => { t with job := { t.job with closeFence := true } }
    else t) s

/-- Record a fence over seats and channels (R268). -/
def fenceStart (cmd : Option OpenCmd) (seats vcs : List Nat) (s : State) : State :=
  let pts := seats.flatMap fun d => vcs.filterMap fun v =>
    let t := txSpace s d v
    if t.next = 1 ∧ t.ack = 0 then none else some (d, v, (t.next + 2 ^ 32 - 1) % 2 ^ 32)
  fenceCheck { s with kft := { s.kft with fences := s.kft.fences ++ [{ cmd := cmd, points := pts }] } }

/-- Take coverage of a transmit space: the cumulative point only moves on (R260, R264). A chunk still missing remembers which
above it have been newly applied (R260, log 90). -/
def takeCoverage (seat vc cum : Nat) (sacks : List Nat) (s : State) : State :=
  let t := txSpace s seat vc
  let ack := if serialLt 32 t.ack cum && serialLt 32 cum t.next then cum else t.ack
  let sk := dedup ((t.sacks ++ sacks).filter fun q => serialLt 32 ack q && serialLt 32 q t.next)
  let new := sk.filter fun q => !t.sacks.contains q
  let s := setTx { t with ack := ack, sacks := sk } s
  let left := s.kft.unacked.filter fun c =>
    !(decide (c.hdr.dstSeat = seat ∧ c.hdr.vc = vc) && covered s seat vc c.hdr.seq)
  let s := { s with kft := { s.kft with unacked := left.map fun c =>
    if c.hdr.dstSeat = seat ∧ c.hdr.vc = vc then { c with seen := c.seen ++ new.filter fun q => serialLt 32 c.hdr.seq q } else c } }
  fenceCheck (pumpTx s)

end Sys2Proof.Machine
end

