-- ==== Sys2Proof/Machine/Links.lean ====
section
/-! DEFINITION. Links and lanes (R49 to R53, R248, R252) and priority flow control (R267). -/

namespace Sys2Proof.Machine

/-- Link state codes (R252). -/
def LinkState.code : LinkState → Nat
  | .off => 0
  | .training => 1
  | .aligning => 2
  | .up => 3
  | .down => 4
  | .quiescing => 5

/-- The rate code of a Hinge. -/
def hingeRate (s : State) (p : Nat) : Nat := getP s (0x0201 + 16 * p) % 4

/-- The grouping of a Hinge: 0 1×8, 1 2×4, 2 4×2. -/
def hingeGroup (s : State) (p : Nat) : Nat := getP s (0x0201 + 16 * p) / 4

/-- The links a Hinge forms (R248), numbered Hinge × 4 + link. -/
def hingeLinks (s : State) (p : Nat) : List Nat := (List.range (2 ^ hingeGroup s p)).map (4 * p + ·)

/-- The lanes of a link, numbered 8 × Hinge + lane. -/
def linkLanes (s : State) (k : Nat) : List Nat :=
  let w := 8 / 2 ^ hingeGroup s (k / 4)
  (List.range w).map fun i => 8 * (k / 4) + w * (k % 4) + i

/-- The declared latency of a link's lane 0, in 64ths of a tick: transmit, or receive (R52, R279). -/
def linkLatency (s : State) (k : Nat) (rx : Bool) : Int :=
  ((getP s (0x0280 + 2 * (linkLanes s k).headD 0 + b01 rx) / 10 : Nat) : Int)

/-- A receive stamp of a link taken back to the lane pins, by its declared latency and its measured deskew in ps (R279). -/
def linkStamp (s : State) (k : Nat) (t : Int) (deskew : Nat) : Int := t - linkLatency s k true - ((deskew / 10 : Nat) : Int)

/-- The link that holds a lane. -/
def linkOfLane (s : State) (hinge lane : Nat) : Nat := 4 * hinge + lane / (8 / 2 ^ hingeGroup s hinge)

/-- Link `k`. -/
def linkAt (s : State) (k : Nat) : Link := s.links.getD k Link.reset

/-- Lane `i`. -/
def laneAt (s : State) (i : Nat) : Lane := s.lanes.getD i Lane.reset

/-- Replace a link. -/
def setLink (k : Nat) (l : Link) (s : State) : State := { s with links := s.links.set k l }

/-- Change a lane. -/
def laneMap (i : Nat) (f : Lane → Lane) (s : State) : State := { s with lanes := s.lanes.set i (f (laneAt s i)) }

/-- Change lanes. -/
def lanesMap (l : List Nat) (f : Lane → Lane) (s : State) : State := l.foldl (fun t i => laneMap i f t) s

/-- The lanes of a link that are up, as a mask over the Hinge's lanes: trained and locked (log 21). -/
def lanesUp (s : State) (k : Nat) : Nat :=
  maskOf (((linkLanes s k).filter fun i => (laneAt s i).trained && (laneAt s i).lock).map (· % 8))

/-- A link enters a state: EV_LINK and a Drip record of kind 6 (R79, R252, R488). -/
def linkEnter (k : Nat) (st : LinkState) (s : State) : State :=
  let s := setLink k { linkAt s k with st := st } s
  let up := lanesUp s k
  emit 0x000A (0x20 + k / 4) (k % 4 + st.code * 2 ^ 4 + up * 2 ^ 8)
    (dripAt 6 (0x20 + k / 4) (k % 4 + st.code * 2 ^ 3 + up * 2 ^ 7) s)

/-- What stands on the egress queue of a link waits for another. -/
def unplace (k : Nat) (s : State) : State :=
  { s with kft := { s.kft with
    unacked := mapIf (fun (c : TxChunk) => c.placed && decide (c.link = k)) (fun c => ({ c with placed := false } : TxChunk)) s.kft.unacked,
    ctlWait := mapIf (fun (w : CtlWait) => decide (w.placed = some k)) (fun w => ({ w with placed := none } : CtlWait)) s.kft.ctlWait } }

/-- Send again at once what was last sent on a link, and what stood on its egress queue (R252, R260). -/
def resendLink (k : Nat) (s : State) : State :=
  let s := unplace k s
  pumpTx ((s.kft.unacked.filter fun c => decide (c.link = k ∧ 0 < c.tries) && !c.queued).foldl (fun t c => requeue c t) s)

/-- A link leaves the spray sets (R263, R264). -/
def leaveSpray (k : Nat) (was : LinkState) (s : State) : State := if was = .up then bumpPaths k s else s

/-- 60 s in KT ticks. -/
def minuteTicks : Nat := 93750000000

/-- A link enters Down: counted; from the ninth entry within 60 s its holdoff doubles, to 1 s at most; its
unacknowledged chunks are sent again (R252). -/
def linkDown (k : Nat) (s : State) : State :=
  let l := linkAt s k
  let downs := (l.downs ++ [s.kt]).filter fun t => decide (s.kt < t + minuteTicks)
  let now := if l.holdoff = 0 then getP s 0x0303 else l.holdoff
  let s := setLink k { l with downs := downs, holdoff := if 9 ≤ downs.length then min (2 * now) 1000000000 else l.holdoff } s
  resendLink k (leaveSpray k l.st (ctrInc (hingeCtr (k / 4) 21) (linkEnter k .down s)))

/-- Training begins on a link's lanes: their rate is set and train_req rises (R53, R252). -/
def linkTrain (k : Nat) (s : State) : State :=
  let rate := hingeRate s (k / 4)
  linkEnter k .training (lanesMap (linkLanes s k) (fun l => { l with rate := rate, trainReq := true, trained := false }) s)

/-- A link goes Off as Down does, without counting an entry into Down. -/
def linkOff (k : Nat) (s : State) : State :=
  let l := linkAt s k
  if l.st = .off then s else resendLink k (leaveSpray k l.st (linkEnter k .off s))

/-- Every link of a Hinge goes Off; `rates` also powers the lanes down (R252). -/
def hingeOff (p : Nat) (rates : Bool) (s : State) : State :=
  let s := (List.range 4).foldl (fun t i => linkOff (4 * p + i) t) s
  lanesMap ((List.range 8).map (8 * p + ·))
    (fun l => { l with rate := (if rates then 0 else l.rate), trainReq := false, trained := false }) s

/-- The Hinge may train: enabled, with a rate, its domain in service. -/
def hingeOn (s : State) (p : Nat) : Bool :=
  decide (getP s (0x0200 + 16 * p) = 1) && decide (hingeRate s p ≠ 0) && decide (domState s (5 + p) = .inService)

/-- The Off links of an enabled Hinge begin to train (R252). -/
def hingeStart (p : Nat) (s : State) : State :=
  if hingeOn s p then
    (hingeLinks s p).foldl (fun t k => if (linkAt t k).st = .off then linkTrain k t else t) s
  else s

/-- Write a history record of the ledger: 63 are kept (R447). -/
def ledgerPut (rec_ : Nat) (s : State) : State :=
  let p := s.plan
  let h := if p.history.length = 63 then p.history else List.replicate 63 0
  { s with plan := { p with history := h.set (p.historyHead % 63) rec_, historyHead := (p.historyHead + 1) % 63 } }

/-- A history record of the margin ledger (R447). -/
def ledgerAdd (action cause value where_ : Nat) (s : State) : State :=
  let rec_ := action + cause * 2 ^ 8 + (value % 256) * 2 ^ 16 + (where_ % 256) * 2 ^ 24 + (s.kt / 2 ^ 32) * 2 ^ 32
  let s := dripAt 10 0x0070 (rec_ % 2 ^ 64) s
  if s.rst.aoStopped then aoHold (.ledger rec_) s else ledgerPut rec_ s

/-- A lane failed to train: recorded, and its link goes Down (R53, R252). -/
def trainFailed (hinge lane : Nat) (s : State) : State :=
  let k := linkOfLane s hinge lane
  let s := ledgerAdd 5 s.plan.cause lane k s
  if (linkAt s k).st = .training then linkDown k s else s

/-- Every lane of a link is trained. -/
def allTrained (s : State) (k : Nat) : Bool := (linkLanes s k).all fun i => (laneAt s i).trained

/-- Every lane of a link is locked. -/
def allLocked (s : State) (k : Nat) : Bool := (linkLanes s k).all fun i => (laneAt s i).lock

/-- An Aligning link with its lanes locked, its markers found and no remote fault goes Up and joins the spray sets; what
waited for a link is sent (R252, R263, R283). -/
def tryUp (k : Nat) (s : State) : State :=
  let l := linkAt s k
  if l.st = .aligning ∧ l.markers ∧ l.fault = false ∧ allLocked s k then pumpTx (bumpPaths k (linkEnter k .up s)) else s

/-- LANE_TRAIN_DONE (R53, R252). -/
def execLaneTrainDone (hinge lane : Nat) (ok : Bool) (eye : Nat) (s : State) : Host.Outcome State Fault Refusal :=
  live (fun s =>
    let i := 8 * hinge + lane
    if hinge < 8 ∧ lane < 8 ∧ (laneAt s i).trainReq then
      let s := laneMap i (fun l => { l with trainReq := false, trained := ok, eye := eye % 256,
                                            eyeTrained := (if ok then eye % 256 else l.eyeTrained) }) s
      let s := { s with plan := { s.plan with eyes := (s.plan.eyes ++ List.replicate (64 - s.plan.eyes.length) 0).set i (eye % 256) } }
      let k := linkOfLane s hinge lane
      if ok then
        (if (linkAt s k).st = .training ∧ allTrained s k then
          linkEnter k .aligning (setLink k { linkAt s k with markers := false, fault := false } s) else s)
      else trainFailed hinge lane s
    else s) s

/-- LANE_TRAIN_TIMEOUT: train_req falls, the lane is down, and the failure is recorded (R53). -/
def execLaneTrainTimeout (hinge lane : Nat) (s : State) : Host.Outcome State Fault Refusal :=
  live (fun s =>
    let i := 8 * hinge + lane
    if hinge < 8 ∧ lane < 8 ∧ (laneAt s i).trainReq then
      trainFailed hinge lane (laneMap i (fun l => { l with trainReq := false, trained := false }) s)
    else s) s

/-- LANE_LOCK_CHANGE: an Up link whose lane loses lock goes Down; an Aligning link may go Up (R252). -/
def execLaneLockChange (hinge lane : Nat) (lock : Bool) (s : State) : Host.Outcome State Fault Refusal :=
  live (fun s =>
    if hinge < 8 ∧ lane < 8 then
      let s := laneMap (8 * hinge + lane) (fun l => { l with lock := lock }) s
      let k := linkOfLane s hinge lane
      if lock then tryUp k s
      else if (linkAt s k).st = .up then linkDown k s else s
    else s) s

/-- LINK_ALIGN_TIMEOUT (R252). -/
def execLinkAlignTimeout (link : Nat) (s : State) : Host.Outcome State Fault Refusal :=
  live (fun s => if (linkAt s link).st = .aligning then linkDown link s else s) s

/-- FEC_FAIL_LIMIT (R252). -/
def execFecFailLimit (link : Nat) (s : State) : Host.Outcome State Fault Refusal :=
  live (fun s => if (linkAt s link).st = .up then linkDown link s else s) s

/-- REMOTE_FAULT_RECEIVE: an Up link goes Down; an Aligning one does not go Up while the fault is reported (R252). -/
def execRemoteFaultReceive (link : Nat) (s : State) : Host.Outcome State Fault Refusal :=
  live (fun s =>
    if (linkAt s link).st = .up then linkDown link s
    else if (linkAt s link).st = .aligning then setLink link { linkAt s link with fault := true } s else s) s

/-- LANE_ALIGNMENT_LOSS (R252). -/
def execLaneAlignmentLoss (link lane : Nat) (s : State) : Host.Outcome State Fault Refusal :=
  live (fun s =>
    if (linkAt s link).st = .up ∧ (linkLanes s link).contains (8 * (link / 4) + lane) then linkDown link s else s) s

/-- ALIGNMENT_MARKERS_FOUND: skew, block and codeword lock are good and the partner reports no fault now (log 91); with every
lane locked the link goes Up (R252). -/
def execAlignmentMarkersFound (link : Nat) (s : State) : Host.Outcome State Fault Refusal :=
  live (fun s =>
    if (linkAt s link).st = .aligning then tryUp link (setLink link { linkAt s link with markers := true, fault := false } s) else s) s

/-- RELINK_HOLDOFF_EXPIRY: a Down link trains again (R252). -/
def execRelinkHoldoffExpiry (link : Nat) (s : State) : Host.Outcome State Fault Refusal :=
  live (fun s => if (linkAt s link).st = .down ∧ hingeOn s (link / 4) then linkTrain link s else s) s

/-- RELINK_HOLDOFF_RESTORE: the holdoff returns to its set value (R252). -/
def execRelinkHoldoffRestore (link : Nat) (s : State) : Host.Outcome State Fault Refusal :=
  live (fun s => if link < 32 then setLink link { linkAt s link with holdoff := 0, downs := [] } s else s) s

/-- QUIESCE_COMPLETE: what is still unacknowledged goes as for Down, and the link trains (R252). -/
def execQuiesceComplete (link : Nat) (s : State) : Host.Outcome State Fault Refusal :=
  live (fun s => if (linkAt s link).st = .quiescing then linkTrain link (resendLink link s) else s) s

/-- PFC_FRAME_RECEIVE: the partner pauses and resumes priorities (R267). -/
def execPfcFrameReceive (hinge : Nat) (pause resume : List Nat) (s : State) : Host.Outcome State Fault Refusal :=
  live (fun s =>
    if hinge < 8 ∧ getP s (0x0203 + 16 * hinge) = 1 then
      let kept := s.pfcPaused.filter fun x => !decide (x.1 = hinge ∧ (x.2 ∈ resume ∨ x.2 ∈ pause))
      pumpTx { s with pfcPaused := kept ++ (dedup (pause.filter fun q => decide (q < 8))).map fun q => (hinge, q) }
    else s) s

/-- PFC_PAUSE_EXPIRY: the pause time runs out and sending of the priority resumes (R267). -/
def execPfcPauseExpiry (hinge prio : Nat) (s : State) : Host.Outcome State Fault Refusal :=
  live (fun s => pumpTx { s with pfcPaused := s.pfcPaused.filter fun x => decide (x ≠ (hinge, prio)) }) s

end Sys2Proof.Machine
end

