-- ==== Sys2Proof/Machine/Carafe.lean ====
section
/-! DEFINITION. Carafe (R319 to R327): pools, owners, cells, waits and runs. -/

namespace Sys2Proof.Machine

/-- Cell bytes of a pool (R319). -/
def cellBytes (c : Nat) : Nat := if c = 0 then 256 else if c = 1 then 4096 else if c = 2 then 16384 else 65536

/-- Pool `c`. -/
def poolAt (s : State) (c : Nat) : Pool := s.carafe.pools.getD c Pool.none

/-- Replace a pool. -/
def setPool (c : Nat) (p : Pool) (s : State) : State :=
  { s with carafe := { s.carafe with pools := s.carafe.pools.set c p } }

/-- Write the link of a free cell into the cell (R323). -/
def linkCell (a : Nat) (next : Option Nat) (s : State) : State := spWrite a (leBytes 8 (next.getD (2 ^ 64 - 1))) s

/-- Write the links of a whole list. -/
def linkAll : List Nat → State → State
  | [], s => s
  | a :: r, s => linkAll r (linkCell a r.head? s)

/-- Cells of a pool, ascending. -/
def poolCells (p : Pool) (c : Nat) : List Nat := (List.range p.cells).map fun i => p.base + i * cellBytes c

/-- A cell is held. -/
def cellHeld (s : State) (c a : Nat) : Bool := s.carafe.cells.any fun h => decide (h.pool = c ∧ h.addr = a)

/-- Rebuild a scratchpad pool's list in ascending order from the side table (R323, R326). -/
def poolRebuild (c : Nat) (s : State) : State :=
  let p := poolAt s c
  let free := (poolCells p c).filter fun a => !cellHeld s c a
  linkAll free (setPool c { p with free := free } s)

/-- Owner `o`'s reserve in cells of pool `c` (R321). -/
def reserveOf (s : State) (o c : Nat) : Nat := (getP s (0x0408 + o) >>> (16 * c)) % 65536

/-- Cells of pool `c` that owner `o` holds. -/
def heldBy (s : State) (o c : Nat) : Nat := (s.carafe.cells.filter fun h => decide (h.pool = c ∧ h.owner = o)).length

/-- What the reserves of the owners other than `o` still lack in pool `c` (R324). -/
def unmet (s : State) (o c : Nat) : Nat :=
  sumN ((List.range 12).map fun q => if q = o then 0 else reserveOf s q c - heldBy s q c)

/-- Owner `o` may take a cell of pool `c` (R324). An owner from 12 on has no reserve. -/
def mayTake (s : State) (o c : Nat) : Bool :=
  let p := poolAt s c
  decide (0 < p.free.length) && (decide (o < 12 ∧ heldBy s o c < reserveOf s o c) || decide (unmet s o c < p.free.length))

/-- Take the head of a pool's list. -/
def takeCell (o c ref : Nat) (use : CellUse) (s : State) : State :=
  let p := poolAt s c
  match p.free with
  | [] => s
  | a :: r =>
    let s := setPool c { p with free := r } s
    { s with carafe := { s.carafe with cells := s.carafe.cells ++ [{ pool := c, addr := a, owner := o, ref := ref, use := use }] } }

/-- The pool a request of `n` bytes takes a cell from (R324). -/
def poolFor (s : State) (o n : Nat) : Option Nat :=
  (List.range 4).find? fun c => decide (n ≤ cellBytes c) && mayTake s o c

/-- Request a cell: granted, or waiting and counted (R324). -/
def carafeAsk (o n cls ref : Nat) (use : CellUse) (s : State) : State :=
  match poolFor s o n with
  | some c => takeCell o c ref use s
  | none =>
    ctrInc (896 + 2 * o) { s with carafe := { s.carafe with waits := s.carafe.waits ++
      [{ owner := o, bytes := n, cls := cls, ref := ref, use := use, since := s.kt }] } }

/-- Free a cell: it becomes the head of its pool's list (R323). -/
def freeCell (h : CellHeld) (s : State) : State :=
  let p := poolAt s h.pool
  let s := { s with carafe := { s.carafe with cells := s.carafe.cells.filter fun x => decide (¬ (x.pool = h.pool ∧ x.addr = h.addr)) } }
  setPool h.pool { p with free := h.addr :: p.free } (linkCell h.addr p.free.head? s)

/-- Unit Carafe. -/
def unitCarafe : Nat := 0x0048

/-- Lower the count of the cells of a use by `n`, freeing them at 0; a count that is already 0 is an error (R325,
R326). -/
def releaseUse (use : CellUse) (n : Nat) (s : State) : State :=
  match s.carafe.cells.find? fun h => decide (h.use = use) with
  | none => if n = 0 then s else jobFault unitCarafe 0x0401 0 Where.none s
  | some h =>
    if h.ref < n then jobFault unitCarafe 0x0401 0 Where.none s
    else if h.ref = n then freeCell h s
    else { s with carafe := { s.carafe with cells := s.carafe.cells.map fun x =>
        if x.pool = h.pool ∧ x.addr = h.addr then { x with ref := h.ref - n } else x } }

/-- Set the count of the cell of a use; a count of 0 frees it (R217). -/
def setRef (use : CellUse) (n : Nat) (s : State) : State :=
  match s.carafe.cells.find? fun h => decide (h.use = use) with
  | none => s
  | some h =>
    if n = 0 then freeCell h s
    else { s with carafe := { s.carafe with cells := s.carafe.cells.map fun x =>
        if x.pool = h.pool ∧ x.addr = h.addr then { x with ref := n } else x } }

/-- Free every cell that `p` selects, and drop the waits it selects. -/
def freeCells (p : CellUse → Bool) (s : State) : State :=
  let s := endWaits (fun w => p w.use) s
  (s.carafe.cells.filter fun h => p h.use).foldl (fun t h => freeCell h t) s

/-- A waiting request, and whether it may be granted now. -/
def waitReady (s : State) (w : CellWait) : Bool := (poolFor s w.owner w.bytes).isSome

/-! ### The ingress buffer and priority flow control (R267) -/

/-- Bytes of a frame in the ingress buffer. -/
def RxChunk.bytes (c : RxChunk) : Nat := 86 + c.payload.length

/-- Frames of a Hinge that stand in its ingress buffer: those whose cell is not granted (R283). -/
def bufFrames (s : State) (hinge : Nat) : List RxChunk :=
  s.kft.ingress.filter fun c => decide (c.hinge = hinge) &&
    s.carafe.waits.any fun w => decide (w.use = .arrival c.hdr.srcSeat c.hdr.vc c.hdr.seq)

/-- Bytes that the frames of a priority occupy. -/
def bufBytes (s : State) (hinge prio : Nat) : Nat := sumN (((bufFrames s hinge).filter fun c => decide (c.pcp = prio)).map (·.bytes))

/-- A priority's share of the buffer: free, and no more than the buffer (log 94). -/
def bufShare (prio : Nat) : Nat := Config.freeShare prio % (2 ^ 20 + 1)

/-- Send XOFF for a priority above 75 % of its share, and XON below 50 % (R267, R491). -/
def pfcStep (s : State) (hp : Nat × Nat) : State :=
  let occ := bufBytes s hp.1 hp.2
  let on := s.pfcSent.contains hp
  if getP s (0x0203 + 16 * hp.1) = 1 then
    let xoff := !on && decide (3 * bufShare hp.2 < 4 * occ)
    let xon := on && decide (2 * occ < bufShare hp.2)
    ctrAdd (hingeCtr hp.1 20) (b01 xoff)
      { s with pfcSent := if xoff then s.pfcSent ++ [hp] else if xon then s.pfcSent.filter fun x => decide (x ≠ hp) else s.pfcSent }
  else s

/-- Every Hinge and priority, after frames came or went. A Hinge and priority with neither frames nor an XOFF has nothing to
send. -/
def pfcCheck (s : State) : State :=
  (dedup (s.pfcSent ++ (List.range 8).flatMap fun p => (bufFrames s p).map fun c => (p, c.pcp))).foldl pfcStep s

/-! ### Host pools (R327) -/

/-- The runs of pool `c`, ascending. -/
def runsOf (s : State) (c : Nat) : List (Nat × Nat) :=
  (s.carafe.runs.filter fun r => decide (r.1 = c)).map fun r => r.2

/-- The header of a free run. -/
def runHeader (cells : Nat) (next : Option Nat) : List Byte :=
  leBytes 8 cells ++ leBytes 8 (next.getD (2 ^ 64 - 1)) ++ List.replicate 48 0

/-- Write a free run's header at its start, in the block context; an error on this write is ignored. -/
def writeHeader (va cells : Nat) (next : Option Nat) (s : State) : State := (hostWrite s 0 va (runHeader cells next)).1

/-- Write the header of every free run: `old` are the runs whose headers stand as they are. -/
def writeHeaders (old : List ((Nat × Nat) × Option Nat)) : List (Nat × Nat) → State → State
  | [], s => s
  | (va, n) :: r, s =>
    let next := r.head?.map (·.1)
    writeHeaders old r (if old.contains ((va, n), next) then s else writeHeader va n next s)

/-- Runs with the VA of the next. -/
def withNext (l : List (Nat × Nat)) : List ((Nat × Nat) × Option Nat) := l.zip ((l.drop 1).map (fun x => some x.1) ++ [none])

/-- The free runs of a pool become `l`; headers an allocation or a release does not touch are not rewritten. -/
def putRuns (c : Nat) (old : List ((Nat × Nat) × Option Nat)) (l : List (Nat × Nat)) (s : State) : State :=
  writeHeaders old l
    { s with carafe := { s.carafe with runs := s.carafe.runs.filter (fun r => decide (r.1 ≠ c)) ++ l.map fun r => (c, r) } }

/-- Replace the free runs of a pool at an allocation or release. -/
def setRuns (c : Nat) (l : List (Nat × Nat)) (s : State) : State := putRuns c (withNext (runsOf s c)) l s

/-- Write every header of a pool's runs: at POOL_CONFIG, and when its list is rebuilt (R326, R327). -/
def newRuns (c : Nat) (l : List (Nat × Nat)) (s : State) : State := putRuns c [] l s

/-- Rebuild a host pool's list. -/
def runsRebuild (c : Nat) (s : State) : State := newRuns c (runsOf s c) s

/-- First fit in ascending VA: the run's base and what is left. -/
def firstFit (n : Nat) : List (Nat × Nat) → Option (Nat × List (Nat × Nat))
  | [] => none
  | (va, k) :: r =>
    if n < k then some (va, (va + n * 65536, k - n) :: r)
    else if n = k then some (va, r)
    else match firstFit n r with
      | none => none
      | some (b, l) => some (b, (va, k) :: l)

/-- Insert a run in ascending VA. -/
def insertRun (va n : Nat) : List (Nat × Nat) → List (Nat × Nat)
  | [] => [(va, n)]
  | (a, k) :: r => if va < a then (va, n) :: (a, k) :: r else (a, k) :: insertRun va n r

/-- Merge neighbouring runs. -/
def mergeRuns : List (Nat × Nat) → List (Nat × Nat)
  | [] => []
  | (a, k) :: r =>
    match mergeRuns r with
    | [] => [(a, k)]
    | (b, m) :: l => if a + k * 65536 = b then (a, k + m) :: l else (a, k) :: (b, m) :: l

/-- Release a run, merged with any free neighbour. -/
def releaseRun (c va n : Nat) (s : State) : State := setRuns c (mergeRuns (insertRun va n (runsOf s c))) s

/-- Cells of pool `c`, 0 where it is disabled. -/
def poolSize (s : State) (c : Nat) : Nat := (poolAt s c).cells

/-! ### Errors in Carafe's own structures (R326) -/

/-- CARAFE_LIST_ERROR: a bad link has the list of a pool rebuilt from what Carafe keeps beside it, and counted; a lost
side-table entry of cell `entry` is remembered; either faults the job (R326). A host pool's list is the headers of its free
runs (R327). -/
def execCarafeListError (pool : Nat) (entry : Option Nat) (s : State) : Host.Outcome State Fault Refusal :=
  live (fun s =>
    if pool < 8 ∧ (poolAt s pool).cells ≠ 0 then
      match entry with
      | none => jobFault unitCarafe 0x0406 0 Where.none (ctrInc 18 (if pool < 4 then poolRebuild pool s else runsRebuild pool s))
      | some a =>
        if pool < 4 ∧ a ∈ poolCells (poolAt s pool) pool ∧ jobExists s then
          jobFault unitCarafe 0x0406 0 Where.none { s with carafe := { s.carafe with lost := dedup (s.carafe.lost ++ [(pool, a)]) } }
        else s
    else s) s

/-- At JOB_CLOSE the cells whose entries are lost count as held; they are freed at Closed (R326). -/
def loseCells (s : State) : State :=
  s.carafe.lost.foldl (fun t x =>
    let p := poolAt t x.1
    if p.free.contains x.2 then
      linkAll (p.free.erase x.2) (setPool x.1 { p with free := p.free.erase x.2 } { t with carafe := { t.carafe with cells :=
        t.carafe.cells ++ [{ pool := x.1, addr := x.2, owner := 12, ref := 1, use := .unknown }] } })
    else t) { s with carafe := { s.carafe with lost := [] } }

/-! ### Messages in cells (R255, R258) -/

/-- A whole message has been taken by its row: it leaves the cells that hold it. -/
def inboxTake (src : Nat) (b : List Byte) (s : State) : State :=
  match s.kft.inbox.find? fun m => decide (m.src = src ∧ m.bytes = b) with
  | none => s
  | some m => freeCells (fun u => match u with
      | .arrival a vc q => decide (a = src ∧ vc = m.vc) && m.seqs.contains q
      | _ => false) { s with kft := { s.kft with inbox := s.kft.inbox.erase m } }

/-! ### The scratchpad's regions -/

/-- Two ranges overlap. -/
def overlaps (a n b m : Nat) : Bool := decide (a < b + m ∧ b < a + n ∧ 0 < n ∧ 0 < m)

/-- The start of the internal reserve (R316). -/
def spReserve : Nat := 0x05F00000

/-- A range overlaps a configured scratchpad pool other than `skip` (R318, R320). -/
def hitsPool (s : State) (a n skip : Nat) : Bool :=
  (List.range 4).any fun c =>
    let p := poolAt s c
    decide (c ≠ skip) && overlaps a n p.base (p.cells * cellBytes c)

/-- The 16 MiB window would overlap the carve, a pool or the reserve (R318). -/
def windowBad (s : State) (v : Nat) : Bool :=
  decide (spReserve < v + 0x1000000) || hitsPool s v 0x1000000 8 ||
  overlaps v 0x1000000 (getP s 0x0404) (spReserve - getP s 0x0404)

end Sys2Proof.Machine
end

