-- ==== Sys2Proof/Machine/Trace.lean ====
section
/-! DEFINITION. Drip (R482 to R488), the record ring's writes (R392, R395), and the retention log as bytes (R418, R419). -/

namespace Sys2Proof.Machine

/-- A TRACE_CFG payload (R482). -/
structure TraceCfg where
  enable : Bool
  base : Nat
  size : Nat
  kindMask : Nat
  unitMask : Nat
  sampleUs : Nat
  sel : List Nat
  deriving DecidableEq, Repr

/-- Read the 64-byte layout. -/
def traceOf (b : List Byte) : TraceCfg :=
  { enable := bit (leAt b 0 1) 0, base := leAt b 2 6, size := leAt b 8 4, kindMask := leAt b 12 2 &&& 0x7FFE,
    unitMask := leAt b 16 2 % 2 ^ 15, sampleUs := leAt b 20 2, sel := (List.range 8).map fun i => leAt b (24 + 2 * i) 2 }

/-- Range check of R482. -/
def traceRange (c : TraceCfg) : Bool := decide (c.base % 65536 = 0) && inR c.size 1 (2 ^ 24)

/-- While enabled, base and size stay (R482). -/
def traceFixed (s : State) (c : TraceCfg) : Bool :=
  s.drip.enable && c.enable && decide (c.base ≠ s.drip.base ∨ c.size ≠ s.drip.size)

/-- Apply a trace configuration (R483). -/
def traceApply (c : TraceCfg) (s : State) : State :=
  let d := s.drip
  if c.enable ∧ ¬ d.enable then
    setP { s with drip := { enable := true, base := c.base, size := c.size, kindMask := c.kindMask, unitMask := c.unitMask,
                            sampleUs := c.sampleUs, sel := c.sel, head := 0, lost := 0, status := 0, buf := [],
                            lossCount := 0, lossFirst := 0, lossLast := 0 } } 0x0A09 0
  else { s with drip := { d with enable := c.enable, kindMask := c.kindMask, unitMask := c.unitMask,
                                 sampleUs := c.sampleUs, sel := c.sel } }

/-- TRACE_CFG starts. -/
def startTraceCfg (p : Packet) (x : Ext) (order : Nat) (s : State) : State :=
  let c := traceOf (pBody p)
  syncCmd 0x68 p order x.io
    { len := fun n => decide (n = 64), range := traceRange c,
      state := if traceFixed s c then some (0x0205, 0, 0) else none,
      ranges := [(0, c.base, c.size * 65536, true)], res := none }
    (fun s => replyOne p order 0 0 0 0 0 (traceApply c s)) s

/-- TRACE_CFG (R482, R483). -/
def execTraceCfg (p : Packet) (io : Io) (s : State) : Host.Outcome State Fault Refusal :=
  live (takeCmd 0x68 p (Ext.ofIo io) (startTraceCfg p (Ext.ofIo io))) s

/-- A Drip record as 32 bytes (R487). -/
def DripRec.bytes (r : DripRec) : List Byte :=
  leBytes 32 (r.kind + r.slot * 2 ^ 8 + b01 r.slotValid * 2 ^ 14 + r.unit * 2 ^ 16 + r.kt * 2 ^ 32 + r.step * 2 ^ 96 +
    r.generation * 2 ^ 144 + r.payload * 2 ^ 160)

/-- DRIP_SAMPLE: the selected counters, all at one tick, as records of kind 12 (R488). -/
def execDripSample (s : State) : Host.Outcome State Fault Refusal :=
  live (fun s =>
    if s.drip.enable ∧ s.drip.sampleUs ≠ 0 then
      let vals := (s.drip.sel.filter fun v => bit v 15).map fun v => (v % 1024, ctrRead s (v % 1024))
      vals.foldl (fun t iv => dripAt 12 0 (iv.1 + iv.2 * 2 ^ 32) t) s
    else s) s

/-- The ring stops on an error: 1 translation fault, 2 bus error (R486). -/
def dripStop (code : Nat) (s : State) : State := { s with drip := { s.drip with status := code } }

/-- The code of a failed ring write: 1 translation fault, 2 bus error. -/
def ringCode (st : Nat) : Nat := if st = 0x0402 then 1 else 2

/-- DRIP_RECORD_WRITTEN: the oldest buffered record is written at drip.head, which advances by 32 (R484). -/
def execDripRecordWritten (io : Io) (s : State) : Host.Outcome State Fault Refusal :=
  live (fun s =>
    match s.drip.buf with
    | [] => s
    | r :: rest =>
      if s.drip.status = 0 ∧ domState s 13 = .inService then
        match ownWrite 0 (s.drip.base + s.drip.head) r.bytes io s with
        | (s, some st) => dripStop (ringCode st) s
        | (s, none) => { s with drip := { s.drip with buf := rest, head := (s.drip.head + 32) % (s.drip.size * 65536) } }
      else s) s

/-- DRIP_RING_FAULT: a fault of a ring write stops Drip until enable falls and rises (R486). -/
def execDripRingFault (code : Nat) (s : State) : Host.Outcome State Fault Refusal :=
  live (fun s => if code = 1 ∨ code = 2 then dripStop code s else s) s

/-! ### The record ring -/

/-- rec.ctl has been written: a rising enable restarts the ring (R392). -/
def recCtl (old new : Nat) (s : State) : State :=
  if bit new 0 ∧ ¬ bit old 0 then setP { s with recRing := Rec.reset } 0x0A04 0 else s

/-- A record's bytes (R394): header, then the payload padded to 64 B. -/
def RecEnt.bytes (r : RecEnt) : List Byte :=
  leBytes 64 (r.kind + b01 r.full * 2 ^ 8 + b01 r.poison * 2 ^ 9 + r.source * 2 ^ 10 + r.link * 2 ^ 13 +
    (recLen r) * 2 ^ 32 + r.kt * 2 ^ 64 + r.seq * 2 ^ 128 + r.crc * 2 ^ 192 + r.origBytes * 2 ^ 256 + r.context * 2 ^ 320)
  ++ padTo (roundUp 64 r.payload.length) r.payload

/-- A pad record that fills `n` bytes to the end of the ring (R395). -/
def padRecord (kt n : Nat) : List Byte := padTo n (leBytes 64 (n * 2 ^ 32 + kt * 2 ^ 64))

/-- The record ring stops on an error (R395). -/
def recStop (code : Nat) (s : State) : State := { s with recRing := { s.recRing with status := code } }

/-- RECORD_WRITTEN: the oldest buffered record's writes are answered and rec.head advances; a record that does not fit
before the end follows a pad record, at offset 0 (R395). -/
def execRecordWritten (io : Io) (s : State) : Host.Outcome State Fault Refusal :=
  live (fun s =>
    match s.recRing.buf with
    | [] => s
    | r :: rest =>
      if s.recRing.status = 0 ∧ domState s 13 = .inService then
        let base := getP s 0x0A00
        let size := getP s 0x0A01
        let head := s.recRing.head
        let bs := r.bytes
        let wraps := decide (size < head + bs.length)
        let at_ := if wraps then 0 else head
        let q := if wraps then ioSplit (reqCount s 0 (base + head) (size - head) true) io else (.ok, io)
        match (if wraps then ownWrite 0 (base + head) (padRecord r.kt (size - head)) q.1 s else (s, none)) with
        | (s, some st) => recStop (ringCode st) s
        | (s, none) => match ownWrite 0 (base + at_) bs q.2 s with
          | (s, some st) => recStop (ringCode st) s
          | (s, none) => { s with recRing := { s.recRing with buf := rest, head := (at_ + bs.length) % size } }
      else s) s

/-- RECORD_RING_FAULT (R395). -/
def execRecordRingFault (code : Nat) (s : State) : Host.Outcome State Fault Refusal :=
  live (fun s => if code = 1 ∨ code = 2 then recStop code s else s) s

/-! ### The retention log as bytes -/

/-- An entry of the retention log (R418): 60 bytes and their CRC-32C. -/
def LogEnt.bytes (e : LogEnt) : List Byte :=
  let b := leBytes 60 (e.kind + e.bootCount * 2 ^ 16 + e.seq * 2 ^ 32 + e.kt * 2 ^ 64 + (e.body % 2 ^ 256) * 2 ^ 128)
  b ++ leBytes 4 (crc32c b)

/-- The log as DUMP_READ writes it: valid entries in rising entry_seq, zeros after them (R419). -/
def logBytes (s : State) : List Byte := padTo 65536 (s.rlog.flatMap LogEnt.bytes)

/-- DUMP_READ starts (R419). -/
def startDumpRead (p : Packet) (x : Ext) (order : Nat) (s : State) : State :=
  let src := p.p0.toNat % 2
  let out := if src = 0 then logBytes s else s.dump.header
  asyncCmd 0x71 p order x.io
    { Checks.plain with ranges := [(0, pVa p, out.length, true)] }
    (fun c s => match ownWrite 0 (pVa p) out x.io s with
      | (s, some st) => finish c st 0 0 0 0 s
      | (s, none) => finish c 0 out.length (if src = 0 then s.rlog.length else 0) 0 0 s) s

/-- DUMP_READ: the retention log, or the last crash-dump header (R419). -/
def execDumpRead (p : Packet) (io : Io) (s : State) : Host.Outcome State Fault Refusal :=
  live (takeCmd 0x71 p (Ext.ofIo io) (startDumpRead p (Ext.ofIo io))) s

end Sys2Proof.Machine
end

