-- ==== Sys2Proof/Machine/Vault.lean ====
section
/-! DEFINITION. Vault's readings, periods and copies on command (R451 to R468). -/

namespace Sys2Proof.Machine

/-- The seven counters of a set, as 64-bit fields. -/
def VCounts.word (c : VCounts) : Nat :=
  c.tokensIn + c.tokensExited * 2 ^ 64 + c.copies * 2 ^ 128 + c.local_ * 2 ^ 192 + c.bytesOut * 2 ^ 256 +
    c.bytesIn * 2 ^ 320 + c.busy * 2 ^ 384

/-- Bytes 0 to 415 of a reading of a period (R461). -/
def readingBody (s : State) (p : VPeriod) (seq kt : Nat) (closed brace : Bool) : List Byte :=
  leBytes 416 (0x5601 + 2 ^ 16 + (s.vault.status % 2) * 2 ^ 24 + b01 p.inconsistent * 2 ^ 25 + b01 closed * 2 ^ 26 +
    b01 brace * 2 ^ 27 + b01 p.recovered * 2 ^ 28 + b01 p.fresh * 2 ^ 29 + s.vault.checksum * 2 ^ 32 + 2 ^ 72 +
    getP s 0x0001 * 2 ^ 80 + p.num * 2 ^ 96 + seq * 2 ^ 128 + kt * 2 ^ 192 + p.ktOpen * 2 ^ 256 + p.ktClose * 2 ^ 320 +
    s.fuses.deviceId * 2 ^ 384 + p.jobTag * 2 ^ 448 + p.ord.word * 2 ^ 512 + p.canc.word * 2 ^ 960)

/-- A signature as 96 bytes, r then s, little endian. -/
def sigBytes (sg : Nat × Nat) : List Byte := leBytes 48 sg.1 ++ leBytes 48 sg.2

/-- Sign a reading of a period: it takes a nonce pair and one from reading_seq (R461, R465). -/
def signReading (p : VPeriod) (closed brace : Bool) (s : State) : State × List Byte :=
  let seq := (s.vault.readingSeq + 1) % 2 ^ 64
  let b := readingBody s p seq s.kt closed brace
  let sg := Config.vaultSign b s.vault.nonceSeq
  (vaultWrite { s with vault := { s.vault with readingSeq := seq, nonces := s.vault.nonces - 1, nonceSeq := s.vault.nonceSeq + 1 } },
    b ++ sigBytes sg)

/-- The identity record (R463). -/
def signIdentity (s : State) : State × List Byte :=
  let sp := Config.signPub s.fuses.deviceSecret
  let mp := Config.mgmtPub s.fuses.deviceSecret
  let b := leBytes 256 (0x5602 + 2 ^ 16 + s.vault.checksum * 2 ^ 32 + 2 ^ 72 + getP s 0x0001 * 2 ^ 80 +
    s.fuses.options * 2 ^ 96 + s.fuses.deviceId * 2 ^ 384 + (sp.1 % 2 ^ 384) * 2 ^ 448 + (sp.2 % 2 ^ 384) * 2 ^ 832 +
    (mp.1 % 2 ^ 384) * 2 ^ 1216 + (mp.2 % 2 ^ 384) * 2 ^ 1600)
  let sg := Config.vaultSign b s.vault.nonceSeq
  ({ s with vault := { s.vault with nonces := s.vault.nonces - 1, nonceSeq := s.vault.nonceSeq + 1 } },
    b ++ sigBytes sg ++ List.replicate 32 0)

/-- Raw copy `i`, unsigned: write sequence, the period's record, the held counts, whose layout the manual does not give,
and the CRC over everything before it (R458, R463; log 22). -/
def rawCopy (i : Nat) (s : State) : State × List Byte :=
  let c := (vaultCopies s.vault).getD i { seq := 0, period := VPeriod.zero, readingSeq := 0, held := VCounts.zero, good := false }
  if c.good then
    let f := freeBytes s 84
    let b := leBytes 8 c.seq ++ readingBody s c.period c.readingSeq 0 false false ++ f.2
    (f.1, b ++ leBytes 4 (crc32c b))
  else freeBytes s 512

/-- A closed period still held. -/
def closedPeriod (s : State) (n : Nat) : Option VPeriod := s.vault.closed.find? fun p => decide (p.num = n)

/-- VAULT_READ's selector names a record Vault holds (R463). -/
def vaultSelOk (s : State) (sel p3 : Nat) : Bool :=
  match sel with
  | 1 => (closedPeriod s p3).isSome
  | 3 => decide (p3 % 4 ≠ 3)
  | _ => true

/-- Bytes of the record a selector names. -/
def vaultSelBytes (sel : Nat) : Nat := if sel = 2 then 384 else 512

/-- The record a selector names (R463). -/
def vaultRecord (sel p3 : Nat) (s : State) : State × List Byte :=
  match sel with
  | 0 => signReading s.vault.cur false false s
  | 1 => match closedPeriod s p3 with
    | some p => signReading p true false s
    | none => (s, [])
  | 2 => signIdentity s
  | _ => rawCopy (p3 % 4) s

/-- An unreserved nonce pair is held: one of the pairs is for brace (R465). -/
def nonceFree (s : State) : Bool := decide (2 ≤ s.vault.nonces)

/-- VAULT_READ writes its record and ends. -/
def runVaultRead (p : Packet) (io : Io) (c : OpenCmd) (s : State) : State :=
  let r := vaultRecord (p.p0.toNat % 4) p.p3.toNat s
  match ownWrite 0 (pVa p) r.2 io r.1 with
  | (s, some st) => finish c st 0 0 0 0 s
  | (s, none) => finish c 0 r.2.length 0 0 0 s

/-- VAULT_PERIOD_CLOSE closes the period, writes the closing reading and ends; the close stands where the write fails
(R464, R501). -/
def runPeriodClose (p : Packet) (io : Io) (c : OpenCmd) (s : State) : State :=
  let n := s.vault.cur.num
  let s := vaultClose s.vault.cur.jobTag false false s
  let r := match closedPeriod s n with
    | some q => signReading q true false s
    | none => (s, [])
  match ownWrite 0 (pVa p) r.2 io r.1 with
  | (s, some st) => finish c st 0 0 0 0 s
  | (s, none) => finish c 0 n 0 0 0 s

/-- A Vault command waits for a nonce pair (R465). -/
def vaultWait (p : Packet) (x : Ext) (order : Nat) (s : State) : State :=
  { s with vault := { s.vault with waiting := s.vault.waiting ++ [heldOf .after p x order] } }

/-- VAULT_READ starts (R463). -/
def startVaultRead (p : Packet) (x : Ext) (order : Nat) (s : State) : State :=
  let sel := p.p0.toNat % 4
  asyncCmd 0x60 p order x.io
    { Checks.plain with range := vaultSelOk s sel p.p3.toNat, ranges := [(0, pVa p, vaultSelBytes sel, true)] }
    (fun c s => if nonceFree s ∨ sel = 3 then runVaultRead p x.io c s else vaultWait p x order s) s

/-- VAULT_READ. -/
def execVaultRead (p : Packet) (io : Io) (s : State) : Host.Outcome State Fault Refusal :=
  live (takeCmd 0x60 p (Ext.ofIo io) (startVaultRead p (Ext.ofIo io))) s

/-- VAULT_PERIOD_CLOSE starts; during brace it fails ST_BRACED (R94, R464). -/
def startVaultPeriodClose (p : Packet) (x : Ext) (order : Nat) (s : State) : State :=
  asyncCmd 0x61 p order x.io
    { Checks.plain with state := if inBrace s then some (0x0601, 0, 0) else none, ranges := [(0, pVa p, 512, true)] }
    (fun c s => if nonceFree s then runPeriodClose p x.io c s else vaultWait p x order s) s

/-- VAULT_PERIOD_CLOSE. -/
def execVaultPeriodClose (p : Packet) (io : Io) (s : State) : Host.Outcome State Fault Refusal :=
  live (takeCmd 0x61 p (Ext.ofIo io) (startVaultPeriodClose p (Ext.ofIo io))) s

/-- The oldest waiting Vault command, once a pair is free and CTL is in service (R465, R467). -/
def vaultServe (s : State) : State :=
  match s.vault.waiting with
  | [] => s
  | h :: rest =>
    if nonceFree s ∧ domState s 0 = .inService then
      let s := { s with vault := { s.vault with waiting := rest } }
      if h.cmd.opcode.toNat = 0x60 then runVaultRead h.cmd h.io (openOf h.cmd h.order) s
      else runPeriodClose h.cmd h.io (openOf h.cmd h.order) s
    else s

/-- The seal checks (R451): fuse ECC, and the ROM's CRC against the fused one. -/
def sealCheck (eccOk : Bool) (romCrc : Nat) (s : State) : State :=
  let s := { s with vault := { s.vault with checksum := romCrc % 2 ^ 32 } }
  if eccOk ∧ romCrc % 2 ^ 32 = s.fuses.vaultChecksum then s
  else vaultStatus 0 { s with vault := { s.vault with sealBroken := true } }

/-- VAULT_SEAL_CHECK: every 24 h (R451). -/
def execVaultSealCheck (eccOk : Bool) (romCrc : Nat) (s : State) : Host.Outcome State Fault Refusal :=
  live (sealCheck eccOk romCrc) s

end Sys2Proof.Machine
end

