-- ==== Sys2Proof/Machine/Plan.lean ====
section
/-! DEFINITION. The margin planner and its ledger (R56, R425, R426, R439 to R447) and cycle skipping (R20, R433). -/

namespace Sys2Proof.Machine

/-- 24 h in KT ticks. -/
def dayTicks : Nat := 135000000000000

/-- 20 µs in KT ticks. -/
def twentyUs : Nat := 31250

/-- Required slack M (R440). -/
def marginM (s : State) : Nat := getP s 0x0118 + s.plan.s * getP s 0x0119

/-- The smallest slice slack. -/
def slackMin (s : State) : Nat := (s.plan.slack.take 4).foldl min 255

/-- The highest code a plan may use (R443). -/
def vddMax (s : State) : Nat := min (getP s 0x011C) s.plan.ceiling

/-- The skip count in force is the larger of the host's and the planner's (R20). -/
def skipSettle (s : State) : State :=
  { s with pwr := { s.pwr with skipInForce := max s.pwr.throttle s.plan.skipPlan } }

/-- Request a VDD code between 30 and 70, recorded as a raise or a lowering (R56). -/
def vddTo (code : Nat) (s : State) : State :=
  let c := min 70 (max 30 code)
  let up := decide (s.plan.vddReq < c)
  let s := ledgerAdd (if up then 1 else 2) s.plan.cause c 0 s
  { s with plan := { s.plan with vddPrev := s.plan.vddReq, vddReq := c, vddAck := false, changedVdd := true } }

/-- Set the planner's skip count. -/
def skipTo (n : Nat) (s : State) : State :=
  let s := ledgerAdd (if s.plan.skipPlan < n then 6 else 7) s.plan.cause n 0 s
  skipSettle { s with plan := { s.plan with skipPlan := n, changedSkip := true } }

/-- sram_ok (R442): every read-margin code, extrapolated to a lower code. -/
def sramOk (s : State) (code : Nat) : Bool :=
  s.plan.margins.all fun m => decide (2 * getP s 0x011D + getP s 0x011E * (s.plan.vddReq - code) ≤ 2 * m)

/-- An Up link whose eyes call for retraining (R442). -/
def eyeBad (s : State) (k : Nat) : Bool :=
  decide ((linkAt s k).st = .up) && (linkLanes s k).any fun i =>
    let l := laneAt s i
    decide (l.eye < getP s 0x011F) || decide (getP s 0x0120 < l.eyeTrained - l.eye)

/-- Retraining may start now (R443). -/
def mayRetrain (s : State) : Bool :=
  decide (s.job.st ≠ .starting) &&
  !(jobExists s && decide (s.kt < s.job.release + twentyUs) && decide (s.job.release < s.kt + twentyUs))

/-- Move to a phase. -/
def phaseTo (p : PlanPhase) (s : State) : State := { s with plan := { s.plan with phase := p } }

/-- Escalation steps of the trailing 24 h. -/
def recentSteps (s : State) : List Nat := s.esc.steps.filter fun t => decide (s.kt < t + dayTicks)

/-- EV_MARGIN_EXHAUSTED (R426). -/
def emitExhausted (s : State) : State := emit 0x0006 0x0070 s.plan.s (ledgerAdd 10 s.plan.cause s.plan.s 0 s)

/-- The first plan's baselines (R447). -/
def planBaseline (s : State) : State :=
  if s.plan.plans = 0 ∧ s.plan.baselineVdd = 0 then
    { s with plan := { s.plan with baseline := s.plan.slack.take 4, baselineVdd := s.plan.vddReq, roBase := s.plan.roNow } }
  else s

/-- The plan ends: counted, EV_MARGIN where R445 asks for it, the log entry of an escalation step, and the safest point
where margin is short or a third step fell within 24 h (R426, R443, R444). -/
def planEnd (s : State) : State :=
  let p := s.plan
  let short := decide (slackMin s < marginM s)
  let third := decide (p.cause = 1) && decide (3 ≤ (recentSteps s).length) && !p.exhausted
  let s := planBaseline s
  let s := { s with plan := { s.plan with plans := p.plans + 1, lastKt := s.kt, phase := .none } }
  let tell := decide (p.cause = 1 ∨ p.cause = 4) || p.changedSkip || (decide (p.cause = 2 ∨ p.cause = 5) && (p.changedVdd || p.retrained))
  let s := if tell then emit 0x0005 0x0070 (p.s + p.cause * 2 ^ 8) s else s
  let s := if p.cause = 1 then logAdd 0x0005 (p.s + p.cause * 2 ^ 8 + b01 (third || p.exhausted) * 2 ^ 16) s else s
  let s := if third then emitExhausted { s with plan := { s.plan with exhausted := true } } else s
  let s := if short then ledgerAdd 11 p.cause 0 0 s else s
  if short || third then
    let n := max s.plan.skipPlan (getP s 0x0122)
    phaseTo .safest (if s.plan.skipPlan < n then skipTo n s else s)
  else s

/-- Begin a plan with a cause (R441, R442). A periodic plan lifts the ceiling (R443). -/
def planBegin (cause : Nat) (s : State) : State :=
  { s with plan := { s.plan with phase := .raise, cause := cause, changedSkip := false, changedVdd := false,
                                 retrained := false, linkAt := 0, ceiling := if cause = 3 then 70 else s.plan.ceiling } }

/-- One action of the plan; `true` where the plan goes on at once, `false` where it waits (R442). -/
def planAct (s : State) : State × Bool :=
  let p := s.plan
  match p.phase with
  | .none =>
    match p.pending with
    | [] => (s, false)
    | c :: r =>
      let low := r.foldl min c
      (planBegin low { s with plan := { p with pending := [] } }, true)
  | .raise =>
    if p.vddReq < getP s 0x011B then (vddTo (min (p.vddReq + 2) (getP s 0x011B)) s, false)
    else if getP s 0x011C < p.vddReq ∧ p.exhausted = false then (vddTo (max (p.vddReq - 2) (getP s 0x011C)) s, false)
    else if 0 < p.skipPlan ∧ p.vddReq < vddMax s ∧ p.exhausted = false then
      (phaseTo .unskip (vddTo (min (p.vddReq + 2) (vddMax s)) s), false)
    else (phaseTo .raiseMargin s, true)
  | .unskip =>
    if 0 < p.skipPlan ∧ marginM s ≤ slackMin s then (skipTo (p.skipPlan - 1) s, false) else (phaseTo .raise s, true)
  | .raiseMargin =>
    if slackMin s < marginM s ∧ p.vddReq < vddMax s then (vddTo (min (p.vddReq + 2) (vddMax s)) s, false)
    else (phaseTo .lower s, true)
  | .lower =>
    if p.skipPlan = 0 ∧ marginM s + getP s 0x011A ≤ slackMin s ∧ getP s 0x011B < p.vddReq ∧
        sramOk s (p.vddReq - 2) = true ∧ p.exhausted = false then
      (phaseTo .lowerCheck (vddTo (p.vddReq - 2) s), false)
    else (phaseTo .links s, true)
  | .lowerCheck =>
    if slackMin s < marginM s then (phaseTo .links (vddTo (p.vddReq + 2) s), false) else (phaseTo .links s, true)
  | .links =>
    match (List.range 32).find? fun k => decide (p.linkAt ≤ k) && eyeBad s k with
    | none => (phaseTo .skip s, true)
    | some k =>
      if mayRetrain s then
        let s := leaveSpray k .up (linkEnter k .quiescing s)
        (phaseTo .linkWait { s with plan := { s.plan with linkAt := k, retrained := true } }, false)
      else (s, false)
  | .linkWait =>
    match (linkAt s p.linkAt).st with
    | .up => (phaseTo .links (ledgerAdd 4 p.cause 0 p.linkAt { s with plan := { s.plan with linkAt := p.linkAt + 1 } }), true)
    | .down => (phaseTo .links { s with plan := { s.plan with linkAt := p.linkAt + 1 } }, true)
    | .off => (phaseTo .links { s with plan := { s.plan with linkAt := p.linkAt + 1 } }, true)
    | _ => (s, false)
  | .skip =>
    if slackMin s < marginM s ∧ p.skipPlan < getP s 0x0121 then (skipTo (p.skipPlan + 1) s, false) else (planEnd s, true)
  | .safest =>
    if p.vddReq < vddMax s then (vddTo (min (p.vddReq + 2) (vddMax s)) s, false) else (phaseTo .none s, true)

/-- Actions until the plan waits. -/
def planRun : Nat → State → State
  | 0, s => s
  | n + 1, s => match planAct s with
    | (t, true) => planRun n t
    | (t, false) => t

/-- The planner acts: not during brace, and only while kw_vdd_ack is high (R56, R438, R442). -/
def planGo (s : State) : State := if inBrace s ∨ s.plan.vddAck = false then s else planRun 64 s

/-- A trigger of R441: it starts a plan, or waits for the current one or for EV_UNBRACE. -/
def planRequest (cause : Nat) (s : State) : State :=
  let idle := decide (s.plan.phase = .none)
  let s := { s with plan := { s.plan with pending := s.plan.pending ++ [cause] } }
  if idle then planGo s else s

/-- An escalation request outside brace (R425, R426, R440). -/
def escalateNow (s : State) : State :=
  if s.plan.exhausted ∨ 15 ≤ s.plan.s then emitExhausted s
  else
    let s := { s with plan := { s.plan with s := s.plan.s + 1 }, esc := { s.esc with steps := recentSteps s ++ [s.kt] } }
    planRequest 1 (ledgerAdd 8 1 s.plan.s 0 s)

/-- An escalation request; during brace it is recorded (R438). -/
def escalate (s : State) : State :=
  if inBrace s then { s with plan := { s.plan with pending := s.plan.pending ++ [1] } } else escalateNow s

/-- After EV_UNBRACE: recorded escalation requests are applied, then the planner goes on (R438). -/
def planUnbrace (s : State) : State :=
  let n := (s.plan.pending.filter fun c => decide (c = 1)).length
  let s := { s with plan := { s.plan with pending := s.plan.pending.filter fun c => decide (c ≠ 1) } }
  planGo ((List.range n).foldl (fun t _ => escalateNow t) s)

/-- Overwrite the first entries of a list. -/
def overlay (new old : List Nat) : List Nat := new ++ old.drop new.length

/-- Record the monitors of an interval (R439). -/
def monitorsIn (m : Monitors) (s : State) : State :=
  let eyes := overlay (m.eye.take 64) s.plan.eyes
  let s := { s with plan := { s.plan with slack := overlay (m.slack.take 4) s.plan.slack, roNow := overlay (m.ring.take 16) s.plan.roNow,
                                          margins := overlay (m.margin.take 64) s.plan.margins, eyes := eyes } }
  (List.zip (List.range 64) (m.eye.take 64)).foldl (fun t x => laneMap x.1 (fun l => { l with eye := x.2 % 256 }) t) s

/-- MEASUREMENT_INTERVAL_END: readings are recorded, and a plan in progress takes its next action (R439, R442). -/
def execMeasurementIntervalEnd (m : Monitors) (s : State) : Host.Outcome State Fault Refusal :=
  live (fun s =>
    let s := monitorsIn m s
    if s.plan.phase = .none ∧ s.plan.pending = [] then s else planGo s) s

/-- MARGIN_PLAN_PERIODIC: every 600 s from the rise of kw_ctl_ready (R441). -/
def execMarginPlanPeriodic (s : State) : Host.Outcome State Fault Refusal :=
  live (fun s => if s.rst.ctlReady then planRequest 3 s else s) s

/-- CANARY_ALARM: a slice's slack below pwr.margin_base starts a plan (R441); readings during brace are only recorded
(R439). -/
def execCanaryAlarm (slice slack : Nat) (s : State) : Host.Outcome State Fault Refusal :=
  live (fun s =>
    if slice < 4 ∧ slack < getP s 0x0118 then
      let s := { s with plan := { s.plan with slack := s.plan.slack.set slice slack } }
      if inBrace s then s else planRequest 5 s
    else s) s

/-- CE_LIMIT_REPLAN: a domain's corrected errors rose by more than fault.ce_limit in an hour (R426). -/
def execCeLimitReplan (code : Nat) (s : State) : Host.Outcome State Fault Refusal :=
  live (fun s => if (domOf code).isSome then planRequest 2 s else s) s

/-- The margin step changes, once AO writes are on (R440, R447). -/
def marginStep (n : Nat) (s : State) : State :=
  if s.rst.aoStopped then aoHold (.step n) s else { s with plan := { s.plan with s := n } }

/-- The advisory of R426 ends. -/
def advisoryEnd (s : State) : State :=
  { s with plan := { s.plan with exhausted := false }, esc := { s.esc with steps := recentSteps s } }

/-- RELAX_PERIOD_EXPIRY: S falls by one and a plan starts (R440, R441). -/
def execRelaxPeriodExpiry (s : State) : Host.Outcome State Fault Refusal :=
  live (fun s =>
    if 0 < s.plan.s ∧ s.plan.exhausted = false then
      planRequest 4 (ledgerAdd 9 4 (s.plan.s - 1) 0 (marginStep (s.plan.s - 1) s))
    else s) s

/-- MARGIN_EXHAUSTED_ADVISORY_END: fewer than three escalation steps lie in the trailing 24 h (R426). -/
def execMarginExhaustedAdvisoryEnd (s : State) : Host.Outcome State Fault Refusal :=
  live (fun s =>
    if s.plan.exhausted = true ∧ (recentSteps s).length < 3 then
      (if s.rst.aoStopped then aoHold .advisory s else advisoryEnd s)
    else s) s

/-- VDD_ACK_RISE: the regulator has settled (R56). -/
def execVddAckRise (s : State) : Host.Outcome State Fault Refusal :=
  live (fun s => { s with plan := { s.plan with vddAck := true, vddPrev := s.plan.vddReq } }) s

/-- VDD_ACK_TIMEOUT: the previous code returns and is the ceiling until the next periodic plan; the failure is recorded
(R56, R443). -/
def execVddAckTimeout (s : State) : Host.Outcome State Fault Refusal :=
  live (fun s =>
    if s.plan.vddAck = false ∧ s.plan.vddPrev ≠ s.plan.vddReq then
      let c := s.plan.vddPrev
      ledgerAdd 3 s.plan.cause c 0 { s with plan := { s.plan with vddReq := c, ceiling := c } }
    else s) s

/-- THROTTLE_CHANGE: the host's skip request (R20, R57). -/
def execThrottleChange (n : Nat) (s : State) : Host.Outcome State Fault Refusal :=
  live (fun s => skipSettle { s with pwr := { s.pwr with throttle := n % 64 } }) s

end Sys2Proof.Machine
end

