-- ==== Sys2Proof/Machine/Pour.lean ====
section
/-! DEFINITION. Pour (R343 to R375): the four commands, the channel machine and its instructions. -/

namespace Sys2Proof.Machine

/-- Unit Pour. -/
def unitPour : Nat := 0x0038

/-- Replace channel `c`. -/
def setCh (c : Nat) (x : PourCh) (s : State) : State := { s with pour := { s.pour with ch := s.pour.ch.set c x } }

/-- Change channel `c`. -/
def chMap (c : Nat) (f : PourCh → PourCh) (s : State) : State := setCh c (f (chAt s c)) s

/-- Channel `c` enters a state, with a Drip record of kind 8 (R488); MMU commands that waited for it may end (R345). -/
def chMove (c : Nat) (st : PourState) (s : State) : State :=
  dripAt 8 unitPour (c + st.code * 2 ^ 5) (mmuRetire (chMap c (fun x => { x with st := st }) s))

/-- A channel becomes ready: its place in the order (R343). -/
def chReady (c : Nat) (s : State) : State :=
  chMap c (fun x => { x with ready := s.pour.readySeq })
    { s with pour := { s.pour with readySeq := s.pour.readySeq + 1 } }

/-- The final reply of POUR_START (R348). -/
def pourReply (c status : Nat) (s : State) : State :=
  let x := chAt s c
  match x.cmd with
  | none => s
  | some o => finish o status (x.pc % 2 ^ 32) x.mismatches (x.bytes % 2 ^ 32) (x.bytes / 2 ^ 32 % 2 ^ 32)
      (chMap c (fun x => { x with cmd := none }) s)

/-- End the aborts that wait on a channel. -/
def abortReplies (c status : Nat) (s : State) : State :=
  (chAt s c).abortCmds.foldl (fun t o => finish o status 0 0 0 0 t) (chMap c (fun x => { x with abortCmds := [] }) s)

/-- Give back a channel's staging cells (R375). -/
def unstage (c : Nat) (s : State) : State := freeCells (fun u => decide (u = .pour c)) s

/-- A channel ends in Done with a status; its write-back begins (R368). -/
def pourDone (c status : Nat) (s : State) : State :=
  chMove c .done (unstage c (chMap c (fun x =>
    { x with status := status, hold := false, busy := false, waiting := false, waitFrom := none, pending := none, wb := true }) s))

/-- A channel returns to Idle, its context gone. -/
def pourIdle (c : Nat) (s : State) : State := setCh c { chAt s c with
    st := .idle, cmd := none, abortCmds := [], pc := 0, pos := 0, hit := false, loops := [], pending := none, read := false, hold := false,
    busy := false, waiting := false, waitFrom := none, wb := false } (chMove c .idle (unstage c s))

/-- A bus error on a Pour request: every pipe stops and the drain begins (R364). -/
def pourBusError (s : State) : State := { s with pour := { s.pour with drain := true } }

/-- Pour may issue: no drain, and MEM is in service (R364, R373). -/
def pourRuns (s : State) : Bool := !s.pour.drain && decide (domState s 13 = .inService)

/-- Some channel is Stopped. -/
def anyStopped (s : State) : Bool := s.pour.ch.any fun x => decide (x.st = .stopped)

/-! ### Commands -/

/-- POUR_START's effect: the channel is Armed (R347, R370). -/
def runPourStart (p : Packet) (o : OpenCmd) (s : State) : State :=
  let c := p.p0.toNat % 32
  let s := if s.carafe.cells.any (fun h => decide (h.use = .prefetch)) || s.carafe.waits.any (fun w => decide (w.use = .prefetch))
    then s else carafeAsk 11 65536 2 1 .prefetch s
  chMove c .armed (setCh c { PourCh.idle with prio := bits p.p0.toNat 7 5, cmd := some o, descVa := pVa p } s)

/-- POUR_START starts; brace holds it (R94, R346, R365, R371). -/
def startPourStart (p : Packet) (x : Ext) (order : Nat) (s : State) : State :=
  braceCmd 0x38 p x order
    { Checks.plain with
      range := decide (pVa p % 64 = 0),
      res := if anyStopped s then some 0x0403 else if (chAt s (p.p0.toNat % 32)).st = .idle then none else some 0x0304 }
    (runPourStart p) s

/-- POUR_START. -/
def execPourStart (p : Packet) (s : State) : Host.Outcome State Fault Refusal :=
  live (takeCmd 0x38 p Ext.none (startPourStart p Ext.none)) s

/-- POUR_ABORT starts (R370). -/
def startPourAbort (p : Packet) (_ : Ext) (order : Nat) (s : State) : State :=
  let c := p.p0.toNat % 32
  asyncCmd 0x39 p order .ok Checks.plain (fun o s =>
    match (chAt s c).st with
    | .idle => finish o 0 0 0 0 0 s
    | .stopped => finish o 0x0403 0 0 0 0 s
    | .done => chMap c (fun x => { x with abortCmds := x.abortCmds ++ [o] }) s
    | .cancelling => chMap c (fun x => { x with abortCmds := x.abortCmds ++ [o] }) s
    | _ => chMove c .cancelling (chMap c (fun x =>
        { x with abortCmds := x.abortCmds ++ [o], hold := false, waiting := false, pending := none, status := 0x0404, wb := false }) s)) s

/-- POUR_ABORT. -/
def execPourAbort (p : Packet) (s : State) : Host.Outcome State Fault Refusal :=
  live (takeCmd 0x39 p Ext.none (startPourAbort p Ext.none)) s

/-- POUR_RESTART_ALL starts (R365). -/
def startPourRestartAll (p : Packet) (_ : Ext) (order : Nat) (s : State) : State :=
  syncCmd 0x3A p order .ok { Checks.plain with res := if s.pour.drain then some 0x0304 else none }
    (fun s => replyOne p order 0 0 0 0 0
      ((List.range 32).foldl (fun t c => if (chAt t c).st = .stopped then pourIdle c t else t) s)) s

/-- POUR_RESTART_ALL. -/
def execPourRestartAll (p : Packet) (s : State) : Host.Outcome State Fault Refusal :=
  live (takeCmd 0x3A p Ext.none (startPourRestartAll p Ext.none)) s

/-- POUR_RESUME starts (R367). -/
def startPourResume (p : Packet) (_ : Ext) (order : Nat) (s : State) : State :=
  let c := p.p0.toNat % 32
  syncCmd 0x3B p order .ok Checks.plain (fun s =>
    let st := (chAt s c).st
    replyOne p order 0 st.code 0 0 0 (if st = .parked then chReady c (chMove c .armed s) else s)) s

/-- POUR_RESUME. -/
def execPourResume (p : Packet) (s : State) : Host.Outcome State Fault Refusal :=
  live (takeCmd 0x3B p Ext.none (startPourResume p Ext.none)) s

/-! ### The channel machine -/

/-- How the memory port answered Pour's accesses to the pieces `rd`, and to `wr`, which were to receive `bs`: poison ends the
channel, anything else stops Pour (R47, R364, R372). -/
def pourIo (c : Nat) (io : Io) (rd wr : List Piece) (bs : List Byte) (ok : State → State) (s : State) : State :=
  match io with
  | .ok => ok s
  | .walk e ctx lv va => pourBusError (walkBroken e ctx lv va s)
  | .bad e =>
    if rd.isEmpty ∧ wr.isEmpty then ok s
    else if metWrite e rd wr then pourBusError (writeBroken wr bs { e with write := true } s)
    else
      let e := { e with write := false }
      if isPoison e then pourDone c 0x0406 (readBroken rd e s) else pourBusError (readBroken rd e s)

/-- POUR_DESCRIPTOR_READ (R346, R347, R370). -/
def execPourDescriptorRead (ch : Nat) (io : Io) (s : State) : Host.Outcome State Fault Refusal :=
  live (fun s =>
    let x := chAt s ch
    if ch < 32 ∧ x.st = .armed ∧ x.read = false ∧ pourRuns s then
      match xlateRange s 0 x.descVa 64 false with
      | (s, .error _) => pourIdle ch (pourReply ch 0x0402 s)
      | (s, .ok l) => pourIo ch io l [] [] (fun s =>
        let b := readPieces s.hostMem l
        if bit (leAt b 0 1) 0 then
          chReady ch (chMap ch (fun x => { x with
            read := true, ctx := bits (leAt b 0 1) 1 1, cls := bits (leAt b 0 1) 3 2, progVa := leAt b 8 6 / 32 * 32 }) s)
        else pourIdle ch (pourReply ch 0x0108 s)) s
    else s) s

/-- A channel ready for its pipe (R343, R358, R370). -/
def chIsReady (x : PourCh) : Bool :=
  match x.st with
  | .armed => x.read
  | .suspended => true
  | .running => !x.hold && !x.waiting && x.pending.isNone
  | _ => false

/-- The channel that runs next on a pipe: highest priority, then first ready (R343). -/
def pipeNext (s : State) (pipe : Nat) : Option Nat :=
  let l := (List.range 32).filter fun c => decide (c % 8 = pipe) && chIsReady (chAt s c)
  (sortBy (fun a b => decide ((chAt s b).prio < (chAt s a).prio ∨
    ((chAt s a).prio = (chAt s b).prio ∧ (chAt s a).ready < (chAt s b).ready))) l).head?

/-- The channel that holds a pipe. -/
def pipeHolder (s : State) (pipe : Nat) : Option Nat :=
  (List.range 32).find? fun c => decide (c % 8 = pipe) && (chAt s c).hold

/-- POUR_PIPE_GRANT: a free pipe runs its next ready channel, whose pending fault is discarded (R343, R366, R370). -/
def execPourPipeGrant (pipe : Nat) (s : State) : Host.Outcome State Fault Refusal :=
  live (fun s =>
    if pipe < 8 ∧ pipeHolder s pipe = none ∧ pourRuns s then
      match pipeNext s pipe with
      | none => s
      | some c =>
        let s := chMap c (fun x => { x with hold := true, pending := none }) s
        if (chAt s c).st = .running then s else chMove c .running s
    else s) s

/-- POUR_GRANULE_YIELD: to a strictly higher priority ready on the same pipe (R344, R363). -/
def execPourGranuleYield (ch : Nat) (s : State) : Host.Outcome State Fault Refusal :=
  live (fun s =>
    let x := chAt s ch
    match pipeNext s (ch % 8) with
    | none => s
    | some c =>
      if ch < 32 ∧ x.st = .running ∧ x.hold ∧ x.prio < (chAt s c).prio ∧ pourRuns s then
        chReady ch (chMove ch .suspended (chMap ch (fun x => { x with hold := false }) s))
      else s) s

/-! ### Instructions -/

/-- Close or repeat the open LOOPs that end at `pc` (R355). -/
def loopEnd : List PourLoop → Nat → List PourLoop × Nat
  | [], pc => ([], pc)
  | l :: r, pc =>
    if pc = l.at_ + l.body + 1 then
      if l.iter + 1 < l.count then ({ l with iter := l.iter + 1 } :: r, l.at_ + 1) else loopEnd r pc
    else (l :: r, pc)

/-- The next instruction (innermost LOOP first). -/
def advance (x : PourCh) : PourCh :=
  let r := loopEnd x.loops (x.pc + 1)
  { x with loops := r.1, pc := r.2, pos := 0, hit := false, busy := false, waiting := false, waitFrom := none, insn := [] }

/-- An address stepped by the open LOOPs, modulo 2^48 (R355). -/
def stepped (x : PourCh) (f : PourLoop → Int) (a : Nat) : Nat :=
  unsext 48 (x.loops.foldl (fun acc l => acc + (l.iter : Int) * f l) (a : Int))

/-- The channel reaches an access whose translation fails: the fault is pending until it parks (R366). -/
def pourFault (c va : Nat) (s : State) : State := chMap c (fun x => { x with pending := some va }) s

/-- Run an instruction row: the channel holds its pipe, nothing is in flight, and the instruction at pc has one of the
row's opcodes; `f` gets its 32 bytes and the pieces of the fetch. -/
def pourInsn (c : Nat) (ops : List Nat) (f : List Byte → List Piece → State → State) (s : State) : State :=
  let x := chAt s c
  if c < 32 ∧ x.st = .running ∧ x.hold ∧ x.busy = false ∧ x.waiting = false ∧ x.pending = none ∧ pourRuns s then
    match xlateRange s x.ctx (x.progVa + 32 * x.pc) 32 false with
    | (s, .error e) => pourFault c e.va s
    | (s, .ok l) =>
      let b := readPieces s.hostMem l
      if leAt b 0 1 % 16 ∈ ops then f b l s else s
  else s

/-- Bytes at a scratchpad offset as Pour reads them: the reserve reads as zeros (R350). -/
def spBytes (m : Mem) (a n : Nat) : List Byte := memRead m a (min n (spReserve - a)) ++ List.replicate (n - (spReserve - a)) 0

/-- Pour meets a poisoned word in a range; the reserve reads with a clean check (R350, R372). -/
def spBad (s : State) (a n : Nat) : Bool := decide (a < spReserve) && spPoisoned s a (min n (spReserve - a))

/-- Write for Pour at a scratchpad offset: a write into the reserve is discarded and counted (R350). -/
def spGuard (a : Nat) (bs : List Byte) (s : State) : State :=
  let low := bs.take (spReserve - a)
  let s := if low.isEmpty then s else spWrite a low s
  let s := if overlaps a bs.length spReserve (spSize - spReserve) then ctrInc 17 s else s
  if low.length < bs.length then spCount a bs.length s else s

/-- Bytes of a write that are stored: of one at a scratchpad offset, those below the reserve. -/
def storedBytes (sp : Bool) (a n : Nat) : Nat := if sp then min n (spReserve - a) else n

/-- Bytes from `a` to the next 4 KiB boundary, at most `n` (R363). -/
def granuleLen (a n : Nat) : Nat := min n (4096 - a % 4096)

/-- Count written bytes. -/
def pourCount (c n : Nat) (s : State) : State :=
  ctrAdd (939 + c) n (chMap c (fun x => { x with bytes := (x.bytes + n) % 2 ^ 64 }) s)

/-- What an instruction over a range does with its bytes. -/
inductive MvKind where
  | move
  | fill (pattern : Nat)
  | cmp (stop : Bool)
  deriving DecidableEq, Repr

/-- The parts of a MOVE, FILL or CMP. -/
structure Mv where
  kind : MvKind
  c : Nat
  ctx : Nat
  srcSp : Bool
  dstSp : Bool
  src : Nat
  dst : Nat
  len : Nat
  deriving DecidableEq, Repr

/-- The parts from the instruction's bytes (R351, R353, R355). -/
def mvOf (kind : MvKind) (c : Nat) (b : List Byte) (s : State) : Mv :=
  let x := chAt s c
  { kind := kind, c := c, ctx := x.ctx, srcSp := bit (leAt b 0 1) 4, dstSp := bit (leAt b 0 1) 5,
    src := stepped x (·.srcStep) (leAt b 8 6), dst := stepped x (·.dstStep) (leAt b 16 6), len := leAt b 4 4 }

/-- CMP. -/
def Mv.isCmp (m : Mv) : Bool := match m.kind with
  | .cmp _ => true
  | _ => false

/-- It reads its source range. -/
def Mv.reads (m : Mv) : Bool := match m.kind with
  | .fill _ => false
  | _ => true

/-- The range whose 4 KiB pieces are the granules: the destination, or a CMP's source (R363). -/
def Mv.base (m : Mv) : Nat := if m.isCmp then m.src else m.dst

/-- A granule: its place in the instruction, and the host pieces it reads (source, a CMP's second operand) and writes. -/
structure Gran where
  pos : Nat
  len : Nat
  rd : List Piece
  rd2 : List Piece
  wr : List Piece
  deriving DecidableEq, Repr

/-- Translate one side of a granule; a scratchpad side has no pieces. -/
def sidePieces (use sp : Bool) (ctx a n : Nat) (write : Bool) (s : State) : State × Except XFault (List Piece) :=
  if use && !sp then xlateRange s ctx a n write else (s, .ok [])

/-- A granule with its translations; or why the instruction stops before it: a VA that does not translate, or poison (none). -/
def granAt (m : Mv) (pos n : Nat) (s : State) : State × Except (Option Nat) Gran :=
  if (m.reads && m.srcSp && spBad s (m.src + pos) n) || (m.isCmp && m.dstSp && spBad s (m.dst + pos) n) then (s, .error none)
  else match sidePieces m.reads m.srcSp m.ctx (m.src + pos) n false s with
    | (s, .error f) => (s, .error (some f.va))
    | (s, .ok a) => match sidePieces true m.dstSp m.ctx (m.dst + pos) n (!m.isCmp) s with
      | (s, .error f) => (s, .error (some f.va))
      | (s, .ok b) => (s, .ok { pos := pos, len := n, rd := a, rd2 := if m.isCmp then b else [], wr := if m.isCmp then [] else b })

/-- Up to `k` granules from `pos`, and why the instruction stops after them, if it does. -/
def granPlan (m : Mv) : Nat → Nat → State → State × List Gran × Option (Option Nat)
  | 0, _, s => (s, [], none)
  | k + 1, pos, s =>
    if m.len ≤ pos then (s, [], none)
    else match granAt m pos (granuleLen (m.base + pos) (m.len - pos)) s with
      | (s, .error e) => (s, [], some e)
      | (s, .ok g) => let r := granPlan m k (pos + g.len) s; (r.1, g :: r.2.1, r.2.2)

/-- The pattern's bytes at destination addresses (R353). -/
def patternBytes (pat a n : Nat) : List Byte :=
  (List.range n).map fun i => BitVec.ofNat 8 (pat >>> (8 * ((a + i) % 8)))

/-- A byte of a MOVE is open: it lies where the ranges overlap, or comes from a byte the instruction has written (R352,
log 93). -/
def moveOpen (m : Mv) (i : Nat) : Bool :=
  decide (m.srcSp = m.dstSp) && (decide (m.src ≤ m.dst + i ∧ m.dst + i < m.src + m.len) ||
    decide (m.dst ≤ m.src + i ∧ m.src + i < m.dst + m.len))

/-- The source bytes of a granule. -/
def granSrc (m : Mv) (g : Gran) (s : State) : List Byte :=
  if m.srcSp then spBytes s.sp (m.src + g.pos) g.len else readPieces s.hostMem g.rd

/-- The bytes a granule writes, of the memories of `s`. -/
def granBytes (m : Mv) (g : Gran) (s : State) : State × List Byte :=
  match m.kind with
  | .fill p => (s, patternBytes p (m.dst + g.pos) g.len)
  | .cmp _ => (s, [])
  | .move =>
    let b := granSrc m g s
    if (List.range g.len).any fun i => moveOpen m (g.pos + i) then
      let f := freeBytes s g.len
      (f.1, (List.zip (List.range g.len) (List.zip b f.2)).map fun x => if moveOpen m (g.pos + x.1) then x.2.2 else x.2.1)
    else (s, b)

/-- Offset of the first differing byte. -/
def firstDiff : List Byte → List Byte → Nat → Option Nat
  | a :: r, b :: q, i => if a = b then firstDiff r q (i + 1) else some i
  | _, _, _ => none

/-- A CMP finds a difference (R352). -/
def cmpHit (off : Nat) (x : PourCh) : PourCh :=
  if x.hit then x
  else { x with hit := true, mismatches := (x.mismatches + 1) % 2 ^ 32,
                firstMismatch := if x.mismatches = 0 then off else x.firstMismatch }

/-- A CMP's granule: a difference is noted, and ends the channel where stop is set. -/
def granCmp (m : Mv) (stop : Bool) (g : Gran) (s : State) : State :=
  let b := if m.dstSp then spBytes s.sp (m.dst + g.pos) g.len else readPieces s.hostMem g.rd2
  match firstDiff (granSrc m g s) b 0 with
  | none => s
  | some i =>
    let s := chMap m.c (cmpHit (g.pos + i)) s
    if stop then pourDone m.c 0 s else s

/-- Store a granule's bytes and count them. -/
def granStore (m : Mv) (g : Gran) (bs : List Byte) (s : State) : State :=
  let a := m.dst + g.pos
  pourCount m.c (storedBytes m.dstSp a bs.length)
    (if m.dstSp then spGuard a bs s else { s with hostMem := writePieces g.wr bs s.hostMem })

/-- Count a granule's scratchpad reads that lie outside it (R309). -/
def granOob (m : Mv) (g : Gran) (s : State) : State :=
  let s := if m.reads ∧ m.srcSp then spCount (m.src + g.pos) g.len s else s
  if m.isCmp ∧ m.dstSp then spCount (m.dst + g.pos) g.len s else s

/-- Run one granule, unless the channel has ended. -/
def granRun (m : Mv) (s : State) (g : Gran) : State :=
  if (chAt s m.c).st = .running then
    let s := chMap m.c (fun x => { x with pos := g.pos + g.len }) (granOob m g s)
    match m.kind with
    | .cmp stop => granCmp m stop g s
    | _ => let b := granBytes m g s; granStore m g b.2 b.1
  else s

/-- After the granules of a command: the channel parks or ends where the instruction stops, and awaits the responses where
it is through (R361, R366, R372). -/
def granEnd (m : Mv) (stop : Option (Option Nat)) (s : State) : State :=
  if (chAt s m.c).st = .running then
    match stop with
    | some none => pourDone m.c 0x0406 s
    | some (some va) => pourFault m.c va s
    | none => if m.len ≤ (chAt s m.c).pos then chMap m.c (fun x => { x with busy := true }) s else s
  else s

/-- Granules whose `k` bytes of reads came before the failing request. -/
def gransBefore : Nat → List Gran → List Gran
  | _, [] => []
  | k, g :: r =>
    let n := sumN ((g.rd ++ g.rd2).map (·.len))
    if n ≤ k ∧ 0 < n then g :: gransBefore (k - n) r else []

/-- Bytes of the requests before the failing one. -/
def bytesBefore (l : List Piece) (e : IoErr) (s : State) : Nat := sumN ((reqsTo l e s).dropLast.map (·.len))

/-- A read of the command fails: the granules read before it are done (R364, R372). `l` are all its reads, the fetch first. -/
def granReadBad (m : Mv) (l : List Piece) (gs : List Gran) (e : IoErr) (s : State) : State :=
  let s := readBroken l e ((gransBefore (bytesBefore l e s - 32) gs).foldl (granRun m) s)
  if isPoison e then (if (chAt s m.c).st = .running then pourDone m.c 0x0406 s else s)
  else pourBusError s

/-- A write of the command fails: the bytes of the requests before it are written and counted (R47, R364). -/
def granWriteBad (m : Mv) (gs : List Gran) (e : IoErr) (s : State) : State :=
  let b := gs.foldl (fun (r : State × List Byte) g => let x := granBytes m g r.1; (x.1, r.2 ++ x.2)) (s, [])
  let wr := gs.flatMap (·.wr)
  pourBusError (pourCount m.c (bytesBefore wr e b.1) (writeBroken wr b.2 e b.1))

/-- Run up to `granules` granules of an instruction, as the memory port answers (R361 to R364, log 93). -/
def granGo (m : Mv) (fetch : List Piece) (io : Io) (granules : Nat) (s : State) : State :=
  let p := granPlan m granules (chAt s m.c).pos s
  let rd := fetch ++ p.2.1.flatMap fun g => g.rd ++ g.rd2
  match io with
  | .ok => granEnd m p.2.2 (p.2.1.foldl (granRun m) p.1)
  | .walk e ctx lv va => pourBusError (walkBroken e ctx lv va p.1)
  | .bad e =>
    if metWrite e rd (p.2.1.flatMap (·.wr)) then granWriteBad m p.2.1 { e with write := true } p.1
    else granReadBad m rd p.2.1 { e with write := false } p.1

/-- Staging cells of a channel. -/
def staged (s : State) (c : Nat) : Nat := (s.carafe.cells.filter fun h => decide (h.use = .pour c)).length

/-- Requests for staging cells that wait. -/
def stageWaits (s : State) (c : Nat) : Nat := (s.carafe.waits.filter fun w => decide (w.use = .pour c)).length

/-- Ask for the two staging cells a MOVE within one memory needs (R375). -/
def stageAsk (c : Nat) (s : State) : State :=
  let need := 2 - staged s c - stageWaits s c
  (List.range need).foldl (fun t _ => carafeAsk 11 4096 (chAt t c).cls 1 (.pour c) t) s

/-- MOVE (R351, R352, R361, R375). -/
def execMove (ch : Nat) (io : Io) (granules : Nat) (s : State) : Host.Outcome State Fault Refusal :=
  live (pourInsn ch [1] fun b l s =>
    let m := mvOf .move ch b s
    let s := if m.srcSp = m.dstSp then stageAsk ch s else s
    if m.srcSp = m.dstSp ∧ staged s ch < 2 then s else granGo m l io granules s) s

/-- FILL (R353). -/
def execFill (ch : Nat) (io : Io) (granules : Nat) (s : State) : Host.Outcome State Fault Refusal :=
  live (pourInsn ch [2] fun b l s => granGo (mvOf (.fill (leAt b 24 8)) ch b s) l io granules s) s

/-- CMP (R351, R352). -/
def execCmp (ch : Nat) (io : Io) (granules : Nat) (s : State) : Host.Outcome State Fault Refusal :=
  live (pourInsn ch [3] fun b l s => granGo (mvOf (.cmp (bit (leAt b 0 1) 6)) ch b s) l io granules s) s

/-- Instructions left in the innermost open body after the LOOP at pc. -/
def bodyFits (x : PourCh) (body : Nat) : Bool :=
  match x.loops with
  | [] => true
  | l :: _ => decide (x.pc + body ≤ l.at_ + l.body)

/-- LOOP (R354 to R356). -/
def execLoop (ch : Nat) (io : Io) (s : State) : Host.Outcome State Fault Refusal :=
  live (pourInsn ch [4] fun b l s => pourIo ch io l [] [] (fun s =>
    let x := chAt s ch
    let body := leAt b 1 1
    let count := leAt b 4 4
    if body = 0 ∨ bodyFits x body = false then pourDone ch 0x0108 s
    else if count = 0 then
      setCh ch (advance { x with pc := x.pc + body }) s
    else if 4 ≤ x.loops.length then pourDone ch 0x0108 s
    else
      let l : PourLoop := ⟨x.pc, body, count, 0, sext 32 (leAt b 8 4), sext 32 (leAt b 12 4)⟩
      setCh ch { x with pc := x.pc + 1, loops := l :: x.loops } s) s) s

/-- The WAIT condition on a word (R357). -/
def waitHolds (b : List Byte) (word : Nat) : Bool :=
  let v := word &&& leAt b 24 8
  let k := leAt b 16 8
  match bits (leAt b 0 1) 6 5 with
  | 0 => decide (v = k)
  | 1 => decide (v ≠ k)
  | 2 => decide (k ≤ v)
  | _ => decide (v < k)

/-- The word of a WAIT has been read: complete, or go on waiting with the pipe released (R358). -/
def waitRead (c : Nat) (b word : List Byte) (s : State) : State :=
  let x := chAt s c
  if waitHolds b (leNat word) then
    (if x.waiting then chReady c (setCh c (advance x) s) else setCh c (advance x) s)
  else setCh c { x with hold := false, waiting := true, insn := b, waitFrom := some (x.waitFrom.getD s.kt) } s

/-- Read the word of the WAIT `b`; `fetch`: the reads that came before (R357, R372). -/
def waitGo (c : Nat) (b : List Byte) (fetch : List Piece) (io : Io) (s : State) : State :=
  let sp := bit (leAt b 0 1) 4
  let a := leAt b 8 6 / 8 * 8
  if sp && spBad s a 8 then pourDone c 0x0406 s
  else match sidePieces true sp (chAt s c).ctx a 8 false s with
    | (s, .error e) => pourFault c e.va s
    | (s, .ok l) => pourIo c io (fetch ++ l) [] [] (fun s =>
        if sp then waitRead c b (spBytes s.sp a 8) (spCount a 8 s) else waitRead c b (readPieces s.hostMem l) s) s

/-- WAIT (R357, R358). -/
def execWait (ch : Nat) (io : Io) (s : State) : Host.Outcome State Fault Refusal :=
  live (pourInsn ch [5] fun b l s => waitGo ch b l io s) s

/-- WAIT_POLL: the word is read again (R358). -/
def execWaitPoll (ch : Nat) (io : Io) (s : State) : Host.Outcome State Fault Refusal :=
  live (fun s =>
    let x := chAt s ch
    if ch < 32 ∧ x.st = .running ∧ x.waiting ∧ x.pending = none ∧ pourRuns s then waitGo ch x.insn [] io s else s) s

/-- WAIT_TIMEOUT (R358). -/
def execWaitTimeout (ch : Nat) (s : State) : Host.Outcome State Fault Refusal :=
  live (fun s =>
    let x := chAt s ch
    if ch < 32 ∧ x.st = .running ∧ x.waiting ∧ leAt x.insn 4 4 ≠ 0 ∧ pourRuns s then pourDone ch 0x0405 s else s) s

/-- SIGNAL (R359). -/
def execSignal (ch : Nat) (io : Io) (s : State) : Host.Outcome State Fault Refusal :=
  live (pourInsn ch [6] fun b fetch s =>
    let sp := bit (leAt b 0 1) 4
    let a := leAt b 8 6 / 8 * 8
    let word := leBytes 8 (leAt b 16 8)
    match sidePieces true sp (chAt s ch).ctx a 8 true s with
    | (s, .error e) => pourFault ch e.va s
    | (s, .ok l) => pourIo ch io fetch l word (fun s =>
        chMap ch (fun x => { x with busy := true })
          (pourCount ch 8 (if sp then spGuard a word s else { s with hostMem := writePieces l word s.hostMem }))) s) s

/-- END (R359). -/
def execEndProg (ch : Nat) (io : Io) (s : State) : Host.Outcome State Fault Refusal :=
  live (pourInsn ch [7] fun _ l s => pourIo ch io l [] [] (pourDone ch 0) s) s

/-- POUR_ILLEGAL_OPCODE (R349). -/
def execPourIllegalOpcode (ch : Nat) (io : Io) (s : State) : Host.Outcome State Fault Refusal :=
  live (pourInsn ch [0, 8, 9, 10, 11, 12, 13, 14, 15] fun _ l s => pourIo ch io l [] [] (pourDone ch 0x0108) s) s

/-- POUR_INSTRUCTION_COMPLETE: the responses are in and the next instruction may begin (R361). -/
def execPourInstructionComplete (ch : Nat) (s : State) : Host.Outcome State Fault Refusal :=
  live (fun s =>
    let x := chAt s ch
    if ch < 32 ∧ (x.st = .running ∨ x.st = .suspended) ∧ x.busy then mmuRetire (unstage ch (setCh ch (advance x) s)) else s) s

/-- POUR_PARK (R366). -/
def execPourPark (ch : Nat) (s : State) : Host.Outcome State Fault Refusal :=
  live (fun s =>
    let x := chAt s ch
    match x.pending with
    | none => s
    | some va =>
      if ch < 32 ∧ x.st = .running ∧ pourRuns s then
        emit 0x0008 unitPour (ch + (va % 2 ^ 48 / 2 ^ 8) * 2 ^ 8)
          (chMove ch .parked (chMap ch (fun x => { x with hold := false, waiting := false, pending := none, faultVa := va % 2 ^ 48 }) s))
      else s) s

/-! ### Endings -/

/-- Bytes 8 to 63 and 0 to 7 of the written-back descriptor (R346, R368). -/
def descBytes (x : PourCh) (status : Nat) : List Byte × List Byte :=
  (leBytes 56 (x.progVa + x.bytes * 2 ^ 64 + x.mismatches * 2 ^ 128 + x.firstMismatch * 2 ^ 160 + x.faultVa * 2 ^ 192),
   leBytes 8 (x.ctx * 2 + x.cls * 4 + (status % 65536) * 2 ^ 16 + (x.pc % 2 ^ 32) * 2 ^ 32))

/-- The two writes of the write-back: their pieces and bytes, or a translation fault. -/
def backPieces (c : Nat) (s : State) : State × Except XFault (List Piece × List Piece) :=
  let va := (chAt s c).descVa
  match xlateRange s 0 (va + 8) 56 true with
  | (s, .error f) => (s, .error f)
  | (s, .ok a) => match xlateRange s 0 va 8 true with
    | (s, .error f) => (s, .error f)
    | (s, .ok b) => (s, .ok (a, b))

/-- The write-back: bytes 8 to 63, then 0 to 7. A descriptor that no longer translates is not written (log 57). -/
def writeBack (c status : Nat) (s : State) : State :=
  let d := descBytes (chAt s c) status
  match backPieces c s with
  | (s, .error _) => s
  | (s, .ok l) => { s with hostMem := writePieces l.2 d.2 (writePieces l.1 d.1 s.hostMem) }

/-- POUR_WRITEBACK_COMPLETE (R368). -/
def execPourWritebackComplete (ch : Nat) (io : Io) (s : State) : Host.Outcome State Fault Refusal :=
  live (fun s =>
    let x := chAt s ch
    if ch < 32 ∧ (x.st = .done ∨ x.st = .cancelling) ∧ x.wb ∧ pourRuns s then
      let end_ := fun s => pourIdle ch (abortReplies ch 0 (pourReply ch x.status (writeBack ch x.status s)))
      match io, backPieces ch s with
      | .bad e, (s, .ok l) =>
        let d := descBytes x x.status
        pourBusError (writeBroken (l.1 ++ l.2) (d.1 ++ d.2) e s)
      | .walk e ctx lv va, _ => pourBusError (walkBroken e ctx lv va s)
      | _, _ => end_ s
    else s) s

/-- POUR_CANCEL_DRAINED (R370). -/
def execPourCancelDrained (ch : Nat) (s : State) : Host.Outcome State Fault Refusal :=
  live (fun s =>
    if ch < 32 ∧ (chAt s ch).st = .cancelling then unstage ch (chMap ch (fun x => { x with busy := false, wb := true }) s) else s) s

/-- POUR_BUS_ERROR_STOP (R364). -/
def execPourBusErrorStop (s : State) : Host.Outcome State Fault Refusal :=
  live (fun s => if s.pour.ch.any fun x => decide (x.st ≠ .idle ∧ x.st ≠ .stopped) then pourBusError s else s) s

/-- A channel that is not Idle enters Stopped (R364). -/
def pourStop (c : Nat) (s : State) : State :=
  if (chAt s c).st = .idle ∨ (chAt s c).st = .stopped then s
  else
    let s := abortReplies c 0x0403 (pourReply c 0x0403 s)
    chMove c .stopped (unstage c (chMap c (fun x =>
      { x with hold := false, busy := false, waiting := false, pending := none, wb := false }) s))

/-- POUR_STOP_DRAINED (R364). -/
def execPourStopDrained (s : State) : Host.Outcome State Fault Refusal :=
  live (fun s =>
    if s.pour.drain then
      (List.range 32).foldl (fun t c => pourStop c t) { s with pour := { s.pour with drain := false } }
    else s) s

/-- The end of MEM's drain: every channel not Idle and not Stopped is written back and answered with ST_DOMAIN_RESET
(R373). -/
def pourMemDrained (s : State) : State :=
  (List.range 32).foldl (fun t c =>
    let x := chAt t c
    if x.st = .idle ∨ x.st = .stopped then t
    else unstage c (abortReplies c 0x0240 (pourReply c 0x0240 (writeBack c 0x0240 t))))
    { s with pour := { s.pour with drain := false } }

/-- MEM rejoins: every channel is Idle (R373). -/
def pourRejoin (s : State) : State :=
  (List.range 32).foldl (fun t c => if (chAt t c).st = .idle then t else pourIdle c t) s

end Sys2Proof.Machine
end

