-- ==== Sys2Proof/Machine/Ptp.lean ====
section
/-! DEFINITION. Timekeeping commands and PTP (R278 to R281). The servo's slewing is the clock's (log 17). -/

namespace Sys2Proof.Machine

/-- Unit of the control cores, whose firmware runs the servo. -/
def unitCtl : Nat := 0x0002

/-- The PTP fields of TIME_CFG's payload (R280), over the present servo state. -/
def ptpOf (b : List Byte) (q : Ptp) : Ptp :=
  let f := leAt b 0 8
  { q with role := bits f 1 0, delayMech := bit f 2, domain := bits f 15 8, hinge := bits f 18 16, link := bits f 20 19,
           backup := bits f 31 24, logSync := bits f 39 32, logDelay := bits f 47 40, pcp := bits f 50 48,
           tagged := bit f 51, lockNs := leAt b 16 4, alarmNs := leAt b 20 4, clockId := leAt b 24 8 }

/-- A signed byte in a range. -/
def sByte (v : Nat) (lo hi : Int) : Bool := decide (lo ≤ sext 8 v ∧ sext 8 v ≤ hi)

/-- Every field of TIME_CFG lies in its range (R280). -/
def timeRange (b : List Byte) (s : State) : Bool :=
  let q := ptpOf b s.ptp
  decide (q.role ≤ 2) && sByte q.logSync (-7) 0 && sByte q.logDelay (-7) 4 && inR q.lockNs 1 1000 &&
  inR q.alarmNs 1 100000 && (!bit (leAt b 0 1) 3 || decide (s.kt ≤ leAt b 8 8))

/-- TIME_CFG's effect: the configuration, and a step of KT (R278). -/
def timeApply (b : List Byte) (s : State) : State :=
  { s with ptp := ptpOf b s.ptp, kt := if bit (leAt b 0 1) 3 then leAt b 8 8 else s.kt }

/-- TIME_CFG starts. -/
def startTimeCfg (p : Packet) (_ : Ext) (order : Nat) (s : State) : State :=
  let b := pBody p
  let busy := decide (s.job.st = .starting ∨ s.job.st = .running)
  syncCmd 0x50 p order .ok
    { Checks.plain with
      len := fun n => decide (n = 64), range := timeRange b s,
      state := if bit (leAt b 0 1) 3 && busy then some (0x0201, 0, 0) else none }
    (fun s => replyOne p order 0 0 0 0 0 (timeApply b s)) s

/-- TIME_CFG (R278, R280). -/
def execTimeCfg (p : Packet) (s : State) : Host.Outcome State Fault Refusal :=
  live (takeCmd 0x50 p Ext.none (startTimeCfg p Ext.none)) s

/-- EV_TIME, with the last offset in whole KT ticks (R79). -/
def emitTime (s : State) : State := emit 0x000B unitCtl (b01 s.ptp.locked + unsext 32 (s.ptp.offset / 64) * 2 ^ 16) s

/-- Set the lock; EV_TIME on a change (R281). -/
def ptpLock (v : Bool) (s : State) : State :=
  if s.ptp.locked = v then s else emitTime { s with ptp := { s.ptp with locked := v } }

/-- A Hinge with an Up link, and that link. -/
def hingeUp (s : State) (p : Nat) : Option Nat :=
  (List.range 4).find? fun l => decide ((linkAt s (4 * p + l)).st = .up)

/-- The role moves to the next Up Hinge of the backup mask (R281). -/
def ptpHandover (s : State) : State :=
  let h := s.ptp.hinge
  let order := (List.range 8).filter (fun p => decide (h < p)) ++ (List.range 8).filter fun p => decide (p < h)
  match order.find? fun p => bit s.ptp.backup p && (hingeUp s p).isSome with
  | none => s
  | some p => emitTime { s with ptp := { s.ptp with hinge := p, link := (hingeUp s p).getD 0 } }

/-- An offset, in 64ths of a tick (10 ps), exceeds a threshold in ns. -/
def above (off : Int) (ns : Nat) : Bool := decide (ns * 100 < off.natAbs)

/-- A Sync interval's offset: the lock counts, and the alarm when it is first exceeded (R281). -/
def ptpOffset (off : Int) (s : State) : State :=
  let q := s.ptp
  let far := above off q.lockNs
  let s := { s with ptp := { q with offset := off, missed := 0, good := (if far then 0 else min 16 (q.good + 1)),
                                    bad := if far then min 4 (q.bad + 1) else 0 } }
  let s := if s.ptp.good = 16 then ptpLock true s else if s.ptp.bad = 4 then ptpLock false s else s
  let loud := above off q.alarmNs
  let s := if loud ∧ ¬ s.ptp.alarmed then emitTime s else s
  { s with ptp := { s.ptp with alarmed := loud } }

/-- The PTP link. -/
def ptpLink (s : State) : Nat := 4 * s.ptp.hinge + s.ptp.link

/-- A receive stamp of the PTP link taken back to the lane pins (R279). -/
def rxStamp (s : State) (t : Int) (deskew : Nat) : Int := linkStamp s (ptpLink s) t deskew

/-- The transmit stamp of the last request sent of a kind. -/
def sentStamp (s : State) (kind : Nat) : Option Int := (s.ptp.sent.find? fun m => decide (m.kind = kind)).map (·.stamp)

/-- Set the path delay. -/
def ptpDelay (d : Int) (s : State) : State := { s with ptp := { s.ptp with delay := d } }

/-- PTP_EVENT_MESSAGE: a Sync gives an offset; the answer to a delay request gives the path delay, end to end or to the peer as
delay_mech says. Messages of other domains are not the servo's (R279 to R281, log 17). -/
def execPtpEventMessage (domain : Nat) (m : PtpMsg) (s : State) : Host.Outcome State Fault Refusal :=
  live (fun s =>
    if s.ptp.role = 1 ∧ domain = s.ptp.domain then
      match m with
      | .sync t1 t2 k => ptpOffset (rxStamp s t2 k - t1 - s.ptp.delay) s
      | .delayResp t4 => match sentStamp s 1 with
        | some t3 => if s.ptp.delayMech then s else ptpDelay ((s.ptp.offset + s.ptp.delay + (t4 - t3)) / 2) s
        | none => s
      | .pdelayResp t2 t3 t4 k => match sentStamp s 2 with
        | some t1 => if s.ptp.delayMech then ptpDelay ((rxStamp s t4 k - t1 - (t3 - t2)) / 2) s else s
        | none => s
      | .announce => s
    else s) s

/-- PTP_SYNC_MISSED: the fourth in a row unlocks PTP and moves the role (R281). -/
def execPtpSyncMissed (s : State) : Host.Outcome State Fault Refusal :=
  live (fun s =>
    if s.ptp.role = 1 then
      let n := s.ptp.missed + 1
      if n < 4 then { s with ptp := { s.ptp with missed := n } }
      else ptpHandover (ptpLock false { s with ptp := { s.ptp with missed := 0, good := 0, bad := 0 } })
    else s) s

/-- The PTP link is Up. -/
def ptpLinkUp (s : State) : Bool := decide ((linkAt s (ptpLink s)).st = .up)

/-- The clock identity of what is sent; 0 takes the seat's MAC address on the primary Hinge with FF FE between its halves
(R280). -/
def clockOf (s : State) : Nat :=
  let m := macBytes s s.ptp.hinge (getP s 0x0001)
  if s.ptp.clockId = 0 then leNat (m.take 3 ++ [0xFF, 0xFE] ++ m.drop 3) else s.ptp.clockId

/-- PTP messages leave: each is noted with its stamp at the lane pins, newest first (R279, R280). -/
def ptpSend (l : List Nat) (s : State) : State :=
  let at_ := fun (i : Nat) => ((64 * s.kt + Config.freeFrac (s.freeCtr + i) % 64 : Nat) : Int) + linkLatency s (ptpLink s) false
  let msgs := (List.zip (List.range l.length) l).map fun x =>
    ({ kind := x.2, stamp := at_ x.1, domain := s.ptp.domain, pcp := if s.ptp.tagged then some s.ptp.pcp else none,
       clockId := clockOf s } : PtpSent)
  { s with freeCtr := s.freeCtr + l.length, ptp := { s.ptp with sent := (msgs ++ s.ptp.sent).take 8 } }

/-- DELAY_REQUEST_INTERVAL: a time receiver sends Delay_Req (1), or Pdelay_Req (2) (R280). -/
def execDelayRequestInterval (s : State) : Host.Outcome State Fault Refusal :=
  live (fun s => if s.ptp.role = 1 ∧ ptpLinkUp s then ptpSend [if s.ptp.delayMech then 2 else 1] s else s) s

/-- SYNC_INTERVAL_TRANSMIT: a time transmitter sends Sync (0) and Follow_Up (8) (R280). -/
def execSyncIntervalTransmit (s : State) : Host.Outcome State Fault Refusal :=
  live (fun s => if s.ptp.role = 2 ∧ ptpLinkUp s then ptpSend [0, 8] s else s) s

end Sys2Proof.Machine
end

