-- ==== Sys2Proof/Machine/Domains.lean ====
section
/-! DEFINITION. Deadbolt's reset domains (R59, R95, R411 to R417), escalation (R425) and the watchdogs that reset a domain
or fault the job (R404, R406, R408 to R410). -/

namespace Sys2Proof.Machine

/-- Domain code of index 0 to 13 (R95). -/
def domCode (i : Nat) : Nat := if i = 0 then 0 else if i < 5 then 0x10 + (i - 1) else if i < 13 then 0x20 + (i - 5) else 0x30

/-- The unit that stands for a domain (R488). -/
def domUnit (i : Nat) : Nat := if i = 0 then 0x0002 else domCode i

/-- Domain of index `i`. -/
def domAt (s : State) (i : Nat) : Dom := s.doms.getD i Dom.reset

/-- Replace a domain. -/
def setDom (i : Nat) (d : Dom) (s : State) : State := { s with doms := s.doms.set i d }

/-- A phase is reported: EV_DOMAIN_RESET, a Drip record of kind 9 and a log entry (R414, R418, R488). -/
def domPhase (i phase : Nat) (s : State) : State :=
  let d := domAt s i
  let c := domCode i
  logAdd 0x0002 (c + phase * 2 ^ 8 + d.trigger * 2 ^ 16 + (d.left % 2 ^ 24) * 2 ^ 32)
    (emit 0x0009 (domUnit i) (c + phase * 2 ^ 8)
      (dripAt 9 (domUnit i) (c + phase * 2 ^ 8 + d.trigger * 2 ^ 16) s))

/-- The job is Starting, Running or Draining. -/
def jobActive (s : State) : Bool := decide (s.job.st = .starting ∨ s.job.st = .running ∨ s.job.st = .draining)

/-- A reset of DP, HG or MEM faults an active job (R133, R416). -/
def domJobFault (i : Nat) (s : State) : State :=
  if i ≠ 0 ∧ jobActive s then jobFault (domUnit i) 0x0240 0 Where.none s else s

/-- A reset begins: Fencing; from now on its counters read as they stand (R86, R489). -/
def domBegin (i trig : Nat) (cmds : List OpenCmd) (s : State) : State :=
  domJobFault i (setDom i { domAt s i with st := .fencing, trigger := trig, cmds := cmds, left := 0, kept := s.counters,
                                           keptKt := s.kt, keptOrder := s.latch.order } s)

/-- A trigger for a domain: it begins a reset, joins the one in progress, or is recorded for after the rejoin (R414). -/
def domTrigger (i trig : Nat) (cmds : List OpenCmd) (s : State) : State :=
  let d := domAt s i
  match d.st with
  | .inService => domBegin i trig cmds s
  | .rejoining => setDom i { d with again := some (d.again.getD trig), againCmds := d.againCmds ++ cmds } s
  | _ => setDom i { d with cmds := d.cmds ++ cmds } s

/-- DOMAIN_RESET starts (R95). -/
def startDomainReset (p : Packet) (_ : Ext) (order : Nat) (s : State) : State :=
  let code := p.p0.toNat % 256
  asyncCmd 0x70 p order .ok { Checks.plain with range := (domOf code).isSome } (fun o s =>
    match domOf code with
    | some i => domTrigger i 1 [o] s
    | none => s) s

/-- DOMAIN_RESET. -/
def execDomainReset (p : Packet) (s : State) : Host.Outcome State Fault Refusal :=
  live (takeCmd 0x70 p Ext.none (startDomainReset p Ext.none)) s

/-- An open Spout packet of a fenced slice goes on poisoned (R59). -/
def spoutPoison (sl : Nat) (s : State) : State :=
  { s with spout := s.spout.map fun k => if k.spout = sl then { k with poison := true } else k }

/-- What a closed fence does at the boundary (R59, R252, R416). -/
def domFenced (i : Nat) (s : State) : State :=
  if i = 0 ∨ i = 13 then s
  else if i < 5 then spoutPoison (i - 1) s
  else
    let s := hingeOff (i - 5) false s
    if s.ptp.role ≠ 0 ∧ s.ptp.hinge = i - 5 then ptpHandover s else s

/-- DOMAIN_FENCE_CLOSED (R414). -/
def execDomainFenceClosed (code : Nat) (s : State) : Host.Outcome State Fault Refusal :=
  live (fun s =>
    match domOf code with
    | none => s
    | some i =>
      if domState s i = .fencing then domPhase i 1 (domFenced i (setDom i { domAt s i with st := .draining } s)) else s) s

/-- A command CTL has taken and not answered: one that has not started, or a BATCH_RESUME that brace holds (R59, R94). -/
def unanswered (h : Held) : Bool := decide (h.why = .after) || decide (h.cmd.opcode.toNat = 0x23)

/-- The commands CTL has taken and not answered. -/
def ctlHeld (s : State) : List Held := s.latch.held.filter unanswered

/-- The drain of a domain has nothing left to wait for. -/
def domDrained (i : Nat) (s : State) : Bool :=
  if i = 0 then (ctlHeld s).isEmpty else if i = 13 then s.mport.out.isEmpty else true

/-- Frames that wait in a Hinge's ingress go, with their cells (R332). -/
def ingressEmpty (p : Nat) (s : State) : State :=
  let l := s.kft.ingress.filter fun c => decide (c.hinge = p)
  let s := ctrAdd 15 l.length { s with kft := { s.kft with ingress := s.kft.ingress.filter fun c => decide (c.hinge ≠ p) } }
  pfcCheck (freeCells (fun u => match u with
    | .arrival a v q => l.any fun c => decide (c.hdr.srcSeat = a ∧ c.hdr.vc = v ∧ c.hdr.seq = q)
    | _ => false) s)

/-- The queues of a domain are emptied and counted (R332, R342): of CTL, management requests that it has not answered; of a Hinge,
its ingress, since its egress went to other links when its own went Off (log 102). -/
def domQueues (i : Nat) (s : State) : State :=
  if i = 0 then ctrAdd 15 s.mgmt.waiting.length { s with mgmt := { s.mgmt with waiting := [] } }
  else if i = 13 then
    mmuRetire (ctrAdd 15 s.mport.wait.length { s with mport := { s.mport with wait := [] } })
  else if i < 5 then
    ctrAdd 15 ((s.funnelHeld.filter fun f => decide (f.2.funnel = i - 1)).length + (s.spout.filter fun k => decide (k.spout = i - 1)).length)
      { s with funnelHeld := s.funnelHeld.filter (fun f => decide (f.2.funnel ≠ i - 1)),
               spout := s.spout.filter fun k => decide (k.spout ≠ i - 1) }
  else ingressEmpty (i - 5) s

/-- What the reset of a domain does when its drain ends: MEM ends Pour's channels and clears the translation cache; CTL
answers its DOMAIN_RESET commands and lowers kw_ctl_ready (R59, R95, R342, R373). -/
def domEnter (i : Nat) (s : State) : State :=
  if i = 13 then tlbClear (pourMemDrained s)
  else if i = 0 then
    let s := (domAt s 0).cmds.foldl (fun t c => finish c 0 0 0 0 0 t) s
    let s := setDom 0 { domAt s 0 with cmds := [] } s
    { s with rst := { s.rst with ctlReady := false },
             latch := { s.latch with free := 0, replies := s.latch.replies.map fun r => { r with first := false } } }
  else s

/-- The domain goes into reset, with `left` requests left over. -/
def domToReset (i left : Nat) (s : State) : State :=
  let s := setDom i { domAt s i with st := .inReset, left := left } s
  domPhase i 2 (domEnter i (domQueues i s))

/-- DOMAIN_DRAIN_COMPLETE (R414). -/
def execDomainDrainComplete (code : Nat) (s : State) : Host.Outcome State Fault Refusal :=
  live (fun s =>
    match domOf code with
    | none => s
    | some i => if domState s i = .draining ∧ domDrained i s then domToReset i 0 s else s) s

/-- The requests left at the drain deadline. -/
def domLeft (i leftover : Nat) (s : State) : Nat :=
  if i = 0 then (ctlHeld s).length else if i = 13 then s.mport.out.length else leftover

/-- Answer what is left: commands with ST_DOMAIN_RESET, memory-port requests by quarantine (R414). -/
def domAnswer (i : Nat) (s : State) : State :=
  if i = 0 then
    (ctlHeld s).foldl (fun t h => replyOne h.cmd h.order 0x0240 0 0 0 0 t)
      { s with latch := { s.latch with held := s.latch.held.filter fun h => !unanswered h } }
  else if i = 13 then
    mmuRetire { s with mport := { s.mport with out := [], quar := s.mport.quar ++ s.mport.out.map fun m => (m.write, m.channel, m.id) } }
  else s

/-- DOMAIN_DRAIN_DEADLINE (R414). `leftover`: what a DP or HG domain still held. -/
def execDomainDrainDeadline (code leftover : Nat) (s : State) : Host.Outcome State Fault Refusal :=
  live (fun s =>
    match domOf code with
    | none => s
    | some i =>
      if domState s i = .draining then
        let n := domLeft i leftover s
        domToReset i n (ctrAdd 20 n (domAnswer i s))
      else s) s

/-- DOMAIN_RESET_ELAPSED: 256 CCLK have passed (R414). -/
def execDomainResetElapsed (code : Nat) (s : State) : Host.Outcome State Fault Refusal :=
  live (fun s =>
    match domOf code with
    | none => s
    | some i => if domState s i = .inReset then setDom i { domAt s i with st := .rejoining } s else s) s

/-- Count a reset that rejoined at a KT (R425). -/
def escPut (kt : Nat) (s : State) : State :=
  let w := ticksOf (getP s 0x0605)
  let l := (s.esc.resets ++ [kt]).filter fun t => decide (s.kt < t + w)
  let s := ctrInc 21 s
  if getP s 0x0604 ≤ l.length then escalate { s with esc := { s.esc with resets := [] } }
  else { s with esc := { s.esc with resets := l } }

/-- A counted reset has rejoined (R425); the count waits while AO writes are stopped (R55). -/
def escCount (s : State) : State := if s.rst.aoStopped then aoHold (.reset s.kt) s else escPut s.kt s

/-- What a rejoin restores at the boundary (R59, R252, R373). -/
def domBack (i : Nat) (s : State) : State :=
  if i = 0 then
    vaultServe (vaultServe (vaultServe { s with rst := { s.rst with ctlReady := true }, latch := { s.latch with free := 64 } }))
  else if i = 13 then pourRejoin s
  else if i < 5 then s
  else hingeStart (i - 5) s

/-- The self-check has passed: In service, phase 3, the count, the commands' final replies, and a recorded trigger's new
reset (R414, R425). -/
def domRejoin (i : Nat) (s : State) : State :=
  let d := domAt s i
  let s := domPhase i 3 (domBack i (setDom i { d with st := .inService, cmds := [], again := none, againCmds := [] } s))
  let s := if 2 ≤ d.trigger then escCount s else s
  let s := d.cmds.foldl (fun t c => finish c 0 0 0 0 0 t) s
  match d.again with
  | some t => domTrigger i t d.againCmds s
  | none => s

/-- ESCALATION_WINDOW_EXPIRY: resets leave the window (R425). -/
def execEscalationWindowExpiry (s : State) : Host.Outcome State Fault Refusal :=
  live (fun s =>
    { s with esc := { s.esc with resets := s.esc.resets.filter fun t => decide (s.kt < t + ticksOf (getP s 0x0605)) } }) s

/-! ### Watchdogs and control errors -/

/-- The detail of a watchdog fault (R408). -/
def watchDetail (kind cls index : Nat) : Nat := kind % 16 + (cls % 4) * 2 ^ 8 + (index % 65536) * 2 ^ 16

/-- UNIT_HANG: the job faults, and the unit's domain, if it has one, is reset (R406, R410). -/
def execUnitHang (unit index cls : Nat) (s : State) : Host.Outcome State Fault Refusal :=
  live (fun s =>
    let s := if jobActive s then jobFault unit 0x0405 (watchDetail 2 cls index) Where.none s else s
    match unitDom unit with
    | some i => domTrigger i 2 [] s
    | none => s) s

/-- PORT_BACKPRESSURE_EXPIRY: a Spout or a memory-port channel; no domain is reset (R409). -/
def execPortBackpressureExpiry (unit index cls : Nat) (s : State) : Host.Outcome State Fault Refusal :=
  live (fun s =>
    if (0x1C ≤ unit ∧ unit ≤ 0x1F) ∨ unit = 0x30 then jobFault unit 0x0405 (watchDetail 3 cls index) Where.none s else s) s

/-- FIRMWARE_HEARTBEAT_MISS of one of the four control cores (R10): CTL is reset; the job goes on (R406, R409). -/
def execFirmwareHeartbeatMiss (core : Nat) (s : State) : Host.Outcome State Fault Refusal :=
  live (fun s => if core < 4 then domTrigger 0 4 [] s else s) s

/-- CONTROL_STATE_ERROR: a parity error in the control state of a DP, HG or MEM unit (R404, R406). -/
def execControlStateError (code : Nat) (s : State) : Host.Outcome State Fault Refusal :=
  live (fun s =>
    match domOf code with
    | some 0 => s
    | some i => domTrigger i 3 [] s
    | none => s) s

/-- CORE_MEMORY_UNCORRECTABLE: one of the sixteen Ward cores faults the job; one of the four control cores resets CTL (R10,
R404). -/
def execCoreMemoryUncorrectable (ward : Bool) (core : Nat) (s : State) : Host.Outcome State Fault Refusal :=
  live (fun s =>
    if ward then (if core < 16 then jobFault (0x50 + core) 0x0406 0 Where.none s else s)
    else if core < 4 then domTrigger 0 5 [] s else s) s

end Sys2Proof.Machine
end

