-- ==== Sys2Proof/Machine/Boot.lean ====
section
/-! DEFINITION. Firmware images, secure boot, staging and activation (R469 to R475), and Vault's nonce pairs (R465). -/

namespace Sys2Proof.Machine

/-- An image with its header's fields (R469). -/
structure Img where
  kind : Nat
  rev : Nat
  dual : Bool
  version : Nat
  svn : Nat
  body : Nat
  bytes : List Byte
  deriving DecidableEq, Repr

/-- Read an image's header. -/
def imgOf (b : List Byte) : Img :=
  { kind := leAt b 0 2, rev := leAt b 2 1, dual := bit (leAt b 3 1) 0, version := leAt b 4 4, svn := leAt b 8 1,
    body := leAt b 12 4, bytes := b.take (256 + leAt b 12 4) }

/-- Kind, revision and body length of a header are good (R470, check 1). -/
def imgHeadOk (i : Img) : Bool :=
  decide (i.rev = 1) &&
  ((decide (i.kind = 0x4601) && decide (i.body ≤ 2096896)) || (decide (i.kind = 0x4602) && decide (i.body ≤ 524288)))

/-- An image's length in a bundle. -/
def imgLen (i : Img) : Nat := roundUp 64 (256 + i.body)

/-- The images of a bundle: one or two, of different kinds, that fill it (R469). -/
def bundleOf (b : List Byte) : Option (List Img) :=
  let i := imgOf b
  if b.length < 256 ∨ imgHeadOk i = false ∨ b.length < imgLen i then none
  else if b.length = imgLen i then some [i]
  else
    let c := b.drop (imgLen i)
    let j := imgOf c
    if c.length < 256 ∨ imgHeadOk j = false ∨ c.length ≠ imgLen j ∨ j.kind = i.kind then none else some [i, j]

/-- Checks 2 to 5 of R470: the first status that fails. The digest lies in the header most significant byte first (log 67). -/
def imgBad (s : State) (v : Verdict) (i : Img) : Option Nat :=
  let ctl := decide (i.kind = 0x4601)
  if i.svn < s.fuses.rollback then some 0x0504
  else if slice i.bytes 16 48 ≠ sha384 (i.bytes.drop 256) then some 0x0503
  else if (if ctl then v.ctlVendor else v.wardVendor) = false then some 0x0503
  else if bit s.fuses.options 0 ∧ ¬ (i.dual ∧ (if ctl then v.ctlIntegrator else v.wardIntegrator)) then some 0x0503
  else none

/-- The image number of the log (R418): 0 control firmware, 1 Ward program. -/
def imgNum (i : Img) : Nat := if i.kind = 0x4602 then 1 else 0

/-- The first image that fails, with its status. -/
def imgsBad (s : State) (v : Verdict) : List Img → Option (Nat × Nat)
  | [] => none
  | i :: r => match imgBad s v i with
    | some st => some (st, imgNum i)
    | none => imgsBad s v r

/-- A store entry. -/
def Img.store (i : Img) : FwImage := { version := i.version, svn := i.svn, image := i.bytes }

/-- The image of a kind. -/
def imgOfKind (k : Nat) (l : List Img) : Option FwImage := (l.find? fun i => decide (i.kind = k)).map Img.store

/-- A bundle and its verification: the images, or a status with an image number (R470). -/
def verifyBundle (s : State) (v : Verdict) (b : List Byte) : Except (Nat × Nat) (List Img) :=
  match bundleOf b with
  | none => .error (0x0108, 0)
  | some l => match imgsBad s v l with
    | some e => .error e
    | none => .ok l

/-- The firmware is loaded and runs: kw_ctl_ready rises with 64 free slots (R24, R471). -/
def bootGood (ctl ward : Option FwImage) (s : State) : State :=
  { s with fw := { s.fw with ctl := ctl, ward := ward },
           rst := { s.rst with ctlReady := true, bootFail := false }, latch := { s.latch with free := 64 } }

/-- A boot step failed (R471). -/
def bootBad (st img : Nat) (s : State) : State :=
  logAdd 0x0004 (st + img * 2 ^ 16) { s with rst := { s.rst with ctlReady := false, bootFail := true } }

/-- The bundle at boot_pa × 64 KiB, its length as its headers give it (R471). -/
def bootBundle (s : State) : List Byte :=
  let pa := s.fuses.bootPa * 65536
  let i := imgOf (memRead s.hostMem pa 256)
  if imgHeadOk i then
    let j := imgOf (memRead s.hostMem (pa + imgLen i) 256)
    memRead s.hostMem pa (imgLen i + if imgHeadOk j then imgLen j else 0)
  else memRead s.hostMem pa 512

/-- The boot ROM's steps (R471). It reads physical addresses, so no walk can fail. -/
def boot (io : Io) (v : Verdict) (s : State) : State :=
  match io with
  | .bad e => bootBad (ownStatus e) 0 (readBroken [{ pa := s.fuses.bootPa * 65536, len := (bootBundle s).length }] e s)
  | _ => match verifyBundle s v (bootBundle s) with
    | .error e => bootBad e.1 e.2 s
    | .ok l =>
      match imgOfKind 0x4601 l, imgOfKind 0x4602 l with
      | some c, some w => bootGood (some c) (some w) s
      | some _, none => bootBad 0x0108 1 s
      | _, _ => bootBad 0x0108 0 s

/-- BOOT_RETRY: every 1 s while the boot has failed (R471). -/
def execBootRetry (io : Io) (v : Verdict) (s : State) : Host.Outcome State Fault Refusal :=
  live (fun s => if s.rst.bootFail ∧ ¬ s.rst.porHeld ∧ ¬ s.rst.aoHeld then boot io v s else s) s

/-! ### Staging and activation -/

/-- The largest bundle. -/
def bundleMax : Nat := 2621696

/-- The staging area holds a verified bundle, or nothing. -/
def stageSet (l : List Img) (s : State) : State :=
  { s with fw := { s.fw with stagedCtl := imgOfKind 0x4601 l, stagedWard := imgOfKind 0x4602 l, chunks := [] } }

/-- Verify a bundle into the staging area; a failure leaves it empty (R474). Answers the status. -/
def stageBundle (b : List Byte) (v : Verdict) (s : State) : State × Nat :=
  match verifyBundle s v b with
  | .error e => (stageSet [] s, e.1)
  | .ok l => (stageSet l s, 0)

/-- FW_STAGE starts (R474, R501). -/
def startFwStage (p : Packet) (x : Ext) (order : Nat) (s : State) : State :=
  let n := p.p3.toNat
  asyncCmd 0x58 p order x.io { Checks.plain with ranges := [(0, pVa p, n, false)] }
    (fun c s =>
      if bundleMax < n then finish c 0x0108 0 0 0 0 (stageSet [] s)
      else match ownRead 0 (pVa p) n x.io s with
        | (s, .error st) => finish c st 0 0 0 0 s
        | (s, .ok b) =>
          let r := stageBundle b x.verdict s
          finish c r.2 0 0 0 0 r.1) s

/-- FW_STAGE. -/
def execFwStage (p : Packet) (io : Io) (v : Verdict) (s : State) : Host.Outcome State Fault Refusal :=
  live (takeCmd 0x58 p (Ext.ofVerdict io v) (startFwStage p (Ext.ofVerdict io v))) s

/-- The staged images, read again. -/
def stagedImgs (s : State) : List Img :=
  (s.fw.stagedCtl.toList ++ s.fw.stagedWard.toList).map fun f => imgOf f.image

/-- Active and staged images change places (R475). -/
def fwSwap (s : State) : State :=
  let f := s.fw
  { s with fw := { f with
      ctl := (if f.stagedCtl.isSome then f.stagedCtl else f.ctl), stagedCtl := (if f.stagedCtl.isSome then f.ctl else none),
      ward := (if f.stagedWard.isSome then f.stagedWard else f.ward),
      stagedWard := if f.stagedWard.isSome then f.ward else none } }

/-- The control firmware's version. -/
def ctlVersion (s : State) : Nat := match s.fw.ctl with
  | some f => f.version
  | none => 0

/-- FW_ACTIVATE starts (R94, R475). -/
def startFwActivate (p : Packet) (x : Ext) (order : Nat) (s : State) : State :=
  asyncCmd 0x59 p order .ok
    { Checks.plain with
      state := if inBrace s then some (0x0601, 0, 0) else if (stagedImgs s).isEmpty then some (0x0108, 0, 0) else none }
    (fun c s => match imgsBad s x.verdict (stagedImgs s) with
      | some e => finish c e.1 0 0 0 0 s
      | none =>
        let s := fwSwap s
        finish c 0 (ctlVersion s) 0 0 0 s) s

/-- FW_ACTIVATE. -/
def execFwActivate (p : Packet) (v : Verdict) (s : State) : Host.Outcome State Fault Refusal :=
  live (takeCmd 0x59 p (Ext.ofVerdict .ok v) (startFwActivate p (Ext.ofVerdict .ok v))) s

/-- A commit raises the rollback counter to the active control image's svn, to 128 at most (R473). -/
def rollbackRaise (s : State) : State :=
  match s.fw.ctl with
  | some f => { s with fuses := { s.fuses with rollback := max s.fuses.rollback (min 128 f.svn) } }
  | none => s

end Sys2Proof.Machine
end

