-- ==== Sys2Proof/Machine/Mgmt.lean ====
section
/-! DEFINITION. The management channel (R476 to R480) and the refill of Vault's nonce pairs (R465). -/

namespace Sys2Proof.Machine

/-- A response's message: the 64-byte management header, its two arguments 0 (log 104), then the body (R476). -/
def MgmtResp.image (r : MgmtResp) : List Byte := leBytes 64 (r.kind + r.reqId * 2 ^ 16 + r.status * 2 ^ 32) ++ r.body

/-- Chunks of a message of `n` bytes (R255, R285). -/
def msgChunks (s : State) (n : Nat) : Nat := max 1 (ceilDiv n (getP s 0x0342))

/-- Packet numbers used: the newest association transmits, and the next multiple of 2^20 is recorded before it is passed
(R479). -/
def pnUse (n : Nat) (s : State) : State :=
  match s.mgmt.assocs with
  | [] => s
  | (a, pn, _) :: r =>
    { s with mgmt := { s.mgmt with assocs := (a, pn + n, ((pn + n) / 2 ^ 20 + 1) * 2 ^ 20) :: r } }

/-- The link VC0 is sent on: that of mgmt.link, or the next Up link in ascending order (R282). -/
def mgmtLink (s : State) : Option Nat :=
  let l := upLinks s
  let k := getP s 0x0306
  match l.find? fun x => decide (k ≤ x) with
  | some x => some x
  | none => l.head?

/-- Send a response; with no link Up it is not sent, and the requester asks again (R282, R477; log 97). -/
def mgmtOut (r : MgmtResp) (s : State) : State :=
  match mgmtLink s with
  | none => s
  | some k => pnUse (msgChunks s r.image.length) { s with mgmt := { s.mgmt with sent := ((k, r) :: s.mgmt.sent).take 64 } }

/-- Keep a response among the last 64 of its seat, and send it (R477). -/
def mgmtAnswer (q : MgmtReq) (status : Nat) (body : List Byte) (s : State) : State :=
  let r : MgmtResp := { seat := q.seat, reqId := q.reqId, kind := q.kind + 0x80, status := status, body := body }
  let mine := r :: s.mgmt.cache.filter fun x => decide (x.seat = q.seat)
  let others := s.mgmt.cache.filter fun x => decide (x.seat ≠ q.seat)
  mgmtOut r { s with mgmt := { s.mgmt with cache := mine.take 64 ++ others } }

/-- Kind 0x01: the values of up to 512 parameters at one tick. -/
def mgmtRead (q : MgmtReq) (s : State) : State :=
  if inR q.arg0 1 512 then
    let ids := (List.range q.arg0).map fun i => leAt q.body (2 * i) 2
    if ids.all fun i => (paramInfo i).isSome then mgmtAnswer q 0 (ids.flatMap fun i => leBytes 8 (paramValue s i)) s
    else mgmtAnswer q 0x0107 [] s
  else mgmtAnswer q 0x0106 [] s

/-- Kind 0x03: a chunk of the staging area; what was staged is replaced. -/
def mgmtChunk (q : MgmtReq) (s : State) : State :=
  if q.arg0 + q.arg1 ≤ bundleMax then
    mgmtAnswer q 0 [] { s with fw := { s.fw with stagedCtl := none, stagedWard := none,
                                                 chunks := s.fw.chunks ++ [(q.arg0, padTo q.arg1 q.body)] } }
  else mgmtAnswer q 0x0106 [] s

/-- Put a chunk into the assembled bundle. -/
def chunkPut (b : List Byte) (c : Nat × List Byte) : List Byte :=
  padTo c.1 b ++ c.2 ++ b.drop (c.1 + c.2.length)

/-- Kind 0x04: verify what was staged; while the boot has failed, a complete bundle becomes active and boot goes on
(R477, R480). -/
def mgmtCommit (q : MgmtReq) (v : Verdict) (s : State) : State :=
  let r := stageBundle (s.fw.chunks.foldl chunkPut []) v s
  let s := r.1
  let s := if r.2 = 0 ∧ s.rst.bootFail ∧ s.fw.stagedCtl.isSome ∧ s.fw.stagedWard.isSome then
      stageSet [] (bootGood s.fw.stagedCtl s.fw.stagedWard s)
    else s
  mgmtAnswer q r.2 [] s

/-- Kind 0x05: as TRACE_CFG. -/
def mgmtTrace (q : MgmtReq) (s : State) : State :=
  let c := traceOf (padTo 64 q.body)
  if traceRange c = false then mgmtAnswer q 0x0106 [] s
  else if traceFixed s c then mgmtAnswer q 0x0205 [] s
  else match checkRanges [(0, c.base, c.size * 65536, true)] .ok s with
    | (s, some st) => mgmtAnswer q st [] s
    | (s, none) => mgmtAnswer q 0 [] (traceApply c s)

/-- The request needs a nonce pair. -/
def mgmtSigns (q : MgmtReq) : Bool := decide (q.kind = 7) || (decide (q.kind = 2) && decide (q.arg0 % 4 ≠ 3))

/-- Kinds 0x02 and 0x07: a Vault record. -/
def mgmtVault (q : MgmtReq) (sel : Nat) (s : State) : State :=
  if vaultSelOk s sel q.arg1 then
    let r := vaultRecord sel q.arg1 s
    mgmtAnswer q 0 r.2 r.1
  else mgmtAnswer q 0x0106 [] s

/-- Execute a request. -/
def mgmtRun (q : MgmtReq) (v : Verdict) (s : State) : State :=
  match q.kind with
  | 1 => mgmtRead q s
  | 2 => mgmtVault q (q.arg0 % 4) s
  | 3 => mgmtChunk q s
  | 4 => mgmtCommit q v s
  | 5 => mgmtTrace q s
  | 6 => mgmtAnswer q 0 (logBytes s) s
  | 7 => mgmtVault q 2 s
  | _ => s

/-- The boot ROM serves a kind while kw_ctl_ready is low (R480). -/
def mgmtServed (s : State) (q : MgmtReq) : Bool :=
  !s.rst.porHeld && !s.rst.aoHeld && (s.rst.ctlReady || decide (q.kind = 3 ∨ q.kind = 4 ∨ q.kind = 6 ∨ q.kind = 7))

/-- A request waits for a nonce pair, or behind one that does (R465, R477). -/
def mgmtWaits (s : State) (q : MgmtReq) : Bool := !s.mgmt.waiting.isEmpty || (mgmtSigns q && !nonceFree s)

/-- MANAGEMENT_REQUEST (R330, R476, R477). -/
def execManagementRequest (q : MgmtReq) (v : Verdict) (s : State) : Host.Outcome State Fault Refusal :=
  live (fun s =>
    if q.poisoned then ctrInc 16 s
    else if mgmtServed s q then
      match s.mgmt.cache.find? fun r => decide (r.seat = q.seat ∧ r.reqId = q.reqId) with
      | some r => mgmtOut r s
      | none => if mgmtWaits s q then { s with mgmt := { s.mgmt with waiting := s.mgmt.waiting ++ [(q, v)] } } else mgmtRun q v s
    else s) s

/-- The oldest waiting requests, while they can run (`fuel` at most). -/
def mgmtServe : Nat → State → State
  | 0, s => s
  | fuel + 1, s =>
    match s.mgmt.waiting with
    | [] => s
    | (q, v) :: r =>
      if mgmtSigns q && !nonceFree s then s
      else mgmtServe fuel (mgmtRun q v { s with mgmt := { s.mgmt with waiting := r } })

/-- VAULT_NONCE_REFILL: a pair more, of four at most; what waited for one goes on (R465). -/
def execVaultNonceRefill (s : State) : Host.Outcome State Fault Refusal :=
  live (fun s =>
    if s.vault.nonces < 4 ∧ ¬ s.rst.aoHeld then
      let s := { s with vault := { s.vault with nonces := s.vault.nonces + 1 } }
      mgmtServe s.mgmt.waiting.length (vaultServe s)
    else s) s

/-- The install record of 320 bytes is used (R478). -/
def keyInstall (b : List Byte) (v : KeyVerdict) (s : State) : State :=
  let set := fun n => { s with mgmt := { s.mgmt with keyStatus := n } }
  let seq := leAt b 8 8
  let num := leAt b 1 1 % 4
  if bit s.fuses.options 2 = false then set 1
  else if v.sigOk = false then set 2
  else if seq ≤ s.mgmt.lastInstall then set 3
  else if v.unwrapOk = false then set 4
  else { s with mgmt := { s.mgmt with
      keyStatus := 0, lastInstall := seq,
      assocs := (num, 0, 0) :: s.mgmt.assocs.filter (fun a => decide (a.1 ≠ num)),
      nextPn := s.mgmt.nextPn.filter fun a => decide (a.1 ≠ num) } }

end Sys2Proof.Machine
end

