-- ==== Sys2Proof/Machine/Admin.lean ====
section
/-! DEFINITION. The block's administrative commands: ECHO, IDENTIFY, PARAM_GET, PARAM_SET and the rows it carries,
SNAPSHOT, the MMU commands and POOL_CONFIG. -/

namespace Sys2Proof.Machine

/-! ### ECHO and IDENTIFY -/

/-- ECHO starts (R71). -/
def startEcho (p : Packet) (_ : Ext) (order : Nat) (s : State) : State :=
  syncCmd 0x01 p order .ok { Checks.plain with len := fun n => decide (n ≤ 4096) }
    (fun s => replyOne p order 0 p.p0.toNat p.p1.toNat p.p2.toNat p.p3.toNat s) s

/-- ECHO. -/
def execEcho (p : Packet) (s : State) : Host.Outcome State Fault Refusal :=
  live (takeCmd 0x01 p Ext.none (startEcho p Ext.none)) s

/-- IDENTIFY starts (R71). -/
def startIdentify (p : Packet) (_ : Ext) (order : Nat) (s : State) : State :=
  syncCmd 0x02 p order .ok Checks.plain
    (fun s => replyOne p order 0 (releaseWord s + 2 * 2 ^ 24) (getP s 0x0001 + s.fuses.options * 2 ^ 16)
      (keyNow s % 2 ^ 32) (keyNow s / 2 ^ 32) s) s

/-- IDENTIFY. -/
def execIdentify (p : Packet) (s : State) : Host.Outcome State Fault Refusal :=
  live (takeCmd 0x02 p Ext.none (startIdentify p Ext.none)) s

/-! ### PARAM_GET and SNAPSHOT -/

/-- The IDs of a PARAM_GET. -/
def getIds (p : Packet) : List Nat := (List.range (p.payloadLen.toNat / 2)).map fun i => leAt (pBody p) (2 * i) 2

/-- PARAM_GET starts; an ID that R495 does not list fails at check 7 (R71, R84; log 70). -/
def startParamGet (p : Packet) (x : Ext) (order : Nat) (s : State) : State :=
  let ids := getIds p
  let n := ids.length
  let vals := ids.map (paramValue s)
  let v := fun i => vals.getD i 0
  syncCmd 0x03 p order x.io
    { len := fun k => decide (k % 2 = 0) && inR k 2 4096, range := true,
      state := if ids.all fun i => (paramInfo i).isSome then none else some (0x0107, 0, 0),
      ranges := if n ≤ 2 then [] else [(0, pVa p, 8 * n, true)], res := none }
    (fun s =>
      if n ≤ 2 then replyOne p order 0 (v 0 % 2 ^ 32) (v 0 / 2 ^ 32) (v 1 % 2 ^ 32) (v 1 / 2 ^ 32) s
      else match ownWrite 0 (pVa p) (vals.flatMap (leBytes 8)) x.io s with
        | (s, some st) => replyOne p order st 0 0 0 0 s
        | (s, none) => replyOne p order 0 n 0 0 0 s) s

/-- PARAM_GET. -/
def execParamGet (p : Packet) (io : Io) (s : State) : Host.Outcome State Fault Refusal :=
  live (takeCmd 0x03 p (Ext.ofIo io) (startParamGet p (Ext.ofIo io))) s

/-- Entry of a slot in SNAPSHOT set 1 (R86). -/
def slotEntry (x : Slot) : Nat :=
  x.st.code + x.gen * 2 ^ 8 + (if x.stepNo = 0 then x.lastStep else x.stepNo) * 2 ^ 16

/-- SNAPSHOT set 1 (R86). -/
def setJob (s : State) : List Nat := (s.job.st.code + evTag s * 2 ^ 32) :: s.slots.map slotEntry

/-- The entries of a set (R86, R492). -/
def snapEntries (s : State) (set : Nat) : List Nat :=
  match set with
  | 0 => (List.range 1024).map (ctrRead s)
  | 1 => setJob s
  | 2 => (List.range 32).map fun k => (linkAt s k).st.code + lanesUp s k * 2 ^ 4
  | 3 => (List.range 72).map (ledgerEntry s.plan)
  | _ => rwIds.map (paramValue s)

/-- The domains in reset (R86). -/
def inResetMask (s : State) : Nat := maskOf ((List.range 14).filter fun i => decide (domState s i = .inReset))

/-- The epoch in force (R87). -/
def epochNumNow (s : State) : Nat := match epochNow s with
  | some e => e.num
  | none => 0

/-- A SNAPSHOT block: header and entries (R86). -/
def snapBytes (s : State) (set : Nat) : List Byte :=
  let l := snapEntries s set
  leBytes 64 (s.kt + set * 2 ^ 64 + l.length * 2 ^ 96 + inResetMask s * 2 ^ 128 + epochNumNow s * 2 ^ 160 +
    s.job.lastDone * 2 ^ 192) ++ l.flatMap (leBytes 8)

/-- SNAPSHOT starts (R86). -/
def startSnapshot (p : Packet) (x : Ext) (order : Nat) (s : State) : State :=
  let set := p.p0.toNat % 256
  let out := if set ≤ 4 then snapBytes s set else []
  syncCmd 0x05 p order x.io
    { Checks.plain with range := decide (set ≤ 4), ranges := [(0, pVa p, out.length, true)] }
    (fun s => match ownWrite 0 (pVa p) out x.io s with
      | (s, some st) => replyOne p order st 0 0 0 0 s
      | (s, none) => replyOne p order 0 out.length 0 0 0 s) s

/-- SNAPSHOT. -/
def execSnapshot (p : Packet) (io : Io) (s : State) : Host.Outcome State Fault Refusal :=
  live (takeCmd 0x05 p (Ext.ofIo io) (startSnapshot p (Ext.ofIo io))) s

/-! ### PARAM_SET (R83 to R85, R494) -/

/-- The entries of a PARAM_SET: ID and value. -/
def setEntries (p : Packet) : List (Nat × Nat) :=
  (List.range (p.payloadLen.toNat / 16)).map fun i => (leAt (pBody p) (16 * i) 2, leAt (pBody p) (16 * i + 8) 8)

/-- The step of at_step, if it is set. -/
def setStep (p : Packet) : Option Nat := if bit p.p0.toNat 0 then some (pVa p) else none

/-- The value the whole command would leave in a parameter. -/
def lastEntry (id : Nat) (d : Nat) : List (Nat × Nat) → Nat
  | [] => d
  | (i, v) :: r => lastEntry id (if i = id then v else d) r

/-- The parameter is writable (R84, R132, R392). -/
def setWritable (s : State) (id : Nat) (i : PInfo) : Bool :=
  decide (i.acc ≠ .ro) && !(decide (id = 0x0504) && s.job.desc.deterministic && jobExists s) &&
  !(decide (id = 0x0A00 ∨ id = 0x0A01) && bit (getP s 0x0A02) 0)

/-- The value lies in its range (R473, R494). -/
def setRange (s : State) (id v : Nat) : Bool :=
  paramRange id v && (decide (id ≠ 0x002C) || decide (v = ctlVersion s))

/-- A job is Starting or Running. -/
def jobBusy (s : State) : Bool := decide (s.job.st = .starting ∨ s.job.st = .running)

/-- A block parameter may be written now (R44, R285, R321, R493). -/
def blockTime (s : State) (id : Nat) : Option Nat :=
  if (id = 0x0001 ∨ id = 0x0400 ∨ id = 0x0401 ∨ (0x0408 ≤ id ∧ id ≤ 0x0413)) ∧ jobExists s = true then some 0x0201
  else if 0x0200 ≤ id ∧ id ≤ 0x0307 ∧ jobBusy s = true then some 0x0201
  else none

/-- A step number has been taken already. -/
def stepPast (s : State) (n : Nat) : Bool := match s.job.topStep with
  | some t => decide (n ≤ t)
  | none => false

/-- A step-bound parameter may be written now (R85). -/
def boundTime (s : State) (at_ : Option Nat) : Option Nat :=
  match s.job.st with
  | .closed => some 0x0201
  | .draining => some 0x0201
  | .faulted => some 0x0201
  | .opened => (match at_ with
    | some n => if stepPast s n then some 0x0206 else none
    | none => none)
  | _ => match at_ with
    | none => some 0x0209
    | some n => if stepPast s n then some 0x0206 else none

/-- The parameter may be written now: none, or the status (R83, R85, R495). -/
def setTime (s : State) (at_ : Option Nat) (id : Nat) (i : PInfo) : Option Nat :=
  match i.scope with
  | .block => blockTime s id
  | .ao => none
  | .job =>
    if jobExists s = false then some 0x0201
    else if id = 0x0511 ∨ id = 0x0512 ∨ s.job.st = .opened then none else some 0x0201
  | .bound => boundTime s at_

/-- The value agrees with the parameters its rule relates it to (R318, R446). -/
def setRelates (s : State) (all : List (Nat × Nat)) (id v : Nat) : Bool :=
  if id = 0x011B ∨ id = 0x011C then
    decide (lastEntry 0x011B (getP s 0x011B) all ≤ lastEntry 0x011C (getP s 0x011C) all)
  else if id = 0x0341 then !windowBad s v
  else true

/-- Every check of one entry (R84). -/
def entryBad (s : State) (at_ : Option Nat) (all : List (Nat × Nat)) (e : Nat × Nat) : Option Nat :=
  match paramInfo e.1 with
  | none => some 0x0107
  | some i =>
    if setWritable s e.1 i = false then some 0x0205
    else if setRange s e.1 e.2 = false then some 0x0106
    else match setTime s at_ e.1 i with
      | some st => some st
      | none => if setRelates s all e.1 e.2 then none else some 0x0106

/-- The first bad entry: its status and index. -/
def entriesBad (s : State) (at_ : Option Nat) (all : List (Nat × Nat)) : Nat → List (Nat × Nat) → Option (Nat × Nat)
  | _, [] => none
  | i, e :: r => match entryBad s at_ all e with
    | some st => some (st, i)
    | none => entriesBad s at_ all (i + 1) r

/-- hinge{p}.enable and hinge{p}.lane_mode (R252). -/
def setHinge (id v : Nat) (s : State) : State :=
  let p := (id - 0x0200) / 16
  if id % 16 = 0 then
    (if v = 0 then setP (hingeOff p true s) id v else hingeStart p (setP s id v))
  else if id % 16 = 1 then hingeStart p (setP (hingeOff p true s) id v)
  else setP s id v

/-- The parameter is step-bound. -/
def isBound (id : Nat) : Bool := match paramInfo id with
  | some i => decide (i.scope = Scope.bound)
  | none => false

/-- Apply one entry that is not bound to a later step. -/
def applyNow (s : State) (id v : Nat) : State :=
  if id = 0x002C then rollbackRaise s
  else if 0x0310 ≤ id ∧ id ≤ 0x0337 then s
  else if 0x0200 ≤ id ∧ id < 0x0280 then setHinge id v s
  else if id = 0x0A02 then recCtl (getP s id) v (setP s id v)
  else setP s id v

/-- Apply one entry. -/
def applyEntry (at_ : Option Nat) (s : State) (e : Nat × Nat) : State :=
  match at_ with
  | some n =>
    if isBound e.1 then { s with pendParams := s.pendParams ++ [PendParam.mk e.1 n e.2] } else applyNow s e.1 e.2
  | none => applyNow s e.1 e.2

/-- Some entry names mgmt.key_install. -/
def namesKey (l : List (Nat × Nat)) : Bool := l.any fun e => decide (0x0310 ≤ e.1 ∧ e.1 ≤ 0x0337)

/-- The install record, if the entries write all of it. -/
def keyRecord (l : List (Nat × Nat)) : Option (List Byte) :=
  if (List.range 40).all fun i => l.any fun e => decide (e.1 = 0x0310 + i) then
    some ((List.range 40).flatMap fun i => leBytes 8 (lastEntry (0x0310 + i) 0 l))
  else none

/-- Apply every entry, in order. -/
def applyEntries (at_ : Option Nat) (l : List (Nat × Nat)) (k : KeyVerdict) (s : State) : State :=
  let s := l.foldl (applyEntry at_) s
  match keyRecord l with
  | some b => keyInstall b k s
  | none => s

/-- PARAM_SET starts (R84): all entries, or none. -/
def startParamSet (p : Packet) (x : Ext) (order : Nat) (s : State) : State :=
  let l := setEntries p
  let bad := entriesBad s (setStep p) l 0 l
  syncCmd 0x04 p order .ok
    { Checks.plain with
      len := fun n => decide (n % 16 = 0) && inR n 16 4096,
      state := bad.map fun b => (b.1, 0, b.2) }
    (fun s => replyOne p order 0 l.length 0 0 0 (applyEntries (setStep p) l x.key s)) s

/-- A PARAM_SET packet of a row; one that names mgmt.key_install is the row KEY_INSTALL's (log 5). -/
def paramSetRow (p : Packet) (s : State) : Host.Outcome State Fault Refusal :=
  live (fun s => if namesKey (setEntries p) then s else takeCmd 0x04 p Ext.none (startParamSet p Ext.none) s) s

/-- PARAM_SET. -/
def execParamSet (p : Packet) (s : State) : Host.Outcome State Fault Refusal := paramSetRow p s

/-- ROLLBACK_COMMIT: a PARAM_SET of fw.rollback_commit (R473). -/
def execRollbackCommit (p : Packet) (s : State) : Host.Outcome State Fault Refusal := paramSetRow p s

/-- HINGE_ENABLE: a PARAM_SET of hinge{p}.enable (R252). -/
def execHingeEnable (p : Packet) (s : State) : Host.Outcome State Fault Refusal := paramSetRow p s

/-- LANE_MODE_WRITE: a PARAM_SET of hinge{p}.lane_mode (R249, R252). -/
def execLaneModeWrite (p : Packet) (s : State) : Host.Outcome State Fault Refusal := paramSetRow p s

/-- REC_ENABLE: a PARAM_SET of rec.ctl (R392). -/
def execRecEnable (p : Packet) (s : State) : Host.Outcome State Fault Refusal := paramSetRow p s

/-- KEY_INSTALL: a PARAM_SET of the 40 entries of mgmt.key_install (R478). -/
def execKeyInstall (p : Packet) (v : KeyVerdict) (s : State) : Host.Outcome State Fault Refusal :=
  live (takeCmd 0x04 p { Ext.none with key := v } (startParamSet p { Ext.none with key := v })) s

/-! ### Keyway's commands -/

/-- The context of an MMU command. -/
def mmuCtx (p : Packet) : Nat := p.p0.toNat % 2

/-- Set a root. -/
def setRoot (ctx : Nat) (r : Option Nat) (s : State) : State :=
  { s with keyway := if ctx = 0 then { s.keyway with root0 := r } else { s.keyway with root1 := r } }

/-- The 52-bit root address in p1 and p2[19:0]. -/
def mmuRoot (p : Packet) : Nat := p.p1.toNat + (p.p2.toNat % 2 ^ 20) * 2 ^ 32

/-- MMU_MAP starts (R339). -/
def startMmuMap (p : Packet) (_ : Ext) (order : Nat) (s : State) : State :=
  let c := mmuCtx p
  syncCmd 0x40 p order .ok
    { Checks.plain with
      range := decide (mmuRoot p % 4096 = 0),
      state := if (rootOf s c).isSome || (decide (c = 1) && jobExists s) then some (0x0201, 0, 0) else none }
    (fun s => replyOne p order 0 0 0 0 0 (setRoot c (some (mmuRoot p)) s)) s

/-- MMU_MAP. -/
def execMmuMap (p : Packet) (s : State) : Host.Outcome State Fault Refusal :=
  live (takeCmd 0x40 p Ext.none (startMmuMap p Ext.none)) s

/-- A host pool is enabled. -/
def hostPool (s : State) : Bool := (List.range 8).any fun c => decide (4 ≤ c ∧ poolSize s c ≠ 0)

/-- MMU_UNMAP starts (R339). -/
def startMmuUnmap (p : Packet) (_ : Ext) (order : Nat) (s : State) : State :=
  let c := mmuCtx p
  asyncCmd 0x41 p order .ok
    { Checks.plain with
      state := if jobExists s || (decide (c = 0) && hostPool s) then some (0x0201, 0, 0) else none }
    (fun o s => mmuEnd (decide (c = 1)) o (tlbDropCtx c (setRoot c none s))) s

/-- MMU_UNMAP. -/
def execMmuUnmap (p : Packet) (s : State) : Host.Outcome State Fault Refusal :=
  live (takeCmd 0x41 p Ext.none (startMmuUnmap p Ext.none)) s

/-- MMU_INVAL starts (R338). -/
def startMmuInval (p : Packet) (_ : Ext) (order : Nat) (s : State) : State :=
  asyncCmd 0x42 p order .ok Checks.plain
    (fun o s => mmuEnd false o (if p.p3.toNat = 0 then tlbClear s else tlbDrop (pVa p) (p.p3.toNat * 65536) s)) s

/-- MMU_INVAL. -/
def execMmuInval (p : Packet) (s : State) : Host.Outcome State Fault Refusal :=
  live (takeCmd 0x42 p Ext.none (startMmuInval p Ext.none)) s

/-! ### POOL_CONFIG -/

/-- Range checks of R320. -/
def poolRange (s : State) (c base n : Nat) : Bool :=
  decide (c < 8) &&
  (decide (n = 0) || (decide (base % cellBytes c = 0) &&
    (decide (4 ≤ c) || (decide (base + n * cellBytes c ≤ spReserve) && !hitsPool s base (n * cellBytes c) c))))

/-- Configure a pool (R320, R323, R327). -/
def poolApply (c base n : Nat) (s : State) : State :=
  let s := { s with carafe := { s.carafe with cells := s.carafe.cells.filter fun h => decide (h.pool ≠ c) } }
  if n = 0 then newRuns c [] (setPool c Pool.none s)
  else if c < 4 then poolRebuild c (setPool c { base := base, cells := n, free := [] } s)
  else newRuns c [(base, n)] (setPool c { base := base, cells := n, free := [] } s)

/-- POOL_CONFIG starts (R320). -/
def startPoolConfig (p : Packet) (x : Ext) (order : Nat) (s : State) : State :=
  let c := p.p0.toNat % 16
  let n := p.p3.toNat
  asyncCmd 0x44 p order x.io
    { Checks.plain with
      range := poolRange s c (pVa p) n,
      state := if jobExists s then some (0x0201, 0, 0) else none,
      ranges := if 4 ≤ c ∧ n ≠ 0 then [(0, pVa p, n * 65536, true)] else [] }
    (fun o s => finish o 0 0 0 0 0 (poolApply c (pVa p) n s)) s

/-- POOL_CONFIG. -/
def execPoolConfig (p : Packet) (io : Io) (s : State) : Host.Outcome State Fault Refusal :=
  live (takeCmd 0x44 p (Ext.ofIo io) (startPoolConfig p (Ext.ofIo io))) s

end Sys2Proof.Machine
end

