-- ==== Sys2Proof/Machine/Epochs.lean ====
section
/-! DEFINITION. Layer images, function tables, the Keyring and epochs (R87 to R89, R102 to R105, R125, R176 to R180), and
the bias windows (R122 to R128). -/

namespace Sys2Proof.Machine

/-! ### Keyring entries (R103) -/

/-- The expert can be selected. -/
def krEnable (e : DWord) : Bool := bit e.toNat 0
/-- The expert is homed. -/
def krHomed (e : DWord) : Bool := bit e.toNat 1
/-- Its engine slot. -/
def krSlot (e : DWord) : Nat := bits e.toNat 15 2
/-- Its home seat. -/
def krSeat (e : DWord) : Nat := bits e.toNat 31 16
/-- Its bias, in units of 2^−15. -/
def krBias (e : DWord) : Int := sext 16 (bits e.toNat 47 32)
/-- Tokens per work-list entry, minus one. -/
def krCap (e : DWord) : Nat := bits e.toNat 59 48
/-- The entry with another bias. -/
def krWithBias (e : DWord) (b : Int) : DWord :=
  BitVec.ofNat 64 (e.toNat % 2 ^ 32 + unsext 16 b * 2 ^ 32 + (e.toNat / 2 ^ 48) * 2 ^ 48)

/-- An entry array's digest (R120). -/
def krDigest (l : List DWord) : Nat := crc64 (l.flatMap fun e => leBytes 8 e.toNat)

/-- The array of a layer in force for an epoch: the newest not after it. -/
def krFind (l : List KrArray) (epoch layer : Nat) : Option KrArray :=
  (sortBy (fun (a b : KrArray) => decide (b.epoch < a.epoch)) (l.filter fun a => decide (a.layer = layer ∧ a.epoch ≤ epoch))).head?

/-- Slice `i`'s copy. -/
def krCopy (s : State) (i : Nat) : List KrArray := s.keyring.getD i []

/-- The entries of a layer for an epoch, from slice 0's copy. -/
def krEntries (s : State) (epoch layer : Nat) : List DWord := match krFind (krCopy s 0) epoch layer with
  | some a => a.entries
  | none => []

/-! ### Layer images -/

/-- The fields of a layer image's header and its vectors (R102). -/
def layerOf (b : List Byte) : Layer :=
  let n := bits (leAt b 6 2) 14 0
  let d := (b.length - 128 - 8 * n) / 4
  let norm := bits (leAt b 8 8) 25 24
  let dd := if norm = 0 then 0 else d / norm
  let w := leAt b 8 8
  let vec := fun (o k : Nat) => (splitEvery 4 (slice b o (4 * k))).map leNat
  { layer := bits (leAt b 4 4) 8 0, nExperts := n, k := bits w 5 0, nGroups := bits w 14 8, gKeep := bits w 22 16,
    groupRank := bit w 23, norm := norm, gate := bit w 26, renorm := bit w 27, exitEn := bit w 28, routerSrc := bit w 29,
    shared := bit w 30, keepBias := bit w 31, inFmt := bits w 35 32, wFmt := bits w 39 36, biasGroup := bits w 47 40,
    logitScale := leAt b 16 4, eps := leAt b 20 4, routeScale := leAt b 24 4, exitThresh := leAt b 28 4,
    wAddr := leAt b 32 6, gain := if norm = 0 then [] else vec (128 + 8 * n) dd,
    offset := if norm = 2 then vec (128 + 8 * n + 4 * dd) dd else [] }

/-- The Keyring entries of an image. -/
def entriesOf (b : List Byte) (n : Nat) : List DWord :=
  (splitEvery 8 (slice b 128 (8 * n))).map fun x => BitVec.ofNat 64 (leNat x)

/-- Kind, size and layer agree with the command (R104, first row). -/
def layerAgrees (b : List Byte) (i : Layer) (d layer : Nat) : Bool :=
  decide (128 ≤ b.length) && decide (leAt b 0 2 = 0x4C01) && decide (b.length = 128 + 8 * i.nExperts + 4 * d * i.norm) &&
  decide (i.layer = layer)

/-- A binary32 value of at least 0. -/
def notNeg (x : Num) : Bool := !x.isNan && !x.lt .zero

/-- Every field lies in its range (R104, second row). -/
def layerRange (j : JobDesc) (i : Layer) : Bool :=
  decide (i.layer < j.nLayers) && inR i.nExperts 1 16384 && inR i.k 1 32 && decide (i.k ≤ j.kMax) &&
  decide (i.k ≤ i.nExperts) && inR i.nGroups 1 64 && decide (i.gKeep ≤ i.nGroups) && decide (i.norm ≤ 2) &&
  decide (i.inFmt ≤ 3) && decide (i.wFmt ≤ 4) && notNeg (f32 i.eps) &&
  (!i.exitEn || (Num.zero.lt (f32 i.exitThresh) && !Num.one.lt (f32 i.exitThresh) && !(f32 i.exitThresh).isNan))

/-- n_experts, n_groups and g_keep agree (R104, fourth row); a g_keep of 0 turns the limit off. -/
def layerGroups (i : Layer) : Bool :=
  decide (i.nExperts % i.nGroups = 0) && (decide (i.gKeep = 0) || decide (i.k ≤ i.gKeep * (i.nExperts / i.nGroups)))

/-- No seat homes more than h_max enabled experts (R104, fifth row). -/
def layerHomes (j : JobDesc) (members : List Nat) (l : List DWord) : Bool :=
  let homes := (l.filter fun e => krEnable e && krHomed e).map krSeat
  (dedup (homes ++ members)).all fun m => decide ((homes.filter fun x => decide (x = m)).length ≤ j.hMax)

/-- Home seats are members (R104, sixth row). -/
def layerSeats (members : List Nat) (l : List DWord) : Bool := l.all fun e => !krHomed e || members.contains (krSeat e)

/-- No engine slot is named twice (R104, seventh row). -/
def layerSlots (l : List DWord) : Bool :=
  distinct ((l.filter fun e => !krHomed e).map krSlot) && distinct ((l.filter krHomed).map fun e => (krSeat e, krSlot e))

/-- Biases lie within keyring.bias_max (R104, eighth row). -/
def layerBias (bmax : Nat) (l : List DWord) : Bool := l.all fun e => !krEnable e || decide ((krBias e).natAbs ≤ bmax)

/-- Bytes of the four copies of `n` entries. -/
def krBytes (n : Nat) : Nat := 32 * n

/-- The steps taken that brace or the release instant holds. -/
def heldSteps (s : State) : List Nat :=
  (s.latch.held.filter fun h => decide (h.why ≠ .after) && decide (h.cmd.opcode.toNat = 0x20)).map fun h =>
    h.cmd.p1.toNat + h.cmd.p2.toNat % 65536 * 2 ^ 32

/-- The oldest epoch of a step in flight: one that a slot runs or that is held, or whose destination duty is not over (R105). -/
def epochOldest (s : State) : Nat :=
  let runs := s.slots.filterMap (fun x => x.ctx.map (·.epoch)) ++ (heldSteps s).map fun n => (epochFor s n).elim 0 (·.num)
  let duties := (s.duties.filter fun d => d.reached && (d.cancels.isEmpty || d.landed.any fun l => !l.answered)).map (·.epoch)
  (runs ++ duties).foldl min s.ep.num

/-- The array is in force in the oldest epoch in flight or in a later one (R105). -/
def krKept (oldest : Nat) (cp : List KrArray) (a : KrArray) : Bool :=
  decide (oldest ≤ a.epoch) || decide (some a = krFind cp oldest a.layer)

/-- Keyring bytes in use: the arrays that a step in flight or a later one needs, and what is staged but for one layer. -/
def krUsed (s : State) (except : Nat) : Nat :=
  sumN (((krCopy s 0).filter (krKept (epochOldest s) (krCopy s 0))).map fun a => krBytes a.entries.length) +
  sumN ((s.ep.staged.filter fun x => decide (x.img.layer ≠ except)).map fun x => krBytes x.entries.length)

/-- The checks of R104 in order: none, or the status. -/
def layerBad (s : State) (b : List Byte) (layer : Nat) : Option Nat :=
  let i := layerOf b
  let l := entriesOf b i.nExperts
  let j := s.job.desc
  if layerAgrees b i j.d layer = false then some 0x0108
  else if layerRange j i = false then some 0x0106
  else if i.wAddr % 64 ≠ 0 then some 0x0106
  else if layerGroups i = false then some 0x0106
  else if layerHomes j s.job.members l = false then some 0x0106
  else if layerSeats s.job.members l = false then some 0x0108
  else if layerSlots l = false then some 0x0108
  else if layerBias (curP s 0x0502) l = false then some 0x0106
  else if j.krKib * 1024 < krUsed s layer + krBytes i.nExperts then some 0x0303
  else none

/-- Stage a layer image. -/
def stageLayer (i : Layer) (l : List DWord) (s : State) : State :=
  { s with ep := { s.ep with
      staged := s.ep.staged.filter (fun x => decide (x.img.layer ≠ i.layer)) ++ [{ img := i, entries := l }] } }

/-- A commit is pending (R88); a load that it waits for, taken before it, goes on. -/
def commitState (order : Nat) (s : State) : Option (Nat × Nat × Nat) :=
  if s.ep.commit.any fun c => !c.loads.contains order then some (0x0208, 0, 0) else none

/-- A failed load that the pending commit waits for is noted (R88). -/
def noteLoad (s : State) : State :=
  let failed := fun (c : Commit) => s.latch.replies.any fun r => c.loads.contains r.order && r.final && decide (r.status ≠ 0)
  { s with ep := { s.ep with commit := s.ep.commit.map fun c => ({ c with bad := c.bad || failed c } : Commit) } }

/-- LAYER_LOAD starts (R87, R88, R102, R104). -/
def startLayerLoad (p : Packet) (x : Ext) (order : Nat) (s : State) : State :=
  let n := p.p3.toNat
  let layer := p.p0.toNat % 512
  noteLoad <| asyncCmd 0x14 p order x.io
    { Checks.plain with range := decide (layer < s.job.desc.nLayers), state := commitState order s, ranges := [(1, pVa p, n, false)] }
    (fun c s => match ownRead 1 (pVa p) n x.io s with
      | (s, .error st) => finish c st 0 0 0 0 s
      | (s, .ok b) => match layerBad s b layer with
        | some st => finish c st 0 0 0 0 s
        | none =>
          let i := layerOf b
          finish c 0 (s.ep.num + 1) 0 0 0 (stageLayer i (entriesOf b i.nExperts) s)) s

/-- LAYER_LOAD. -/
def execLayerLoad (p : Packet) (io : Io) (s : State) : Host.Outcome State Fault Refusal :=
  live (takeCmd 0x14 p (Ext.ofIo io) (startLayerLoad p (Ext.ofIo io))) s

/-! ### Function tables -/

/-- A table image (R176). -/
def tableImage (b : List Byte) : Table :=
  let w := leAt b 0 8
  let seg := fun i => (leAt b (64 + 16 * i) 4, leAt b (68 + 16 * i) 4, leAt b (72 + 16 * i) 4)
  { index := bits w 18 16, quadratic := bit w 48, xLo := leAt b 8 4, xHi := leAt b 12 4,
    segs := (List.range ((b.length - 64) / 16)).map seg, id := crc32c b }

/-- The segment count of a header. -/
def tableSegs (b : List Byte) : Nat := bits (leAt b 0 8) 41 32

/-- x is not above y; NaN is. -/
def numLe (x y : Num) : Bool := !x.isNan && !y.isNan && !y.lt x

/-- The failure of one segment, if any: 1 within it, 2 at its right seam (R179). -/
def segBad (dir : Bool) (s : Nat × Nat × Nat) (next : Option (Nat × Nat × Nat)) : Option Nat :=
  let le := fun a b => if dir then numLe b a else numLe a b
  let b := f32 s.2.1
  let c := f32 s.2.2
  let slope1 := b.addExact (scaleBy c 1)
  if !le .zero b || !le .zero slope1 then some 1
  else match next with
    | none => none
    | some q => if le (polyAt s.1 s.2.1 s.2.2 .one) (f32 q.1) then none else some 2

/-- The first failing segment and its kind. -/
def monoBad (dir : Bool) : Nat → List (Nat × Nat × Nat) → Option (Nat × Nat)
  | _, [] => none
  | i, x :: r => match segBad dir x r.head? with
    | some k => some (i, k)
    | none => monoBad dir (i + 1) r

/-- The rows of R178 on the image: none, or the status and the reject record. -/
def tableBad (b : List Byte) (index : Nat) : Option (Nat × Nat) :=
  let t := tableImage b
  let n := tableSegs b
  let width := (f32 t.xHi).addExact (f32 t.xLo).neg
  if b.length < 64 ∨ leAt b 0 2 ≠ 0x5401 ∨ t.index ≠ index ∨ b.length ≠ 64 + 16 * n ∨ leAt b 16 4 ≠ crc32c (b.drop 64) then
    some (0x0108, 0)
  else if n = 0 ∨ 512 < n then some (0x0106, 0)
  else if (f32 t.xLo).isFin = false ∨ (f32 t.xHi).isFin = false ∨ (f32 t.xLo).lt (f32 t.xHi) = false ∨
      (fp32.round width).isFin = false then some (0x0108, 0)
  else if (t.segs.any fun s => !(f32 s.1).isFin || !(f32 s.2.1).isFin || !(f32 s.2.2).isFin ||
      (!t.quadratic && decide (s.2.2 ≠ 0))) = true then some (0x0108, 0)
  else if bit (leAt b 0 8) 49 then
    match monoBad (bit (leAt b 0 8) 50) 0 t.segs with
    | some (i, k) => some (0x0501, i + k * 512)
    | none => none
  else none

/-- TABLE_LOAD starts (R176 to R179). -/
def startTableLoad (p : Packet) (x : Ext) (order : Nat) (s : State) : State :=
  let n := p.p3.toNat
  noteLoad <| asyncCmd 0x16 p order x.io
    { Checks.plain with range := decide (p.p0.toNat % 4 = 0), state := commitState order s, ranges := [(1, pVa p, n, false)] }
    (fun c s => match ownRead 1 (pVa p) n x.io s with
      | (s, .error st) => finish c st 0 0 0 0 s
      | (s, .ok b) => match tableBad b (bits p.p0.toNat 10 8) with
        | some (st, rej) => finish c st 0 0 0 0 (if rej = 0 then s else setP s 0x0018 rej)
        | none =>
          let t := tableImage b
          finish c 0 (s.ep.num + 1) 0 0 0
            { s with ep := { s.ep with stagedTables := s.ep.stagedTables.filter (fun y => decide (y.index ≠ t.index)) ++ [t] } }) s

/-- TABLE_LOAD. -/
def execTableLoad (p : Packet) (io : Io) (s : State) : Host.Outcome State Fault Refusal :=
  live (takeCmd 0x16 p (Ext.ofIo io) (startTableLoad p (Ext.ofIo io))) s

/-! ### Commits -/

/-- The largest step taken is at or above `n`. -/
def stepTaken (s : State) (n : Nat) : Bool := match s.job.topStep with
  | some t => decide (n ≤ t)
  | none => false

/-- The loads whose final replies are still to be sent (R64, R88). -/
def loadsOut (s : State) : List Nat :=
  ((s.latch.held.filter fun h => decide (h.cmd.opcode.toNat = 0x14 ∨ h.cmd.opcode.toNat = 0x16)).map (·.order)) ++
    (s.latch.replies.filter fun r => r.final && decide (r.opcode = 0x14 ∨ r.opcode = 0x16)).map (·.order)

/-- KEYRING_COMMIT starts (R87, R88). -/
def startKeyringCommit (p : Packet) (_ : Ext) (order : Nat) (s : State) : State :=
  let n := pVa p
  asyncCmd 0x15 p order .ok
    { Checks.plain with state := if stepTaken s n then some (0x0206, 0, 0) else if s.ep.commit.isSome then some (0x0208, 0, 0) else none }
    (fun c s =>
      let loads := (loadsOut s).filter fun o => decide (o < order)
      noteLoad { s with ep := { s.ep with commit := some { step := n, cmd := c, loads := loads, bad := false, ready := false } } }) s

/-- KEYRING_COMMIT. -/
def execKeyringCommit (p : Packet) (s : State) : Host.Outcome State Fault Refusal :=
  live (takeCmd 0x15 p Ext.none (startKeyringCommit p Ext.none)) s

/-- The layers of the newest epoch. -/
def layersNow (s : State) : List Layer := match epochNow s with
  | some e => e.layers
  | none => []

/-- The layers of the epoch that a commit would make: staged images replace those of the same layer (R105). -/
def layersNext (s : State) : List Layer :=
  sortBy (fun (a b : Layer) => decide (a.layer < b.layer))
    ((layersNow s).filter (fun l => !s.ep.staged.any fun x => decide (x.img.layer = l.layer)) ++ s.ep.staged.map (·.img))

/-- The tables of that epoch. -/
def tablesNext (s : State) : List Table :=
  (match epochNow s with
    | some e => e.tables.filter fun t => !s.ep.stagedTables.any fun x => decide (x.index = t.index)
    | none => []) ++ s.ep.stagedTables

/-- A defined group that contains the own seat (R125). -/
def ownGroup (s : State) (g : Nat) : Bool :=
  s.coll.groups.any fun x => decide (x.num = g) && x.members.contains (getP s 0x0001)

/-- The steps that wait for the commit wait no longer; those that `f` changes. -/
def endAwait (f : StepCtx → StepCtx) (s : State) : State :=
  { s with slots := s.slots.map fun x => { x with ctx := x.ctx.map fun c => if c.awaitCommit then f { c with awaitCommit := false } else c } }

/-- The epoch's record. -/
def epochAt (s : State) (num : Nat) : Option Epoch := s.ep.epochs.find? fun e => decide (e.num = num)

/-- A layer of an epoch. -/
def layerIn (s : State) (num layer : Nat) : Option Layer := match epochAt s num with
  | some e => e.layers.find? fun l => decide (l.layer = layer)
  | none => none

/-- A step whose layer its epoch never loaded: the commit that held it has failed. No rule says how it ends: the job
faults, naming Hasp's microcode (log 31). -/
def endUnloaded (i : Nat) (s : State) : State :=
  match (slotAt s i).ctx with
  | some c =>
    if c.awaitCommit = false ∧ (layerIn s c.epoch c.layer).isNone ∧ c.cancelled = false then jobFault 0x0002 0x0401 0 (whereSlot s i) s
    else s
  | none => s

/-- The commit fails: a load that it waited for failed, or the new epoch fails the checks of R125. The staging area is kept,
and the steps it held go on in the old epoch (R88). -/
def commitRefused (status : Nat) (c : Commit) (s : State) : State :=
  let s := finish c.cmd status 0 0 0 0 { s with ep := { s.ep with commit := none } }
  (List.range 64).foldl (fun t i => endUnloaded i t) (endAwait (fun x => x) s)

/-! ### Bias windows (R122 to R128) -/

/-- The changes of keyring.bias_period, in ascending step; of equal steps the later write. -/
def periodChanges (s : State) : List (Nat × Nat) :=
  s.pendParams.foldl (fun l p => if p.id = 0x0500 then insertKey l p.step p.value else l) []

/-- Add a change: it takes effect at the first boundary at or after its step (R124). -/
def segAdd (l : List WinSeg) (c : Nat × Nat) : List WinSeg :=
  match l with
  | [] => []
  | g :: r =>
    let k := ceilDiv (c.1 - g.step) g.len
    if k = 0 then { g with len := c.2 } :: r else { step := g.step + k * g.len, win := g.win + k, len := c.2 } :: g :: r

/-- The runs of windows of one length, newest first. -/
def segments (s : State) : List WinSeg :=
  (periodChanges s).foldl segAdd [{ step := 0, win := 0, len := max 1 (getP s 0x0500) }]

/-- The window of a step. -/
def winOf (s : State) (step : Nat) : Nat :=
  match (segments s).find? fun g => decide (g.step ≤ step) with
  | some g => g.win + (step - g.step) / g.len
  | none => 0

/-- start(w). -/
def winStart (s : State) (w : Nat) : Nat :=
  match (segments s).find? fun g => decide (g.win ≤ w) with
  | some g => g.step + (w - g.win) * g.len
  | none => 0

/-- A window discarded by a freeze, or begun while one was in force (R128): the freeze is in force at some step of it. -/
def winFrozen (s : State) (w : Nat) : Bool :=
  let a := winStart s w
  let b := winStart s (w + 1)
  decide (stepP s 0x0503 a = 1) ||
  s.pendParams.any fun p => decide (p.id = 0x0503 ∧ a < p.step ∧ p.step < b) && decide (stepP s 0x0503 p.step = 1)

/-- The epoch in force at a window's first step; 0 with none in force. A pending commit's switch corrects it. -/
def winEpoch (s : State) (w : Nat) : Nat := match epochFor s (winStart s w) with
  | some e => e.num
  | none => 0

/-- A step is taken: windows that end before it close, and its own window opens (R124). -/
def winTake (step cls : Nat) (s : State) : State :=
  let w := winOf s step
  let wins := s.bias.wins.map fun x => if winStart s (x.w + 1) ≤ step ∧ x.closed = false then { x with closed := true, cls := cls } else x
  let wins := wins.filter fun x => !(x.closed && (winFrozen s x.w || (x.applied && wins.any fun y => y.applied && decide (x.w < y.w))))
  let new : List BiasWin := if wins.any fun x => decide (x.w = w) then [] else
    [{ w := w, epoch := winEpoch s w, cls := cls, closed := false, frozen := false, counts := [], posted := [], sums := [],
       applied := false, dropped := false }]
  { s with bias := { s.bias with wins := wins ++ new } }

/-- Change a window. -/
def winMap (w : Nat) (f : BiasWin → BiasWin) (s : State) : State :=
  { s with bias := { s.bias with wins := s.bias.wins.map fun x => if x.w = w then f x else x } }

/-- The layers of a window's epoch. -/
def winLayers (s : State) (x : BiasWin) : List Layer := match epochAt s x.epoch with
  | some e => e.layers
  | none => []

/-- The bias groups that sum a window. -/
def winGroups (s : State) (x : BiasWin) : List Nat := dedup ((winLayers s x).map (·.biasGroup))

/-- Every sum of the window has completed. -/
def winSummed (s : State) (x : BiasWin) : Bool :=
  x.closed && (winLayers s x).all fun l => x.sums.any fun q => decide (q.1 = l.layer)

/-- The window still owes its update to steps from start(w + 2) on. -/
def winOwes (s : State) (x : BiasWin) : Bool := !x.applied && !x.dropped && !winFrozen s x.w && !(winLayers s x).isEmpty

/-- A step of window `v` waits before stage 6 (R124). -/
def biasWaits (s : State) (step : Nat) : Bool :=
  s.bias.wins.any fun x => decide (winStart s (x.w + 2) ≤ step) && winOwes s x

/-- Some sum that the step needs has not completed (R124). -/
def biasStalls (s : State) (step : Nat) : Bool :=
  s.bias.wins.any fun x => decide (winStart s (x.w + 2) ≤ step) && winOwes s x && !winSummed s x

/-- Per-expert additions to two lists of counts. -/
def addCounts (a b : List Nat) : List Nat :=
  (List.range (max a.length b.length)).map fun i => (a.getD i 0 + b.getD i 0) % 2 ^ 32

/-- Stage 10 of a step has finished: its counts go to its window where it runs under the window's epoch (R123). -/
def winCount (step epoch layer : Nat) (counts : List Nat) (s : State) : State :=
  winMap (winOf s step) (fun x =>
    if x.epoch = epoch then
      let old := match x.counts.find? fun q => decide (q.1 = layer) with
        | some q => q.2
        | none => []
      { x with counts := x.counts.filter (fun q => decide (q.1 ≠ layer)) ++ [(layer, addCounts old counts)] }
    else x) s

/-- A window's counts of a layer. -/
def winCounts (x : BiasWin) (l : Layer) : List Nat :=
  let c := match x.counts.find? fun q => decide (q.1 = l.layer) with
    | some q => q.2
    | none => []
  (List.range l.nExperts).map fun i => c.getD i 0

/-- The new bias of an expert (R126). -/
def biasStep (gamma bmax : Nat) (total enabled c : Nat) (b : Int) : Int :=
  let v := if c * enabled < total then b + gamma else if total < c * enabled then b - gamma else b
  max (-(bmax : Int)) (min (bmax : Int) v)

/-- A layer's entries after an update (R126). -/
def biasLayer (gamma bmax : Nat) (sums : List Nat) (l : List DWord) : List DWord :=
  let on := (List.zip l sums).filter fun x => krEnable x.1
  let total := sumN (on.map (·.2))
  if total = 0 then l
  else (List.zip (List.range l.length) l).map fun x =>
    if krEnable x.2 then krWithBias x.2 (biasStep gamma bmax total on.length (sums.getD x.1 0) (krBias x.2)) else x.2

/-- Rewrite the array of a layer in force for an epoch, in every slice copy. -/
def krRewrite (epoch layer : Nat) (f : List DWord → List DWord) (s : State) : State :=
  { s with keyring := s.keyring.map fun cp => match krFind cp epoch layer with
      | none => cp
      | some a => cp.map fun y => if y.epoch = a.epoch ∧ y.layer = a.layer then
          { y with entries := f y.entries, digest := krDigest (f y.entries) } else y }

/-- Apply a window's update: γ and b_max are those of the steps it takes effect for; a freeze in force there changes nothing
(R122, R126, R128). -/
def biasApply (x : BiasWin) (s : State) : State :=
  let n := winStart s (x.w + 2)
  let s := if stepP s 0x0503 n = 1 then s else (winLayers s x).foldl (fun t l =>
    match x.sums.find? fun q => decide (q.1 = l.layer) with
    | some q => krRewrite x.epoch l.layer (biasLayer (stepP t 0x0501 n) (stepP t 0x0502 n) q.2) t
    | none => t) s
  winMap x.w (fun y => { y with applied := true }) s

/-- Every step taken below `n` has finished stage 10 (or was cancelled). -/
def scoredBelow (s : State) (n : Nat) : Bool :=
  ((heldSteps s).all fun m => decide (n ≤ m)) && s.slots.all fun x => match x.ctx with
    | some c => decide (n ≤ c.step) || decide (11 ≤ x.stage) || c.cancelled
    | none => true

/-- A pending switch will discard the window's update (R127). -/
def switchComes (s : State) (w : Nat) : Bool :=
  s.ep.commit.any fun c => decide (winStart s w ≤ c.step) && decide (c.step ≤ winStart s (w + 2))

/-- The lowest slice with a poisoned entry in the array that serves an epoch (R121). -/
def krPoisoned (s : State) (epoch layer : Nat) : Option Nat :=
  (List.range 4).find? fun i => (krFind (krCopy s i) epoch layer).elim false fun a => s.keyringBad.contains (i, layer, a.epoch)

/-- Reading the arrays of some layers meets a poisoned entry: the job faults, naming the slice (R121). -/
def krReadBad (epoch : Nat) (layers : List Nat) (s : State) : Option Nat := layers.findSome? (krPoisoned s epoch)

/-- BIAS_UPDATE: the sums of a window are in, and every step below start(w + 2) has been scored (R121, R124, R126, R127). -/
def execBiasUpdate (window : Nat) (s : State) : Host.Outcome State Fault Refusal :=
  live (fun s =>
    match s.bias.wins.find? fun x => decide (x.w = window) with
    | none => s
    | some x =>
      let n := winStart s (window + 2)
      if winOwes s x ∧ winSummed s x ∧ stepTaken s n ∧ scoredBelow s n ∧ switchComes s window = false then
        match krReadBad x.epoch ((winLayers s x).map (·.layer)) s with
        | some k => jobFault (0x10 + k) 0x0406 0 Where.none s
        | none => biasApply x s
      else s) s

/-! ### The switch -/

/-- Updates due below a step have been applied. -/
def biasDone (s : State) (step : Nat) : Bool :=
  !(s.bias.wins.any fun x => decide (winStart s (x.w + 2) < step) && winOwes s x)

/-- Entries of a staged layer at the switch: with keep_bias each expert index in both epochs keeps its running bias
(R127). -/
def switchEntries (s : State) (x : StagedLayer) : List DWord :=
  let old := krEntries s s.ep.num x.img.layer
  if x.img.keepBias then
    (List.zip (List.range x.entries.length) x.entries).map fun e => match old[e.1]? with
      | some o => krWithBias e.2 (krBias o)
      | none => e.2
  else x.entries

/-- The window's sum or update is still to come: a window whose update a switch discards still has its sum (R124, R127). -/
def winNeeds (s : State) (x : BiasWin) : Bool :=
  winOwes s x || (!x.applied && !winFrozen s x.w && !winSummed s x)

/-- Epochs and arrays that no step in flight and no window needs are dropped. -/
def krPrune (s : State) : State :=
  let oldest := (s.bias.wins.filter (winNeeds s)).foldl (fun a x => min a x.epoch) (epochOldest s)
  { s with keyring := s.keyring.map (fun cp => cp.filter (krKept oldest cp)),
           ep := { s.ep with epochs := s.ep.epochs.filter fun e => decide (oldest ≤ e.num) } }

/-- A window loses its update at a switch at `step` (R127); one that a freeze discards is not counted (R128). -/
def winDrops (s : State) (step : Nat) (x : BiasWin) : Bool :=
  decide (winStart s x.w ≤ step) && decide (step ≤ winStart s (x.w + 2)) && !x.applied && !x.dropped && !winFrozen s x.w

/-- The new epoch takes effect: pointers switch, steps that waited run under it, KEYRING_COMMIT ends, EV_EPOCH is emitted
(R87, R105, R127). A poisoned entry whose bias a staged image keeps ends the job (R121). -/
def epochSwitch (c : Commit) (s : State) : State :=
  match krReadBad s.ep.num ((s.ep.staged.filter (·.img.keepBias)).map (·.img.layer)) s with
  | some k => jobFault (0x10 + k) 0x0406 0 Where.none s
  | none =>
  let n := s.ep.num + 1
  let new := s.ep.staged.map fun x => let l := switchEntries s x
    ({ epoch := n, layer := x.img.layer, entries := l, digest := krDigest l } : KrArray)
  let drops := (s.bias.wins.filter (winDrops s c.step)).length
  let e : Epoch := { num := n, first := c.step, layers := layersNext s, tables := tablesNext s }
  let wins := s.bias.wins.map fun x => { x with
    dropped := x.dropped || winDrops s c.step x,
    epoch := if c.step ≤ winStart s x.w then n else x.epoch }
  let s := { s with
    keyring := s.keyring.map fun cp => cp ++ new,
    bias := { s.bias with wins := wins },
    ep := { num := n, epochs := e :: s.ep.epochs, staged := [], stagedTables := [], commit := none } }
  let s := endAwait (fun x => { x with epoch := n }) s
  let s := krPrune (ctrAdd 3 drops s)
  let ev := { evMake s 0x000C false 0x0000 n with step := c.step }
  let s := dripAt 13 0 n (evSend ev s)
  finish c.cmd 0 n 0 0 0 s

end Sys2Proof.Machine
end

