-- ==== Sys2Proof/Machine/Tensor.lean ====
section
/-! DEFINITION. Tensor descriptors and layouts (R187 to R197), and TENSOR_COPY, GATHER and SCATTER_ACC (R172 to R174, R198
to R212). -/

namespace Sys2Proof.Machine

/-! ### Descriptors -/

/-- A descriptor as R188 reads it. `sizes` of dimensions 0 to 4; `strides` of dimensions 1 to 4; `grp`: scale_grp is not
0. -/
structure Desc where
  fmt : Nat
  layout : Nat
  grp : Bool
  base : Nat
  sizes : List Nat
  strides : List Int
  scaleVa : Nat
  scaleStride : Int
  deriving DecidableEq, Repr

/-- Read the 64 bytes at `o` (R187, R188). -/
def descOf (b : List Byte) (o : Nat) : Desc :=
  let w := leAt b o 64
  let fmt := if 11 ≤ bits w 3 0 then 0 else bits w 3 0
  let lay := if 5 ≤ bits w 6 4 then 0 else bits w 6 4
  let rank := max 1 (min 5 (bits w 10 8))
  { fmt := fmt, layout := if lay = 3 ∧ isMx fmt = false then 0 else lay, grp := decide (bits w 13 12 ≠ 0), base := bits w 63 16,
    sizes := (List.range 5).map fun i => if i < rank then bits w (95 + 32 * i) (64 + 32 * i) else 1,
    strides := (List.range 4).map fun i => if i + 1 < rank then sext 40 (bits w (263 + 40 * i) (224 + 40 * i)) else 0,
    scaleVa := bits w 431 384, scaleStride := sext 40 (bits w 471 432) }

/-- Size of dimension `i`. -/
def Desc.size (d : Desc) (i : Nat) : Nat := d.sizes.getD i 1

/-- The tensor holds no element. -/
def Desc.empty (d : Desc) : Bool := d.sizes.any fun n => decide (n = 0)

/-- The number of innermost rows. -/
def Desc.rows (d : Desc) : Nat := if d.empty then 0 else (d.sizes.drop 1).foldl (· * ·) 1

/-- The outer indices i_1 to i_4 of row `r` in flat order (R203). -/
def Desc.outer (d : Desc) (r : Nat) : List Nat :=
  let a := d.size 1
  let b := d.size 2
  let c := d.size 3
  [r % a, r / a % b, r / a / b % c, r / a / b / c]

/-- The flat number of a row. -/
def Desc.flat (d : Desc) (o : List Nat) : Nat :=
  o.getD 0 0 + d.size 1 * (o.getD 1 0 + d.size 2 * (o.getD 2 0 + d.size 3 * o.getD 3 0))

/-- Layouts 1 and 2 arrange dimensions 0 and 1 together. -/
def Desc.planar (d : Desc) : Bool := decide (d.layout = 1 ∨ d.layout = 2)

/-- The block scales lie in a separate plane (R195). -/
def Desc.plane (d : Desc) : Bool := d.grp && isMx d.fmt && decide (d.layout = 0)

/-- The blocks have scale codes at all. -/
def Desc.scaled (d : Desc) : Bool := isMx d.fmt && (decide (d.layout ≠ 0) || d.grp)

/-- Reduce a VA modulo 2^48 and clear its six low bits (R189). -/
def va64 (v : Int) : Nat := (v % (2 ^ 48 : Nat)).toNat / 64 * 64

/-- The VA of the unit (row or plane) that holds the row with outer indices `o` (R189, R192). -/
def Desc.unitVa (d : Desc) (o : List Nat) : Nat :=
  let o := if d.planar then o.set 0 0 else o
  va64 ((List.zip o d.strides).foldl (fun (a : Int) x => a + x.1 * x.2) d.base)

/-- The VA of a row's scale row (R189). -/
def Desc.scaleRow (d : Desc) (o : List Nat) : Nat := va64 (d.scaleVa + d.flat o * d.scaleStride)

/-- Bytes of a group row and of a scale row of layout 1 (R142). -/
def Desc.rw (d : Desc) : Nat := roundUp 64 (d.size 0 * 4 * elemBits d.fmt / 8)
/-- See `Desc.rw`. -/
def Desc.rs (d : Desc) : Nat := roundUp 64 (d.size 0)

/-- Bytes of a data block of 32 elements. -/
def Desc.blk (d : Desc) : Nat := 4 * elemBits d.fmt

/-- Bit offset of an element in its unit, and byte offset of its scale (R142, R146, R192 to R194). -/
def Desc.place (d : Desc) (i1 i0 : Nat) : Nat × Nat :=
  let e := elemBits d.fmt
  let mx := isMx d.fmt
  match d.layout with
  | 1 =>
    if mx then
      let u := i1 / 32 * (d.rs + 8 * d.rw)
      ((u + d.rs + i1 % 32 / 4 * d.rw) * 8 + (4 * i0 + i1 % 4) * e, u + i0)
    else (i1 / 4 * d.rw * 8 + (4 * i0 + i1 % 4) * e, 0)
  | 2 =>
    let kb := (if mx then 64 else 0) + 64 * d.blk
    let u := (i1 / 64 * ceilDiv (d.size 0) 32 + i0 / 32) * kb
    ((u + (if mx then 64 else 0) + i1 % 64 * d.blk) * 8 + i0 % 32 * e, u + i1 % 64)
  | 3 =>
    let u := i0 / 2048 * (64 + 64 * d.blk)
    ((u + 64 + i0 % 2048 / 32 * d.blk) * 8 + i0 % 32 * e, u + i0 % 2048 / 32)
  | 4 => (64 * 8 + i0 * e, 64 + ceilDiv (d.size 0) 32 * d.blk + i0 / 32)
  | _ => (i0 * e, 0)

/-! ### Accesses -/

/-- A write of a command: what it was derived from, where it goes and what it puts there. -/
structure TEnt where
  reads : List Piece
  runs : List Piece
  bytes : List Byte

/-- A run of accesses: the state, host memory before it, the pieces read, those of them that were source data, those read
since the last write, the pieces written, the bytes written, the first failure, and the writes, newest first. -/
structure TRun where
  s : State
  base : Mem
  rd : List Piece
  src : List Piece
  since : List Piece
  wr : List Piece
  bytes : Nat
  bad : Option XFault
  log : List TEnt

/-- No access yet. -/
def TRun.start (s : State) : TRun :=
  { s := s, base := s.hostMem, rd := [], src := [], since := [], wr := [], bytes := 0, bad := none, log := [] }

/-- Read source bytes in the job context, as they were before the command (R201); zeros once an access has failed. -/
def TRun.read (t : TRun) (va n : Nat) : TRun × List Byte :=
  if t.bad.isSome then (t, List.replicate n 0)
  else match xlateRange t.s 1 va n false with
    | (s, .error f) => ({ t with s := s, bad := some f }, List.replicate n 0)
    | (s, .ok l) => ({ t with s := s, rd := t.rd ++ l, src := t.src ++ l, since := t.since ++ l }, readPieces t.base l)

/-- Read with `f` what the command has written so far: its own destination is no source (R206, R207). -/
def TRun.now {α : Type} (f : TRun → TRun × α) (t : TRun) : TRun × α :=
  let r := f { t with base := t.s.hostMem }
  ({ r.1 with base := t.base, src := t.src }, r.2)

/-- Put bytes over translated pieces. -/
def TRun.put (t : TRun) (l : List Piece) (bs : List Byte) : TRun :=
  { t with s := { t.s with hostMem := writePieces l bs t.s.hostMem }, wr := t.wr ++ l, bytes := t.bytes + bs.length,
           since := [], log := { reads := t.since, runs := l, bytes := bs } :: t.log }

/-- Write bytes in the job context; nothing once an access has failed. -/
def TRun.write (t : TRun) (va : Nat) (bs : List Byte) : TRun :=
  if t.bad.isSome then t
  else match xlateRange t.s 1 va bs.length true with
    | (s, .error f) => { t with s := s, bad := some f }
    | (s, .ok l) => TRun.put { t with s := s } l bs

/-- The writes of `f` count as one. -/
def TRun.joined (f : TRun → TRun) (t : TRun) : TRun :=
  let r := f { t with log := [] }
  let l := r.log.reverse
  { r with log := if l.isEmpty then t.log
      else { reads := l.flatMap (·.reads), runs := l.flatMap (·.runs), bytes := l.flatMap (·.bytes) } :: t.log }

/-- An element: its code and the scale code of its block; 0x7F where it has none. -/
abbrev Elem := Nat × Nat

/-- Read element [o, i0] of a tensor that holds elements. -/
def elemRead (d : Desc) (o : List Nat) (i0 : Nat) (t : TRun) : TRun × Elem :=
  let e := elemBits d.fmt
  let pl := d.place (o.getD 0 0) i0
  let u := d.unitVa o
  let r := t.read (u + pl.1 / 8) (ceilDiv (pl.1 % 8 + e) 8)
  let code := (leNat r.2 >>> (pl.1 % 8)) % 2 ^ e
  if d.scaled then
    let q := r.1.read (if d.layout = 0 then d.scaleRow o + i0 / 32 else u + pl.2) 1
    (q.1, (code, leNat q.2))
  else (r.1, (code, 127))

/-- Read a row of `n` elements under the clamp rules (R196). -/
def rowRead (d : Desc) (o : List Nat) (n : Nat) (t : TRun) : TRun × List Elem :=
  if d.empty then (t, List.replicate n (0, 127))
  else
    let o := (List.zip o (d.sizes.drop 1)).map fun x => min x.1 (x.2 - 1)
    let r := (List.range (min n (d.size 0))).foldl (fun (a : TRun × List Elem) i =>
      let q := elemRead d o i a.1
      (q.1, q.2 :: a.2)) (t, [])
    (r.1, r.2.reverse ++ List.replicate (n - d.size 0) (r.2.headD (0, 127)))

/-! ### Values -/

/-- The value of an element (R134 to R139). -/
def elemNum (fmt : Nat) (x : Elem) : Num :=
  if fmt = 10 then (Dy.num ⟨sext 32 x.1, 0⟩ false)
  else match elemFmt fmt with
    | some f => if isMx fmt then mxValue f x.2 x.1 else f.decode x.1
    | none => .nan

/-- A value as an element with no block scale (R137, R195). -/
def convElem (fmt : Nat) (x : Num) : Nat :=
  match elemFmt fmt with
  | none => 0
  | some f => match f.top, x with
    | .plain, .inf neg => f.encode (.fin neg f.maxM f.maxE)
    | _, _ => f.conv x

/-- A line of values as scale codes and element codes (R137, R138, R195). -/
def convLine (d : Desc) (l : List Num) : List Nat × List Nat :=
  if d.scaled then
    let q := (splitEvery 32 l).map (mxQuant d.fmt)
    (q.map (·.1), q.flatMap (·.2))
  else ([], l.map (convElem d.fmt))

/-- A line of elements kept as they are (R198): each block takes the scale of its first element. -/
def keepLine (d : Desc) (l : List Elem) : List Nat × List Nat :=
  ((if d.scaled then (splitEvery 32 l).map fun b => (b.headD (0, 127)).2 else []), l.map (·.1))

/-- Rows to columns. -/
def columns {α : Type} (dflt : α) (n : Nat) (rows : List (List α)) : List (List α) :=
  (List.range n).map fun j => rows.map fun r => r.getD j dflt

/-- Codes of one data block or record: 32 elements, zeros past the end. -/
def blockBytes (e : Nat) (l : List Nat) : List Byte := padTo (4 * e) (packElems e l)

/-- The bytes of a unit from its lines: columns for layout 1, rows otherwise (R142, R146, R192 to R194). -/
def Desc.image (d : Desc) (lines : List (List Nat × List Nat)) : List Byte :=
  let e := elemBits d.fmt
  let mx := isMx d.fmt
  let one := lines.headD ([], [])
  let at_ := fun (l : List Nat) o n => (l.drop o).take n
  match d.layout with
  | 1 =>
    let row := fun k => padTo d.rw (lines.flatMap fun c => padTo (e / 2) (packElems e (at_ c.2 k 4)))
    if mx then (List.range (ceilDiv (d.size 1) 32)).flatMap fun u =>
      (lines.map fun c => BitVec.ofNat 8 (c.1.getD u 127)) ++ List.replicate (d.rs - lines.length) 0x7F ++
      (List.range 8).flatMap fun g => row (32 * u + 4 * g)
    else (List.range (ceilDiv (d.size 1) 4)).flatMap fun g => row (4 * g)
  | 2 =>
    (splitEvery 64 lines).flatMap fun tb => (List.range (ceilDiv (d.size 0) 32)).flatMap fun k =>
      let tb := tb ++ List.replicate (64 - tb.length) ([], [])
      (if mx then tb.map fun r => BitVec.ofNat 8 (r.1.getD k 127) else []) ++
      tb.flatMap fun r => blockBytes e (at_ r.2 (32 * k) 32)
  | 3 =>
    (List.zip (splitEvery 2048 one.2) (splitEvery 64 one.1)).flatMap fun g =>
      let b := (g.2.map (BitVec.ofNat 8)) ++ List.replicate (64 - g.2.length) 0x7F ++
        (splitEvery 32 g.1).flatMap (blockBytes e)
      padTo (roundUp 64 b.length) b
  | 4 =>
    List.replicate 64 0 ++ (if mx then (splitEvery 32 one.2).flatMap (blockBytes e) else packElems e one.2) ++
      one.1.map (BitVec.ofNat 8)
  | _ => padTo (if e = 6 then 3 * ceilDiv one.2.length 4 else ceilDiv (e * one.2.length) 8) (packElems e one.2)

/-- Write a unit: its image, and its scale row where scales have a plane of their own. -/
def unitWrite (d : Desc) (o : List Nat) (lines : List (List Nat × List Nat)) (t : TRun) : TRun :=
  t.joined fun t =>
    let t := t.write (d.unitVa o) (d.image lines)
    if d.plane then t.write (d.scaleRow o) ((lines.headD ([], [])).1.map (BitVec.ofNat 8)) else t

/-- Rows of a unit. -/
def Desc.unitRows (d : Desc) : Nat := if d.planar then d.size 1 else 1

/-- The outer indices of the units, in flat order. -/
def Desc.units (d : Desc) : List (List Nat) :=
  ((List.range d.rows).map d.outer).filter fun o => !d.planar || decide (o.getD 0 0 = 0)

/-- Rows of a unit turned into lines by `f`. -/
def Desc.lines {α : Type} (d : Desc) (dflt : α) (f : List α → List Nat × List Nat) (rows : List (List α)) :
    List (List Nat × List Nat) :=
  (if d.layout = 1 then columns dflt (d.size 0) rows else rows).map f

/-! ### Fused forms -/

/-- A fused form (R172, R173). -/
structure Fused where
  act : Nat
  table : Option Table
  bias : Nat
  scale : Nat
  compat : Bool

/-- act(u) over a row (R172). -/
def Fused.act' (f : Fused) (l : List Num) : List Num :=
  match f.act with
  | 1 => l.map (sfuSigmoid f.compat)
  | 2 => sfuSoftmax f.compat l
  | 3 => l.map (sfuExp2 f.compat)
  | 4 => l.map (sfuLog2 f.compat)
  | 5 => l.map fun x => match f.table with
    | some t => tableEval t x
    | none => .nan
  | _ => l

/-- scale × act(x + bias) over a row, before the last conversion. -/
def Fused.row (f : Fused) (l : List Num) : List Num :=
  (f.act' (l.map fun x => fp32.add (fp32.round x) (f32 f.bias))).map fun a => (f32 f.scale).mulExact a

/-! ### What overlaps is open (R190, R201) -/

/-- The overlap of two pieces. -/
def pieceMeet (a b : Piece) : List Piece :=
  let lo := max a.pa b.pa
  let hi := min (a.pa + a.len) (b.pa + b.len)
  if lo < hi then [{ pa := lo, len := hi - lo }] else []

/-- Bytes written twice. -/
def selfMeets : List Piece → List Piece
  | [] => []
  | p :: r => r.flatMap (pieceMeet p) ++ selfMeets r

/-- Pieces merged from the first on; they stand in ascending order. -/
def unionFrom (cur : Piece) : List Piece → List Piece
  | [] => [cur]
  | q :: r =>
    if q.pa ≤ cur.pa + cur.len then unionFrom { cur with len := max cur.len (q.pa + q.len - cur.pa) } r
    else cur :: unionFrom q r

/-- The bytes that some pieces cover, each once, in ascending order. -/
def unionPieces (l : List Piece) : List Piece :=
  match sortBy (fun (a b : Piece) => decide (a.pa < b.pa)) l with
  | [] => []
  | p :: r => unionFrom p r

/-- The byte that a write puts at an address, if it does. -/
def byteOf (a : Nat) : List Piece → List Byte → Option Byte
  | [], _ => none
  | p :: r, bs => if p.pa ≤ a ∧ a < p.pa + p.len then bs[a - p.pa]? else byteOf a r (bs.drop p.len)

/-- A byte that several elements were written to ends as one of the values: which is open (R190; log 86). -/
def pickAt (l : List TEnt) (s : State) (a : Nat) : State :=
  let vals := l.filterMap fun e => byteOf a e.runs e.bytes
  { s with freeCtr := s.freeCtr + 1,
           hostMem := memWrite s.hostMem a [vals.getD (Config.freePick s.freeCtr % max 1 vals.length) 0] }

/-- The addresses of some pieces. -/
def addrsOf (l : List Piece) : List Nat := l.flatMap fun p => (List.range p.len).map (p.pa + ·)

/-- Every byte that the writes `l`, oldest first, put more than one element on. -/
def settleTwice (l : List TEnt) (s : State) : State :=
  (addrsOf (unionPieces (selfMeets (l.flatMap (·.runs))))).foldl (pickAt l) s

/-- What source and destination share (R201). -/
def TRun.shared (t : TRun) : List Piece := t.wr.flatMap fun w => t.src.flatMap (pieceMeet w)

/-- The tiles of a write: 4 KiB each (R211). -/
def cutRuns : Nat → List Piece → List Byte → List TTile
  | 0, _, _ => []
  | n + 1, l, bs =>
    if bs.isEmpty then []
    else
      let head := (l.foldl (fun (a : List (Nat × Nat) × Nat) p =>
        if a.2 = 0 then a else (a.1 ++ [(p.pa, min p.len a.2)], a.2 - min p.len a.2)) (([] : List (Nat × Nat)), 4096)).1
      let rest := (l.foldl (fun (a : List Piece × Nat) p =>
        if p.len ≤ a.2 then (a.1, a.2 - p.len) else (a.1 ++ [{ pa := p.pa + a.2, len := p.len - a.2 }], 0)) (([] : List Piece), 4096)).1
      { runs := head, bytes := bs.take 4096, count := (bs.take 4096).length } :: cutRuns n rest (bs.drop 4096)

/-- Tiles of one row count it with the last of them. -/
def rowCount : List TTile → List TTile
  | [] => []
  | [t] => [{ t with count := 1 }]
  | t :: r => { t with count := 0 } :: rowCount r

/-- The tiles of a command's writes, oldest first; `rows`: they count rows. -/
def tilesOf (rows : Bool) (l : List TEnt) : List TTile :=
  l.flatMap fun e => let c := cutRuns (e.bytes.length / 4096 + 1) e.runs e.bytes
    if rows then rowCount c else c

/-- What some tiles add to the count of bytes or rows written. -/
def tilesCount (l : List TTile) : Nat := sumN (l.map (·.count))

/-- Bytes that end open go with the last tile. -/
def tilesClose (l : List TTile) (fix : List Piece) (m : Mem) : List TTile :=
  if fix.isEmpty then l
  else match l.getLast? with
    | none => []
    | some t => l.dropLast ++ [{ t with runs := t.runs ++ fix.map (fun p => (p.pa, p.len)), bytes := t.bytes ++ readPieces m fix }]

/-- Write a tile. -/
def tileWrite (t : TTile) (s : State) : State :=
  { s with hostMem := writePieces (t.runs.map fun r => { pa := r.1, len := r.2 }) t.bytes s.hostMem }

/-- The run goes on for `n` tiles; it ends with its last, or is set aside, on every slice (R131, R211). -/
def tensorGo (n : Nat) (r : TensorRun) (s : State) : State :=
  let s := (r.tiles.take n).foldl (fun t x => tileWrite x t) { s with tensors := s.tensors.filter fun y => !sameCmd y.cmd r.cmd }
  let rest := r.tiles.drop n
  if rest.isEmpty then mmuRetire (finish r.cmd 0 r.r0 r.r1 0 0 s)
  else (List.range 4).foldl (fun t k => ctrInc (128 + 32 * k + 3) t)
    { s with tensors := { r with tiles := rest, done := r.done + tilesCount (r.tiles.take n) } :: s.tensors }

/-- Some data that a write derives from meets the poisoned request. -/
def TEnt.meets (p : Piece) (e : TEnt) : Bool := e.reads.any fun q => !(pieceMeet p q).isEmpty

/-- The command reads and writes what `t` says; host memory was `m` before it. A translation fault ends the job (R191); poisoned source data stops the
command before the first write derived from it (R212); another error of the memory port ends the job (R47). Otherwise its
tiles are written, `tiles` of them before it is set aside. `same`: the descriptors are identical (R201); `arr`: arrival mode,
which writes a row once per contribution (R207); `rows`: its final reply counts rows. -/
def tensorRun (t : TRun) (m : Mem) (io : Io) (tiles cls : Nat) (same arr rows : Bool) (c : OpenCmd) (r0 r1 : Nat) : State :=
  let log := t.log.reverse
  let s := { t.s with hostMem := m }
  let all := jobIo io t.rd t.wr (log.flatMap (·.bytes)) Where.none (fun _ =>
    let f := if same then t.s else freePieces t.shared t.s
    let f := if arr then f else settleTwice log f
    let fix := (if same then [] else unionPieces t.shared) ++ if arr then [] else unionPieces (selfMeets t.wr)
    tensorGo tiles { cmd := c, cls := cls, queued := none, tiles := tilesClose (tilesOf rows log) fix f.hostMem, done := 0, r0 := r0, r1 := r1 }
      { f with hostMem := m }) s
  match t.bad, io with
  | some f, _ => xlateFault f Where.none t.s
  | none, .bad e =>
    if isPoison e ∧ t.rd ≠ [] then
      let bad := ((reqsTo t.rd e s).getLast?).getD { pa := 0, len := 0 }
      let l := log.takeWhile fun x => !x.meets bad
      let s := (tilesOf rows l).foldl (fun u x => tileWrite x u) (readBroken t.rd e s)
      finish c 0x0406 (if rows then l.length else sumN (l.map (·.bytes.length))) 0 0 0 s
    else all
  | none, _ => all

/-- A tensor command starts, or waits behind another of its class (R210). -/
def tensorBegin (go : OpenCmd → State → State) (p : Packet) (x : Ext) (order : Nat) (c : OpenCmd) (s : State) : State :=
  if s.tensors.any fun r => decide (r.cls = p.cls.toNat) then
    { s with tensors := s.tensors ++
        [{ cmd := c, cls := p.cls.toNat, queued := some (heldOf .after p x order), tiles := [], done := 0, r0 := 0, r1 := 0 }] }
  else go c s

/-! ### TENSOR_COPY -/

/-- The fused form of a TENSOR_COPY, if fn_en is set. It belongs to no step: sfu.compat is that of the highest step taken
(log 76). -/
def fusedOf (p : Packet) (s : State) : Option Fused :=
  let w := p.p0.toNat
  if bit w 0 then
    some { act := bits w 3 1, bias := p.p1.toNat, scale := p.p2.toNat, compat := decide (curP s 0x0019 = 1),
           table := match epochNow s with
             | some e => e.tables.find? fun t => decide (t.index = bits w 6 4)
             | none => none }
  else none

/-- The checks of R174 and R199. -/
def copyRange (f : Option Fused) (src dst : Desc) : Bool :=
  match f with
  | none => decide (src.fmt = 10 ↔ dst.fmt = 10)
  | some f =>
    decide (f.act < 6) && decide (src.fmt ≠ 10) && decide (dst.fmt ≠ 10) && decide (src.layout = dst.layout) &&
    !(decide (f.act = 2) && decide (16384 < dst.size 0)) && !(decide (f.act = 5) && f.table.isNone)

/-- The rows of a destination unit as TENSOR_COPY reads them: outer indices of the destination, clamped per dimension. -/
def unitSource (src dst : Desc) (o : List Nat) (t : TRun) : TRun × List (List Elem) :=
  let r := (List.range dst.unitRows).foldl (fun (a : TRun × List (List Elem)) i =>
    let q := rowRead src (if dst.planar then o.set 0 i else o) (dst.size 0) a.1
    (q.1, q.2 :: a.2)) (t, [])
  (r.1, r.2.reverse)

/-- Produce one destination unit (R172, R198). -/
def copyUnit (f : Option Fused) (src dst : Desc) (t : TRun) (o : List Nat) : TRun :=
  let r := unitSource src dst o t
  let vals := r.2.map fun row => row.map (elemNum src.fmt)
  match f with
  | some f => unitWrite dst o (dst.lines Num.zero (convLine dst) (vals.map f.row)) r.1
  | none =>
    if src.fmt = dst.fmt then unitWrite dst o (dst.lines (0, 127) (keepLine dst) r.2) r.1
    else unitWrite dst o (dst.lines Num.zero (convLine dst) vals) r.1

/-- Run a TENSOR_COPY. -/
def runCopy (p : Packet) (x : Ext) (c : OpenCmd) (s : State) : State :=
  let b := pBody p
  let src := descOf b 0
  let dst := descOf b 64
  if dst.empty then finish c 0 0 0 0 0 s
  else
    let t := dst.units.foldl (copyUnit (fusedOf p s) src dst) (TRun.start s)
    tensorRun t s.hostMem x.io x.tiles p.cls.toNat (decide (b.take 64 = (b.drop 64).take 64)) false false c t.bytes 0

/-- TENSOR_COPY starts (R173, R174, R198 to R202). -/
def startTensorCopy (p : Packet) (x : Ext) (order : Nat) (s : State) : State :=
  let b := pBody p
  braceCmd 0x28 p x order
    { Checks.plain with len := fun n => decide (n = 128), range := copyRange (fusedOf p s) (descOf b 0) (descOf b 64) }
    (tensorBegin (runCopy p x) p x order) s

/-- TENSOR_COPY. -/
def execTensorCopy (p : Packet) (io : Io) (tiles : Nat) (s : State) : Host.Outcome State Fault Refusal :=
  let x := { Ext.ofIo io with tiles := tiles }
  live (takeCmd 0x28 p x (startTensorCopy p x)) s

/-! ### GATHER and SCATTER_ACC -/

/-- A tensor read in rows: layouts 1 and 2 are read as layout 0 (R203). -/
def Desc.byRows (d : Desc) : Desc := if d.planar then { d with layout := 0 } else d

/-- The index tensor: INT32 in layout 0 (R203). -/
def Desc.asIndex (d : Desc) : Desc := { d with fmt := 10, layout := 0 }

/-- Elements of a tensor. -/
def Desc.elems (d : Desc) : Nat := d.rows * d.size 0

/-- Index element `p`, clamped to a row number below `n` (R204, R205). -/
def indexAt (ix : Desc) (n p : Nat) (t : TRun) : TRun × Nat :=
  let q := min p (ix.elems - 1)
  let r := elemRead ix (ix.outer (q / ix.size 0)) (q % ix.size 0) t
  (r.1, (max 0 (min (sext 32 r.2.1) ((n : Int) - 1))).toNat)

/-- The INT32 code of a value, which no rule gives (R137; log 85). -/
def intCode (x : Num) : Nat := Config.freeInt (w36.encode x) % 2 ^ 32

/-- Copy row `q` of the source to row `r` of the destination under R198; it lies in the destination's layout (log 77). -/
def rowCopy (src dst : Desc) (q r : Nat) (t : TRun) : TRun :=
  let x := rowRead src (src.outer q) (dst.size 0) t
  if src.fmt = dst.fmt then unitWrite dst (dst.outer r) [keepLine dst x.2] x.1
  else if dst.fmt = 10 then unitWrite dst (dst.outer r) [([], x.2.map fun e => intCode (elemNum src.fmt e))] x.1
  else unitWrite dst (dst.outer r) [convLine dst (x.2.map (elemNum src.fmt))] x.1

/-- Run a GATHER. -/
def runGather (p : Packet) (x : Ext) (c : OpenCmd) (s : State) : State :=
  let b := pBody p
  let src := (descOf b 0).byRows
  let ix := (descOf b 64).asIndex
  let dst := (descOf b 128).byRows
  if ix.empty then finish c 0 0 0 0 0 s
  else
    let t := (List.range dst.rows).foldl (fun t r =>
      let q := indexAt ix src.rows r t
      rowCopy src dst q.2 r q.1) (TRun.start s)
    tensorRun t s.hostMem x.io x.tiles p.cls.toNat (decide (b.take 64 = (b.drop 128).take 64)) false true c dst.rows 0

/-- GATHER starts (R203, R204). -/
def startGather (p : Packet) (x : Ext) (order : Nat) (s : State) : State :=
  braceCmd 0x29 p x order { Checks.plain with len := fun n => decide (n = 192) } (tensorBegin (runGather p x) p x order) s

/-- GATHER. -/
def execGather (p : Packet) (io : Io) (tiles : Nat) (s : State) : Host.Outcome State Fault Refusal :=
  let x := { Ext.ofIo io with tiles := tiles }
  live (takeCmd 0x29 p x (startGather p x)) s

/-- The target row of every source row. -/
def targets (src ix dst : Desc) (t : TRun) : TRun × List Nat :=
  let r := (List.range src.rows).foldl (fun (a : TRun × List Nat) p =>
    let q := indexAt ix dst.rows p a.1
    (q.1, q.2 :: a.2)) (t, [])
  (r.1, r.2.reverse)

/-- Add source rows `ps`, in order, to row `r` with one rounding at the end (R206); INT32 sums wrap (R208). The
destination's own bytes are read before they are written, so they are no source. The row lies in the destination's layout
(log 77). -/
def accRow (src dst : Desc) (r : Nat) (ps : List Nat) (t : TRun) : TRun :=
  let n := dst.size 0
  let cur := t.now (rowRead dst (dst.outer r) n)
  let q := ps.foldl (fun (a : TRun × List (List Elem)) p =>
    let x := rowRead src (src.outer p) n a.1
    (x.1, x.2 :: a.2)) (cur.1, [])
  let rows := q.2.reverse
  if dst.fmt = 10 then
    let sums := rows.foldl (fun (a : List Nat) row => List.zipWith (fun u v => (u + v.1) % 2 ^ 32) a row) (cur.2.map (·.1))
    unitWrite dst (dst.outer r) [([], sums)] q.1
  else
    let sums := rows.foldl (fun (a : List Num) row =>
        List.zipWith (fun u v => fp32.add u (fp32.round (elemNum src.fmt v))) a row)
      (cur.2.map fun v => fp32.round (elemNum dst.fmt v))
    unitWrite dst (dst.outer r) [convLine dst sums] q.1

/-- The order in which arrival mode applies contributions: the host memory's, completed in ascending order. -/
def arrivalOrder (n : Nat) (arrival : List Nat) : List Nat :=
  let l := dedup (arrival.filter fun p => decide (p < n))
  l ++ (List.range n).filter fun p => !l.contains p

/-- Source rows whose target was targeted by a lower-numbered one (R209); with no destination row it is open. -/
def collisions (dst : Desc) (n : Nat) (tg : List Nat) (t : TRun) : TRun × Nat :=
  if dst.rows = 0 then
    let f := freeBytes t.s 4
    ({ t with s := f.1 }, leNat f.2)
  else (t, n - (dedup tg).length)

/-- Run a SCATTER_ACC. -/
def runScatter (p : Packet) (x : Ext) (c : OpenCmd) (s : State) : State :=
  let b := pBody p
  let src := (descOf b 0).byRows
  let ix := (descOf b 64).asIndex
  let dst := (descOf b 128).byRows
  let arr := bit p.p0.toNat 0 && !s.job.desc.deterministic
  if ix.empty ∨ src.rows = 0 then finish c 0 0 (b01 arr) 0 0 s
  else
    let y := targets src ix dst (TRun.start s)
    let tg := y.2
    let t := if dst.rows = 0 then y.1
      else if arr then (arrivalOrder src.rows x.arrival).foldl (fun t q => accRow src dst (tg.getD q 0) [q] t) y.1
      else (dedup tg).foldl (fun t r => accRow src dst r ((List.range src.rows).filter fun q => decide (tg.getD q 0 = r)) t) y.1
    let k := collisions dst src.rows tg t
    tensorRun k.1 s.hostMem x.io x.tiles p.cls.toNat (decide (b.take 64 = (b.drop 128).take 64)) arr true c k.2 (b01 arr)

/-- SCATTER_ACC starts (R205 to R209). -/
def startScatterAcc (p : Packet) (x : Ext) (order : Nat) (s : State) : State :=
  let b := pBody p
  braceCmd 0x2A p x order
    { Checks.plain with len := fun n => decide (n = 192), range := decide ((descOf b 0).fmt = 10 ↔ (descOf b 128).fmt = 10) }
    (tensorBegin (runScatter p x) p x order) s

/-- SCATTER_ACC. -/
def execScatterAcc (p : Packet) (io : Io) (arrival : List Nat) (tiles : Nat) (s : State) : Host.Outcome State Fault Refusal :=
  let x := { Ext.ofIo io with arrival := arrival, tiles := tiles }
  live (takeCmd 0x2A p x (startScatterAcc p x)) s

/-! ### Going on (R210, R211) -/

/-- What a held command is answered with from outside. -/
def Held.ext (h : Held) : Ext := { io := h.io, arrival := h.arrival, tiles := h.tiles, verdict := h.verdict, key := h.key }

/-- Run a tensor command that has waited. -/
def tensorStart (h : Held) (c : OpenCmd) (s : State) : State :=
  match h.cmd.opcode.toNat with
  | 0x28 => runCopy h.cmd h.ext c s
  | 0x29 => runGather h.cmd h.ext c s
  | _ => runScatter h.cmd h.ext c s

/-- The first command of a class that waits, with none of its class under way. -/
def tensorNext (s : State) (cls : Nat) : Option (TensorRun × Held) :=
  match s.tensors.find? fun r => decide (r.cls = cls) with
  | some r => r.queued.map fun h => (r, h)
  | none => none

/-- The commands of a class that waited start, each when the one before it has ended. -/
def tensorPump (cls : Nat) : Nat → State → State
  | 0, s => s
  | n + 1, s => match tensorNext s cls with
    | none => s
    | some (r, h) =>
      tensorPump cls n (tensorStart h r.cmd { s with tensors := s.tensors.filter fun y => !sameCmd y.cmd r.cmd })

/-- The tensor command of a class that was set aside goes on for `n` tiles. -/
def tensorOn (cls n : Nat) (s : State) : State :=
  match s.tensors.find? fun r => decide (r.cls = cls) && r.queued.isNone with
  | none => s
  | some r => if 0 < n then let s := tensorGo n r s; tensorPump cls s.tensors.length s else s

/-- The tensor command of a class that was set aside meets poisoned data: it stops and ends ST_POISONED with what it has written
so far, and the next of its class starts (R210, R212). -/
def tensorPoison (cls : Nat) (s : State) : State :=
  match s.tensors.find? fun r => decide (r.cls = cls) && r.queued.isNone with
  | none => s
  | some r =>
    let s := mmuRetire (finish r.cmd 0x0406 r.done 0 0 0 { s with tensors := s.tensors.filter fun y => !sameCmd y.cmd r.cmd })
    tensorPump cls s.tensors.length s

/-- JOB_CLOSE with abort: every tensor command stops and ends ST_CANCELLED (R212). -/
def tensorAbort (s : State) : State :=
  mmuRetire (s.tensors.foldl (fun t r => finish r.cmd 0x0404 0 0 0 0 t) { s with tensors := [] })

end Sys2Proof.Machine
end

