-- ==== Sys2Proof/Machine/Score.lean ====
section
/-! DEFINITION. Stages 2 to 11 of a step as functions of its rows (R110 to R119, R140 to R150, R215, R218), the router read
(R106, R142, R152), and stochastic rounding (R389, R390). -/

namespace Sys2Proof.Machine

/-! ### Router -/

/-- The element format code of w_fmt (R102). -/
def wFmtCode (w : Nat) : Nat := match w with
  | 0 => 1 | 1 => 3 | 2 => 4 | 3 => 5 | _ => 9

/-- K elements per weight set (R140). -/
def setLen (w : Nat) : Nat := if w = 0 then 64 else if w = 4 then 256 else 128

/-- Columns of the router (R102). -/
def routerCols (l : Layer) : Nat := l.nExperts + b01 l.exitEn

/-- The router as a [d, N] array in layout code 1 (R142). -/
def routerDesc (l : Layer) (d : Nat) : Desc :=
  { fmt := wFmtCode l.wFmt, layout := 1, grp := false, base := l.wAddr, sizes := [routerCols l, d, 1, 1, 1],
    strides := [0, 0, 0, 0], scaleVa := 0, scaleStride := 0 }

/-- The router's bytes. -/
def routerBytes (r : Desc) (d : Nat) : Nat :=
  if isMx r.fmt then ceilDiv d 32 * (r.rs + 8 * r.rw) else ceilDiv d 4 * r.rw

/-- Slice `i`'s columns: first and one past the last (R141). -/
def sliceCols (l : Layer) (i : Nat) : Nat × Nat :=
  (i * l.nExperts / 4, if i = 3 then routerCols l else (i + 1) * l.nExperts / 4)

/-- Byte ranges of the router that slice `i` reads: its columns of each group row, and their scale bytes (R143). -/
def sliceRanges (l : Layer) (d i : Nat) : List (Nat × Nat) :=
  let r := routerDesc l d
  let c := sliceCols l i
  let e := elemBits r.fmt
  let row := fun o => (o + c.1 * e / 2, (c.2 - c.1) * e / 2)
  if isMx r.fmt then (List.range (ceilDiv d 32)).flatMap fun u =>
    let o := u * (r.rs + 8 * r.rw)
    (o + c.1, c.2 - c.1) :: (List.range 8).map fun g => row (o + r.rs + g * r.rw)
  else (List.range (ceilDiv d 4)).map fun g => row (g * r.rw)

/-- The lowest slice whose port reads a poisoned word of a resident router (R152, R313). -/
def routerPoison (s : State) (l : Layer) (d : Nat) : Option Nat :=
  (List.range 4).find? fun i => (sliceRanges l d i).any fun r => decide (0 < r.2) && spPoisoned s (l.wAddr + r.1) r.2

/-- Read the router for a step of `n` tokens, resident or streamed, and go on with its bytes; a step of no tokens reads none
of it. Poisoned words and failed reads end the job (R47, R106, R152 to R154). -/
def withRouter (l : Layer) (d n : Nat) (io : Io) (w : Where) (go : List Byte → State → State) (s : State) : State :=
  let len := routerBytes (routerDesc l d) d
  if n = 0 then go [] s
  else if l.routerSrc then
    match xlateRange s 1 l.wAddr len false with
    | (s, .error f) => xlateFault f w s
    | (s, .ok ps) => jobIo io ps [] [] w (fun s => go (readPieces s.hostMem ps) s) s
  else match routerPoison s l d with
    | some i => jobFault (0x10 + i) 0x0406 4 w s
    | none => go (spRead s l.wAddr len) (spCount l.wAddr len s)

/-! ### What the checks of a slice find (R121, R152, R185, R403; log 82) -/

/-- Bits [31:16] of the fault's detail: the check's code, and of a score-engine column the engine and column (R497). -/
def unitDetail : UnitErr → Nat
  | .keyring _ => 0
  | .weight => 4
  | .column e c => 3 + (e % 2 * 128 + c % 128) * 2 ^ 8
  | .rom => 1
  | .table => 2
  | .sfuAdder => 3
  | .operand => 4
  | .tumbler => 3
  | .adder => 3

/-- The word is protected by SECDED, which corrects a single error. -/
def unitSecded : UnitErr → Bool
  | .keyring _ => true
  | .weight => true
  | .table => true
  | _ => false

/-- The correction is counted: of a router word or operand buffer, of a loaded table (R152, R185). -/
def unitCount : UnitErr → State → State
  | .weight, s => ctrInc 25 s
  | .table, s => ctrInc 26 s
  | _, s => s

/-- One error: corrected, or the end of the job, naming the slice. -/
def foundOne (w : Where) (s : State) (f : Found) : State :=
  if f.single && unitSecded f.err then unitCount f.err s else jobFault (0x10 + f.slice % 4) 0x0406 (unitDetail f.err) w s

/-- Every error, in order. -/
def foundAll (w : Where) (l : List Found) (s : State) : State := l.foldl (foundOne w) s

/-- Weight [k, n] of a router's bytes. -/
def weightAt (r : Desc) (b : List Byte) (k n : Nat) : Num :=
  let p := r.place k n
  let e := elemBits r.fmt
  let code := (leAt b (p.1 / 8) (ceilDiv (p.1 % 8 + e) 8) >>> (p.1 % 8)) % 2 ^ e
  elemNum r.fmt (code, if isMx r.fmt then leAt b p.2 1 else 127)

/-- Column `n` as values. -/
def columnOf (r : Desc) (b : List Byte) (d n : Nat) : List Num := (List.range d).map fun k => weightAt r b k n

/-! ### Stage 2 -/

/-- Normalised row (R110, R171). The mean stays a W36 value; the difference from it is rounded once (log 75). -/
def normRow (l : Layer) (compat : Bool) (x : List Num) : List Num :=
  let gain := l.gain.map f32
  match l.norm with
  | 1 =>
    let r := sfuRsqrt compat (w36.add (rowMeanSq x) (f32 l.eps))
    List.zipWith (fun v g => fp32.mul (fp32.mul v r) g) x gain
  | 2 =>
    let mu := rowMean x
    let r := sfuRsqrt compat (w36.add (rowVar x) (f32 l.eps))
    List.zipWith (fun (p : Num × Num) o => fp32.add (fp32.mul (fp32.mul (fp32.add p.1 mu.neg) r) p.2) o)
      (List.zip x gain) (l.offset.map f32)
  | _ => x

/-- The row in the score operand format: block scales and codes (R110, R140). -/
def operandRow (wFmt : Nat) (y : List Num) : List Nat × List Nat :=
  if wFmt = 0 then ([], y.map bf16.conv)
  else
    let q := (splitEvery 32 y).map (mxQuant 5)
    (q.map (·.1), q.flatMap (·.2))

/-- The operand's values. -/
def operandNums (wFmt : Nat) (o : List Nat × List Nat) : List Num :=
  if wFmt = 0 then o.2.map bf16.decode
  else (List.zip (List.range o.2.length) o.2).map fun x => mxValue e4m3 (o.1.getD (x.1 / 32) 127) x.2

/-! ### Stage 3 and 4 -/

/-- The rounded set sums of a column, in ascending K (R147, R148). -/
def setSums (ck : Nat) (a w : List Num) : List Num :=
  (splitEvery ck (List.zipWith Num.mulExact a w)).map (sumRound fp32)

/-- Accumulate set sums from +0 (R147). -/
def accumulate (l : List Num) : Num := l.foldl fp32.add .zero

/-- Go on from `v`, which holds the first `k` set sums, over the sums below `n` (R147, R151). -/
def accumulateFrom (k : Nat) (v : Num) (n : Nat) (sums : List Num) : Num := ((sums.take n).drop k).foldl fp32.add v

/-- A logit; `split` is the weight set at which a stolen panel is split, 0 for none (R150); `start`, the accumulator of an engine
that set the panel aside, and the weight sets it holds (R151). -/
def logit (ck split : Nat) (start : Option (Nat × Num)) (a w : List Num) : Num :=
  let sums := setSums ck a w
  let st := start.getD (0, Num.zero)
  if st.1 < split ∧ split < sums.length then
    fp32.add (accumulateFrom st.1 st.2 split sums) (accumulate (sums.drop split))
  else accumulateFrom st.1 st.2 sums.length sums

/-- Bytes of an operand row in the operand buffer (R145). -/
def rowBytes (wFmt d : Nat) : Nat := if wFmt = 0 then 2 * d else d + d / 32

/-- Token positions of one block (R145). -/
def blockLen (wFmt d : Nat) : Nat := min 64 (524288 / rowBytes wFmt d)

/-- The panel of a column, numbered over all slices (R141). -/
def panelOf (l : Layer) (n : Nat) : Nat :=
  let i := ((List.range 4).find? fun i => decide (n < (sliceCols l i).2)).getD 3
  i * 256 + (n - (sliceCols l i).1) / 80

/-! ### Stages 5 to 10 -/

/-- Gates of all experts; +0 for the disabled ones (R112). -/
def gates (l : Layer) (compat : Bool) (on : List Bool) (lg : List Num) : List Num :=
  let z := lg.map fun x => fp32.mul (f32 l.logitScale) x
  if l.gate then List.zipWith (fun e x => if e then sfuSigmoid compat x else Num.zero) on z
  else
    let live := (List.zip on z).filter (·.1)
    let sm := sfuSoftmax compat (live.map (·.2))
    (on.foldl (fun (a : List Num × List Num) e =>
      if e then (a.1.headD Num.zero :: a.2 |> fun r => (a.1.drop 1, r)) else (a.1, Num.zero :: a.2)) (sm, [])).2.reverse

/-- Ranked before: a NaN ranks below every number; equal scores keep their order (R114, R115). -/
def ranksBefore (a b : Nat × Num) : Bool :=
  if a.2.isNan then false else if b.2.isNan then true else b.2.lt a.2

/-- Indices by descending score. -/
def ranked (l : List (Nat × Num)) : List (Nat × Num) := sortBy ranksBefore l

/-- A group's score, if it has an enabled expert (R114). -/
def groupScore (rank2 : Bool) (l : List (Nat × Num)) : Option Num :=
  match ranked l with
  | [] => none
  | [a] => some a.2
  | a :: b :: _ => some (if rank2 then fp32.add a.2 b.2 else a.2)

/-- The enabled experts, with their scores, that the group limit leaves eligible (R114). -/
def eligible (l : Layer) (cand : List (Nat × Num)) : List (Nat × Num) :=
  if l.gKeep = 0 then cand
  else
    let g := l.nExperts / l.nGroups
    let scores := (List.range l.nGroups).filterMap fun i =>
      (groupScore l.groupRank (cand.filter fun c => decide (c.1 / g = i))).map fun x => (i, x)
    let kept := ((ranked scores).take l.gKeep).map (·.1)
    cand.filter fun c => kept.contains (c.1 / g)

/-- The selected experts in rank order (R113 to R115). -/
def selectExperts (l : Layer) (ents : List DWord) (g : List Num) : List Nat :=
  let cand := (List.zip (List.range ents.length) (List.zip ents g)).filterMap fun x =>
    if krEnable x.2.1 then some (x.1, fp32.add x.2.2 (Dy.num ⟨krBias x.2.1, -15⟩ false)) else none
  ((ranked (eligible l cand)).take l.k).map (·.1)

/-- The weights of the selected gates (R116). -/
def weightsOf (l : Layer) (compat : Bool) (g : List Num) : List Num :=
  let rs := f32 l.routeScale
  if l.renorm then
    let sum := match g with
      | [] => Num.zero
      | x :: r => r.foldl fp32.add x
    let rec_ := sfuRecip compat sum
    g.map fun x => fp32.mul (fp32.mul x rec_) rs
  else g.map fun x => fp32.mul rs x

/-- The probe fires (R117). -/
def probeFires (l : Layer) (compat : Bool) (p : Num) : Bool :=
  let v := sfuSigmoid compat p
  l.exitEn && !v.isNan && !v.lt (f32 l.exitThresh)

/-! ### Tiles (R215, R389, R390) -/

/-- The element format code of tile_fmt (R98). -/
def tileCode (t : Nat) : Nat := match t with
  | 0 => 1 | 1 => 5 | 2 => 6 | 3 => 7 | 4 => 8 | _ => 9

/-- A send tile as a layout-4 row of d elements. -/
def tileDesc (fmt d : Nat) : Desc :=
  { fmt := tileCode fmt, layout := 4, grp := false, base := 0, sizes := [d, 1, 1, 1, 1], strides := [0, 0, 0, 0],
    scaleVa := 0, scaleStride := 0 }

/-- Bytes of a tile without its header (R100). -/
def tileData (fmt d : Nat) : Nat :=
  let c := tileCode fmt
  d * elemBits c / 8 + if isMx c then d / 32 else 0

/-- The rounding bits of element `i` (R389). -/
def srBits (seed step layer token i : Nat) : Nat :=
  let blk := leBytes 16 (step + layer * 2 ^ 48 + token * 2 ^ 64 + (i / 8) * 2 ^ 80)
  leAt (aes128 (leBytes 16 seed) blk) (2 * (i % 8)) 2

/-- Stochastic rounding of a value to an element (R390). -/
def srConv (f : Fmt) (r : Nat) (v : Num) : Nat :=
  match v with
  | .fin neg m e =>
    if m = 0 ∨ dyGt m e f.maxM f.maxE then f.conv v
    else
      let qe := max ((m.log2 : Int) + e - f.mb) f.emin
      if qe ≤ e then f.conv v
      else
        let sh := (qe - e).toNat
        let lo := m / 2 ^ sh
        let frac := m % 2 ^ sh * 65536 / 2 ^ sh
        let k := if r < frac then lo + 1 else lo
        let k := if dyGt k qe f.maxM f.maxE then lo else k
        f.encode (.fin neg k qe)
  | _ => f.conv v

/-- One line of a tile with stochastic rounding: the scale is that of R138. -/
def srLine (fmt seed step layer token : Nat) (y : List Num) : List Nat × List Nat :=
  let c := tileCode fmt
  let idx := List.zip (List.range y.length) y
  match elemFmt c with
  | none => ([], [])
  | some f =>
    if isMx c then
      let q := (splitEvery 32 idx).map fun (b : List (Nat × Num)) =>
        match mxScale c (b.map fun (v : Nat × Num) => v.2) with
        | some x => ((x + 127).toNat,
            b.map fun (v : Nat × Num) => srConv f (srBits seed step layer token v.1) (scaleBy v.2 (-x)))
        | none => (255, b.map fun (_ : Nat × Num) => 0)
      (q.map (·.1), q.flatMap (·.2))
    else ([], idx.map fun (v : Nat × Num) => srConv f (srBits seed step layer token v.1) v.2)

/-- The data region and scale bytes of a token's send tile (R215). -/
def sendTile (j : JobDesc) (step layer token : Nat) (y : List Num) : List Byte :=
  let d := tileDesc j.tileFmt j.d
  let line := if j.stochRound then srLine j.tileFmt j.seed step layer token y else convLine d y
  (d.image [line]).drop 64

/-- The elements of a tile's data region as values. -/
def tileNums (fmt d : Nat) (b : List Byte) : List Num :=
  let t := tileDesc fmt d
  let full := List.replicate 64 0 ++ b
  (List.range d).map fun i =>
    let p := t.place 0 i
    let e := elemBits t.fmt
    let code := (leAt full (p.1 / 8) (ceilDiv (p.1 % 8 + e) 8) >>> (p.1 % 8)) % 2 ^ e
    elemNum t.fmt (code, if isMx t.fmt then leAt full p.2 1 else 127)

/-! ### The sort (R118, R218) -/

/-- Key order: destination, local slot, token. -/
def copyBefore (a b : Copy) : Bool :=
  if a.dest ≠ b.dest then decide (a.dest < b.dest)
  else if a.localSlot ≠ b.localSlot then decide (a.localSlot < b.localSlot)
  else decide (a.token < b.token)

/-- Number the copies of each destination's run. -/
def numberRuns : Nat → Nat → List Copy → List Copy
  | _, _, [] => []
  | dst, n, c :: r =>
    let p := if c.dest = dst then n else 0
    { c with pos := p } :: numberRuns c.dest (p + 1) r

/-- The copies of a step, sorted, with their positions. -/
def sortCopies (l : List Copy) : List Copy := numberRuns 65536 0 (sortBy copyBefore l)

/-- A token's copies (R118). -/
def copiesOf (own : Nat) (ents : List DWord) (t : TokSel) : List Copy :=
  (List.zip (List.range t.picks.length) t.picks).map fun x =>
    let e := ents.getD x.2.expert 0
    { token := t.token, rank := x.1, expert := x.2.expert, dest := if krHomed e then krSeat e else own,
      localSlot := krSlot e, pos := 0, sent := false, acked := false, answered := false, seq := 0 }

/-! ### A scored step -/

/-- What stages 2 to 10 give for one token, with the intermediates that digests cover (R398). -/
structure Scored where
  sel : TokSel
  /-- The probe fired in this step (R117). -/
  fired : Bool
  short : Bool
  tile : List Byte
  logits : List Num
  gate : List Num
  operand : List Nat × List Nat

/-- What scoring a token needs. -/
structure ScoreIn where
  layer : Layer
  ents : List DWord
  cols : List (List Num)
  compat : Bool
  job : JobDesc
  step : Nat
  splits : Nat → Nat → Nat
  /-- The accumulator that a token and column go on from, with the weight sets it holds (R151). -/
  starts : Nat → Nat → Option (Nat × Num)

/-- The operand row of a token (R110). -/
def ScoreIn.operand (i : ScoreIn) (x : List Num) : List Nat × List Nat :=
  operandRow i.layer.wFmt (normRow i.layer i.compat x)

/-- An exited token with its operand row. -/
def scoredExit (t : Nat) (op : List Nat × List Nat) : Scored :=
  { sel := { token := t, exited := true, picks := [] }, fired := false, short := false, tile := [], logits := [],
    gate := [], operand := op }

/-- Score one token whose exit bit is clear. -/
def scoreToken (i : ScoreIn) (t : Nat) (x : List Num) : Scored :=
  let l := i.layer
  let y := normRow l i.compat x
  let op := i.operand x
  let a := operandNums l.wFmt op
  let ck := setLen l.wFmt
  let lg := (List.zip (List.range i.cols.length) i.cols).map fun c =>
    logit ck (i.splits (t / blockLen l.wFmt i.job.d) (panelOf l c.1)) (i.starts t c.1) a c.2
  let on := i.ents.map krEnable
  if probeFires l i.compat (lg.getD l.nExperts Num.zero) then
    { scoredExit t op with fired := true, logits := lg }
  else
    let g := gates l i.compat on (lg.take l.nExperts)
    let ex := selectExperts l i.ents g
    let w := weightsOf l i.compat (ex.map fun e => g.getD e Num.zero)
    { sel := { token := t, exited := false,
               picks := List.zipWith (fun e v => { expert := e, weight := fp32.encode v }) ex w },
      fired := false, short := decide (ex.length < l.k), tile := sendTile i.job i.step l.layer t y, logits := lg, gate := g,
      operand := op }

/-! ### Digests (R398) -/

/-- FP32 values as bytes. -/
def f32Bytes (l : List Num) : List Byte := l.flatMap fun x => leBytes 4 (fp32.encode x)

/-- The codes that det.dig_sel names, in the order of its positions (R398, R400). -/
def digestCodes (sel : Nat) : List (Option Nat) :=
  [if bit sel 0 then some 0 else none, if bit sel 1 then some 1 else none,
   if bits sel 4 2 < 2 then none else some (bits sel 4 2), if bits sel 7 5 < 2 then none else some (bits sel 7 5)]

/-- Bytes of streams 0, 2, 3, 4 and 7 for one token. -/
def digestBytes (l : Layer) (tile7 : Nat × List Nat → List Byte) (code : Nat) (r : Scored) : List Byte :=
  match code with
  | 0 => f32Bytes r.logits
  | 2 => if r.sel.exited then List.replicate (4 * l.nExperts) 0 else f32Bytes r.gate
  | 3 =>
    (List.range l.k).flatMap fun j => match r.sel.picks[j]? with
      | some p => leBytes 2 p.expert ++ leBytes 2 0 ++ leBytes 4 p.weight
      | none => leBytes 2 0xFFFF ++ leBytes 6 0
  | 4 => if r.sel.picks.isEmpty then [] else r.tile
  | _ => tile7 (l.wFmt, r.operand.2) ++ r.operand.1.map (BitVec.ofNat 8)

/-- Codes of an operand row as bytes. -/
def operandBytes (x : Nat × List Nat) : List Byte := packElems (if x.1 = 0 then 16 else 8) x.2

end Sys2Proof.Machine
end

