-- ==== Sys2Proof/Machine/Coll.lean ====
section
/-! DEFINITION. Collectives (R286 to R306): groups, the ring, credits, length rounds, adders and writes, and the bias-loop
sums. -/

namespace Sys2Proof.Machine

/-! ### The close fence (R90, R277) -/

/-- Every slot is Idle or Done, no collective or tensor command is left, and no command of the job is held by brace. -/
def jobQuiet (s : State) : Bool :=
  s.slots.all (fun x => decide (x.st = .idle ∨ x.st = .done)) && s.coll.ops.isEmpty && s.tensors.isEmpty &&
  !s.latch.held.any fun h => decide (h.why ≠ .after) && jobScope h.cmd.opcode.toNat

/-- The job's close fence starts, once: a FENCE over every VC and every member (R90, R277). -/
def closeTry (s : State) : State :=
  if s.job.st = .draining ∧ jobQuiet s = true ∧ s.job.closeFence = false ∧
      (s.kft.fences.any fun f => f.cmd.isNone) = false then
    fenceStart none (s.job.members.filter fun m => decide (m ≠ getP s 0x0001)) [1, 2, 3, 4, 5] s
  else s

/-! ### Groups -/

/-- Owner number of the collectives (R321). -/
def ownerColl : Nat := 10

/-- Staging is taken as by an owner with a reserve of 0 (R324). -/
def ownerStaging : Nat := 12

/-- A group's definition. -/
def groupAt (s : State) (g : Nat) : Option Group := s.coll.groups.find? fun x => decide (x.num = g)

/-- Index of a seat in a list of members. -/
def memberIndex (l : List Nat) (seat : Nat) : Option Nat :=
  match l.findIdx? fun m => decide (m = seat) with
  | some i => some i
  | none => none

/-- Extent of level `l`, counted from 1. -/
def Group.ext (g : Group) (l : Nat) : Nat := g.extents.getD (l - 1) 1

/-- Digit of member `m` at level `l` (R287). -/
def Group.digit (g : Group) (m l : Nat) : Nat :=
  match l with
  | 1 => m % g.ext 1
  | 2 => m / g.ext 1 % g.ext 2
  | _ => m / g.ext 1 / g.ext 2 % g.ext 3

/-- Product of the extents below level `l` (R296). -/
def Group.below (g : Group) (l : Nat) : Nat := if l ≤ 1 then 1 else if l = 2 then g.ext 1 else g.ext 1 * g.ext 2

/-- Start digit of chunk `c` at level `l`. -/
def Group.start (g : Group) (c l : Nat) : Nat := c / g.below l % g.ext l

/-- Owner digit of chunk `c` at level `l`. -/
def Group.owner (g : Group) (c l : Nat) : Nat := (g.start c l + g.ext l - 1) % g.ext l

/-- Seat of the member `by_` places on from member `m` in its level-`l` ring. -/
def Group.peer (g : Group) (m l by_ : Nat) : Nat :=
  let d := g.digit m l
  let n := (d + by_) % g.ext l
  g.members.getD (m + n * g.below l - d * g.below l) 0

/-- Elements of a chunk (R292). -/
def chunkElems (code : Nat) (half : Bool) : Nat :=
  let n := if code = 0 then 960 else if code = 1 then 4032 else 16320
  if half then 2 * n + 64 else n

/-- Staging cells of a group (R293). -/
def stagingCells (g : Group) : Nat := g.nLevels * 2 * 2 * g.bufs

/-- Take `n` staging cells of one pool, or none. -/
def takeStaging (pool : Nat) (use : CellUse) : Nat → State → Option State
  | 0, s => some s
  | n + 1, s => if mayTake s ownerStaging pool then takeStaging pool use n (takeCell ownerStaging pool 1 use s) else none

/-- Install a group with its staging (R293); its edges and its host queue start afresh (R289). -/
def installGroup (g : Group) (s : State) : Option State :=
  let s := freeCells (fun u => decide (u = .group g.num)) s
  match takeStaging (g.chunk + 1) (.group g.num) (stagingCells g) s with
  | none => none
  | some s =>
    let keep := fun (e : EdgeCount) => decide (e.edge.group ≠ g.num)
    some { s with coll := { s.coll with groups := s.coll.groups.filter (fun x => decide (x.num ≠ g.num)) ++ [g],
                                        sent := s.coll.sent.filter keep, credits := s.coll.credits.filter keep,
                                        freed := s.coll.freed.filter keep,
                                        busy := s.coll.busy.filter (fun b => decide (b.edge.group ≠ g.num)),
                                        retired := s.coll.retired.filter fun r => !decide (r.1 = g.num ∧ r.2.1 = false) } }

/-- Group 0: a single-level ring in member-list order (R289, R290). -/
def groupZero (members : List Nat) : Group :=
  { num := 0, nLevels := 1, extents := [members.length, 1, 1], sw := [1], chunk := 1, bufs := 2, planeMask := 0xFF,
    members := members, defCrc := crc32c (members.flatMap fun m => leBytes 2 m), hostSeq := 0 }

/-- The group of an image (R286, R287). -/
def groupOf (b : List Byte) : Group :=
  let w := leAt b 0 64
  let nl := bits w 26 25
  let ext := fun i => if i < nl then bits w (79 + 64 * i) (64 + 64 * i) else 1
  let stride := fun i => if i < nl then sext 16 (bits w (95 + 64 * i) (80 + 64 * i)) else 0
  let e := [ext 0, ext 1, ext 2]
  let m := ext 0 * ext 1 * ext 2
  let seats := if bit w 24 then (List.range m).map fun i => leAt b (64 + 2 * i) 2
    else (List.range m).map fun i =>
      unsext 16 ((bits w 63 48 : Int) + (i % ext 0 : Nat) * stride 0 + (i / ext 0 % ext 1 : Nat) * stride 1 +
        (i / ext 0 / ext 1 : Nat) * stride 2)
  { num := bits w 23 16, nLevels := nl, extents := e, sw := (List.range nl).map fun i => bits w (97 + 64 * i) (96 + 64 * i),
    chunk := bits w 28 27, bufs := bits w 35 32, planeMask := bits w 47 40, members := seats, defCrc := crc32c b,
    hostSeq := 0 }

/-- Members the extents ask for. -/
def groupCount (b : List Byte) : Nat :=
  let w := leAt b 0 64
  let ext := fun i => if i < bits w 26 25 then bits w (79 + 64 * i) (64 + 64 * i) else 1
  ext 0 * ext 1 * ext 2

/-- The switch levels are used and do not fall. -/
def swOk : List Nat → Bool
  | [] => true
  | a :: r => decide (a ≠ 0) && (match r with
      | [] => true
      | b :: _ => decide (a ≤ b)) && swOk r

/-- The group is a bias_group of a layer in force, staged or pending commit (R125). -/
def groupNamed (s : State) (g : Nat) : Bool :=
  (layersNow s).any (fun l => decide (l.biasGroup = g)) || s.ep.staged.any fun x => decide (x.img.biasGroup = g)

/-- The rows of R288 on the image, in order: none, or the status. The list itself is built only where its size is in
range. -/
def groupBad (s : State) (b : List Byte) (g size : Nat) : Option Nat :=
  let w := leAt b 0 64
  let list := bit w 24
  let m := groupCount b
  let nl := bits w 26 25
  let exts := (List.range nl).map fun i => bits w (79 + 64 * i) (64 + 64 * i)
  let sws := (List.range nl).map fun i => bits w (97 + 64 * i) (96 + 64 * i)
  if size < 64 ∨ bits w 15 0 ≠ 0x4701 ∨ bits w 23 16 ≠ g ∨
      size ≠ 64 + (if list then roundUp 64 (2 * bits w 271 256) else 0) ∨ (list = true ∧ bits w 271 256 ≠ m) then some 0x0108
  else if nl = 0 ∨ bits w 28 27 = 3 ∨ inR (bits w 35 32) 2 8 = false ∨ bits w 47 40 = 0 ∨ swOk sws = false ∨
      (exts.any fun e => !inR e 1 32768) = true then some 0x0106
  else if (if list then 4096 else 32768) < m then some 0x0106
  else
    let gr := groupOf b
    if distinct gr.members = false ∨ (gr.members.all fun x => s.job.members.contains x) = false then some 0x0108
    else if (s.coll.ops.any fun o => decide (o.group = g)) = true then some 0x0201
    else if groupNamed s g = true ∧ gr.members.contains (getP s 0x0001) = false then some 0x0201
    else none

/-- GROUP_DEFINE starts (R286 to R290). -/
def startGroupDefine (p : Packet) (x : Ext) (order : Nat) (s : State) : State :=
  let g := p.p0.toNat % 256
  let n := p.p3.toNat
  asyncCmd 0x30 p order x.io { Checks.plain with range := decide (g ≠ 0), ranges := [(1, pVa p, n, false)] }
    (fun c s => match ownRead 1 (pVa p) n x.io s with
      | (s, .error st) => finish c st 0 0 0 0 s
      | (s, .ok b) => match groupBad s b g n with
        | some st => finish c st 0 0 0 0 s
        | none => match installGroup (groupOf b) s with
          | none => finish c 0x0302 0 0 0 0 s
          | some s => finish c 0 (groupOf b).members.length 0 0 0 s) s

/-- GROUP_DEFINE. -/
def execGroupDefine (p : Packet) (io : Io) (s : State) : Host.Outcome State Fault Refusal :=
  live (takeCmd 0x30 p (Ext.ofIo io) (startGroupDefine p (Ext.ofIo io))) s

/-! ### Operations -/

/-- Unit of the Ward core that runs a group's operations (R291). -/
def collUnit (g : Nat) : Nat := 0x50 + g % 16

/-- The job lives: its collectives run. -/
def collLive (s : State) : Bool := decide (s.job.st ≠ .closed ∧ s.job.st ≠ .faulted)

/-- An operation of a queue by sequence number. -/
def opAt (s : State) (g : Nat) (q : Bool) (seq : Nat) : Option CollOp :=
  s.coll.ops.find? fun o => decide (o.group = g ∧ o.loopQ = q ∧ o.seq = seq)

/-- The operation in progress on a queue. -/
def opRunning (s : State) (g : Nat) (q : Bool) : Option CollOp :=
  s.coll.ops.find? fun o => decide (o.group = g ∧ o.loopQ = q) && o.running

/-- Two operations are the same. -/
def sameOp (a b : CollOp) : Bool := decide (a.group = b.group ∧ a.loopQ = b.loopQ ∧ a.seq = b.seq)

/-- Change an operation. -/
def opMap (o : CollOp) (f : CollOp → CollOp) (s : State) : State :=
  { s with coll := { s.coll with ops := s.coll.ops.map fun x => if sameOp x o then f x else x } }

/-- The wire is 16 bits wide. -/
def CollOp.half (o : CollOp) : Bool := decide (o.fmt = 1 ∨ o.fmt = 2)

/-- Elements per chunk. -/
def opElems (g : Group) (o : CollOp) : Nat := chunkElems g.chunk o.half

/-- The last sequence number a queue has retired; 0 for none. -/
def lastRetired (s : State) (g : Nat) (q : Bool) : Option Nat :=
  (s.coll.retired.find? fun r => decide (r.1 = g ∧ r.2.1 = q)).map fun r => r.2.2

/-- Counters of an edge. -/
def edgeGet (l : List EdgeCount) (e : Edge) : Nat := match l.find? fun x => decide (x.edge = e) with
  | some x => x.count
  | none => 0

/-- Set the count of an edge. -/
def edgeSet (l : List EdgeCount) (e : Edge) (n : Nat) : List EdgeCount :=
  { edge := e, count := n } :: l.filter fun x => decide (x.edge ≠ e)

/-- The edge of a chunk. -/
def edgeOf (h : CollHdr) : Edge := { group := h.group, loopQ := h.loopQ, level := h.level, distribute := h.distribute }

/-- A staged chunk's header (R299). -/
def collHdrBytes (h : CollHdr) : List Byte :=
  leBytes 64 ((if h.lengthRound then 0x42 else 0x40) + h.group * 2 ^ 8 + b01 h.loopQ * 2 ^ 16 + h.level * 2 ^ 17 +
    b01 h.distribute * 2 ^ 19 + b01 h.wide * 2 ^ 20 + b01 h.crcEn * 2 ^ 21 + b01 h.dynamic * 2 ^ 22 + h.opSeq * 2 ^ 32 +
    h.chunk * 2 ^ 64 + min h.length (2 ^ 32 - 1) * 2 ^ 96 + h.srcSeat * 2 ^ 128 + h.nElem * 2 ^ 144 + h.defCrc * 2 ^ 160 +
    h.dataCrc * 2 ^ 192 + h.upWait * 2 ^ 224 + h.fmt * 2 ^ 256)

/-- The region-3 offset of a chunk (R299). -/
def collOffset (h : CollHdr) : Nat :=
  h.group * 2 ^ 40 + b01 h.loopQ * 2 ^ 39 + h.level * 2 ^ 37 + b01 h.distribute * 2 ^ 36 + h.buffer * 2 ^ 33

/-- Wire codes as bytes. -/
def wireBytes (fmt : Nat) (l : List Nat) : List Byte := l.flatMap fun v => leBytes (elemBits fmt / 8) v

/-- Wire codes of bytes. -/
def wireCodes (fmt : Nat) (b : List Byte) : List Nat := (splitEvery (elemBits fmt / 8) b).map leNat

/-- Free the send cells of chunks that are acknowledged (R299). -/
def freeSent (s : State) : State :=
  freeCells (fun u => match u with
    | .send seat seq => !s.kft.unacked.any fun c => decide (c.hdr.dstSeat = seat ∧ c.hdr.vc = 3 ∧ c.hdr.msgSeq = seq)
    | _ => false) s

/-- A chunk's send cell has been asked for and not granted (R324). -/
def cellAsked (s : State) (x : Outgoing) : Bool := s.carafe.waits.any fun w => decide (w.use = .sending x.num)

/-- A waiting chunk may leave: it has its send cell, and a credit on its edge (R299). -/
def mayLeave (s : State) (x : Outgoing) : Bool :=
  let e := edgeOf x.hdr
  let bufs := (groupAt s x.hdr.group).elim 0 (·.bufs)
  !cellAsked s x && decide (edgeGet s.coll.sent e < edgeGet s.coll.credits e + bufs)

/-- Send a chunk: its buffer, its KFT message and its Drip record; its cell is now that of the message (R299, R488). -/
def chunkLeave (x : Outgoing) (s : State) : State :=
  let e := edgeOf x.hdr
  let k := edgeGet s.coll.sent e
  let h := { x.hdr with buffer := k % ((groupAt s x.hdr.group).elim 1 (·.bufs)) }
  let cls := (opAt s h.group h.loopQ h.opSeq).elim 0 (·.cls)
  let first := (txSpace s x.dst 3).next
  let s := { s with coll := { s.coll with sent := edgeSet s.coll.sent e (k + 1) } }
  let cells := mapIf (fun (c : CellHeld) => decide (c.use = .sending x.num)) (fun c => ({ c with use := .send x.dst first } : CellHeld)) s.carafe.cells
  let s := { s with carafe := { s.carafe with cells := cells } }
  let s := (sendMsg x.dst 3 { KftHdr.blank with op := 0, region := 3, cls := cls } (collOffset h) (collHdrBytes h ++ x.data) s).1
  freeSent (dripAt 7 (0x28 + h.level)
    (h.group + b01 h.loopQ * 2 ^ 8 + h.level * 2 ^ 9 + b01 h.distribute * 2 ^ 11 + h.chunk * 2 ^ 12) s)

/-- A staging buffer is free on its edge. -/
def bufFree (e : Edge) (s : State) : State :=
  { s with coll := { s.coll with freed := edgeSet s.coll.freed e (edgeGet s.coll.freed e + 1) } }

/-- Free the staging buffers whose results all have their send cells (R299). -/
def bufPump (s : State) : State :=
  let waits := fun (n : Nat) => s.carafe.waits.any fun w => decide (w.use = .sending n)
  let l := s.coll.busy.map fun b => ({ b with nums := b.nums.filter waits } : BufHeld)
  (l.filter fun b => b.nums.isEmpty).foldl (fun t b => bufFree b.edge t)
    { s with coll := { s.coll with busy := l.filter fun b => !b.nums.isEmpty } }

/-- Send the waiting chunks that may leave, in their order. -/
def chunkPump (s : State) : State :=
  s.coll.waiting.foldl (fun t x =>
    if mayLeave t x then chunkLeave x t
    else { t with coll := { t.coll with waiting := t.coll.waiting ++ [x] } })
    (bufPump { s with coll := { s.coll with waiting := [] } })

/-- A sum leaves for the next member of a ring (R296, R299, R300). `level` counts from 1. -/
def chunkSend (g : Group) (o : CollOp) (m key level : Nat) (dist : Bool) (vals : List Nat) (wait : Nat) (s : State) : State :=
  let num := s.coll.nextNum
  let data := if key = 0 then [] else wireBytes o.fmt vals
  let h : CollHdr :=
    { lengthRound := decide (key = 0), group := g.num, loopQ := o.loopQ, level := level - 1, distribute := dist, buffer := 0,
      wide := o.wide, crcEn := o.crc, dynamic := o.dynamic, opSeq := o.seq, chunk := key - 1,
      length := (if key = 0 then vals.headD 0 else o.agreed.getD 0), srcSeat := getP s 0x0001,
      nElem := (if key = 0 then 0 else vals.length), defCrc := g.defCrc,
      dataCrc := (if o.crc = true ∧ key ≠ 0 then crc32c data else 0), upWait := min wait (2 ^ 32 - 1), fmt := o.fmt }
  let x : Outgoing := { num := num, dst := g.peer m level 1, hdr := h, data := data }
  let s := { s with coll := { s.coll with nextNum := num + 1, waiting := s.coll.waiting ++ [x] } }
  chunkPump (carafeAsk ownerColl (64 + data.length) o.cls 1 (.sending num) s)

/-- partial + own (R295, R297). -/
def combine (o : CollOp) (key : Nat) (a b : List Nat) : List Nat :=
  if key = 0 then [max (a.headD 0) (b.headD 0)]
  else if o.fmt = 10 then List.zipWith (fun x y => (x + y) % 2 ^ 32) a b
  else match elemFmt o.fmt with
    | some f => List.zipWith (fun x y => f.encode (f.add (f.decode x) (f.decode y))) a b
    | none => a

/-! ### Writing totals (R292, R296, R297) -/

/-- The descriptor of an operation, read in rows (R292). -/
def CollOp.tensor (o : CollOp) : Desc := (descOf (leBytes 64 o.desc) 0).byRows

/-- The total of chunk `c`. -/
def totalOf (o : CollOp) (c : Nat) : Option (List Nat) :=
  (o.parts.find? fun p => decide (p.key = c + 1 ∧ p.level = 4)).map (·.vals)

/-- A total element as a value. -/
def wireNum (o : CollOp) (v : Nat) : Num := elemNum o.fmt (v, 127)

/-- The total code of flat element `i`, in the descriptor's format without block scale. -/
def totalCode (o : CollOp) (d : Desc) (v : Nat) : Nat := if o.fmt = 10 then v else convElem d.fmt (wireNum o v)

/-- Write one element whose width is whole bytes and that has no scale. -/
def writeElem (d : Desc) (i code : Nat) (t : TRun) : TRun :=
  let row := d.outer (i / d.size 0)
  let pl := d.place (row.getD 0 0) (i % d.size 0)
  t.write (d.unitVa row + pl.1 / 8) (leBytes (elemBits d.fmt / 8) code)

/-- Bytes of one block's elements: a whole block where the layout has blocks (R192 to R194). -/
def blockLenOf (d : Desc) (n : Nat) : Nat :=
  if d.layout = 0 then (if elemBits d.fmt = 6 then 3 * ceilDiv n 4 else ceilDiv (elemBits d.fmt * n) 8) else d.blk

/-- Write one block of a row: `l` its totals from element `i0` on. The last block of a layout-3 row brings the padding of
its group: scale bytes 0x7F and zeros to a multiple of 64 B (R193). -/
def writeBlock (o : CollOp) (d : Desc) (row : List Nat) (i0 : Nat) (l : List Nat) (t : TRun) : TRun :=
  let line := convLine d (l.map (wireNum o))
  let pl := d.place (row.getD 0 0) i0
  let u := d.unitVa row
  let t := t.write (u + pl.1 / 8) (padTo (blockLenOf d l.length) (packElems (elemBits d.fmt) line.2))
  let t := if d.scaled then
      t.write (if d.layout = 0 then d.scaleRow row + i0 / 32 else u + pl.2) (line.1.map (BitVec.ofNat 8))
    else t
  if d.layout = 3 ∧ d.size 0 ≤ i0 + 32 then
    let n := i0 % 2048 / 32 + 1
    let t := t.write (u + pl.2 + 1) (List.replicate (64 - n) 0x7F)
    t.write (u + pl.1 / 8 + d.blk) (List.replicate (roundUp 64 (n * d.blk) - n * d.blk) 0)
  else t

/-- Flat elements `lo` to `hi - 1` of the totals, if the chunks that hold them are all in. -/
def totalsOf (o : CollOp) (e lo hi : Nat) : Option (List Nat) :=
  (List.range (hi - lo)).foldr (fun k acc => match acc, totalOf o ((lo + k) / e) with
    | some l, some v => some (v.getD ((lo + k) % e) 0 :: l)
    | _, _ => none) (some [])

/-- The blocks (row, first element, elements) of a row range that a chunk touches. -/
def blocksOf (d : Desc) (lo hi : Nat) : List (Nat × Nat × Nat) :=
  let s0 := d.size 0
  (dedup ((List.range (hi - lo)).map fun k => ((lo + k) / s0, (lo + k) % s0 / 32 * 32))).map fun b =>
    (b.1, b.2, min 32 (s0 - b.2))

/-- Write the total of chunk `c`: its own elements, or, in formats with blocks, the blocks that it completes. -/
def writeTotal (o : CollOp) (e c : Nat) (t : TRun) : TRun :=
  let d := o.tensor
  let n := d.elems
  let lo := c * e
  let hi := min (lo + e) n
  if hi ≤ lo then t
  else if d.scaled = false ∧ elemBits d.fmt % 8 = 0 then
    match totalOf o c with
    | none => t
    | some v => (List.range (hi - lo)).foldl (fun t k => writeElem d (lo + k) (totalCode o d (v.getD k 0)) t) t
  else (blocksOf d lo hi).foldl (fun t b =>
    let i := b.1 * d.size 0 + b.2.1
    match totalsOf o e i (i + b.2.2) with
    | none => t
    | some l => writeBlock o d (d.outer b.1) b.2.1 l t) t

/-! ### The end of an operation -/

/-- The sums of a loop operation by layer. -/
def splitSums : List (Nat × Nat) → List Nat → List (Nat × List Nat)
  | [], _ => []
  | (l, n) :: r, v => (l, v.take n) :: splitSums r (v.drop n)

/-- All totals in chunk order. -/
def allTotals (o : CollOp) (chunks : Nat) : List Nat := (List.range chunks).flatMap fun c => (totalOf o c).getD []

/-- EV_SLOW_MEMBER for every level whose charge passes coll.slow_thresh, and the largest charge since JOB_OPEN (R302). -/
def slowReport (o : CollOp) (s : State) : State :=
  o.charges.foldl (fun t c =>
    let t := if t.coll.lagTicks < c.2.2 then { t with coll := { t.coll with lagSeat := c.2.1, lagTicks := c.2.2 } } else t
    if o.thresh < c.2.2 then
      emit 0x0007 (collUnit o.group) (c.2.1 + o.group * 2 ^ 16 + min c.2.2 (2 ^ 24 - 1) * 2 ^ 24) t
    else t) s

/-- An operation retires: its queue goes on, and its reply or its window takes the result. -/
def opEnd (o : CollOp) (status r0 : Nat) (sums : List Nat) (s : State) : State :=
  let o := (opAt s o.group o.loopQ o.seq).getD o
  let s := slowReport o { s with coll := { s.coll with
    ops := s.coll.ops.filter fun x => !sameOp x o,
    retired := (o.group, o.loopQ, o.seq) :: s.coll.retired.filter fun r => !decide (r.1 = o.group ∧ r.2.1 = o.loopQ) } }
  let s := match o.cmd with
    | some c => finish c status r0 0 0 0 s
    | none => { s with bias := { s.bias with wins := s.bias.wins.map fun x =>
        if x.w % 2 ^ 32 = o.seq then { x with sums := x.sums ++ splitSums o.counts sums } else x } }
  closeTry s

/-! ### The ring (R296) -/

/-- Record a sum this member holds. -/
def partAdd (o : CollOp) (p : CollPart) (s : State) : State := opMap o (fun x => { x with parts := x.parts ++ [p] }) s

/-- A sum of level `level`, below the top, goes on its level-`(level + 1)` ring: this member starts it, waits for its
predecessor, or, in a ring of one, holds the sum of that level too. The fuel is the levels left. At the top it is the
total, which `total` takes. -/
def climb (g : Group) (o : CollOp) (m key : Nat) (total : Nat → List Nat → Nat → State → State) :
    Nat → Nat → List Nat → Nat → State → State
  | 0, level, vals, wait, s => total (level + 1) vals wait (partAdd o ⟨key, level, vals, s.kt⟩ s)
  | fuel + 1, level, vals, wait, s =>
    let s := partAdd o ⟨key, level, vals, s.kt⟩ s
    if g.ext (level + 1) = 1 then climb g o m key total fuel (level + 1) vals wait s
    else if g.digit m (level + 1) = g.start (key - 1) (level + 1) then chunkSend g o m key (level + 1) false vals wait s
    else s

/-- The levels on whose rings a member that first holds a total at level `from_` forwards it. -/
def downLevels (g : Group) (from_ : Nat) : List Nat :=
  ((List.range g.nLevels).map fun i => g.nLevels - i).filter fun l => decide (l ≤ from_)

/-- Forward a total round the rings (R296 steps 3 and 4). -/
def forwardTotal (g : Group) (o : CollOp) (m key from_ : Nat) (vals : List Nat) (wait : Nat) (s : State) : State :=
  (downLevels g from_).foldl (fun t l =>
    if (g.digit m l + 1) % g.ext l = g.owner (key - 1) l then t else chunkSend g o m key l true vals wait t) s

/-- A data total is held: forwarded and written. -/
def dataTotal (g : Group) (o : CollOp) (m key from_ : Nat) (vals : List Nat) (wait : Nat) (s : State) : State :=
  let s := partAdd o ⟨key, 4, vals, s.kt⟩ s
  let s := forwardTotal g o m key from_ vals wait s
  match opAt s o.group o.loopQ o.seq with
  | none => s
  | some o =>
    if o.loopQ then s
    else
      let t := writeTotal o (opElems g o) (key - 1) (TRun.start s)
      match t.bad with
      | some f => xlateFault f Where.none t.s
      | none => t.s

/-- Chunks of a length. -/
def chunkCount (g : Group) (o : CollOp) (n : Nat) : Nat := ceilDiv n (opElems g o)

/-- The length is agreed: every chunk's contribution enters its ring (R295, R296). -/
def startData (g : Group) (o : CollOp) (m n : Nat) (s : State) : State :=
  let e := opElems g o
  let s := opMap o (fun x => { x with agreed := some n }) s
  let o := { o with agreed := some n }
  (List.range (chunkCount g o n)).foldl (fun t c =>
    if collLive t then
      let v := (List.range (min e (n - c * e))).map fun k => o.own.getD (c * e + k) 0
      climb g o m (c + 1) (dataTotal g o m (c + 1)) g.nLevels 0 v 0 t
    else t) s

/-- An agreed length: too long, empty, or the data starts (R292, R294, R295). -/
def agreeLength (g : Group) (o : CollOp) (m n : Nat) (s : State) : State :=
  if 2 ^ 32 ≤ n then opEnd o 0x0106 0 [] s
  else if n = 0 then opEnd o 0x0002 0 [] s
  else startData g o m n s

/-- The total of a length round (R295). The field holds 32 bits: 2^32 − 1 in it means that or more (R292; log 98). -/
def lengthTotal (g : Group) (o : CollOp) (m from_ : Nat) (vals : List Nat) (wait : Nat) (s : State) : State :=
  let s := forwardTotal g o m 0 from_ vals wait (partAdd o ⟨0, 4, vals, s.kt⟩ s)
  agreeLength g o m (if vals.headD 0 = 2 ^ 32 - 1 then 2 ^ 32 else vals.headD 0) s

/-- What becomes of a total. -/
def totalStep (g : Group) (o : CollOp) (m key : Nat) : Nat → List Nat → Nat → State → State :=
  if key = 0 then lengthTotal g o m else dataTotal g o m key

/-- A job fault of R290, R294 or R299 over a chunk: detail the sender's seat. -/
def collFault (h : CollHdr) (s : State) : State := jobFault (collUnit h.group) 0x0401 (h.srcSeat % 65536) Where.none s

/-- The part of a chunk that this member holds at a level. -/
def partAt (o : CollOp) (key level : Nat) : Option CollPart :=
  o.parts.find? fun p => decide (p.key = key ∧ p.level = level)

/-- A chunk does not agree with the operation: its modes, its format, or the agreed length (R294, R299). -/
def chunkDiffers (o : CollOp) (h : CollHdr) : Bool :=
  decide (h.wide ≠ o.wide ∨ h.crcEn ≠ o.crc ∨ h.dynamic ≠ o.dynamic ∨ h.fmt ≠ o.fmt) || (h.lengthRound && !o.dynamic) ||
  (!h.lengthRound && o.agreed.any fun n => decide (n ≠ h.length))

/-- A staged chunk can be taken now: its operation runs, and it disagrees with it, or its length is agreed and in the reduce lap
the own sum below it is held. -/
def takeable (s : State) (x : Staged) : Bool :=
  match opRunning s x.hdr.group x.hdr.loopQ with
  | none => false
  | some o =>
    let key := if x.hdr.lengthRound then 0 else x.hdr.chunk + 1
    decide (o.seq = x.hdr.opSeq) && (chunkDiffers o x.hdr ||
      ((x.hdr.lengthRound || o.agreed.isSome) && (x.hdr.distribute || (partAt o key x.hdr.level).isSome)))

/-- The member's own wait for a chunk: the ticks from the moment it held its part of it to the landing of the predecessor's
chunk; none where it had no send cell free by then (R302; log 100). -/
def ownWait (s : State) (o : CollOp) (key : Nat) (x : Staged) : Nat :=
  if (poolFor s ownerColl (64 + x.data.length)).isNone then 0
  else x.landed - ((partAt o key (if x.hdr.distribute then 0 else x.hdr.level)).elim x.landed (·.kt))

/-- Charge the predecessor of a level (R302). -/
def chargeAdd (l : List (Nat × Nat × Nat)) (level seat n : Nat) : List (Nat × Nat × Nat) :=
  if l.any fun c => decide (c.1 = level ∧ c.2.1 = seat) then
    l.map fun c => if c.1 = level ∧ c.2.1 = seat then (c.1, c.2.1, c.2.2 + n) else c
  else l ++ [(level, seat, n)]

/-- The chunks made since `num` from the chunk with header `h`. -/
def madeFrom (h : CollHdr) (num : Nat) (s : State) : List Nat :=
  (s.coll.waiting.filter fun y => decide (num ≤ y.num ∧ y.hdr.group = h.group ∧ y.hdr.loopQ = h.loopQ ∧ y.hdr.opSeq = h.opSeq ∧
    y.hdr.lengthRound = h.lengthRound ∧ y.hdr.chunk = h.chunk)).map (·.num)

/-- What a taken chunk turns into has gone to its send cells or waits for them: its buffer is free, or will be (R299). -/
def bufDone (h : CollHdr) (num : Nat) (s : State) : State :=
  bufPump { s with coll := { s.coll with busy := s.coll.busy ++ [{ edge := edgeOf h, nums := madeFrom h num s }] } }

/-- Take a chunk out of its buffer: checks, charge, then add and forward, or the total (R294, R296, R299 to R302). -/
def chunkTake (x : Staged) (s : State) : State :=
  let h := x.hdr
  let s := { s with coll := { s.coll with staged := s.coll.staged.erase x } }
  match opRunning s h.group h.loopQ, groupAt s h.group with
  | some o, some g => match memberIndex g.members (getP s 0x0001) with
    | none => s
    | some m =>
      let key := if h.lengthRound then 0 else h.chunk + 1
      let level := h.level + 1
      if chunkDiffers o h then collFault h s
      else if h.crcEn = true ∧ key ≠ 0 ∧ crc32c x.data ≠ h.dataCrc then jobFault (0x28 + h.level) 0x0406 1 Where.none s
      else
        let num := s.coll.nextNum
        let own := ownWait s o key x
        let s := opMap o (fun y => { y with charges := chargeAdd y.charges level h.srcSeat (own - h.upWait) }) s
        let vals := if key = 0 then [h.length] else wireCodes o.fmt x.data
        if h.distribute then bufDone h num (totalStep g o m key level vals own s)
        else match partAt o key h.level with
          | none => s
          | some p =>
            if x.adderBad ∧ o.residue then jobFault (0x28 + h.level) 0x0406 2 Where.none s
            else
              let r := combine o key vals p.vals
              bufDone h num (if g.digit m level = g.owner (key - 1) level then
                climb g o m key (totalStep g o m key) (g.nLevels - level) level r own s
              else chunkSend g o m key level false r own s)
  | _, _ => s

/-- Take every staged chunk that can be taken. The fuel is the number staged. -/
def collDrain : Nat → State → State
  | 0, s => s
  | n + 1, s =>
    if collLive s then match s.coll.staged.find? (takeable s) with
      | none => s
      | some x => collDrain n (chunkTake x s)
    else s

/-- Run the staged chunks as far as they go. -/
def collRun (s : State) : State := collDrain s.coll.staged.length s

/-- CARAFE_GRANT: among the waiting requests that can be granted, the highest class and then the oldest takes its cell
(R324). A chunk that gets its send cell leaves where it has a credit (R299). -/
def execCarafeGrant (s : State) : Host.Outcome State Fault Refusal :=
  live (fun s =>
    match (sortBy (fun (a b : CellWait) => decide (a.cls < b.cls)) s.carafe.waits).find? (waitReady s) with
    | none => s
    | some w =>
      match poolFor s w.owner w.bytes with
      | none => s
      | some c =>
        let s := { s with carafe := { s.carafe with waits := s.carafe.waits.erase w } }
        chunkPump (pfcCheck (ctrAdd (897 + 2 * w.owner) (s.kt - w.since) (takeCell w.owner c w.ref w.use s)))) s

/-! ### Starting -/

/-- Read an operation's contribution as wire codes, in flat order (R292, R297). -/
def readOwn (o : CollOp) (t : TRun) : TRun × List Nat :=
  let d := o.tensor
  let r := (List.range d.elems).foldl (fun (a : TRun × List Nat) i =>
    let q := elemRead d (d.outer (i / d.size 0)) (i % d.size 0) a.1
    (q.1, (if o.fmt = 10 then q.2.1 else convElem o.fmt (elemNum d.fmt q.2)) :: a.2)) (t, [])
  (r.1, r.2.reverse)

/-- The operation runs with its contribution `own` of length `n`. -/
def opGo (g : Group) (o : CollOp) (own : List Nat) (n : Nat) (s : State) : State :=
  match memberIndex g.members (getP s 0x0001) with
  | none => s
  | some m =>
    let o := { o with running := true, own := own }
    let s := opMap o (fun _ => o) s
    let s := if o.dynamic then climb g o m 0 (lengthTotal g o m) g.nLevels 0 [n] 0 s else agreeLength g o m n s
    collRun s

/-- An operation starts: its contribution is read and enters the rings (R291, R292). -/
def opStart (o : CollOp) (s : State) : State :=
  match groupAt s o.group with
  | none => s
  | some g =>
    if o.loopQ then opGo g o o.own o.own.length s
    else if 2 ^ 32 ≤ o.tensor.elems ∧ o.dynamic = false then opEnd o 0x0106 0 [] s
    else if o.tensor.empty then opGo g o [] 0 s
    else
      let r := readOwn o (TRun.start s)
      match r.1.bad with
      | some f => xlateFault f Where.none r.1.s
      | none => jobIo o.io r.1.rd [] [] Where.none (opGo g o r.2 r.2.length) r.1.s

/-- A queue's first waiting operation, its queue being idle. -/
def opHead (s : State) (g : Nat) (q : Bool) : Option CollOp :=
  match s.coll.ops.find? fun o => decide (o.group = g ∧ o.loopQ = q) with
  | some o => if o.running then none else some o
  | none => none

/-- A Ward core has a free thread (R10, R291). -/
def threadFree (s : State) (core : Nat) : Bool :=
  decide ((s.coll.ops.filter fun o => o.running && decide (o.group % 16 = core)).length < 8)

/-- No waiting head of the same core goes before this one: class first, then post order (R291). -/
def firstOfCore (s : State) (o : CollOp) : Bool :=
  match (sortBy (fun (a b : CollOp) => decide (a.cls < b.cls))
      (s.coll.ops.filter fun x => decide (x.group % 16 = o.group % 16) && decide (opHead s x.group x.loopQ = some x))).head? with
  | some x => sameOp x o
  | none => false

/-- The operation may start; in brace no posted one does, and loop sums do (R94, R306). -/
def opReady (s : State) (o : CollOp) : Bool :=
  collLive s && (o.loopQ || !inBrace s) && decide (opHead s o.group o.loopQ = some o) && threadFree s (o.group % 16) && firstOfCore s o

/-- Post an operation; it starts at once where nothing is before it. -/
def opPost (o : CollOp) (s : State) : State :=
  let s := { s with coll := { s.coll with ops := s.coll.ops ++ [o] } }
  if opReady s o then opStart o s else s

/-- A chunk of the host queue's next operation has arrived (R306). -/
def nextArrived (s : State) (g : Group) : Bool :=
  s.coll.staged.any fun x => decide (x.hdr.group = g.num ∧ x.hdr.loopQ = false ∧ x.hdr.opSeq = seqAdd g.hostSeq 1)

/-- Wire format of a COLL_POST (R297, R381). -/
def postFmt (fmt : Nat) (wide : Bool) : Nat :=
  if fmt = 10 then 10 else if (fmt = 1 ∨ fmt = 2) ∧ wide = false then fmt else 0

/-- A COLL_POST takes its place in its queue (R291). -/
def collBegin (p : Packet) (io : Io) (c : OpenCmd) (s : State) : State :=
  let w := p.p0.toNat
  let g := w % 256
  match groupAt s g with
  | none => finish c 0x0106 0 0 0 0 s
  | some gr =>
    if gr.members.contains (getP s 0x0001) then
      let d := descOf (pBody p) 0
      let wide := bit w 8 || (decide (d.fmt = 1 ∨ d.fmt = 2) && decide (getP s 0x0510 = 1))
      let seq := seqAdd gr.hostSeq 1
      let s := { s with coll := { s.coll with groups := s.coll.groups.map fun x => if x.num = g then { x with hostSeq := seq } else x } }
      opPost { group := g, loopQ := false, seq := seq, cmd := some c, cls := p.cls.toNat, desc := leAt (pBody p) 0 64, io := io,
               wide := wide, crc := bit w 9, residue := bit w 10, dynamic := bit w 11, fmt := postFmt d.fmt wide, own := [],
               running := false, agreed := none, parts := [], charges := [], thresh := ticksOf (getP s 0x0511), counts := [] } s
    else finish c 0x0106 0 0 0 0 s

/-- COLL_POST starts: held to the release instant in Starting, or by brace (R90, R94, R291, R306). -/
def startCollPost (p : Packet) (x : Ext) (order : Nat) (s : State) : State :=
  let g := p.p0.toNat % 256
  checked 0x31 true p order x.io
    { Checks.plain with
      len := fun n => decide (n = 64), range := ownGroup s g,
      state := (if s.job.st = .draining ∧ (groupAt s g).elim false (nextArrived s) = false then some (0x0201, 0, 0) else none) }
    (fun s =>
      let s := accept p order 0 s
      if s.job.st = .starting then holdCmd .release p x order s
      else if inBrace s then holdCmd .brace p x order s
      else collBegin p x.io (openOf p order) s) s

/-- COLL_POST. -/
def execCollPost (p : Packet) (io : Io) (s : State) : Host.Outcome State Fault Refusal :=
  live (takeCmd 0x31 p (Ext.ofIo io) (startCollPost p (Ext.ofIo io))) s

/-- COLL_OPERATION_START: a queued operation starts when its queue is free and a Ward thread is (R291). -/
def execCollOperationStart (group : Nat) (loopQ : Bool) (s : State) : Host.Outcome State Fault Refusal :=
  live (fun s => match opHead s group loopQ with
    | none => s
    | some o => if opReady s o then opStart o s else s) s

/-! ### Chunks, credits, timeout, completion -/

/-- A chunk belongs to an operation already retired (R294). -/
def chunkStale (s : State) (h : CollHdr) : Bool :=
  match opRunning s h.group h.loopQ with
  | some o => serialLt 32 h.opSeq o.seq
  | none => match lastRetired s h.group h.loopQ with
    | some r => serialLe 32 h.opSeq r
    | none => false

/-- COLL_CHUNK_RECEIVE: a chunk lands in its staging buffer and is taken as soon as it can be (R290, R294, R299); `adderBad`
says what the adder's residue check will find (R301). -/
def execCollChunkReceive (h : CollHdr) (data : List Byte) (adderBad : Bool) (s : State) : Host.Outcome State Fault Refusal :=
  live (fun s =>
    if collLive s then
      match groupAt s h.group with
      | none => collFault h s
      | some g =>
        if h.defCrc ≠ g.defCrc ∨ g.members.contains (getP s 0x0001) = false then collFault h s
        else if chunkStale s h then collFault h s
        else collRun { s with coll := { s.coll with staged := s.coll.staged ++ [{ hdr := h, data := data, landed := s.kt, adderBad := adderBad }] } }
    else s) s

/-- A kind 0x41 credit message (R299). -/
def creditBytes (e : Edge) (n : Nat) : List Byte :=
  leBytes 64 (0x41 + e.group * 2 ^ 8 + b01 e.loopQ * 2 ^ 16 + e.level * 2 ^ 17 + b01 e.distribute * 2 ^ 19 + (n % 65536) * 2 ^ 32)

/-- The seat of the next member on an edge. -/
def edgePeer (s : State) (e : Edge) : Nat := match groupAt s e.group with
  | none => 0
  | some g => (memberIndex g.members (getP s 0x0001)).elim 0 fun m => g.peer m (e.level + 1) 1

/-- COLL_CREDIT_RECEIVE: buffers freed downstream let the sender go on (R299). -/
def execCollCreditReceive (e : Edge) (count : Nat) (s : State) : Host.Outcome State Fault Refusal :=
  live (fun s =>
    if collLive s then
      let s := inboxTake (edgePeer s e) (creditBytes e count) s
      chunkPump { s with coll := { s.coll with credits := edgeSet s.coll.credits e (edgeGet s.coll.credits e + count) } }
    else s) s

/-- CREDIT_COALESCE_EXPIRY: the buffers freed on an edge are credited to the sender in one message (R299). -/
def execCreditCoalesceExpiry (e : Edge) (s : State) : Host.Outcome State Fault Refusal :=
  live (fun s =>
    let n := edgeGet s.coll.freed e
    match groupAt s e.group with
    | none => s
    | some g => match memberIndex g.members (getP s 0x0001) with
      | none => s
      | some m =>
        if collLive s ∧ 0 < n then
          let cls := (opRunning s e.group e.loopQ).elim 0 (·.cls)
          let s := { s with coll := { s.coll with freed := edgeSet s.coll.freed e 0 } }
          (sendNotice (g.peer m (e.level + 1) (g.ext (e.level + 1) - 1)) cls (creditBytes e n) s).1
        else s) s

/-- The keys an operation still lacks totals for. -/
def missingKeys (g : Group) (o : CollOp) : List Nat :=
  (match o.agreed with
    | none => [0]
    | some n => (List.range (chunkCount g o n)).map (· + 1)).filter fun k => (partAt o k 4).isNone

/-- The level on whose ring a member waits for a chunk: the one above its highest sum (R296). -/
def awaitedLevel (g : Group) (o : CollOp) (key : Nat) : Nat :=
  min g.nLevels (1 + (o.parts.filter fun p => decide (p.key = key)).foldl (fun a p => max a p.level) 0)

/-- COLL_TIMEOUT: no progress for coll.timeout ends the job (R304). -/
def execCollTimeout (group : Nat) (loopQ : Bool) (s : State) : Host.Outcome State Fault Refusal :=
  live (fun s => match opRunning s group loopQ, groupAt s group with
    | some o, some g => match memberIndex g.members (getP s 0x0001) with
      | none => s
      | some m =>
        let l := match (missingKeys g o).head? with
          | some k => awaitedLevel g o k
          | none => 1
        if collLive s then jobFault (collUnit group) 0x0405 (g.peer m l (g.ext l - 1)) Where.none s else s
    | _, _ => s) s

/-- Every write of an operation's totals. -/
def totalWrites (o : CollOp) (e chunks : Nat) (s : State) : TRun :=
  if o.loopQ then TRun.start s else (List.range chunks).foldl (fun t c => writeTotal o e c t) (TRun.start s)

/-- COLL_OPERATION_COMPLETE: every total is written and answered; the operation ends ST_OK with the agreed length (R46, R190,
R295, R296). -/
def execCollOperationComplete (group : Nat) (loopQ : Bool) (io : Io) (s : State) : Host.Outcome State Fault Refusal :=
  live (fun s => match opRunning s group loopQ, groupAt s group with
    | some o, some g => match o.agreed with
      | none => s
      | some n =>
        if collLive s ∧ missingKeys g o = [] then
          let t := totalWrites o (opElems g o) (chunkCount g o n) s
          let log := t.log.reverse
          jobIo io [] t.wr (log.flatMap (·.bytes)) Where.none
            (fun s => opEnd o 0 n (allTotals o (chunkCount g o n)) (settleTwice log s)) s
        else s
    | _, _ => s) s

/-! ### Loop sums (R124, R305) and JOB_CLOSE -/

/-- Post the loop sum of a window on a bias group's loop queue: every layer that names it, in ascending order. -/
def postLoop (x : BiasWin) (g : Nat) (s : State) : State :=
  let ls := sortBy (fun (a b : Layer) => decide (a.layer < b.layer)) ((winLayers s x).filter fun l => decide (l.biasGroup = g))
  opPost { group := g, loopQ := true, seq := x.w % 2 ^ 32, cmd := none, cls := x.cls, desc := 0, io := .ok, wide := false,
           crc := true, residue := true, dynamic := false, fmt := 10, own := ls.flatMap (winCounts x), running := false,
           agreed := none, parts := [], charges := [], thresh := ticksOf (getP s 0x0511),
           counts := ls.map fun l => (l.layer, l.nExperts) } s

/-- Every step of a window has finished stage 10 or been cancelled, and no step of it is to come. -/
def winScored (s : State) (x : BiasWin) : Bool :=
  ((heldSteps s).all fun n => decide (winOf s n ≠ x.w)) && s.slots.all fun y => match y.ctx with
    | some c => decide (winOf s c.step ≠ x.w) || decide (11 ≤ y.stage) || c.cancelled
    | none => true

/-- An earlier window still has to post a sum on one of the groups (R291). -/
def postsFirst (s : State) (x : BiasWin) : Bool :=
  s.bias.wins.any fun y => decide (y.w < x.w) && y.posted.isEmpty && !winFrozen s y.w &&
    (winGroups s y).any fun g => (winGroups s x).contains g

/-- LOOP_SUM_POST: the sums of a closed window are posted, one for each bias group that has a layer, window after window
(R124, R291, R305). -/
def execLoopSumPost (window : Nat) (s : State) : Host.Outcome State Fault Refusal :=
  live (fun s => match s.bias.wins.find? fun x => decide (x.w = window) with
    | none => s
    | some x =>
      if collLive s ∧ x.closed ∧ winFrozen s x.w = false ∧ x.posted = [] ∧ winScored s x ∧ postsFirst s x = false ∧ (winLayers s x).isEmpty = false then
        let gs := sortBy (fun (a b : Nat) => decide (a < b)) (winGroups s x)
        gs.foldl (fun t g => postLoop x g t) (winMap window (fun y => { y with posted := gs }) s)
      else s) s

/-- JOB_CLOSE with abort stops every operation (R306). -/
def collAbort (s : State) : State :=
  let s := s.coll.ops.foldl (fun t o => opEnd o 0x0404 0 [] t)
    { s with coll := { s.coll with staged := [], busy := [], waiting := [] } }
  freeCells (fun u => match u with
    | .sending _ => true
    | _ => false) s

end Sys2Proof.Machine
end

