-- ==== Sys2Proof/Machine/Exchange.lean ====
section
/-! DEFINITION. The exchange between seats (R214 to R235, R240 to R244): count messages, dispatch, destination duties, work
lists, answers, and the cancelling of a step. -/

namespace Sys2Proof.Machine

/-! ### Addresses (R100, R101, R219, R220) -/

/-- The block's own seat. -/
def ownSeat (s : State) : Nat := getP s 0x0001

/-- The other members of the job. -/
def others (s : State) : List Nat := s.job.members.filter fun m => decide (m ≠ ownSeat s)

/-- Bytes of a slot (R100). -/
def pitchOf (j : JobDesc) : Nat := roundUp 64 (64 + tileData j.tileFmt j.d)

/-- W, the slots per window for each source. -/
def winSlots (j : JobDesc) : Nat := j.bMax * min j.kMax j.hMax

/-- The window of a step. -/
def winNo (j : JobDesc) (step : Nat) : Nat := step % j.rxWindows

/-- Member index of a seat; 0 where it is none. -/
def seatIndex (s : State) (m : Nat) : Nat := (memberIndex s.job.members m).getD 0

/-- First receive slot at `dst` for a step of `src` (R219). -/
def rxBaseIdx (s : State) (src dst step : Nat) : Nat :=
  let j := s.job.desc
  let a := seatIndex s src
  let b := seatIndex s dst
  (if a < b then a else a - 1) * (j.rxWindows * winSlots j) + winNo j step * winSlots j

/-- Return slot of the rank-`j` copy of token `t` (R220). -/
def retIdx (d : JobDesc) (step t j : Nat) : Nat := winNo d step * (d.bMax * d.kMax) + t * d.kMax + j

/-- VA of a receive slot and of a return slot. -/
def rxVa (s : State) (i : Nat) : Nat := getP s 0x0508 + i * pitchOf s.job.desc

/-- See `rxVa`. -/
def retVa (s : State) (i : Nat) : Nat := getP s 0x0509 + i * pitchOf s.job.desc

/-! ### Tile headers (R216) -/

/-- The 64 bytes of a header. -/
def tileHdrBytes (h : TileHdr) : List Byte :=
  leBytes 64 (h.kind + h.srcSlot * 2 ^ 8 + h.generation * 2 ^ 16 + h.rank * 2 ^ 24 + h.cls * 2 ^ 29 + h.step * 2 ^ 32 +
    h.token * 2 ^ 80 + h.srcSeat * 2 ^ 96 + h.localSlot * 2 ^ 112 + h.expert * 2 ^ 128 + h.layer * 2 ^ 144 +
    h.tileFmt * 2 ^ 156 + h.slotIndex * 2 ^ 160 + b01 h.sr * 2 ^ 192)

/-- The header in the first 64 bytes of a slot. -/
def tileHdrOf (b : List Byte) : TileHdr :=
  let w := leAt b 0 64
  { kind := bits w 7 0, srcSlot := bits w 13 8, generation := bits w 23 16, rank := bits w 28 24, cls := bits w 30 29,
    step := bits w 79 32, token := bits w 91 80, srcSeat := bits w 111 96, localSlot := bits w 125 112,
    expert := bits w 141 128, layer := bits w 152 144, tileFmt := bits w 159 156, slotIndex := bits w 191 160, sr := bit w 192 }

/-- The header of a copy as it is sent. -/
def copyHdr (s : State) (slot : Nat) (c : StepCtx) (x : Copy) (kind idx : Nat) : TileHdr :=
  { kind := kind, srcSlot := slot, generation := c.gen, rank := x.rank, cls := c.cls, step := c.step, token := x.token,
    srcSeat := ownSeat s, localSlot := x.localSlot, expert := x.expert, layer := c.layer, tileFmt := s.job.desc.tileFmt,
    slotIndex := idx, sr := s.job.desc.stochRound }

/-- A slot image: header, data and padding. -/
def slotImage (s : State) (h : TileHdr) (tile : List Byte) : List Byte := padTo (pitchOf s.job.desc) (tileHdrBytes h ++ tile)

/-- The send cell of a token's tile (R217). -/
def tileCell (s : State) (slot step token : Nat) : Option CellHeld :=
  s.carafe.cells.find? fun h => decide (h.use = .tile slot step token)

/-- Bytes of a tile behind its header place. -/
def tileLen (s : State) : Nat := tileData s.job.desc.tileFmt s.job.desc.d

/-- The tile as it stands in its send cell, from byte 64 on (R215; log 83). -/
def tileRead (s : State) (slot step token : Nat) : List Byte := match tileCell s slot step token with
  | some h => spRead s (h.addr + 64) (tileLen s)
  | none => []

/-- The tile's cell holds a poisoned word (R313). -/
def tileBad (s : State) (slot step token : Nat) : Bool :=
  (tileCell s slot step token).elim false fun h => spPoisoned s (h.addr + 64) (tileLen s)

/-! ### Duties (R214, R222 to R243) -/

/-- The destination duty of a step. -/
def dutyAt (s : State) (step : Nat) : Option Duty := s.duties.find? fun d => decide (d.step = step)

/-- A duty with nothing in it. -/
def Duty.blank (step : Nat) : Duty :=
  { step := step, layer := 0, epoch := 0, reached := false, counts := [], landed := [], closed := [], cancels := [], srcs := [],
    ended := false }

/-- Change the duty of a step, which begins with the first change. -/
def dutyMap (step : Nat) (f : Duty → Duty) (s : State) : State :=
  if (dutyAt s step).isSome then { s with duties := s.duties.map fun d => if d.step = step then f d else d }
  else { s with duties := s.duties ++ [f (Duty.blank step)] }

/-- A source's part of a duty. -/
def Duty.src (d : Duty) (seat : Nat) : DutySrc :=
  (d.srcs.find? fun x => decide (x.seat = seat)).getD { seat := seat, held := VCounts.zero, last := none }

/-- Change a source's part. -/
def Duty.srcMap (seat : Nat) (f : DutySrc → DutySrc) (d : Duty) : Duty :=
  { d with srcs := f (d.src seat) :: d.srcs.filter fun x => decide (x.seat ≠ seat) }

/-- Change the copies that landed. -/
def Duty.landedMap (p : Landed → Bool) (f : Landed → Landed) (d : Duty) : Duty := { d with landed := mapIf p f d.landed }

/-- A source has cancelled the step. -/
def Duty.cancelledBy (d : Duty) (seat : Nat) : Bool := d.cancels.any fun c => decide (c.msg.sender = seat)

/-- The enabled experts of a layer homed at a seat, by local slot ascending (R221). -/
def homedAt (s : State) (epoch layer seat : Nat) : List Nat :=
  sortBy (fun (a b : Nat) => decide (a < b))
    (((krEntries s epoch layer).filter fun e => krEnable e && krHomed e && decide (krSeat e = seat)).map krSlot)

/-- The local expert slots of a layer (R230), ascending, with their capacities. A resident and a homed expert may name one slot:
it has one work list, with the capacity of the expert of lower index (log 101). -/
def localSlots (s : State) (epoch layer : Nat) : List (Nat × Nat) :=
  let l := ((krEntries s epoch layer).filter fun e => krEnable e && (!krHomed e || decide (krSeat e = ownSeat s))).map fun e =>
    (krSlot e, krCap e)
  sortBy (fun (a b : Nat × Nat) => decide (a.1 < b.1))
    (l.foldl (fun a x => if a.any fun y => decide (y.1 = x.1) then a else a ++ [x]) [])

/-- The slot that runs a step here. -/
def slotOfStep (s : State) (step : Nat) : Option (Nat × StepCtx) :=
  (List.range 64).findSome? fun i => match (slotAt s i).ctx with
    | some c => if c.step = step then some (i, c) else none
    | none => none

/-- The message of a source. -/
def Duty.msg (d : Duty) (seat : Nat) : Option CountMsg := d.counts.find? fun m => decide (m.srcSeat = seat)

/-- The members whose count messages are missing, ascending (R223). -/
def missing (s : State) (d : Duty) : List Nat :=
  sortBy (fun (a b : Nat) => decide (a < b)) ((others s).filter fun m => (d.msg m).isNone)

/-- The block's own counts of the step have gone out. -/
def ownSent (s : State) (step : Nat) : Bool := match slotOfStep s step with
  | some (_, c) => c.countsSent
  | none => true

/-- The count exchange is complete (R223). -/
def exchangeDone (s : State) (d : Duty) : Bool := d.reached && (missing s d).isEmpty && ownSent s d.step

/-- Index and first position of a local slot in a source's counts (R218, R221). -/
def runOf (s : State) (m : CountMsg) (localSlot : Nat) : Option (Nat × Nat) :=
  let l := homedAt s m.epoch m.layer (ownSeat s)
  match l.findIdx? fun x => decide (x = localSlot) with
  | none => none
  | some i => some (sumN (m.counts.take i), m.counts.getD i 0)

/-- Copies a source announced. -/
def announced (d : Duty) (seat : Nat) : Nat := match d.msg seat with
  | some m => sumN m.counts
  | none => 0

/-- Copies of a source that have landed. -/
def landedFrom (d : Duty) (seat : Nat) : List Landed := d.landed.filter fun l => decide (l.hdr.srcSeat = seat)

/-- The step has been reached here and no duty is left of it: step numbers only rise, so its duty is over (R73). -/
def dutyGone (s : State) (step : Nat) : Bool :=
  stepTaken s step && (dutyAt s step).isNone && !(heldSteps s).contains step &&
  !(s.slots.any fun x => x.ctx.any fun c => c.awaitCommit && decide (c.step = step))

/-- Settle the parts whose every copy is answered and acknowledged by its source (R454). -/
def dutySettle (s : State) : State :=
  s.duties.foldl (fun t d => d.srcs.foldl (fun t x =>
    let l := landedFrom d x.seat
    if x.held.isZero = false ∧ d.cancelledBy x.seat = false ∧ l.length = announced d x.seat ∧ (l.all (·.answered)) = true ∧
        (match x.last with
          | some q => serialLe 32 q (txSpace t x.seat 2).ack
          | none => false) = true then
      vaultSettle false x.held (dutyMap d.step (Duty.srcMap x.seat fun y => { y with held := VCounts.zero }) t)
    else t) t) s

/-- The block's own step still waits in Scored to be dispatched, or will once it is resumed. -/
def dispatchDue (s : State) (step : Nat) : Bool := match slotOfStep s step with
  | some (i, c) => let x := slotAt s i
    decide (x.st = .scored) || (decide (x.st = .preempted) && decide (c.resume = .scored))
  | none => false

/-- Nothing is left of a duty: the block's own step is dispatched, every list is closed, and every copy landed, answered and settled. A duty with a cancelled
source is kept, since R233 goes on dropping that source's entries. -/
def dutyOver (s : State) (d : Duty) : Bool :=
  exchangeDone s d && !dispatchDue s d.step && d.cancels.isEmpty && ((localSlots s d.epoch d.layer).all fun x => d.closed.contains x.1) &&
  (d.landed.all (·.answered)) && (d.srcs.all fun x => x.held.isZero) &&
  (others s).all fun m => decide ((landedFrom d m).length = announced d m)

/-- Settle what can settle, and drop the duties that are over. -/
def dutyTidy (s : State) : State :=
  let s := dutySettle s
  { s with duties := s.duties.filter fun d => !dutyOver s d }

/-- The context of work of a step that no slot of this block holds (R408). -/
def Where.ofStep (step : Nat) : Where := { slot := Option.none, gen := 0, step := step }

/-- The context of the block's own work of a step: its slot, where one holds the step (R408). -/
def whereStep (s : State) (step : Nat) : Where := match slotOfStep s step with
  | some x => whereSlot s x.1
  | none => Where.ofStep step

/-- The message against the block's own step: an epoch or a layout that differs ends the job (R89, R222). -/
def countCheck (d : Duty) (m : CountMsg) (s : State) : State :=
  if m.epoch ≠ d.epoch then jobFault 0x60 0x0206 (m.epoch % 2 ^ 32) (whereStep s d.step) s
  else if m.layer ≠ d.layer ∨ m.counts.length ≠ (homedAt s d.epoch d.layer (ownSeat s)).length then
    jobFault 0x60 0x0401 (m.srcSeat % 65536) (whereStep s d.step) s
  else s

/-- The job's frames are applied (R277). -/
def applied (s : State) : Bool := decide (s.job.st = .running) || (decide (s.job.st = .draining) && !s.job.closeFence)

/-- The bytes of a count message (R221). -/
def countMsgBytes (m : CountMsg) : List Byte :=
  let body := m.counts.flatMap fun n => leBytes 2 n
  leBytes 64 (0x31 + b01 m.cancelled * 2 ^ 8 + m.counts.length * 2 ^ 16 + m.step * 2 ^ 32 + m.layer * 2 ^ 80 +
    m.epoch * 2 ^ 96 + m.srcSeat * 2 ^ 128 + sumN m.counts * 2 ^ 144) ++ padTo (roundUp 64 body.length) body

/-- COUNT_MESSAGE_RECEIVE: the message leaves ingress and is checked against the step, or held in the Hinge's cells until its
STEP_RUN is taken (R222). -/
def execCountMessageReceive (hinge : Nat) (m : CountMsg) (s : State) : Host.Outcome State Fault Refusal :=
  live (fun s =>
    if applied s then
      let s := inboxTake m.srcSeat (countMsgBytes m) s
      let d := (dutyAt s m.step).getD (Duty.blank m.step)
      if (d.msg m.srcSeat).isSome ∨ d.ended = true ∨ dutyGone s m.step = true then s
      else
        let s := dutyMap m.step (fun d => { d with counts := d.counts ++ [m] }) s
        if d.reached then countCheck d m s
        else carafeAsk (1 + hinge) (roundUp 64 (64 + 2 * m.counts.length)) 1 1 (.message m.srcSeat m.step) s
    else s) s

/-- COUNT_EXCHANGE_TIMEOUT: the lowest missing seat ends the job, whether or not a slot still runs the step (R223; log 87). -/
def execCountExchangeTimeout (step : Nat) (s : State) : Host.Outcome State Fault Refusal :=
  live (fun s => match dutyAt s step with
    | none => s
    | some d => match missing s d with
      | m :: _ =>
        if applied s ∧ d.reached ∧ d.ended = false ∧ ownSent s step then jobFault 0x60 0x0405 m (whereStep s step) s else s
      | [] => s) s

/-- This block's own STEP_RUN reaches its duty, and the messages that waited are checked (R214, R222). -/
def dutyReach (i : Nat) (s : State) : State :=
  match (slotAt s i).ctx with
  | none => s
  | some c =>
    let s := dutyMap c.step (fun d => { d with reached := true, layer := c.layer, epoch := c.epoch }) s
    let s := freeCells (fun u => match u with
      | .message _ st => decide (st = c.step)
      | .notice _ st => decide (st = c.step)
      | _ => false) s
    match dutyAt s c.step with
    | none => s
    | some d => d.counts.foldl (fun t m => countCheck d m t) s

/-! ### Count messages (R221, R241) -/

/-- A count message for a seat. -/
def countMsgFor (s : State) (c : StepCtx) (cancelled : Bool) (seat : Nat) : CountMsg :=
  { cancelled := cancelled, step := c.step, layer := c.layer, epoch := c.epoch, srcSeat := ownSeat s,
    counts := (homedAt s c.epoch c.layer seat).map fun l =>
      if cancelled then 0 else (c.copies.filter fun x => decide (x.dest = seat ∧ x.localSlot = l)).length }

/-- Send the count messages of the step in slot `i` to every other member. -/
def sendCounts (i : Nat) (cancelled : Bool) (s : State) : State :=
  match (slotAt s i).ctx with
  | none => s
  | some c =>
    let s := (others s).foldl (fun t m => (sendNotice m c.cls (countMsgBytes (countMsgFor t c cancelled m)) t).1) s
    ctxMap i (fun c => { c with countsSent := true }) s

/-! ### Spout (R228 to R230) -/

/-- Beats of a packet of `n` bytes on a Funnel or Spout (R38, R39). -/
def streamBeats (n : Nat) : Nat := ceilDiv n 256

/-- Bytes of a Spout packet (R228). -/
def SpoutPkt.size (k : SpoutPkt) (pitch : Nat) : Nat := 64 + roundUp 64 (16 * k.entries.length) + k.tiles.length * pitch

/-- The 64-byte header of a Spout packet (R228). -/
def SpoutPkt.header (k : SpoutPkt) : List Byte :=
  leBytes 64 (k.kind + k.slot * 2 ^ 8 + k.generation * 2 ^ 16 + k.step * 2 ^ 32 + k.layer * 2 ^ 80 +
    (k.entries.length + k.tiles.length) * 2 ^ 96)

/-- The 16 bytes of a work-list entry (R229). -/
def WorkEntry.image (e : WorkEntry) : List Byte :=
  leBytes 16 (e.localSlot + b01 e.local_ * 2 ^ 14 + b01 e.last * 2 ^ 15 + e.srcSeat * 2 ^ 16 + e.count * 2 ^ 32 + e.firstSlot * 2 ^ 64)

/-- A Spout packet as the host sees it: header, entries or slots, zeros to a multiple of 64 B (R38, R228). -/
def SpoutPkt.image (k : SpoutPkt) (pitch : Nat) : List Byte :=
  let body := k.entries.flatMap WorkEntry.image
  k.header ++ padTo (roundUp 64 body.length) body ++ k.tiles.flatMap fun t => padTo pitch (tileHdrBytes t.1 ++ t.2)

/-- Put a packet on a Spout; its beats are counted (R491, log 49). -/
def spoutPut (k : SpoutPkt) (s : State) : State :=
  ctrAdd (134 + 32 * k.spout) (streamBeats (k.size (pitchOf s.job.desc))) { s with spout := s.spout ++ [k] }

/-- Work-list packets of a local slot (R228). -/
def listPut (d : Duty) (localSlot cls : Nat) (l : List WorkEntry) (s : State) : State :=
  (splitEvery 4092 l).foldl (fun t e =>
    spoutPut { spout := localSlot % 4, kind := 0x11, slot := 0, generation := 0, step := d.step, layer := d.layer, cls := cls,
               entries := e, tiles := [], poison := false } t) s

/-- Local copies of a step in kind 0x12 packets. -/
def tilesPut (slot : Nat) (c : StepCtx) (localSlot : Nat) (l : List Copy) (s : State) : State :=
  let per := max 1 (65472 / pitchOf s.job.desc)
  (splitEvery per l).foldl (fun t e =>
    spoutPut { spout := localSlot % 4, kind := 0x12, slot := slot, generation := c.gen, step := c.step, layer := c.layer,
               cls := c.cls, entries := [],
               tiles := e.map fun x => (copyHdr t slot c x 0x23 (retIdx t.job.desc c.step x.token x.rank), tileRead t slot c.step x.token),
               poison := e.any fun x => tileBad t slot c.step x.token } t) s

/-- Entries of at most capacity + 1 tokens for a range of `n` tokens from receive slot `first`. -/
def cutEntries (localSlot cap seat first n : Nat) (local_ : Bool) : List WorkEntry :=
  (List.range (ceilDiv n (cap + 1))).map fun k =>
    { localSlot := localSlot, local_ := local_, last := false, srcSeat := seat, count := min (cap + 1) (n - k * (cap + 1)),
      firstSlot := if local_ then 0 else first + k * (cap + 1) }

/-- Mark the last entry of a list. -/
def markLast : List WorkEntry → List WorkEntry
  | [] => []
  | [e] => [{ e with last := true }]
  | e :: r => e :: markLast r

/-- A source's copies of a local slot that are in and not listed: first receive slot and number. -/
def listable (s : State) (d : Duty) (localSlot seat : Nat) : Option (Nat × Nat) :=
  match d.msg seat with
  | none => none
  | some m => match runOf s m localSlot with
    | none => none
    | some (first, n) =>
      let l := d.landed.filter fun x => decide (x.hdr.srcSeat = seat ∧ x.hdr.localSlot = localSlot)
      if 0 < n ∧ l.length = n ∧ (l.all fun x => !x.listed) = true ∧ d.cancelledBy seat = false then
        some (rxBaseIdx s seat (ownSeat s) d.step + first, n)
      else none

/-- A source still owes copies of a local slot, or has some that are not listed. -/
def owesCopies (s : State) (d : Duty) (localSlot seat : Nat) : Bool :=
  match d.msg seat with
  | none => true
  | some m => match runOf s m localSlot with
    | none => false
    | some (_, n) => decide (0 < n) && !d.cancelledBy seat &&
        !(d.landed.any fun x => decide (x.hdr.srcSeat = seat ∧ x.hdr.localSlot = localSlot) && x.listed)

/-- The block's own step may still list copies of a local slot. -/
def ownPending (s : State) (step localSlot : Nat) : Bool :=
  match slotOfStep s step with
  | none => false
  | some (i, c) => !c.cancelled && decide ((slotAt s i).stage < 13) &&
      (decide ((slotAt s i).stage < 12) || c.copies.any fun x => decide (x.dest = ownSeat s ∧ x.localSlot = localSlot))

/-- Nothing more will be listed for a local slot (R230). -/
def slotFinal (s : State) (d : Duty) (localSlot : Nat) : Bool :=
  exchangeDone s d && !ownPending s d.step localSlot && (others s).all fun m => !owesCopies s d localSlot m

/-- The separate last entry. -/
def emptyEntry (s : State) (localSlot : Nat) : WorkEntry :=
  { localSlot := localSlot, local_ := true, last := true, srcSeat := ownSeat s, count := 0, firstSlot := 0 }

/-- List what has landed for a local slot, in member order, and close it where nothing more will come. -/
def emitList (step localSlot : Nat) (s : State) : State :=
  match dutyAt s step with
  | none => s
  | some d =>
    match (localSlots s d.epoch d.layer).find? fun x => decide (x.1 = localSlot) with
    | none => s
    | some (_, cap) =>
      if d.reached = false ∨ d.ended = true ∨ d.closed.contains localSlot = true then s
      else
        let now := (others s).filterMap fun m => (listable s d localSlot m).map fun r => (m, r)
        let entries := now.flatMap fun x => cutEntries localSlot cap x.1 x.2.1 x.2.2 false
        let cls := ((d.landed.find? fun x => decide (x.hdr.localSlot = localSlot)).map (·.hdr.cls)).getD 0
        let s := dutyMap step (fun d =>
          now.foldl (fun (d : Duty) x => d.srcMap x.1 fun y => { y with held := y.held.add { VCounts.zero with local_ := x.2.2 } })
            (d.landedMap (fun y => decide (y.hdr.localSlot = localSlot) && now.any fun x => decide (x.1 = y.hdr.srcSeat))
              fun y => { y with listed := true })) s
        match dutyAt s step with
        | none => s
        | some d' =>
          let fin := slotFinal s d' localSlot
          let l := if fin then (if entries.isEmpty then [emptyEntry s localSlot] else markLast entries) else entries
          let s := if fin then dutyMap step (fun d => { d with closed := localSlot :: d.closed }) s else s
          dutyTidy (listPut d localSlot cls l s)

/-- WORK_LIST_EMIT (R230). -/
def execWorkListEmit (step localSlot : Nat) (s : State) : Host.Outcome State Fault Refusal :=
  live (fun s => if applied s then emitList step localSlot s else s) s

/-! ### Dispatch (R224 to R226) -/

/-- The step in another slot still needs window `w`, or a local copy of an earlier step that used it has no answer yet (R101,
R224). A step in stage 16 has read its return slots (log 79). -/
def windowHeld (s : State) (i step : Nat) : Bool :=
  let j := s.job.desc
  ((List.range 64).any fun k => decide (k ≠ i) && match (slotAt s k).ctx with
    | some c => decide (c.step < step ∧ winNo j c.step = winNo j step) && decide ((slotAt s k).stage < 16) &&
        !(decide (12 ≤ (slotAt s k).stage) && c.copies.isEmpty)
    | none => false) ||
  s.duties.any fun d => decide (d.step < step ∧ winNo j d.step = winNo j step) &&
    d.landed.any fun l => decide (l.hdr.kind = 0x23) && !l.answered

/-- Remote copies in the rotation of R225. -/
def rotation (own : Nat) (l : List Copy) : List Copy :=
  sortBy (fun (a b : Copy) => if a.pos ≠ b.pos then decide (a.pos < b.pos)
    else decide ((a.dest + 65535 - own) % 65536 < (b.dest + 65535 - own) % 65536)) (l.filter fun c => decide (c.dest ≠ own))

/-- The transmit window of a space is full (R257). -/
def txFull (s : State) (seat vc : Nat) : Bool :=
  let t := txSpace s seat vc
  decide (getP s 0x0343 ≤ (t.next + 2 ^ 32 - 1 - t.ack) % 2 ^ 32)

/-- Change one copy. -/
def copyMap (i token rank : Nat) (f : Copy → Copy) (s : State) : State :=
  ctxMap i (fun c => { c with copies := mapIf (fun x => decide (x.token = token ∧ x.rank = rank)) f c.copies }) s

/-- The Hinge of the link that the next chunk to a seat would take. -/
def nextHinge (s : State) (seat : Nat) : Nat := ((nextLink (sprayOf s seat) (pathOf s seat).last none).getD 0) / 4

/-- Send one remote copy (R225). A poisoned tile ends the job, naming the Hinge (R133, R313; log 95). -/
def sendCopy (i : Nat) (c : StepCtx) (x : Copy) (s : State) : State :=
  if tileBad s i c.step x.token then jobFault (0x20 + nextHinge s x.dest) 0x0406 0 (whereSlot s i) s
  else
    let idx := rxBaseIdx s (ownSeat s) x.dest c.step + x.pos
    let h := copyHdr s i c x 0x21 idx
    let pitch := pitchOf s.job.desc
    let r := sendMsg x.dest 1 { KftHdr.blank with op := 0, region := 0, cls := c.cls } (idx * pitch)
      (slotImage s h (tileRead s i c.step x.token)) s
    ctxCount i { VCounts.zero with copies := 1, bytesOut := pitch }
      (copyMap i x.token x.rank (fun y => { y with sent := true, seq := r.2 }) r.1)

/-- Send copies in rotation until a destination's window is full. -/
def sendCopies (i : Nat) (c : StepCtx) : List Copy → State → State
  | [], s => s
  | x :: r, s => if txFull s x.dest 1 ∨ applied s = false then s else sendCopies i c r (sendCopy i c x s)

/-- First coverage of a copy's last chunk releases its send cell (R217). -/
def tilesAcked (i : Nat) (s : State) : State :=
  match (slotAt s i).ctx with
  | none => s
  | some c => (c.copies.filter fun x => x.sent && !x.acked && decide (x.dest ≠ ownSeat s)).foldl (fun t x =>
      if covered t x.dest 1 x.seq then
        releaseUse (.tile i c.step x.token) 1 (copyMap i x.token x.rank (fun y => { y with acked := true }) t)
      else t) s

/-- Some work of the step in slot `i` is set aside and has not gone on (R131). -/
def setAside (s : State) (i : Nat) (p : Aside → Bool) : Bool :=
  (slotAt s i).ctx.any fun c => c.aside.any fun a => !a.back && p a

/-- The work is the sending of copies. -/
def isDispatch (a : Aside) : Bool := match a.unit with
  | .dispatch => true
  | _ => false

/-- Go on with the copies of a Dispatched slot whose sending is not set aside. -/
def dispatchPump (i : Nat) (s : State) : State :=
  match (slotAt s i).ctx with
  | none => s
  | some c =>
    if (slotAt s i).st = .dispatched ∧ c.cancelled = false ∧ applied s = true ∧ setAside s i isDispatch = false then
      tilesAcked i (sendCopies i c (rotation (ownSeat s) (c.copies.filter fun x => !x.sent)) s)
    else s

/-- The class of the step in a slot. -/
def slotCls (s : State) (i : Nat) : Nat := (slotAt s i).ctx.elim 4 (·.cls)

/-- The slots, those of the highest class first (R130). -/
def slotsByClass (s : State) : List Nat := (List.range 5).flatMap fun k => (List.range 64).filter fun i => decide (slotCls s i = k)

/-- Send cells of cancelled steps whose copies are acknowledged now (R217). -/
def ackedTiles (s : State) : State :=
  s.kft.tileAcks.foldl (fun t x =>
    if covered t x.dst 1 x.seq then
      releaseUse (.tile x.slot x.step x.token) 1 { t with kft := { t.kft with tileAcks := t.kft.tileAcks.erase x } }
    else t) s

/-- Acknowledgements have come: cells, copies that waited, and settlement. -/
def exchangeAcked (s : State) : State :=
  dutyTidy ((slotsByClass s).foldl (fun t i => dispatchPump i (tilesAcked i t)) (ackedTiles s))

/-- List the step's own copies of one local slot and put their tiles on the Spout (R230). Their counts follow as they move
(R244; log 84). -/
def emitLocal (i : Nat) (c : StepCtx) (s : State) (x : Nat × Nat) : State :=
  let l := c.copies.filter fun y => decide (y.dest = ownSeat s ∧ y.localSlot = x.1)
  match dutyAt s c.step with
  | none => s
  | some d =>
    if l.isEmpty then s
    else
      let es := cutEntries x.1 x.2 (ownSeat s) 0 l.length true
      let fin := exchangeDone s d && (others s).all fun m => !owesCopies s d x.1 m
      let es := if fin then markLast es else es
      let s := if fin then dutyMap c.step (fun d => { d with closed := x.1 :: d.closed }) s else s
      let s := (List.zip (splitEvery (x.2 + 1) l) es).foldl (fun t e =>
        tilesPut i c x.1 e.1 (listPut d x.1 c.cls [e.2] t)) s
      dutyMap c.step (fun d => { d with landed := d.landed ++ l.map fun y =>
        { hdr := copyHdr s i c y 0x23 (retIdx s.job.desc c.step y.token y.rank),
          slotIndex := retIdx s.job.desc c.step y.token y.rank, listed := false, answered := false } }) s

/-- DISPATCH_START: the count exchange is complete and the window free; local copies go to Spout and remote ones to their
destinations (R91, R224, R225). -/
def execDispatchStart (slot : Nat) (s : State) : Host.Outcome State Fault Refusal :=
  live (fun s =>
    let x := slotAt s slot
    match x.ctx with
    | none => s
    | some c => match dutyAt s c.step with
      | none => s
      | some d =>
        if x.st = .scored ∧ x.stage = 12 ∧ exchangeDone s d ∧ applied s ∧
            (c.copies.isEmpty ∨ windowHeld s slot c.step = false) then
          let s := dripStageAll slot c.gen c.step 12 1 c.cls s
          let s := slotMove slot .dispatched s
          let s := setSlot slot { slotAt s slot with stage := 13 } s
          let s := dripStageAll slot c.gen c.step 13 0 c.cls s
          let s := (localSlots s c.epoch c.layer).foldl (emitLocal slot c) s
          dutyTidy (dispatchPump slot s)
        else s) s

/-- Every copy has moved or is acknowledged (R226). -/
def copiesOut (s : State) (c : StepCtx) : Bool :=
  c.copies.all fun x => x.sent && (decide (x.dest = ownSeat s) || serialLe 32 x.seq (txSpace s x.dest 1).ack)

/-- The slot goes on to Awaiting. -/
def toAwaiting (i : Nat) (s : State) : State :=
  match (slotAt s i).ctx with
  | none => s
  | some c =>
    let s := dripStageAll i c.gen c.step 13 1 c.cls s
    let s := slotMove i .awaiting s
    dripStageAll i c.gen c.step 15 0 c.cls (setSlot i { slotAt s i with stage := 15 } s)

/-- DISPATCH_ACKED (R226). -/
def execDispatchAcked (slot : Nat) (s : State) : Host.Outcome State Fault Refusal :=
  live (fun s => match (slotAt s slot).ctx with
    | none => s
    | some c => if (slotAt s slot).st = .dispatched ∧ applied s ∧ copiesOut s c then toAwaiting slot s else s) s

/-- Packets of the same Spout that go before `k`, which follows `before` in the queue: those of a higher class, and earlier
ones of its own (R329). -/
def aheadOf (s : State) (k : SpoutPkt) (before : List SpoutPkt) : List SpoutPkt :=
  (s.spout.filter fun y => decide (y.spout = k.spout ∧ y.cls < k.cls)) ++
    before.filter fun y => decide (y.spout = k.spout ∧ y.cls = k.cls)

/-- A work-list packet has left its Spout: its local entries count as invocations of the block's own step (R244). -/
def listLeft (s : State) (k : SpoutPkt) : State :=
  let n := sumN ((k.entries.filter (·.local_)).map (·.count))
  match slotOfStep s k.step with
  | some x => if n = 0 then s else ctxCount x.1 { VCounts.zero with local_ := n } s
  | none => s

/-- The tile of a local copy. -/
def isTile (slot step token rank : Nat) (t : TileHdr × List Byte) : Bool :=
  decide (t.1.srcSlot = slot ∧ t.1.step = step ∧ t.1.token = token ∧ t.1.rank = rank)

/-- Take the next tile of a Spout off its queue: it must be the first of its packet, with no tile before it. What lists stood
before it have left (R329; log 84). -/
def spoutTake (slot step token rank : Nat) (s : State) : Option State :=
  let is := fun (k : SpoutPkt) => (k.tiles.head?).elim false (isTile slot step token rank)
  match s.spout.find? is with
  | none => none
  | some k =>
    let before := s.spout.takeWhile fun y => !is y
    let ahead := aheadOf s k before
    if ahead.any (fun y => !y.tiles.isEmpty) ∨ domState s (1 + k.spout) ≠ .inService ∨
        setAside s slot (fun a => isDispatch a && decide (a.slice = k.spout)) = true then none
    else
      let rest := (s.spout.drop before.length).drop 1
      let head := if (k.tiles.drop 1).isEmpty then [] else [{ k with tiles := k.tiles.drop 1 }]
      let others := before.filter fun y => decide (y.spout ≠ k.spout ∨ k.cls < y.cls)
      some (ahead.foldl listLeft
        { s with spout := others ++ head ++ rest.filter fun y => !decide (y.spout = k.spout ∧ y.cls < k.cls) })

/-- SPOUT_LOCAL_COPY_SENT: the last beat of a local copy has moved (R217, R226, R244). Nothing moves while the slot is
Pre-empted or the Spout has set the step's copies aside (R131, R240). -/
def execSpoutLocalCopySent (slot token rank : Nat) (s : State) : Host.Outcome State Fault Refusal :=
  live (fun s => match (slotAt s slot).ctx with
    | none => s
    | some c =>
      let mine := fun (l : Landed) => decide (l.hdr.kind = 0x23 ∧ l.hdr.token = token ∧ l.hdr.rank = rank) && !l.listed
      if (slotAt s slot).st = .dispatched ∧ c.cancelled = false ∧ applied s ∧
          (dutyAt s c.step).any (fun d => d.landed.any mine) then
        match spoutTake slot c.step token rank s with
        | none => s
        | some s =>
          let s := dutyMap c.step (Duty.landedMap mine fun l => { l with listed := true }) s
          let s := releaseUse (.tile slot c.step token) 1 s
          ctxCount slot { VCounts.zero with copies := 1 }
            (copyMap slot token rank (fun y => { y with sent := true, acked := true }) s)
      else s) s

/-! ### At the destination (R227, R233) -/

/-- A landing copy was announced (R227): the position of its slot lies in the source's run for its local slot. -/
def isAnnounced (s : State) (h : TileHdr) (idx : Nat) : Bool :=
  match dutyAt s h.step with
  | none => false
  | some d => match d.msg h.srcSeat with
    | none => false
    | some m => match runOf s m h.localSlot with
      | none => false
      | some (first, n) =>
        let base := rxBaseIdx s h.srcSeat (ownSeat s) h.step + first
        decide (base ≤ idx ∧ idx < base + n)

/-- Count bytes a source's copy brought; a part that has already ended as cancelled settles at once. -/
def landCount (step seat n : Nat) (s : State) : State :=
  let c := { VCounts.zero with bytesIn := n }
  match dutyAt s step with
  | none => s
  | some d =>
    if d.cancels.any fun x => decide (x.msg.sender = seat) && x.acked then vaultSettle true c s
    else dutyMap step (Duty.srcMap seat fun y => { y with held := y.held.add c }) s

/-- COPY_LANDED: every write of an arriving copy has its response (R227). -/
def execCopyLanded (hinge : Nat) (h : TileHdr) (slotIndex : Nat) (s : State) : Host.Outcome State Fault Refusal :=
  live (fun s =>
    if applied s then
      if isAnnounced s h slotIndex then
        if (dutyAt s h.step).elim false fun d => d.landed.any fun l => decide (l.hdr.kind = 0x21 ∧ l.slotIndex = slotIndex) then s
        else match hostWrite s 0 (rxVa s slotIndex) (tileHdrBytes h) with
          | (s, .error f) => xlateFault f (Where.ofStep h.step) s
          | (s, .ok _) =>
            let s := dutyMap h.step (fun d => { d with landed := d.landed ++
              [{ hdr := { h with kind := 0x21 }, slotIndex := slotIndex, listed := false, answered := false }] }) s
            landCount h.step h.srcSeat (pitchOf s.job.desc) s
      else jobFault (0x20 + hinge) 0x0401 0 (Where.ofStep h.step) s
    else s) s

/-- The slot indices of an answer-ready packet (R232). -/
def answerIdx (f : FunnelPkt) : List Nat := (List.range f.nRows).map fun i => leAt f.body (4 * i) 4

/-- A Funnel takes packets (R59, R108): its domain is in service. -/
def funnelOpen (s : State) (f : Nat) : Bool := decide (domState s (1 + f) = .inService)

/-- Read `n` bytes of the exchange for the job. Errors on it end the job (R245). -/
def slotRead (va n : Nat) (io : Io) (w : Where) (go : List Byte → State → State) (s : State) : State :=
  match xlateRange s 0 va n false with
  | (s, .error f) => xlateFault f w s
  | (s, .ok l) => jobIo io l [] [] w (fun s => go (readPieces s.hostMem l) s) s

/-- Send an answer to its source (R233). -/
def sendAnswer (h : TileHdr) (idx : Nat) (b : List Byte) (s : State) : State :=
  let pitch := pitchOf s.job.desc
  let off := retIdx s.job.desc h.step h.token h.rank * pitch
  let r := sendMsg h.srcSeat 2 { KftHdr.blank with op := 0, region := 1, cls := h.cls } off
    (tileHdrBytes { h with kind := 0x22 } ++ b.drop 64) s
  dutyMap h.step (fun d => (d.landedMap (fun l => decide (l.hdr.kind = 0x21 ∧ l.slotIndex = idx)) fun l => { l with answered := true }).srcMap
    h.srcSeat fun y => { y with last := some r.2, held := y.held.add { VCounts.zero with bytesOut := pitch } }) r.1

/-- What R233 does with an entry, by the header in its receive slot. -/
inductive EntryWay where
  | send
  | drop
  | bad
  deriving DecidableEq, Repr

/-- The cases of R233. -/
def entryWay (s : State) (idx : Nat) (h : TileHdr) : EntryWay :=
  if h.kind ≠ 0x21 then .bad
  else match dutyAt s h.step with
    | none => .bad
    | some d =>
      if d.cancelledBy h.srcSeat then .drop
      else match d.landed.find? fun l => decide (l.hdr.kind = 0x21 ∧ l.slotIndex = idx) with
        | none => .bad
        | some l => if l.answered ∨ l.hdr.srcSeat ≠ h.srcSeat then .bad else .send

/-- One answer-ready entry of a receive slot (R233): its header is read first, and the data only of an answer that is sent. -/
def receiveEntry (funnel : Nat) (s : State) (e : Nat × Io) : State :=
  if applied s then
    match hostRead s 0 (rxVa s e.1) 64 with
    | (s, .error f) => xlateFault f Where.none s
    | (s, .ok b) =>
      let h := tileHdrOf b
      let w := if h.kind = 0x21 then Where.ofStep h.step else Where.none
      match entryWay s e.1 h with
      | .bad => slotRead (rxVa s e.1) 64 e.2 w (fun _ s => jobFault (0x18 + funnel) 0x0401 0 w s) s
      | .drop => slotRead (rxVa s e.1) 64 e.2 w (fun _ s =>
          ctrInc 4 (dutyMap h.step (Duty.landedMap (fun l => decide (l.hdr.kind = 0x21 ∧ l.slotIndex = e.1))
            fun l => { l with answered := true }) s)) s
      | .send => slotRead (rxVa s e.1) (pitchOf s.job.desc) e.2 w (sendAnswer h e.1) s
  else s

/-- The requests that an entry's reads make. -/
def entryReqs (s : State) (i : Nat) : Nat := match (hostRead s 0 (rxVa s i) 64).2 with
  | .ok b => reqCount s 0 (rxVa s i) (if entryWay s i (tileHdrOf b) = .send then pitchOf s.job.desc else 64) false
  | .error _ => 0

/-- The entries of a packet in order; `io` answers their requests (log 4). -/
def receiveEntries (funnel : Nat) : Io → List Nat → State → State
  | _, [], s => s
  | io, i :: r, s =>
    let q := if r.isEmpty then (io, .ok) else ioSplit (entryReqs s i) io
    receiveEntries funnel q.2 r (receiveEntry funnel s (i, q.1))

/-- The bytes of a Funnel packet as recorded: header and chunks (R107, R393). -/
def funnelBytes (kind : Nat) (f : FunnelPkt) : List Byte :=
  leBytes 64 (kind + f.slot * 2 ^ 8 + f.generation * 2 ^ 16 + f.step * 2 ^ 32 + f.firstToken * 2 ^ 80 + f.nRows * 2 ^ 96) ++ f.body

/-- A Funnel packet has moved: it is recorded (R393) and its beats are counted (R491). -/
def funnelSeen (kind : Nat) (f : FunnelPkt) (s : State) : State :=
  ctrAdd (133 + 32 * f.funnel) (streamBeats (funnelBytes kind f).length) (recOriginal 1 f.funnel 0 false (funnelBytes kind f) s)

/-- A Funnel packet of any kind: with no job it is discarded and counted (R108). -/
def funnelTake (kind : Nat) (f : FunnelPkt) (go : State → State) (s : State) : State :=
  if funnelOpen s f.funnel then
    let s := funnelSeen kind f s
    match s.job.st with
    | .closed => ctrInc 0 s
    | .faulted => s
    | _ => go s
  else s

/-- ANSWER_READY_RECEIVE (R232, R233). -/
def execAnswerReadyReceive (f : FunnelPkt) (io : Io) (s : State) : Host.Outcome State Fault Refusal :=
  live (funnelTake 3 f fun s => dutyTidy (receiveEntries f.funnel io (answerIdx f) s)) s

/-! ### Answers at the source (R234) -/

/-- What becomes of an answer. -/
inductive AnswerWay where
  | take
  | dup
  | stale
  | bad
  deriving DecidableEq, Repr

/-- The table of R234. -/
def answerWay (s : State) (slot gen step t j : Nat) : AnswerWay :=
  let x := slotAt s slot
  if gen ≠ x.gen then .stale
  else match x.ctx with
    | none => .bad
    | some c =>
      if c.step ≠ step ∨ c.nTok ≤ t ∨ x.st = .scored ∨ c.cancelled = true then .bad
      else match c.copies.find? fun y => decide (y.token = t ∧ y.rank = j) with
        | none => .bad
        | some y => if y.answered then .dup else .take

/-- Act on an answer: `write` puts a taken one into its return slot. -/
def answerAct (unit slot gen step t j : Nat) (write : State → State) (s : State) : State :=
  match answerWay s slot gen step t j with
  | .stale => ctrInc 5 s
  | .dup => ctrInc 6 s
  | .bad => jobFault unit 0x0401 0 (whereSlot s slot) s
  | .take => write (copyMap slot t j (fun y => { y with answered := true }) s)

/-- ANSWER_RECEIVE: a VC2 answer at the source (R234). -/
def execAnswerReceive (hinge : Nat) (h : TileHdr) (data : List Byte) (s : State) : Host.Outcome State Fault Refusal :=
  live (fun s =>
    if applied s then
      let pitch := pitchOf s.job.desc
      let s := match (slotAt s h.srcSlot).ctx with
        | some c => if c.step = h.step then ctxCount h.srcSlot { VCounts.zero with bytesIn := pitch } s else s
        | none => s
      answerAct (0x20 + hinge) h.srcSlot h.generation h.step h.token h.rank (fun s =>
        match hostWrite s 0 (retVa s (retIdx s.job.desc h.step h.token h.rank)) (padTo pitch (tileHdrBytes h ++ data)) with
        | (s, .error f) => xlateFault f (whereSlot s h.srcSlot) s
        | (s, .ok _) => s) s
    else s) s

/-- One answer-ready entry of a return slot (R232, R234). -/
def returnEntry (f : FunnelPkt) (s : State) (idx : Nat) : State :=
  if applied s then
    let j := s.job.desc
    let per := j.bMax * j.kMax
    let rem := idx % per
    let mark := Duty.landedMap (fun l => decide (l.hdr.kind = 0x23 ∧ l.slotIndex = idx)) fun l => { l with answered := true }
    let s := { s with duties := mapIf (fun (d : Duty) => decide (d.step = f.step)) mark s.duties }
    if (slotAt s f.slot).gen = f.generation ∧ idx / per ≠ winNo j f.step then jobFault (0x18 + f.funnel) 0x0401 0 (whereSlot s f.slot) s
    else answerAct (0x18 + f.funnel) f.slot f.generation f.step (rem / j.kMax) (rem % j.kMax) (fun s => s) s
  else s

/-- ANSWER_READY_RETURN (R232, R234). -/
def execAnswerReadyReturn (f : FunnelPkt) (s : State) : Host.Outcome State Fault Refusal :=
  live (funnelTake 4 f fun s => dutyTidy ((answerIdx f).foldl (returnEntry f) s)) s

/-! ### Cancelling (R91 to R93, R241 to R243) -/

/-- A cancel notice or acknowledgement (R242). -/
def cancelBytes (kind : Nat) (m : CancelMsg) : List Byte :=
  leBytes 64 (kind + m.srcSlot * 2 ^ 8 + m.generation * 2 ^ 16 + m.step * 2 ^ 32 + m.sender * 2 ^ 96 + m.retSeq * 2 ^ 128)

/-- CANCEL_NOTICE_RECEIVE (R243): it leaves ingress; before the step is reached it is held in a cell of its Hinge, with the
count messages. A notice for a step whose duty is over finds nothing left to end and is acknowledged at once (log 88). -/
def execCancelNoticeReceive (hinge : Nat) (m : CancelMsg) (s : State) : Host.Outcome State Fault Refusal :=
  live (fun s =>
    if applied s then
      let s := inboxTake m.sender (cancelBytes 0x32 m) s
      let gone := dutyGone s m.step
      let d := (dutyAt s m.step).getD (Duty.blank m.step)
      if d.cancelledBy m.sender then s
      else
        let early := !d.reached && !gone
        let s := dutyMap m.step (fun d => { d with reached := d.reached || gone, ended := d.ended || gone,
                                                   cancels := d.cancels ++ [{ msg := m, early := early, acked := false }] }) s
        if early then carafeAsk (1 + hinge) 64 m.cls 1 (.notice m.sender m.step) s else s
    else s) s

/-- Every entry already emitted for a source's copies has been answered. -/
def listedAnswered (d : Duty) (seat : Nat) : Bool := (landedFrom d seat).all fun l => !l.listed || l.answered

/-- CANCEL_ACK_SEND: the acknowledgement goes out and the source's part ends (R243, R454). -/
def execCancelAckSend (src step : Nat) (s : State) : Host.Outcome State Fault Refusal :=
  live (fun s => match dutyAt s step with
    | none => s
    | some d => match d.cancels.find? fun c => decide (c.msg.sender = src) && !c.acked with
      | none => s
      | some c =>
        if applied s ∧ d.reached ∧ listedAnswered d src ∧ (c.early = false ∨ exchangeDone s d) then
          let last := ((txSpace s src 2).next + 2 ^ 32 - 1) % 2 ^ 32
          let s := (sendNotice src c.msg.cls (cancelBytes 0x33 { c.msg with sender := ownSeat s, retSeq := last }) s).1
          let held := (d.src src).held
          let s := dutyMap step (fun d => { (d.srcMap src fun y => { y with held := VCounts.zero }) with
            cancels := d.cancels.map fun x => if x.msg.sender = src then { x with acked := true } else x }) s
          if held.isZero then s else vaultSettle true held s
        else s) s

/-- CANCEL_ACK_RECEIVE (R92). -/
def execCancelAckReceive (m : CancelMsg) (s : State) : Host.Outcome State Fault Refusal :=
  live (fun s =>
    let s := if applied s then inboxTake m.sender (cancelBytes 0x33 m) s else s
    match (slotAt s m.srcSlot).ctx with
    | none => s
    | some c =>
      if applied s ∧ c.cancelled ∧ c.gen = m.generation ∧ c.step = m.step then
        ctxMap m.srcSlot (fun c => { c with dests := c.dests.map fun d =>
          if d.seat = m.sender then { d with acked := true, retSeq := m.retSeq } else d }) s
      else s) s

/-- The destinations of a step: members whose counts had a total above 0 (R241). -/
def stepDests (s : State) (c : StepCtx) : List Nat :=
  (others s).filter fun m => c.copies.any fun x => decide (x.dest = m)

/-- Send cells of copies that will never be sent (R217): before dispatch all of them, after it those of every copy not sent; and
the operand rows that wait in the staging area. -/
def dropTiles (i : Nat) (c : StepCtx) (dispatched : Bool) (s : State) : State :=
  let s := freeCells (fun u => match u with
    | .staging a b _ => decide (a = i ∧ b = c.step)
    | .tile a b _ => !dispatched && decide (a = i ∧ b = c.step)
    | _ => false) s
  if dispatched then (c.copies.filter fun x => !x.sent).foldl (fun t x => releaseUse (.tile i c.step x.token) 1 t) s else s

/-- Take back what a cancelled step still has in the Spout queues (R241; log 84): its tiles, the entries that list them, and the
marks of the local slots that such an entry was to close. -/
def spoutDrop (i step : Nat) (s : State) : State :=
  let lists := fun (k : SpoutPkt) => decide (k.kind = 0x11 ∧ k.step = step)
  let gone := (s.spout.filter lists).flatMap fun k => k.entries.filter fun e => e.local_ && decide (0 < e.count)
  let open_ := (gone.filter (·.last)).map (·.localSlot)
  let left := (s.spout.filter fun k => !decide (k.kind = 0x12 ∧ k.slot = i ∧ k.step = step)).map fun k =>
    if lists k then { k with entries := k.entries.filter fun e => !e.local_ || decide (e.count = 0) } else k
  let own := fun (l : Landed) => decide (l.hdr.kind = 0x23) && !l.listed
  let drop := fun (d : Duty) => ({ d with
    landed := d.landed.filter fun l => !own l, closed := d.closed.filter fun x => !open_.contains x } : Duty)
  { s with spout := left.filter fun k => !(k.entries.isEmpty && k.tiles.isEmpty),
           duties := mapIf (fun (d : Duty) => decide (d.step = step)) drop s.duties }

/-- The cells of rows and shared rows of a step. -/
def dropRows (i step : Nat) (s : State) : State :=
  freeCells (fun u => match u with
    | .shared a b _ => decide (a = i ∧ b = step)
    | _ => false) s

/-- BATCH_CANCEL takes effect on a step in flight (R91, R93, R241): `scrub` leaves a partial output open. A step that awaits a
commit knows neither its epoch nor its experts: its cancelled counts go out when the commit is decided (log 87). -/
def cancelStep (i : Nat) (cmd : Option OpenCmd) (scrub : Nat → State → State) (s : State) : State :=
  match (slotAt s i).ctx with
  | none => s
  | some c =>
    let x := slotAt s i
    let st := if x.st = .preempted then c.resume else x.st
    let s := c.preemptCmds.foldl (fun t p => finish p 0x0404 0 0 0 0 t) s
    let s := if st = .combining ∧ x.stage = 16 then scrub i s else s
    let dests := if c.countsSent then stepDests s c else []
    let s := if c.countsSent ∨ c.awaitCommit then s else sendCounts i true s
    let s := dests.foldl (fun t m => (sendNotice m c.cls
      (cancelBytes 0x32 { srcSlot := i, generation := c.gen, step := c.step, sender := ownSeat t, retSeq := 0, cls := c.cls }) t).1) s
    let s := spoutDrop i c.step (dropRows i c.step (dropTiles i c (decide (13 ≤ x.stage)) s))
    let s := finishStep i c 0x0404 (ctrInc 46 s)
    let s := ctxMap i (fun y =>
      { y with
        cancelled := true, cancelCmd := cmd, preemptCmds := [],
        dests := dests.map fun m => { seat := m, acked := false, retSeq := 0 } }) s
    let s := setSlot i { slotAt s i with gen := (x.gen + 1) % 256, exits := [] } s
    dutyTidy (slotMove i .cancelled s)

/-- The counts have gone out, every destination has acknowledged, and what it had sent has come (R92). -/
def tornDown (s : State) (c : StepCtx) : Bool :=
  c.cancelled && c.countsSent && c.dests.all fun d => d.acked && serialLe 32 d.retSeq (rxSpace s d.seat 2).cum

/-- Copies of a step sent and not acknowledged: their send cells outlive the step (R217). -/
def tilesOwed (s : State) (i : Nat) (c : StepCtx) : List TileAck :=
  (c.copies.filter fun x => x.sent && !x.acked && decide (x.dest ≠ ownSeat s)).map fun x =>
    { slot := i, step := c.step, token := x.token, dst := x.dest, seq := x.seq }

/-- CANCEL_TEARDOWN_COMPLETE: the slot is Idle (R92, R454). -/
def execCancelTeardownComplete (slot : Nat) (s : State) : Host.Outcome State Fault Refusal :=
  live (fun s => match (slotAt s slot).ctx with
    | none => s
    | some c =>
      if (slotAt s slot).st = .cancelled ∧ applied s ∧ tornDown s c then
        let s := { s with kft := { s.kft with tileAcks := s.kft.tileAcks ++ tilesOwed s slot c } }
        let s := slotMove slot .idle (ctxSettle true slot s)
        let s := setSlot slot { slotAt s slot with ctx := none, stage := 0 } s
        closeTry (finishOpt c.cancelCmd 0 0 s)
      else s) s

end Sys2Proof.Machine
end

