-- ==== Sys2Proof/Machine/StepRun.lean ====
section
/-! DEFINITION. STEP_RUN and stage 1 (R72 to R75, R96, R107 to R109, R235), and the memory port (R43 to R48). -/

namespace Sys2Proof.Machine

/-! ### The memory port -/

/-- Issue a request, or let it wait for an identifier, or for MEM to make requests again (R43, R59). -/
def mportIssue (m : MReq) (s : State) : State :=
  match if domState s 13 = .inService then freeId s m.write m.channel else none with
  | some i => { s with mport := { s.mport with out := s.mport.out ++ [{ m with id := i }] } }
  | none => { s with mport := { s.mport with wait := s.mport.wait ++ [m] } }

/-- Issue the requests of some pieces, of a class. -/
def mportAsk (write : Bool) (cls : Nat) (who : Requester) (l : List Piece) (s : State) : State :=
  (requestsOf s l).foldl (fun t p => mportIssue
    { write := write, channel := channelOf t p.pa, id := 0, cls := cls, pa := p.pa, len := p.len, who := who } t) s

/-- Class 0 first, then 1, 2 and 3, each in its order (R329). -/
def byClass {α : Type} (cls : α → Nat) (l : List α) : List α :=
  (List.range 4).flatMap fun k => l.filter fun x => decide (cls x = k)

/-- Requests that waited go out, the highest class first (R329). -/
def mportPump (s : State) : State :=
  (byClass MReq.cls s.mport.wait).foldl (fun t m => mportIssue m t) { s with mport := { s.mport with wait := [] } }

/-- A request has its last response. -/
def mportDone (m : MReq) (s : State) : State :=
  mportPump (mmuRetire { s with mport := { s.mport with out := s.mport.out.erase m } })

/-- An outstanding request. -/
def mportFind (s : State) (write : Bool) (ch id : Nat) : Option MReq :=
  s.mport.out.find? fun m => decide (m.write = write ∧ m.channel = ch ∧ m.id = id)

/-- The slot a request serves. -/
def reqWhere (s : State) (r : Requester) : Where := match r with
  | .stepRow i _ _ => whereSlot s i
  | .outRow i _ => whereSlot s i

/-- Some request of a requester is outstanding or waits. -/
def reqOpen (s : State) (r : Requester) : Bool :=
  s.mport.out.any (fun m => decide (m.who = r)) || s.mport.wait.any fun m => decide (m.who = r)

/-- A response with no outstanding request: discarded and counted. The response that ends the late request frees its
quarantined identifier: of a read, the beat marked last (R48, log 68). -/
def mportStray (write : Bool) (ch id : Nat) (last : Bool) (s : State) : State :=
  ctrInc 24 { s with mport := { s.mport with quar := if last then s.mport.quar.filter fun q => decide (q ≠ (write, ch, id)) else s.mport.quar } }

/-! ### Rows of the input descriptor (R109) -/

/-- The input descriptor of a step. -/
def inDescOf (c : StepCtx) : Desc := descOf (leBytes 64 c.inDesc) 0

/-- Read row `t` of the input descriptor: the accesses and the values. -/
def inRow (c : StepCtx) (d t : Nat) (r : TRun) : TRun × List Num :=
  let x := inDescOf c
  let q := rowRead x (x.outer (min t (x.rows - 1))) d r
  (q.1, q.2.map (elemNum x.fmt))

/-- Take a row into the step. -/
def rowPut (i t : Nat) (v : List Num) (s : State) : State := ctxMap i (fun c => { c with rows := c.rows ++ [(t, v)] }) s

/-- The row's reads are all answered: take it. -/
def rowReady (i step t : Nat) (s : State) : State :=
  match (slotAt s i).ctx with
  | none => s
  | some c =>
    if c.step = step ∧ c.cancelled = false ∧ (c.rows.any fun r => decide (r.1 = t)) = false then
      let r := inRow c s.job.desc.d t (TRun.start s)
      match r.1.bad with
      | some f => xlateFault f (whereSlot r.1.s i) r.1.s
      | none => rowPut i t r.2 r.1.s
    else s

/-- Issue the reads of every row. -/
def readRows (i : Nat) (c : StepCtx) (s : State) : State :=
  (List.range c.nTok).foldl (fun t k =>
    if t.job.st = .faulted then t
    else if (inDescOf c).empty then rowPut i k (List.replicate t.job.desc.d Num.zero) t
    else
      let r := inRow c t.job.desc.d k (TRun.start t)
      match r.1.bad with
      | some f => xlateFault f (whereSlot r.1.s i) r.1.s
      | none => mportAsk false c.cls (.stepRow i c.step k) r.1.rd r.1.s) s

/-- Write error or time-out of a job's write: the bytes are open (R47). -/
def reqScrub (m : MReq) (s : State) : State := if m.write then freePieces [{ pa := m.pa, len := m.len }] s else s

/-- What a response means to the one who asked. -/
def reqAnswered (m : MReq) (s : State) : State :=
  match m.who with
  | .stepRow i step t => if reqOpen s m.who then s else rowReady i step t s
  | .outRow _ _ => s

/-- MPORT_READ_DATA (R45, R47, R48). -/
def execMportReadData (channel id err : Nat) (last badParity : Bool) (s : State) : Host.Outcome State Fault Refusal :=
  live (fun s => match mportFind s false channel id with
    | none => mportStray false channel id last s
    | some m =>
      let e : ReqErr := { channel := channel, id := id, write := false, timeout := false, err := if badParity then 3 else err }
      let s := if e.err = 0 then s else reqFault e (reqWhere s m.who) (errCount e s)
      if last then reqAnswered m (mportDone m s) else s) s

/-- MPORT_WRITE_RESPONSE (R46 to R48). -/
def execMportWriteResponse (channel id err : Nat) (s : State) : Host.Outcome State Fault Refusal :=
  live (fun s => match mportFind s true channel id with
    | none => mportStray true channel id true s
    | some m =>
      let e : ReqErr := { channel := channel, id := id, write := true, timeout := false, err := err }
      let s := if err = 0 then s else reqFault e (reqWhere s m.who) (reqScrub m (errCount e s))
      reqAnswered m (mportDone m s)) s

/-- MPORT_TIMEOUT: a bus error, and the identifier is quarantined (R48). -/
def execMportTimeout (write : Bool) (channel id : Nat) (s : State) : Host.Outcome State Fault Refusal :=
  live (fun s => match mportFind s write channel id with
    | none => s
    | some m =>
      let e : ReqErr := { channel := channel, id := id, write := write, timeout := true, err := 0 }
      reqFault e (reqWhere s m.who) (mportDone m (reqScrub m (errCount e s)))) s

/-! ### Rows on the Funnels (R107, R108, R235) -/

/-- Element code of in_fmt (R102). -/
def inFmtCode (f : Nat) : Nat := if f = 0 then 1 else if f = 1 then 2 else if f = 2 then 0 else 3

/-- Bytes of a row on a Funnel. -/
def funnelRow (l : Layer) (d : Nat) : Nat := roundUp 64 (d * (elemBits (inFmtCode l.inFmt) / 8))

/-- Row `r` of a packet's body as values. -/
def funnelVals (l : Layer) (d : Nat) (body : List Byte) (r : Nat) : List Num :=
  let n := elemBits (inFmtCode l.inFmt) / 8
  (List.range d).map fun i => elemNum (inFmtCode l.inFmt) (leAt body (r * funnelRow l d + i * n) n, 127)

/-- Bytes a packet should have carried and did not are open. -/
def bodyFill (n : Nat) (body : List Byte) (s : State) : State × List Byte :=
  let f := freeBytes s (n - body.length)
  (f.1, body ++ f.2)

/-- Take the rows of a packet for the step in slot `i` (R108, R235). Rows that a packet of kind 0x01 brings for a step that
reads its input from memory are taken too (log 72). -/
def takeRows (kind : Nat) (f : FunnelPkt) (i : Nat) (l : Layer) (s : State) : State :=
  let d := s.job.desc.d
  let b := bodyFill (f.nRows * funnelRow l d) f.body s
  (List.range f.nRows).foldl (fun t r =>
    match (slotAt t i).ctx with
    | none => t
    | some c =>
      let k := f.firstToken + r
      let got := if kind = 1 then c.rows else c.shared
      if t.job.st = .faulted then t
      else if c.nTok ≤ k ∨ (got.any fun x => decide (x.1 = k)) = true then
        jobFault (0x18 + f.funnel) 0x0401 0 (whereSlot t i) t
      else
        let v := funnelVals l d b.2 r
        if kind = 1 then rowPut i k v t
        else carafeAsk 9 (4 * d) c.cls 1 (.shared i c.step k) (ctxMap i (fun c => { c with shared := c.shared ++ [(k, v)] }) t)) b.1

/-- The step number is above every step the slot has taken. -/
def aboveSlot (x : Slot) (step : Nat) : Bool := decide (x.lastStep < step) || (decide (x.prevLayer = none) && decide (step = 0))

/-- Hold a packet in the Funnel's cells (R108). -/
def holdPacket (kind : Nat) (f : FunnelPkt) (s : State) : State :=
  carafeAsk 0 (min 65536 f.body.length) f.cls 1 (.held f.slot f.step f.firstToken)
    { s with funnelHeld := s.funnelHeld ++ [(kind, f)] }

/-- Assign a packet to a step (R108, R235). -/
def assignPacket (kind : Nat) (f : FunnelPkt) (s : State) : State :=
  let x := slotAt s f.slot
  let newer := decide (x.gen = f.generation) || serialLt 8 x.gen f.generation
  match x.ctx with
  | some c =>
    if c.gen = f.generation ∧ c.step = f.step ∧ c.cancelled = false then
      if c.awaitCommit then holdPacket kind f s
      else match layerIn s c.epoch c.layer with
        | none => s
        | some l =>
          if kind = 2 ∧ l.shared = false then jobFault (0x18 + f.funnel) 0x0401 0 (whereSlot s f.slot) s
          else takeRows kind f f.slot l s
    else if aboveSlot x f.step ∧ newer then holdPacket kind f s else ctrInc 0 s
  | none => if aboveSlot x f.step ∧ newer then holdPacket kind f s else ctrInc 0 s

/-- The packets held for the step in slot `i` are assigned again. -/
def flushHeld (i : Nat) (s : State) : State :=
  match (slotAt s i).ctx with
  | none => s
  | some c =>
    if c.awaitCommit then s
    else
      let mine := s.funnelHeld.filter fun f => decide (f.2.slot = i ∧ f.2.step ≤ c.step)
      let s := { s with funnelHeld := s.funnelHeld.filter fun f => !decide (f.2.slot = i ∧ f.2.step ≤ c.step) }
      let s := freeCells (fun u => match u with
        | .held a b _ => decide (a = i ∧ b ≤ c.step)
        | _ => false) s
      mine.foldl (fun t f => assignPacket f.1 f.2 t) s

/-- ROUTER_ROWS_PACKET (R107, R108). -/
def execRouterRowsPacket (f : FunnelPkt) (s : State) : Host.Outcome State Fault Refusal :=
  live (funnelTake 1 f (assignPacket 1 f)) s

/-- SHARED_OUTPUT_PACKET (R235). -/
def execSharedOutputPacket (f : FunnelPkt) (s : State) : Host.Outcome State Fault Refusal :=
  live (funnelTake 2 f (assignPacket 2 f)) s

/-- FUNNEL_MALFORMED: the packet is discarded, and a job ends (R40). -/
def execFunnelMalformed (funnel : Nat) (s : State) : Host.Outcome State Fault Refusal :=
  live (fun s =>
    if funnelOpen s funnel then
      if jobExists s then jobFault (0x18 + funnel) 0x0401 0 Where.none s else ctrInc 0 s
    else s) s

/-- FUNNEL_POISONED_BEAT: a job ends, naming the Funnel and the packet's slot (R41); with no job the packet is only
discarded and counted (R108). -/
def execFunnelPoisonedBeat (funnel slot : Nat) (s : State) : Host.Outcome State Fault Refusal :=
  live (fun s =>
    if funnelOpen s funnel then
      if jobExists s then jobFault (0x18 + funnel) 0x0406 0 (whereSlot s slot) s else ctrInc 0 s
    else s) s

/-! ### STEP_RUN -/

/-- The fields of a STEP_RUN (R72). -/
structure RunArgs where
  slot : Nat
  gen : Nat
  layer : Nat
  step : Nat
  nTok : Nat
  inSrc : Bool
  exitVa : Nat
  exitEn : Bool

/-- Read them. -/
def runArgs (p : Packet) : RunArgs :=
  { slot := p.p0.toNat % 64, gen := bits p.p0.toNat 15 8, layer := bits p.p0.toNat 24 16,
    step := p.p1.toNat + (p.p2.toNat % 65536) * 2 ^ 32, nTok := bits p.p2.toNat 28 16, inSrc := bit p.p2.toNat 29,
    exitVa := p.p3.toNat * 64 + (p.p4.toNat % 1024) * 2 ^ 38, exitEn := bit p.p4.toNat 10 }

/-- A pending commit governs the step (R88). -/
def underCommit (s : State) (step : Nat) : Bool := match s.ep.commit with
  | some c => decide (c.step ≤ step)
  | none => false

/-- The layer is loaded in the epoch of the step (R105). -/
def layerLoaded (s : State) (step layer : Nat) : Bool :=
  if underCommit s step then (layersNext s).any fun l => decide (l.layer = layer)
  else match epochFor s step with
    | some e => e.layers.any fun l => decide (l.layer = layer)
    | none => false

/-- A STEP_RUN for the slot is held by brace or the release instant: a second one is refused as if the slot were taken (R91;
log 69). -/
def slotHeld (s : State) (i : Nat) : Bool :=
  s.latch.held.any fun h => decide (h.why ≠ .after ∧ h.cmd.opcode.toNat = 0x20 ∧ h.cmd.p0.toNat % 64 = i)

/-- ST_STEP_ORDER, ST_STALE_GEN, ST_SLOT_STATE, in this order (R61). -/
def runState (s : State) (a : RunArgs) : Option (Nat × Nat × Nat) :=
  let x := slotAt s a.slot
  if stepTaken s a.step then some (0x0207, 0, 0)
  else if x.gen ≠ a.gen then some (0x0204, x.gen, 0)
  else if (x.st ≠ .idle ∧ x.st ≠ .done) ∨ slotHeld s a.slot = true then some (0x0203, 0, 0)
  else none

/-- The context of a step that begins. -/
def runCtx (p : Packet) (c : OpenCmd) (s : State) : StepCtx :=
  let a := runArgs p
  { step := a.step, layer := a.layer, nTok := a.nTok, cls := p.cls.toNat, inSrc := a.inSrc, outDesc := leAt (pBody p) 0 64,
    inDesc := leAt (pBody p) 64 64, exitVa := a.exitVa, exitEn := a.exitEn, gen := (slotAt s a.slot).gen, cmd := c,
    startKt := s.kt, epoch := ((epochFor s a.step).map (·.num)).getD 0, awaitCommit := underCommit s a.step, rows := [],
    shared := [], sels := [], copies := [], outs := [], outPos := 0, aside := [], countsSent := false, cancelled := false, dests := [],
    cancelCmd := none, preemptCmds := [], resume := .scored, digests := [],
    held := { VCounts.zero with tokensIn := a.nTok } }

/-! ### The Keyring's check (R120, R121) -/

/-- The digests of the four slice copies of a layer's array. -/
def krDigests (s : State) (epoch layer : Nat) : List Nat :=
  (List.range 4).map fun i => (krFind (krCopy s i) epoch layer).elim 0 (·.digest)

/-- How many of a list equal `v`. -/
def sameCount (l : List Nat) (v : Nat) : Nat := (l.filter fun x => decide (x = v)).length

/-- What a digest mismatch reports (R120): the mask of disagreeing slices and, in bit 4, that no digest is held twice. Of
two digests held twice, that of the lowest slice counts as most held. -/
def digestMismatch (l : List Nat) : Option Nat :=
  let best := l.foldl (fun a v => max a (sameCount l v)) 0
  if l.all fun v => decide (some v = l.head?) then none
  else if best ≤ 1 then some 0x1F
  else
    let held := (l.find? fun v => decide (sameCount l v = best)).getD 0
    some (maskOf ((List.range l.length).filter fun i => decide (l.getD i 0 ≠ held)))

/-- The lowest slice in a mask. -/
def lowSlice (m : Nat) : Nat := ((List.range 4).find? fun i => bit m i).getD 0

/-- The Keyring's check at a step's start (R120, R121). -/
def krCheck (i : Nat) (c : StepCtx) (s : State) : State :=
  match krPoisoned s c.epoch c.layer with
  | some k => jobFault (0x10 + k) 0x0406 0 (whereSlot s i) s
  | none => match digestMismatch (krDigests s c.epoch c.layer) with
    | some m => jobFault (0x10 + lowSlice m) 0x0401 m (whereSlot s i) s
    | none => s

/-! ### The start of a step -/

/-- A step in slot `i` whose epoch is known is reached: its Keyring copies are compared, the messages and packets that waited for it
are taken, and its input rows are asked for (R109, R120, R222). -/
def reachStep (i : Nat) (c : StepCtx) (s : State) : State :=
  let s := krCheck i c s
  if s.job.st = .faulted then s
  else
    let s := dutyReach i s
    flushHeld i (if c.inSrc then readRows i c s else s)

/-- A STEP_RUN starts: Idle or Done to Scored, stage 1 (R91, R96, R117). -/
def beginStep (p : Packet) (c : OpenCmd) (s : State) : State :=
  let a := runArgs p
  let x := slotAt s a.slot
  let clear := match x.prevLayer with
    | some l => decide (a.layer ≤ l)
    | none => true
  let k := runCtx p c s
  let s := setSlot a.slot { x with exits := if clear then [] else x.exits, prevLayer := some a.layer, lastStep := a.step,
                                   stage := 1, ctx := some k } s
  let s := dripStageAll a.slot k.gen k.step 1 0 k.cls (slotMove a.slot .scored s)
  if k.awaitCommit then s else reachStep a.slot k s

/-- The accepted STEP_RUN sets the bound on step numbers and takes its place in the bias windows (R73, R124). -/
def runTaken (a : RunArgs) (cls : Nat) (s : State) : State :=
  let s := winTake a.step cls { s with job := { s.job with topStep := some a.step } }
  if biasStalls s a.step then ctrInc 2 s else s

/-- STEP_RUN starts (R72 to R74, R90, R94). -/
def startStepRun (p : Packet) (x : Ext) (order : Nat) (s : State) : State :=
  let a := runArgs p
  checked 0x20 true p order x.io
    { Checks.plain with
      len := fun n => decide (n = if a.inSrc then 128 else 64),
      range := decide (a.nTok ≤ 4096 ∧ a.nTok ≤ s.job.desc.bMax ∧ a.layer < s.job.desc.nLayers) && layerLoaded s a.step a.layer,
      state := runState s a }
    (fun s =>
      let s := runTaken a p.cls.toNat (accept p order 0 s)
      if s.job.st = .starting then holdCmd .release p x order s
      else if inBrace s then holdCmd .brace p x order s
      else beginStep p (openOf p order) s) s

/-- STEP_RUN. -/
def execStepRun (p : Packet) (s : State) : Host.Outcome State Fault Refusal :=
  live (takeCmd 0x20 p Ext.none (startStepRun p Ext.none)) s

/-! ### The end of a commit -/

/-- A step that waited for the commit is reached; of a cancelled one only its cancelled counts go out (R241; log 87). -/
def reachLate (i : Nat) (c : StepCtx) (s : State) : State :=
  if s.job.st = .faulted then s
  else if c.cancelled then sendCounts i true (dutyReach i s)
  else reachStep i c s

/-- The steps that waited for a commit in `was` and no longer wait are reached, in ascending slot order. -/
def reachAwaited (was s : State) : State :=
  dutyTidy ((List.range 64).foldl (fun t i => match (slotAt was i).ctx, (slotAt t i).ctx with
    | some a, some c => if a.awaitCommit = true ∧ c.awaitCommit = false then reachLate i c t else t
    | _, _ => t) s)

/-- The job goes on with its commands: it exists and has not faulted (R90). -/
def jobGoes (s : State) : Bool := jobExists s && decide (s.job.st ≠ .faulted)

/-- COMMIT_LOADS_DONE: every load the commit waits for has sent its final reply; a failed one ends it ST_BAD_IMAGE, a failure
of the checks of R125 ends it ST_RANGE, both with the staging area kept (R88). -/
def execCommitLoadsDone (s : State) : Host.Outcome State Fault Refusal :=
  live (fun s =>
    match s.ep.commit with
    | none => s
    | some c =>
      if c.ready ∨ jobGoes s = false ∨ (c.loads.any fun o => (loadsOut s).contains o) = true then s
      else if c.bad then reachAwaited s (commitRefused 0x0108 c s)
      else if (layersNext s).all fun l => ownGroup s l.biasGroup then
        { s with ep := { s.ep with commit := some { c with ready := true } } }
      else reachAwaited s (commitRefused 0x0106 c s)) s

/-- EPOCH_TAKES_EFFECT: at the first STEP_RUN at or above the named step, with the commit's checks passed (R87, R88). -/
def execEpochTakesEffect (s : State) : Host.Outcome State Fault Refusal :=
  live (fun s =>
    match s.ep.commit with
    | none => s
    | some c =>
      if c.ready ∧ jobGoes s ∧ stepTaken s c.step ∧ biasDone s c.step then reachAwaited s (epochSwitch c s) else s) s

end Sys2Proof.Machine
end

