-- ==== Sys2Proof/Machine/Stages.lean ====
section
/-! DEFINITION. The stages of a step after its rows (R96, R110 to R121, R215 to R221, R236 to R239), its digests (R398 to R400),
and BATCH_CANCEL, BATCH_PREEMPT and BATCH_RESUME (R91 to R94, R131, R133, R240). -/

namespace Sys2Proof.Machine

/-! ### The end of stage 1 -/

/-- Every token's row has been taken (R108). -/
def rowsIn (c : StepCtx) : Bool := (List.range c.nTok).all fun t => c.rows.any fun r => decide (r.1 = t)

/-- Stage 2 begins: for every token a send cell, and one in the staging area for its operand row (R144, R215). -/
def stageTwo (i : Nat) (c : StepCtx) (l : Layer) (s : State) : State :=
  let n := 64 + tileLen s
  let m := rowBytes l.wFmt s.job.desc.d
  let s := (List.range c.nTok).foldl (fun t k =>
    carafeAsk 0 m c.cls 1 (.staging i c.step k) (carafeAsk 0 n c.cls 1 (.tile i c.step k) t)) s
  let s := setSlot i { slotAt s i with stage := 2 } s
  dripStageAll i c.gen c.step 2 0 c.cls (dripStageAll i c.gen c.step 1 1 c.cls s)

/-- STAGE1_COMPLETE: every row of the step has been taken (R96, R108, R109). -/
def execStage1Complete (slot : Nat) (s : State) : Host.Outcome State Fault Refusal :=
  live (fun s =>
    let x := slotAt s slot
    match x.ctx with
    | none => s
    | some c => match layerIn s c.epoch c.layer with
      | none => s
      | some l =>
        if x.st = .scored ∧ x.stage = 1 ∧ c.awaitCommit = false ∧ applied s ∧ rowsIn c then stageTwo slot c l s else s) s

/-! ### Scoring -/

/-- Some token's send cell or staging cell has not been granted. -/
def tileWaits (s : State) (i step : Nat) : Bool :=
  s.carafe.waits.any fun w => match w.use with
    | .tile a b _ => decide (a = i ∧ b = step)
    | .staging a b _ => decide (a = i ∧ b = step)
    | _ => false

/-- Token `t`'s row. -/
def rowOf (l : List (Nat × List Num)) (t : Nat) : List Num := match l.find? fun r => decide (r.1 = t) with
  | some r => r.2
  | none => []

/-- Which weight set each panel is split at: open with work stealing on, none otherwise (R132, R150). -/
def splitsOf (s : State) (steal : Bool) : Nat → Nat → Nat :=
  fun b p => if steal then Config.freeSplit (s.freeCtr + b * 1024 + p) else 0

/-- Panels of slice `k` (R141). -/
def slicePanels (l : Layer) (k : Nat) : Nat := ceilDiv ((sliceCols l k).2 - (sliceCols l k).1) 80

/-- Weight sets slice `k` loads for a step of `n` tokens: every set of each of its panels, once for each token block (R141,
R145). -/
def weightSets (l : Layer) (d n k : Nat) : Nat :=
  ceilDiv n (blockLen l.wFmt d) * slicePanels l k * ceilDiv d (setLen l.wFmt)

/-- Panels of slice `k` that are split (R150). -/
def splitCount (l : Layer) (d n k : Nat) (splits : Nat → Nat → Nat) : Nat :=
  ((List.range (ceilDiv n (blockLen l.wFmt d))).map fun b =>
    ((List.range (slicePanels l k)).filter fun p =>
      decide (0 < splits b (k * 256 + p) ∧ splits b (k * 256 + p) < ceilDiv d (setLen l.wFmt))).length).sum

/-- The counters of stages 3 and 4, per slice: tokens scored, weight sets, splits (R491). -/
def scoreCount (l : Layer) (d n : Nat) (splits : Nat → Nat → Nat) (s : State) : State :=
  (List.range 4).foldl (fun t k =>
    ctrAdd (130 + 32 * k) (splitCount l d n k splits) (ctrAdd (129 + 32 * k) (weightSets l d n k) (ctrAdd (128 + 32 * k) n t))) s

/-- Score every token (R110 to R119). -/
def scoreAll (i : ScoreIn) (exits : List Nat) (rows : List (Nat × List Num)) (n : Nat) : List Scored :=
  (List.range n).map fun t =>
    if exits.contains t then scoredExit t (i.operand (rowOf rows t)) else scoreToken i t (rowOf rows t)

/-- The digest of a stream over the tokens, with the bytes it covers (R398, R399). -/
def streamDigest (code : Nat) (b : List Byte) : Nat × Nat × Nat := (code, crc64 b, b.length)

/-- Digests of streams 0, 2, 3, 4 and 7. -/
def scoreDigests (l : Layer) (sel : Nat) (rs : List Scored) : List (Nat × Nat × Nat) :=
  ((digestCodes sel).filterMap fun x => x).filterMap fun code =>
    if code ∈ [0, 2, 3, 4, 7] then some (streamDigest code (rs.flatMap (digestBytes l operandBytes code))) else none

/-- Experts' counts of a step (R123). -/
def expertCounts (n : Nat) (rs : List Scored) : List Nat :=
  (List.range n).map fun e => (rs.filter fun r => r.sel.picks.any fun p => decide (p.expert = e)).length

/-- The bytes of an operand row in its staging cell: codes, then block scales (log 102). -/
def Scored.operandImage (r : Scored) (wFmt : Nat) : List Byte :=
  operandBytes (wFmt, r.operand.2) ++ r.operand.1.map (BitVec.ofNat 8)

/-- Write into the cell of a use, from byte `o` on. -/
def cellWrite (use : CellUse) (o : Nat) (b : List Byte) (s : State) : State :=
  match s.carafe.cells.find? fun h => decide (h.use = use) with
  | some h => spWrite (h.addr + o) b s
  | none => s

/-- Blocks of a step whose operands the two banks hold once stage 2 is over: the last two (R145). -/
def lastBlocks (n len : Nat) : List Nat := (List.range (ceilDiv n len)).drop (ceilDiv n len - 2)

/-- The operand rows of a block. -/
def blockRows (len b : Nat) (rows : List (List Nat × List Nat)) : List (List Nat × List Nat) := (rows.drop (b * len)).take len

/-- Fill operand banks; the two used last keep their rows (R144, R145). -/
def opBankPut (l : List OpBank) (s : State) : State :=
  let all := (s.opBanks.filter fun x => !l.any fun y => decide (y.slot = x.slot ∧ y.step = x.step ∧ y.block = x.block)) ++ l
  { s with opBanks := all.drop (all.length - 2) }

/-- Stage 2 leaves each token's operand row in the operand buffers and, while the step is scored, in the staging area, and its
tile in its send cell (R144, R215; log 83). -/
def stageTiles (i : Nat) (c : StepCtx) (wFmt : Nat) (rs : List Scored) (s : State) : State :=
  let len := blockLen wFmt s.job.desc.d
  let s := rs.foldl (fun t r =>
    let t := cellWrite (.staging i c.step r.sel.token) 0 (r.operandImage wFmt) t
    if r.sel.picks.isEmpty then t else cellWrite (.tile i c.step r.sel.token) 64 r.tile t) s
  let s := freeCells (fun u => match u with
    | .staging a b _ => decide (a = i ∧ b = c.step)
    | _ => false) s
  opBankPut ((lastBlocks c.nTok len).map fun b =>
    { slot := i, step := c.step, block := b, rows := blockRows len b (rs.map (·.operand)) }) s

/-- The results of stages 2 to 11 take effect: exit bits, counts, send cells, copies, digests and the count messages (R115
to R118, R123, R215 to R218, R221). -/
def scored (i : Nat) (c : StepCtx) (l : Layer) (ents : List DWord) (rs : List Scored) (s : State) : State :=
  let s := ctrAdd 1 (rs.filter (·.short)).length s
  let s := setSlot i { slotAt s i with exits := (slotAt s i).exits ++ (rs.filter (·.fired)).map (·.sel.token) } s
  let s := rs.foldl (fun t r => setRef (.tile i c.step r.sel.token) r.sel.picks.length t) (stageTiles i c l.wFmt rs s)
  let s := if stepP s 0x0503 c.step = 1 then s else winCount c.step c.epoch c.layer (expertCounts l.nExperts rs) s
  let gone := { VCounts.zero with tokensExited := (rs.filter (·.sel.exited)).length }
  let own := ownSeat s
  let dig := scoreDigests l (stepP s 0x0521 c.step) rs
  let s := ctxMap i (fun y =>
    { y with
      sels := rs.map (·.sel), digests := dig, held := y.held.add gone, aside := [],
      copies := sortCopies (rs.flatMap fun r => copiesOf own ents r.sel) }) s
  let s := (List.range 10).foldl (fun t k => dripStageAll i c.gen c.step (k + 2) 1 c.cls t) s
  let s := setSlot i { slotAt s i with stage := 12 } s
  sendCounts i false (dripStageAll i c.gen c.step 12 0 c.cls s)

/-- An accumulator bank set aside for the panel of a token's column: the weight sets it holds and its value (R151). -/
def startOf (l : Layer) (d t n : Nat) (a : Aside) : Option (Nat × Num) :=
  match a.unit with
  | .engine _ b p k tok =>
    let len := blockLen l.wFmt d
    if t / len = b ∧ panelOf l n = a.slice * 256 + p then
      some (if t % len < tok then k + 1 else k,
        f32 ((a.bank.getD (t % len) []).getD ((n - (sliceCols l a.slice).1) % 80) 0))
    else none
  | _ => none

/-- The newest such bank. -/
def startFrom (l : Layer) (d : Nat) (as : List Aside) (t n : Nat) : Option (Nat × Num) := as.reverse.findSome? (startOf l d t n)

/-- What the scoring of the step in slot `i` needs, with the router's bytes. -/
def scoreIn (c : StepCtx) (l : Layer) (b : List Byte) (s : State) : ScoreIn :=
  let d := s.job.desc.d
  { layer := l, ents := krEntries s c.epoch c.layer, cols := (List.range (routerCols l)).map (columnOf (routerDesc l d) b d),
    compat := decide (stepP s 0x0019 c.step = 1), job := s.job.desc, step := c.step,
    splits := splitsOf s (decide (stepP s 0x0504 c.step = 1)), starts := startFrom l d c.aside }

/-- Score the step in slot `i` with the router's bytes. -/
def scoreStep (i : Nat) (c : StepCtx) (l : Layer) (b : List Byte) (s : State) : State :=
  let inp := scoreIn c l b s
  let rs := scoreAll inp (slotAt s i).exits c.rows c.nTok
  let s := scoreCount l s.job.desc.d c.nTok inp.splits s
  let s := if stepP s 0x0504 c.step = 1 then { s with freeCtr := s.freeCtr + 1024 * (c.nTok + 1) } else s
  scored i c l inp.ents rs s

/-- The work is that of stages 2 to 11. -/
def isScoring (a : Aside) : Bool := match a.unit with
  | .engine .. => true
  | .sfu .. => true
  | .tumbler _ => true
  | _ => false

/-- STEP_SCORING_DONE: stages 2 to 11 have finished and the count messages go out (R96, R221). What the slices' checks found, a
poisoned Keyring entry and a failed router read come first (R121, R152, R154). -/
def execStepScoringDone (slot : Nat) (io : Io) (found : List Found) (s : State) : Host.Outcome State Fault Refusal :=
  live (fun s =>
    let x := slotAt s slot
    match x.ctx with
    | none => s
    | some c => match layerIn s c.epoch c.layer with
      | none => s
      | some l =>
        let w := whereSlot s slot
        if x.st = .scored ∧ x.stage = 2 ∧ biasWaits s c.step = false ∧ tileWaits s slot c.step = false ∧ applied s ∧
            setAside s slot isScoring = false then
          let s := foundAll w found s
          if s.job.st = .faulted then s
          else match krPoisoned s c.epoch c.layer with
            | some k => jobFault (0x10 + k) 0x0406 0 w s
            | none => withRouter l s.job.desc.d c.nTok io w (scoreStep slot c l) s
        else s) s

/-! ### Combine (R119, R236 to R239) -/

/-- Descending weight, a NaN last, equal weights by lower expert (R119). -/
def addsBefore (a b : Pick) : Bool :=
  let x := f32 a.weight
  let y := f32 b.weight
  if x.isNan || y.isNan then (!x.isNan && y.isNan) || (x.isNan && y.isNan && decide (a.expert < b.expert))
  else y.lt x || (!x.lt y && decide (a.expert < b.expert))

/-- Row t of the combine: the weighted answers in the order of R119, the shared row last (R237). -/
def combineRow (d : Nat) (parts : List (Num × List Num)) (shared : Option (List Num)) : List Num :=
  (List.range d).map fun i =>
    let acc := parts.foldl (fun a p => fp32.add a (p.1.mulExact (p.2.getD i .nan))) Num.zero
    match shared with
    | some v => fp32.add acc (v.getD i .zero)
    | none => acc

/-- The copies of a step by token and rank. -/
def answersOf (c : StepCtx) : List (Nat × Nat) :=
  c.sels.flatMap fun x => (List.range x.picks.length).map fun j => (x.token, j)

/-- Where the answers lie: data and scale bytes of each return slot; its header is not read (R220, R231). -/
def xlateAnswers (c : StepCtx) : List (Nat × Nat) → State → State × Except XFault (List ((Nat × Nat) × List Piece))
  | [], s => (s, .ok [])
  | x :: r, s => match xlateRange s 0 (retVa s (retIdx s.job.desc c.step x.1 x.2) + 64) (tileLen s) false with
    | (s, .error f) => (s, .error f)
    | (s, .ok l) => match xlateAnswers c r s with
      | (s, .error f) => (s, .error f)
      | (s, .ok q) => (s, .ok ((x, l) :: q))

/-- The combined row of every token (R119, R237). -/
def combineRows (j : JobDesc) (c : StepCtx) (shared : Bool) (ans : List ((Nat × Nat) × List Byte)) : List (List Num) :=
  c.sels.map fun x =>
    let mine := (ans.filter fun a => decide (a.1.1 = x.token)).map (·.2)
    let parts := (sortBy (fun (a b : Pick × List Byte) => addsBefore a.1 b.1) (x.picks.zip mine)).map fun p =>
      (f32 p.1.weight, tileNums j.tileFmt j.d p.2)
    combineRow j.d parts (if shared then some (rowOf c.shared x.token) else none)

/-- The output descriptor. -/
def outDescOf (c : StepCtx) : Desc := descOf (leBytes 64 c.outDesc) 0

/-- Change `w` bits at bit offset `off` from a VA in the job context. -/
def TRun.poke (t : TRun) (va off w code : Nat) : TRun :=
  let n := ceilDiv (off % 8 + w) 8
  let k := off % 8
  if t.bad.isSome then t
  else match xlateRange t.s 1 (va + off / 8) n true with
    | (s, .error f) => { t with s := s, bad := some f }
    | (s, .ok l) =>
      let old := leNat (readPieces s.hostMem l)
      let new := old % 2 ^ k + (code % 2 ^ w) * 2 ^ k + old / 2 ^ (k + w) * 2 ^ (k + w)
      { t with s := { s with hostMem := writePieces l (leBytes n new) s.hostMem }, wr := t.wr ++ l, bytes := t.bytes + n }

/-- A row with its codes; INT32 codes are open (R137; log 85). -/
def outRow (d : Desc) (v : List Num) : OutRow :=
  { vals := v, codes := if d.fmt = 10 then v.map intCode else if isMx d.fmt then [] else v.map (convElem d.fmt) }

/-- Lines of `n` elements of some rows, in the arrangement of the layout. -/
def outLines (d : Desc) (n : Nat) (l : List OutRow) : List (List Nat × List Nat) :=
  if isMx d.fmt then
    (if d.layout = 1 then columns Num.zero n (l.map (·.vals)) else l.map fun r => r.vals.take n).map (convLine d)
  else (if d.layout = 1 then columns 0 n (l.map (·.codes)) else l.map fun r => r.codes.take n).map fun x => ([], x)

/-- The bytes that `f` touches count as one write, each byte once. -/
def TRun.touched (f : TRun → TRun) (t : TRun) : TRun :=
  let r := f { t with wr := [] }
  let l := unionPieces r.wr
  { r with wr := t.wr ++ l, log := { reads := r.since, runs := l, bytes := readPieces r.s.hostMem l } :: t.log }

/-- Write the first `n` elements of some rows of a unit and nothing else of it. -/
def outPart (d : Desc) (o : List Nat) (n : Nat) (l : List OutRow) (t : TRun) : TRun :=
  let lines := outLines d n l
  let u := d.unitVa o
  let t := if d.layout = 4 then t.write u (List.replicate 64 0) else t
  t.touched fun t => (List.range l.length).foldl (fun t r => (List.range n).foldl (fun t i =>
    let a := if d.layout = 1 then (i, r) else (r, i)
    let line := lines.getD a.1 ([], [])
    let pl := d.place r i
    let t := t.poke u pl.1 (elemBits d.fmt) (line.2.getD a.2 0)
    if d.scaled ∧ a.2 % 32 = 0 then
      t.poke (if d.layout = 0 then d.scaleRow o + i / 32 else u + pl.2) 0 8 (line.1.getD (a.2 / 32) 127)
    else t) t) t

/-- Write one unit of the output (R238). -/
def outUnit (d : Desc) (dim : Nat) (rows : List OutRow) (t : TRun) (o : List Nat) : TRun :=
  let n := min dim (d.size 0)
  let mine := (rows.drop (d.flat o)).take d.unitRows
  if mine.isEmpty then t
  else if mine.length = d.unitRows ∧ n = d.size 0 then unitWrite d o (outLines d n mine) t
  else outPart d o n mine t

/-- The units of the output that are complete once `hi` of `n` rows are combined and were not with `lo` (R238; log 79). -/
def outUnits (d : Desc) (n lo hi : Nat) : List (List Nat) :=
  d.units.filter fun o =>
    let last := min (d.flat o + d.unitRows) n
    decide (d.flat o < n ∧ lo < last ∧ last ≤ hi)

/-- Write the units that rows `lo` to `hi` complete. -/
def outWrite (d : Desc) (dim : Nat) (rows : List OutRow) (lo hi : Nat) (t : TRun) : TRun :=
  (outUnits d rows.length lo hi).foldl (outUnit d dim rows) t

/-- A row's bytes in digest stream 1: layout 0, then the scale codes (R398). -/
def outDigestBytes (d : Desc) (r : OutRow) : List Byte :=
  if isMx d.fmt then
    let line := convLine { d with layout := 0 } r.vals
    let line := if d.scaled then convLine { d with layout := 0, grp := true } r.vals else line
    packElems (elemBits d.fmt) line.2 ++
      (if d.scaled then line.1.map (BitVec.ofNat 8) else List.replicate (ceilDiv r.vals.length 32) 0x7F)
  else packElems (elemBits d.fmt) r.codes

/-- Digests of streams 1 and 5. -/
def combineDigests (d : Desc) (sel : Nat) (rows : List OutRow) (answers : List (List Byte)) : List (Nat × Nat × Nat) :=
  ((digestCodes sel).filterMap fun x => x).filterMap fun code =>
    if code = 1 then some (streamDigest 1 (rows.flatMap (outDigestBytes d)))
    else if code = 5 then some (streamDigest 5 answers.flatten)
    else none

/-- The layer of a step has a shared expert. -/
def sharedOf (s : State) (c : StepCtx) : Bool := (layerIn s c.epoch c.layer).elim false (·.shared)

/-- Every shared row has been taken and holds its cell (R235). -/
def sharedIn (s : State) (i : Nat) (c : StepCtx) : Bool :=
  !sharedOf s c || ((List.range c.nTok).all (fun t => c.shared.any fun r => decide (r.1 = t)) &&
    !s.carafe.waits.any fun w => match w.use with
      | .shared a b _ => decide (a = i ∧ b = c.step)
      | _ => false)

/-- Awaiting, with every answer and shared row in (R236). -/
def combineReady (s : State) (i : Nat) : Bool :=
  match (slotAt s i).ctx with
  | none => false
  | some c => decide ((slotAt s i).st = .awaiting) && (c.copies.all (·.answered)) && sharedIn s i c && applied s

/-- The slot becomes Combining. -/
def combineEnter (i : Nat) (s : State) : State :=
  match (slotAt s i).ctx with
  | none => s
  | some c => slotMove i .combining (dripStageAll i c.gen c.step 15 1 c.cls s)

/-- Stage 16 begins: the return slots are read and every row is combined (R237). Poisoned answers and failed reads end the job
(R245). -/
def combineRead (i : Nat) (io : Io) (s : State) : State :=
  match (slotAt s i).ctx with
  | none => s
  | some c =>
    let w := whereSlot s i
    match xlateAnswers c (answersOf c) s with
    | (s, .error f) => xlateFault f w s
    | (s, .ok l) => jobIo io (l.flatMap (·.2)) [] [] w (fun s =>
        let ans := l.map fun a => (a.1, readPieces s.hostMem a.2)
        let rows := (combineRows s.job.desc c (sharedOf s c) ans).map (outRow (outDescOf c))
        let dig := combineDigests (outDescOf c) (stepP s 0x0521 c.step) rows (ans.map (·.2))
        let s := setSlot i { slotAt s i with stage := 16 } s
        dripStageAll i c.gen c.step 16 0 c.cls
          (ctxMap i (fun y => { y with outs := rows, outPos := 0, digests := y.digests ++ dig }) s)) s

/-- Rows that may be combined now, of `n` from row `lo` on: slice (t mod 4) combines token t, and stops where its combine is set
aside (R131, R238). -/
def rowsFree (s : State) (i lo n : Nat) : Nat :=
  ((List.range n).takeWhile fun k => !setAside s i fun a => decide (a.unit = .combine) && decide (a.slice = (lo + k) % 4)).length

/-- Bytes that several rows were written to end as one of their values, once every row is written (R190, R238). -/
def outSettle (c : StepCtx) (s : State) : State :=
  settleTwice (outWrite (outDescOf c) s.job.desc.d c.outs 0 c.outs.length (TRun.start s)).log.reverse s

/-- Combine and write at most `n` more rows, in ascending order, through the memory port (R130, R238). -/
def combineOn (i n : Nat) (s : State) : State :=
  match (slotAt s i).ctx with
  | none => s
  | some c =>
    let hi := min c.outs.length (c.outPos + rowsFree s i c.outPos n)
    let t := outWrite (outDescOf c) s.job.desc.d c.outs c.outPos hi (TRun.start s)
    match t.bad with
    | some f => xlateFault f (whereSlot t.s i) t.s
    | none =>
      let s := (List.range (hi - c.outPos)).foldl (fun u k => ctrInc (128 + 32 * ((c.outPos + k) % 4) + 7) u) t.s
      let s := if hi = c.outs.length ∧ c.outPos < hi then outSettle c s else s
      mportAsk true c.cls (.outRow i c.step) t.wr (ctxMap i (fun y => { y with outPos := hi }) s)

/-- COMBINE_START: the slot becomes Combining and the first `rows` rows are combined and written; for a slot that is Combining, the
next `rows` (R130, R236 to R238; log 79). -/
def execCombineStart (slot rows : Nat) (io : Io) (found : List Found) (s : State) : Host.Outcome State Fault Refusal :=
  live (fun s =>
    let s := if combineReady s slot then combineEnter slot s else s
    if (slotAt s slot).st = .combining ∧ applied s then
      let s := foundAll (whereSlot s slot) found s
      let s := if s.job.st ≠ .faulted ∧ (slotAt s slot).stage < 16 then combineRead slot io s else s
      if s.job.st = .faulted then s else combineOn slot rows s
    else s) s

/-- Leave the output region of a step open whose combine has begun to write (R93). -/
def outScrub (i : Nat) (s : State) : State :=
  match (slotAt s i).ctx with
  | none => s
  | some c => freePieces (unionPieces (outWrite (outDescOf c) s.job.desc.d c.outs 0 c.outs.length (TRun.start s)).wr) s

/-- The exit mask of a step (R117). -/
def exitMask (x : Slot) (n : Nat) : List Byte :=
  leBytes (max 64 (64 * ceilDiv n 512)) (maskOf (x.exits.filter fun t => decide (t < n)))

/-- The record of kind 0x06 for a digest (R394, R400). -/
def digestRecord (s : State) (i : Nat) (c : StepCtx) (g : Nat × Nat × Nat) : RecEnt :=
  { kind := 6, full := false, poison := false, source := 0, link := 0, kt := s.kt, seq := 0, crc := g.2.1,
    origBytes := g.2.2, payload := [],
    context := g.1 + i * 2 ^ 8 + c.gen * 2 ^ 16 + c.layer * 2 ^ 24 + c.step * 2 ^ 40 + c.nTok * 2 ^ 88 +
      keyFor s c.step * 2 ^ 128 }

/-- Digests of a step that ends ST_OK: the last of each position, and the records (R400). -/
def putDigests (i : Nat) (c : StepCtx) (s : State) : State :=
  let codes := digestCodes (stepP s 0x0521 c.step)
  let s := (List.zip (List.range 4) codes).foldl (fun t x => match x.2 with
    | none => t
    | some code => match c.digests.find? fun g => decide (g.1 = code) with
      | none => t
      | some g => setP (setP t (0x0528 + x.1) g.2.1) (0x052C + x.1) c.step) s
  if bit (getP s 0x0A02) 7 ∧ bit (getP s 0x0A02) 0 then
    c.digests.foldl (fun t g => recPut (digestRecord t i c g) t) s
  else s

/-- The step in slot `i` ends ST_OK: the slot is Done (R91, R400, R454). -/
def stepDone (i : Nat) (c : StepCtx) (s : State) : State :=
  let s := putDigests i c s
  let s := dripStageAll i c.gen c.step 16 1 c.cls s
  let s := ctxSettle false i (finishStep i c 0 (ctrInc 45 s))
  let s := c.preemptCmds.foldl (fun t p => finish p 0x0203 0 0 0 0 t) s
  let s := dropRows i c.step { s with job := { s.job with lastDone := max s.job.lastDone c.step } }
  let s := slotMove i .done s
  closeTry (setSlot i { slotAt s i with ctx := none, stage := 0 } s)

/-- Write the exit mask of a step that ends ST_OK, and end the step (R117, R238). -/
def maskDone (i : Nat) (c : StepCtx) (io : Io) (s : State) : State :=
  let m := exitMask (slotAt s i) c.nTok
  let c := if (digestCodes (stepP s 0x0521 c.step)).contains (some 6) then
      { c with digests := c.digests ++ [streamDigest 6 m] } else c
  match xlateRange s 1 c.exitVa m.length true with
  | (s, .error f) => xlateFault f (whereSlot s i) s
  | (s, .ok l) => jobIo io [] l m (whereSlot s i) (fun s => stepDone i c { s with hostMem := writePieces l m s.hostMem }) s

/-- COMBINE_DONE: every output row has its write responses, and the exit mask, written after them, has its own (R117, R238). -/
def execCombineDone (slot : Nat) (io : Io) (s : State) : Host.Outcome State Fault Refusal :=
  live (fun s =>
    let x := slotAt s slot
    match x.ctx with
    | none => s
    | some c =>
      if x.st = .combining ∧ x.stage = 16 ∧ applied s ∧ c.outPos = c.outs.length ∧ reqOpen s (.outRow slot c.step) = false then
        if c.exitEn then maskDone slot c io s else stepDone slot c s
      else s) s

/-! ### BATCH_CANCEL, BATCH_PREEMPT, BATCH_RESUME -/

/-- Slot and generation of the three commands (R71). -/
def batchSlot (p : Packet) : Nat := p.p0.toNat % 64

/-- See `batchSlot`. -/
def batchGen (p : Packet) : Nat := bits p.p0.toNat 15 8

/-- ST_STALE_GEN, then ST_SLOT_STATE (R61, R91). -/
def batchState (s : State) (p : Packet) (ok : List SlotState) : Option (Nat × Nat × Nat) :=
  let x := slotAt s (batchSlot p)
  if x.gen ≠ batchGen p then some (0x0204, x.gen, 0) else if x.st ∈ ok then none else some (0x0203, 0, 0)

/-- States of a step in flight. -/
def flightStates : List SlotState := [.scored, .dispatched, .awaiting, .combining]

/-- BATCH_CANCEL starts: an Idle or Done slot only loses its exit bits (R91, R93, R117, R241). -/
def startBatchCancel (p : Packet) (_ : Ext) (order : Nat) (s : State) : State :=
  let i := batchSlot p
  let x := slotAt s i
  checked 0x21 true p order .ok
    { Checks.plain with state := batchState s p ([.idle, .done, .preempted] ++ flightStates) }
    (fun s =>
      if x.st = .idle ∨ x.st = .done then
        setSlot i { slotAt s i with exits := [] } (finish (openOf p order) 0 0 0 0 0 (accept p order x.gen s))
      else cancelStep i (some (openOf p order)) outScrub (accept p order ((x.gen + 1) % 256) s)) s

/-- BATCH_CANCEL. -/
def execBatchCancel (p : Packet) (s : State) : Host.Outcome State Fault Refusal :=
  live (takeCmd 0x21 p Ext.none (startBatchCancel p Ext.none)) s

/-- BATCH_PREEMPT starts: the slot is Pre-empted at its next tile boundary (R91, R240). -/
def startBatchPreempt (p : Packet) (_ : Ext) (order : Nat) (s : State) : State :=
  asyncCmd 0x22 p order .ok { Checks.plain with state := batchState s p flightStates }
    (fun c s => ctxMap (batchSlot p) (fun y => { y with preemptCmds := y.preemptCmds ++ [c] }) s) s

/-- BATCH_PREEMPT. -/
def execBatchPreempt (p : Packet) (s : State) : Host.Outcome State Fault Refusal :=
  live (takeCmd 0x22 p Ext.none (startBatchPreempt p Ext.none)) s

/-- PREEMPT_BOUNDARY: the slot becomes Pre-empted and BATCH_PREEMPT ends ST_OK (R91, R130). -/
def execPreemptBoundary (slot : Nat) (s : State) : Host.Outcome State Fault Refusal :=
  live (fun s =>
    let x := slotAt s slot
    match x.ctx with
    | none => s
    | some c =>
      if x.st ∈ flightStates ∧ c.preemptCmds ≠ [] ∧ applied s then
        let s := slotMove slot .preempted (ctxMap slot (fun y => { y with resume := x.st, preemptCmds := [] }) s)
        c.preemptCmds.foldl (fun t p => finish p 0 0 0 0 0 t) s
      else s) s

/-- A Pre-empted slot resumes in the stage its arrivals have reached (R91, R240): one whose answers are all in moves to Combining,
and COMBINE_START goes on with it. -/
def resumeSlot (i : Nat) (s : State) : State :=
  match (slotAt s i).ctx with
  | none => s
  | some c =>
    let s := dispatchPump i (slotMove i c.resume s)
    let s := match (slotAt s i).ctx with
      | some c => if (slotAt s i).st = .dispatched ∧ applied s ∧ copiesOut s c then toAwaiting i s else s
      | none => s
    if combineReady s i then combineEnter i s else s

/-- BATCH_RESUME starts; during brace it is held whole (R94). -/
def startBatchResume (p : Packet) (x : Ext) (order : Nat) (s : State) : State :=
  if inBrace s then holdCmd .brace p x order s
  else syncCmd 0x23 p order .ok { Checks.plain with state := batchState s p [.preempted] }
    (fun s => replyOne p order 0 0 0 0 0 (resumeSlot (batchSlot p) s)) s

/-- BATCH_RESUME. -/
def execBatchResume (p : Packet) (s : State) : Host.Outcome State Fault Refusal :=
  live (takeCmd 0x23 p Ext.none (startBatchResume p Ext.none)) s

/-! ### CLASS_SWITCH (R130, R131, R151, R211) -/

/-- Classes that do not set one another's work aside: 0 and 1 are rush (R130). -/
def classGroup (cls : Nat) : Nat := if cls ≤ 1 then 0 else cls

/-- Two records name one unit. -/
def sameUnit (a b : WorkUnit) : Bool := match a, b with
  | .engine x .., .engine y .. => decide (x = y)
  | .sfu .., .sfu .. => true
  | .tumbler _, .tumbler _ => true
  | .dispatch, .dispatch => true
  | .combine, .combine => true
  | _, _ => false

/-- The unit has work of the step in slot `i` under way, and the position is one at which it sets it aside. -/
def unitWorks (s : State) (i slice : Nat) (c : StepCtx) (l : Layer) (u : WorkUnit) : Bool :=
  let x := slotAt s i
  let scoring := decide (x.st = .scored ∧ x.stage = 2) && !tileWaits s i c.step
  match u with
  | .engine e b p k t =>
    let len := blockLen l.wFmt s.job.desc.d
    scoring && decide (e < 2 ∧ p % 2 = e ∧ p < slicePanels l slice ∧ k < ceilDiv s.job.desc.d (setLen l.wFmt)) &&
      decide (t ≤ len ∧ b * len + t ≤ c.nTok ∧ b * len < c.nTok)
  | .sfu t _ => scoring && decide (t < c.nTok ∧ t % 4 = slice)
  | .tumbler t => scoring && decide (t ≤ c.nTok)
  | .dispatch => decide (x.st = .dispatched)
  | .combine => decide (x.st = .combining ∧ x.stage = 16)
  | .tensor .. => false

/-- The accumulators of an engine at a position: the tokens before `t` of the block hold `k + 1` weight sets, the others `k`. -/
def engineBank (inp : ScoreIn) (rows : List (Nat × List Num)) (slice b p k t n : Nat) : List (List Nat) :=
  let l := inp.layer
  let len := blockLen l.wFmt inp.job.d
  let first := (sliceCols l slice).1 + 80 * p
  let cols := (List.range (min 80 ((sliceCols l slice).2 - first))).map (first + ·)
  (List.range (min len (n - b * len))).map fun j =>
    let a := operandNums l.wFmt (inp.operand (rowOf rows (b * len + j)))
    cols.map fun x =>
      let st := (inp.starts (b * len + j) x).getD (0, Num.zero)
      fp32.encode (accumulateFrom st.1 st.2 (if j < t then k + 1 else k) (setSums (setLen l.wFmt) a (inp.cols.getD x [])))

/-- Record work set aside, and count it. -/
def asidePut (i : Nat) (a : Aside) (s : State) : State :=
  ctrInc (128 + 32 * a.slice + 3) (ctxMap i (fun y => { y with aside := y.aside ++ [a] }) s)

/-- An engine keeps its accumulators and its operands (R151). -/
def engineAside (i slice : Nat) (c : StepCtx) (l : Layer) (u : WorkUnit) (s : State) : State :=
  match u with
  | .engine _ b p k t => withRouter l s.job.desc.d c.nTok .ok (whereSlot s i) (fun r s =>
      let inp := scoreIn c l r s
      let len := blockLen l.wFmt s.job.desc.d
      let rows := (List.range (min len (c.nTok - b * len))).map fun j => inp.operand (rowOf c.rows (b * len + j))
      asidePut i { slice := slice, unit := u, bank := engineBank inp c.rows slice b p k t c.nTok, back := false }
        (opBankPut [{ slot := i, step := c.step, block := b, rows := rows }] s)) s
  | _ => asidePut i { slice := slice, unit := u, bank := [], back := false } s

/-- A unit goes on with what it set aside for the step; copies that waited go out. -/
def asideBack (i slice : Nat) (u : WorkUnit) (s : State) : State :=
  let mine := fun (a : Aside) => decide (a.slice = slice) && sameUnit a.unit u
  dispatchPump i (ctxMap i (fun y => { y with aside := mapIf mine (fun a => { a with back := true }) y.aside }) s)

/-- CLASS_SWITCH: work of class `cls` is ready for a unit of a slice. Of a higher class than the step in `slot`, it has the unit set
the step's work aside with its partial results and position; of the step's own, the unit goes on with it. A tensor command
goes on for the tiles named. No slot changes its state (R130, R131, R151, R211; log 80). -/
def execClassSwitch (slice slot cls : Nat) (unit : WorkUnit) (s : State) : Host.Outcome State Fault Refusal :=
  live (fun s =>
    if slice < 4 ∧ cls < 4 ∧ applied s then
      match unit with
      | .tensor k n => closeTry (tensorOn k n s)
      | _ => match (slotAt s slot).ctx with
        | none => s
        | some c => match layerIn s c.epoch c.layer with
          | none => s
          | some l =>
            if classGroup cls = classGroup c.cls then asideBack slot slice unit s
            else if classGroup cls < classGroup c.cls ∧ unitWorks s slot slice c l unit ∧
                setAside s slot (fun a => decide (a.slice = slice) && sameUnit a.unit unit) = false then
              engineAside slot slice c l unit s
            else s
    else s) s

end Sys2Proof.Machine
end

