-- ==== Sys2Proof/Machine/Faults.lean ====
section
/-! DEFINITION. The step deadline (R409, R500), poisoned queue words (R330), the patrol scrubber (R313, R314) and the crash dump
(R420 to R423). -/

namespace Sys2Proof.Machine

/-! ### The step deadline -/

/-- The lowest number of a list. -/
def lowest (l : List Nat) : Option Nat := (sortBy (fun (a b : Nat) => decide (a < b)) l).head?

/-- The channel of the oldest read of a step's rows. -/
def oldestRead (s : State) (i step : Nat) : Nat :=
  let mine := fun (m : MReq) => match m.who with
    | .stepRow a b _ => decide (a = i ∧ b = step)
    | _ => false
  match (s.mport.out ++ s.mport.wait).find? mine with
  | some m => m.channel
  | none => 0

/-- The bias group whose loop sum a step waits for: of the oldest window that still owes its update, the first layer
without a sum, or else the step's own layer. -/
def awaitedGroup (s : State) (c : StepCtx) : Nat :=
  let own := (layerIn s c.epoch c.layer).elim 0 (·.biasGroup)
  match s.bias.wins.find? fun x => decide (winStart s (x.w + 2) ≤ c.step) && winOwes s x with
  | none => own
  | some x => match (winLayers s x).find? fun l => !x.sums.any fun q => decide (q.1 = l.layer) with
    | some l => l.biasGroup
    | none => own

/-- Destinations of a step's remote copies from which the earlier steps of its window still await answers (R101). -/
def windowSeats (s : State) (i : Nat) (c : StepCtx) : List Nat :=
  let j := s.job.desc
  (List.range 64).flatMap fun k => match (slotAt s k).ctx with
    | some e =>
      if k ≠ i ∧ e.step < c.step ∧ winNo j e.step = winNo j c.step then
        (e.copies.filter fun x => !x.answered && decide (x.dest ≠ ownSeat s) && c.copies.any fun y => decide (y.dest = x.dest)).map (·.dest)
      else []
    | none => []

/-- The slice and token of the oldest output row not written: rows go in token order, and token t is slice t mod 4's (R500, log 103). -/
def unwritten (c : StepCtx) : Nat × Nat :=
  ((List.range 4).findSome? fun q => ((List.range c.nTok).find? fun t => decide (c.outPos ≤ t ∧ t % 4 = q)).map fun t => (q, t)).getD (0, 0)

/-- Where the oldest unfinished work of a step waits: unit and index, by the first row of R500 that applies. The scoring of a step
is one command, so until it every token is unfinished: the lowest is token 0 on slice 0. -/
def stepWaits (s : State) (i : Nat) (c : StepCtx) : Nat × Nat :=
  let x := slotAt s i
  let own := ownSeat s
  let out := c.copies.filter fun y => !(y.sent && (decide (y.dest = own) || serialLe 32 y.seq (txSpace s y.dest 1).ack))
  let lowRow := fun (l : List (Nat × List Num)) => ((List.range c.nTok).find? fun t => !l.any fun r => decide (r.1 = t)).getD 0
  if x.stage = 1 ∧ c.awaitCommit then (0x0002, 0)
  else if x.stage = 1 ∧ rowsIn c = false then (if c.inSrc then (0x0030, oldestRead s i c.step) else (0x0018, lowRow c.rows))
  else if x.stage < 12 then
    (if biasWaits s c.step then (0x0050 + awaitedGroup s c % 16, awaitedGroup s c) else (0x0010, 0))
  else if x.stage = 12 then
    match (dutyAt s c.step).bind fun d => lowest (missing s d) with
    | some m => (0x0060, m)
    | none => if c.countsSent then (0x0060, (lowest (windowSeats s i c)).getD own) else (0x0060, own)
  else if x.stage = 13 then (0x0060, (lowest (out.map (·.dest))).getD own)
  else if x.stage = 16 then (0x0010 + (unwritten c).1, (unwritten c).2)
  else if sharedOf s c ∧ (List.range c.nTok).any (fun t => !c.shared.any fun r => decide (r.1 = t)) then (0x0018, lowRow c.shared)
  else (0x0060, (lowest ((c.copies.filter fun y => !y.answered).map (·.dest))).getD own)

/-- STEP_DEADLINE_EXPIRY: the job faults, naming the unit where the step waits; a Pre-empted slot's deadline stands still
(R408, R409, R500). -/
def execStepDeadlineExpiry (slot : Nat) (s : State) : Host.Outcome State Fault Refusal :=
  live (fun s => match (slotAt s slot).ctx with
    | none => s
    | some c =>
      if (slotAt s slot).st ∈ flightStates ∧ jobGoes s then
        let u := stepWaits s slot c
        jobFault u.1 0x0405 (watchDetail 1 c.cls u.2) (whereSlot s slot) s
      else s) s

/-! ### Poison -/

/-- The packet that a Spout sends next goes on poisoned (R28, R330). -/
def spoutMark (unit : Nat) (s : State) : State :=
  let is := fun (k : SpoutPkt) => decide (k.spout + 0x1C = unit)
  match s.spout.find? is with
  | none => s
  | some k => { s with spout := (s.spout.takeWhile fun y => !is y) ++ { k with poison := true } :: (s.spout.dropWhile fun y => !is y).drop 1 }

/-- QUEUE_POISON_CONSUME (R28, R330). A tensor command stops at its poisoned write (R212; log 52); a frame with an inverted FCS is
dropped by its receiver and the chunk is sent again. -/
def execQueuePoisonConsume (q : QueueConsumer) (s : State) : Host.Outcome State Fault Refusal :=
  live (fun s => match q with
    | .datapath unit => jobFault unit 0x0406 0 Where.none (spoutMark unit s)
    | .hingeEgress dst vc seq => match s.kft.unacked.find? fun c => decide (c.hdr.dstSeat = dst ∧ c.hdr.vc = vc ∧ c.hdr.seq = seq) with
      | some c => resend c s
      | none => s
    | .mportWrite unit none => jobFault unit 0x0406 0 Where.none s
    | .mportWrite _ (some cls) => closeTry (tensorPoison cls s)
    | .mgmt => ctrInc 16 s) s

/-- The Keyring array of a slice that a scratchpad offset lies in: each slice has a quarter of the region at the carve's
base, its arrays one after another (R105, R317). -/
def krAt (s : State) (off : Nat) : Option (Nat × KrArray) :=
  let base := getP s 0x0404
  let part := 256 * s.job.desc.krKib
  if jobExists s ∧ base ≤ off ∧ off < base + 4 * part then
    let i := (off - base) / part
    let q := (off - base) % part
    ((krCopy s i).foldl (fun (a : Nat × Option KrArray) y =>
      (a.1 + 8 * y.entries.length, if a.1 ≤ q ∧ q < a.1 + 8 * y.entries.length then some y else a.2)) (0, none)).2.map fun y => (i, y)
  else none

/-- PATROL_SCRUB of one word: a single-bit error is corrected and counted; an uncorrectable one poisons the word, is counted
and logged; in the Keyring it poisons the entry (R121, R313, R314). It stands for what any read of the scratchpad finds
(log 96). -/
def execPatrolScrub (off : Nat) (found : ScrubFind) (s : State) : Host.Outcome State Fault Refusal :=
  live (fun s =>
    if off < spSize then
      match found with
      | .clean => s
      | .single => ctrInc 13 s
      | .uncorrectable =>
        let w := off / 8
        let s := { s with spPoison := if s.spPoison.contains w then s.spPoison else s.spPoison ++ [w] }
        let s := match krAt s off with
          | some (i, y) => { s with keyringBad := s.keyringBad ++ [(i, y.layer, y.epoch)] }
          | none => s
        logAdd 0x0003 (w * 8) (ctrInc 14 s)
    else s) s

/-! ### The crash dump -/

/-- Section 3: the 64 newest log entries. -/
def dumpLog (s : State) : List Byte := padTo 4096 ((s.rlog.drop (s.rlog.length - 64)).flatMap LogEnt.bytes)

/-- Section 4: the steps in flight, with where each waits. -/
def dumpWork (s : State) : List Byte :=
  let l := (List.range 64).filterMap fun i => match (slotAt s i).ctx with
    | some c =>
      let u := stepWaits s i c
      some (leBytes 16 (u.1 + (u.2 % 65536) * 2 ^ 16 + c.cls * 2 ^ 32 + (s.kt - c.startKt) * 2 ^ 64))
    | none => none
  padTo 4160 (leBytes 64 l.length ++ l.flatten)

/-- Section 5: the running biases of the layers loaded in the epoch in force. -/
def dumpBias (s : State) : List Byte :=
  let win := ((s.bias.wins.filter (·.applied)).foldl (fun a x => max a (x.w + 1)) 0)
  let first := if win = 0 then 0 else winStart s (win - 1)
  (layersNow s).flatMap fun l =>
    let es := krEntries s s.ep.num l.layer
    leBytes 64 (l.layer + es.length * 2 ^ 16 + s.ep.num * 2 ^ 32 + first * 2 ^ 64) ++
      es.flatMap fun e => leBytes 2 (unsext 16 (krBias e))

/-- Section 6: the transport spaces of every member after a header whose contents the manual does not give. -/
def dumpSpaces (s : State) : State × List Byte :=
  let f := freeBytes s 64
  (f.1, f.2 ++ s.job.members.flatMap fun m =>
    leBytes 64 (m + (List.range 5).foldl (fun a v =>
      let t := txSpace s m (v + 1)
      a + ((t.next + 2 ^ 32 - 1) % 2 ^ 32) * 2 ^ (16 + 64 * v) + t.ack * 2 ^ (48 + 64 * v)) 0))

/-- The dump samples the state (R420, R422): it is in progress. -/
def dumpSample (s : State) : State :=
  if s.dump.wanted then
    let own := decide (s.job.desc.dumpVa = 0)
    let t := dumpSpaces s
    let key := keyNow s
    let sec := [(1, padTo 640 (snapBytes s 1)), (2, snapBytes s 0), (3, dumpLog s), (4, dumpWork s), (5, dumpBias s), (6, t.2)]
    { t.1 with dump := { s.dump with
        wanted := false, active := true, region := if own then getP s 0x050B else s.job.desc.dumpVa,
        ctx := if own then 0 else 1, bytes := s.job.desc.dumpBytes, sections := sec, key := key, written := 0, status := 0 } }
  else s

/-- Sections that fit, with their offsets, and whether some did not (R423). -/
def dumpFit : Nat → Nat → List (Nat × List Byte) → List (Nat × Nat × List Byte) × Bool
  | _, _, [] => ([], false)
  | bytes, off, (id, b) :: r =>
    if off + b.length ≤ bytes then
      let q := dumpFit bytes (off + roundUp 64 b.length) r
      ((id, off, b) :: q.1, q.2)
    else ([], true)

/-- Write the sections until one fails; `io` answers their requests in order (log 4). -/
def dumpWrite (io : Io) : List (Nat × Nat × List Byte) → State → State
  | [], s => s
  | (_, off, b) :: r, s =>
    let va := s.dump.region + off
    let q := if r.isEmpty then (io, .ok) else ioSplit (reqCount s s.dump.ctx va b.length true) io
    match ownWrite s.dump.ctx va b q.1 s with
    | (s, some _) => { s with dump := { s.dump with status := 2 } }
    | (s, none) => dumpWrite q.2 r { s with dump := { s.dump with written := s.dump.written + b.length } }

/-- CRASH_DUMP: the job has entered Faulted and MEM is in service; the sections are written (R420, R423). -/
def execCrashDump (io : Io) (s : State) : Host.Outcome State Fault Refusal :=
  live (fun s =>
    if (s.dump.wanted ∨ (s.dump.active ∧ s.dump.written = 0 ∧ s.dump.status = 0)) ∧ domState s 13 = .inService then
      let s := dumpSample (mmuRetire s)
      let q := dumpFit s.dump.bytes 256 s.dump.sections
      let s := { s with dump := { s.dump with status := if q.2 then 1 else 0 } }
      dumpWrite io q.1 s
    else s) s

/-- The directory (R422). -/
def dumpDir (l : List (Nat × Nat × List Byte)) : List Byte :=
  padTo 128 (l.flatMap fun x => leBytes 16 (x.1 + x.2.1 * 2 ^ 64 + x.2.2.length * 2 ^ 96))

/-- The header (R421). -/
def dumpHeader (s : State) (status n bytes : Nat) : List Byte :=
  let d := s.dump
  leBytes 128 (0x4401 + 2 ^ 16 + status * 2 ^ 24 + d.fault.jobTag * 2 ^ 32 + ownSeat s * 2 ^ 64 + n * 2 ^ 80 + d.seq * 2 ^ 96 +
    d.kt * 2 ^ 128 + s.kt * 2 ^ 192 + bytes * 2 ^ 256 + d.key * 2 ^ 320 + ctlVersion s * 2 ^ 384 + d.fault.word * 2 ^ 512)

/-- AO keeps the header of the last dump (R419). -/
def dumpHeaderPut (h : List Byte) (s : State) : State := { s with dump := { s.dump with header := h } }

/-- The dump ends: the header goes to AO, and the log gets its entry (R419, R423). -/
def dumpEnd (status n bytes : Nat) (s : State) : State :=
  let h := dumpHeader s status n bytes
  logAdd 0x0008 (status + bytes * 2 ^ 32 + s.dump.fault.jobTag * 2 ^ 64)
    (let s := { s with dump := { s.dump with active := false, status := status, sections := [] } }
     if s.rst.aoStopped then aoHold (.header h) s else dumpHeaderPut h s)

/-- CRASH_DUMP_COMPLETE: every section is answered; the directory, then the header (R423). Neither fits a region below 256 B. -/
def execCrashDumpComplete (io : Io) (s : State) : Host.Outcome State Fault Refusal :=
  live (fun s =>
    if s.dump.active then
      let q := (dumpFit s.dump.bytes 256 s.dump.sections).1
      let s := { s with dump := { s.dump with seq := (s.dump.seq + 1) % 2 ^ 32 } }
      let n := q.length
      let w := s.dump.written
      if s.dump.status = 2 then dumpEnd 2 n w s
      else if s.dump.bytes < 256 then dumpEnd 1 0 0 s
      else
        let st := s.dump.status
        let h := dumpHeader s st n (w + 256)
        let a := ioSplit (reqCount s s.dump.ctx (s.dump.region + 128) 128 true) io
        match ownWrite s.dump.ctx (s.dump.region + 128) (dumpDir q) a.1 s with
        | (s, some _) => dumpEnd 2 n w s
        | (s, none) => match ownWrite s.dump.ctx s.dump.region h a.2 s with
          | (s, some _) => dumpEnd 2 n (w + 128) s
          | (s, none) => dumpEnd st n (w + 256) s
    else s) s

end Sys2Proof.Machine
end

