-- ==== Sys2Proof/Machine/Job.lean ====
section
/-! DEFINITION. JOB_OPEN, JOB_CLOSE and the end of a job (R90, R98 to R101, R117, R317, R321 to R327, R424). -/

namespace Sys2Proof.Machine

/-! ### JOB_OPEN -/

/-- The job descriptor (R98). -/
def jobDescOf (b : List Byte) : JobDesc :=
  let w := leAt b 0 64
  { nMembers := bits w 15 0, kMax := bits w 21 16, bMax := bits w 44 32, hMax := bits w 62 48, nLayers := bits w 73 64,
    rxWindows := bits w 79 76, tileFmt := bits w 83 80, rxPool := bits w 87 84, deterministic := bit w 88,
    stochRound := bit w 89, d := bits w 110 96, memberVa := bits w 175 128, krKib := bits w 191 176,
    dumpVa := bits w 239 192, dumpBytes := bits w 287 256, seed := bits w 447 320 }

/-- Every field in its range, and a job tag (R62, R98, R99, R327). -/
def jobRange (j : JobDesc) (tag : Nat) : Bool :=
  inR j.nMembers 1 32768 && inR j.kMax 1 32 && inR j.bMax 1 4096 && decide (j.hMax ≤ 16384) && inR j.nLayers 1 512 &&
  inR j.rxWindows 1 8 && decide (j.tileFmt ≤ 5) && inR j.rxPool 4 7 && inR j.d 64 16384 && decide (j.d % 64 = 0) &&
  decide (tag ≠ 0)

/-- sp.carve_base of a job, or none where the scratchpad has no room (R317). -/
def carveOf (j : JobDesc) : Option Nat :=
  let n := roundUp 65536 (256 * j.nMembers) + roundUp 65536 (256 * j.krKib) + roundUp 65536 (1024 * j.krKib)
  if n ≤ spReserve then some (spReserve - n) else none

/-- The reserves of scratchpad pool `c` over the twelve owners. -/
def reserves (s : State) (c : Nat) : Nat := sumN ((List.range 12).map fun o => reserveOf s o c)

/-- The pool checks of R322 before group 0's staging is taken. -/
def poolsBad (s : State) : Bool :=
  ((List.range 12).any fun o => decide (reserveOf s o 3 = 0)) ||
  (List.range 4).any fun c => decide (poolSize s c < reserves s c)

/-- A pool cannot cover every owner's reserve (R322). -/
def poolsShort (s : State) : Bool :=
  (List.range 4).any fun c => decide ((poolAt s c).free.length < sumN ((List.range 12).map fun o => reserveOf s o c - heldBy s o c))

/-- Take a run of `bytes` from a host pool (R327); 0 bytes take none. -/
def takeRun (c bytes : Nat) (s : State) : Option (State × Nat) :=
  let n := ceilDiv bytes 65536
  if n = 0 then some (s, 0)
  else match firstFit n (runsOf s c) with
    | none => none
    | some (va, rest) =>
      let s := setRuns c rest s
      some ({ s with carafe := { s.carafe with jobRuns := s.carafe.jobRuns ++ [(c, va, n)] } }, va)

/-- Receive slots that each other member has. -/
def rxSlots (j : JobDesc) : Nat := j.rxWindows * winSlots j

/-- Bytes of the receive and return slots (R100). -/
def slotBytes (j : JobDesc) : Nat :=
  ((j.nMembers - 1) * rxSlots j + j.rxWindows * (j.bMax * j.kMax)) * pitchOf j

/-- Job parameters back at their reset values (R83). -/
def jobParamsReset (s : State) : State :=
  { s with pendParams := [], params := s.params.filter fun p => match paramInfo p.1 with
      | some i => decide (i.scope ≠ .job ∧ i.scope ≠ .bound)
      | none => true }

/-- All state of a job but its own record, at its start (R90, R257). The remote-read cache stays (R272). -/
def jobClear (s : State) : State :=
  { s with
    slots := List.replicate 64 Slot.idle, duties := [], spout := [], funnelHeld := [],
    ep := { num := 0, epochs := [], staged := [], stagedTables := [], commit := none }, keyring := [[], [], [], []],
    keyringBad := [], bias := { wins := [] }, kft := { Kft.reset with rcache := s.kft.rcache, ward := s.kft.ward }, barrier := Barrier.reset,
    tensors := [], opBanks := [],
    coll := { Coll.reset with lagSeat := s.coll.lagSeat, lagTicks := s.coll.lagTicks, stallGroup := s.coll.stallGroup },
    ptp := { s.ptp with slewHeld := false } }

/-- The members of a list image. -/
def membersOf (b : List Byte) : List Nat := (splitEvery 2 b).map leNat

/-- The checks of JOB_OPEN after ST_ASYNC, and its effects: the new state, or the status of the first that fails (R99). -/
def openTry (tag : Nat) (j : JobDesc) (list : List Byte) (s : State) : Except Nat State :=
  let members := membersOf list
  if distinct members = false ∨ members.contains (ownSeat s) = false then .error 0x0108
  else match carveOf j with
    | none => .error 0x0303
    | some base =>
      if hitsPool s base (spReserve - base) 8 then .error 0x0303
      else
        let s := { jobClear (jobParamsReset s) with
          job := { Job.zero with st := .opened, tag := tag, desc := j, members := members, listCrc := crc32c list },
          coll := Coll.reset }
        let s := (List.range 4).foldl (fun t c => poolRebuild c t) s
        if poolsBad s then .error 0x0302
        else match installGroup (groupZero members) s with
          | none => .error 0x0302
          | some s =>
            if poolsShort s then .error 0x0302
            else match takeRun j.rxPool (slotBytes j) s with
              | none => .error 0x0302
              | some (s, rx) => match (if j.dumpVa = 0 then takeRun j.rxPool j.dumpBytes s else some (s, 0)) with
                | none => .error 0x0302
                | some (s, dump) =>
                  let s := setP (setP s 0x0404 base) 0x0508 rx
                  let s := setP s 0x0509 (rx + (j.nMembers - 1) * rxSlots j * pitchOf j)
                  .ok (vaultClose tag false false (setP (setP s 0x050A (pitchOf j)) 0x050B dump))

/-- JOB_OPEN starts (R61, R98 to R100); the KiB of r1 are rounded up (log 71). -/
def startJobOpen (p : Packet) (x : Ext) (order : Nat) (s : State) : State :=
  let j := jobDescOf (pBody p)
  asyncCmd 0x10 p order x.io
    { Checks.plain with
      len := fun n => decide (n = 128), range := jobRange j p.jobTag.toNat,
      state := if jobExists s then some (0x0201, 0, 0) else none,
      ranges := (1, j.memberVa, 2 * j.nMembers, false) :: if j.dumpVa = 0 then [] else [(1, j.dumpVa, j.dumpBytes, true)] }
    (fun c s => match ownRead 1 j.memberVa (2 * j.nMembers) x.io s with
      | (s, .error st) => finish c st 0 0 0 0 s
      | (s, .ok list) => match openTry p.jobTag.toNat j list s with
        | .error st => finish c st 0 0 0 0 s
        | .ok s => finish c 0 (rxSlots j) (ceilDiv (slotBytes j) 1024) 0 0 s) s

/-- JOB_OPEN. -/
def execJobOpen (p : Packet) (io : Io) (s : State) : Host.Outcome State Fault Refusal :=
  live (takeCmd 0x10 p (Ext.ofIo io) (startJobOpen p (Ext.ofIo io))) s

/-! ### JOB_CLOSE -/

/-- The job-scope commands that brace holds end ST_CANCELLED. -/
def endBraced (s : State) : State :=
  endHeldAll (fun h => decide (h.why = .brace) && jobScope h.cmd.opcode.toNat) 0x0404 s

/-- Abort cancels every collective, every held command, every tensor command and every slot in flight (R90, R212, R306). -/
def closeAbortAll (s : State) : State :=
  let s := tensorAbort (endBraced (collAbort s))
  (List.range 64).foldl (fun t i =>
    let x := slotAt t i
    if x.st = .idle ∨ x.st = .done ∨ x.st = .cancelled then t else cancelStep i none outScrub t) s

/-- JOB_CLOSE on a Faulted job discards its slot state; the close fence awaits nothing (R277, R424). The job's packets go at Closed
(R342). -/
def closeFaulted (s : State) : State :=
  let s := { s with
    slots := s.slots.map fun (x : Slot) => ({ x with st := .idle, stage := 0, ctx := none } : Slot),
    duties := [], coll := { s.coll with ops := [] }, kft := { s.kft with fences := [] } }
  { s with job := { s.job with closeFence := true } }

/-- JOB_CLOSE takes effect (R90, R277, R326). -/
def jobClose (abort : Bool) (c : OpenCmd) (s : State) : State :=
  let was := s.job.st
  let old := s.job.startCmd
  let s := { s with
    job := { s.job with st := .draining, startCmd := none, closeCmd := some c, closeAbort := abort, closeFence := false,
                        closeDrops := 0 },
    barrier := Barrier.reset, ptp := { s.ptp with slewHeld := false } }
  let s := mmuRetire (loseCells (endHeldAll (fun h => decide (h.why = .release)) 0x0404 (finishOpt old 0x0404 0 s)))
  if was = .faulted then closeFaulted (dumpSample s) else closeTry (if abort then closeAbortAll s else s)

/-- JOB_CLOSE starts. -/
def startJobClose (p : Packet) (_ : Ext) (order : Nat) (s : State) : State :=
  asyncCmd 0x11 p order .ok Checks.plain (fun c s => jobClose (bit p.p0.toNat 0) c s) s

/-- JOB_CLOSE. -/
def execJobClose (p : Packet) (s : State) : Host.Outcome State Fault Refusal :=
  live (takeCmd 0x11 p Ext.none (startJobClose p Ext.none)) s

/-- Step-bound parameters (R85). -/
def boundIds : List Nat := [0x0019, 0x0344, 0x0345, 0x0500, 0x0501, 0x0502, 0x0503, 0x0504, 0x050C, 0x0521, 0x0600]

/-- The job's parameters keep the values they had (R83). -/
def keepParams (s : State) : State :=
  let s := boundIds.foldl (fun t id => setP t id (curP s id)) s
  let s := (List.range 8).foldl (fun t i => setP t (0x0010 + i) (tableIdOf (epochNow t) i)) s
  { s with pendParams := [] }

/-- Cells held for the job. -/
def jobUse : CellUse → Bool
  | .pour _ => false
  | .prefetch => false
  | _ => true

/-- The job is Closed: reservations return, contexts are cleared, and JOB_CLOSE ends with the frames dropped since the
close fence (R90, R277, R317, R326, R327, R412). -/
def jobClosed (s : State) : State :=
  let cmd := s.job.closeCmd
  let drops := s.job.closeDrops
  let s := (s.latch.opened.filter fun c => c.jobScope && !(cmd.elim false (sameCmd c))).foldl (fun t c => endOpen 0x0404 c t) s
  let s := freeCells jobUse (keepParams s)
  let s := s.carafe.jobRuns.foldl (fun t r => releaseRun r.1 r.2.1 r.2.2 t)
    { s with carafe := { s.carafe with jobRuns := [] } }
  let s := vaultClose 0 false false s
  finishOpt cmd 0 drops (jobClear { s with job := { Job.zero with lastDone := s.job.lastDone } })

/-- What the end of a job waits for (R90, R424). -/
def drainDone (s : State) : Bool :=
  decide (s.job.st = .draining) && s.job.closeFence && jobQuiet s && s.mport.out.isEmpty && s.mport.wait.isEmpty &&
  !s.dump.active && !s.dump.wanted

/-- JOB_DRAIN_COMPLETE (R90, R424). -/
def execJobDrainComplete (s : State) : Host.Outcome State Fault Refusal :=
  live (fun s => if drainDone s then jobClosed s else s) s

end Sys2Proof.Machine
end

