-- ==== Sys2Proof/Machine/Barrier.lean ====
section
/-! DEFINITION. JOB_START, the start barrier, leaf calibration and the release instant (R90, R384 to R388). -/

namespace Sys2Proof.Machine

/-! ### The tree -/

/-- The block's index in the member list. -/
def ownIndex (s : State) : Nat := (memberIndex s.job.members (ownSeat s)).getD 0

/-- Seats of the children of member `i` (R384). -/
def childSeats (s : State) (i : Nat) : List Nat :=
  ((List.range 16).map (16 * i + 1 + ·)).filterMap fun k => s.job.members[k]?

/-- Members in the subtree of member `i` of `n`; five levels hold 32,768. -/
def subtreeSize (n : Nat) : Nat → Nat → Nat
  | 0, _ => 0
  | fuel + 1, i =>
    if i < n then 1 + sumN ((List.range 16).map fun k => subtreeSize n fuel (16 * i + 1 + k)) else 0

/-- The 64 bytes of a notice (R385). -/
def noticeBytes (n : Notice) : List Byte :=
  leBytes 64 (n.kind + n.listCrc * 2 ^ 32 + n.release * 2 ^ 64 + n.sender * 2 ^ 128 + n.subtree * 2 ^ 144 + n.t1 * 2 ^ 192 +
    n.t2 * 2 ^ 256 + n.t3 * 2 ^ 320)

/-- A notice of this block. -/
def ownNotice (s : State) (kind : Nat) : Notice :=
  { kind := kind, listCrc := s.job.listCrc, release := s.job.release, sender := ownSeat s, subtree := 0, t1 := 0, t2 := 0, t3 := 0 }

/-- Send a notice, in the class of the JOB_START it serves (R254). -/
def noticeSend (seat : Nat) (n : Notice) (s : State) : State := (sendNotice seat s.barrier.cls (noticeBytes n) s).1

/-- Send go to every child. -/
def sendGo (s : State) : State := (childSeats s (ownIndex s)).foldl (fun t m => noticeSend m (ownNotice t 0x52) t) s

/-- Go is held, and forwarded. -/
def takeGo (s : State) : State :=
  if s.barrier.go then s else sendGo { s with barrier := { s.barrier with go := true } }

/-- Every child has reported: the root starts go, another member reports to its parent (R384). -/
def barrierTry (s : State) : State :=
  let i := ownIndex s
  if s.job.st = .starting ∧ s.barrier.reported = false ∧ (childSeats s i).all (fun m => s.barrier.reports.contains m) then
    let s := { s with barrier := { s.barrier with reported := true } }
    if i = 0 then takeGo s
    else noticeSend (s.job.members.getD ((i - 1) / 16) 0)
      { ownNotice s 0x51 with subtree := subtreeSize s.job.members.length 5 i } s
  else s

/-- The notice belongs to this start (R386). -/
def noticeMine (s : State) (n : Notice) : Bool := decide (n.release = s.job.release ∧ n.listCrc = s.job.listCrc)

/-- A notice while Starting: reports and go advance the barrier, one of another start is discarded and counted (R384,
R386). -/
def noticeTake (n : Notice) (s : State) : State :=
  if noticeMine s n = false then ctrInc 9 s
  else if n.kind = 0x51 then
    (if (childSeats s (ownIndex s)).contains n.sender then
      barrierTry { s with barrier := { s.barrier with reports := dedup (s.barrier.reports ++ [n.sender]) } } else s)
  else if n.kind = 0x52 then takeGo s
  else s

/-- A notice by the job's state: held before JOB_START, but for a go that came too late (R277, R386). -/
def noticeIn (n : Notice) (s : State) : State :=
  match s.job.st with
  | .opened =>
    if n.kind = 0x52 ∧ n.release = s.job.release ∧ s.job.release ≠ 0 then s
    else { s with barrier := { s.barrier with early := s.barrier.early ++ [n] } }
  | .starting => noticeTake n s
  | .running => if noticeMine s n then s else ctrInc 9 s
  | _ => s

/-- A notice leaves the messages that have come (R255). -/
def noticeCame (n : Notice) (s : State) : State := inboxTake n.sender (noticeBytes n) s

/-- START_BARRIER_NOTICE (R384 to R386). -/
def execStartBarrierNotice (n : Notice) (s : State) : Host.Outcome State Fault Refusal := live (fun s => noticeIn n (noticeCame n s)) s

/-! ### JOB_START -/

/-- The job is Starting: in replay the barrier completes locally; otherwise the notices held are taken (R384, R386). -/
def jobStart (release cls : Nat) (c : OpenCmd) (s : State) : State :=
  let early := s.barrier.early
  let s := { s with job := { s.job with st := .starting, startCmd := some c, release := release }, barrier := { Barrier.reset with cls := cls } }
  if getP s 0x0520 = 1 then { s with barrier := { s.barrier with go := true, reported := true } }
  else barrierTry (early.foldl (fun t n => noticeTake n t) s)

/-- JOB_START starts (R90, R384). -/
def startJobStart (p : Packet) (_ : Ext) (order : Nat) (s : State) : State :=
  asyncCmd 0x12 p order .ok { Checks.plain with range := decide (s.kt < pVal64 p) } (fun c s => jobStart (pVal64 p) p.cls.toNat c s) s

/-- JOB_START. -/
def execJobStart (p : Packet) (s : State) : Host.Outcome State Fault Refusal :=
  live (takeCmd 0x12 p Ext.none (startJobStart p Ext.none)) s

/-! ### Leaf calibration (R387) -/

/-- The leaf group with this block's index in it: named by det.leaf_group, defined, with sw1 = 1. Group number 0, the
reset value, names none. -/
def leafGroup (s : State) : Option (Group × Nat) :=
  let g := getP s 0x0522
  if g = 0 then none
  else match groupAt s g with
    | none => none
    | some x => if x.sw.head? = some 1 then (memberIndex x.members (ownSeat s)).map fun m => (x, m) else none

/-- A time as a notice carries it, modulo 2^64 (R385). -/
def calTime (t : Int) : Nat := unsext 64 t

/-- The link that calibration's requests take. -/
def calLink (s : State) : Nat := (((upLinks s).filter fun k => decide (k / 4 = getP s 0x0523)).head?).getD 0

/-- A transmit stamp at the lane pins of a link (R279). -/
def calSent (s : State) (k t : Nat) : Nat := calTime ((t : Int) + linkLatency s k false)

/-- CALIBRATION_WINDOW: the slew rate is held, and a member other than the reference sends its four requests, stamped from `t`
(R279, R387). -/
def execCalibrationWindow (t : Nat) (s : State) : Host.Outcome State Fault Refusal :=
  live (fun s => match leafGroup s with
    | none => s
    | some (g, m) =>
      if s.job.st = .starting ∧ s.ptp.slewHeld = false then
        let s := { s with ptp := { s.ptp with slewHeld := true } }
        let d := g.digit m 1
        if d = 0 then s
        else (List.range 4).foldl (fun u _ => noticeSend (g.peer m 1 (g.ext 1 - d)) { ownNotice u 0x53 with t1 := calSent s (calLink s) t } u) s
      else s) s

/-- CALIBRATION_REQUEST: the reference answers with a reply, on the link on which the request came; `t2` and `t3` are its
stamps, `deskew` the link's, in ps (R279, R387). -/
def execCalibrationRequest (link deskew : Nat) (n : Notice) (t2 t3 : Nat) (s : State) : Host.Outcome State Fault Refusal :=
  live (fun s =>
    let s := noticeCame n s
    if s.job.st = .starting ∧ noticeMine s n then match leafGroup s with
      | some (g, m) =>
        if g.digit m 1 = 0 then
          noticeSend n.sender
            { ownNotice s 0x54 with t1 := n.t1, t2 := calTime (linkStamp s link t2 deskew), t3 := calSent s link t3 }
            { s with barrier := { s.barrier with calFrom := (n.sender, link) :: s.barrier.calFrom.filter fun x => decide (x.1 ≠ n.sender) } }
        else s
      | none => s
    else noticeIn n s) s

/-- A signed difference of two times that wrap. -/
def timeDiff (a b : Nat) : Int := sext 64 ((a + 2 ^ 64 - b % 2 ^ 64) % 2 ^ 64)

/-- Round trip of an exchange, and twice its offset. -/
def calTrip (x : Nat × Nat × Nat × Nat) : Int := timeDiff x.2.2.2 x.1 - timeDiff x.2.2.1 x.2.1

/-- See `calTrip`. -/
def calTwice (x : Nat × Nat × Nat × Nat) : Int := timeDiff x.2.1 x.1 - timeDiff x.2.2.2 x.2.2.1

/-- The offset of the exchanges whose round trip lies within 20 ns of the smallest, if two or more count; to 10 ps, halves
upwards. -/
def calOffset (l : List (Nat × Nat × Nat × Nat)) : Option Int :=
  match l with
  | [] => none
  | x :: r =>
    let low := r.foldl (fun a y => min a (calTrip y)) (calTrip x)
    let ok := l.filter fun y => decide (calTrip y - low ≤ 2000)
    if ok.length < 2 then none
    else
      let n : Int := ok.length
      some (((ok.foldl (fun a y => a + calTwice y) 0) + n) / (2 * n))

/-- CALIBRATION_REPLY: the exchange's four times; `t4` is the stamp of its arrival (R279, R387). -/
def execCalibrationReply (link deskew : Nat) (n : Notice) (t4 : Nat) (s : State) : Host.Outcome State Fault Refusal :=
  live (fun s =>
    let s := noticeCame n s
    if s.job.st = .starting ∧ noticeMine s n ∧ s.ptp.slewHeld then
      let cal := (s.barrier.cal ++ [(n.t1, n.t2, n.t3, calTime (linkStamp s link t4 deskew))]).take 4
      { s with barrier := { s.barrier with cal := cal, offset := calOffset cal } }
    else noticeIn n s) s

/-! ### The release instant -/

/-- Start one command that was held for the release instant; in brace it stays held for brace (R94, R386, R388). -/
def releaseHeld (s : State) (h : Held) : State :=
  let rest := s.latch.held.filter fun x => decide (x.order ≠ h.order)
  if inBrace s then
    { s with latch := { s.latch with held := s.latch.held.map fun x => if x.order = h.order then { x with why := .brace } else x } }
  else
    let s := { s with latch := { s.latch with held := rest } }
    let c := openOf h.cmd h.order
    if h.cmd.opcode.toNat = 0x20 then beginStep h.cmd c s else collBegin h.cmd h.io c s

/-- Calibration ran here and gave no offset (R387). -/
def calMissed (s : State) : Bool :=
  s.ptp.slewHeld && s.barrier.offset.isNone && (leafGroup s).elim false fun x => decide (x.1.digit x.2 1 ≠ 0)

/-- The member enters Running: JOB_START ends ST_OK with the release instant, and what was held starts. -/
def enterRunning (s : State) : State :=
  let cmd := s.job.startCmd
  let s := if calMissed s then ctrInc 10 s else s
  let now := s.kt
  let s := { s with
    job := { s.job with st := .running, startCmd := none }, ptp := { s.ptp with slewHeld := false },
    barrier := { Barrier.reset with offset := s.barrier.offset } }
  let s := { finishOpt cmd 0 0 { s with kt := s.job.release } with kt := now }
  (s.latch.held.filter fun h => decide (h.why = .release)).foldl releaseHeld s

/-- The barrier is not complete: back to Open; held commands end ST_JOB_STATE and frames held for Running are dropped. -/
def releaseMissed (s : State) : State :=
  let cmd := s.job.startCmd
  let s := freeCells (fun u => match u with
      | .arrival _ _ _ => true
      | _ => false)
    { s with
      job := { s.job with st := .opened, startCmd := none }, ptp := { s.ptp with slewHeld := false }, barrier := Barrier.reset,
      kft := { s.kft with ingress := [] } }
  endHeldAll (fun h => decide (h.why = .release)) 0x0201 (finishOpt cmd 0x0405 0 s)

/-- RELEASE_INSTANT (R90, R386, R388). -/
def execReleaseInstant (s : State) : Host.Outcome State Fault Refusal :=
  live (fun s =>
    if s.job.st = .starting then (if s.barrier.go then enterRunning s else releaseMissed s) else s) s

end Sys2Proof.Machine
end

