-- ==== Sys2Proof/Machine/Ward.lean ====
section
/-! DEFINITION. Memory-semantic operations (R270 to R274), the Ward remote-access instructions (R307) and REMOTE_INVAL; and
what every applied chunk leaves behind (R258, R393). -/

namespace Sys2Proof.Machine

/-! ### A chunk is applied -/

/-- The chunk is the one of a space with a sequence number. -/
def RxChunk.is (src vc seq : Nat) (c : RxChunk) : Bool :=
  decide (c.hdr.srcSeat = src ∧ c.hdr.vc = vc ∧ c.hdr.seq = seq)

/-- The chunk leaves the list of chunks that wait. -/
def ingressLeave (src vc seq : Nat) (s : State) : State :=
  { s with kft := { s.kft with ingress := s.kft.ingress.filter fun c => !c.is src vc seq } }

/-- The chunk leaves ingress, and the cell that held it is free (R245, R277). -/
def ingressDrop (src vc seq : Nat) (s : State) : State :=
  pfcCheck (freeCells (fun u => decide (u = .arrival src vc seq)) (ingressLeave src vc seq s))

/-- The path epoch of a chunk in ingress. -/
def chunkEpoch (s : State) (src vc seq : Nat) : Nat := match s.kft.ingress.find? (RxChunk.is src vc seq) with
  | some c => c.hdr.pathEpoch
  | none => (rxSpace s src vc).epoch

/-- Write the flag stores of a source whose turn has come, and acknowledge them (R271). -/
def flagRelease : Nat → Nat → State → State
  | 0, _, s => s
  | n + 1, src, s =>
    match s.kft.flags.find? fun f => decide (f.src = src) && serialLe 32 (f.seq + 2 ^ 32 - 1) (rxSpace s src 4).cum with
    | none => s
    | some f =>
      let s := { s with kft := { s.kft with flags := s.kft.flags.filter fun g => decide (g ≠ f) } }
      flagRelease n src (markApplied src 4 f.seq f.epoch (spWrite (getP s 0x0341 + f.off) f.data s))

/-- A chunk is recorded as it is applied (R393). -/
def recArrival (src vc seq : Nat) (s : State) : State := match s.kft.ingress.find? (RxChunk.is src vc seq) with
  | some c => recOriginal 2 c.hinge (c.link % 4) false (kftHdrBytes c.hdr ++ c.payload) s
  | none => s

/-- A chunk has been applied: recorded, out of ingress, and eligible for acknowledgement; flag stores that waited for it
follow (R258, R271, R393). `drop` takes it out of ingress. -/
def applyWith (drop : Nat → Nat → Nat → State → State) (src vc seq : Nat) (s : State) : State :=
  let e := chunkEpoch s src vc seq
  let s := markApplied src vc seq e (drop src vc seq (recArrival src vc seq s))
  if vc = 4 then flagRelease s.kft.flags.length src s else s

/-- The same for a chunk whose cell is free then. -/
def applyDone (src vc seq : Nat) (s : State) : State := applyWith ingressDrop src vc seq s

/-! ### The home seat (R270, R271) -/

/-- The size of the window. -/
def winBytes : Nat := 0x1000000

/-- The home seat refuses a VC4 chunk with a nack; nothing else happens. -/
def homeNack (src seq code : Nat) (s : State) : State :=
  match s.kft.ingress.find? (RxChunk.is src 4 seq) with
  | some c => sendNack c.hdr code c.hinge (ingressDrop src 4 seq s)
  | none => sendNack { KftHdr.blank with srcSeat := src, vc := 4, seq := seq } code 0 s

/-- A new chunk of VC4 may be performed here (R258, R277). -/
def homeTakes (s : State) (src seq : Nat) : Bool :=
  applied s && (others s).contains src && !alreadyApplied s src 4 seq

/-- The response to a read or an atomic is queued on region 5 (R258). -/
def homeRespond (src loadTag : Nat) (data : List Byte) (s : State) : State :=
  (sendChunk src 4 { KftHdr.blank with op := 0, resp := true, last := true, region := 5, operand0 := loadTag % 65536 } data s).1

/-- The Hinge on which a chunk of VC4 came. -/
def chunkHinge (s : State) (src seq : Nat) : Nat := match s.kft.ingress.find? (RxChunk.is src 4 seq) with
  | some c => c.hinge
  | none => 0

/-- A read of the window that meets a poisoned word ends the job, naming the Hinge (R402, R406; log 95). -/
def homeRead (src seq off n : Nat) (go : List Byte → State → State) (s : State) : State :=
  let a := getP s 0x0341 + off
  if spPoisoned s a n then jobFault (0x20 + chunkHinge s src seq) 0x0406 0 Where.none s else go (spRead s a n) s

/-- A load at the home seat. -/
def homeLoad (src seq loadTag off size : Nat) (s : State) : State :=
  if winBytes < off + size then homeNack src seq 3 s
  else homeRead src seq off size (fun b s => applyDone src 4 seq (homeRespond src loadTag b s)) s

/-- A store chunk at the home seat. -/
def homeStore (src seq off : Nat) (data : List Byte) (s : State) : State :=
  if winBytes < off + data.length then homeNack src seq 3 s
  else applyDone src 4 seq (spWrite (getP s 0x0341 + off) data s)

/-- A flag store at the home seat: held until all before it in the space has been applied. -/
def homeFlag (src seq off : Nat) (data : List Byte) (s : State) : State :=
  if winBytes < off + data.length then homeNack src seq 3 s
  else if serialLe 32 (seq + 2 ^ 32 - 1) (rxSpace s src 4).cum then
    applyDone src 4 seq (spWrite (getP s 0x0341 + off) data s)
  else if s.kft.flags.any fun f => decide (f.src = src ∧ f.seq = seq) then s
  else
    let e := chunkEpoch s src 4 seq
    let s := ingressDrop src 4 seq (recArrival src 4 seq s)
    { s with kft := { s.kft with flags := s.kft.flags ++ [{ src := src, seq := seq, epoch := e, off := off, data := data }] } }

/-- What an atomic leaves in a word of `w` bits (R254). A reserved aop changes nothing. -/
def atomicNew (aop w old a b : Nat) : Nat :=
  let x := a % 2 ^ w
  if aop = 0 then (old + x) % 2 ^ w
  else if aop = 1 then (if old = x then b % 2 ^ w else old)
  else if aop = 2 then (if sext w x < sext w old then x else old)
  else if aop = 3 then (if sext w old < sext w x then x else old)
  else if aop = 4 then min old x
  else if aop = 5 then max old x
  else old

/-- An atomic at the home seat. -/
def homeAtomic (src seq loadTag aop width off a b : Nat) (s : State) : State :=
  let n := if width = 0 then 4 else 8
  if winBytes < off + n then homeNack src seq 3 s
  else if off % n ≠ 0 then homeNack src seq 4 s
  else homeRead src seq off n (fun d s =>
    let old := leNat d
    let s := spWrite (getP s 0x0341 + off) (leBytes n (atomicNew aop (8 * n) old a b)) s
    applyDone src 4 seq (homeRespond src loadTag (leBytes n old) s)) s

/-- REMOTE_LOAD (R271). -/
def execRemoteLoad (src seq loadTag off size : Nat) (s : State) : Host.Outcome State Fault Refusal :=
  live (fun s => if homeTakes s src seq then homeLoad src seq loadTag off size s else s) s

/-- REMOTE_STORE (R271). -/
def execRemoteStore (src seq off : Nat) (data : List Byte) (s : State) : Host.Outcome State Fault Refusal :=
  live (fun s => if homeTakes s src seq then homeStore src seq off data s else s) s

/-- FLAG_STORE (R271). -/
def execFlagStore (src seq off : Nat) (data : List Byte) (s : State) : Host.Outcome State Fault Refusal :=
  live (fun s => if homeTakes s src seq then homeFlag src seq off data s else s) s

/-- REMOTE_ATOMIC (R271). -/
def execRemoteAtomic (src seq loadTag aop width off a b : Nat) (s : State) : Host.Outcome State Fault Refusal :=
  live (fun s => if homeTakes s src seq then homeAtomic src seq loadTag aop width off a b s else s) s

/-! ### The remote-read cache (R272 to R274) -/

/-- The cached line of a seat. -/
def cacheLine (s : State) (seat line : Nat) : Option RLine :=
  s.kft.rcache.find? fun l => decide (l.seat = seat ∧ l.off = line)

/-- Install a line; 8,192 are held, the oldest dropped. -/
def cachePut (l : RLine) (s : State) : State :=
  let old := s.kft.rcache.filter fun x => !decide (x.seat = l.seat ∧ x.off = l.off)
  { s with kft := { s.kft with rcache := (old ++ [l]).drop (old.length - 8191) } }

/-- Invalidate what overlaps a range of a seat, or of every seat, and keep misses under way from being installed. The
range is cut at the end of the window; 0 bytes name all of it. -/
def cacheInval (all : Bool) (seat off len : Nat) (s : State) : State :=
  let lo := if len = 0 then 0 else off
  let n := if len = 0 then winBytes else min len (winBytes - off)
  let hit := fun (m a : Nat) => (all || decide (m = seat)) && decide (a < lo + n ∧ lo < a + 256)
  let ld := mapIf (fun (r : RLoad) => r.issued && hit r.seat (r.off / 256 * 256)) (fun r => ({ r with install := false } : RLoad)) s.kft.loads
  { s with kft := { s.kft with rcache := s.kft.rcache.filter (fun l => !hit l.seat l.off), loads := ld } }

/-- Bytes of a line with a store laid over them. -/
def lineOverlay (line : List Byte) (at_ off : Nat) (data : List Byte) : List Byte :=
  (List.range line.length).map fun i =>
    if off ≤ at_ + i ∧ at_ + i < off + data.length then data.getD (at_ + i - off) 0 else line.getD i 0

/-- The block's own store updates the lines it covers. -/
def cacheStore (seat off : Nat) (data : List Byte) (s : State) : State :=
  let upd := mapIf (fun (l : RLine) => decide (l.seat = seat ∧ l.off < off + data.length ∧ off < l.off + 256))
    (fun l => ({ l with data := lineOverlay l.data l.off off data } : RLine)) s.kft.rcache
  { s with kft := { s.kft with rcache := upd } }

/-! ### Ward threads (R307) -/

/-- The result register of a thread. -/
def wardDone (core thread : Nat) (data : List Byte) (s : State) : State :=
  { s with kft := { s.kft with ward :=
      { core := core, thread := thread, data := data } :: s.kft.ward.filter fun w => !decide (w.core = core ∧ w.thread = thread) } }

/-- The thread waits for an access of its own. -/
def wardBusy (s : State) (core thread : Nat) : Bool :=
  s.kft.loads.any (fun r => decide (r.core = core ∧ r.thread = thread)) ||
  s.kft.stores.any fun r => decide (r.core = core ∧ r.thread = thread)

/-- A thread may issue an access to a seat: 16 cores of 8 threads, a member other than the block's own seat, and a job
whose frames are sent (R277). -/
def wardTakes (s : State) (core thread seat : Nat) : Bool :=
  decide (core < 16 ∧ thread < 8) && acksSent s && (others s).contains seat && !wardBusy s core thread

/-- An unacknowledged store of the block to a seat overlaps some bytes (R273). -/
def storeOverlaps (s : State) (seat off n : Nat) : Bool :=
  s.kft.stores.any fun r => decide (r.seat = seat ∧ r.off < off + n ∧ off < r.off + r.len)

/-- Load tags of the accesses under way. -/
def tagsUsed (s : State) : List Nat := (s.kft.loads.filter (·.issued)).map (·.tag)

/-- The next load tag that no access uses. -/
def nextTag : Nat → Nat → List Nat → Nat
  | 0, t, _ => t
  | n + 1, t, used => if used.contains t then nextTag n ((t + 1) % 65536) used else t

/-- Add a load or atomic under way. -/
def loadAdd (r : RLoad) (s : State) : State := { s with kft := { s.kft with loads := s.kft.loads ++ [r] } }

/-- A thread switches out on a remote access (R270, R491). -/
def switchOut (core : Nat) (s : State) : State := ctrInc (923 + core) s

/-- Issue a load: a hit answers at once, a miss fetches the line (R272). -/
def issueLoad (r : RLoad) (s : State) : State :=
  let line := r.off / 256 * 256
  match cacheLine s r.seat line with
  | some l => wardDone r.core r.thread (slice l.data (r.off - line) r.size) s
  | none =>
    let tag := nextTag s.kft.loads.length s.kft.loadTag (tagsUsed s)
    let s := switchOut r.core { s with kft := { s.kft with loadTag := (tag + 1) % 65536 } }
    let s := loadAdd { r with tag := tag, issued := true, install := true } s
    (sendChunk r.seat 4 { KftHdr.blank with op := 1, last := true, region := 2, offset := line, operand0 := tag } [] s).1

/-- Issue an atomic: the block's own copy of the line is invalidated. Its response is told by its seat and its sequence
number, whose low 16 bits are its tag. -/
def issueAtomic (r : RLoad) (s : State) : State :=
  let line := r.off / 256 * 256
  let s := switchOut r.core { s with kft := { s.kft with rcache := s.kft.rcache.filter fun l => !decide (l.seat = r.seat ∧ l.off = line) } }
  let q := (txSpace s r.seat 4).next
  let s := loadAdd { r with tag := q % 65536, issued := true, install := false } s
  (sendChunk r.seat 4
    { KftHdr.blank with op := 2, last := true, region := 2, offset := r.off, operand0 := r.a % 2 ^ 64, operand1 := r.b % 2 ^ 64,
                        aop := r.aop % 8, width := (if r.size = 4 then 0 else 1) } [] s).1

/-- Issue an access, or let it wait for a store (R273). -/
def issueAccess (r : RLoad) (s : State) : State :=
  if storeOverlaps s r.seat r.off r.size then loadAdd { r with issued := false } s
  else if r.atomic then issueAtomic r s
  else issueLoad r s

/-- The waiting accesses that no store holds any longer are issued, in order. -/
def issueWaiting (s : State) : State :=
  (s.kft.loads.filter fun r => !r.issued).foldl (fun t r =>
    if storeOverlaps t r.seat r.off r.size then t
    else issueAccess r { t with kft := { t.kft with loads := t.kft.loads.erase r } }) s

/-- Every chunk of a store is acknowledged, cumulatively or selectively (R254, R273). -/
def storeCovered (s : State) (r : RStore) : Bool :=
  let n := max 1 (ceilDiv r.len (getP s 0x0342))
  (List.range n).all fun i => covered s r.seat 4 ((r.last + 2 ^ 32 - i) % 2 ^ 32)

/-- Acknowledgements have come: stores whose every chunk is covered complete. -/
def wardAcked (s : State) : State :=
  issueWaiting { s with kft := { s.kft with stores := s.kft.stores.filter fun r => !storeCovered s r } }

/-- Note a store and update the block's own lines. -/
def storeIssued (core thread seat off : Nat) (data : List Byte) (r : State × Nat) : State :=
  wardAcked (cacheStore seat off data { switchOut core r.1 with kft := { (switchOut core r.1).kft with stores := (switchOut core r.1).kft.stores ++
    [{ core := core, thread := thread, seat := seat, off := off, len := data.length, last := r.2 }] } })

/-- RLD: a load of 4, 8, 64 or 256 B, aligned, through the cache. -/
def execRld (core thread size seat off : Nat) (s : State) : Host.Outcome State Fault Refusal :=
  live (fun s =>
    if wardTakes s core thread seat ∧ size ∈ [4, 8, 64, 256] ∧ off % size = 0 then
      issueAccess { tag := 0, core := core, thread := thread, seat := seat, off := off % 2 ^ 48, size := size, atomic := false,
                    aop := 0, a := 0, b := 0, issued := false, install := true } s
    else s) s

/-- RSTR: a store from the scratchpad; a poisoned word ends the job, naming the core (R406; log 95). -/
def execRstr (core thread seat off srcOff len : Nat) (s : State) : Host.Outcome State Fault Refusal :=
  live (fun s =>
    if wardTakes s core thread seat ∧ 0 < len then
      if spPoisoned s srcOff len then jobFault (0x50 + core) 0x0406 0 Where.none (spCount srcOff len s) else
      let data := spRead s srcOff len
      storeIssued core thread seat off data
        (sendMsg seat 4 { KftHdr.blank with op := 0, region := 2 } off data (spCount srcOff len s))
    else s) s

/-- RSTF: a flag store of 4 or 8 B, aligned. -/
def execRstf (core thread seat off len value : Nat) (s : State) : Host.Outcome State Fault Refusal :=
  live (fun s =>
    if wardTakes s core thread seat ∧ len ∈ [4, 8] ∧ off % len = 0 then
      let data := leBytes len value
      storeIssued core thread seat off data
        (sendChunk seat 4 { KftHdr.blank with op := 0, flag := true, last := true, region := 2, offset := off } data s)
    else s) s

/-- RAMO: an atomic; a misaligned one is refused by its home (R270). -/
def execRamo (core thread aop width seat off a b : Nat) (s : State) : Host.Outcome State Fault Refusal :=
  live (fun s =>
    if wardTakes s core thread seat then
      issueAccess { tag := 0, core := core, thread := thread, seat := seat, off := off % 2 ^ 48,
                    size := (if width = 0 then 4 else 8), atomic := true, aop := aop, a := a, b := b, issued := false,
                    install := false } s
    else s) s

/-- RINV. -/
def execRinv (core thread : Nat) (all : Bool) (seat off len : Nat) (s : State) : Host.Outcome State Fault Refusal :=
  live (fun s => if core < 16 ∧ thread < 8 ∧ wardBusy s core thread = false then cacheInval all seat off len s else s) s

/-- The load or atomic that a response answers: of the seat it comes from (R258, R271). -/
def loadOf (s : State) (src loadTag : Nat) : Option RLoad :=
  s.kft.loads.find? fun r => r.issued && decide (r.seat = src ∧ r.tag = loadTag % 65536)

/-- The response of a load or atomic: delivered to its thread, and a load's line is installed unless an invalidation has
completed since (R272, R274). -/
def loadResponse (src loadTag : Nat) (data : List Byte) (s : State) : State :=
  match loadOf s src loadTag with
  | none => s
  | some r =>
    let s := { s with kft := { s.kft with loads := s.kft.loads.erase r } }
    if r.atomic then wardDone r.core r.thread (padTo r.size data) s
    else
      let line := r.off / 256 * 256
      let d := padTo 256 data
      let s := wardDone r.core r.thread (slice d (r.off - line) r.size) s
      if r.install then cachePut { seat := r.seat, off := line, data := d } s else s

/-- LOAD_RESPONSE_RECEIVE (R258, R272, R274). -/
def execLoadResponseReceive (src loadTag : Nat) (data : List Byte) (s : State) : Host.Outcome State Fault Refusal :=
  live (fun s => if applied s then loadResponse src loadTag data s else s) s

/-- REMOTE_INVAL (R274). -/
def startRemoteInval (p : Packet) (_ : Ext) (order : Nat) (s : State) : State :=
  syncCmd 0x48 p order .ok Checks.plain (fun s =>
    replyOne p order 0 0 0 0 0
      (cacheInval (bit p.p0.toNat 16) (p.p0.toNat % 65536) p.p1.toNat p.p3.toNat s)) s

/-- REMOTE_INVAL. -/
def execRemoteInval (p : Packet) (s : State) : Host.Outcome State Fault Refusal :=
  live (takeCmd 0x48 p Ext.none (startRemoteInval p Ext.none)) s

end Sys2Proof.Machine
end

