-- ==== Sys2Proof/Machine/Kft.lean ====
section
/-! DEFINITION. KFT at ingress and the transport's happenings: admission (R256, R277), applying chunks (R258),
acknowledgements, nacks, timers, path misses (R259 to R264), FENCE (R268, R269), and the replay of arrivals (R397). -/

namespace Sys2Proof.Machine

/-! ### Acknowledgements -/

/-- What new coverage sets free: send cells, waiting copies and chunks, Ward stores, and the chunks to a seat that were
refused as beyond the window (R217, R258, R299, R307). -/
def ackFollow (seat : Nat) (s : State) : State :=
  let s := resendAll (s.kft.unacked.filter fun c => c.again && !c.queued && decide (c.hdr.dstSeat = seat)) s
  closeTry (wardAcked (chunkPump (freeSent (exchangeAcked s))))

/-- The sequence numbers that SACK bits report above a cumulative point (R254). -/
def sackSeqs (cum op0 op1 : Nat) : List Nat :=
  ((List.range 128).filter fun i => bit (op0 % 2 ^ 64 + op1 % 2 ^ 64 * 2 ^ 64) i).map fun i => seqAdd cum (1 + i)

/-- A chunk still missing, with kft.reorder chunks above it newly applied since it was last sent, is sent again (R260,
log 90). -/
def fastResend (seat vc : Nat) (s : State) : State :=
  resendAll (s.kft.unacked.filter fun c => decide (c.hdr.dstSeat = seat ∧ c.hdr.vc = vc ∧ 0 < c.tries) && !c.queued &&
    decide (getP s 0x0348 ≤ c.seen.length)) s

/-- KFT_ACK_RECEIVE: coverage counts whatever the epoch; misses are cleared only by the current one (R260, R264). -/
def execKftAckReceive (h : KftHdr) (s : State) : Host.Outcome State Fault Refusal :=
  live (fun s =>
    if acksSent s ∧ (others s).contains h.srcSeat ∧ h.ackValid then
      let s := if h.pathEpoch = (pathOf s h.srcSeat).epoch then
          { s with kft := { s.kft with misses := s.kft.misses.filter fun m => decide (m.dst ≠ h.srcSeat) } }
        else s
      let s := takeCoverage h.srcSeat h.ackVc h.ackSeq (sackSeqs h.ackSeq h.operand0 h.operand1) s
      ackFollow h.srcSeat (fastResend h.srcSeat h.ackVc s)
    else s) s

/-- An unacknowledged chunk. -/
def chunkAt (s : State) (dst vc seq : Nat) : Option TxChunk :=
  s.kft.unacked.find? fun c => decide (c.hdr.dstSeat = dst ∧ c.hdr.vc = vc ∧ c.hdr.seq = seq)

/-- The action of R258 on a refused chunk. -/
def nackAct (c : TxChunk) (code : Nat) (s : State) : State :=
  let unit := 0x20 + c.link / 4
  if code = 1 then
    let c := { c with crcNacks := c.crcNacks + 1 }
    if getP s 0x0347 ≤ c.crcNacks then jobFault unit 0x0406 0 Where.none (putChunk c s)
    else resend c (putChunk c s)
  else if code = 2 ∨ code = 3 ∨ code = 4 then jobFault unit 0x0401 (c.hdr.dstSeat % 65536) Where.none s
  else if code = 5 then putChunk { c with again := true } s
  else s

/-- KFT_NACK_RECEIVE (R258). -/
def execKftNackReceive (h : KftHdr) (s : State) : Host.Outcome State Fault Refusal :=
  live (fun s =>
    if acksSent s ∧ (others s).contains h.srcSeat then
      let s := ctrInc (hingeCtr (bits h.pathId 4 2) 19) s
      let s := if h.ackValid then ackFollow h.srcSeat (takeCoverage h.srcSeat h.ackVc h.ackSeq [] s) else s
      match chunkAt s h.srcSeat h.ackVc (h.operand0 % 2 ^ 32) with
      | none => s
      | some c => nackAct c h.nackCode s
    else s) s

/-- KFT_ACK_DELAY_EXPIRY (R259). -/
def execKftAckDelayExpiry (seat vc : Nat) (s : State) : Host.Outcome State Fault Refusal :=
  live (fun s => if acksSent s ∧ (rxSpace s seat vc).owed ≠ [] then sendAck seat vc (rxSpace s seat vc).epoch s else s) s

/-! ### Timers and misses -/

/-- The spray set of a destination changes when an Up link is marked or unmarked (R262, R264). -/
def spraySet (link dst : Nat) (s : State) : State := if (upLinks s).contains link then bumpPath dst s else s

/-- A miss of a link for a destination: the fourth within kft.rto × 16 makes it unusable (R263). -/
def missCount (link dst : Nat) (s : State) : State :=
  let old := match s.kft.misses.find? fun m => decide (m.link = link ∧ m.dst = dst) with
    | some m => m.times
    | none => []
  let times := (old.filter fun t => decide (s.kt < t + ticksOf (16 * curP s 0x0345))) ++ [s.kt]
  let rest := s.kft.misses.filter fun m => !decide (m.link = link ∧ m.dst = dst)
  if 4 ≤ times.length then
    spraySet link dst { s with kft := { s.kft with misses := rest, unusable := dedup (s.kft.unusable ++ [(link, dst)]) } }
  else { s with kft := { s.kft with misses := { link := link, dst := dst, times := times } :: rest } }

/-- A timeout with no link to resend on counts as a transmission (R261, R283). -/
def noLinkTry (dst vc seq : Nat) (s : State) : State :=
  match chunkAt s dst vc seq with
  | some x =>
    if x.queued ∧ chunkLinks s x = [] then
      putChunk { x with tries := x.tries + 1, timeout := min (2 * x.timeout) (8 * ticksOf (curP s 0x0345)) } s
    else s
  | none => s

/-- KFT_RETRANSMIT_TIMEOUT (R260, R261, R263). A chunk that already waits to be sent again is not queued twice. -/
def execKftRetransmitTimeout (dst vc seq : Nat) (s : State) : Host.Outcome State Fault Refusal :=
  live (fun s => match chunkAt s dst vc seq with
    | none => s
    | some c =>
      if s.job.st ≠ .faulted ∧ jobExists s ∧ 0 < c.tries then
        if exhausted s c then resend c s
        else noLinkTry dst vc seq (if c.queued then s else resend c (missCount c.link dst s))
      else s) s

/-- PATH_HOLDOFF_EXPIRY: the link returns to the destination's spray set (R263, R264). -/
def execPathHoldoffExpiry (link dst : Nat) (s : State) : Host.Outcome State Fault Refusal :=
  live (fun s =>
    if s.kft.unusable.contains (link, dst) then
      pumpTx (spraySet link dst { s with kft := { s.kft with unusable := s.kft.unusable.filter fun x => decide (x ≠ (link, dst)) } })
    else s) s

/-! ### Admission (R256) -/

/-- A start-barrier notice, by its kind byte (R385). -/
def isNotice (h : KftHdr) (payload : List Byte) : Bool :=
  decide (h.vc = 5 ∧ h.region = 4) && match payload.head? with
    | some b => decide (0x51 ≤ b.toNat ∧ b.toNat ≤ 0x54)
    | none => false

/-- An ack or nack frame. -/
def isCtl (h : KftHdr) : Bool := decide (h.op = 3 ∨ h.op = 4)

/-- vc, op and region pair (R255). -/
def pairs (h : KftHdr) : Bool :=
  if isCtl h then decide (h.vc = 5)
  else match h.region with
    | 0 => decide (h.vc = 1 ∧ h.op = 0)
    | 1 => decide (h.vc = 2 ∧ h.op = 0)
    | 2 => decide (h.vc = 4 ∧ h.op ≤ 2)
    | 3 => decide (h.vc = 3 ∧ h.op = 0)
    | 4 => decide ((h.vc = 5 ∨ h.vc = 0) ∧ h.op = 5)
    | 5 => decide (h.vc = 4 ∧ h.op = 0) && h.resp
    | _ => false

/-- The replay check of a VC0 frame: its packet number lies within the window below the next of its association (R282). -/
def replayed (s : State) (f : Frame) : Bool := decide (f.pn + getP s 0x0307 < findD s.mgmt.nextPn f.an 0)

/-- Checks 1 to 5, which every frame takes: the counter of the first that fails. PTP frames carry the tag where TIME_CFG
has set tagged (R280). -/
def frameBad (s : State) (hinge : Nat) (f : Frame) : Option Nat :=
  let ptp := decide (f.ethertype = 0x88F7)
  let sec := decide (f.ethertype = 0x88E5)
  let tag := (f.tpidOk && decide (f.vid = getP s (0x0202 + 16 * hinge))) || (ptp && !s.ptp.tagged && !f.tpidOk)
  if ¬ (f.fcsOk = true ∧ 64 ≤ f.bytes ∧ f.bytes ≤ 9216) then some 0
  else if ¬ (tag = true ∧ (ptp || sec || decide (f.ethertype = getP s 0x0305)) = true) then some 1
  else if ptp = true then none
  else if f.hdr.ver ≠ 2 ∨ pairs f.hdr = false then some 2
  else if f.hdr.dstSeat ≠ ownSeat s then some 3
  else if ¬ ((f.hdr.vc = 0 ∧ sec = true ∧ f.macsecOk = true ∧ replayed s f = false) ∨ (f.hdr.vc ≠ 0 ∧ sec = false)) then some 4
  else none

/-- Check 9: the job state admits the frame (R277, R396). -/
def stateAdmits (s : State) (f : Frame) : Bool :=
  !replayOn s && match s.job.st with
    | .closed => false
    | .opened => isCtl f.hdr || isNotice f.hdr f.payload
    | .faulted => false
    | .draining => !s.job.closeFence
    | _ => true

/-- Check 10: the frame is older than the release instant (R276). -/
def tooEarly (s : State) (f : Frame) : Bool :=
  decide (s.job.release ≠ 0 ∧ s.kt < s.job.release + 2 ^ 30) && !isNotice f.hdr f.payload &&
  decide (sext 32 ((f.hdr.ktLo + 2 ^ 32 - s.job.release % 2 ^ 32) % 2 ^ 32) < 0)

/-- Checks 6 to 10, for VC1 to VC5. -/
def jobBad (s : State) (f : Frame) : Option Nat :=
  if jobExists s = false ∨ f.hdr.jobTag ≠ s.job.tag then some 5
  else if f.hdr.partKey ≠ getP s 0x0340 then some 6
  else if s.job.members.contains f.hdr.srcSeat = false then some 7
  else if stateAdmits s f = false then some 8
  else if tooEarly s f then some 9
  else none

/-- What R277 counts beside the counter of check 9. -/
def stateDrop (f : Frame) (s : State) : State :=
  match s.job.st with
  | .draining =>
    if s.job.closeFence then ctrInc 7 { s with job := { s.job with closeDrops := s.job.closeDrops + 1 } } else s
  | .faulted => if 1 ≤ f.hdr.vc ∧ f.hdr.vc ≤ 4 then ctrInc 8 s else s
  | _ => s

/-- The range of a chunk of region 0 or 1 lies in its region (R219, R220, R258). -/
def regionHolds (s : State) (h : KftHdr) (n : Nat) : Bool :=
  let j := s.job.desc
  if h.region = 0 then decide (h.offset + n ≤ (j.nMembers - 1) * rxSlots j * pitchOf j)
  else if h.region = 1 then decide (h.offset + n ≤ j.rxWindows * (j.bMax * j.kMax) * pitchOf j)
  else true

/-- Without PFC, the 1 MiB ingress buffer has no room for the frame (R267). -/
def rxFull (s : State) (hinge : Nat) (f : Frame) : Bool :=
  decide (getP s (0x0203 + 16 * hinge) = 0 ∧ 2 ^ 20 < sumN ((bufFrames s hinge).map (·.bytes)) + f.bytes)

/-- A chunk joins ingress and asks for a cell of its Hinge; without one it waits in the ingress buffer (R245, R277, R283). -/
def ingressAdd (c : RxChunk) (s : State) : State :=
  pfcCheck (carafeAsk (1 + c.hinge) (64 + c.payload.length) c.hdr.cls 1 (.arrival c.hdr.srcSeat c.hdr.vc c.hdr.seq)
    { s with kft := { s.kft with ingress := s.kft.ingress ++ [c] } })

/-- A frame that has passed checks 1 to 10: duplicates are acknowledged again, check 11 and refused chunks get a nack, and the
others wait in ingress for their application (R256 to R258, R277). -/
def frameAdmit (hinge link : Nat) (f : Frame) (s : State) : State :=
  let h := f.hdr
  let ack := fun (s : State) => if h.ackValid then ackFollow h.srcSeat (takeCoverage h.srcSeat h.ackVc h.ackSeq [] s) else s
  if alreadyApplied s h.srcSeat h.vc h.seq then (if acksSent s then sendAck h.srcSeat h.vc h.pathEpoch (ack s) else ack s)
  else if inWindow s h.srcSeat h.vc h.seq = false then sendNack h 5 hinge (ctrInc (hingeCtr hinge 10) s)
  else if rxFull s hinge f then ctrInc (hingeCtr hinge 11) s
  else
    let s := ack s
    if s.kft.ingress.any (RxChunk.is h.srcSeat h.vc h.seq) ||
      s.kft.flags.any (fun g => decide (h.vc = 4 ∧ g.src = h.srcSeat ∧ g.seq = h.seq)) then s
    else if h.chunkCrc ≠ crc32c f.payload then sendNack h 1 hinge s
    else if regionHolds s h f.payload.length = false then sendNack h 2 hinge s
    else ingressAdd { hinge := hinge, link := link, pcp := f.pcp % 8, hdr := h, payload := f.payload } s

/-- A global PAUSE frame: counted and otherwise ignored (R247). -/
def isPause (f : Frame) : Bool := f.fcsOk && decide (f.ethertype = 0x8808)

/-- What FEC corrected and could not, on each lane of the link (R251). -/
def fecCount (k : Nat) (f : Frame) (s : State) : State :=
  (List.zip (linkLanes s k) (List.zip f.fecSymbols f.fecUncorr)).foldl (fun t x =>
    ctrAdd (513 + 2 * x.1) x.2.2 (ctrAdd (512 + 2 * x.1) x.2.1 t)) s

/-- A VC0 frame that is admitted moves its association's next packet number on (R282). -/
def pnSeen (f : Frame) (s : State) : State :=
  { s with mgmt := { s.mgmt with nextPn := insertKey s.mgmt.nextPn f.an (max (f.pn + 1) (findD s.mgmt.nextPn f.an 0)) } }

/-- KFT_FRAME_RECEIVE: the checks of R256 in order; an admitted acknowledgement, nack, management or PTP frame is its own
row's. -/
def execKftFrameReceive (hinge link : Nat) (f : Frame) (s : State) : Host.Outcome State Fault Refusal :=
  live (fun s =>
    if hinge < 8 ∧ link < 4 ∧ domState s (5 + hinge) = .inService then
      let s := ctrInc (hingeCtr hinge 14) (ctrAdd (hingeCtr hinge 16) f.bytes (fecCount (4 * hinge + link) f s))
      if isPause f then ctrInc (hingeCtr hinge 12) s
      else match frameBad s hinge f with
      | some k => ctrInc (hingeCtr hinge k) s
      | none =>
        if f.ethertype = 0x88F7 then s
        else if f.hdr.vc = 0 then pnSeen f s
        else match jobBad s f with
          | some k => ctrInc (hingeCtr hinge k) (if k = 8 then stateDrop f s else s)
          | none => if isCtl f.hdr then s else frameAdmit hinge (4 * hinge + link) f s
    else s) s

/-! ### Applying (R258) -/

/-- The bytes of a message from its chunks, by offset (R255). -/
def messageBytes (l : List RxChunk) : List Byte :=
  (sortBy (fun (a b : RxChunk) => decide (a.hdr.offset < b.hdr.offset)) l).flatMap (·.payload)

/-- A chunk of a message is kept in its cell until all of its message are in; the message then waits for its row (R255,
R258). -/
def messageTake (c : RxChunk) (s : State) : State :=
  let same := fun (x : RxChunk) => decide (x.hdr.srcSeat = c.hdr.srcSeat ∧ x.hdr.vc = c.hdr.vc ∧ x.hdr.msgSeq = c.hdr.msgSeq)
  let l := s.kft.msgs ++ [c]
  let m := l.filter same
  if m.length < c.hdr.msgChunks then { s with kft := { s.kft with msgs := l } }
  else { s with kft := { s.kft with msgs := l.filter (fun x => !same x),
                                    inbox := s.kft.inbox ++ [{ src := c.hdr.srcSeat, vc := c.hdr.vc, seqs := m.map (·.hdr.seq), bytes := messageBytes m }] } }

/-- Whether the return slot takes the answer that a chunk of region 1 is part of, told by the header in its first chunk
(R234); none where that chunk has not come. -/
def answerTaken (s : State) (c : RxChunk) : Option Bool :=
  match s.kft.answers.find? fun a => decide (a.src = c.hdr.srcSeat ∧ a.seq = c.hdr.msgSeq) with
  | some a => some a.take
  | none =>
    match (c :: s.kft.ingress).find? fun x => decide (x.hdr.srcSeat = c.hdr.srcSeat ∧ x.hdr.vc = c.hdr.vc ∧ x.hdr.seq = c.hdr.msgSeq) with
    | none => none
    | some f =>
      let h := tileHdrOf f.payload
      some (decide (answerWay s h.srcSlot h.generation h.step h.token h.rank = .take))

/-- One chunk of an answer less to come. -/
def answerNote (c : RxChunk) (take : Bool) (s : State) : State :=
  let mine := fun (a : AnswerMsg) => decide (a.src = c.hdr.srcSeat ∧ a.seq = c.hdr.msgSeq)
  let left := ((s.kft.answers.find? mine).map (·.left)).getD c.hdr.msgChunks - 1
  let rest := s.kft.answers.filter fun a => !mine a
  { s with kft := { s.kft with answers :=
      if left = 0 then rest else { src := c.hdr.srcSeat, seq := c.hdr.msgSeq, take := take, left := left } :: rest } }

/-- Write a chunk into host memory for the job; errors end it (R245, R258). -/
def chunkWrite (va : Nat) (b : List Byte) (io : Io) (go : State → State) (s : State) : State :=
  match xlateRange s 0 va b.length true with
  | (s, .error f) => xlateFault f Where.none s
  | (s, .ok l) => jobIo io [] l b Where.none (fun s => go { s with hostMem := writePieces l b s.hostMem }) s

/-- Apply a chunk to its region (R255, R258). What COPY_LANDED, ANSWER_RECEIVE, the message rows and COLL_CHUNK_RECEIVE do
follows by those rows. A chunk of an answer waits for the first one of it, whose header decides (log 99). -/
def chunkApply (c : RxChunk) (io : Io) (s : State) : State :=
  let h := c.hdr
  let fin := applyDone h.srcSeat h.vc h.seq
  match h.region with
  | 0 => chunkWrite (getP s 0x0508 + h.offset) c.payload io fin s
  | 1 => match answerTaken s c with
    | none => s
    | some true => chunkWrite (getP s 0x0509 + h.offset) c.payload io (fun s => fin (answerNote c true s)) s
    | some false => fin (answerNote c false s)
  | 2 =>
    if h.op = 1 then homeLoad h.srcSeat h.seq (h.operand0 % 65536) h.offset 256 s
    else if h.op = 2 then homeAtomic h.srcSeat h.seq (h.seq % 65536) h.aop h.width h.offset h.operand0 h.operand1 s
    else if h.flag then homeFlag h.srcSeat h.seq h.offset c.payload s
    else homeStore h.srcSeat h.seq h.offset c.payload s
  | 4 => applyWith ingressLeave h.srcSeat h.vc h.seq (messageTake c s)
  | 5 => fin (loadResponse h.srcSeat h.operand0 c.payload s)
  | _ => fin s

/-- The chunk's cell is not granted yet: it waits in the ingress buffer (R245, R283). -/
def cellWaits (s : State) (c : RxChunk) : Bool :=
  s.carafe.waits.any fun w => decide (w.use = .arrival c.hdr.srcSeat c.hdr.vc c.hdr.seq)

/-- The job state applies the chunk now, and it has its cell (R245, R277). -/
def appliesNow (s : State) (c : RxChunk) : Bool :=
  !cellWaits s c && (applied s || (decide (s.job.st = .opened ∨ s.job.st = .starting) && isNotice c.hdr c.payload))

/-- KFT_CHUNK_APPLY. -/
def execKftChunkApply (src vc seq : Nat) (io : Io) (s : State) : Host.Outcome State Fault Refusal :=
  live (fun s => match s.kft.ingress.find? (RxChunk.is src vc seq) with
    | none => s
    | some c =>
      if alreadyApplied s src vc seq then ingressDrop src vc seq s
      else if appliesNow s c then chunkApply c io s else s) s

/-! ### Replay -/

/-- REPLAY_ARRIVAL_INJECT: in replay, a full record is applied as if it had passed ingress; while Starting it is held
(R277, R397). -/
def execReplayArrivalInject (funnel : Nat) (h : KftHdr) (payload : List Byte) (full : Bool) (io : Io) (s : State) :
    Host.Outcome State Fault Refusal :=
  live (fun s =>
    let f : FunnelPkt :=
      { funnel := funnel, slot := 0, generation := 0, step := 0, firstToken := 0, nRows := 0, cls := h.cls,
        body := kftHdrBytes h ++ payload }
    funnelTake 0x0E f (fun s =>
      if replayOn s ∧ full then
        let hinge := bits h.pathId 4 2
        let c : RxChunk := { hinge := hinge, link := h.pathId % 32, pcp := vcPcp s h.vc, hdr := h, payload := payload }
        let s := ingressAdd c s
        if appliesNow s c then chunkApply c io s else s
      else s) s) s

/-! ### FENCE -/

/-- The seats of a FENCE's scope, or none for a scope, seat or group that is not there (R268, R269). -/
def fenceSeats (s : State) (p : Packet) : Option (List Nat) :=
  match bits p.p0.toNat 9 8 with
  | 0 => some (others s)
  | 1 =>
    let m := bits p.p0.toNat 31 16
    if s.job.members.contains m then some ([m].filter fun x => decide (x ≠ ownSeat s)) else none
  | 2 => (groupAt s (p.p1.toNat % 256)).map fun g => g.members.filter fun m => decide (m ≠ ownSeat s)
  | _ => none

/-- The virtual channels of a FENCE's mask. -/
def fenceVcs (p : Packet) : List Nat := [1, 2, 3, 4, 5].filter fun v => bit p.p0.toNat v

/-- FENCE starts (R268). -/
def startFence (p : Packet) (_ : Ext) (order : Nat) (s : State) : State :=
  asyncCmd 0x32 p order .ok { Checks.plain with range := (fenceSeats s p).isSome }
    (fun c s => fenceStart (some c) ((fenceSeats s p).getD []) (fenceVcs p) s) s

/-- FENCE. -/
def execFence (p : Packet) (s : State) : Host.Outcome State Fault Refusal :=
  live (takeCmd 0x32 p Ext.none (startFence p Ext.none)) s

end Sys2Proof.Machine
end

