-- ==== Sys2Proof/Machine/Release.lean ====
section
/-! DEFINITION. The reply stream (R31, R35, R37, R65, R80 to R82), and the start of commands that were held by after (R68)
or by brace (R94). -/

namespace Sys2Proof.Machine

/-! ### Starting held commands -/

/-- Start a taken command: its checks, in the path of its opcode (R61, R68). An opcode that is not listed fails its check. -/
def startCommand (p : Packet) (x : Ext) (order : Nat) (s : State) : State :=
  match p.opcode.toNat with
  | 0x01 => startEcho p x order s
  | 0x02 => startIdentify p x order s
  | 0x03 => startParamGet p x order s
  | 0x04 => startParamSet p x order s
  | 0x05 => startSnapshot p x order s
  | 0x10 => startJobOpen p x order s
  | 0x11 => startJobClose p x order s
  | 0x12 => startJobStart p x order s
  | 0x14 => startLayerLoad p x order s
  | 0x15 => startKeyringCommit p x order s
  | 0x16 => startTableLoad p x order s
  | 0x20 => startStepRun p x order s
  | 0x21 => startBatchCancel p x order s
  | 0x22 => startBatchPreempt p x order s
  | 0x23 => startBatchResume p x order s
  | 0x28 => startTensorCopy p x order s
  | 0x29 => startGather p x order s
  | 0x2A => startScatterAcc p x order s
  | 0x30 => startGroupDefine p x order s
  | 0x31 => startCollPost p x order s
  | 0x32 => startFence p x order s
  | 0x38 => startPourStart p x order s
  | 0x39 => startPourAbort p x order s
  | 0x3A => startPourRestartAll p x order s
  | 0x3B => startPourResume p x order s
  | 0x40 => startMmuMap p x order s
  | 0x41 => startMmuUnmap p x order s
  | 0x42 => startMmuInval p x order s
  | 0x44 => startPoolConfig p x order s
  | 0x48 => startRemoteInval p x order s
  | 0x50 => startTimeCfg p x order s
  | 0x58 => startFwStage p x order s
  | 0x59 => startFwActivate p x order s
  | 0x60 => startVaultRead p x order s
  | 0x61 => startVaultPeriodClose p x order s
  | 0x68 => startTraceCfg p x order s
  | 0x70 => startDomainReset p x order s
  | 0x71 => startDumpRead p x order s
  | _ => startEcho p x order s

/-- The command leaves the held list. -/
def heldDrop (h : Held) (s : State) : State :=
  { s with latch := { s.latch with held := s.latch.held.filter fun x => decide (x.order ≠ h.order) } }

/-- A taken command that has not started may start (R68). -/
def afterReady (s : State) (h : Held) : Bool := decide (h.why = .after) && !mustWait h.cmd h.order s

/-- Of two held commands, the one that starts first: class 0, then 1, 2 and 3, each in the order taken (R68). -/
def startsFirst (a b : Held) : Held :=
  if b.cmd.cls.toNat < a.cmd.cls.toNat ∨ (b.cmd.cls.toNat = a.cmd.cls.toNat ∧ b.order < a.order) then b else a

/-- The held command that starts next. -/
def nextStart (s : State) : Option Held :=
  match s.latch.held.filter (afterReady s) with
  | [] => none
  | h :: r => some (r.foldl startsFirst h)

/-- Start the taken commands that may start, class by class (`fuel` at most). -/
def releaseAfter : Nat → State → State
  | 0, s => s
  | n + 1, s =>
    match nextStart s with
    | none => s
    | some h => releaseAfter n (startCommand h.cmd h.ext h.order (heldDrop h s))

/-- DOMAIN_SELF_CHECK (R414). Commands that waited for MEM start when it is back (R59; log 66). -/
def execDomainSelfCheck (code : Nat) (ok : Bool) (s : State) : Host.Outcome State Fault Refusal :=
  live (fun s =>
    match domOf code with
    | none => s
    | some i =>
      if domState s i = .rejoining then
        (if ok then releaseAfter s.latch.held.length (domRejoin i s) else domJobFault i (setDom i { domAt s i with st := .fencing, trigger := 3, left := 0 } s))
      else s) s

/-- Hold a command whole again for another reason. -/
def reHold (why : HoldWhy) (h : Held) (s : State) : State :=
  { s with latch := { s.latch with held := s.latch.held ++ [{ h with why := why }] } }

/-- Start one command that brace has held. BATCH_RESUME is executed now; the others go on from their ST_ASYNC. In Starting
a STEP_RUN or COLL_POST waits for the release instant (R90, R94). -/
def unbraceOne (h : Held) (s : State) : State :=
  let s := heldDrop h s
  let c := openOf h.cmd h.order
  match h.cmd.opcode.toNat with
  | 0x20 => if s.job.st = .starting then reHold .release h s else beginStep h.cmd c s
  | 0x23 => startBatchResume h.cmd h.ext h.order s
  | 0x28 => tensorBegin (runCopy h.cmd h.ext) h.cmd h.ext h.order c s
  | 0x29 => tensorBegin (runGather h.cmd h.ext) h.cmd h.ext h.order c s
  | 0x2A => tensorBegin (runScatter h.cmd h.ext) h.cmd h.ext h.order c s
  | 0x31 => if s.job.st = .starting then reHold .release h s else collBegin h.cmd h.io c s
  | _ => runPourStart h.cmd c s

/-- Start every command that brace has held, in order. -/
def unbraceAll (s : State) : State := (s.latch.held.filter fun h => decide (h.why = .brace)).foldl (fun t h => unbraceOne h t) s

/-! ### The reply stream -/

/-- A reply may go out: no earlier-taken command with its tag still owes its final reply, and no earlier reply of its own
command waits (R37). -/
def replyFree (s : State) (r : Reply) : Bool :=
  !(s.latch.opened.any fun c => decide (c.tag = r.tag ∧ c.order < r.order)) &&
  !(s.latch.held.any fun h => decide (h.cmd.tag.toNat = r.tag ∧ h.order < r.order)) &&
  !(s.latch.replies.any fun q => decide (q.tag = r.tag ∧ q.order < r.order)) &&
  decide ((s.latch.replies.find? fun q => decide (q.order = r.order)) = some r)

/-- What the stream may carry next. -/
inductive Source where
  | fatal (e : Event)
  | summary (m : MergeSum)
  | event (e : Event)
  | parity (e : Event) (h : List Byte)
  | reply (r : Reply)
  deriving DecidableEq, Repr

/-- A source's kt, and its place among equal ones: fatal events, replies, other events (R82). -/
def Source.key : Source → Nat × Nat
  | .fatal e => (e.kt, 0)
  | .reply r => (r.kt, 1)
  | .summary m => (m.kt, 2)
  | .event e => (e.kt, 2)
  | .parity e _ => (e.kt, 2)

/-- A key comes before another. -/
def keyLt (a b : Nat × Nat) : Bool := decide (a.1 < b.1) || (decide (a.1 = b.1) && decide (a.2 < b.2))

/-- The heads of what waits (R37, R81). -/
def sources (s : State) : List Source :=
  (s.ev.fatal.take 1).map Source.fatal ++
  (match s.ev.summary with
    | some m => [.summary m]
    | none => (s.ev.other.take 1).map Source.event) ++
  (s.latch.parity.take 1).map (fun x => .parity x.1 x.2) ++
  (s.latch.replies.filter (replyFree s)).map Source.reply

/-- The first sources of R82's order. -/
def firstSources (l : List Source) : List Source := l.filter fun a => l.all fun b => !keyLt b.key a.key

/-- The record of a merge summary (R79, R81). -/
def summaryEvent (m : MergeSum) : Event :=
  { Event.zero with code := 1, seq := m.firstSeq, kt := m.kt,
                    detail := m.count % 65536 + m.lastSeq * 2 ^ 16 + m.mask * 2 ^ 32 }

/-- A command slot is freed (R31). -/
def slotFree (s : State) : State := { s with latch := { s.latch with free := min 64 (s.latch.free + 1) } }

/-- Take a reply: a first reply frees its slot, a final one of an asynchronous command its completion entry (R31, R65). -/
def takeReply (r : Reply) (s : State) : State :=
  let s := { s with latch := { s.latch with
      replies := s.latch.replies.erase r,
      completions := if r.entry then s.latch.completions - 1 else s.latch.completions } }
  if r.first then slotFree s else s

/-- A fatal entry has gone: a fatal event that its unit holds takes its place (R81). -/
def fatalNext (s : State) : State :=
  let q := s.ev
  { s with ev := { q with fatal := q.fatal.drop 1 ++ q.waitFatal.take 1, waitFatal := q.waitFatal.drop 1 } }

/-- Take a source: the record, and the state after it, with latch.replies or latch.events counted (R490). -/
def takeSource (x : Source) (s : State) : State × Record :=
  match x with
  | .fatal e => (ctrInc 43 (fatalNext s), .event e)
  | .summary m => (ctrInc 43 { s with ev := { s.ev with summary := none } }, .event (summaryEvent m))
  | .event e => (ctrInc 43 { s with ev := { s.ev with other := s.ev.other.drop 1 } }, .event e)
  | .parity e h => (ctrInc 43 { s with latch := { s.latch with owed := some (e, h) } }, .event e)
  | .reply r => (ctrInc 42 (takeReply r s), .reply r)

/-- One of some sources; which is open where there are several (log 13). -/
def pickSource (l : List Source) (s : State) : State × Option Source :=
  match l with
  | [] => (s, none)
  | [x] => (s, some x)
  | _ => ({ s with freeCtr := s.freeCtr + 1 }, l[Config.freeOrder s.freeCtr % l.length]?)

/-- Move one record into the beat. The header record owed after the first record of EV_LATCH_PARITY comes next (R80); with it
the packet's slot is freed (R34). -/
def takeRecord (s : State) : State :=
  let put := fun (r : State × Record) => { r.1 with latch := { r.1.latch with beat := r.1.latch.beat ++ [r.2] } }
  match s.latch.owed with
  | some x =>
    put (ctrInc 43 (slotFree { s with latch := { s.latch with parity := s.latch.parity.erase x, owed := none } }), .header x.2)
  | none => match pickSource (firstSources (sources s)) s with
    | (s, some x) => put (takeSource x s)
    | (s, none) => s

/-- The stream is in service (R24, R59). -/
def streamOn (s : State) : Bool := s.rst.ctlReady && decide (domState s 0 ≠ .inReset ∧ domState s 0 ≠ .rejoining)

/-- REPLY_BEAT_TAKEN: the host takes a beat of one record, or of two (R31, R35). `bad`: the beat failed its internal check,
and kw_reply_poison goes with it (R28). -/
def execReplyBeatTaken (two bad : Bool) (s : State) : Host.Outcome State Fault Refusal :=
  live (fun s =>
    if streamOn s then
      let s := takeRecord { s with latch := { s.latch with beat := [] } }
      let s := if two then takeRecord s else s
      let s := { s with latch := { s.latch with beatPoison := bad && !s.latch.beat.isEmpty } }
      releaseAfter s.latch.held.length s
    else s) s

end Sys2Proof.Machine
end

