-- ==== Sys2Proof/Machine/Brace.lean ====
section
/-! DEFINITION. Brace: the supply warning, sealing, the hold-off and the supply reset (R54, R55, R434 to R438, R466). -/

namespace Sys2Proof.Machine

/-- Unit Power. -/
def unitPower : Nat := 0x0070

/-- The brace controller changes state, traced as a Drip record of kind 11 (R434, R488). -/
def braceTo (b : BraceState) (s : State) : State :=
  dripAt 11 unitPower b.code { s with pwr := { s.pwr with brace := b } }

/-- The block is out of both power-on resets. -/
def powered (s : State) : Bool := !s.rst.porHeld && !s.rst.aoHeld

/-- kw_pwr_vin is sampled: an input pin, free (log 7). -/
def sampleVin (s : State) : State × Nat := ({ s with freeCtr := s.freeCtr + 1 }, Config.freeVin s.freeCtr % 1024)

/-- A write that was held goes to AO storage (R55). -/
def aoPut (s : State) : AoWrite → State
  | .ledger r => ledgerPut r s
  | .step n => { s with plan := { s.plan with s := n } }
  | .advisory => advisoryEnd s
  | .header h => dumpHeaderPut h s
  | .reset kt => escPut kt s

/-- AO writes resume: what was held is written (R55, R459). -/
def aoResume (s : State) : State :=
  let s := logResume { s with rst := { s.rst with aoStopped := false } }
  let s := s.aoWait.foldl aoPut { s with aoWait := [] }
  if s.vault.owed then vaultWriteAll s else s

/-- Brace is left: EV_UNBRACE with the time since entry in µs, then the held commands start, then the planner goes on
(R434, R436, R438). -/
def braceLeave (s : State) : State :=
  let us := min (2 ^ 32 - 1) (nsOf (s.kt - s.pwr.entryKt) / 1000)
  let s := braceTo .normal { s with pwr := { s.pwr with warn := false, holdoff := false, cleared := false } }
  planUnbrace (unbraceAll (emit 0x0004 unitPower us s))

/-- Brace is left from Braced alone, once the hold-off has completed with the warning clear (R436). -/
def braceTry (s : State) : State :=
  if s.pwr.brace = .braced ∧ s.pwr.cleared ∧ s.pwr.warn = false then braceLeave s else s

/-- The warning is clear: the hold-off timer starts; a hold-off of 0 is complete at once (R436). -/
def holdoffStart (s : State) : State :=
  if getP s 0x0102 = 0 then braceTry { s with pwr := { s.pwr with warn := false, holdoff := false, cleared := true } }
  else { s with pwr := { s.pwr with warn := false, holdoff := true, cleared := false } }

/-- PWR_WARN_ACTED: from Normal to Bracing; within brace it cancels the hold-off (R54, R434, R436). -/
def execPwrWarnActed (s : State) : Host.Outcome State Fault Refusal :=
  live (fun s =>
    if powered s then
      let s := { s with pwr := { s.pwr with warn := true, holdoff := false, cleared := false } }
      if s.pwr.brace = .normal then
        let r := sampleVin s
        braceTo .bracing { r.1 with pwr := { r.1.pwr with entryKt := r.1.kt, entryVin := r.2 } }
      else s
    else s) s

/-- BRACE_INFLIGHT_DONE: Sealing begins; Vault writes its copies, signs a reading with the reserved nonce pair and writes it
to vault.brace_va, unless that is 0 (R434, R435, R466). -/
def execBraceInflightDone (s : State) : Host.Outcome State Fault Refusal :=
  live (fun s =>
    if s.pwr.brace = .bracing then
      let s := vaultWriteAll (braceTo .sealing s)
      let r := signReading s.vault.cur false true s
      let va := getP r.1 0x0023
      if va = 0 then r.1
      else match hostWrite r.1 0 va r.2 with
        | (s, .error _) => vaultStatus 4 s
        | (s, .ok _) => s
    else s) s

/-- The reading's write met an error response: its bytes are open (R47). -/
def sealBroken (va err : Nat) (s : State) : State :=
  match xlateRange s 0 va 512 true with
  | (s, .error _) => s
  | (s, .ok l) => writeBroken l (readPieces s.hostMem l) { at_ := 0, write := true, timeout := false, err := err } s

/-- BRACE_SEALED: the reading's write response: Braced, EV_BRACE; an error response sets flush_failed (R434, R466). -/
def execBraceSealed (err : Nat) (s : State) : Host.Outcome State Fault Refusal :=
  live (fun s =>
    if s.pwr.brace = .sealing then
      let va := getP s 0x0023
      let bad := decide (err ≠ 0 ∧ va ≠ 0)
      let s := if bad then sealBroken va err s else s
      let s := emit 0x0003 unitPower s.pwr.entryVin (braceTo .braced s)
      braceTry (if bad then vaultStatus 4 s else s)
    else s) s

/-- PWR_WARN_CLEAR (R436). -/
def execPwrWarnClear (s : State) : Host.Outcome State Fault Refusal :=
  live (fun s =>
    if s.pwr.warn then
      if s.pwr.brace = .resetWarned ∨ s.pwr.brace = .normal then { s with pwr := { s.pwr with warn := false } }
      else holdoffStart s
    else s) s

/-- BRACE_HOLDOFF_EXPIRY (R436). -/
def execBraceHoldoffExpiry (s : State) : Host.Outcome State Fault Refusal :=
  live (fun s =>
    if s.pwr.holdoff then braceTry { s with pwr := { s.pwr with holdoff := false, cleared := true } } else s) s

/-- The effects of R437 on the job and the held commands, after its event `e`. -/
def supplyFault (e : Event) (s : State) : State :=
  match s.job.st with
  | .closed => endHeldAll (fun h => decide (h.why ≠ .after)) 0x0602 s
  | .faulted => ctrInc 19 (endHeldAll (fun h => decide (h.why ≠ .after)) 0x0602 s)
  | _ => enterFaulted true e s

/-- PWR_RESET_RISE: AO writes stop, EV_SUPPLY_RESET goes out, an active job faults, and the log entry waits for AO writes
(R55, R437). -/
def execPwrResetRise (s : State) : Host.Outcome State Fault Refusal :=
  live (fun s =>
    if s.pwr.resetPin ∨ s.rst.aoHeld then s
    else
      let s := { s with rst := { s.rst with aoStopped := true }, pwr := { s.pwr with resetPin := true } }
      if s.rst.porHeld then s
      else
        let r := sampleVin (braceTo .resetWarned { s with pwr := { s.pwr with holdoff := false, cleared := false } })
        let s := if s.pwr.brace = .normal then { r.1 with pwr := { r.1.pwr with entryKt := r.1.kt, entryVin := r.2 } } else r.1
        let e := faultEvent s 2 unitPower r.2 Where.none
        logAdd 0x0006 e.word (supplyFault e (evSend e s))) s

/-- PWR_RESET_FALL without kw_por_n: AO writes resume, and brace goes on from Bracing with the warning held until
kw_pwr_warn is clear; `warn`: it is still high (R55, R434). -/
def execPwrResetFall (warn : Bool) (s : State) : Host.Outcome State Fault Refusal :=
  live (fun s =>
    if s.pwr.resetPin then
      let s := { s with pwr := { s.pwr with resetPin := false } }
      if s.pwr.brace = .resetWarned then
        let s := aoResume (braceTo .bracing { s with pwr := { s.pwr with warn := true } })
        if warn then s else holdoffStart s
      else s
    else s) s

end Sys2Proof.Machine
end

