-- ==== Sys2Proof/Machine/Reset.lean ====
section
/-! DEFINITION. The two power-on resets (R21, R417), boot after kw_por_n (R315, R471), Vault's recovery after kw_ao_por_n
(R428, R460), and the loss of the root clock (R25). -/

namespace Sys2Proof.Machine

/-- kw_por_n ends a job: its unsettled work settles as cancelled, since counts are lost only by kw_ao_por_n, and its period
closes (R90, R454, R457, R459). -/
def porJob (s : State) : State := if jobExists s ∧ s.rst.aoHeld = false then vaultClose 0 false false (settleAll s) else s

/-- The ledger across kw_por_n: VDD starts from code 50 with skip 0, and S stays (R441, R447). -/
def porPlan (p : Plan) : Plan :=
  { p with
    vddReq := 50, vddPrev := 50, vddAck := false, skipPlan := 0, phase := .none, pending := [], changedSkip := false,
    changedVdd := false, retrained := false, linkAt := 0 }

/-- What kw_por_n leaves: AO, KT, fuses, pins, host memory and the scratchpad's bytes until release (R417). -/
def porKeep (s : State) : State :=
  { State.reset with
    pending := s.pending, freeCtr := s.freeCtr, kt := s.kt, fuses := s.fuses, hostMem := s.hostMem, sp := s.sp,
    spPoison := s.spPoison,
    rst := { s.rst with porHeld := true, ctlReady := false, bootFail := false, rootLost := s.rst.rootLost && !s.rst.aoHeld },
    counters := s.counters.filter fun c => decide (c.1 = 21),
    esc := s.esc, rlog := s.rlog, rlogSeq := s.rlogSeq, rlogWait := s.rlogWait, aoWait := s.aoWait,
    dump := { Dump.zero with header := s.dump.header, seq := s.dump.seq },
    pwr := { Power.reset with resetPin := s.pwr.resetPin, throttle := s.pwr.throttle },
    plan := porPlan s.plan, vault := { s.vault with waiting := [] },
    mgmt := { State.reset.mgmt with assocs := s.mgmt.assocs, lastInstall := s.mgmt.lastInstall, keyStatus := s.mgmt.keyStatus } }

/-- POR_ASSERT (R21, R417, R434). With kw_ao_por_n asserted too, the root-lock loss of R25 is over. -/
def execPorAssert (s : State) : Host.Outcome State Fault Refusal := .next (skipSettle (porKeep (porJob s)))

/-- POR_RELEASE_BOOT: the scratchpad is cleared, events of the reset are gone, AO writes resume, the release is counted, and
the boot ROM runs (R23, R24, R315, R418, R471). -/
def execPorReleaseBoot (io : Io) (v : Verdict) (s : State) : Host.Outcome State Fault Refusal :=
  live (fun s =>
    if s.rst.porHeld ∧ s.rst.aoHeld = false then
      let s := { s with
        rst := { s.rst with porHeld := false, bootCount := (s.rst.bootCount + 1) % 65536 },
        sp := [], spPoison := [], ev := EvQueue.reset }
      boot io v (aoResume s)
    else s) s

/-- AO_POR_ASSERT: Vault's volatile state, KT, the power monitor, the brace controller, the ledger and the log control are
reset (R21, R417, R434). -/
def execAoPorAssert (s : State) : Host.Outcome State Fault Refusal :=
  .next (skipSettle { s with
    rst := { s.rst with aoHeld := true, aoStopped := false, rootLost := s.rst.rootLost && !s.rst.porHeld },
    kt := 0, plan := Plan.reset, esc := { resets := [], steps := [] },
    counters := s.counters.filter fun c => decide (c.1 ≠ 21),
    rlogWait := [], aoWait := [],
    pwr := { Power.reset with resetPin := s.pwr.resetPin, throttle := s.pwr.throttle },
    vault := { Vault.reset with copies := s.vault.copies, closed := s.vault.closed, waiting := s.vault.waiting } })

/-- The good copies with the highest write sequence (R428). -/
def vaultBest (v : Vault) : List VCopy :=
  let good := v.copies.filter (·.good)
  let top := good.foldl (fun a c => max a c.seq) 0
  good.filter fun c => decide (c.seq = top)

/-- Two of the best copies differ (R428). -/
def vaultDiffers (l : List VCopy) : Bool := match l with
  | [] => false
  | c :: r => r.any fun d => decide (d ≠ c)

/-- No copy is good: a fresh start (R460). Associations are erased with it (R479). -/
def vaultFresh (s : State) : State :=
  let v := { s.vault with
    cur := { VPeriod.zero with num := 1, fresh := true }, readingSeq := 0, writeSeq := 0, copies := [], closed := [] }
  let s := { s with
    vault := v, mgmt := { s.mgmt with assocs := [] },
    slots := s.slots.map fun (x : Slot) => ({ x with ctx := x.ctx.map fun c => ({ c with held := VCounts.zero } : StepCtx) } : Slot),
    duties := s.duties.map fun (d : Duty) =>
      ({ d with srcs := d.srcs.map fun (y : DutySrc) => ({ y with held := VCounts.zero } : DutySrc) } : Duty) }
  vaultStatus 3 (vaultWriteAll s)

/-- Vault restores a copy, closes its period with recovered set, and opens the next; or starts afresh (R428, R457, R460). -/
def vaultRecover (s : State) : State :=
  let l := vaultBest s.vault
  match l with
  | [] => vaultFresh s
  | c :: _ =>
    let bad := vaultDiffers l
    let s := { s with vault := { s.vault with cur := c.period, readingSeq := c.readingSeq, writeSeq := c.seq + 1 } }
    vaultClose 0 bad true (if bad then vaultStatus 1 s else s)

/-- AO_POR_RELEASE: KT starts from 0, the seal checks run, Vault recovers with four nonce pairs, and commands that brace
held start (R278, R434, R451, R460, R465). -/
def execAoPorRelease (eccOk : Bool) (romCrc : Nat) (s : State) : Host.Outcome State Fault Refusal :=
  live (fun s =>
    if s.rst.aoHeld then
      let s := { s with rst := { s.rst with aoHeld := false }, kt := 0, vault := { s.vault with nonces := 4 } }
      let s := vaultRecover (sealCheck eccOk romCrc s)
      if s.rst.porHeld then s else vaultServe (unbraceAll s)
    else s) s

/-- ROOT_LOCK_LOSS: AO writes stop; nothing else is guaranteed until both resets have been asserted (R25). -/
def execRootLockLoss (s : State) : Host.Outcome State Fault Refusal :=
  live (fun s => if s.rst.aoHeld then s else { s with rst := { s.rst with rootLost := true, aoStopped := true } }) s

end Sys2Proof.Machine
end

