-- ==== Sys2Proof/Machine/Dispatch.lean ====
section
/-! DEFINITION. The meaning of every command, one arm per row of the opcode table. -/

namespace Sys2Proof.Machine

def exec (i : Instr) (s : State) : Host.Outcome State Fault Refusal :=
  match i with
  | .echo p => Sys2Proof.Machine.execEcho p s
  | .identify p => Sys2Proof.Machine.execIdentify p s
  | .paramGet p io => Sys2Proof.Machine.execParamGet p io s
  | .paramSet p => Sys2Proof.Machine.execParamSet p s
  | .snapshot p io => Sys2Proof.Machine.execSnapshot p io s
  | .jobOpen p io => Sys2Proof.Machine.execJobOpen p io s
  | .jobClose p => Sys2Proof.Machine.execJobClose p s
  | .jobStart p => Sys2Proof.Machine.execJobStart p s
  | .layerLoad p io => Sys2Proof.Machine.execLayerLoad p io s
  | .keyringCommit p => Sys2Proof.Machine.execKeyringCommit p s
  | .tableLoad p io => Sys2Proof.Machine.execTableLoad p io s
  | .stepRun p => Sys2Proof.Machine.execStepRun p s
  | .batchCancel p => Sys2Proof.Machine.execBatchCancel p s
  | .batchPreempt p => Sys2Proof.Machine.execBatchPreempt p s
  | .batchResume p => Sys2Proof.Machine.execBatchResume p s
  | .tensorCopy p io tiles => Sys2Proof.Machine.execTensorCopy p io tiles s
  | .gather p io tiles => Sys2Proof.Machine.execGather p io tiles s
  | .scatterAcc p io arrival tiles => Sys2Proof.Machine.execScatterAcc p io arrival tiles s
  | .groupDefine p io => Sys2Proof.Machine.execGroupDefine p io s
  | .collPost p io => Sys2Proof.Machine.execCollPost p io s
  | .fence p => Sys2Proof.Machine.execFence p s
  | .pourStart p => Sys2Proof.Machine.execPourStart p s
  | .pourAbort p => Sys2Proof.Machine.execPourAbort p s
  | .pourRestartAll p => Sys2Proof.Machine.execPourRestartAll p s
  | .pourResume p => Sys2Proof.Machine.execPourResume p s
  | .mmuMap p => Sys2Proof.Machine.execMmuMap p s
  | .mmuUnmap p => Sys2Proof.Machine.execMmuUnmap p s
  | .mmuInval p => Sys2Proof.Machine.execMmuInval p s
  | .poolConfig p io => Sys2Proof.Machine.execPoolConfig p io s
  | .remoteInval p => Sys2Proof.Machine.execRemoteInval p s
  | .timeCfg p => Sys2Proof.Machine.execTimeCfg p s
  | .fwStage p io v => Sys2Proof.Machine.execFwStage p io v s
  | .fwActivate p v => Sys2Proof.Machine.execFwActivate p v s
  | .vaultRead p io => Sys2Proof.Machine.execVaultRead p io s
  | .vaultPeriodClose p io => Sys2Proof.Machine.execVaultPeriodClose p io s
  | .traceCfg p io => Sys2Proof.Machine.execTraceCfg p io s
  | .domainReset p => Sys2Proof.Machine.execDomainReset p s
  | .dumpRead p io => Sys2Proof.Machine.execDumpRead p io s
  | .rollbackCommit p => Sys2Proof.Machine.execRollbackCommit p s
  | .keyInstall p v => Sys2Proof.Machine.execKeyInstall p v s
  | .hingeEnable p => Sys2Proof.Machine.execHingeEnable p s
  | .laneModeWrite p => Sys2Proof.Machine.execLaneModeWrite p s
  | .recEnable p => Sys2Proof.Machine.execRecEnable p s
  | .latchFramingError p => Sys2Proof.Machine.execLatchFramingError p s
  | .latchStrayBeat => Sys2Proof.Machine.execLatchStrayBeat s
  | .latchParityError hdr hdrGood => Sys2Proof.Machine.execLatchParityError hdr hdrGood s
  | .replyBeatTaken two bad => Sys2Proof.Machine.execReplyBeatTaken two bad s
  | .routerRowsPacket f => Sys2Proof.Machine.execRouterRowsPacket f s
  | .sharedOutputPacket f => Sys2Proof.Machine.execSharedOutputPacket f s
  | .answerReadyReceive f io => Sys2Proof.Machine.execAnswerReadyReceive f io s
  | .answerReadyReturn f => Sys2Proof.Machine.execAnswerReadyReturn f s
  | .replayArrivalInject funnel h payload full io => Sys2Proof.Machine.execReplayArrivalInject funnel h payload full io s
  | .funnelMalformed funnel => Sys2Proof.Machine.execFunnelMalformed funnel s
  | .funnelPoisonedBeat funnel slot => Sys2Proof.Machine.execFunnelPoisonedBeat funnel slot s
  | .spoutLocalCopySent slot token rank => Sys2Proof.Machine.execSpoutLocalCopySent slot token rank s
  | .mportReadData channel id err last badParity => Sys2Proof.Machine.execMportReadData channel id err last badParity s
  | .mportWriteResponse channel id err => Sys2Proof.Machine.execMportWriteResponse channel id err s
  | .mportTimeout write channel id => Sys2Proof.Machine.execMportTimeout write channel id s
  | .kftFrameReceive hinge link f => Sys2Proof.Machine.execKftFrameReceive hinge link f s
  | .kftChunkApply src vc seq io => Sys2Proof.Machine.execKftChunkApply src vc seq io s
  | .kftAckReceive h => Sys2Proof.Machine.execKftAckReceive h s
  | .kftNackReceive h => Sys2Proof.Machine.execKftNackReceive h s
  | .kftAckDelayExpiry seat vc => Sys2Proof.Machine.execKftAckDelayExpiry seat vc s
  | .kftRetransmitTimeout dst vc seq => Sys2Proof.Machine.execKftRetransmitTimeout dst vc seq s
  | .pathHoldoffExpiry link dst => Sys2Proof.Machine.execPathHoldoffExpiry link dst s
  | .pfcFrameReceive hinge pause resume => Sys2Proof.Machine.execPfcFrameReceive hinge pause resume s
  | .countMessageReceive hinge m => Sys2Proof.Machine.execCountMessageReceive hinge m s
  | .countExchangeTimeout step => Sys2Proof.Machine.execCountExchangeTimeout step s
  | .cancelNoticeReceive hinge m => Sys2Proof.Machine.execCancelNoticeReceive hinge m s
  | .cancelAckSend src step => Sys2Proof.Machine.execCancelAckSend src step s
  | .cancelAckReceive m => Sys2Proof.Machine.execCancelAckReceive m s
  | .answerReceive hinge h data => Sys2Proof.Machine.execAnswerReceive hinge h data s
  | .copyLanded hinge h slotIndex => Sys2Proof.Machine.execCopyLanded hinge h slotIndex s
  | .workListEmit step localSlot => Sys2Proof.Machine.execWorkListEmit step localSlot s
  | .collChunkReceive h data adderBad => Sys2Proof.Machine.execCollChunkReceive h data adderBad s
  | .collCreditReceive e count => Sys2Proof.Machine.execCollCreditReceive e count s
  | .collTimeout group loopQ => Sys2Proof.Machine.execCollTimeout group loopQ s
  | .collOperationComplete group loopQ io => Sys2Proof.Machine.execCollOperationComplete group loopQ io s
  | .collOperationStart group loopQ => Sys2Proof.Machine.execCollOperationStart group loopQ s
  | .startBarrierNotice n => Sys2Proof.Machine.execStartBarrierNotice n s
  | .calibrationRequest link deskew n t2 t3 => Sys2Proof.Machine.execCalibrationRequest link deskew n t2 t3 s
  | .calibrationReply link deskew n t4 => Sys2Proof.Machine.execCalibrationReply link deskew n t4 s
  | .calibrationWindow t => Sys2Proof.Machine.execCalibrationWindow t s
  | .releaseInstant => Sys2Proof.Machine.execReleaseInstant s
  | .remoteLoad src seq loadTag off size => Sys2Proof.Machine.execRemoteLoad src seq loadTag off size s
  | .remoteStore src seq off data => Sys2Proof.Machine.execRemoteStore src seq off data s
  | .flagStore src seq off data => Sys2Proof.Machine.execFlagStore src seq off data s
  | .remoteAtomic src seq loadTag aop width off a b => Sys2Proof.Machine.execRemoteAtomic src seq loadTag aop width off a b s
  | .loadResponseReceive src loadTag data => Sys2Proof.Machine.execLoadResponseReceive src loadTag data s
  | .rld core thread size seat off => Sys2Proof.Machine.execRld core thread size seat off s
  | .rstr core thread seat off srcOff len => Sys2Proof.Machine.execRstr core thread seat off srcOff len s
  | .rstf core thread seat off len value => Sys2Proof.Machine.execRstf core thread seat off len value s
  | .ramo core thread aop width seat off a b => Sys2Proof.Machine.execRamo core thread aop width seat off a b s
  | .rinv core thread all seat off len => Sys2Proof.Machine.execRinv core thread all seat off len s
  | .managementRequest r v => Sys2Proof.Machine.execManagementRequest r v s
  | .ptpEventMessage domain m => Sys2Proof.Machine.execPtpEventMessage domain m s
  | .ptpSyncMissed => Sys2Proof.Machine.execPtpSyncMissed s
  | .laneTrainDone hinge lane ok eye => Sys2Proof.Machine.execLaneTrainDone hinge lane ok eye s
  | .laneTrainTimeout hinge lane => Sys2Proof.Machine.execLaneTrainTimeout hinge lane s
  | .laneLockChange hinge lane lock => Sys2Proof.Machine.execLaneLockChange hinge lane lock s
  | .linkAlignTimeout link => Sys2Proof.Machine.execLinkAlignTimeout link s
  | .fecFailLimit link => Sys2Proof.Machine.execFecFailLimit link s
  | .remoteFaultReceive link => Sys2Proof.Machine.execRemoteFaultReceive link s
  | .relinkHoldoffExpiry link => Sys2Proof.Machine.execRelinkHoldoffExpiry link s
  | .quiesceComplete link => Sys2Proof.Machine.execQuiesceComplete link s
  | .stage1Complete slot => Sys2Proof.Machine.execStage1Complete slot s
  | .stepScoringDone slot io found => Sys2Proof.Machine.execStepScoringDone slot io found s
  | .dispatchStart slot => Sys2Proof.Machine.execDispatchStart slot s
  | .dispatchAcked slot => Sys2Proof.Machine.execDispatchAcked slot s
  | .combineStart slot rows io found => Sys2Proof.Machine.execCombineStart slot rows io found s
  | .combineDone slot io => Sys2Proof.Machine.execCombineDone slot io s
  | .preemptBoundary slot => Sys2Proof.Machine.execPreemptBoundary slot s
  | .cancelTeardownComplete slot => Sys2Proof.Machine.execCancelTeardownComplete slot s
  | .classSwitch slice slot cls unit => Sys2Proof.Machine.execClassSwitch slice slot cls unit s
  | .loopSumPost window => Sys2Proof.Machine.execLoopSumPost window s
  | .biasUpdate window => Sys2Proof.Machine.execBiasUpdate window s
  | .commitLoadsDone => Sys2Proof.Machine.execCommitLoadsDone s
  | .epochTakesEffect => Sys2Proof.Machine.execEpochTakesEffect s
  | .jobDrainComplete => Sys2Proof.Machine.execJobDrainComplete s
  | .crashDump io => Sys2Proof.Machine.execCrashDump io s
  | .crashDumpComplete io => Sys2Proof.Machine.execCrashDumpComplete io s
  | .stepDeadlineExpiry slot => Sys2Proof.Machine.execStepDeadlineExpiry slot s
  | .unitHang unit index cls => Sys2Proof.Machine.execUnitHang unit index cls s
  | .portBackpressureExpiry unit index cls => Sys2Proof.Machine.execPortBackpressureExpiry unit index cls s
  | .firmwareHeartbeatMiss core => Sys2Proof.Machine.execFirmwareHeartbeatMiss core s
  | .controlStateError code => Sys2Proof.Machine.execControlStateError code s
  | .coreMemoryUncorrectable ward core => Sys2Proof.Machine.execCoreMemoryUncorrectable ward core s
  | .domainFenceClosed code => Sys2Proof.Machine.execDomainFenceClosed code s
  | .domainDrainComplete code => Sys2Proof.Machine.execDomainDrainComplete code s
  | .domainDrainDeadline code leftover => Sys2Proof.Machine.execDomainDrainDeadline code leftover s
  | .domainResetElapsed code => Sys2Proof.Machine.execDomainResetElapsed code s
  | .domainSelfCheck code ok => Sys2Proof.Machine.execDomainSelfCheck code ok s
  | .escalationWindowExpiry => Sys2Proof.Machine.execEscalationWindowExpiry s
  | .aoPorAssert => Sys2Proof.Machine.execAoPorAssert s
  | .aoPorRelease eccOk romCrc => Sys2Proof.Machine.execAoPorRelease eccOk romCrc s
  | .porAssert => Sys2Proof.Machine.execPorAssert s
  | .porReleaseBoot io v => Sys2Proof.Machine.execPorReleaseBoot io v s
  | .bootRetry io v => Sys2Proof.Machine.execBootRetry io v s
  | .rootLockLoss => Sys2Proof.Machine.execRootLockLoss s
  | .pwrWarnActed => Sys2Proof.Machine.execPwrWarnActed s
  | .braceInflightDone => Sys2Proof.Machine.execBraceInflightDone s
  | .braceSealed err => Sys2Proof.Machine.execBraceSealed err s
  | .pwrWarnClear => Sys2Proof.Machine.execPwrWarnClear s
  | .braceHoldoffExpiry => Sys2Proof.Machine.execBraceHoldoffExpiry s
  | .pwrResetRise => Sys2Proof.Machine.execPwrResetRise s
  | .pwrResetFall warn => Sys2Proof.Machine.execPwrResetFall warn s
  | .throttleChange n => Sys2Proof.Machine.execThrottleChange n s
  | .vddAckRise => Sys2Proof.Machine.execVddAckRise s
  | .vddAckTimeout => Sys2Proof.Machine.execVddAckTimeout s
  | .marginPlanPeriodic => Sys2Proof.Machine.execMarginPlanPeriodic s
  | .canaryAlarm slice slack => Sys2Proof.Machine.execCanaryAlarm slice slack s
  | .ceLimitReplan code => Sys2Proof.Machine.execCeLimitReplan code s
  | .relaxPeriodExpiry => Sys2Proof.Machine.execRelaxPeriodExpiry s
  | .measurementIntervalEnd m => Sys2Proof.Machine.execMeasurementIntervalEnd m s
  | .vaultSealCheck eccOk romCrc => Sys2Proof.Machine.execVaultSealCheck eccOk romCrc s
  | .vaultNonceRefill => Sys2Proof.Machine.execVaultNonceRefill s
  | .patrolScrub off found => Sys2Proof.Machine.execPatrolScrub off found s
  | .carafeGrant => Sys2Proof.Machine.execCarafeGrant s
  | .carafeListError pool entry => Sys2Proof.Machine.execCarafeListError pool entry s
  | .pourDescriptorRead ch io => Sys2Proof.Machine.execPourDescriptorRead ch io s
  | .pourPipeGrant pipe => Sys2Proof.Machine.execPourPipeGrant pipe s
  | .pourGranuleYield ch => Sys2Proof.Machine.execPourGranuleYield ch s
  | .move ch io granules => Sys2Proof.Machine.execMove ch io granules s
  | .fill ch io granules => Sys2Proof.Machine.execFill ch io granules s
  | .cmp ch io granules => Sys2Proof.Machine.execCmp ch io granules s
  | .loop ch io => Sys2Proof.Machine.execLoop ch io s
  | .wait ch io => Sys2Proof.Machine.execWait ch io s
  | .waitPoll ch io => Sys2Proof.Machine.execWaitPoll ch io s
  | .waitTimeout ch => Sys2Proof.Machine.execWaitTimeout ch s
  | .signal ch io => Sys2Proof.Machine.execSignal ch io s
  | .endProg ch io => Sys2Proof.Machine.execEndProg ch io s
  | .pourIllegalOpcode ch io => Sys2Proof.Machine.execPourIllegalOpcode ch io s
  | .pourInstructionComplete ch => Sys2Proof.Machine.execPourInstructionComplete ch s
  | .pourPark ch => Sys2Proof.Machine.execPourPark ch s
  | .pourWritebackComplete ch io => Sys2Proof.Machine.execPourWritebackComplete ch io s
  | .pourCancelDrained ch => Sys2Proof.Machine.execPourCancelDrained ch s
  | .pourBusErrorStop => Sys2Proof.Machine.execPourBusErrorStop s
  | .pourStopDrained => Sys2Proof.Machine.execPourStopDrained s
  | .dripSample => Sys2Proof.Machine.execDripSample s
  | .dripRecordWritten io => Sys2Proof.Machine.execDripRecordWritten io s
  | .dripRingFault code => Sys2Proof.Machine.execDripRingFault code s
  | .recordWritten io => Sys2Proof.Machine.execRecordWritten io s
  | .recordRingFault code => Sys2Proof.Machine.execRecordRingFault code s
  | .queuePoisonConsume c => Sys2Proof.Machine.execQueuePoisonConsume c s
  | .alignmentMarkersFound link => Sys2Proof.Machine.execAlignmentMarkersFound link s
  | .laneAlignmentLoss link lane => Sys2Proof.Machine.execLaneAlignmentLoss link lane s
  | .relinkHoldoffRestore link => Sys2Proof.Machine.execRelinkHoldoffRestore link s
  | .marginExhaustedAdvisoryEnd => Sys2Proof.Machine.execMarginExhaustedAdvisoryEnd s
  | .creditCoalesceExpiry e => Sys2Proof.Machine.execCreditCoalesceExpiry e s
  | .delayRequestInterval => Sys2Proof.Machine.execDelayRequestInterval s
  | .syncIntervalTransmit => Sys2Proof.Machine.execSyncIntervalTransmit s
  | .pfcPauseExpiry hinge prio => Sys2Proof.Machine.execPfcPauseExpiry hinge prio s

end Sys2Proof.Machine
end

