-- ==== Sys2Proof/Machine/Tick.lean ====
section
/-! DEFINITION. The clock: what a step does with no command waiting (log 1). -/

namespace Sys2Proof.Machine

/-- The block holds unsettled work of the job (R453, R454). -/
def unsettled (s : State) : Bool :=
  s.slots.any (fun x => x.ctx.isSome) || s.duties.any fun d => d.srcs.any fun x => !x.held.isZero

/-- The servo may slew in this cycle: a role is set, the rate is not held, and no slew lies in the last 9,999 cycles
(R278, R387). -/
def maySlew (s : State) : Bool := decide (s.ptp.role ≠ 0) && !s.ptp.slewHeld && decide (9999 ≤ s.ptp.slewGap)

/-- KT's advance in this LCLK cycle: one, or none or two where the servo slews, which is open (R278, R281; log 17). -/
def ktAdvance (s : State) : Nat :=
  if maySlew s then
    (if Config.freeSlew s.freeCtr % 3 = 1 then 0 else if Config.freeSlew s.freeCtr % 3 = 2 then 2 else 1)
  else 1

/-- A chunk has no credit left on its edge (R299). -/
def noCredit (s : State) (x : Outgoing) : Bool :=
  decide (edgeGet s.coll.credits (edgeOf x.hdr) + (groupAt s x.hdr.group).elim 0 (·.bufs) ≤ edgeGet s.coll.sent (edgeOf x.hdr))

/-- The groups of the chunks of a level that are ready to leave a ring hop and have no credit, or whose group's links are all
down (R299, R303). -/
def stalled (s : State) (level : Nat) : List Nat :=
  ((s.coll.waiting.filter fun x => decide (x.hdr.level = level) && !cellAsked s x && noCredit s x).map (·.hdr.group)) ++
  (s.kft.unacked.filter fun c => decide (c.tries = 0 ∧ c.hdr.region = 3 ∧ bits c.hdr.offset 38 37 = level) &&
    (chunkLinks s c).isEmpty).map fun c => bits c.hdr.offset 47 40

/-- Add the ticks of the stalled levels to coll.l{L}.stall_ticks, and record the group of the latest stall (R303). -/
def stallCount (n : Nat) (s : State) : State :=
  if acksSent s = false then s else (List.range 3).foldl (fun t l => match (stalled t l).getLast? with
    | none => t
    | some g => ctrAdd (920 + l) n { t with coll := { t.coll with stallGroup := t.coll.stallGroup.set l g } }) s

/-- One LCLK cycle: a dump that is due samples the tick that ends (R420), KT advances, and Vault's figure of busy ticks with it;
nothing happens while kw_ao_por_n is asserted or after the root clock has lost lock (R11, R278, R453). -/
def tick (s : State) : State :=
  if s.rst.aoHeld ∨ s.rst.rootLost then s
  else
    let a := ktAdvance s
    let s := stallCount a (dumpSample s)
    { s with
      kt := (s.kt + a) % 2 ^ 64,
      freeCtr := (if maySlew s then s.freeCtr + 1 else s.freeCtr),
      ptp := { s.ptp with slewGap := if maySlew s ∧ a ≠ 1 then 0 else s.ptp.slewGap + 1 },
      vault := { s.vault with busyHeld := if unsettled s then s.vault.busyHeld + a else s.vault.busyHeld } }

end Sys2Proof.Machine
end

