-- ==== Sys2Proof/Safety.lean ====
section
/-! DEFINITION. The words claims are made in: a command completes, with what its next state holds; and the invariant of
the block. -/

namespace Sys2Proof.Machine

/-- The command answers a next state, of which `P` holds. -/
def Completes (c : Instr) (s : State) (P : State → Prop) : Prop := ∃ t, exec c s = .next t ∧ P t

/-- Latch takes the packet `p`, and its command starts at once: the root clock is locked, a first beat is accepted (R24,
R30), the packet's opcode and header version are good (R61), and neither `after` nor MEM makes it wait (R59, R68). -/
structure Runs (op : Nat) (p : Packet) (s : State) : Prop where
  lock : s.rst.rootLost = false
  take : canTake s = true
  code : p.opcode.toNat = op
  ver : p.hdrVersion.toNat = 2
  free : p.after = false
  ahead : ∀ h ∈ s.latch.held, h.why ≠ .after
  mem : memWaits p s = false

/-- The same for a job-scope command that carries the job's tag, in a job state that admits it (R62, R90). -/
structure RunsJob (op : Nat) (p : Packet) (s : State) : Prop extends Runs op p s where
  job : jobExists s = true
  tag : p.jobTag.toNat = s.job.tag
  admits : jobAdmits s op = true

/-- Channel `ch` holds its pipe with nothing in flight and nothing pending, Pour may issue, and the instruction at its pc,
read as the 32 bytes `b`, has opcode `op` (R343, R349, R361, R366); the read leaves the state `u`. -/
structure PourAt (ch op : Nat) (b : List Byte) (u s : State) : Prop where
  lock : s.rst.rootLost = false
  chan : ch < 32
  length : s.pour.ch.length = 32
  running : (chAt s ch).st = .running
  hold : (chAt s ch).hold = true
  busy : (chAt s ch).busy = false
  waiting : (chAt s ch).waiting = false
  pending : (chAt s ch).pending = none
  runs : pourRuns s = true
  fetched : hostRead s (chAt s ch).ctx ((chAt s ch).progVa + 32 * (chAt s ch).pc) 32 = (u, .ok b)
  code : leAt b 0 1 % 16 = op

/-- The opcode of a command that comes as a packet, and the packet. A PARAM_SET that names mgmt.key_install is the command
KEY_INSTALL alone (log 5). -/
def packetOf (c : Instr) : Option (Nat × Packet) :=
  match c with
  | .echo p => some (0x01, p)
  | .identify p => some (0x02, p)
  | .paramGet p _ => some (0x03, p)
  | .keyInstall p _ => some (0x04, p)
  | .paramSet p => if namesKey (setEntries p) then none else some (0x04, p)
  | .rollbackCommit p => if namesKey (setEntries p) then none else some (0x04, p)
  | .hingeEnable p => if namesKey (setEntries p) then none else some (0x04, p)
  | .laneModeWrite p => if namesKey (setEntries p) then none else some (0x04, p)
  | .recEnable p => if namesKey (setEntries p) then none else some (0x04, p)
  | .snapshot p _ => some (0x05, p)
  | .jobOpen p _ => some (0x10, p)
  | .jobClose p => some (0x11, p)
  | .jobStart p => some (0x12, p)
  | .layerLoad p _ => some (0x14, p)
  | .keyringCommit p => some (0x15, p)
  | .tableLoad p _ => some (0x16, p)
  | .stepRun p => some (0x20, p)
  | .batchCancel p => some (0x21, p)
  | .batchPreempt p => some (0x22, p)
  | .batchResume p => some (0x23, p)
  | .tensorCopy p _ _ => some (0x28, p)
  | .gather p _ _ => some (0x29, p)
  | .scatterAcc p _ _ _ => some (0x2A, p)
  | .groupDefine p _ => some (0x30, p)
  | .collPost p _ => some (0x31, p)
  | .fence p => some (0x32, p)
  | .pourStart p => some (0x38, p)
  | .pourAbort p => some (0x39, p)
  | .pourRestartAll p => some (0x3A, p)
  | .pourResume p => some (0x3B, p)
  | .mmuMap p => some (0x40, p)
  | .mmuUnmap p => some (0x41, p)
  | .mmuInval p => some (0x42, p)
  | .poolConfig p _ => some (0x44, p)
  | .remoteInval p => some (0x48, p)
  | .timeCfg p => some (0x50, p)
  | .fwStage p _ _ => some (0x58, p)
  | .fwActivate p _ => some (0x59, p)
  | .vaultRead p _ => some (0x60, p)
  | .vaultPeriodClose p _ => some (0x61, p)
  | .traceCfg p _ => some (0x68, p)
  | .domainReset p => some (0x70, p)
  | .dumpRead p _ => some (0x71, p)
  | _ => none

/-- The payload length an opcode states (R71): 0 where its payload column reads "none". STEP_RUN's is 128 with an input
descriptor and 64 without. -/
def fixedLen (op : Nat) (p : Packet) : Option Nat :=
  if op ∈ [0x01, 0x03, 0x04] then none
  else if op = 0x10 ∨ op = 0x28 then some 128
  else if op = 0x20 then some (if (runArgs p).inSrc then 128 else 64)
  else if op = 0x29 ∨ op = 0x2A then some 192
  else if op = 0x31 ∨ op = 0x50 ∨ op = 0x68 then some 64
  else some 0

/-- A completion entry is free (R65). -/
def entryFree (s : State) : Prop := s.latch.completions < 512

/-- What every state of the block keeps: both memories in canonical form and the scratchpad within its 96 MiB (R309); as
many links, lanes, batch slots, domains, channels, pools and Keyring copies as the block has; and the bounds of its queues,
logs, caches and buffers (R31, R65, R81, R337, R395, R418, R457, R485). -/
structure Inv (s : State) : Prop where
  sp : Mem.wf s.sp = true
  spIn : ∀ c ∈ s.sp, c.1 < spSize
  host : Mem.wf s.hostMem = true
  slots : s.slots.length = 64
  links : s.links.length = 32
  lanes : s.lanes.length = 64
  doms : s.doms.length = 14
  chans : s.pour.ch.length = 32
  pools : s.carafe.pools.length = 8
  keyring : s.keyring.length = 4
  fatal : s.ev.fatal.length ≤ 16
  other : s.ev.other.length ≤ 239
  rlog : s.rlog.length ≤ 1024
  closed : s.vault.closed.length ≤ 16
  tlb : s.keyway.tlb.length ≤ 8192
  upper : s.keyway.upper.length ≤ 512
  completions : s.latch.completions ≤ 512
  drip : 32 * s.drip.buf.length ≤ 262144
  recs : sumN (s.recRing.buf.map recLen) ≤ 524288
  free : s.latch.free ≤ 64

end Sys2Proof.Machine
end

