-- ==== Sys2Proof/Certificates/Slice0/Obligations.lean ====
section
/-! DEFINITION. The statements for the provers. -/

open Sys2Proof Sys2Proof.Machine

/-- The command at the front of the queue is the one that runs, on the queue's rest. -/
def Obligations.StepRunsTheFrontCommand : Prop :=
  ∀ (c : Instr) (rest : List Instr) (s : State), s.pending = c :: rest → step s = exec c { s with pending := rest }

/-- With no command waiting, a step is one LCLK tick: KT advances by one, or by what the servo's slew leaves it, and not at
all while kw_ao_por_n is asserted (the model's choice, log 1; R11, R278). -/
def Obligations.EmptyQueueIsOneTick : Prop :=
  ∀ s : State, s.pending = [] →
    step s = .next (tick s) ∧
    (s.rst.aoHeld = false → s.rst.rootLost = false → maySlew s = false → (tick s).kt = (s.kt + 1) % 2 ^ 64) ∧
    (s.rst.aoHeld = true → tick s = s)

/-- What the manual says of the block right after reset: the job is Closed (R90), every batch slot Idle at generation 0 (R91),
every link Off (R252), every domain in service (R414), brace Normal (R434), VDD requested at code 50 (R441), no command slot
free and no beat accepted (R24). The values the manual does not state are the model's (log 2), and none of them is here. -/
def Obligations.ResetAsStated : Prop :=
  State.reset.job.st = .closed ∧ (∀ i < 64, (slotAt State.reset i).st = .idle ∧ (slotAt State.reset i).gen = 0) ∧
  (∀ k < 32, (linkAt State.reset k).st = .off) ∧ (∀ d < 14, domState State.reset d = .inService) ∧
  State.reset.pwr.brace = .normal ∧ State.reset.plan.vddReq = 50 ∧ State.reset.latch.free = 0 ∧
  canTake State.reset = false ∧ State.reset.pending = []

/-- The invariant holds right after reset. -/
def Obligations.InvHoldsAtReset : Prop := Inv State.reset

/-- Every step keeps the invariant, from every state that has it: both memories stay in their canonical form and the
scratchpad within 96 MiB, the block keeps its numbers of slots, links, lanes, domains, channels, pools and Keyring copies, and
no queue, log, cache or buffer outgrows its bound. -/
def Obligations.EveryStepKeepsInv : Prop := ∀ s t : State, Inv s → step s = .next t → Inv t

/-- The only stop: after kw_root_lock has fallen nothing is guaranteed until both resets have been asserted (R25); every command
but the two reset assertions stops, and with the lock no command stops. And no command changes the queue of the commands that
wait behind it. Says when these commands complete: aoPorAssert, porAssert. -/
def Obligations.OnlyRootLockStopsAndTheQueueStays : Prop :=
  ∀ (c : Instr) (s : State),
    (∀ t, Inv s → exec c s = .next t → t.pending = s.pending) ∧
    (s.rst.rootLost = false → ∃ t, exec c s = .next t) ∧
    (s.rst.rootLost = true → c ≠ .porAssert → c ≠ .aoPorAssert → exec c s = .fault .rootLockLost) ∧
    (∃ t, exec .porAssert s = .next t) ∧ ∃ t, exec .aoPorAssert s = .next t

/-- Checks 2 to 5 of R61, in their order, for every command that comes as a packet: the first that fails is the one reply,
under the packet's tag, and the command has no other effect than being taken. (A command that names VA ranges is checked when
MEM makes requests again, log 66.) And a first beat is taken only while kw_latch_accept is high (R24, R30, R31): before boot is
done, while the CTL domain is not in service, or with no slot free, a packet changes nothing. -/
def Obligations.HeaderChecksInOrder : Prop :=
  ∀ (c : Instr) (op : Nat) (p : Packet) (s : State), packetOf c = some (op, p) → s.rst.rootLost = false →
    (canTake s = false → exec c s = .next s) ∧ (canTake s = true → (p.opcode.toNat = op ∨ p.opcode.toNat ∉ opcodes) → p.after = false →
    (∀ h ∈ s.latch.held, h.why ≠ .after) → memWaits p s = false → (op = 0x23 → inBrace s = false) →
    let fails := fun st => exec c s = .next (replyOne p s.latch.order st 0 0 0 0 (takePacket p s))
    (p.hdrVersion.toNat ≠ 2 → fails 0x0103) ∧
    (p.hdrVersion.toNat = 2 → p.opcode.toNat ≠ op → fails 0x0104) ∧
    (p.hdrVersion.toNat = 2 → p.opcode.toNat = op → 4096 < p.payloadLen.toNat → fails 0x0105) ∧
    (p.hdrVersion.toNat = 2 → p.opcode.toNat = op →
      (∃ n, fixedLen op p = some n ∧ p.payloadLen.toNat ≠ n) → fails 0x0105) ∧
    (p.hdrVersion.toNat = 2 → p.opcode.toNat = op → jobScope op = true → fixedLen op p = some p.payloadLen.toNat →
      ¬ (jobExists s = true ∧ p.jobTag.toNat = s.job.tag) → fails 0x0202))

/-- A packet with `after` set waits, taken but unexecuted, while an earlier-taken command has not started, has not ended, or
has a reply that is unsent, and so does every packet behind one that waits for `after` (R68). -/
def Obligations.AfterHoldsThePacket : Prop :=
  ∀ (c : Instr) (op : Nat) (p : Packet) (s : State), packetOf c = some (op, p) → s.rst.rootLost = false →
    canTake s = true → p.opcode.toNat = op →
    ((∃ h ∈ s.latch.held, h.why = .after ∧ h.cmd.after = true ∧ h.order < s.latch.order) ∨
      (p.after = true ∧
        ((∃ h ∈ s.latch.held, h.order < s.latch.order) ∨ (∃ o ∈ s.latch.opened, o.order < s.latch.order) ∨
          ∃ r ∈ s.latch.replies, r.order < s.latch.order))) →
    ∃ x : Ext, exec c s = .next (holdCmd .after p x s.latch.order (takePacket p s))

/-- ECHO returns p0 to p3 in r0 to r3, and IDENTIFY the release and stepping, the own seat and fuse options, and the
reproducibility key (R71): one reply each, and nothing else changes but what taking the packet and queueing the reply change.
Says when these commands complete: echo, identify. -/
def Obligations.EchoAndIdentifyReply : Prop :=
  ∀ (p : Packet) (s : State),
    (Runs 0x01 p s → p.payloadLen.toNat ≤ 4096 →
      exec (.echo p) s = .next
        (replyOne p s.latch.order 0 p.p0.toNat p.p1.toNat p.p2.toNat p.p3.toNat (takePacket p s))) ∧
    (Runs 0x02 p s → p.payloadLen.toNat = 0 →
      exec (.identify p) s = .next
        (replyOne p s.latch.order 0 (releaseWord s + 2 * 2 ^ 24) (getP s 0x0001 + s.fuses.options * 2 ^ 16)
          (keyNow s % 2 ^ 32) (keyNow s / 2 ^ 32) (takePacket p s)))

/-- What taking a packet, accepting it, and queueing its replies change: the Latch port, the block counters, Drip and the
record ring, and no other state (R31, R64, R393, R488). The reply stream gains exactly the replies, in order, after those that
wait; a reply carries the packet's tag and opcode and the tick (R66). An asynchronous command has one final reply: of one that
has ended, a second is not made. -/
def Obligations.TakingAndReplyingFrame : Prop :=
  ∀ (p : Packet) (s : State) (o : OpenCmd) (n st r0 r1 r2 r3 : Nat),
    (takePacket p s = { s with latch := (takePacket p s).latch, counters := (takePacket p s).counters,
                               drip := (takePacket p s).drip, recRing := (takePacket p s).recRing }) ∧
    (takePacket p s).latch = { s.latch with free := s.latch.free - 1, order := s.latch.order + 1 } ∧
    (∀ i, i ≠ 41 → ctr (takePacket p s) i = ctr s i) ∧
    replyOne p n st r0 r1 r2 r3 s =
      { s with drip := (replyOne p n st r0 r1 r2 r3 s).drip,
               latch := { s.latch with replies := s.latch.replies ++
                 [{ tag := p.tag.toNat, status := st, opcode := p.opcode.toNat, final := true, kt := s.kt, r0 := r0,
                    r1 := r1, r2 := r2, r3 := r3, order := n, first := true, entry := false }] } } ∧
    accept p n r0 s =
      { s with drip := (accept p n r0 s).drip,
               latch := { s.latch with
                 completions := s.latch.completions + 1, opened := s.latch.opened ++ [openOf p n],
                 replies := s.latch.replies ++
                   [{ tag := p.tag.toNat, status := 0x0001, opcode := p.opcode.toNat, final := false, kt := s.kt,
                      r0 := r0, r1 := 0, r2 := 0, r3 := 0, order := n, first := true, entry := false }] } } ∧
    (s.latch.opened.any (fun x => sameCmd x o) = false → finish o st r0 r1 r2 r3 s = s) ∧
    (s.latch.opened.any (fun x => sameCmd x o) = true → finish o st r0 r1 r2 r3 s =
      { s with drip := (finish o st r0 r1 r2 r3 s).drip,
               latch := { s.latch with
                 opened := s.latch.opened.filter (fun x => !sameCmd x o),
                 replies := s.latch.replies ++
                   [{ tag := o.tag, status := st, opcode := o.opcode, final := true, kt := s.kt, r0 := r0, r1 := r1,
                      r2 := r2, r3 := r3, order := o.order, first := false, entry := true }] } })

/-- The frames of the two memories. A write of host memory through Keyway (R46, R333): where every byte translates, exactly the
bytes of the translated pieces are written, every other byte of host memory reads as before, and nothing else changes but
Keyway's cache; where some byte does not translate, host memory is unchanged. A write of the scratchpad (R309, R313): a byte
inside the range and the scratchpad reads as written, every other byte as before; a word wholly written loses its poison and no
other word's poison changes; an access that leaves the scratchpad is counted in sp.oob (counter 12); nothing else changes. -/
def Obligations.MemoryWriteFrames : Prop :=
  (∀ (s : State) (ctx va : Nat) (bs : List Byte),
    (∀ (t : State), hostWrite s ctx va bs = (t, .ok ()) →
      ∃ (u : State) (l : List Piece), xlateRange s ctx va bs.length true = (u, .ok l) ∧
        t.hostMem = writePieces l bs s.hostMem ∧
        (∀ a, (∀ q ∈ l, a < q.pa ∨ q.pa + q.len ≤ a) → memGet t.hostMem a = memGet s.hostMem a) ∧
        t = { s with hostMem := t.hostMem, keyway := t.keyway }) ∧
    (∀ (t : State) (f : XFault), hostWrite s ctx va bs = (t, .error f) →
      t.hostMem = s.hostMem ∧ t = { s with keyway := t.keyway })) ∧
  ∀ (s : State) (a : Nat) (bs : List Byte),
    let t := spWrite a bs s
    (∀ i, i < bs.length → a + i < spSize → memGet t.sp (a + i) = bs.getD i 0) ∧
    (∀ x, x < a ∨ a + bs.length ≤ x ∨ spSize ≤ x → memGet t.sp x = memGet s.sp x) ∧
    (∀ w, w ∈ t.spPoison ↔ w ∈ s.spPoison ∧ ¬ (a ≤ 8 * w ∧ 8 * w + 8 ≤ a + min bs.length (spSize - a))) ∧
    t = { s with sp := t.sp, spPoison := t.spPoison, counters := t.counters } ∧
    (spSize < a + bs.length → ctr t 12 = (ctr s 12 + 1) % 2 ^ 64) ∧
    (a + bs.length ≤ spSize → t.counters = s.counters)

/-- PARAM_GET of one or two parameters returns the values, all sampled at one tick, in its reply; of more, it writes them at its
VA and replies their number (R84). SNAPSHOT writes its block at its VA and replies the bytes (R86). DUMP_READ is accepted,
writes the retention log or the last dump header, and its final reply carries the bytes and entries (R419). Says when these
commands complete: paramGet, snapshot, dumpRead. -/
def Obligations.ParamGetSnapshotAndDumpReadComplete : Prop :=
  ∀ (p : Packet) (io : Io) (s u w : State),
    let t := takePacket p s
    let v := fun i => ((getIds p).map (paramValue t)).getD i 0
    (Runs 0x03 p s → (p.payloadLen.toNat = 2 ∨ p.payloadLen.toNat = 4) →
      (∀ i ∈ getIds p, (paramInfo i).isSome = true) →
      exec (.paramGet p io) s =
        .next (replyOne p s.latch.order 0 (v 0 % 2 ^ 32) (v 0 / 2 ^ 32) (v 1 % 2 ^ 32) (v 1 / 2 ^ 32) t)) ∧
    (Runs 0x03 p s → p.payloadLen.toNat % 2 = 0 → 4 < p.payloadLen.toNat → p.payloadLen.toNat ≤ 4096 →
      (∀ i ∈ getIds p, (paramInfo i).isSome = true) →
      checkRanges [(0, pVa p, 8 * (p.payloadLen.toNat / 2), true)] io t = (u, none) →
      ownWrite 0 (pVa p) (((getIds p).map (paramValue t)).flatMap (leBytes 8)) io u = (w, none) →
      exec (.paramGet p io) s = .next (replyOne p s.latch.order 0 (p.payloadLen.toNat / 2) 0 0 0 w)) ∧
    (Runs 0x05 p s → p.payloadLen.toNat = 0 → p.p0.toNat % 256 ≤ 4 →
      checkRanges [(0, pVa p, (snapBytes t (p.p0.toNat % 256)).length, true)] io t = (u, none) →
      ownWrite 0 (pVa p) (snapBytes t (p.p0.toNat % 256)) io u = (w, none) →
      exec (.snapshot p io) s =
        .next (replyOne p s.latch.order 0 (snapBytes t (p.p0.toNat % 256)).length 0 0 0 w)) ∧
    (Runs 0x71 p s → p.payloadLen.toNat = 0 → entryFree s →
      (let out := if p.p0.toNat % 2 = 0 then logBytes t else t.dump.header
       checkRanges [(0, pVa p, out.length, true)] io t = (u, none) →
       ownWrite 0 (pVa p) out io (accept p s.latch.order 0 u) = (w, none) →
       exec (.dumpRead p io) s =
         .next (finish (openOf p s.latch.order) 0 out.length (if p.p0.toNat % 2 = 0 then w.rlog.length else 0) 0 0 w)))

/-- PARAM_SET, and the rows it carries, check their entries in index order (R84): where an entry fails, the one reply carries the
status of the first bad entry and its index, and no entry is applied; where none fails, every entry is applied, in order, at
one tick, and the reply carries their number. What one applied entry does: a plain parameter reads back as written and no
other parameter changes; a step-bound one written with at_step waits for its step (R85); hinge{p}.enable = 0 takes the
Hinge's four links Off (R252); rec.ctl with a rising enable restarts the record ring (R392); the shared fw.rollback_commit
write raises the fuse counter to the active image's svn and never lowers it (R473); mgmt.key_install writes go nowhere by
themselves (R478). Says when these commands complete: paramSet, rollbackCommit, keyInstall, hingeEnable, laneModeWrite,
recEnable. -/
def Obligations.ParamSetAppliesAllOrNone : Prop :=
  (∀ (p : Packet) (k : KeyVerdict) (s : State), Runs 0x04 p s → p.payloadLen.toNat % 16 = 0 →
    16 ≤ p.payloadLen.toNat → p.payloadLen.toNat ≤ 4096 →
    let t := takePacket p s
    let l := setEntries p
    let all := fun (w : State) => exec (.paramSet p) s = .next w ∧ exec (.rollbackCommit p) s = .next w ∧
      exec (.hingeEnable p) s = .next w ∧ exec (.laneModeWrite p) s = .next w ∧ exec (.recEnable p) s = .next w
    (entriesBad t (setStep p) l 0 l = none →
      (namesKey l = false →
        all (replyOne p s.latch.order 0 l.length 0 0 0 (l.foldl (applyEntry (setStep p)) t))) ∧
      exec (.keyInstall p k) s = .next (replyOne p s.latch.order 0 l.length 0 0 0 (applyEntries (setStep p) l k t))) ∧
    ∀ st i, entriesBad t (setStep p) l 0 l = some (st, i) →
      (namesKey l = false → all (replyOne p s.latch.order st 0 i 0 0 t)) ∧
      exec (.keyInstall p k) s = .next (replyOne p s.latch.order st 0 i 0 0 t)) ∧
  ∀ (s : State) (id v : Nat),
    ((id < 0x0200 ∨ 0x0280 ≤ id) → id ≠ 0x002C → id ≠ 0x0A02 → ¬ (0x0310 ≤ id ∧ id ≤ 0x0337) →
      applyNow s id v = setP s id v ∧ getP (setP s id v) id = v ∧ ∀ j, j ≠ id → getP (setP s id v) j = getP s j) ∧
    (∀ n, isBound id = true →
      applyEntry (some n) s (id, v) = { s with pendParams := s.pendParams ++ [{ id := id, step := n, value := v }] }) ∧
    (∀ q < 8, Inv s → ∀ k, k / 4 = q → (linkAt (applyNow s (0x0200 + 16 * q) 0) k).st = .off) ∧
    (bit v 0 = true → bit (getP s 0x0A02) 0 = false → (applyNow s 0x0A02 v).recRing = Rec.reset) ∧
    s.fuses.rollback ≤ (applyNow s 0x002C v).fuses.rollback ∧
    ((0x0310 ≤ id ∧ id ≤ 0x0337) → applyNow s id v = s)

/-- MMU_MAP puts the root into a free context and replies (R339); a context that is mapped, or context 1 while a job exists, is
refused with ST_WRONG_STATE and the roots stay. MMU_UNMAP leaves its context without a root and without a cached entry, and
MMU_INVAL leaves no cached entry that translates a byte of its range, or none at all for a range of 0 (R337, R338); each is
accepted, and ends once what was under way before it has passed (the requests, Pour's accesses, the tensor commands; for the
job's context, its Pour channels): at once where nothing was. Says when these commands complete: mmuMap, mmuUnmap, mmuInval. -/
def Obligations.MmuCommandsComplete : Prop :=
  ∀ (p : Packet) (s : State),
    let c := p.p0.toNat % 2
    let n := s.latch.order
    let under := s.mport.out = [] ∧ s.mport.wait = [] ∧ poursBusy s = [] ∧ tensorsOpen s = []
    let ends := fun (t : State) =>
      ∃ r, t.latch.replies.getLast? = some r ∧ r.tag = p.tag.toNat ∧ r.status = 0 ∧ r.final = true
    let waits := fun (t : State) =>
      ∃ w ∈ t.keyway.retire, w.cmd = openOf p n ∧ w.reqs = s.mport.out ++ s.mport.wait ∧ w.pours = poursBusy s ∧
        w.tensors = tensorsOpen s
    (Runs 0x40 p s → p.payloadLen.toNat = 0 → mmuRoot p % 4096 = 0 →
      (rootOf s c = none → (c = 1 → jobExists s = false) →
        exec (.mmuMap p) s = .next (replyOne p n 0 0 0 0 0 (setRoot c (some (mmuRoot p)) (takePacket p s)))) ∧
      (rootOf s c ≠ none ∨ (c = 1 ∧ jobExists s = true) →
        exec (.mmuMap p) s = .next (replyOne p n 0x0201 0 0 0 0 (takePacket p s)))) ∧
    (Runs 0x41 p s → p.payloadLen.toNat = 0 → jobExists s = false → (c = 0 → hostPool s = false) → entryFree s →
      Completes (.mmuUnmap p) s fun t =>
        rootOf t c = none ∧ rootOf t (1 - c) = rootOf s (1 - c) ∧
        (∀ e, e ∈ t.keyway.tlb ↔ e ∈ s.keyway.tlb ∧ e.ctx ≠ c) ∧ (∀ e ∈ t.keyway.upper, e.ctx ≠ c) ∧
        ((∀ w ∈ s.keyway.retire, w.cmd.order ≠ n) → under → (c = 1 → ∀ x ∈ s.pour.ch, x.ctx = 1 → x.st = .idle) → ends t) ∧
        (¬ (under ∧ (c = 1 → ∀ x ∈ s.pour.ch, x.ctx = 1 → x.st = .idle)) → waits t) ∧
        t = { s with latch := t.latch, keyway := t.keyway, counters := t.counters, drip := t.drip, recRing := t.recRing }) ∧
    (Runs 0x42 p s → p.payloadLen.toNat = 0 → entryFree s →
      Completes (.mmuInval p) s fun t =>
        (∀ e, e ∈ t.keyway.tlb ↔
          e ∈ s.keyway.tlb ∧ p.p3.toNat ≠ 0 ∧ ¬ (e.va < pVa p + p.p3.toNat * 65536 ∧ pVa p < e.va + e.bytes)) ∧
        (p.p3.toNat = 0 → t.keyway.upper = []) ∧ t.keyway.root0 = s.keyway.root0 ∧ t.keyway.root1 = s.keyway.root1 ∧
        ((∀ w ∈ s.keyway.retire, w.cmd.order ≠ n) → under → ends t) ∧ (¬ under → waits t) ∧
        t = { s with latch := t.latch, keyway := t.keyway, counters := t.counters, drip := t.drip, recRing := t.recRing })

/-- TIME_CFG takes over the servo's fields and, with its step bit, sets KT, which no running job allows (R278, R280). TRACE_CFG
takes over Drip's fields; a rising enable empties the ring's state and sets its tail to 0, and while Drip is enabled its base
and size cannot change (R482, R483). Says when these commands complete: timeCfg, traceCfg. -/
def Obligations.TimeAndTraceConfigComplete : Prop :=
  ∀ (p : Packet) (io : Io) (s u : State),
    let n := s.latch.order
    let b := pBody p
    let c := traceOf b
    (Runs 0x50 p s → p.payloadLen.toNat = 64 → timeRange b s = true →
      (bit (leAt b 0 1) 3 = true → s.job.st ≠ .starting ∧ s.job.st ≠ .running) →
      exec (.timeCfg p) s = .next (replyOne p n 0 0 0 0 0 (timeApply b (takePacket p s))) ∧
      (timeApply b (takePacket p s)).kt = (if bit (leAt b 0 1) 3 then leAt b 8 8 else s.kt)) ∧
    (Runs 0x68 p s → p.payloadLen.toNat = 64 → traceRange c = true →
      (traceFixed s c = true → exec (.traceCfg p io) s = .next (replyOne p n 0x0205 0 0 0 0 (takePacket p s))) ∧
      (traceFixed s c = false → checkRanges [(0, c.base, c.size * 65536, true)] io (takePacket p s) = (u, none) →
        exec (.traceCfg p io) s = .next (replyOne p n 0 0 0 0 0 (traceApply c u)) ∧
        (traceApply c u).drip.enable = c.enable ∧ (traceApply c u).drip.kindMask = c.kindMask ∧
        (traceApply c u).drip.sel = c.sel ∧
        (c.enable = true → s.drip.enable = false →
          (traceApply c u).drip.base = c.base ∧ (traceApply c u).drip.size = c.size ∧ (traceApply c u).drip.head = 0 ∧
          (traceApply c u).drip.buf = [] ∧ getP (traceApply c u) 0x0A09 = 0) ∧
        (s.drip.enable = true → (traceApply c u).drip.base = s.drip.base ∧ (traceApply c u).drip.size = s.drip.size)))

/-- FW_STAGE of a bundle that verifies leaves exactly its images in the staging area; of one that does not, it leaves the staging
area empty and ends with the status of the check that failed (R470, R474). FW_ACTIVATE checks what is staged again, and
either swaps active and staged images, or ends with that status and swaps nothing (R475). Says when these commands complete:
fwStage, fwActivate. -/
def Obligations.FirmwareStageAndActivateComplete : Prop :=
  ∀ (p : Packet) (io : Io) (v : Verdict) (s u w : State) (b : List Byte),
    let n := s.latch.order
    let o := openOf p n
    (Runs 0x58 p s → p.payloadLen.toNat = 0 → entryFree s → p.p3.toNat ≤ bundleMax →
      checkRanges [(0, pVa p, p.p3.toNat, false)] io (takePacket p s) = (u, none) →
      ownRead 0 (pVa p) p.p3.toNat io (accept p n 0 u) = (w, .ok b) →
      (∀ l, verifyBundle w v b = .ok l →
        exec (.fwStage p io v) s = .next (finish o 0 0 0 0 0
          { w with fw := { w.fw with stagedCtl := imgOfKind 0x4601 l, stagedWard := imgOfKind 0x4602 l, chunks := [] } })) ∧
      (∀ e, verifyBundle w v b = .error e →
        exec (.fwStage p io v) s = .next (finish o e.1 0 0 0 0
          { w with fw := { w.fw with stagedCtl := none, stagedWard := none, chunks := [] } }))) ∧
    (Runs 0x59 p s → p.payloadLen.toNat = 0 → entryFree s → inBrace s = false → stagedImgs s ≠ [] →
      (∀ e, imgsBad s v (stagedImgs s) = some e →
        exec (.fwActivate p v) s = .next (finish o e.1 0 0 0 0 (accept p n 0 (takePacket p s)))) ∧
      (imgsBad s v (stagedImgs s) = none →
        Completes (.fwActivate p v) s fun t =>
          (s.fw.stagedCtl ≠ none → t.fw.ctl = s.fw.stagedCtl ∧ t.fw.stagedCtl = s.fw.ctl) ∧
          (s.fw.stagedCtl = none → t.fw.ctl = s.fw.ctl ∧ t.fw.stagedCtl = none) ∧
          (s.fw.stagedWard ≠ none → t.fw.ward = s.fw.stagedWard ∧ t.fw.stagedWard = s.fw.ward) ∧
          (s.fw.stagedWard = none → t.fw.ward = s.fw.ward ∧ t.fw.stagedWard = none) ∧
          t = { s with latch := t.latch, fw := t.fw, counters := t.counters, drip := t.drip, recRing := t.recRing }))

/-- VAULT_READ writes the record its selector names and replies its bytes; a signed one takes one nonce pair, and a reading of a
period one from reading_seq (R461, R463, R465). VAULT_PERIOD_CLOSE closes the open period at this tick, opens the next number
with the same job tag, and replies the closed number (R456, R464). Either waits for a pair where only brace's is left. Says
when these commands complete: vaultRead, vaultPeriodClose. -/
def Obligations.VaultCommandsComplete : Prop :=
  ∀ (p : Packet) (io : Io) (s u w : State),
    let n := s.latch.order
    let o := openOf p n
    let sel := p.p0.toNat % 4
    let a := accept p n 0 u
    let r := vaultRecord sel p.p3.toNat a
    (Runs 0x60 p s → p.payloadLen.toNat = 0 → entryFree s → vaultSelOk s sel p.p3.toNat = true →
      checkRanges [(0, pVa p, vaultSelBytes sel, true)] io (takePacket p s) = (u, none) →
      (nonceFree s = true ∨ sel = 3 → ownWrite 0 (pVa p) r.2 io r.1 = (w, none) →
        exec (.vaultRead p io) s = .next (finish o 0 r.2.length 0 0 0 w)) ∧
      (nonceFree s = false → sel ≠ 3 → exec (.vaultRead p io) s = .next (vaultWait p (Ext.ofIo io) n a)) ∧
      (sel ≤ 1 → r.1.vault.readingSeq = (s.vault.readingSeq + 1) % 2 ^ 64) ∧
      (sel ≤ 2 → r.1.vault.nonces = s.vault.nonces - 1) ∧ (sel = 3 → r.1.vault = s.vault)) ∧
    (Runs 0x61 p s → p.payloadLen.toNat = 0 → entryFree s → inBrace s = false →
      checkRanges [(0, pVa p, 512, true)] io (takePacket p s) = (u, none) →
      (nonceFree s = true →
        Completes (.vaultPeriodClose p io) s fun t =>
          t.vault.cur.num = (s.vault.cur.num + 1) % 2 ^ 32 ∧ t.vault.cur.jobTag = s.vault.cur.jobTag ∧
          t.vault.cur.ktOpen = s.kt ∧ t.vault.cur.ord = VCounts.zero ∧ t.vault.cur.canc = VCounts.zero ∧
          (∃ q ∈ t.vault.closed, q = { s.vault.cur with ktClose := s.kt }) ∧
          (∃ e, t.latch.replies.getLast? = some e ∧ e.tag = p.tag.toNat ∧ e.final = true ∧
            (e.status = 0 → e.r0 = s.vault.cur.num))) ∧
      (nonceFree s = false → exec (.vaultPeriodClose p io) s = .next (vaultWait p (Ext.ofIo io) n a)))

/-- VAULT_SEAL_CHECK reports the ROM's CRC and breaks the seal, with EV_VAULT when the status bit was clear, where the fuses or
that CRC are bad (R451). VAULT_NONCE_REFILL makes one pair more, of four at most, and serves what waited (R465). Says when
these commands complete: vaultSealCheck, vaultNonceRefill. -/
def Obligations.VaultCheckAndRefillComplete : Prop :=
  ∀ (ok : Bool) (crc : Nat) (s : State), s.rst.rootLost = false →
    Completes (.vaultSealCheck ok crc) s (fun t =>
      t.vault.checksum = crc % 2 ^ 32 ∧
      (ok = true → crc % 2 ^ 32 = s.fuses.vaultChecksum →
        t = { s with vault := { s.vault with checksum := crc % 2 ^ 32 } }) ∧
      (ok = false ∨ crc % 2 ^ 32 ≠ s.fuses.vaultChecksum →
        t.vault.sealBroken = true ∧ bit t.vault.status 0 = true ∧
        (bit s.vault.status 0 = true → t.ev = s.ev) ∧
        (bit s.vault.status 0 = false → t.ev.seq = (s.ev.seq + 1) % 65536)) ∧
      t = { s with vault := t.vault, ev := t.ev, drip := t.drip, counters := t.counters }) ∧
    (s.vault.nonces < 4 → s.rst.aoHeld = false →
      exec .vaultNonceRefill s = .next (mgmtServe s.mgmt.waiting.length
        (vaultServe { s with vault := { s.vault with nonces := s.vault.nonces + 1 } })) ∧
      (s.vault.waiting = [] → s.mgmt.waiting = [] →
        exec .vaultNonceRefill s = .next { s with vault := { s.vault with nonces := s.vault.nonces + 1 } })) ∧
    (4 ≤ s.vault.nonces → exec .vaultNonceRefill s = .next s)

/-- MANAGEMENT_REQUEST (R330, R476, R477, R480): a poisoned request is discarded and counted; one already answered is answered
from the cache, without being executed again; any other is executed once and its response kept, the newest of its seat's, and
sent on mgmt.link or the next Up link (R282; with no link Up the requester asks again, log 97). While the firmware is not
ready only the boot ROM's kinds are served. Says when these commands complete: managementRequest. -/
def Obligations.ManagementRequestAnswers : Prop :=
  ∀ (q : MgmtReq) (v : Verdict) (s : State), s.rst.rootLost = false →
    (q.poisoned = true → exec (.managementRequest q v) s = .next (ctrInc 16 s)) ∧
    (q.poisoned = false → mgmtServed s q = false → exec (.managementRequest q v) s = .next s) ∧
    (q.poisoned = false → mgmtServed s q = true →
      (∀ r, s.mgmt.cache.find? (fun r => decide (r.seat = q.seat ∧ r.reqId = q.reqId)) = some r →
        Completes (.managementRequest q v) s fun t =>
          t.mgmt.cache = s.mgmt.cache ∧ (∀ k, mgmtLink s = some k → t.mgmt.sent.head? = some (k, r)) ∧
          (mgmtLink s = none → t = s) ∧ t = { s with mgmt := t.mgmt }) ∧
      (s.mgmt.cache.find? (fun r => decide (r.seat = q.seat ∧ r.reqId = q.reqId)) = none →
        (mgmtWaits s q = true →
          exec (.managementRequest q v) s = .next { s with mgmt := { s.mgmt with waiting := s.mgmt.waiting ++ [(q, v)] } }) ∧
        (mgmtWaits s q = false → 1 ≤ q.kind → q.kind ≤ 7 →
          Completes (.managementRequest q v) s fun t =>
            ∃ r, t.mgmt.cache.head? = some r ∧ (∀ k, mgmtLink s = some k → t.mgmt.sent.head? = some (k, r)) ∧ r.seat = q.seat ∧ r.reqId = q.reqId ∧
              r.kind = q.kind + 0x80 ∧
              (q.kind = 1 → 1 ≤ q.arg0 → q.arg0 ≤ 512 →
                (∀ i < q.arg0, (paramInfo (leAt q.body (2 * i) 2)).isSome = true) →
                r.status = 0 ∧
                r.body = (List.range q.arg0).flatMap fun i => leBytes 8 (paramValue s (leAt q.body (2 * i) 2))) ∧
              (q.kind = 6 → r.status = 0 ∧ r.body = logBytes s))))

/-- The PTP rows (R279 to R281). A Sync of the servo's domain gives the offset, from its receive stamp taken back to the lane
pins, which counts towards the lock: 16 good intervals in a row lock, 4 bad ones unlock; the answer to the delay request that
was sent gives the path delay, end to end or to the peer as delay_mech says; the fourth missed Sync unlocks; a time receiver
sends its delay request and a time transmitter Sync and Follow_Up, on the PTP link while it is Up, and keeps their stamps.
The half a delay rounds to, and a stamp's 6-bit fraction, are the model's (log 17). Says when these commands complete:
ptpEventMessage, ptpSyncMissed, delayRequestInterval, syncIntervalTransmit. -/
def Obligations.PtpRowsComplete : Prop :=
  ∀ (dom : Nat) (m : PtpMsg) (s : State), s.rst.rootLost = false →
    (s.ptp.role = 1 → dom = s.ptp.domain →
      (∀ t1 t2 k, let off := rxStamp s t2 k - t1 - s.ptp.delay
        Completes (.ptpEventMessage dom (.sync t1 t2 k)) s fun t =>
        t.ptp.offset = off ∧ t.ptp.missed = 0 ∧
        (above off s.ptp.lockNs = false →
          t.ptp.bad = 0 ∧ (15 ≤ s.ptp.good → t.ptp.locked = true) ∧ (s.ptp.good < 15 → t.ptp.locked = s.ptp.locked)) ∧
        (above off s.ptp.lockNs = true →
          t.ptp.good = 0 ∧ (3 ≤ s.ptp.bad → t.ptp.locked = false) ∧ (s.ptp.bad < 3 → t.ptp.locked = s.ptp.locked)) ∧
        t = { s with ptp := t.ptp, ev := t.ev, drip := t.drip, counters := t.counters }) ∧
      (∀ t3 t4, sentStamp s 1 = some t3 → s.ptp.delayMech = false →
        exec (.ptpEventMessage dom (.delayResp t4)) s =
          .next { s with ptp := { s.ptp with delay := (s.ptp.offset + s.ptp.delay + (t4 - t3)) / 2 } }) ∧
      (∀ t1 t2 t3 t4 k, sentStamp s 2 = some t1 → s.ptp.delayMech = true →
        exec (.ptpEventMessage dom (.pdelayResp t2 t3 t4 k)) s =
          .next { s with ptp := { s.ptp with delay := (rxStamp s t4 k - t1 - (t3 - t2)) / 2 } }) ∧
      (∀ t4, sentStamp s 1 = none ∨ s.ptp.delayMech = true → exec (.ptpEventMessage dom (.delayResp t4)) s = .next s) ∧
      (∀ t2 t3 t4 k, sentStamp s 2 = none ∨ s.ptp.delayMech = false →
        exec (.ptpEventMessage dom (.pdelayResp t2 t3 t4 k)) s = .next s) ∧
      exec (.ptpEventMessage dom .announce) s = .next s) ∧
    (s.ptp.role ≠ 1 ∨ dom ≠ s.ptp.domain → exec (.ptpEventMessage dom m) s = .next s) ∧
    (s.ptp.role = 1 →
      (s.ptp.missed < 3 → exec .ptpSyncMissed s = .next { s with ptp := { s.ptp with missed := s.ptp.missed + 1 } }) ∧
      (3 ≤ s.ptp.missed → Completes .ptpSyncMissed s fun t =>
        t.ptp.locked = false ∧ t.ptp.missed = 0 ∧ t.ptp.good = 0 ∧ t.ptp.bad = 0 ∧ t.kt = s.kt)) ∧
    (s.ptp.role ≠ 1 → exec .ptpSyncMissed s = .next s) ∧
    (s.ptp.role = 1 → ptpLinkUp s = true → Completes .delayRequestInterval s fun t =>
      ∃ q : PtpSent, q.kind = (if s.ptp.delayMech then 2 else 1) ∧ q.domain = s.ptp.domain ∧ q.clockId = clockOf s ∧
        q.stamp = ((64 * s.kt + Config.freeFrac s.freeCtr % 64 : Nat) : Int) + linkLatency s (ptpLink s) false ∧
        t = { s with freeCtr := s.freeCtr + 1, ptp := { s.ptp with sent := (q :: s.ptp.sent).take 8 } }) ∧
    (s.ptp.role = 2 → ptpLinkUp s = true → Completes .syncIntervalTransmit s fun t =>
      ∃ q r : PtpSent, q.kind = 0 ∧ r.kind = 8 ∧ q.clockId = clockOf s ∧ r.clockId = clockOf s ∧
        t = { s with freeCtr := s.freeCtr + 2, ptp := { s.ptp with sent := (q :: r :: s.ptp.sent).take 8 } }) ∧
    (s.ptp.role ≠ 1 ∨ ptpLinkUp s = false → exec .delayRequestInterval s = .next s) ∧
    (s.ptp.role ≠ 2 ∨ ptpLinkUp s = false → exec .syncIntervalTransmit s = .next s)

/-- DOMAIN_RESET is accepted and begins the reset of its domain, joins the one in progress, or is recorded for after the rejoin
(R95, R414); a reset of any domain but CTL faults an active job (R416). No other domain changes state. Says when these
commands complete: domainReset. -/
def Obligations.DomainResetCommandCompletes : Prop :=
  ∀ (p : Packet) (s : State) (i : Nat), Inv s → Runs 0x70 p s → p.payloadLen.toNat = 0 → entryFree s →
    domOf (p.p0.toNat % 256) = some i →
    let o := openOf p s.latch.order
    Completes (.domainReset p) s fun t =>
      (domState s i = .inService →
        (domAt t i).st = .fencing ∧ (domAt t i).trigger = 1 ∧ (domAt t i).cmds = [o] ∧
        (i ≠ 0 → jobActive s = true → t.job.st = .faulted) ∧ (i = 0 ∨ jobActive s = false → t.job = s.job)) ∧
      (domState s i = .rejoining →
        (domAt t i).st = .rejoining ∧ (domAt t i).againCmds = (domAt s i).againCmds ++ [o] ∧
        (domAt t i).again = some ((domAt s i).again.getD 1) ∧ t.job = s.job) ∧
      (domState s i ≠ .inService → domState s i ≠ .rejoining →
        domAt t i = { domAt s i with cmds := (domAt s i).cmds ++ [o] } ∧ t.job = s.job) ∧
      (∀ j, j ≠ i → domAt t j = domAt s j) ∧ t.hostMem = s.hostMem ∧ t.sp = s.sp ∧ t.keyway = s.keyway ∧ t.links = s.links

/-- The phases of a domain reset (R414): Fencing, Draining, In reset, Rejoining, In service, each command of a phase acting in
that phase alone and on its own domain alone. What the drain of CTL leaves lowers kw_ctl_ready and takes the command slots;
what the drain of MEM leaves is quarantined, and its translation cache is cleared (R59, R342); what is left at the deadline
is counted in fault.drain_leftover (counter 20); a failed self-check begins again with trigger 3; after a rejoin the commands
that waited for MEM start (log 66). Says when these commands complete: domainFenceClosed, domainDrainComplete,
domainDrainDeadline, domainResetElapsed, domainSelfCheck. -/
def Obligations.DomainResetPhasesComplete : Prop :=
  ∀ (code n i : Nat) (ok : Bool) (s : State), Inv s → s.rst.rootLost = false → domOf code = some i →
    (domState s i = .fencing → Completes (.domainFenceClosed code) s fun t =>
      domState t i = .draining ∧ (domAt t i).cmds = (domAt s i).cmds ∧ (∀ j, j ≠ i → domAt t j = domAt s j) ∧
      (1 ≤ i → i ≤ 4 → ∀ k ∈ t.spout, k.spout = i - 1 → k.poison = true) ∧
      (5 ≤ i → i ≤ 12 → ∀ k, k / 4 = i - 5 → (linkAt t k).st = .off) ∧ t.hostMem = s.hostMem ∧ t.sp = s.sp) ∧
    (domState s i ≠ .fencing → exec (.domainFenceClosed code) s = .next s) ∧
    (domState s i = .draining → domDrained i s = true → Completes (.domainDrainComplete code) s fun t =>
      domState t i = .inReset ∧ (domAt t i).left = 0 ∧ (∀ j, j ≠ i → domAt t j = domAt s j) ∧ ctr t 20 = ctr s 20 ∧
      (i = 0 → t.rst.ctlReady = false ∧ t.latch.free = 0 ∧ (domAt t 0).cmds = []) ∧
      (i = 13 → t.keyway.tlb = [] ∧ t.keyway.upper = [] ∧ t.mport.wait = []) ∧ (i ≠ 13 → t.hostMem = s.hostMem)) ∧
    (domState s i ≠ .draining ∨ domDrained i s = false → exec (.domainDrainComplete code) s = .next s) ∧
    (domState s i = .draining → Completes (.domainDrainDeadline code n) s fun t =>
      domState t i = .inReset ∧ (domAt t i).left = domLeft i n s ∧
      ctr t 20 = (ctr s 20 + domLeft i n s) % 2 ^ 64 ∧ (∀ j, j ≠ i → domAt t j = domAt s j) ∧
      (i = 0 → ∀ h ∈ t.latch.held, h.why ≠ .after) ∧
      (i = 13 → t.mport.out = [] ∧ ∀ m ∈ s.mport.out, (m.write, m.channel, m.id) ∈ t.mport.quar) ∧
      (i ≠ 13 → t.hostMem = s.hostMem)) ∧
    (domState s i ≠ .draining → exec (.domainDrainDeadline code n) s = .next s) ∧
    (domState s i = .inReset →
      exec (.domainResetElapsed code) s = .next (setDom i { domAt s i with st := .rejoining } s)) ∧
    (domState s i ≠ .inReset → exec (.domainResetElapsed code) s = .next s) ∧
    (domState s i = .rejoining → ok = false → Completes (.domainSelfCheck code ok) s fun t =>
      (domAt t i).st = .fencing ∧ (domAt t i).trigger = 3 ∧ (domAt t i).cmds = (domAt s i).cmds ∧
      ∀ j, j ≠ i → domAt t j = domAt s j) ∧
    (domState s i = .rejoining → ok = true →
      let t := domRejoin i s
      exec (.domainSelfCheck code ok) s = .next (releaseAfter s.latch.held.length t) ∧
      ((∀ h ∈ s.latch.held, h.why ≠ .after) → releaseAfter s.latch.held.length t = t) ∧
      ((domAt s i).again = none → (domAt t i).st = .inService ∧ (domAt t i).cmds = []) ∧
      (∀ g, (domAt s i).again = some g →
        (domAt t i).st = .fencing ∧ (domAt t i).trigger = g ∧ (domAt t i).cmds = (domAt s i).againCmds) ∧
      (i = 0 → t.rst.ctlReady = true ∧ t.latch.free = 64) ∧ ∀ j, j ≠ i → domAt t j = domAt s j) ∧
    (domState s i ≠ .rejoining → exec (.domainSelfCheck code ok) s = .next s)

/-- The watchdogs and control errors (R404, R406, R408 to R410, R425): a unit hang faults an active job and resets the unit's
domain, if it has one, with trigger 2; back-pressure on a Spout or on the memory port faults the job and resets nothing; a
missed firmware heartbeat resets CTL with trigger 4 and the job goes on; an error in a domain's control state resets that
domain with trigger 3; the memory of one of the sixteen Ward cores faults the job, that of one of the four control cores
resets CTL with trigger 5; resets older than the window leave it. A fault of a job is jobFault (JobFaultsOnce). Says when
these commands complete: unitHang, portBackpressureExpiry, firmwareHeartbeatMiss, controlStateError, coreMemoryUncorrectable,
escalationWindowExpiry. -/
def Obligations.WatchdogsComplete : Prop :=
  ∀ (unit index cls core code : Nat) (s : State), Inv s → s.rst.rootLost = false →
    Completes (.unitHang unit index cls) s (fun t =>
      (jobActive s = true → t.job.st = .faulted) ∧
      (∀ i, unitDom unit = some i → domState s i = .inService → domState t i = .fencing ∧ (domAt t i).trigger = 2) ∧
      (∀ j, unitDom unit ≠ some j → domAt t j = domAt s j) ∧ t.hostMem = s.hostMem ∧ t.links = s.links) ∧
    ((0x1C ≤ unit ∧ unit ≤ 0x1F) ∨ unit = 0x30 →
      exec (.portBackpressureExpiry unit index cls) s =
        .next (jobFault unit 0x0405 (watchDetail 3 cls index) Where.none s)) ∧
    (¬ ((0x1C ≤ unit ∧ unit ≤ 0x1F) ∨ unit = 0x30) → exec (.portBackpressureExpiry unit index cls) s = .next s) ∧
    (core < 4 → Completes (.firmwareHeartbeatMiss core) s fun t =>
      (domState s 0 = .inService → domState t 0 = .fencing ∧ (domAt t 0).trigger = 4) ∧ t = { s with doms := t.doms } ∧
      ∀ j, j ≠ 0 → domAt t j = domAt s j) ∧
    (4 ≤ core → exec (.firmwareHeartbeatMiss core) s = .next s) ∧
    (∀ i, domOf code = some i → i ≠ 0 → Completes (.controlStateError code) s fun t =>
      (domState s i = .inService → domState t i = .fencing ∧ (domAt t i).trigger = 3 ∧
        (jobActive s = true → t.job.st = .faulted)) ∧
      (domState s i ≠ .inService → t = { s with doms := t.doms }) ∧ ∀ j, j ≠ i → domAt t j = domAt s j) ∧
    (core < 16 → exec (.coreMemoryUncorrectable true core) s = .next (jobFault (0x50 + core) 0x0406 0 Where.none s)) ∧
    (16 ≤ core → exec (.coreMemoryUncorrectable true core) s = .next s) ∧
    (core < 4 → Completes (.coreMemoryUncorrectable false core) s fun t =>
      (domState s 0 = .inService → domState t 0 = .fencing ∧ (domAt t 0).trigger = 5) ∧ t = { s with doms := t.doms }) ∧
    (4 ≤ core → exec (.coreMemoryUncorrectable false core) s = .next s) ∧
    Completes .escalationWindowExpiry s (fun t =>
      (∀ r, r ∈ t.esc.resets ↔ r ∈ s.esc.resets ∧ s.kt < r + ticksOf (getP s 0x0605)) ∧ t = { s with esc := t.esc })

/-- A job faults once (R90, R407, R420, R454): the first fault of an open job moves it to Faulted, emits one fatal EV_FAULT
naming the unit, the status and the detail, writes a log entry of kind 1, ends every open job-scope command and every held one
that is not held by after, settles all unsettled counts, drops the commit, the tensor commands, the pre-emptions and Carafe's
waits but Pour's, and wants the crash dump. A later fault emits no event: it is counted in fault.secondary (counter 19) and leaves
the job Faulted; one of the same tick and of a lower unit takes the fatal event's place. With no job nothing happens. -/
def Obligations.JobFaultsOnce : Prop :=
  ∀ (unit st d : Nat) (w : Where) (s : State),
    let t := jobFault unit st d w s
    let e := faultEvent s 1 unit (st + d * 2 ^ 16) w
    (s.job.st = .closed → t = s) ∧
    (s.job.st = .faulted → t.job = s.job ∧ ctr t 19 = (ctr s 19 + 1) % 2 ^ 64 ∧ t.ev.seq = s.ev.seq ∧
      t.ev.fatal.length = s.ev.fatal.length ∧ t.ev.other = s.ev.other ∧ t.latch = s.latch ∧ t.slots = s.slots ∧
      (renames e s = true → t.dump.fault = { e with seq := s.dump.fault.seq }) ∧ (renames e s = false → t.dump = s.dump)) ∧
    (s.job.st ≠ .closed → s.job.st ≠ .faulted →
      t.job = { s.job with st := .faulted, startCmd := none, closeCmd := none, faultKt := s.kt } ∧
      (t.ev.fatal = s.ev.fatal ++ [e] ∨ t.ev.waitFatal = s.ev.waitFatal ++ [e]) ∧ e.fatal = true ∧ e.code = 1 ∧ e.unit = unit ∧
      (s.rst.aoStopped = false → ∃ l, t.rlog.getLast? = some l ∧ l.kind = 1 ∧ l.body = e.word) ∧
      (∀ c ∈ t.latch.opened, c.jobScope = false) ∧
      (∀ h ∈ t.latch.held, h.why = .after ∨ jobScope h.cmd.opcode.toNat = false) ∧
      (∀ x, x ∈ t.carafe.waits ↔ x ∈ s.carafe.waits ∧ x.ofJob = false) ∧ t.ep.commit = none ∧ t.tensors = [] ∧
      (∀ x ∈ t.slots, ∀ c, x.ctx = some c → c.preemptCmds = []) ∧
      t.dump.wanted = true ∧ t.dump.fault = e ∧ t.hostMem = s.hostMem ∧ t.sp = s.sp ∧ t.doms = s.doms ∧ t.links = s.links)

/-- The power-on resets and the root clock (R21, R24, R25, R315, R417, R428, R460, R471). kw_por_n closes the job, empties the
slots, the reply stream and every queue, takes the links Off, and keeps KT, fuses, host memory and the AO logs; its release
clears the scratchpad, counts the boot, and readies the firmware exactly where the bundle was read and verifies with both
images. kw_ao_por_n resets KT, the ledger and the escalation; its release restores the best copy of Vault's period and closes
it, or starts afresh. What memory and reset values the manual leaves open is the model's (log 2, log 3). Says when these
commands complete: aoPorAssert, aoPorRelease, porAssert, porReleaseBoot, bootRetry, rootLockLoss. -/
def Obligations.ResetRowsComplete : Prop :=
  ∀ (io : Io) (v : Verdict) (ok : Bool) (crc : Nat) (s : State),
    let boots := (∀ e, io ≠ .bad e) ∧ ∃ l a b, verifyBundle s v (bootBundle s) = .ok l ∧ imgOfKind 0x4601 l = some a ∧
      imgOfKind 0x4602 l = some b
    Completes .porAssert s (fun t =>
      t.rst.porHeld = true ∧ t.rst.ctlReady = false ∧ t.job.st = .closed ∧ (∀ i < 64, (slotAt t i).st = .idle) ∧
      (∀ k < 32, (linkAt t k).st = .off) ∧ t.latch = Latch.reset ∧ t.kft = Kft.reset ∧ t.coll = Coll.reset ∧
      t.kt = s.kt ∧ t.fuses = s.fuses ∧ t.hostMem = s.hostMem ∧ t.rlog = s.rlog ∧ t.esc = s.esc ∧
      t.plan.s = s.plan.s ∧ t.plan.vddReq = 50 ∧ t.plan.skipPlan = 0 ∧ t.pwr.brace = .normal ∧ t.pending = s.pending ∧
      t.rst.rootLost = (s.rst.rootLost && !s.rst.aoHeld)) ∧
    Completes .aoPorAssert s (fun t =>
      t.rst.aoHeld = true ∧ t.kt = 0 ∧ t.plan = Plan.reset ∧ t.esc.resets = [] ∧ t.esc.steps = [] ∧
      t.pwr.brace = .normal ∧ t.vault.copies = s.vault.copies ∧ t.rst.rootLost = (s.rst.rootLost && !s.rst.porHeld) ∧
      t = { s with rst := t.rst, kt := t.kt, plan := t.plan, esc := t.esc, counters := t.counters, rlogWait := t.rlogWait,
                   aoWait := t.aoWait, pwr := t.pwr, vault := t.vault }) ∧
    (s.rst.rootLost = false →
      (s.rst.porHeld = true → s.rst.aoHeld = false → Completes (.porReleaseBoot io v) s fun t =>
        t.rst.porHeld = false ∧ t.rst.bootCount = (s.rst.bootCount + 1) % 65536 ∧ t.sp = [] ∧ t.spPoison = [] ∧
        (boots → t.rst.ctlReady = true ∧ t.rst.bootFail = false ∧ t.latch.free = 64) ∧
        (¬ boots → t.rst.ctlReady = false ∧ t.rst.bootFail = true) ∧ t.hostMem = s.hostMem ∧ t.job = s.job) ∧
      (s.rst.porHeld = false ∨ s.rst.aoHeld = true → exec (.porReleaseBoot io v) s = .next s) ∧
      (s.rst.bootFail = true → s.rst.porHeld = false → s.rst.aoHeld = false → Completes (.bootRetry io v) s fun t =>
        (boots → t.rst.ctlReady = true ∧ t.rst.bootFail = false ∧ t.latch.free = 64) ∧
        (¬ boots → t.rst.ctlReady = false ∧ t.rst.bootFail = true) ∧
        t = { s with rst := t.rst, latch := t.latch, fw := t.fw, rlog := t.rlog, rlogSeq := t.rlogSeq, rlogWait := t.rlogWait,
                     mport := t.mport, counters := t.counters }) ∧
      (s.rst.bootFail = false ∨ s.rst.porHeld = true ∨ s.rst.aoHeld = true → exec (.bootRetry io v) s = .next s) ∧
      (s.rst.aoHeld = true → s.vault.waiting = [] → (∀ h ∈ s.latch.held, h.why ≠ .brace) →
        Completes (.aoPorRelease ok crc) s fun t =>
          t.rst.aoHeld = false ∧ t.kt = 0 ∧ t.vault.nonces = 4 ∧ t.vault.checksum = crc % 2 ^ 32 ∧
          (vaultBest s.vault = [] → t.vault.cur.num = 1 ∧ t.vault.cur.fresh = true ∧ t.mgmt.assocs = []) ∧
          (∀ c r, vaultBest s.vault = c :: r → t.vault.cur.num = (c.period.num + 1) % 2 ^ 32 ∧
            t.vault.cur.recovered = true ∧ t.vault.readingSeq = c.readingSeq)) ∧
      (s.rst.aoHeld = false → exec (.aoPorRelease ok crc) s = .next s) ∧
      (s.rst.aoHeld = false →
        exec .rootLockLoss s = .next { s with rst := { s.rst with rootLost := true, aoStopped := true } }) ∧
      (s.rst.aoHeld = true → exec .rootLockLoss s = .next s))

/-- Brace (R54, R55, R434 to R437, R466): the warning takes Normal to Bracing and cancels a hold-off; the end of the work in
flight takes Bracing to Sealing with one signed reading; the reading's response takes Sealing to Braced with EV_BRACE; the
clear warning starts the hold-off, and a completed hold-off leaves Braced. The supply reset stops AO writes, takes brace to
Reset-warned and faults an active job; its fall without kw_por_n resumes AO writes and goes on from Bracing. The voltage
sampled is an input the manual leaves to the supply: a free value (log 7). Says when these commands complete: pwrWarnActed,
braceInflightDone, braceSealed, pwrWarnClear, braceHoldoffExpiry, pwrResetRise, pwrResetFall. -/
def Obligations.BraceRowsComplete : Prop :=
  ∀ (e : Nat) (warn : Bool) (s : State), s.rst.rootLost = false →
    (powered s = true → Completes .pwrWarnActed s fun t =>
      t.pwr.warn = true ∧ t.pwr.holdoff = false ∧ t.pwr.cleared = false ∧
      (s.pwr.brace = .normal → t.pwr.brace = .bracing ∧ t.pwr.entryKt = s.kt) ∧
      (s.pwr.brace ≠ .normal → t.pwr.brace = s.pwr.brace ∧ t.pwr.entryKt = s.pwr.entryKt) ∧
      t = { s with pwr := t.pwr, drip := t.drip, freeCtr := t.freeCtr }) ∧
    (powered s = false → exec .pwrWarnActed s = .next s) ∧
    (s.pwr.brace = .bracing → Completes .braceInflightDone s fun t =>
      t.pwr.brace = .sealing ∧ t.vault.readingSeq = (s.vault.readingSeq + 1) % 2 ^ 64 ∧ t.vault.nonces = s.vault.nonces - 1 ∧
      (getP s 0x0023 = 0 → t.hostMem = s.hostMem) ∧ t.job = s.job ∧ t.slots = s.slots ∧ t.sp = s.sp) ∧
    (s.pwr.brace ≠ .bracing → exec .braceInflightDone s = .next s) ∧
    (s.pwr.brace = .sealing → ¬ (s.pwr.cleared = true ∧ s.pwr.warn = false) → Completes (.braceSealed e) s fun t =>
      t.pwr.brace = .braced ∧ (e ≠ 0 → getP s 0x0023 ≠ 0 → bit t.vault.status 4 = true) ∧
      (e = 0 ∨ getP s 0x0023 = 0 → t.vault = s.vault ∧ t.hostMem = s.hostMem ∧ t.ev.seq = (s.ev.seq + 1) % 65536) ∧
      t.job = s.job ∧ t.sp = s.sp) ∧
    (s.pwr.brace = .sealing → s.pwr.cleared = true → s.pwr.warn = false → (∀ h ∈ s.latch.held, h.why ≠ .brace) →
      Completes (.braceSealed e) s fun t => t.pwr.brace = .normal ∧ t.pwr.cleared = false) ∧
    (s.pwr.brace ≠ .sealing → exec (.braceSealed e) s = .next s) ∧
    (s.pwr.warn = true →
      (s.pwr.brace = .resetWarned ∨ s.pwr.brace = .normal →
        exec .pwrWarnClear s = .next { s with pwr := { s.pwr with warn := false } }) ∧
      (s.pwr.brace ≠ .resetWarned → s.pwr.brace ≠ .normal → getP s 0x0102 ≠ 0 →
        exec .pwrWarnClear s = .next { s with pwr := { s.pwr with warn := false, holdoff := true, cleared := false } })) ∧
    (s.pwr.warn = false → exec .pwrWarnClear s = .next s) ∧
    (s.pwr.holdoff = true → s.pwr.brace ≠ .braced ∨ s.pwr.warn = true →
      exec .braceHoldoffExpiry s = .next { s with pwr := { s.pwr with holdoff := false, cleared := true } }) ∧
    (s.pwr.holdoff = true → s.pwr.brace = .braced → s.pwr.warn = false →
      exec .braceHoldoffExpiry s = .next (braceLeave { s with pwr := { s.pwr with holdoff := false, cleared := true } }) ∧
      ((∀ h ∈ s.latch.held, h.why ≠ .brace) → (braceLeave s).pwr.brace = .normal ∧ (braceLeave s).pwr.warn = false)) ∧
    (s.pwr.holdoff = false → exec .braceHoldoffExpiry s = .next s) ∧
    (s.pwr.resetPin = false → s.rst.aoHeld = false → s.rst.porHeld = false → Completes .pwrResetRise s fun t =>
      t.pwr.brace = .resetWarned ∧ t.pwr.resetPin = true ∧ t.pwr.holdoff = false ∧ t.rst.aoStopped = true ∧
      t.rlog = s.rlog ∧ t.vault.copies = s.vault.copies ∧ (∃ l, t.rlogWait.getLast? = some l ∧ l.kind = 6) ∧
      (s.job.st ≠ .closed → t.job.st = .faulted) ∧ (s.job.st = .closed → t.job = s.job) ∧
      (∀ h ∈ t.latch.held, h.why = .after) ∧ t.hostMem = s.hostMem ∧ t.sp = s.sp) ∧
    (s.pwr.resetPin = false → s.rst.aoHeld = false → s.rst.porHeld = true → exec .pwrResetRise s =
      .next { s with rst := { s.rst with aoStopped := true }, pwr := { s.pwr with resetPin := true } }) ∧
    (s.pwr.resetPin = true ∨ s.rst.aoHeld = true → exec .pwrResetRise s = .next s) ∧
    (s.pwr.resetPin = true → s.pwr.brace = .resetWarned → Completes (.pwrResetFall warn) s fun t =>
      t.pwr.brace = .bracing ∧ t.pwr.resetPin = false ∧ t.pwr.warn = warn ∧ t.rst.aoStopped = false ∧ t.rlogWait = [] ∧
      t.vault.owed = false ∧ t.job = s.job ∧ t.hostMem = s.hostMem) ∧
    (s.pwr.resetPin = true → s.pwr.brace ≠ .resetWarned →
      exec (.pwrResetFall warn) s = .next { s with pwr := { s.pwr with resetPin := false } }) ∧
    (s.pwr.resetPin = false → exec (.pwrResetFall warn) s = .next s)

/-- The planner's rows (R20, R56, R426, R439 to R444): the regulator's acknowledgement stands until the next request; its timeout
takes the request back to the code before and keeps that code as the ceiling; a trigger starts a plan, or waits for the plan
in progress, for the acknowledgement or for the end of brace; the code requested stays between 30 and 70; the skip count in
force is the larger of the host's and the planner's. What the ledger owes while AO writes are stopped waits for them (R55).
Says when these commands complete: throttleChange, vddAckRise, vddAckTimeout, marginPlanPeriodic, canaryAlarm, ceLimitReplan,
relaxPeriodExpiry, measurementIntervalEnd, marginExhaustedAdvisoryEnd. -/
def Obligations.PlannerRowsComplete : Prop :=
  ∀ (m : Monitors) (slice slack code n : Nat) (s : State), s.rst.rootLost = false →
    let inRange := fun (u : State) => 30 ≤ u.plan.vddReq ∧ u.plan.vddReq ≤ 70 ∧ 30 ≤ u.plan.vddPrev ∧ u.plan.vddPrev ≤ 70
    let stays := fun (t : State) => (inRange s → inRange t) ∧
      (s.pwr.throttle ≤ s.pwr.skipInForce → t.pwr.throttle ≤ t.pwr.skipInForce) ∧ t.hostMem = s.hostMem ∧ t.sp = s.sp ∧
      t.job = s.job ∧ t.slots = s.slots ∧ t.latch = s.latch
    let waits := s.plan.phase ≠ .none ∨ inBrace s = true ∨ s.plan.vddAck = false
    let asked := fun (c : Nat) (u : State) => { u with plan := { u.plan with pending := u.plan.pending ++ [c] } }
    (exec .vddAckRise s = .next { s with plan := { s.plan with vddAck := true, vddPrev := s.plan.vddReq } }) ∧
    (s.plan.vddAck = false → s.plan.vddPrev ≠ s.plan.vddReq → Completes .vddAckTimeout s fun t =>
      t.plan.vddReq = s.plan.vddPrev ∧ t.plan.ceiling = s.plan.vddPrev ∧ t = { s with plan := t.plan, drip := t.drip, aoWait := t.aoWait }) ∧
    (s.plan.vddAck = true ∨ s.plan.vddPrev = s.plan.vddReq → exec .vddAckTimeout s = .next s) ∧
    (s.rst.ctlReady = true →
      (waits → exec .marginPlanPeriodic s = .next (asked 3 s)) ∧ (¬ waits → Completes .marginPlanPeriodic s stays)) ∧
    (s.rst.ctlReady = false → exec .marginPlanPeriodic s = .next s) ∧
    (slice < 4 → slack < getP s 0x0118 →
      let u := { s with plan := { s.plan with slack := s.plan.slack.set slice slack } }
      (inBrace s = true → exec (.canaryAlarm slice slack) s = .next u) ∧
      (inBrace s = false → waits → exec (.canaryAlarm slice slack) s = .next (asked 5 u)) ∧
      (¬ waits → Completes (.canaryAlarm slice slack) s stays)) ∧
    (4 ≤ slice ∨ getP s 0x0118 ≤ slack → exec (.canaryAlarm slice slack) s = .next s) ∧
    ((domOf code).isSome = true →
      (waits → exec (.ceLimitReplan code) s = .next (asked 2 s)) ∧ (¬ waits → Completes (.ceLimitReplan code) s stays)) ∧
    ((domOf code).isSome = false → exec (.ceLimitReplan code) s = .next s) ∧
    (0 < s.plan.s → s.plan.exhausted = false → Completes .relaxPeriodExpiry s fun t =>
      (s.rst.aoStopped = false → t.plan.s + 1 = s.plan.s) ∧
      (s.rst.aoStopped = true → t.plan.s = s.plan.s ∧ AoWrite.step (s.plan.s - 1) ∈ t.aoWait) ∧ stays t ∧ (waits → t.plan.pending = s.plan.pending ++ [4] ∧ t.plan.vddReq = s.plan.vddReq)) ∧
    (s.plan.s = 0 ∨ s.plan.exhausted = true → exec .relaxPeriodExpiry s = .next s) ∧
    Completes (.measurementIntervalEnd m) s stays ∧
    (s.plan.exhausted = true → (recentSteps s).length < 3 → s.rst.aoStopped = true →
      exec .marginExhaustedAdvisoryEnd s = .next { s with aoWait := s.aoWait ++ [.advisory] }) ∧
    (s.plan.exhausted = true → (recentSteps s).length < 3 → s.rst.aoStopped = false → exec .marginExhaustedAdvisoryEnd s =
      .next { s with plan := { s.plan with exhausted := false }, esc := { s.esc with steps := recentSteps s } }) ∧
    (s.plan.exhausted = false ∨ 3 ≤ (recentSteps s).length → exec .marginExhaustedAdvisoryEnd s = .next s) ∧
    (exec (.throttleChange n) s = .next { s with pwr := { s.pwr with throttle := n % 64,
                                                                     skipInForce := max (n % 64) s.plan.skipPlan } })

/-- Pour's commands (R94, R365, R367, R370). POUR_START of an Idle channel arms it with its priority and descriptor, or is held
in brace; POUR_ABORT ends at once on an Idle or Stopped channel, waits on one that is Done or Cancelling, and cancels any
other; POUR_RESTART_ALL takes every Stopped channel to Idle and no other; POUR_RESUME answers the channel's state and arms a
Parked one. No other channel changes. Says when these commands complete: pourStart, pourAbort, pourRestartAll, pourResume. -/
def Obligations.PourCommandsComplete : Prop :=
  ∀ (p : Packet) (s : State), Inv s →
    let n := s.latch.order
    let o := openOf p n
    let c := p.p0.toNat % 32
    let t0 := takePacket p s
    let a := accept p n 0 t0
    let others := fun (t : State) => ∀ d, d ≠ c → chAt t d = chAt s d
    (Runs 0x38 p s → p.payloadLen.toNat = 0 → pVa p % 64 = 0 → anyStopped s = false → (chAt s c).st = .idle → entryFree s →
      (inBrace s = false → Completes (.pourStart p) s fun t =>
        (chAt t c).st = .armed ∧ (chAt t c).prio = bits p.p0.toNat 7 5 ∧ (chAt t c).cmd = some o ∧
        (chAt t c).descVa = pVa p ∧ (chAt t c).read = false ∧ others t ∧ t.hostMem = s.hostMem ∧ t.sp = s.sp ∧ t.job = s.job) ∧
      (inBrace s = true → exec (.pourStart p) s = .next (holdCmd .brace p Ext.none n a))) ∧
    (Runs 0x39 p s → p.payloadLen.toNat = 0 → entryFree s →
      ((chAt s c).st = .idle → exec (.pourAbort p) s = .next (finish o 0 0 0 0 0 a)) ∧
      ((chAt s c).st = .stopped → exec (.pourAbort p) s = .next (finish o 0x0403 0 0 0 0 a)) ∧
      ((chAt s c).st = .done ∨ (chAt s c).st = .cancelling →
        exec (.pourAbort p) s = .next (setCh c { chAt s c with abortCmds := (chAt s c).abortCmds ++ [o] } a)) ∧
      ((chAt s c).st ∈ [.armed, .running, .suspended, .parked] → Completes (.pourAbort p) s fun t =>
        (chAt t c).st = .cancelling ∧ (chAt t c).status = 0x0404 ∧ (chAt t c).hold = false ∧ (chAt t c).wb = false ∧
        (chAt t c).abortCmds = (chAt s c).abortCmds ++ [o] ∧ (chAt t c).cmd = (chAt s c).cmd ∧ others t ∧
        t.hostMem = s.hostMem ∧ t.sp = s.sp)) ∧
    (Runs 0x3A p s → p.payloadLen.toNat = 0 →
      (s.pour.drain = true → exec (.pourRestartAll p) s = .next (replyOne p n 0x0304 0 0 0 0 t0)) ∧
      (s.pour.drain = false → Completes (.pourRestartAll p) s fun t =>
        (∀ d < 32, (chAt s d).st = .stopped → (chAt t d).st = .idle) ∧
        (∀ d, (chAt s d).st ≠ .stopped → chAt t d = chAt s d) ∧ t.hostMem = s.hostMem)) ∧
    (Runs 0x3B p s → p.payloadLen.toNat = 0 → Completes (.pourResume p) s fun t =>
      ((chAt s c).st = .parked → (chAt t c).st = .armed ∧ (chAt t c).pc = (chAt s c).pc ∧ (chAt t c).pos = (chAt s c).pos) ∧
      ((chAt s c).st ≠ .parked → chAt t c = chAt s c) ∧ others t ∧
      (∃ r, t.latch.replies.getLast? = some r ∧ r.tag = p.tag.toNat ∧ r.status = 0 ∧ r.r0 = (chAt s c).st.code) ∧
      t.hostMem = s.hostMem ∧ t.sp = s.sp)

/-- POUR_START fails with ST_CHANNEL_BUSY unless the channel is Idle, and changes nothing but the Latch port; while some channel
is Stopped it fails with ST_BUS_STOPPED instead (R365, R371). Says when these commands complete: pourStart. -/
def Obligations.PourStartNeedsAnIdleChannel : Prop :=
  ∀ (p : Packet) (s : State), Runs 0x38 p s → p.payloadLen.toNat = 0 → pVa p % 64 = 0 →
    (anyStopped s = false → (chAt s (p.p0.toNat % 32)).st ≠ .idle →
      exec (.pourStart p) s = .next (replyOne p s.latch.order 0x0304 0 0 0 0 (takePacket p s))) ∧
    (anyStopped s = true → exec (.pourStart p) s = .next (replyOne p s.latch.order 0x0403 0 0 0 0 (takePacket p s)))

/-- The channel machine (R343, R344, R346, R361, R363, R364, R366, R368, R370): a descriptor read makes an Armed channel ready,
or ends it; a free pipe goes to its next ready channel; a channel yields to a higher priority; a completed instruction lets
the next begin; a pending fault parks the channel; a drained cancel and a Done channel are written back, answered and Idle; a
bus error drains Pour and stops every channel that is not Idle. MMU commands that waited for a channel may end with it
(R338). Says when these commands complete: pourDescriptorRead, pourPipeGrant, pourGranuleYield, pourInstructionComplete,
pourPark, pourWritebackComplete, pourCancelDrained, pourBusErrorStop, pourStopDrained. -/
def Obligations.PourChannelMachineCompletes : Prop :=
  ∀ (ch pipe : Nat) (s u : State) (b : List Byte), Inv s → s.rst.rootLost = false → ch < 32 →
    let x := chAt s ch
    (x.st = .armed → x.read = false → pourRuns s = true → hostRead s 0 x.descVa 64 = (u, .ok b) →
      (bit (leAt b 0 1) 0 = true → Completes (.pourDescriptorRead ch .ok) s fun t =>
        (chAt t ch).st = .armed ∧ (chAt t ch).read = true ∧ (chAt t ch).ctx = bits (leAt b 0 1) 1 1 ∧
        (chAt t ch).cls = bits (leAt b 0 1) 3 2 ∧ (chAt t ch).progVa = leAt b 8 6 / 32 * 32 ∧
        (∀ d, d ≠ ch → chAt t d = chAt s d) ∧ t = { s with keyway := t.keyway, pour := t.pour }) ∧
      (bit (leAt b 0 1) 0 = false → Completes (.pourDescriptorRead ch .ok) s fun t =>
        (chAt t ch).st = .idle ∧ (chAt t ch).cmd = none ∧
        ∀ o, x.cmd = some o → s.latch.opened.any (fun c => sameCmd c o) = true →
          ∃ r ∈ t.latch.replies, r.order = o.order ∧ r.final = true ∧ r.status = 0x0108)) ∧
    (pipe < 8 → pipeHolder s pipe = none → pourRuns s = true → ∀ c, pipeNext s pipe = some c →
      Completes (.pourPipeGrant pipe) s fun t =>
        (chAt t c).st = .running ∧ (chAt t c).hold = true ∧ (chAt t c).pending = none ∧ (chAt t c).pc = (chAt s c).pc ∧
        (∀ d, d ≠ c → chAt t d = chAt s d) ∧
        t = { s with pour := t.pour, drip := t.drip, keyway := t.keyway, latch := t.latch }) ∧
    (8 ≤ pipe ∨ pipeHolder s pipe ≠ none ∨ pipeNext s pipe = none → exec (.pourPipeGrant pipe) s = .next s) ∧
    (∀ c, pipeNext s (ch % 8) = some c → x.st = .running → x.hold = true → pourRuns s = true →
      (x.prio < (chAt s c).prio → Completes (.pourGranuleYield ch) s fun t =>
        (chAt t ch).st = .suspended ∧ (chAt t ch).hold = false ∧ (chAt t ch).pos = x.pos ∧
        (∀ d, d ≠ ch → chAt t d = chAt s d) ∧
        t = { s with pour := t.pour, drip := t.drip, keyway := t.keyway, latch := t.latch }) ∧
      ((chAt s c).prio ≤ x.prio → exec (.pourGranuleYield ch) s = .next s)) ∧
    ((x.st = .running ∨ x.st = .suspended) → x.busy = true → Completes (.pourInstructionComplete ch) s fun t =>
      (chAt t ch).busy = false ∧ (chAt t ch).pos = 0 ∧ (chAt t ch).st = x.st ∧
      (x.loops = [] → (chAt t ch).pc = x.pc + 1) ∧ (∀ d, d ≠ ch → chAt t d = chAt s d) ∧ t.hostMem = s.hostMem) ∧
    (∀ va, x.pending = some va → x.st = .running → pourRuns s = true → Completes (.pourPark ch) s fun t =>
      (chAt t ch).st = .parked ∧ (chAt t ch).hold = false ∧ (chAt t ch).faultVa = va % 2 ^ 48 ∧ (chAt t ch).pc = x.pc ∧
      (chAt t ch).pos = x.pos ∧ t.ev.seq = (s.ev.seq + 1) % 65536 ∧ (∀ d, d ≠ ch → chAt t d = chAt s d) ∧
      t = { s with pour := t.pour, drip := t.drip, ev := t.ev, counters := t.counters, keyway := t.keyway, latch := t.latch }) ∧
    (x.pending = none → exec (.pourPark ch) s = .next s) ∧
    (x.st = .cancelling → Completes (.pourCancelDrained ch) s fun t =>
      (chAt t ch).st = .cancelling ∧ (chAt t ch).wb = true ∧ (chAt t ch).busy = false ∧ t.hostMem = s.hostMem) ∧
    (x.st = .done ∨ x.st = .cancelling → x.wb = true → pourRuns s = true →
      Completes (.pourWritebackComplete ch .ok) s fun t =>
        (chAt t ch).st = .idle ∧ (chAt t ch).cmd = none ∧ (∀ d, d ≠ ch → chAt t d = chAt s d) ∧
        t.hostMem = (writeBack ch x.status s).hostMem ∧
        (∀ o, x.cmd = some o → s.latch.opened.any (fun c => sameCmd c o) = true → ∃ r ∈ t.latch.replies, r.order = o.order ∧ r.final = true ∧ r.status = x.status ∧
          r.r0 = x.pc % 2 ^ 32 ∧ r.r1 = x.mismatches ∧ r.r2 = x.bytes % 2 ^ 32)) ∧
    ((∃ d < 32, (chAt s d).st ≠ .idle ∧ (chAt s d).st ≠ .stopped) →
      exec .pourBusErrorStop s = .next { s with pour := { s.pour with drain := true } }) ∧
    ((∀ d < 32, (chAt s d).st = .idle ∨ (chAt s d).st = .stopped) → exec .pourBusErrorStop s = .next s) ∧
    (s.pour.drain = true → Completes .pourStopDrained s fun t =>
      t.pour.drain = false ∧ (∀ d < 32, (chAt s d).st ≠ .idle → (chAt t d).st = .stopped) ∧
      (∀ d < 32, (chAt s d).st = .idle → (chAt t d).st = .idle) ∧ t.hostMem = s.hostMem) ∧
    (s.pour.drain = false → exec .pourStopDrained s = .next s)

/-- The data instructions within the scratchpad, below the internal reserve, at every length, run to their end (R350 to R353,
R359, R361, R363, R375): FILL writes its 8-byte pattern at the destination's own alignment; MOVE between ranges that do not
overlap copies the source as it was; CMP finds nothing in equal ranges, and otherwise counts one mismatch and keeps the first
offset, ending the channel where it stops on a mismatch; SIGNAL stores its value. Every other byte reads as before. How many
granules a command runs is its operand (log 93): here, at least all of them. Says when these commands complete: move, fill,
cmp, signal. -/
def Obligations.PourDataInstructionsInScratchpad : Prop :=
  ∀ (ch g : Nat) (b : List Byte) (s u : State),
    let x := chAt s ch
    let m := mvOf .move ch b u
    let val := leAt b 16 8
    let at_ := leAt b 8 6 / 8 * 8
    let issued := fun (t : State) (n : Nat) => (chAt t ch).busy = true ∧ (chAt t ch).st = .running ∧ (chAt t ch).pc = x.pc ∧
      (chAt t ch).bytes = n ∧ t.hostMem = s.hostMem ∧ ∀ d, d ≠ ch → chAt t d = chAt s d
    x.pos = 0 → m.len / 4096 + 2 ≤ g →
    (PourAt ch 2 b u s → m.dstSp = true → m.dst + m.len ≤ spReserve → Completes (.fill ch .ok g) s fun t =>
      (m.len ≠ 0 → issued t ((x.bytes + m.len) % 2 ^ 64)) ∧
      (∀ i < m.len, memGet t.sp (m.dst + i) = BitVec.ofNat 8 (leAt b 24 8 >>> (8 * ((m.dst + i) % 8)))) ∧
      ∀ a, a < m.dst ∨ m.dst + m.len ≤ a → memGet t.sp a = memGet s.sp a) ∧
    (PourAt ch 1 b u s → m.srcSp = true → m.dstSp = true → m.src + m.len ≤ spReserve → m.dst + m.len ≤ spReserve →
      (m.src + m.len ≤ m.dst ∨ m.dst + m.len ≤ m.src) → spPoisoned s m.src m.len = false →
      (2 ≤ staged s ch → Completes (.move ch .ok g) s fun t =>
        (m.len ≠ 0 → issued t ((x.bytes + m.len) % 2 ^ 64)) ∧
        (∀ i < m.len, memGet t.sp (m.dst + i) = memGet s.sp (m.src + i)) ∧
        ∀ a, a < m.dst ∨ m.dst + m.len ≤ a → memGet t.sp a = memGet s.sp a) ∧
      (staged (stageAsk ch u) ch < 2 → exec (.move ch .ok g) s = .next (stageAsk ch u))) ∧
    (PourAt ch 3 b u s → m.srcSp = true → m.dstSp = true → m.src + m.len ≤ spReserve → m.dst + m.len ≤ spReserve →
      spPoisoned s m.src m.len = false → spPoisoned s m.dst m.len = false →
      ((∀ i < m.len, memGet s.sp (m.src + i) = memGet s.sp (m.dst + i)) → Completes (.cmp ch .ok g) s fun t =>
        issued t x.bytes ∧ (chAt t ch).mismatches = x.mismatches ∧ t.sp = s.sp) ∧
      (x.hit = false → ∀ k < m.len, memGet s.sp (m.src + k) ≠ memGet s.sp (m.dst + k) →
        (∀ i < k, memGet s.sp (m.src + i) = memGet s.sp (m.dst + i)) → Completes (.cmp ch .ok g) s fun t =>
          (chAt t ch).mismatches = (x.mismatches + 1) % 2 ^ 32 ∧ (x.mismatches = 0 → (chAt t ch).firstMismatch = k) ∧
          (x.mismatches ≠ 0 → (chAt t ch).firstMismatch = x.firstMismatch) ∧
          (bit (leAt b 0 1) 6 = true → (chAt t ch).st = .done ∧ (chAt t ch).status = 0 ∧ (chAt t ch).wb = true) ∧
          (bit (leAt b 0 1) 6 = false → (chAt t ch).busy = true ∧ (chAt t ch).st = .running ∧ t.sp = s.sp))) ∧
    (PourAt ch 6 b u s → bit (leAt b 0 1) 4 = true → at_ + 8 ≤ spReserve → Completes (.signal ch .ok) s fun t =>
      issued t ((x.bytes + 8) % 2 ^ 64) ∧ (∀ i < 8, memGet t.sp (at_ + i) = BitVec.ofNat 8 (val >>> (8 * i))) ∧
      ∀ a, a < at_ ∨ at_ + 8 ≤ a → memGet t.sp a = memGet s.sp a)

/-- The data instructions through host memory, within one granule (R351 to R353, R359, R363, R366, R372): MOVE writes at the
translated place the bytes it read; FILL writes its pattern and SIGNAL its value; an access whose translation fails leaves
the fault pending on the channel and stores nothing; a poisoned read of the scratchpad ends the channel with ST_POISONED; and
a walk that meets a bus error stops Pour (R364). Says when these commands complete: move, fill, signal. -/
def Obligations.PourDataInstructionsInHostMemory : Prop :=
  ∀ (ch g : Nat) (b : List Byte) (s u v w : State) (l k : List Piece) (f : XFault),
    let x := chAt s ch
    let m := mvOf .move ch b u
    let done := fun (t : State) (n : Nat) (mem : Mem) =>
      (chAt t ch).busy = true ∧ (chAt t ch).bytes = (x.bytes + n) % 2 ^ 64 ∧ t.hostMem = mem ∧ t.sp = s.sp ∧
      (∀ d, d ≠ ch → chAt t d = chAt s d) ∧
      t = { s with pour := t.pour, hostMem := t.hostMem, keyway := t.keyway, counters := t.counters }
    x.pos = 0 → 0 < m.len → 0 < g → m.len ≤ 4096 - m.dst % 4096 →
    (PourAt ch 1 b u s → m.srcSp = true → m.dstSp = false → m.src + m.len ≤ spReserve → spPoisoned s m.src m.len = false →
      (xlateRange u m.ctx m.dst m.len true = (v, .ok l) → Completes (.move ch .ok g) s fun t =>
        done t m.len (writePieces l (memRead s.sp m.src m.len) s.hostMem)) ∧
      (xlateRange u m.ctx m.dst m.len true = (v, .error f) → exec (.move ch .ok g) s = .next (pourFault ch f.va v))) ∧
    (PourAt ch 1 b u s → m.srcSp = false → m.dstSp = true → m.dst + m.len ≤ spReserve →
      (xlateRange u m.ctx m.src m.len false = (v, .ok l) → Completes (.move ch .ok g) s fun t =>
        (chAt t ch).busy = true ∧ t.hostMem = s.hostMem ∧
        (∀ i < m.len, memGet t.sp (m.dst + i) = (readPieces s.hostMem l).getD i 0) ∧
        ∀ a, a < m.dst ∨ m.dst + m.len ≤ a → memGet t.sp a = memGet s.sp a) ∧
      (xlateRange u m.ctx m.src m.len false = (v, .error f) → exec (.move ch .ok g) s = .next (pourFault ch f.va v))) ∧
    (PourAt ch 1 b u s → m.srcSp = false → m.dstSp = false → 2 ≤ staged s ch →
      (m.src + m.len ≤ m.dst ∨ m.dst + m.len ≤ m.src) →
      xlateRange u m.ctx m.src m.len false = (v, .ok l) → xlateRange v m.ctx m.dst m.len true = (w, .ok k) →
      Completes (.move ch .ok g) s fun t => done t m.len (writePieces k (readPieces s.hostMem l) s.hostMem)) ∧
    (PourAt ch 1 b u s → m.srcSp = true → m.dstSp = false → spBad u m.src m.len = true →
      exec (.move ch .ok g) s = .next (pourDone ch 0x0406 u)) ∧
    (PourAt ch 2 b u s → m.dstSp = false →
      (xlateRange u m.ctx m.dst m.len true = (v, .ok l) → Completes (.fill ch .ok g) s fun t =>
        done t m.len (writePieces l (patternBytes (leAt b 24 8) m.dst m.len) s.hostMem)) ∧
      (xlateRange u m.ctx m.dst m.len true = (v, .error f) → exec (.fill ch .ok g) s = .next (pourFault ch f.va v)) ∧
      (∀ e c lv va, Completes (.fill ch (.walk e c lv va) g) s fun t =>
        t.pour.drain = true ∧ t.hostMem = s.hostMem ∧ t.sp = s.sp)) ∧
    (PourAt ch 6 b u s → bit (leAt b 0 1) 4 = false →
      (xlateRange u x.ctx (leAt b 8 6 / 8 * 8) 8 true = (v, .ok l) → Completes (.signal ch .ok) s fun t =>
        done t 8 (writePieces l (leBytes 8 (leAt b 16 8)) s.hostMem)) ∧
      (xlateRange u x.ctx (leAt b 8 6 / 8 * 8) 8 true = (v, .error f) →
        exec (.signal ch .ok) s = .next (pourFault ch f.va v)))

/-- The control instructions (R354 to R359): LOOP opens a body that fits, skips it for a count of 0, and ends the channel with
ST_BAD_IMAGE where it has no body, one that leaves the open body, or a fifth level; WAIT on the scratchpad goes on where its
condition holds and otherwise releases the pipe; a poll reads the word again, of the instruction as it was fetched; the
timeout ends the channel with ST_TIMEOUT where one is set; END ends it with ST_OK. A poisoned fetch ends the channel with
ST_POISONED, and any other failed one stops Pour (R364, R372). Says when these commands complete: loop, wait, waitPoll,
waitTimeout, endProg. -/
def Obligations.PourControlInstructionsComplete : Prop :=
  ∀ (ch : Nat) (b : List Byte) (s u : State),
    let x := chAt s ch
    let body := leAt b 1 1
    let n := leAt b 4 4
    let a := leAt b 8 6 / 8 * 8
    let holds := waitHolds b (leNat (memRead s.sp a 8))
    (PourAt ch 4 b u s →
      (body = 0 ∨ bodyFits x body = false ∨ (n ≠ 0 ∧ 4 ≤ x.loops.length) →
        exec (.loop ch .ok) s = .next (pourDone ch 0x0108 u)) ∧
      (body ≠ 0 → bodyFits x body = true → n = 0 →
        exec (.loop ch .ok) s = .next (setCh ch (advance { x with pc := x.pc + body }) u)) ∧
      (body ≠ 0 → bodyFits x body = true → n ≠ 0 → x.loops.length < 4 →
        exec (.loop ch .ok) s = .next (setCh ch { x with
          pc := x.pc + 1,
          loops := { at_ := x.pc, body := body, count := n, iter := 0, srcStep := sext 32 (leAt b 8 4),
                     dstStep := sext 32 (leAt b 12 4) } :: x.loops } u))) ∧
    (PourAt ch 5 b u s → bit (leAt b 0 1) 4 = true → a + 8 ≤ spReserve → spPoisoned s a 8 = false →
      (holds = true → exec (.wait ch .ok) s = .next (setCh ch (advance x) u)) ∧
      (holds = false → exec (.wait ch .ok) s =
        .next (setCh ch { x with hold := false, waiting := true, insn := b, waitFrom := some (x.waitFrom.getD s.kt) } u))) ∧
    (s.rst.rootLost = false → ch < 32 → s.pour.ch.length = 32 → x.st = .running → x.waiting = true → pourRuns s = true →
      x.insn = b →
      (x.pending = none → bit (leAt b 0 1) 4 = true → a + 8 ≤ spReserve → spPoisoned s a 8 = false →
        (holds = true → exec (.waitPoll ch .ok) s = .next (chReady ch (setCh ch (advance x) s))) ∧
        (holds = false → exec (.waitPoll ch .ok) s =
          .next (setCh ch { x with hold := false, waiting := true, waitFrom := some (x.waitFrom.getD s.kt) } s))) ∧
      (leAt b 4 4 ≠ 0 → Completes (.waitTimeout ch) s fun t => (chAt t ch).st = .done ∧ (chAt t ch).status = 0x0405) ∧
      (leAt b 4 4 = 0 → exec (.waitTimeout ch) s = .next s)) ∧
    (PourAt ch 7 b u s → Completes (.endProg ch .ok) s fun t =>
      (chAt t ch).st = .done ∧ (chAt t ch).status = 0 ∧ (chAt t ch).wb = true ∧ (chAt t ch).hold = false ∧
      (chAt t ch).pc = x.pc ∧ t.hostMem = s.hostMem ∧ ∀ d, d ≠ ch → chAt t d = chAt s d) ∧
    ∀ e, (PourAt ch 4 b u s ∨ PourAt ch 7 b u s) →
      ∀ c, c = (if leAt b 0 1 % 16 = 4 then Instr.loop ch (.bad e) else Instr.endProg ch (.bad e)) →
        (e.err = 3 → e.timeout = false → Completes c s fun t => (chAt t ch).st = .done ∧ (chAt t ch).status = 0x0406) ∧
        (e.err ≠ 3 ∨ e.timeout = true → Completes c s fun t => t.pour.drain = true ∧ chAt t ch = x)

/-- An instruction whose opcode is 0 or 8 to 15 ends the channel in Done with ST_BAD_IMAGE, and pc names that instruction (R349).
Says when these commands complete: pourIllegalOpcode. -/
def Obligations.IllegalPourOpcodeEndsTheChannel : Prop :=
  ∀ (ch op : Nat) (b : List Byte) (s u : State), op = 0 ∨ (8 ≤ op ∧ op ≤ 15) → PourAt ch op b u s →
    Completes (.pourIllegalOpcode ch .ok) s fun t =>
      (chAt t ch).st = .done ∧ (chAt t ch).status = 0x0108 ∧ (chAt t ch).pc = (chAt s ch).pc ∧ t.hostMem = s.hostMem ∧
      ∀ d, d ≠ ch → chAt t d = chAt s d

/-- JOB_OPEN while a job exists (R3): refused with a status of the 0x02 group, and the job, its slots, epochs and transport
state stand as they were. -/
def Obligations.JobOpenRefusedWhileAJobExists : Prop :=
  ∀ (p : Packet) (io : Io) (s : State), Runs 0x10 p s → jobExists s = true →
    Completes (.jobOpen p io) s (fun t =>
      t.job = s.job ∧ t.slots = s.slots ∧ t.duties = s.duties ∧ t.ep = s.ep ∧ t.keyring = s.keyring ∧ t.kft = s.kft ∧
      t.coll = s.coll ∧ t.carafe = s.carafe ∧ t.params = s.params ∧ t.hostMem = s.hostMem ∧ t.sp = s.sp) ∧
    (p.payloadLen.toNat = 128 → jobRange (jobDescOf (pBody p)) p.jobTag.toNat = true →
      ∃ st, st / 256 = 2 ∧ exec (.jobOpen p io) s = .next (replyOne p s.latch.order st 0 0 0 0 (takePacket p s)))

/-- JOB_OPEN with no job (R90, R98 to R100, R317, R456): it is accepted, reads the member list, and either ends with the status
of the first check that fails and opens nothing, or opens the job: every slot Idle at generation 0, no epoch, the transport's
spaces empty, the carve and the slot regions taken, a new Vault period under the job's tag; its reply carries the receive
slots and the KiB of the regions. Says when these commands complete: jobOpen. -/
def Obligations.JobOpenCompletes : Prop :=
  ∀ (p : Packet) (io : Io) (s u w v : State) (list : List Byte),
    let n := s.latch.order
    let o := openOf p n
    let j := jobDescOf (pBody p)
    let ranges := (1, j.memberVa, 2 * j.nMembers, false) :: if j.dumpVa = 0 then [] else [(1, j.dumpVa, j.dumpBytes, true)]
    Runs 0x10 p s → p.payloadLen.toNat = 128 → jobRange j p.jobTag.toNat = true → jobExists s = false → entryFree s →
    checkRanges ranges io (takePacket p s) = (u, none) → ownRead 1 j.memberVa (2 * j.nMembers) io (accept p n 0 u) = (w, .ok list) →
    (∀ st, openTry p.jobTag.toNat j list w = .error st → exec (.jobOpen p io) s = .next (finish o st 0 0 0 0 w) ∧
      (finish o st 0 0 0 0 w).job = s.job ∧ (finish o st 0 0 0 0 w).carafe = s.carafe) ∧
    (openTry p.jobTag.toNat j list w = .ok v →
      exec (.jobOpen p io) s = .next (finish o 0 (rxSlots j) (ceilDiv (slotBytes j) 1024) 0 0 v) ∧
      v.job = { Job.zero with st := .opened, tag := p.jobTag.toNat, desc := j, members := membersOf list, listCrc := crc32c list } ∧
      distinct (membersOf list) = true ∧ (membersOf list).contains (ownSeat s) = true ∧
      v.slots = List.replicate 64 Slot.idle ∧ v.keyring = [[], [], [], []] ∧ v.ep.num = 0 ∧ v.ep.epochs = [] ∧
      v.kft.tx = [] ∧ v.kft.rx = [] ∧ v.kft.unacked = [] ∧ v.duties = [] ∧ carveOf j = some (getP v 0x0404) ∧
      getP v 0x0509 = getP v 0x0508 + (j.nMembers - 1) * rxSlots j * pitchOf j ∧ getP v 0x050A = pitchOf j ∧
      v.vault.cur.jobTag = p.jobTag.toNat ∧ v.vault.cur.num = (s.vault.cur.num + 1) % 2 ^ 32 ∧ v.kt = s.kt)

/-- JOB_START, JOB_CLOSE and the end of a job (R90, R277, R384, R396, R424). JOB_START takes Open to Starting; in replay, and for
a member that is the whole tree, the barrier's go is held at once. JOB_CLOSE takes every other state to Draining, ends an
outstanding JOB_START and what the release instant held with ST_CANCELLED, and with nothing left to wait for begins the close
fence; a Faulted job's slots are discarded and its fence awaits nothing, while its packets stay until Closed (R342). The end
of the drain closes the job and answers JOB_CLOSE with the frames dropped. Says when these commands complete: jobClose,
jobStart, jobDrainComplete. -/
def Obligations.JobStartCloseAndDrainComplete : Prop :=
  ∀ (p : Packet) (s : State), Inv s →
    let o := openOf p s.latch.order
    (RunsJob 0x12 p s → p.payloadLen.toNat = 0 → s.kt < pVal64 p → entryFree s → Completes (.jobStart p) s fun t =>
      t.job = { s.job with st := .starting, startCmd := some o, release := pVal64 p } ∧ s.job.st = .opened ∧
      (getP s 0x0520 = 1 → t.barrier = { Barrier.reset with cls := p.cls.toNat, go := true, reported := true } ∧ t.kft = s.kft) ∧
      (getP s 0x0520 ≠ 1 → s.barrier.early = [] → ownIndex s = 0 → childSeats s 0 = [] → t.barrier.go = true) ∧
      t.slots = s.slots ∧ t.ep = s.ep ∧ t.hostMem = s.hostMem ∧ t.sp = s.sp) ∧
    (RunsJob 0x11 p s → p.payloadLen.toNat = 0 → entryFree s →
      exec (.jobClose p) s = .next (jobClose (bit p.p0.toNat 0) o (accept p s.latch.order 0 (takePacket p s))) ∧
      (s.job.st ≠ .faulted → (bit p.p0.toNat 0 = true → s.coll.ops = [] ∧ ∀ x ∈ s.slots, x.st = .idle ∨ x.st = .done) →
        Completes (.jobClose p) s fun t =>
          t.job = { s.job with st := .draining, startCmd := none, closeCmd := some o, closeAbort := bit p.p0.toNat 0,
                               closeFence := t.job.closeFence, closeDrops := 0 } ∧
          (∀ c, s.job.startCmd = some c → s.latch.opened.any (fun x => sameCmd x c) = true →
            ∃ r ∈ t.latch.replies, r.tag = c.tag ∧ r.order = c.order ∧ r.status = 0x0404 ∧ r.final = true) ∧
          (∀ h ∈ t.latch.held, h.why ≠ .release) ∧ t.hostMem = s.hostMem ∧ t.ep = s.ep) ∧
      (s.job.st = .faulted → Completes (.jobClose p) s fun t =>
        t.job = { s.job with st := .draining, startCmd := none, closeCmd := some o, closeAbort := bit p.p0.toNat 0,
                             closeFence := true, closeDrops := 0 } ∧
        (∀ x ∈ t.slots, x.st = .idle ∧ x.ctx = none) ∧ t.duties = [] ∧ t.coll.ops = [] ∧
        t.kft = { s.kft with fences := [] } ∧ t.hostMem = s.hostMem)) ∧
    (s.rst.rootLost = false →
      (drainDone s = true → Completes .jobDrainComplete s fun t =>
        t.job = { Job.zero with lastDone := s.job.lastDone } ∧ t.slots = List.replicate 64 Slot.idle ∧ t.duties = [] ∧
        t.kft.tx = [] ∧ t.kft.rx = [] ∧ t.carafe.jobRuns = [] ∧ (∀ h ∈ t.carafe.cells, jobUse h.use = false) ∧
        t.vault.cur.jobTag = 0 ∧ t.vault.cur.num = (s.vault.cur.num + 1) % 2 ^ 32 ∧
        ∀ c, s.job.closeCmd = some c → s.latch.opened.any (fun x => sameCmd x c) = true → ∃ r, t.latch.replies.getLast? = some r ∧ r.tag = c.tag ∧ r.order = c.order ∧
          r.status = 0 ∧ r.r0 = s.job.closeDrops ∧ r.final = true) ∧
      (drainDone s = false → exec .jobDrainComplete s = .next s))

/-- Loading and committing (R87, R88, R102, R104, R105, R125, R176 to R179). LAYER_LOAD and TABLE_LOAD stage an image that passes
its checks, in place of the one of its layer or index, and otherwise end with the status of the first check that fails; while
a commit is pending they are refused. KEYRING_COMMIT below a step already taken is refused, and otherwise waits for its loads
and its step. A commit that a load failed, or whose layers' bias groups are not all the block's own, ends and leaves what is
staged; the switch makes the new epoch of the staged images, empties the staging area and answers KEYRING_COMMIT with the
epoch. Either way each step that waited for the commit is then reached. Says when these commands complete: layerLoad,
keyringCommit, tableLoad, commitLoadsDone, epochTakesEffect. -/
def Obligations.LoadsAndCommitComplete : Prop :=
  ∀ (p : Packet) (io : Io) (s u w : State) (b : List Byte), Inv s →
    let n := s.latch.order
    let o := openOf p n
    let t0 := takePacket p s
    let read := checkRanges [(1, pVa p, p.p3.toNat, false)] io t0 = (u, none) ∧
      ownRead 1 (pVa p) p.p3.toNat io (accept p n 0 u) = (w, .ok b)
    (RunsJob 0x14 p s → p.payloadLen.toNat = 0 → p.p0.toNat % 512 < s.job.desc.nLayers → entryFree s →
      (∀ c, s.ep.commit = some c → n ∉ c.loads →
        exec (.layerLoad p io) s = .next (noteLoad (replyOne p n 0x0208 0 0 0 0 t0))) ∧
      (s.ep.commit = none → read →
        (∀ st, layerBad w b (p.p0.toNat % 512) = some st →
          exec (.layerLoad p io) s = .next (finish o st 0 0 0 0 w)) ∧
        (layerBad w b (p.p0.toNat % 512) = none → Completes (.layerLoad p io) s fun t =>
          (∀ x, x ∈ t.ep.staged ↔ (x ∈ s.ep.staged ∧ x.img.layer ≠ (layerOf b).layer) ∨
            x = { img := layerOf b, entries := entriesOf b (layerOf b).nExperts }) ∧
          t = finish o 0 (s.ep.num + 1) 0 0 0 { w with ep := { s.ep with staged := t.ep.staged } }))) ∧
    (RunsJob 0x16 p s → p.payloadLen.toNat = 0 → p.p0.toNat % 4 = 0 → entryFree s →
      (∀ c, s.ep.commit = some c → n ∉ c.loads →
        exec (.tableLoad p io) s = .next (noteLoad (replyOne p n 0x0208 0 0 0 0 t0))) ∧
      (s.ep.commit = none → read →
        (∀ st, tableBad b (bits p.p0.toNat 10 8) = some (st, 0) →
          exec (.tableLoad p io) s = .next (finish o st 0 0 0 0 w)) ∧
        (∀ st rej, rej ≠ 0 → tableBad b (bits p.p0.toNat 10 8) = some (st, rej) →
          exec (.tableLoad p io) s = .next (finish o st 0 0 0 0 (setP w 0x0018 rej))) ∧
        (tableBad b (bits p.p0.toNat 10 8) = none → Completes (.tableLoad p io) s fun t =>
          (∀ x, x ∈ t.ep.stagedTables ↔
            (x ∈ s.ep.stagedTables ∧ x.index ≠ (tableImage b).index) ∨ x = tableImage b) ∧
          t = finish o 0 (s.ep.num + 1) 0 0 0 { w with ep := { s.ep with stagedTables := t.ep.stagedTables } }))) ∧
    (RunsJob 0x15 p s → p.payloadLen.toNat = 0 → entryFree s →
      (stepTaken s (pVa p) = true → exec (.keyringCommit p) s = .next (replyOne p n 0x0206 0 0 0 0 t0)) ∧
      (stepTaken s (pVa p) = false → s.ep.commit.isSome = true →
        exec (.keyringCommit p) s = .next (replyOne p n 0x0208 0 0 0 0 t0)) ∧
      (stepTaken s (pVa p) = false → s.ep.commit = none →
        let c : Commit :=
          { step := pVa p, cmd := o, loads := (loadsOut s).filter fun q => decide (q < n), bad := false, ready := false }
        exec (.keyringCommit p) s = .next (noteLoad { accept p n 0 t0 with ep := { s.ep with commit := some c } }))) ∧
    (s.rst.rootLost = false → ∀ c, s.ep.commit = some c →
      let out := c.loads.any fun q => (loadsOut s).contains q
      let goes := c.ready = false ∧ jobGoes s = true ∧ out = false
      let poison := krReadBad s.ep.num ((s.ep.staged.filter (·.img.keepBias)).map (·.img.layer)) s
      (goes → c.bad = false → (∀ l ∈ layersNext s, ownGroup s l.biasGroup = true) →
        exec .commitLoadsDone s = .next { s with ep := { s.ep with commit := some { c with ready := true } } }) ∧
      (goes → c.bad = true → exec .commitLoadsDone s = .next (reachAwaited s (commitRefused 0x0108 c s))) ∧
      (goes → c.bad = false → (∃ l ∈ layersNext s, ownGroup s l.biasGroup = false) →
        exec .commitLoadsDone s = .next (reachAwaited s (commitRefused 0x0106 c s))) ∧
      (∀ st, let t := commitRefused st c s
        t.ep = { s.ep with commit := none } ∧ t.keyring = s.keyring ∧
        ((∀ x ∈ s.slots, ∀ k, x.ctx = some k → (layerIn s k.epoch k.layer).isSome = true) → t.job = s.job) ∧
        (s.latch.opened.any (fun x => sameCmd x c.cmd) = true →
          ∃ r ∈ t.latch.replies, r.tag = c.cmd.tag ∧ r.order = c.cmd.order ∧ r.status = st ∧ r.final = true)) ∧
      (¬ goes → exec .commitLoadsDone s = .next s) ∧
      (∀ t, (∀ x ∈ s.slots, ∀ k, x.ctx = some k → k.awaitCommit = false) → reachAwaited s t = dutyTidy t) ∧
      (c.ready = true → jobGoes s = true → stepTaken s c.step = true → biasDone s c.step = true →
        let t := epochSwitch c s
        exec .epochTakesEffect s = .next (reachAwaited s t) ∧
        (∀ k, poison = some k → t = jobFault (0x10 + k) 0x0406 0 Where.none s) ∧
        (poison = none → t.ep.num = s.ep.num + 1 ∧ t.ep.staged = [] ∧ t.ep.stagedTables = [] ∧ t.ep.commit = none ∧
          t.ep.epochs.head? = some { num := s.ep.num + 1, first := c.step, layers := layersNext s, tables := tablesNext s } ∧
          (s.latch.opened.any (fun x => sameCmd x c.cmd) = true →
            ∃ r, t.latch.replies.getLast? = some r ∧ r.tag = c.cmd.tag ∧ r.status = 0 ∧ r.r0 = s.ep.num + 1 ∧ r.final = true) ∧
          t.ev.seq = (s.ev.seq + 1) % 65536 ∧ (∀ x ∈ t.slots, ∀ k, x.ctx = some k → k.awaitCommit = false) ∧
          t.job = s.job ∧ t.hostMem = s.hostMem ∧ t.sp = s.sp)) ∧
      (c.ready = false ∨ jobGoes s = false ∨ stepTaken s c.step = false ∨ biasDone s c.step = false →
        exec .epochTakesEffect s = .next s)) ∧
    (s.rst.rootLost = false → s.ep.commit = none →
      exec .commitLoadsDone s = .next s ∧ exec .epochTakesEffect s = .next s)

/-- STEP_RUN (R72, R73, R90, R94, R96). One that passes its checks is accepted and bounds the step numbers that may follow,
however it goes on: it waits for the release instant while Starting, for the end of brace while braced, and otherwise begins:
its slot is Scored in stage 1 with the command's step, layer, tokens and class, at the slot's generation. A poisoned Keyring
entry of its layer, or a copy whose digest differs, ends the job at once, naming the slice (R120, R121). Says when these
commands complete: stepRun. -/
def Obligations.StepRunCompletes : Prop :=
  ∀ (p : Packet) (s : State), Inv s → RunsJob 0x20 p s →
    let n := s.latch.order
    let a := runArgs p
    p.payloadLen.toNat = (if a.inSrc then 128 else 64) → a.nTok ≤ 4096 → a.nTok ≤ s.job.desc.bMax → a.layer < s.job.desc.nLayers →
    layerLoaded s a.step a.layer = true → runState s a = none → entryFree s →
    let t0 := runTaken a p.cls.toNat (accept p n 0 (takePacket p s))
    let e := ((epochFor s a.step).map (·.num)).getD 0
    let bad := krPoisoned s e a.layer
    (s.job.st = .starting → exec (.stepRun p) s = .next (holdCmd .release p Ext.none n t0)) ∧
    (s.job.st ≠ .starting → inBrace s = true → exec (.stepRun p) s = .next (holdCmd .brace p Ext.none n t0)) ∧
    (s.job.st ≠ .starting → inBrace s = false → exec (.stepRun p) s = .next (beginStep p (openOf p n) t0)) ∧
    Completes (.stepRun p) s (fun t => t.job.topStep = some a.step ∧ t.kt = s.kt ∧ t.hostMem = s.hostMem) ∧
    (s.job.st ≠ .starting → inBrace s = false → underCommit s a.step = false →
      (∀ k, bad = some k → Completes (.stepRun p) s fun t => t.job.st = .faulted ∧ t.dump.fault.unit = 0x10 + k) ∧
      (bad = none → ∀ m, digestMismatch (krDigests s e a.layer) = some m → Completes (.stepRun p) s fun t =>
        t.job.st = .faulted ∧ t.dump.fault.unit = 0x10 + lowSlice m ∧ t.dump.fault.detail = 0x0401 + m * 2 ^ 16)) ∧
    (s.job.st ≠ .starting → inBrace s = false → a.inSrc = false → dutyAt s a.step = none →
      (underCommit s a.step = true ∨ (bad = none ∧ digestMismatch (krDigests s e a.layer) = none)) →
      (∀ f ∈ s.funnelHeld, f.2.slot ≠ a.slot ∨ a.step < f.2.step) → Completes (.stepRun p) s fun t =>
        (slotAt t a.slot).st = .scored ∧ (slotAt t a.slot).stage = 1 ∧ (slotAt t a.slot).gen = a.gen ∧
        (slotAt t a.slot).lastStep = a.step ∧
        (∃ c, (slotAt t a.slot).ctx = some c ∧ c.step = a.step ∧ c.layer = a.layer ∧ c.nTok = a.nTok ∧ c.cls = p.cls.toNat ∧
          c.gen = a.gen ∧ c.startKt = s.kt ∧ c.held.tokensIn = a.nTok ∧ c.cmd = openOf p n ∧ c.cancelled = false) ∧
        (∀ i, i ≠ a.slot → slotAt t i = slotAt s i) ∧ t.job = { s.job with topStep := some a.step })

/-- STEP_RUN with a generation other than its slot's (R74): ST_STALE_GEN, with the current generation in r0, and the slot as it
was. Says when these commands complete: stepRun. -/
def Obligations.StaleGenerationRefused : Prop :=
  ∀ (p : Packet) (s : State), RunsJob 0x20 p s →
    let a := runArgs p
    p.payloadLen.toNat = (if a.inSrc then 128 else 64) → a.nTok ≤ 4096 → a.nTok ≤ s.job.desc.bMax → a.layer < s.job.desc.nLayers →
    layerLoaded s a.step a.layer = true → stepTaken s a.step = false → (slotAt s a.slot).gen ≠ a.gen →
    exec (.stepRun p) s = .next (replyOne p s.latch.order 0x0204 (slotAt s a.slot).gen 0 0 0 (takePacket p s)) ∧
    (∀ i, slotAt (replyOne p s.latch.order 0x0204 (slotAt s a.slot).gen 0 0 0 (takePacket p s)) i = slotAt s i)

/-- BATCH_CANCEL, BATCH_PREEMPT, BATCH_RESUME, the boundary at which a slot is pre-empted, and a unit's switch of class (R91,
R93, R94, R117, R131, R151, R211, R240). A cancelled step's STEP_RUN ends ST_CANCELLED, its slot is Cancelled at the next
generation without exit bits, and no other slot changes; an Idle or Done slot only loses its exit bits. Work of a higher
class has a unit set a step's work aside, counted on its slice, and work of the step's own class has it go on; a tensor
command goes on for the tiles named (the operands are the model's, log 80). Says when these commands complete: batchCancel,
batchPreempt, batchResume, preemptBoundary, classSwitch. -/
def Obligations.BatchCommandsComplete : Prop :=
  ∀ (p : Packet) (i k q : Nat) (u : WorkUnit) (s : State), Inv s →
    let n := s.latch.order
    let o := openOf p n
    let b := batchSlot p
    let x := slotAt s b
    (RunsJob 0x21 p s → p.payloadLen.toNat = 0 → entryFree s → x.gen = batchGen p →
      (x.st = .idle ∨ x.st = .done → exec (.batchCancel p) s = .next
        (setSlot b { x with exits := [] } (finish o 0 0 0 0 0 (accept p n x.gen (takePacket p s))))) ∧
      (x.st = .preempted ∨ x.st ∈ flightStates → exec (.batchCancel p) s = .next
        (cancelStep b (some o) outScrub (accept p n ((x.gen + 1) % 256) (takePacket p s)))) ∧
      (∀ c, x.st = .scored → x.stage < 13 → x.ctx = some c → Completes (.batchCancel p) s fun t =>
        (slotAt t b).st = .cancelled ∧ (slotAt t b).gen = (x.gen + 1) % 256 ∧ (slotAt t b).exits = [] ∧
        (∃ c', (slotAt t b).ctx = some c' ∧ c'.cancelled = true ∧ c'.cancelCmd = some o ∧ c'.step = c.step) ∧
        (s.latch.opened.any (fun y => sameCmd y c.cmd) = true → (∀ y ∈ c.preemptCmds, y.order ≠ c.cmd.order) → c.cmd.order ≠ n →
          ∃ r ∈ t.latch.replies, r.order = c.cmd.order ∧ r.tag = c.cmd.tag ∧ r.status = 0x0404 ∧ r.final = true) ∧
        (∀ d, d ≠ b → slotAt t d = slotAt s d) ∧ t.job = s.job ∧ t.hostMem = s.hostMem)) ∧
    (RunsJob 0x22 p s → p.payloadLen.toNat = 0 → entryFree s → x.gen = batchGen p → x.st ∈ flightStates →
      exec (.batchPreempt p) s = .next
        (ctxMap b (fun y => { y with preemptCmds := y.preemptCmds ++ [o] }) (accept p n 0 (takePacket p s)))) ∧
    (∀ c, s.rst.rootLost = false → (slotAt s i).ctx = some c → (slotAt s i).st ∈ flightStates → c.preemptCmds ≠ [] →
      (applied s = false → exec (.preemptBoundary i) s = .next s) ∧
      (applied s = true → Completes (.preemptBoundary i) s fun t =>
        slotAt t i = { slotAt s i with st := .preempted,
                                       ctx := some { c with resume := (slotAt s i).st, preemptCmds := [] } } ∧
        (∀ y ∈ c.preemptCmds, s.latch.opened.any (fun z => sameCmd z y) = true →
          (∀ z ∈ c.preemptCmds, z.order = y.order → z = y) →
          ∃ r ∈ t.latch.replies, r.tag = y.tag ∧ r.order = y.order ∧ r.status = 0 ∧ r.final = true) ∧
        (∀ d, d ≠ i → slotAt t d = slotAt s d) ∧ t = { s with slots := t.slots, latch := t.latch, drip := t.drip })) ∧
    (s.rst.rootLost = false → (slotAt s i).st ∉ flightStates → exec (.preemptBoundary i) s = .next s) ∧
    (RunsJob 0x23 p s → p.payloadLen.toNat = 0 →
      (inBrace s = true → exec (.batchResume p) s = .next (holdCmd .brace p Ext.none n (takePacket p s))) ∧
      (inBrace s = false → x.gen = batchGen p → x.st = .preempted →
        exec (.batchResume p) s = .next (replyOne p n 0 0 0 0 0 (resumeSlot b (takePacket p s))) ∧
        ∀ c, x.ctx = some c → c.resume = .scored → Completes (.batchResume p) s fun t =>
          slotAt t b = { x with st := .scored } ∧ (∀ d, d ≠ b → slotAt t d = slotAt s d) ∧ t.job = s.job)) ∧
    (s.rst.rootLost = false →
      (4 ≤ k ∨ 4 ≤ q ∨ applied s = false → exec (.classSwitch k i q u) s = .next s) ∧
      (k < 4 → q < 4 → applied s = true →
        (∀ m g, exec (.classSwitch k i q (.tensor m g)) s = .next (closeTry (tensorOn m g s))) ∧
        (∀ c l, (∀ m g, u ≠ .tensor m g) → (slotAt s i).ctx = some c → layerIn s c.epoch c.layer = some l →
          (classGroup q = classGroup c.cls → exec (.classSwitch k i q u) s = .next (asideBack i k u s)) ∧
          (classGroup c.cls < classGroup q → exec (.classSwitch k i q u) s = .next s) ∧
          (classGroup q < classGroup c.cls → unitWorks s i k c l u = true → (∀ a ∈ c.aside, a.back = true) →
            exec (.classSwitch k i q u) s = .next (engineAside i k c l u s) ∧
            ((∀ e v w y z, u ≠ .engine e v w y z) → Completes (.classSwitch k i q u) s fun t =>
              ctr t (128 + 32 * k + 3) = (ctr s (128 + 32 * k + 3) + 1) % 2 ^ 64 ∧
              slotAt t i = { slotAt s i with
                ctx := some { c with aside := c.aside ++ [{ slice := k, unit := u, bank := [], back := false }] } } ∧
              t = { s with slots := t.slots, counters := t.counters })))))

/-- The stages of a step after its rows (R91, R96, R110 to R121, R144, R151, R154, R215 to R226, R236 to R239). When every row is
in, stage 2 begins with a send cell and a staging cell, or a wait for one, for every token. When scoring is done, with a
router that reads and a Keyring not poisoned, the slot is in stage 12 with one selection per token, in order, no expert
selected by an exited one, and its counts sent; poison in either faults the job. Dispatch queues every own copy for its
Spout. When every copy is out the slot awaits; when every answer and shared row is in it combines, `n` rows at a time, and
writes no byte outside the pieces its run lists; when the rows and the exit mask are written it is Done and STEP_RUN ends
ST_OK. Says when these commands complete: stage1Complete, stepScoringDone, dispatchStart, dispatchAcked, combineStart,
combineDone. -/
def Obligations.StepStagesComplete : Prop :=
  ∀ (i n : Nat) (c : StepCtx) (s : State), Inv s → s.rst.rootLost = false → (slotAt s i).ctx = some c →
    let x := slotAt s i
    let d := s.job.desc.d
    (∀ l, layerIn s c.epoch c.layer = some l → x.st = .scored → x.stage = 1 → c.awaitCommit = false → applied s = true →
      rowsIn c = true → Completes (.stage1Complete i) s fun t =>
        slotAt t i = { x with stage := 2 } ∧ (∀ q, q ≠ i → slotAt t q = slotAt s q) ∧ t.job = s.job ∧ t.hostMem = s.hostMem ∧
        ∀ k < c.nTok, ∀ u ∈ [CellUse.tile i c.step k, CellUse.staging i c.step k],
          (∃ h ∈ t.carafe.cells, h.use = u) ∨ ∃ w ∈ t.carafe.waits, w.use = u) ∧
    (¬ (x.st = .scored ∧ x.stage = 1 ∧ c.awaitCommit = false ∧ applied s = true ∧ rowsIn c = true) →
      exec (.stage1Complete i) s = .next s) ∧
    (∀ l, layerIn s c.epoch c.layer = some l → x.st = .scored → x.stage = 2 → biasWaits s c.step = false →
      tileWaits s i c.step = false → applied s = true → setAside s i isScoring = false →
      (krPoisoned s c.epoch c.layer = none →
        (c.nTok = 0 ∨ (l.routerSrc = false ∧ routerPoison s l d = none) ∨
          (l.routerSrc = true ∧ ∃ u ps, xlateRange s 1 l.wAddr (routerBytes (routerDesc l d) d) false = (u, .ok ps))) →
        Completes (.stepScoringDone i .ok []) s fun t =>
          (slotAt t i).st = .scored ∧ (slotAt t i).stage = 12 ∧ (slotAt t i).gen = x.gen ∧ t.job = s.job ∧
          t.hostMem = s.hostMem ∧ (∀ q, q ≠ i → slotAt t q = slotAt s q) ∧
          ∃ k, (slotAt t i).ctx = some k ∧ k.countsSent = true ∧ k.sels.map (·.token) = List.range c.nTok ∧
            (∀ y ∈ k.sels, y.token ∈ x.exits → y.exited = true) ∧ (∀ y ∈ k.sels, y.exited = true → y.picks = []) ∧
            (∀ y ∈ k.copies, y.sent = false ∧ y.answered = false) ∧
            ∀ e, e ∈ (slotAt t i).exits ↔ e ∈ x.exits ∨ (e ∉ x.exits ∧ ∃ y ∈ k.sels, y.token = e ∧ y.exited = true)) ∧
      (∀ k io, krPoisoned s c.epoch c.layer = some k → Completes (.stepScoringDone i io []) s fun t =>
        t.job.st = .faulted ∧ t.dump.fault.unit = 0x10 + k ∧ t.dump.fault.detail = 0x0406) ∧
      (∀ k io, krPoisoned s c.epoch c.layer = none → c.nTok ≠ 0 → l.routerSrc = false → routerPoison s l d = some k →
        Completes (.stepScoringDone i io []) s fun t =>
          t.job.st = .faulted ∧ t.dump.fault.unit = 0x10 + k ∧ t.dump.fault.detail = 0x0406 + 4 * 2 ^ 16)) ∧
    (x.st = .scored → x.stage = 12 → applied s = true → ∀ d, dutyAt s c.step = some d → exchangeDone s d = true →
      c.copies = [] ∨ windowHeld s i c.step = false → Completes (.dispatchStart i) s fun t =>
        (slotAt t i).st = .dispatched ∧ (slotAt t i).stage = 13 ∧ (slotAt t i).gen = x.gen ∧
        (∀ y ∈ c.copies, y.dest = ownSeat s → (∃ cap, (y.localSlot, cap) ∈ localSlots s c.epoch c.layer) →
          ∃ k ∈ t.spout, k.kind = 0x12 ∧ k.slot = i ∧ k.step = c.step ∧ k.spout = y.localSlot % 4 ∧
            ∃ q ∈ k.tiles, q.1.token = y.token ∧ q.1.rank = y.rank ∧ q.2 = tileRead s i c.step y.token) ∧
        (c.copies = [] → t.job = s.job ∧ t.spout = s.spout ∧ t.kft = s.kft)) ∧
    (x.st = .dispatched → applied s = true → copiesOut s c = true → Completes (.dispatchAcked i) s fun t =>
      slotAt t i = { x with st := .awaiting, stage := 15 } ∧ (∀ q, q ≠ i → slotAt t q = slotAt s q) ∧
      t = { s with slots := t.slots, drip := t.drip }) ∧
    (∀ v l, combineReady s i = true → x.stage = 15 → xlateAnswers c (answersOf c) (combineEnter i s) = (v, .ok l) →
      ∃ u, exec (.combineStart i n .ok []) s = .next (combineOn i n u) ∧
        slotAt u i = { x with st := .combining, stage := 16, ctx := (slotAt u i).ctx } ∧ u.job = s.job ∧
        u.hostMem = s.hostMem ∧ u.sp = s.sp ∧ u.mport = s.mport ∧ u.params = s.params ∧
        ∃ k : StepCtx, (slotAt u i).ctx = some { c with outs := k.outs, outPos := 0, digests := k.digests } ∧
          k.outs = (combineRows s.job.desc c (sharedOf s c) (l.map fun a => (a.1, readPieces s.hostMem a.2))).map
            (outRow (outDescOf c))) ∧
    (x.st = .combining → x.stage = 16 → applied s = true → ∀ io,
      let hi := min c.outs.length (c.outPos + rowsFree s i c.outPos n)
      let w := outWrite (outDescOf c) d c.outs c.outPos hi (TRun.start s)
      let v := (List.range (hi - c.outPos)).foldl (fun u k => ctrInc (128 + 32 * ((c.outPos + k) % 4) + 7) u) w.s
      let again := (outWrite (outDescOf c) d c.outs 0 c.outs.length (TRun.start v)).wr
      w.bad = none → Completes (.combineStart i n io []) s fun t =>
        slotAt t i = { x with ctx := some { c with outPos := hi } } ∧ (∀ q, q ≠ i → slotAt t q = slotAt s q) ∧ t.job = s.job ∧
        ∀ a, (∀ q ∈ w.wr, a < q.pa ∨ q.pa + q.len ≤ a) →
          (hi = c.outs.length → ∀ q ∈ again, a < q.pa ∨ q.pa + q.len ≤ a) → memGet t.hostMem a = memGet s.hostMem a) ∧
    (combineReady s i = false → x.st ≠ .combining → ∀ io, exec (.combineStart i n io []) s = .next s) ∧
    (x.st = .combining → x.stage = 16 → applied s = true → c.outPos = c.outs.length → reqOpen s (.outRow i c.step) = false →
      ∀ u ps, (c.exitEn = true → xlateRange s 1 c.exitVa (exitMask x c.nTok).length true = (u, .ok ps)) →
        Completes (.combineDone i .ok) s fun t =>
          (slotAt t i).st = .done ∧ (slotAt t i).ctx = none ∧ (slotAt t i).gen = x.gen ∧ (slotAt t i).exits = x.exits ∧
          (∀ q, q ≠ i → slotAt t q = slotAt s q) ∧
          t.job = { s.job with lastDone := max s.job.lastDone c.step, closeFence := t.job.closeFence } ∧
          (s.latch.opened.any (fun y => sameCmd y c.cmd) = true →
            ∃ r ∈ t.latch.replies, r.tag = c.cmd.tag ∧ r.order = c.cmd.order ∧ r.status = 0 ∧ r.final = true ∧ r.r0 = c.nTok) ∧
          t.hostMem = (if c.exitEn then writePieces ps (exitMask x c.nTok) s.hostMem else s.hostMem)) ∧
    (x.st = .combining → x.stage = 16 → c.outPos ≠ c.outs.length ∨ reqOpen s (.outRow i c.step) = true → ∀ io,
      exec (.combineDone i io) s = .next s)

/-- The bias loop (R121, R124 to R127, R291, R305). A closed, wholly scored window that nothing froze posts one sum for each bias
group of its layers, once, and after every earlier window that still posts; when the sums are in, every step below start(w +
2) has been scored and no switch comes first, the update rewrites the arrays of the window's layers in every slice copy, by
the γ and the bound in force at start(w + 2), and no other array; under a freeze in force there it changes no bias. A
poisoned entry of those arrays faults the job. Says when these commands complete: loopSumPost, biasUpdate. -/
def Obligations.BiasRowsComplete : Prop :=
  ∀ (w : Nat) (s : State), s.rst.rootLost = false →
    (∀ x, (s.bias.wins.find? fun x => decide (x.w = w)) = some x →
      (collLive s = true → x.closed = true → winFrozen s w = false → x.posted = [] → winScored s x = true →
        postsFirst s x = false → winLayers s x ≠ [] → Completes (.loopSumPost w) s fun t =>
          (∀ y ∈ t.bias.wins, y.w = w → y.posted = sortBy (fun (a b : Nat) => decide (a < b)) (winGroups s x)) ∧
          t.keyring = s.keyring ∧ t.slots.length = s.slots.length ∧ t.ep.num = s.ep.num ∧ t.ep.epochs = s.ep.epochs) ∧
      (collLive s = false ∨ x.closed = false ∨ winFrozen s w = true ∨ x.posted ≠ [] ∨ winScored s x = false ∨
          postsFirst s x = true →
        exec (.loopSumPost w) s = .next s) ∧
      (let n := winStart s (w + 2)
       let bad := krReadBad x.epoch ((winLayers s x).map (·.layer)) s
       (winOwes s x = true → winSummed s x = true → stepTaken s n = true → scoredBelow s n = true → switchComes s w = false →
        (bad = none → Completes (.biasUpdate w) s fun t =>
          (∀ y ∈ t.bias.wins, y.w = w → y.applied = true) ∧ t = { s with keyring := t.keyring, bias := t.bias } ∧
          (∀ k e l, (∀ q ∈ winLayers s x, q.layer ≠ l) → krFind (krCopy t k) e l = krFind (krCopy s k) e l) ∧
          (stepP s 0x0503 n = 1 → t.keyring = s.keyring) ∧
          ∀ k l q a, stepP s 0x0503 n ≠ 1 → winLayers s x = [l] → (x.sums.find? fun y => decide (y.1 = l.layer)) = some q →
            krFind (krCopy s k) x.epoch l.layer = some a → ∃ b, krFind (krCopy t k) x.epoch l.layer = some b ∧
              b.epoch = a.epoch ∧ b.entries = biasLayer (stepP s 0x0501 n) (stepP s 0x0502 n) q.2 a.entries) ∧
        (∀ k, bad = some k → collLive s = true → Completes (.biasUpdate w) s fun t =>
          t.job.st = .faulted ∧ t.dump.fault.unit = 0x10 + k ∧ t.dump.fault.detail = 0x0406 ∧ t.keyring = s.keyring)) ∧
       (winOwes s x = false ∨ winSummed s x = false ∨ stepTaken s n = false ∨ scoredBelow s n = false ∨
          switchComes s w = true →
        exec (.biasUpdate w) s = .next s))) ∧
    ((s.bias.wins.find? fun x => decide (x.w = w)) = none →
      exec (.loopSumPost w) s = .next s ∧ exec (.biasUpdate w) s = .next s)

/-- Deadlines, poison and the scrubber (R28, R41, R121, R223, R313, R314, R330, R408, R409, R500). A step's deadline and a count
exchange's time-out fault the job with ST_TIMEOUT, naming where the step waits and the lowest seat whose counts are missing.
Poison read by a datapath or written for one faults the job with ST_POISONED, and a Spout's packet goes on marked; a tensor
command under way stops at its poisoned write and ends ST_POISONED with what it has written; a poisoned word of a Hinge's
egress has its chunk sent again; a poisoned management word is only counted. The scrubber counts what it corrects, and
poisons and logs what it cannot. Says when these commands complete: countExchangeTimeout, stepDeadlineExpiry, patrolScrub,
queuePoisonConsume. -/
def Obligations.DeadlinePoisonAndScrubComplete : Prop :=
  ∀ (i n unit off : Nat) (c : StepCtx) (s : State), s.rst.rootLost = false →
    let faults := fun (cmd : Instr) (u d : Nat) => Completes cmd s fun t =>
      t.job.st = .faulted ∧ t.dump.wanted = true ∧ t.dump.fault.unit = u ∧ t.dump.fault.detail = d ∧ t.hostMem = s.hostMem ∧
      t.sp = s.sp
    let lives := s.job.st ≠ .closed ∧ s.job.st ≠ .faulted
    ((slotAt s i).ctx = some c →
      ((slotAt s i).st ∈ flightStates → lives →
        faults (.stepDeadlineExpiry i) (stepWaits s i c).1 (0x0405 + watchDetail 1 c.cls (stepWaits s i c).2 * 2 ^ 16)) ∧
      ((slotAt s i).st ∉ flightStates ∨ jobGoes s = false → exec (.stepDeadlineExpiry i) s = .next s)) ∧
    (∀ d m r, dutyAt s n = some d → missing s d = m :: r → d.reached = true → d.ended = false → ownSent s n = true →
      applied s = true → faults (.countExchangeTimeout n) 0x60 (0x0405 + m * 2 ^ 16)) ∧
    (dutyAt s n = none ∨ applied s = false → exec (.countExchangeTimeout n) s = .next s) ∧
    (lives → faults (.queuePoisonConsume (.datapath unit)) unit 0x0406 ∧
      faults (.queuePoisonConsume (.mportWrite unit none)) unit 0x0406 ∧
      Completes (.queuePoisonConsume (.datapath unit)) s fun t =>
        t.spout = (spoutMark unit s).spout ∧ ∀ k r, s.spout = k :: r → k.spout + 0x1C = unit →
          t.spout = { k with poison := true } :: r) ∧
    (∀ k, (s.tensors.find? fun x => decide (x.cls = k) && x.queued.isNone) = none → s.job.st ≠ .draining →
      exec (.queuePoisonConsume (.mportWrite unit (some k))) s = .next s) ∧
    (∀ k r, (s.tensors.find? fun x => decide (x.cls = k) && x.queued.isNone) = some r → (∀ x ∈ s.tensors, x.queued = none) →
      s.latch.opened.any (fun o => sameCmd o r.cmd) = true → s.job.st ≠ .draining →
      Completes (.queuePoisonConsume (.mportWrite unit (some k))) s fun t =>
        (∃ a ∈ t.latch.replies, a.tag = r.cmd.tag ∧ a.order = r.cmd.order ∧ a.status = 0x0406 ∧ a.final = true ∧ a.r0 = r.done) ∧
        t.tensors = (s.tensors.filter fun y => !sameCmd y.cmd r.cmd) ∧ t.hostMem = s.hostMem ∧ t.job = s.job) ∧
    (exec (.queuePoisonConsume .mgmt) s = .next (ctrInc 16 s)) ∧
    (∀ d v q k, chunkAt s d v q = some k → exec (.queuePoisonConsume (.hingeEgress d v q)) s = .next (resend k s)) ∧
    (∀ d v q, chunkAt s d v q = none → exec (.queuePoisonConsume (.hingeEgress d v q)) s = .next s) ∧
    (exec (.patrolScrub off .clean) s = .next s) ∧
    (off < spSize → exec (.patrolScrub off .single) s = .next (ctrInc 13 s)) ∧
    (off < spSize → Completes (.patrolScrub off .uncorrectable) s fun t =>
      (∀ w, w ∈ t.spPoison ↔ w ∈ s.spPoison ∨ w = off / 8) ∧ ctr t 14 = (ctr s 14 + 1) % 2 ^ 64 ∧
      (∀ k y, krAt s off = some (k, y) → (k, y.layer, y.epoch) ∈ t.keyringBad) ∧
      (s.rst.aoStopped = false → ∃ l, t.rlog.getLast? = some l ∧ l.kind = 3 ∧ l.body = off / 8 * 8) ∧
      t = { s with spPoison := t.spPoison, keyringBad := t.keyringBad, counters := t.counters, rlog := t.rlog,
                   rlogSeq := t.rlogSeq, rlogWait := t.rlogWait })

/-- The crash dump (R55, R419 to R423, R437). Once wanted, and with MEM in service, it samples the state and writes its sections,
and nothing but host memory, Keyway, the port's error counts and the dump's own record changes, save that an MMU command that
waited for nothing more ends. Its completion ends it: the header of 128 bytes goes to AO under the next sequence number, or
is held while AO is stopped, and the log gains its entry. What section 6's header holds is free (log 7). Says when these
commands complete: crashDump, crashDumpComplete. -/
def Obligations.CrashDumpRowsComplete : Prop :=
  ∀ (io : Io) (s : State), s.rst.rootLost = false →
    (s.dump.wanted = true → domState s 13 = .inService → Completes (.crashDump io) s fun t =>
      t.dump.wanted = false ∧ t.dump.active = true ∧ t.dump.fault = s.dump.fault ∧ t.dump.bytes = s.job.desc.dumpBytes ∧
      t.dump.region = (if s.job.desc.dumpVa = 0 then getP s 0x050B else s.job.desc.dumpVa) ∧ t.dump.sections.length = 6 ∧
      (io ≠ .ok → (dumpFit t.dump.bytes 256 t.dump.sections).1 ≠ [] → t.dump.status = 2) ∧
      t = { s with hostMem := t.hostMem, keyway := t.keyway, dump := t.dump, freeCtr := t.freeCtr, latch := t.latch,
                   drip := t.drip, counters := t.counters, mport := t.mport }) ∧
    ((s.dump.wanted = false ∧ s.dump.active = false) ∨ domState s 13 ≠ .inService → exec (.crashDump io) s = .next s) ∧
    (s.dump.active = true → Completes (.crashDumpComplete io) s fun t =>
      t.dump.active = false ∧ t.dump.seq = (s.dump.seq + 1) % 2 ^ 32 ∧
      (s.rst.aoStopped = false → t.dump.header.length = 128 ∧ leAt t.dump.header 0 2 = 0x4401 ∧ t.aoWait = s.aoWait ∧
        ∃ l, t.rlog.getLast? = some l ∧ l.kind = 8) ∧
      (s.rst.aoStopped = true → t.dump.header = s.dump.header ∧ t.rlog = s.rlog ∧
        ∃ h, t.aoWait = s.aoWait ++ [.header h] ∧ h.length = 128 ∧ leAt h 0 2 = 0x4401) ∧
      (s.dump.status = 2 → t.dump.status = 2 ∧ t.hostMem = s.hostMem) ∧
      (io ≠ .ok → 256 ≤ s.dump.bytes → t.dump.status = 2) ∧
      t = { s with hostMem := t.hostMem, keyway := t.keyway, dump := t.dump, freeCtr := t.freeCtr, rlog := t.rlog,
                   rlogSeq := t.rlogSeq, rlogWait := t.rlogWait, aoWait := t.aoWait, counters := t.counters, mport := t.mport }) ∧
    (s.dump.active = false → exec (.crashDumpComplete io) s = .next s)

/-- TENSOR_COPY, GATHER and SCATTER_ACC (R94, R131, R191, R198 to R212). Each is accepted; brace holds it; behind another of its
class it waits; a destination with no element ends it at once; poisoned source data ends it ST_POISONED, with what it had
written before the first write derived from it, and no job fault. A run whose every access translates ends ST_OK with its
counts once its tiles are written, or is set aside after those named; it writes no byte of host memory outside the pieces it
lists, and changes neither the job nor the scratchpad. Says when these commands complete: tensorCopy, gather, scatterAcc. -/
def Obligations.TensorCommandsComplete : Prop :=
  ∀ (p : Packet) (io : Io) (arr : List Nat) (k : Nat) (s : State), entryFree s →
    let n := s.latch.order
    let o := openOf p n
    let b := pBody p
    let a := accept p n 0 (takePacket p s)
    let alone := s.tensors.any (fun r => decide (r.cls = p.cls.toNat)) = false
    let answered := fun (u : State) (st r0 : Nat) =>
      ∃ r ∈ u.latch.replies, r.tag = p.tag.toNat ∧ r.order = n ∧ r.status = st ∧ r.final = true ∧ r.r0 = r0
    let keeps := fun (u : State) (t : TRun) =>
      (∀ x, (∀ q ∈ t.wr, x < q.pa ∨ q.pa + q.len ≤ x) → memGet u.hostMem x = memGet s.hostMem x) ∧
      u.job = s.job ∧ u.sp = s.sp ∧ u.slots = s.slots
    let runs := fun (cmd : Io → Instr) (rows : Bool) (r0 : Nat) (t : TRun) => t.bad = none →
      let log := t.log.reverse
      ((tilesOf rows log).length ≤ k → Completes (cmd .ok) s fun u => answered u 0 r0 ∧ keeps u t) ∧
      (k < (tilesOf rows log).length → Completes (cmd .ok) s fun u => keeps u t ∧
        ∃ r ∈ u.tensors, r.cmd = o ∧ r.queued = none ∧ r.tiles.length = (tilesOf rows log).length - k ∧
          r.done = tilesCount ((tilesOf rows log).take k)) ∧
      (∀ e, isPoison e = true → t.rd ≠ [] →
        let m := ((reqsTo t.rd e { t.s with hostMem := s.hostMem }).getLast?).getD { pa := 0, len := 0 }
        let l := log.takeWhile fun x => !x.meets m
        Completes (cmd (.bad e)) s fun u =>
          answered u 0x0406 (if rows then l.length else sumN (l.map (·.bytes.length))) ∧ keeps u t)
    let waits := fun (cmd : Instr) (x : Ext) =>
      (inBrace s = true → exec cmd s = .next (holdCmd .brace p x n a)) ∧
      (inBrace s = false → ¬ alone → exec cmd s = .next { a with tensors := a.tensors ++
        [{ cmd := o, cls := p.cls.toNat, queued := some (heldOf .after p x n), tiles := [], done := 0, r0 := 0, r1 := 0 }] })
    let x := { Ext.ofIo io with tiles := k }
    let cs := descOf b 0
    let cd := descOf b 64
    (RunsJob 0x28 p s → p.payloadLen.toNat = 128 → copyRange (fusedOf p s) cs cd = true →
      waits (.tensorCopy p io k) x ∧
      (inBrace s = false → alone → cd.empty = true → exec (.tensorCopy p io k) s = .next (finish o 0 0 0 0 0 a)) ∧
      (inBrace s = false → alone → cd.empty = false →
        (let t := cd.units.foldl (copyUnit (fusedOf p a) cs cd) (TRun.start a)
         runs (fun io => .tensorCopy p io k) false t.bytes t))) ∧
    (let src := (descOf b 0).byRows
     let ix := (descOf b 64).asIndex
     let dst := (descOf b 128).byRows
     (RunsJob 0x29 p s → p.payloadLen.toNat = 192 →
      waits (.gather p io k) x ∧
      (inBrace s = false → alone → ix.empty = true → exec (.gather p io k) s = .next (finish o 0 0 0 0 0 a)) ∧
      (inBrace s = false → alone → ix.empty = false →
        (let t := (List.range dst.rows).foldl (fun t r => rowCopy src dst (indexAt ix src.rows r t).2 r (indexAt ix src.rows r t).1)
            (TRun.start a)
         runs (fun io => .gather p io k) true dst.rows t))) ∧
     (RunsJob 0x2A p s → p.payloadLen.toNat = 192 → ((descOf b 0).fmt = 10 ↔ (descOf b 128).fmt = 10) →
      waits (.scatterAcc p io arr k) { x with arrival := arr } ∧
      (inBrace s = false → alone → ix.empty = true ∨ src.rows = 0 → exec (.scatterAcc p io arr k) s =
        .next (finish o 0 0 (b01 (bit p.p0.toNat 0 && !s.job.desc.deterministic)) 0 0 a)) ∧
      (inBrace s = false → alone → ix.empty = false → src.rows ≠ 0 →
        bit p.p0.toNat 0 = false ∨ s.job.desc.deterministic = true → dst.rows ≠ 0 →
          let x := targets src ix dst (TRun.start a)
          let t := (dedup x.2).foldl
            (fun t r => accRow src dst r ((List.range src.rows).filter fun q => decide (x.2.getD q 0 = r)) t) x.1
          runs (fun io => .scatterAcc p io arr k) true (src.rows - (dedup x.2).length) t)))

/-- The memory port's answers (R43 to R48, R109, R338). A read's last beat without error retires the request, and a row whose
last read it was joins its step; so does a write's response. An error faults the job, naming the memory port and the request,
and counts on the channel; a write that fails leaves only its own bytes open; a time-out quarantines the identifier. A
response to no request is counted. Says when these commands complete: mportReadData, mportWriteResponse, mportTimeout. -/
def Obligations.MemoryPortRowsComplete : Prop :=
  ∀ (ch id e : Nat) (last par w : Bool) (m : MReq) (s : State), s.rst.rootLost = false → ch < 32 →
    let lives := s.job.st ≠ .closed ∧ s.job.st ≠ .faulted
    let detail := fun (wr tm : Bool) (x : Nat) =>
      ioDetail { channel := ch, id := id, write := wr, timeout := tm, err := x } * 2 ^ 16
    let faulted := fun (t : State) (d : Nat) => t.job.st = .faulted ∧ t.dump.fault.unit = 0x30 ∧ t.dump.fault.detail = d
    (mportFind s false ch id = none → exec (.mportReadData ch id e last par) s = .next (mportStray false ch id last s)) ∧
    (mportFind s true ch id = none → exec (.mportWriteResponse ch id e) s = .next (mportStray true ch id true s)) ∧
    (∀ x, Completes (.mportReadData ch id e true par) { s with mport := { s.mport with out := [], quar := (false, ch, id) :: x } }
      fun t => (false, ch, id) ∉ t.mport.quar ∧ ctr t 24 = (ctr s 24 + 1) % 2 ^ 64) ∧
    (mportFind s w ch id = none → exec (.mportTimeout w ch id) s = .next s) ∧
    (mportFind s false ch id = some m →
      (exec (.mportReadData ch id 0 false false) s = .next s) ∧
      (s.mport.wait = [] → s.keyway.retire = [] →
        (m.who ∈ (s.mport.out.erase m).map (·.who) →
          exec (.mportReadData ch id 0 true false) s =
            .next { s with mport := { s.mport with out := s.mport.out.erase m } }) ∧
        (∀ i c k, m.who = .stepRow i c.step k → m.who ∉ (s.mport.out.erase m).map (·.who) → (slotAt s i).ctx = some c →
          c.cancelled = false → (∀ r ∈ c.rows, r.1 ≠ k) →
          let u := { s with mport := { s.mport with out := s.mport.out.erase m } }
          let r := inRow c s.job.desc.d k (TRun.start u)
          i < s.slots.length → r.1.bad = none → Completes (.mportReadData ch id 0 true false) s fun t =>
            slotAt t i = { slotAt s i with ctx := some { c with rows := c.rows ++ [(k, r.2)] } } ∧
            t = { s with slots := t.slots, mport := t.mport, keyway := t.keyway })) ∧
      (lives → e ≠ 0 → e ≠ 3 → Completes (.mportReadData ch id e last false) s fun t =>
        faulted t (0x0401 + detail false false e) ∧ ctr t (640 + 8 * ch + 4) = (ctr s (640 + 8 * ch + 4) + 1) % 2 ^ 64 ∧
        t.hostMem = s.hostMem) ∧
      (lives → Completes (.mportReadData ch id e last true) s fun t =>
        faulted t (0x0406 + detail false false 3) ∧ ctr t (640 + 8 * ch + 6) = (ctr s (640 + 8 * ch + 6) + 1) % 2 ^ 64 ∧
        t.hostMem = s.hostMem)) ∧
    (mportFind s true ch id = some m → (∃ i k, m.who = .outRow i k) → m.write = true →
      (exec (.mportWriteResponse ch id 0) s = .next (mportDone m s)) ∧
      (s.mport.wait = [] → s.keyway.retire = [] →
        mportDone m s = { s with mport := { s.mport with out := s.mport.out.erase m } }) ∧
      (lives → e ≠ 0 → Completes (.mportWriteResponse ch id e) s fun t =>
        faulted t (0x0401 + detail true false e) ∧ ctr t (640 + 8 * ch + 4) = (ctr s (640 + 8 * ch + 4) + 1) % 2 ^ 64 ∧
        ∀ x, x < m.pa ∨ m.pa + m.len ≤ x → memGet t.hostMem x = memGet s.hostMem x)) ∧
    (mportFind s w ch id = some m → m.write = w → lives → Completes (.mportTimeout w ch id) s fun t =>
      faulted t (0x0405 + detail w true 0) ∧ (w, ch, id) ∈ t.mport.quar ∧
      ctr t (640 + 8 * ch + 5) = (ctr s (640 + 8 * ch + 5) + 1) % 2 ^ 64 ∧
      ∀ x, (w = true → x < m.pa ∨ m.pa + m.len ≤ x) → memGet t.hostMem x = memGet s.hostMem x)

/-- The Funnels (R40, R41, R59, R107, R108, R217, R226, R232 to R235, R240, R329, R397). A fenced Funnel takes nothing and a
packet with no job is discarded and counted; the rows of the step it names join it, those of a later step are held, a stale
generation is counted. An answer-ready entry of a receive slot sends the answer to its source, drops that of a cancelled one,
and one of a return slot marks the copy answered; an entry no rule admits faults the job, naming the Funnel. A local copy
leaves its Spout in turn, and nothing moves while its slot is not Dispatched. A replayed arrival is applied as if it had
passed ingress. Says when these commands complete: routerRowsPacket, sharedOutputPacket, answerReadyReceive,
answerReadyReturn, replayArrivalInject, funnelMalformed, funnelPoisonedBeat, spoutLocalCopySent. -/
def Obligations.FunnelRowsComplete : Prop :=
  ∀ (f : FunnelPkt) (h : KftHdr) (slot token rank : Nat) (s : State), s.rst.rootLost = false →
    let rec_ := fun (kind : Nat) => funnelSeen kind f s
    let lives := s.job.st ≠ .closed ∧ s.job.st ≠ .faulted
    let faults := fun (cmd : Instr) (d : Nat) => Completes cmd s fun t =>
      t.job.st = .faulted ∧ t.dump.fault.unit = 0x18 + f.funnel ∧ t.dump.fault.detail = d ∧ t.hostMem = s.hostMem
    let x := slotAt s f.slot
    (funnelOpen s f.funnel = false → ∀ io,
      exec (.routerRowsPacket f) s = .next s ∧ exec (.sharedOutputPacket f) s = .next s ∧
      exec (.answerReadyReceive f io) s = .next s ∧ exec (.answerReadyReturn f) s = .next s ∧
      exec (.funnelMalformed f.funnel) s = .next s ∧ exec (.funnelPoisonedBeat f.funnel slot) s = .next s) ∧
    (funnelOpen s f.funnel = true →
      (s.job.st = .closed → ∀ io,
        exec (.routerRowsPacket f) s = .next (ctrInc 0 (rec_ 1)) ∧ exec (.sharedOutputPacket f) s = .next (ctrInc 0 (rec_ 2)) ∧
        exec (.answerReadyReceive f io) s = .next (ctrInc 0 (rec_ 3)) ∧ exec (.answerReadyReturn f) s = .next (ctrInc 0 (rec_ 4)) ∧
        exec (.funnelMalformed f.funnel) s = .next (ctrInc 0 s) ∧
        exec (.funnelPoisonedBeat f.funnel slot) s = .next (ctrInc 0 s)) ∧
      (lives → faults (.funnelMalformed f.funnel) 0x0401 ∧ faults (.funnelPoisonedBeat f.funnel slot) 0x0406) ∧
      (∀ c l, lives → x.ctx = some c → c.gen = f.generation → c.step = f.step → c.cancelled = false → c.awaitCommit = false →
        layerIn s c.epoch c.layer = some l → f.body.length = f.nRows * funnelRow l s.job.desc.d → f.slot < s.slots.length →
        f.firstToken + f.nRows ≤ c.nTok →
        let rows := (List.range f.nRows).map fun r => (f.firstToken + r, funnelVals l s.job.desc.d f.body r)
        ((∀ r ∈ c.rows, r.1 < f.firstToken ∨ f.firstToken + f.nRows ≤ r.1) → Completes (.routerRowsPacket f) s fun t =>
          slotAt t f.slot = { x with ctx := some { c with rows := c.rows ++ rows } } ∧
          t = { s with slots := t.slots, recRing := t.recRing, counters := t.counters } ∧
          ctr t (133 + 32 * f.funnel) =
            (ctr s (133 + 32 * f.funnel) + streamBeats (funnelBytes 1 f).length) % 2 ^ 64) ∧
        (l.shared = true → (∀ r ∈ c.shared, r.1 < f.firstToken ∨ f.firstToken + f.nRows ≤ r.1) →
          Completes (.sharedOutputPacket f) s fun t =>
            slotAt t f.slot = { x with ctx := some { c with shared := c.shared ++ rows } } ∧ t.job = s.job ∧
            t = { s with slots := t.slots, recRing := t.recRing, carafe := t.carafe, counters := t.counters }) ∧
        (l.shared = false → faults (.sharedOutputPacket f) 0x0401)) ∧
      (lives → x.ctx = none → aboveSlot x f.step = true → serialLt 8 x.gen f.generation = true ∨ x.gen = f.generation →
        Completes (.routerRowsPacket f) s fun t => t.funnelHeld = s.funnelHeld ++ [(1, f)] ∧ t.slots = s.slots ∧ t.job = s.job) ∧
      (lives → x.ctx = none → aboveSlot x f.step = false →
        exec (.routerRowsPacket f) s = .next (ctrInc 0 (rec_ 1)) ∧ exec (.sharedOutputPacket f) s = .next (ctrInc 0 (rec_ 2))) ∧
      (applied s = true → f.nRows = 1 → ∀ b u v l,
        let k := leAt f.body 0 4
        let q := tileHdrOf b
        let way := entryWay s k q
        hostRead (rec_ 3) 0 (rxVa s k) 64 = (u, .ok b) →
        xlateRange u 0 (rxVa s k) (if way = .send then pitchOf s.job.desc else 64) false = (v, .ok l) →
        (way = .bad → faults (.answerReadyReceive f .ok) 0x0401) ∧
        (way = .drop → Completes (.answerReadyReceive f .ok) s fun t =>
          ctr t 4 = (ctr s 4 + 1) % 2 ^ 64 ∧ t.job = s.job ∧ t.kft = s.kft) ∧
        (way = .send →
          exec (.answerReadyReceive f .ok) s = .next (dutyTidy (sendAnswer q k (readPieces s.hostMem l) v)) ∧
          Completes (.answerReadyReceive f .ok) s fun t => t.job = s.job ∧ t.slots = s.slots ∧ t.hostMem = s.hostMem ∧
            (replayOn s = false → 0 < getP s 0x0342 → ∃ y ∈ t.kft.unacked, y.hdr.dstSeat = q.srcSeat ∧ y.hdr.vc = 2 ∧
              y.hdr.region = 1 ∧ y.hdr.offset = retIdx s.job.desc q.step q.token q.rank * pitchOf s.job.desc))) ∧
      (applied s = true → f.nRows = 1 →
        let k := leAt f.body 0 4
        let j := s.job.desc
        let t0 := k % (j.bMax * j.kMax)
        let way := answerWay s f.slot f.generation f.step (t0 / j.kMax) (t0 % j.kMax)
        (x.gen = f.generation → k / (j.bMax * j.kMax) = winNo j f.step) →
        (way = .take → Completes (.answerReadyReturn f) s fun t => t.job = s.job ∧ t.hostMem = s.hostMem ∧
          ∃ c, (slotAt t f.slot).ctx = some c ∧
            ∀ y ∈ c.copies, y.token = t0 / j.kMax → y.rank = t0 % j.kMax → y.answered = true) ∧
        (way = .dup → Completes (.answerReadyReturn f) s fun t =>
          ctr t 6 = (ctr s 6 + 1) % 2 ^ 64 ∧ t.slots = s.slots ∧ t.job = s.job) ∧
        (way = .stale → Completes (.answerReadyReturn f) s fun t =>
          ctr t 5 = (ctr s 5 + 1) % 2 ^ 64 ∧ t.slots = s.slots ∧ t.job = s.job) ∧
        (way = .bad → faults (.answerReadyReturn f) 0x0401))) ∧
    (∀ c d, (slotAt s slot).ctx = some c → dutyAt s c.step = some d →
      (∃ y ∈ d.landed, y.hdr.kind = 0x23 ∧ y.hdr.token = token ∧ y.hdr.rank = rank ∧ y.listed = false) →
      (∀ u, (slotAt s slot).st = .dispatched → c.cancelled = false → applied s = true →
        spoutTake slot c.step token rank s = some u → Completes (.spoutLocalCopySent slot token rank) s fun t =>
          t.spout = u.spout ∧
          (∃ e, dutyAt t c.step = some e ∧
            ∀ y ∈ e.landed, y.hdr.kind = 0x23 → y.hdr.token = token → y.hdr.rank = rank → y.listed = true) ∧
          ∃ k, (slotAt t slot).ctx = some k ∧
            ∀ y ∈ k.copies, y.token = token → y.rank = rank → y.sent = true ∧ y.acked = true) ∧
      ((slotAt s slot).st ≠ .dispatched ∨ spoutTake slot c.step token rank s = none →
        exec (.spoutLocalCopySent slot token rank) s = .next s)) ∧
    (∀ body full io, funnelOpen s f.funnel = true → lives →
      let c : RxChunk := { hinge := bits h.pathId 4 2, link := h.pathId % 32, pcp := vcPcp s h.vc, hdr := h, payload := body }
      let u := (funnelSeen 0x0E
        { funnel := f.funnel, slot := 0, generation := 0, step := 0, firstToken := 0, nRows := 0, cls := h.cls,
          body := kftHdrBytes h ++ body }) s
      let v := ingressAdd c u
      (replayOn s = false ∨ full = false → exec (.replayArrivalInject f.funnel h body full io) s = .next u) ∧
      (replayOn s = true → full = true →
        (appliesNow v c = true → exec (.replayArrivalInject f.funnel h body full io) s = .next (chunkApply c io v)) ∧
        (appliesNow v c = false → exec (.replayArrivalInject f.funnel h body full io) s = .next v) ∧
        (s.job.st = .starting → isNotice h body = false → Completes (.replayArrivalInject f.funnel h body full io) s fun t =>
          t.kft.ingress = s.kft.ingress ++ [c] ∧ t.slots = s.slots ∧ t.job = s.job ∧ t.hostMem = s.hostMem)))

/-- The exchange between seats (R92, R93, R217, R221 to R223, R227, R230, R234, R241 to R243, R255). A count message leaves
ingress and is kept once, at once checked against a step already reached and otherwise held; a copy that was announced lands,
one that was not faults the job; a work list's entries go to the Spout of their local slot, closed by an empty last entry
where nothing is left; an answer is written to its return slot and marks its copy. A cancel notice is kept once, one for a
duty that is over is answered at once, its acknowledgement goes out when what was listed is answered, and a torn-down slot is
Idle at its generation, its copies' send cells held until acknowledged. Says when these commands complete:
countMessageReceive, cancelNoticeReceive, cancelAckSend, cancelAckReceive, answerReceive, copyLanded, workListEmit,
cancelTeardownComplete. -/
def Obligations.ExchangeRowsComplete : Prop :=
  ∀ (hinge : Nat) (m : CountMsg) (q : CancelMsg) (h : TileHdr) (data : List Byte) (k step ls : Nat) (s : State), Inv s →
    s.rst.rootLost = false →
    let faults := fun (cmd : Instr) (u d : Nat) => Completes cmd s fun t =>
      t.job.st = .faulted ∧ t.dump.fault.unit = u ∧ t.dump.fault.detail = d ∧ t.hostMem = s.hostMem
    (applied s = false →
      exec (.countMessageReceive hinge m) s = .next s ∧ exec (.cancelNoticeReceive hinge q) s = .next s ∧
      exec (.answerReceive hinge h data) s = .next s ∧ exec (.copyLanded hinge h k) s = .next s ∧
      exec (.workListEmit step ls) s = .next s) ∧
    (applied s = true →
      (let d := (dutyAt s m.step).getD (Duty.blank m.step)
       let u := inboxTake m.srcSeat (countMsgBytes m) s
       let old := (d.msg m.srcSeat).isSome = true ∨ d.ended = true ∨ dutyGone s m.step = true
       (old → exec (.countMessageReceive hinge m) s = .next u) ∧
       (¬ old → d.reached = false → Completes (.countMessageReceive hinge m) s fun t =>
         (∃ e, dutyAt t m.step = some e ∧ e.msg m.srcSeat = some m ∧ e.reached = false) ∧ t.job = s.job ∧ t.slots = s.slots ∧
         t.hostMem = s.hostMem ∧
         ((∃ c ∈ t.carafe.cells, c.use = .message m.srcSeat m.step) ∨ ∃ w ∈ t.carafe.waits, w.use = .message m.srcSeat m.step)) ∧
       (¬ old → d.reached = true →
         (m.epoch ≠ d.epoch → faults (.countMessageReceive hinge m) 0x60 (0x0206 + m.epoch % 2 ^ 32 * 2 ^ 16)) ∧
         (m.epoch = d.epoch → m.layer ≠ d.layer → faults (.countMessageReceive hinge m) 0x60 (0x0401 + m.srcSeat % 65536 * 2 ^ 16)) ∧
         (m.epoch = d.epoch → m.layer = d.layer → m.counts.length = (homedAt s d.epoch d.layer (ownSeat s)).length →
           Completes (.countMessageReceive hinge m) s fun t =>
             (∃ e, dutyAt t m.step = some e ∧ e.msg m.srcSeat = some m) ∧ t = { u with duties := t.duties }))) ∧
      (let d := (dutyAt s q.step).getD (Duty.blank q.step)
       let u := inboxTake q.sender (cancelBytes 0x32 q) s
       let early := !d.reached && !dutyGone s q.step
       (d.cancelledBy q.sender = true → exec (.cancelNoticeReceive hinge q) s = .next u) ∧
       (d.cancelledBy q.sender = false → Completes (.cancelNoticeReceive hinge q) s fun t =>
         (∃ e, dutyAt t q.step = some e ∧ e.reached = (d.reached || dutyGone s q.step) ∧
           e.cancels = d.cancels ++ [{ msg := q, early := early, acked := false }]) ∧
         t.job = s.job ∧ t.slots = s.slots ∧ t.hostMem = s.hostMem ∧ (early = false → t = { u with duties := t.duties }))) ∧
      (let i := h.srcSlot
       let va := retVa s (retIdx s.job.desc h.step h.token h.rank)
       let way := answerWay s i h.generation h.step h.token h.rank
       (∀ w, way = .take → hostWrite s 0 va (padTo (pitchOf s.job.desc) (tileHdrBytes h ++ data)) = (w, .ok ()) →
         Completes (.answerReceive hinge h data) s fun t => t.hostMem = w.hostMem ∧
           (∃ c, (slotAt t i).ctx = some c ∧ ∀ y ∈ c.copies, y.token = h.token → y.rank = h.rank → y.answered = true) ∧
           (∀ j, j ≠ i → slotAt t j = slotAt s j) ∧ t = { s with slots := t.slots, hostMem := t.hostMem, keyway := t.keyway }) ∧
       (way = .dup → Completes (.answerReceive hinge h data) s fun t =>
         ctr t 6 = (ctr s 6 + 1) % 2 ^ 64 ∧ t = { s with slots := t.slots, counters := t.counters }) ∧
       (way = .stale → Completes (.answerReceive hinge h data) s fun t =>
         ctr t 5 = (ctr s 5 + 1) % 2 ^ 64 ∧ t = { s with slots := t.slots, counters := t.counters }) ∧
       (way = .bad → faults (.answerReceive hinge h data) (0x20 + hinge) 0x0401)) ∧
      (isAnnounced s h k = false → faults (.copyLanded hinge h k) (0x20 + hinge) 0x0401) ∧
      (∀ d, isAnnounced s h k = true → dutyAt s h.step = some d →
        ((∃ y ∈ d.landed, y.hdr.kind = 0x21 ∧ y.slotIndex = k) → exec (.copyLanded hinge h k) s = .next s) ∧
        (∀ w, (∀ y ∈ d.landed, y.hdr.kind ≠ 0x21 ∨ y.slotIndex ≠ k) → hostWrite s 0 (rxVa s k) (tileHdrBytes h) = (w, .ok ()) →
          Completes (.copyLanded hinge h k) s fun t => t.hostMem = w.hostMem ∧ t.job = s.job ∧ t.slots = s.slots ∧
            ∃ e, dutyAt t h.step = some e ∧ e.landed = d.landed ++
              [{ hdr := { h with kind := 0x21 }, slotIndex := k, listed := false, answered := false }])) ∧
      (∀ d w cap, dutyAt s step = some d → d.reached = true → d.ended = false → ls ∉ d.closed →
        ((localSlots s d.epoch d.layer).find? fun x => decide (x.1 = ls)) = some (w, cap) → Completes (.workListEmit step ls) s fun t =>
          (∃ l, t.spout = s.spout ++ l ∧ (∀ p ∈ l, p.kind = 0x11 ∧ p.step = step ∧ p.layer = d.layer ∧ p.spout = ls % 4) ∧
            ((∀ y ∈ others s, listable s d ls y = none) →
              (slotFinal s d ls = true → l.map (·.entries) = [[emptyEntry s ls]]) ∧ (slotFinal s d ls = false → l = []))) ∧
          t.job = s.job ∧ t.slots = s.slots ∧ t.hostMem = s.hostMem ∧ t.sp = s.sp)) ∧
    (∀ d c, dutyAt s step = some d → (d.cancels.find? fun c => decide (c.msg.sender = k) && !c.acked) = some c →
      (applied s = true → d.reached = true → listedAnswered d k = true → c.early = false ∨ exchangeDone s d = true →
        Completes (.cancelAckSend k step) s fun t => t.job = s.job ∧ t.slots = s.slots ∧ t.hostMem = s.hostMem ∧
          (∃ e, dutyAt t step = some e ∧ ∀ y ∈ e.cancels, y.msg.sender = k → y.acked = true) ∧
          (replayOn s = false → 0 < getP s 0x0342 →
            ∃ y ∈ t.kft.unacked, y.hdr.dstSeat = k ∧ y.hdr.vc = 5 ∧ y.hdr.region = 4)) ∧
      (d.reached = false ∨ listedAnswered d k = false → exec (.cancelAckSend k step) s = .next s)) ∧
    (∀ c, (slotAt s q.srcSlot).ctx = some c →
      let u := if applied s then inboxTake q.sender (cancelBytes 0x33 q) s else s
      (applied s = true → c.cancelled = true → c.gen = q.generation → c.step = q.step → Completes (.cancelAckReceive q) s fun t =>
        (∃ e, (slotAt t q.srcSlot).ctx = some e ∧ e.dests.map (·.seat) = c.dests.map (·.seat) ∧
          ∀ y ∈ e.dests, y.seat = q.sender → y.acked = true ∧ y.retSeq = q.retSeq) ∧ t = { u with slots := t.slots }) ∧
      (c.gen ≠ q.generation ∨ c.step ≠ q.step → exec (.cancelAckReceive q) s = .next u)) ∧
    (∀ c, (slotAt s k).ctx = some c →
      ((slotAt s k).st = .cancelled → applied s = true → tornDown s c = true → Completes (.cancelTeardownComplete k) s fun t =>
        (slotAt t k).st = .idle ∧ (slotAt t k).ctx = none ∧ (slotAt t k).gen = (slotAt s k).gen ∧
        (∀ j, j ≠ k → slotAt t j = slotAt s j) ∧ t.job = { s.job with closeFence := t.job.closeFence } ∧
        t.kft.tileAcks = s.kft.tileAcks ++ tilesOwed s k c ∧
        (∀ o, c.cancelCmd = some o → s.latch.opened.any (fun y => sameCmd y o) = true →
          ∃ r ∈ t.latch.replies, r.tag = o.tag ∧ r.order = o.order ∧ r.status = 0 ∧ r.final = true) ∧
        t.hostMem = s.hostMem) ∧
      ((slotAt s k).st ≠ .cancelled ∨ applied s = false ∨ tornDown s c = false →
        exec (.cancelTeardownComplete k) s = .next s))

/-- GROUP_DEFINE and COLL_POST (R90, R94, R286 to R293, R306). A group's image that passes its checks replaces the group of its
number and no other, with fresh edges, and the reply carries its members; otherwise the status of the first check that fails
comes back and no group changes. A post takes the next sequence number of its group's host queue: while Starting it waits for
the release instant, in brace for its end, and behind a running operation in the queue. Says when these commands complete:
groupDefine, collPost. -/
def Obligations.CollectiveCommandsComplete : Prop :=
  ∀ (p : Packet) (io : Io) (s u w v : State) (b : List Byte),
    let n := s.latch.order
    let o := openOf p n
    let g := p.p0.toNat % 256
    let a := accept p n 0 (takePacket p s)
    (RunsJob 0x30 p s → p.payloadLen.toNat = 0 → g ≠ 0 → entryFree s →
      checkRanges [(1, pVa p, p.p3.toNat, false)] io (takePacket p s) = (u, none) →
      ownRead 1 (pVa p) p.p3.toNat io (accept p n 0 u) = (w, .ok b) →
      (∀ st, groupBad w b g p.p3.toNat = some st → exec (.groupDefine p io) s = .next (finish o st 0 0 0 0 w)) ∧
      (groupBad w b g p.p3.toNat = none → installGroup (groupOf b) w = none →
        exec (.groupDefine p io) s = .next (finish o 0x0302 0 0 0 0 w)) ∧
      (groupBad w b g p.p3.toNat = none → installGroup (groupOf b) w = some v →
        exec (.groupDefine p io) s = .next (finish o 0 (groupOf b).members.length 0 0 0 v) ∧
        groupAt v g = some (groupOf b) ∧ (∀ k, k ≠ g → groupAt v k = groupAt s k) ∧
        (∀ e ∈ v.coll.sent, e.edge.group ≠ g) ∧ (∀ e ∈ v.coll.credits, e.edge.group ≠ g) ∧ v.coll.ops = s.coll.ops ∧
        v.job = s.job ∧ v.hostMem = s.hostMem)) ∧
    (RunsJob 0x31 p s → p.payloadLen.toNat = 64 → ownGroup s g = true → entryFree s →
      (s.job.st = .draining → (groupAt s g).elim false (nextArrived s) = false →
        exec (.collPost p io) s = .next (replyOne p n 0x0201 0 0 0 0 (takePacket p s))) ∧
      (s.job.st = .starting → exec (.collPost p io) s = .next (holdCmd .release p (Ext.ofIo io) n a)) ∧
      (s.job.st = .running → inBrace s = true → exec (.collPost p io) s = .next (holdCmd .brace p (Ext.ofIo io) n a)) ∧
      (s.job.st = .running → inBrace s = false → ∀ gr, groupAt s g = some gr → gr.members.contains (ownSeat s) = true →
        exec (.collPost p io) s = .next (collBegin p io o a) ∧
        (∀ x, (s.coll.ops.find? fun x => decide (x.group = g ∧ x.loopQ = false)) = some x → x.running = true →
          Completes (.collPost p io) s fun t =>
            (∃ y, t.coll.ops = s.coll.ops ++ [y] ∧ y.group = g ∧ y.loopQ = false ∧ y.seq = seqAdd gr.hostSeq 1 ∧
              y.cmd = some o ∧ y.running = false ∧ y.cls = p.cls.toNat) ∧
            groupAt t g = some { gr with hostSeq := seqAdd gr.hostSeq 1 } ∧ t.job = s.job ∧ t.hostMem = s.hostMem)))

/-- Collective operations (R190, R255, R290, R291, R294 to R297, R299, R304, R306). A chunk for a group or definition the member
does not have faults the job, naming the group's Ward core and the sender; any other is staged, and stays while it cannot be
taken. A credit leaves ingress and opens its edge; freed buffers are credited to the edge's sender in one message. An
operation that may start runs; in a ring of one its totals are its own contribution. With every total in, an operation ends:
a host one answers its command ST_OK with the length, a loop one gives its window the sums; a byte that several elements were
written to ends as one of them. No progress for coll.timeout faults the job. Says when these commands complete:
collChunkReceive, collCreditReceive, collTimeout, collOperationComplete, collOperationStart, creditCoalesceExpiry. -/
def Obligations.CollectiveRowsComplete : Prop :=
  ∀ (h : CollHdr) (data : List Byte) (bad : Bool) (e : Edge) (n k : Nat) (q : Bool) (s : State), s.rst.rootLost = false →
    let c : Staged := { hdr := h, data := data, landed := s.kt, adderBad := bad }
    let faults := fun (cmd : Instr) (u d : Nat) => Completes cmd s fun t =>
      t.job.st = .faulted ∧ t.dump.fault.unit = u ∧ t.dump.fault.detail = d ∧ t.hostMem = s.hostMem
    (collLive s = false → exec (.collChunkReceive h data bad) s = .next s ∧ exec (.collCreditReceive e n) s = .next s ∧
      exec (.creditCoalesceExpiry e) s = .next s) ∧
    (collLive s = true →
      (groupAt s h.group = none → faults (.collChunkReceive h data bad) (collUnit h.group) (0x0401 + h.srcSeat % 65536 * 2 ^ 16)) ∧
      (∀ g, groupAt s h.group = some g →
        (h.defCrc ≠ g.defCrc ∨ g.members.contains (ownSeat s) = false ∨ chunkStale s h = true →
          faults (.collChunkReceive h data bad) (collUnit h.group) (0x0401 + h.srcSeat % 65536 * 2 ^ 16)) ∧
        (h.defCrc = g.defCrc → g.members.contains (ownSeat s) = true → chunkStale s h = false → s.coll.staged = [] →
          takeable s c = false →
          exec (.collChunkReceive h data bad) s = .next { s with coll := { s.coll with staged := [c] } })) ∧
      (let u := inboxTake (edgePeer s e) (creditBytes e n) s
       let v := { u with coll := { s.coll with credits := edgeSet s.coll.credits e (edgeGet s.coll.credits e + n) } }
       exec (.collCreditReceive e n) s = .next (chunkPump v) ∧ edgeGet v.coll.credits e = edgeGet s.coll.credits e + n ∧
       (∀ d, d ≠ e → edgeGet v.coll.credits d = edgeGet s.coll.credits d) ∧
       (s.coll.waiting = [] → s.coll.busy = [] → chunkPump v = v)) ∧
      (∀ g m, groupAt s e.group = some g → memberIndex g.members (ownSeat s) = some m → 0 < edgeGet s.coll.freed e →
        Completes (.creditCoalesceExpiry e) s fun t => edgeGet t.coll.freed e = 0 ∧ t.job = s.job ∧ t.slots = s.slots ∧
          (replayOn s = false → 0 < getP s 0x0342 → ∃ y ∈ t.kft.unacked, y.hdr.vc = 5 ∧ y.hdr.region = 4 ∧
            y.hdr.dstSeat = g.peer m (e.level + 1) (g.ext (e.level + 1) - 1))) ∧
      (edgeGet s.coll.freed e = 0 → exec (.creditCoalesceExpiry e) s = .next s)) ∧
    (opHead s k q = none → exec (.collOperationStart k q) s = .next s) ∧
    (∀ o, opHead s k q = some o →
      (opReady s o = false → exec (.collOperationStart k q) s = .next s) ∧
      (opReady s o = true → exec (.collOperationStart k q) s = .next (opStart o s) ∧
        ∀ g m, groupAt s o.group = some g → g.extents = [1, 1, 1] → 1 ≤ g.nLevels → g.nLevels ≤ 3 →
          memberIndex g.members (ownSeat s) = some m → s.coll.staged = [] → o.loopQ = true → o.dynamic = false →
          o.own ≠ [] → o.own.length < 2 ^ 32 → Completes (.collOperationStart k q) s fun t =>
            (∃ x ∈ t.coll.ops, sameOp x o = true ∧ x.running = true ∧ x.agreed = some o.own.length ∧ missingKeys g x = []) ∧
            t.job = s.job ∧ t.hostMem = s.hostMem ∧ t.slots = s.slots)) ∧
    (∀ o g, opRunning s k q = some o → groupAt s k = some g →
      (∀ m x r, memberIndex g.members (ownSeat s) = some m → collLive s = true → missingKeys g o = x :: r →
        faults (.collTimeout k q) (collUnit k)
          (0x0405 + g.peer m (awaitedLevel g o x) (g.ext (awaitedLevel g o x) - 1) * 2 ^ 16)) ∧
      (∀ l, o.agreed = some l → collLive s = true → missingKeys g o = [] →
        (∀ x ∈ s.coll.ops, sameOp x o = true → x = o) → Completes (.collOperationComplete k q .ok) s fun t =>
        (∀ x ∈ t.coll.ops, sameOp x o = false) ∧ t.job = { s.job with closeFence := t.job.closeFence } ∧
        t.hostMem = (settleTwice (totalWrites o (opElems g o) (chunkCount g o l) s).log.reverse s).hostMem ∧
        (o.loopQ = true → t.hostMem = s.hostMem) ∧
        (∀ c, o.cmd = some c → t.bias = s.bias ∧ (s.latch.opened.any (fun x => sameCmd x c) = true →
          ∃ r ∈ t.latch.replies, r.tag = c.tag ∧ r.order = c.order ∧ r.status = 0 ∧ r.r0 = l ∧ r.final = true)) ∧
        (o.cmd = none → ∀ y ∈ t.bias.wins, y.w % 2 ^ 32 = o.seq → ∃ x ∈ s.bias.wins, x.w = y.w ∧
          y.sums = x.sums ++ splitSums o.counts (allTotals o (chunkCount g o l)))) ∧
      (o.agreed = none ∨ missingKeys g o ≠ [] → exec (.collOperationComplete k q .ok) s = .next s)) ∧
    (opRunning s k q = none → exec (.collTimeout k q) s = .next s ∧ exec (.collOperationComplete k q .ok) s = .next s)

/-- The start barrier, leaf calibration and the release instant (R90, R255, R277, R279, R384 to R388). A notice leaves ingress;
before JOB_START it is kept; while Starting one of another start is counted, go is held and forwarded once, and a child's
report is noted. The window holds the slew; the reference answers a request on the link it came by, its stamps corrected to
the lane pins; a reply adds an exchange, of four at most. At the release instant a member that holds go is Running and
JOB_START ends ST_OK at that instant; one that does not is Open again, with ST_TIMEOUT, and what was held ends ST_JOB_STATE.
How the offset rounds, and four requests with one stamp, are the model's (log 17). Says when these commands complete:
startBarrierNotice, calibrationRequest, calibrationReply, calibrationWindow, releaseInstant. -/
def Obligations.BarrierRowsComplete : Prop :=
  ∀ (m : Notice) (link deskew t2 t3 : Nat) (s : State), s.rst.rootLost = false →
    let mine := m.release = s.job.release ∧ m.listCrc = s.job.listCrc
    let u := noticeCame m s
    let opened := fun (c : OpenCmd) => s.latch.opened.any (fun x => sameCmd x c) = true
    (s.job.st = .opened → ¬ (m.kind = 0x52 ∧ m.release = s.job.release ∧ s.job.release ≠ 0) →
      exec (.startBarrierNotice m) s = .next { u with barrier := { s.barrier with early := s.barrier.early ++ [m] } }) ∧
    (s.job.st = .starting →
      (¬ mine → exec (.startBarrierNotice m) s = .next (ctrInc 9 u) ∧
        exec (.calibrationRequest link deskew m t2 t3) s = .next (ctrInc 9 u) ∧
        exec (.calibrationReply link deskew m t2) s = .next (ctrInc 9 u)) ∧
      (mine → m.kind = 0x52 → Completes (.startBarrierNotice m) s fun t =>
        t.barrier.go = true ∧ t.job = s.job ∧ t.slots = s.slots ∧ (s.barrier.go = true → t = u)) ∧
      (mine → m.kind = 0x51 → m.sender ∈ childSeats s (ownIndex s) → Completes (.startBarrierNotice m) s fun t =>
        m.sender ∈ t.barrier.reports ∧ t.job = s.job ∧
        ((∀ c ∈ childSeats s (ownIndex s), c = m.sender ∨ c ∈ s.barrier.reports) → s.barrier.reported = false →
          t.barrier.reported = true ∧ (ownIndex s = 0 → t.barrier.go = true)))) ∧
    (s.job.st = .running → mine → exec (.startBarrierNotice m) s = .next u) ∧
    (s.job.st = .running → ¬ mine → exec (.startBarrierNotice m) s = .next (ctrInc 9 u)) ∧
    (s.job.st = .draining ∨ s.job.st = .faulted ∨ s.job.st = .closed → exec (.startBarrierNotice m) s = .next u) ∧
    (s.job.st = .starting → s.ptp.slewHeld = false → ∀ g i, leafGroup s = some (g, i) → Completes (.calibrationWindow t2) s fun t =>
      t.ptp = { s.ptp with slewHeld := true } ∧ t.job = s.job ∧ t.barrier = s.barrier ∧ (g.digit i 1 = 0 → t.kft = s.kft) ∧
      (g.digit i 1 ≠ 0 → replayOn s = false → 0 < getP s 0x0342 → ∃ y ∈ t.kft.unacked,
        y.hdr.vc = 5 ∧ y.hdr.region = 4 ∧ y.hdr.dstSeat = g.peer i 1 (g.ext 1 - g.digit i 1))) ∧
    (leafGroup s = none → exec (.calibrationWindow t2) s = .next s) ∧
    (s.job.st = .starting → mine →
      (∀ g i, leafGroup s = some (g, i) → g.digit i 1 = 0 →
        let v := { u with barrier := { s.barrier with
          calFrom := (m.sender, link) :: s.barrier.calFrom.filter fun x => decide (x.1 ≠ m.sender) } }
        let n := { ownNotice s 0x54 with t1 := m.t1, t2 := calTime (linkStamp s link t2 deskew), t3 := calSent s link t3 }
        exec (.calibrationRequest link deskew m t2 t3) s = .next (noticeSend m.sender n v) ∧
        Completes (.calibrationRequest link deskew m t2 t3) s fun t => t.barrier = v.barrier ∧ t.job = s.job ∧
          (replayOn s = false → 0 < getP s 0x0342 → ∃ y ∈ t.kft.unacked,
            y.hdr.vc = 5 ∧ y.hdr.region = 4 ∧ y.hdr.dstSeat = m.sender)) ∧
      (s.ptp.slewHeld = true → Completes (.calibrationReply link deskew m t2) s fun t =>
        t.barrier.cal = (s.barrier.cal ++ [(m.t1, m.t2, m.t3, calTime (linkStamp s link t2 deskew))]).take 4 ∧
        t.barrier.offset = calOffset t.barrier.cal ∧
        t = { u with barrier := { s.barrier with cal := t.barrier.cal, offset := t.barrier.offset } })) ∧
    (s.job.st = .starting → s.barrier.go = true →
      exec .releaseInstant s = .next (enterRunning s) ∧
      ((∀ h ∈ s.latch.held, h.why ≠ .release) → Completes .releaseInstant s fun t =>
        t.job = { s.job with st := .running, startCmd := none } ∧ t.ptp.slewHeld = false ∧ t.barrier.go = false ∧ t.kt = s.kt ∧
        (∀ c, s.job.startCmd = some c → opened c → ∃ r, t.latch.replies.getLast? = some r ∧ r.tag = c.tag ∧ r.status = 0 ∧
          r.kt = s.job.release ∧ r.final = true) ∧ t.slots = s.slots ∧ t.hostMem = s.hostMem)) ∧
    (s.job.st = .starting → s.barrier.go = false → Completes .releaseInstant s fun t =>
      t.job = { s.job with st := .opened, startCmd := none } ∧ t.kft.ingress = [] ∧ t.ptp.slewHeld = false ∧
      (∀ h ∈ t.latch.held, h.why ≠ .release) ∧
      (∀ c, s.job.startCmd = some c → opened c →
        ∃ r ∈ t.latch.replies, r.tag = c.tag ∧ r.order = c.order ∧ r.status = 0x0405 ∧ r.final = true) ∧
      (∀ h ∈ s.latch.held, h.why = .release → h.cmd.opcode.toNat ≠ 0x23 → opened (openOf h.cmd h.order) →
        (∀ g ∈ s.latch.held, g.order = h.order → g = h) → (∀ c, s.job.startCmd = some c → c.order ≠ h.order) →
        ∃ r ∈ t.latch.replies, r.tag = h.cmd.tag.toNat ∧ r.order = h.order ∧ r.status = 0x0201 ∧ r.final = true) ∧
      t.slots = s.slots) ∧
    (s.job.st ≠ .starting → exec .releaseInstant s = .next s)

/-- A frame at ingress, and its application (R245, R247, R251, R255 to R258, R267, R277, R282). A Hinge out of service takes
nothing; a PAUSE frame is counted and dropped; the first check that fails counts on the Hinge and drops the frame; an
acknowledgement, nack, management or PTP frame passes to its own row. An admitted chunk waits in ingress; a duplicate is
acknowledged again; one beyond the window, with a bad CRC or outside its region gets the nack of its code; without PFC one
that finds the buffer full is dropped. An applied chunk leaves ingress, moves its space's cumulative point, and writes
exactly its bytes; a whole message waits in its cells for its row. Says when these commands complete: kftFrameReceive,
kftChunkApply. -/
def Obligations.FrameReceiveAndApplyComplete : Prop :=
  ∀ (hinge link : Nat) (f : Frame) (src vc seq : Nat) (io : Io) (s : State), s.rst.rootLost = false →
    let h := f.hdr
    let u := ctrInc (hingeCtr hinge 14) (ctrAdd (hingeCtr hinge 16) f.bytes (fecCount (4 * hinge + link) f s))
    let got := fun (t : State) => exec (.kftFrameReceive hinge link f) s = .next t
    let c : RxChunk := { hinge := hinge, link := 4 * hinge + link, pcp := f.pcp % 8, hdr := h, payload := f.payload }
    (8 ≤ hinge ∨ 4 ≤ link ∨ domState s (5 + hinge) ≠ .inService → got s) ∧
    (hinge < 8 → link < 4 → domState s (5 + hinge) = .inService →
      (isPause f = true → got (ctrInc (hingeCtr hinge 12) u)) ∧
      (∀ k, isPause f = false → frameBad u hinge f = some k → got (ctrInc (hingeCtr hinge k) u)) ∧
      (isPause f = false → frameBad u hinge f = none →
        (f.ethertype = 0x88F7 → got u) ∧
        (f.ethertype ≠ 0x88F7 → h.vc = 0 → got (pnSeen f u)) ∧
        (f.ethertype ≠ 0x88F7 → h.vc ≠ 0 →
          (∀ k, jobBad u f = some k → k ≠ 8 → got (ctrInc (hingeCtr hinge k) u)) ∧
          (jobBad u f = some 8 → got (ctrInc (hingeCtr hinge 8) (stateDrop f u))) ∧
          (jobBad u f = none → isCtl h = true → got u) ∧
          (jobBad u f = none → isCtl h = false → h.ackValid = false →
            (alreadyApplied u h.srcSeat h.vc h.seq = true →
              (acksSent u = true → got (sendAck h.srcSeat h.vc h.pathEpoch u)) ∧ (acksSent u = false → got u)) ∧
            (alreadyApplied u h.srcSeat h.vc h.seq = false →
              (inWindow u h.srcSeat h.vc h.seq = false → got (sendNack h 5 hinge (ctrInc (hingeCtr hinge 10) u))) ∧
              (inWindow u h.srcSeat h.vc h.seq = true →
                (rxFull u hinge f = true → got (ctrInc (hingeCtr hinge 11) u)) ∧
                (rxFull u hinge f = false → (∀ x ∈ s.kft.ingress, x.is h.srcSeat h.vc h.seq = false) → s.kft.flags = [] →
                  (h.chunkCrc ≠ crc32c f.payload → got (sendNack h 1 hinge u)) ∧
                  (h.chunkCrc = crc32c f.payload → regionHolds u h f.payload.length = false → got (sendNack h 2 hinge u)) ∧
                  (h.chunkCrc = crc32c f.payload → regionHolds u h f.payload.length = true →
                    Completes (.kftFrameReceive hinge link f) s fun t =>
                      t.kft.ingress = s.kft.ingress ++ [c] ∧ t.kft.rx = s.kft.rx ∧
                      ((∃ y ∈ t.carafe.cells, y.use = .arrival h.srcSeat h.vc h.seq) ∨ cellWaits t c = true) ∧
                      t.job = s.job ∧ t.slots = s.slots ∧ t.hostMem = s.hostMem ∧ t.sp = s.sp)))))))) ∧
    (s.kft.ingress.find? (RxChunk.is src vc seq) = none → exec (.kftChunkApply src vc seq io) s = .next s) ∧
    (∀ x, s.kft.ingress.find? (RxChunk.is src vc seq) = some x →
      (alreadyApplied s src vc seq = true → exec (.kftChunkApply src vc seq io) s = .next (ingressDrop src vc seq s)) ∧
      (alreadyApplied s src vc seq = false →
        (appliesNow s x = false → exec (.kftChunkApply src vc seq io) s = .next s) ∧
        (appliesNow s x = true → exec (.kftChunkApply src vc seq io) s = .next (chunkApply x io s)) ∧
        (∀ w, appliesNow s x = true → vc = 1 → x.hdr.region = 0 →
          hostWrite s 0 (getP s 0x0508 + x.hdr.offset) x.payload = (w, .ok ()) →
          Completes (.kftChunkApply src vc seq .ok) s fun t =>
            t.hostMem = w.hostMem ∧ (∀ y ∈ t.kft.ingress, y.is src vc seq = false) ∧ t.job = s.job ∧ t.slots = s.slots ∧
            ((rxSpace s src vc).sacks = [] → seq = (rxSpace s src vc).cum + 1 → seq < 2 ^ 32 → (rxSpace t src vc).cum = seq)) ∧
        (appliesNow s x = true → vc = 5 → x.hdr.region = 4 → x.hdr.msgChunks ≤ 1 →
          (∀ y ∈ s.kft.msgs, y.hdr.srcSeat ≠ src ∨ y.hdr.vc ≠ 5 ∨ y.hdr.msgSeq ≠ x.hdr.msgSeq) →
          Completes (.kftChunkApply src vc seq io) s fun t =>
            (∀ y ∈ t.kft.ingress, y.is src vc seq = false) ∧ t.hostMem = s.hostMem ∧ t.job = s.job ∧ t.slots = s.slots ∧
            t.kft.inbox = s.kft.inbox ++ [{ src := src, vc := 5, seqs := [seq], bytes := x.payload }])))

/-- Acknowledgements, nacks and timers of the transport (R258 to R264). An acknowledgement of a member moves the cumulative point
and settles every chunk it covers; a nack counts on the Hinge it came by and acts by its code; an acknowledgement owed goes
out when its delay expires, or waits for a link; a timeout queues the chunk again for another link where one is left, with
twice its timeout; a link's holdoff for a destination ends. Counting a timeout with no link as a transmission is the model's
reading (log 5). Says when these commands complete: kftAckReceive, kftNackReceive, kftAckDelayExpiry, kftRetransmitTimeout,
pathHoldoffExpiry. -/
def Obligations.AcksNacksAndTimersComplete : Prop :=
  ∀ (h : KftHdr) (dst vc seq link : Nat) (s : State), s.rst.rootLost = false →
    let faults := fun (cmd : Instr) (u d : Nat) => Completes cmd s fun t =>
      t.job.st = .faulted ∧ t.dump.fault.unit = u ∧ t.dump.fault.detail = d
    let in_ := bits h.pathId 4 2
    let n := ctrInc (hingeCtr in_ 19) s
    (acksSent s = false ∨ (others s).contains h.srcSeat = false →
      exec (.kftAckReceive h) s = .next s ∧ exec (.kftNackReceive h) s = .next s) ∧
    (acksSent s = true → (others s).contains h.srcSeat = true →
      (h.ackValid = false → exec (.kftAckReceive h) s = .next s) ∧
      (h.ackValid = true →
        let v := if h.pathEpoch = (pathOf s h.srcSeat).epoch then
            { s with kft := { s.kft with misses := s.kft.misses.filter fun m => decide (m.dst ≠ h.srcSeat) } }
          else s
        let u := takeCoverage h.srcSeat h.ackVc h.ackSeq (sackSeqs h.ackSeq h.operand0 h.operand1) v
        exec (.kftAckReceive h) s = .next (ackFollow h.srcSeat (fastResend h.srcSeat h.ackVc u)) ∧
        (serialLt 32 (txSpace s h.srcSeat h.ackVc).ack h.ackSeq = true → serialLt 32 h.ackSeq (txSpace s h.srcSeat h.ackVc).next = true →
          (txSpace u h.srcSeat h.ackVc).ack = h.ackSeq) ∧
        (serialLt 32 h.ackSeq (txSpace s h.srcSeat h.ackVc).ack = true →
          (txSpace u h.srcSeat h.ackVc).ack = (txSpace s h.srcSeat h.ackVc).ack) ∧
        (∀ y ∈ u.kft.unacked, y.hdr.dstSeat = h.srcSeat → y.hdr.vc = h.ackVc → covered u h.srcSeat h.ackVc y.hdr.seq = false) ∧
        u.slots = s.slots ∧ u.hostMem = s.hostMem ∧ u.sp = s.sp) ∧
      (h.ackValid = false →
        (chunkAt s h.srcSeat h.ackVc (h.operand0 % 2 ^ 32) = none → exec (.kftNackReceive h) s = .next n) ∧
        (∀ c, chunkAt s h.srcSeat h.ackVc (h.operand0 % 2 ^ 32) = some c →
          (h.nackCode = 1 → c.crcNacks + 1 < getP s 0x0347 → exec (.kftNackReceive h) s =
            .next (resend { c with crcNacks := c.crcNacks + 1 } (putChunk { c with crcNacks := c.crcNacks + 1 } n))) ∧
          (h.nackCode = 1 → getP s 0x0347 ≤ c.crcNacks + 1 → faults (.kftNackReceive h) (0x20 + c.link / 4) 0x0406) ∧
          (h.nackCode = 2 ∨ h.nackCode = 3 ∨ h.nackCode = 4 →
            faults (.kftNackReceive h) (0x20 + c.link / 4) (0x0401 + c.hdr.dstSeat % 65536 * 2 ^ 16)) ∧
          (h.nackCode = 5 → exec (.kftNackReceive h) s = .next (putChunk { c with again := true } n)) ∧
          (h.nackCode = 0 ∨ 5 < h.nackCode → exec (.kftNackReceive h) s = .next n)))) ∧
    (let r := rxSpace s dst vc
     acksSent s = true → r.owed ≠ [] → Completes (.kftAckDelayExpiry dst vc) s fun t =>
      (rxSpace t dst vc).owed = (owedAfter r).filter (fun q => decide (128 < (q + 2 ^ 32 - r.cum) % 2 ^ 32)) ∧
      (rxSpace t dst vc).cum = r.cum ∧ t.job = s.job ∧ t.slots = s.slots ∧ t.hostMem = s.hostMem ∧
      (replayOn s = false → ∃ a, (a ∈ t.kft.ctl ∨ ∃ w ∈ t.kft.ctlWait, w.hdr = a) ∧ a.op = 3 ∧ a.dstSeat = dst ∧ a.ackVc = vc ∧
        a.ackSeq = r.cum)) ∧
    (acksSent s = false ∨ (rxSpace s dst vc).owed = [] → exec (.kftAckDelayExpiry dst vc) s = .next s) ∧
    (chunkAt s dst vc seq = none → exec (.kftRetransmitTimeout dst vc seq) s = .next s) ∧
    (∀ c, chunkAt s dst vc seq = some c → s.job.st ≠ .faulted → s.job.st ≠ .closed → 0 < c.tries → exhausted s c = false →
      let u := missCount c.link dst s
      let wait := min (2 * c.timeout) (8 * ticksOf (curP s 0x0345))
      Completes (.kftRetransmitTimeout dst vc seq) s fun t => t.job = s.job ∧ t.slots = s.slots ∧ t.hostMem = s.hostMem ∧
        ∃ y, chunkAt t dst vc seq = some y ∧ y.payload = c.payload ∧
          (c.queued = false →
            (y.queued = false → y.tries = c.tries + 1 ∧ y.lastKt = s.kt ∧ y.timeout = wait) ∧
            (chunkLinks u c = [] → y.queued = true ∧ y.tries = c.tries + 1 ∧ y.timeout = wait) ∧
            (∀ k, nextLink (chunkLinks u c) (pathOf u dst).last (some c.link) = some k → s.kft.ctlWait = [] →
              (∀ x ∈ s.kft.unacked, x.queued = false) →
              (s.kft.unacked.filter fun x => decide (x.hdr.dstSeat = dst ∧ x.hdr.vc = vc ∧ x.hdr.seq = seq)) = [c] →
              y.link = k))) ∧
    (s.kft.unusable.contains (link, dst) = true → Completes (.pathHoldoffExpiry link dst) s fun t =>
      (∀ x, x ∈ t.kft.unusable ↔ x ∈ s.kft.unusable ∧ x ≠ (link, dst)) ∧
      (pathOf t dst).epoch = (if link ∈ upLinks s then ((pathOf s dst).epoch + 1) % 256 else (pathOf s dst).epoch) ∧
      t.job = s.job ∧ t.links = s.links) ∧
    (s.kft.unusable.contains (link, dst) = false → exec (.pathHoldoffExpiry link dst) s = .next s)

/-- A chunk sent kft.retry_max + 1 times without acknowledgement (R261): at its next time-out the job ends with the fatal
EV_FAULT, ST_TIMEOUT, the Hinge that last sent it, and the destination seat in detail [31:16]. Says when these commands
complete: kftRetransmitTimeout. -/
def Obligations.RetriesExhaustedEndTheJob : Prop :=
  ∀ (dst vc seq : Nat) (c : TxChunk) (s : State), s.rst.rootLost = false → chunkAt s dst vc seq = some c →
    s.job.st ≠ .closed → s.job.st ≠ .faulted → c.tries = getP s 0x0346 + 1 → dst < 65536 →
    Completes (.kftRetransmitTimeout dst vc seq) s fun t =>
      t.job.st = .faulted ∧ ∃ e, (e ∈ t.ev.fatal ∨ e ∈ t.ev.waitFatal) ∧ e.code = 1 ∧ e.fatal = true ∧
        e.unit = 0x20 + c.link / 4 ∧ e.detail % 2 ^ 16 = 0x0405 ∧ e.detail / 2 ^ 16 = dst

/-- Remote memory and the Ward's instructions (R258, R270 to R274, R307, R313, R406). At its home seat a load is answered from
the window, a store writes exactly its bytes, a flag store waits for all before it in its space, and an atomic replaces one
aligned word and answers the old one; outside the window or misaligned they change nothing. A Ward load that hits the cache
is done at once, a miss asks for its line and switches its thread out, as the other accesses do; a response completes the
access of its seat; an invalidation leaves no line that overlaps. Whom a poisoned word read by them faults is the model's
choice (log 95). Says when these commands complete: remoteLoad, remoteStore, flagStore, remoteAtomic, loadResponseReceive,
rld, rstr, rstf, ramo, rinv. -/
def Obligations.WardAndRemoteRowsComplete : Prop :=
  ∀ (src seq tag off core thread seat len : Nat) (data : List Byte) (s : State), s.rst.rootLost = false →
    let base := getP s 0x0341
    let quiet := s.kft.ingress = [] ∧ s.kft.flags = [] ∧ ∀ h ∈ s.carafe.cells, h.use ≠ .arrival src 4 seq
    let same := fun (t : State) => t.job = s.job ∧ t.slots = s.slots ∧ t.hostMem = s.hostMem ∧ t.kft.rcache = s.kft.rcache
    let poisoned := fun (cmd : Instr) (u : Nat) => Completes cmd s fun t =>
      t.job.st = .faulted ∧ t.dump.fault.unit = u ∧ t.dump.fault.detail = 0x0406 ∧ t.sp = s.sp
    let switched := fun (t : State) => ctr t (923 + core) = (ctr s (923 + core) + 1) % 2 ^ 64
    (homeTakes s src seq = false → exec (.remoteLoad src seq tag off len) s = .next s ∧
      exec (.remoteStore src seq off data) s = .next s ∧ exec (.flagStore src seq off data) s = .next s ∧
      ∀ aop w a b, exec (.remoteAtomic src seq tag aop w off a b) s = .next s) ∧
    (homeTakes s src seq = true → quiet →
      (off + len ≤ winBytes →
        (spPoisoned s (base + off) len = false → Completes (.remoteLoad src seq tag off len) s fun t => same t ∧ t.sp = s.sp ∧
          (replayOn s = false → ∃ y ∈ t.kft.unacked, y.hdr.dstSeat = src ∧ y.hdr.vc = 4 ∧ y.hdr.region = 5 ∧
            y.hdr.operand0 = tag % 65536 ∧ y.payload = spRead s (base + off) len)) ∧
        (spPoisoned s (base + off) len = true → poisoned (.remoteLoad src seq tag off len) 0x20)) ∧
      (off + data.length ≤ winBytes →
        (Completes (.remoteStore src seq off data) s fun t => same t ∧ t.sp = (spWrite (base + off) data s).sp) ∧
        (serialLe 32 (seq + 2 ^ 32 - 1) (rxSpace s src 4).cum = true → Completes (.flagStore src seq off data) s fun t =>
          same t ∧ t.sp = (spWrite (base + off) data s).sp ∧ t.kft.flags = []) ∧
        (serialLe 32 (seq + 2 ^ 32 - 1) (rxSpace s src 4).cum = false → Completes (.flagStore src seq off data) s fun t =>
          same t ∧ t.sp = s.sp ∧ ∃ g, t.kft.flags = [g] ∧ g.src = src ∧ g.seq = seq ∧ g.off = off ∧ g.data = data)) ∧
      (winBytes < off + len → Completes (.remoteLoad src seq tag off len) s fun t => same t ∧ t.sp = s.sp) ∧
      (winBytes < off + data.length → (Completes (.remoteStore src seq off data) s fun t => same t ∧ t.sp = s.sp) ∧
        Completes (.flagStore src seq off data) s fun t => same t ∧ t.sp = s.sp) ∧
      (∀ aop w a b, let n := if w = 0 then 4 else 8
        (off + n ≤ winBytes → off % n = 0 →
          (spPoisoned s (base + off) n = false → Completes (.remoteAtomic src seq tag aop w off a b) s fun t => same t ∧
            t.sp = (spWrite (base + off) (leBytes n (atomicNew aop (8 * n) (leNat (spRead s (base + off) n)) a b)) s).sp ∧
            (replayOn s = false → ∃ y ∈ t.kft.unacked, y.hdr.dstSeat = src ∧ y.hdr.vc = 4 ∧ y.hdr.region = 5 ∧
              y.hdr.operand0 = tag % 65536 ∧ y.payload = leBytes n (leNat (spRead s (base + off) n)))) ∧
          (spPoisoned s (base + off) n = true → poisoned (.remoteAtomic src seq tag aop w off a b) 0x20)) ∧
        (winBytes < off + n ∨ off % n ≠ 0 → Completes (.remoteAtomic src seq tag aop w off a b) s fun t => same t ∧ t.sp = s.sp))) ∧
    (wardTakes s core thread seat = false → exec (.rld core thread len seat off) s = .next s ∧
      exec (.rstr core thread seat off tag len) s = .next s ∧ (∀ v, exec (.rstf core thread seat off len v) s = .next s) ∧
      ∀ aop w a b, exec (.ramo core thread aop w seat off a b) s = .next s) ∧
    (wardTakes s core thread seat = true → off < 2 ^ 48 →
      (len ∈ [4, 8, 64, 256] → off % len = 0 → storeOverlaps s seat off len = false →
        (∀ l, cacheLine s seat (off / 256 * 256) = some l → exec (.rld core thread len seat off) s =
          .next (wardDone core thread (slice l.data (off % 256) len) s)) ∧
        (cacheLine s seat (off / 256 * 256) = none → Completes (.rld core thread len seat off) s fun t => same t ∧
          (∃ r, t.kft.loads = s.kft.loads ++ [r] ∧ r.core = core ∧ r.thread = thread ∧ r.seat = seat ∧ r.off = off ∧
            r.size = len ∧ r.atomic = false ∧ r.issued = true) ∧ switched t)) ∧
      (len ∈ [4, 8, 64, 256] → off % len = 0 → storeOverlaps s seat off len = true → Completes (.rld core thread len seat off) s fun t =>
        ∃ r, t.kft.loads = s.kft.loads ++ [r] ∧ r.issued = false ∧ r.core = core ∧ t = { s with kft := { s.kft with loads := t.kft.loads } }) ∧
      (0 < len → spPoisoned s tag len = true → poisoned (.rstr core thread seat off tag len) (0x50 + core)) ∧
      (0 < len → 0 < getP s 0x0342 → spPoisoned s tag len = false → s.kft.loads = [] →
        Completes (.rstr core thread seat off tag len) s fun t => t.sp = s.sp ∧ t.job = s.job ∧
          t.hostMem = s.hostMem ∧ t.kft.loads = [] ∧ t.kft.rcache = (cacheStore seat off (spRead s tag len) s).kft.rcache ∧
          (txSpace t seat 4).next =
            ((txSpace s seat 4).next + (splitEvery (getP s 0x0342) (spRead s tag len)).length) % 2 ^ 32 ∧ switched t) ∧
      (len = 4 ∨ len = 8 → off % len = 0 → s.kft.loads = [] → ∀ v, Completes (.rstf core thread seat off len v) s fun t =>
        t.sp = s.sp ∧ t.job = s.job ∧ switched t ∧ (replayOn s = false → ∃ y ∈ t.kft.unacked,
          y.hdr.dstSeat = seat ∧ y.hdr.vc = 4 ∧ y.hdr.flag = true ∧ y.hdr.offset = off ∧ y.payload = leBytes len v)) ∧
      (∀ aop w a b, storeOverlaps s seat off (if w = 0 then 4 else 8) = false → Completes (.ramo core thread aop w seat off a b) s fun t =>
        t.sp = s.sp ∧ t.job = s.job ∧ (∀ l ∈ t.kft.rcache, l.seat = seat → l.off ≠ off / 256 * 256) ∧ switched t ∧
        ∃ r, t.kft.loads = s.kft.loads ++ [r] ∧ r.atomic = true ∧ r.issued = true ∧ r.core = core ∧ r.thread = thread)) ∧
    (core < 16 → thread < 8 → wardBusy s core thread = false → ∀ all, Completes (.rinv core thread all seat off len) s fun t =>
      let lo := if len = 0 then 0 else off
      let n := if len = 0 then winBytes else min len (winBytes - off)
      (∀ l, l ∈ t.kft.rcache ↔ l ∈ s.kft.rcache ∧ ¬ ((all = true ∨ l.seat = seat) ∧ l.off < lo + n ∧ lo < l.off + 256)) ∧
      t = { s with kft := { s.kft with rcache := t.kft.rcache, loads := t.kft.loads } }) ∧
    (applied s = true →
      (∀ r, loadOf s src tag = some r → Completes (.loadResponseReceive src tag data) s fun t =>
        t.kft.loads = s.kft.loads.erase r ∧
        (∃ x ∈ t.kft.ward, x.core = r.core ∧ x.thread = r.thread ∧
          (r.atomic = true → x.data = padTo r.size data) ∧
          (r.atomic = false → x.data = slice (padTo 256 data) (r.off - r.off / 256 * 256) r.size)) ∧
        (r.atomic = false → r.install = true → ∃ l ∈ t.kft.rcache, l.seat = r.seat ∧ l.off = r.off / 256 * 256 ∧ l.data = padTo 256 data) ∧
        t = { s with kft := t.kft }) ∧
      (loadOf s src tag = none → exec (.loadResponseReceive src tag data) s = .next s)) ∧
    (applied s = false → exec (.loadResponseReceive src tag data) s = .next s)

/-- FENCE, REMOTE_INVAL, POOL_CONFIG, and Carafe's grant and list error (R267, R268, R274, R320, R323, R324, R326, R327). A fence
whose every destination has reached its point ends at once, and otherwise is kept with its points. A pool is laid out
ascending with none of its cells held, and no other pool changes. A grant gives the waiting request of the highest class, and
of those the oldest, a cell of the smallest pool it may take; a list error rebuilds the list from the cells held, counts, and
faults the job; a lost entry of the side table is remembered and faults it. Says when these commands complete: fence,
poolConfig, remoteInval, carafeGrant, carafeListError. -/
def Obligations.FenceInvalAndPoolsComplete : Prop :=
  ∀ (p : Packet) (io : Io) (pool a : Nat) (s u : State), Inv s →
    let n := s.latch.order
    let o := openOf p n
    let last := fun (t : State) => ∃ r, t.latch.replies.getLast? = some r ∧ r.tag = p.tag.toNat ∧ r.status = 0 ∧ r.final = true
    (RunsJob 0x32 p s → p.payloadLen.toNat = 0 → entryFree s → (∀ f ∈ s.kft.fences, ∀ c, f.cmd = some c → c.order ≠ n) →
      (fenceSeats s p = none → exec (.fence p) s = .next (replyOne p n 0x0106 0 0 0 0 (takePacket p s))) ∧
      (∀ seats, fenceSeats s p = some seats → Completes (.fence p) s fun t =>
        ((∀ d ∈ seats, ∀ v ∈ fenceVcs p, (txSpace s d v).next = 1 ∧ (txSpace s d v).ack = 0 ∨
            serialLe 32 (((txSpace s d v).next + 2 ^ 32 - 1) % 2 ^ 32) (txSpace s d v).ack = true) → last t) ∧
        ((∃ d ∈ seats, ∃ v ∈ fenceVcs p, ¬ ((txSpace s d v).next = 1 ∧ (txSpace s d v).ack = 0) ∧
            serialLe 32 (((txSpace s d v).next + 2 ^ 32 - 1) % 2 ^ 32) (txSpace s d v).ack = false) →
          ∃ f ∈ t.kft.fences, f.cmd = some o) ∧
        t.kft.tx = s.kft.tx ∧ t.kft.unacked = s.kft.unacked ∧ t.slots = s.slots ∧ t.hostMem = s.hostMem ∧ t.sp = s.sp)) ∧
    (Runs 0x48 p s → p.payloadLen.toNat = 0 → Completes (.remoteInval p) s fun t => last t ∧
      let lo := if p.p3.toNat = 0 then 0 else p.p1.toNat
      let k := if p.p3.toNat = 0 then winBytes else min p.p3.toNat (winBytes - p.p1.toNat)
      (∀ l, l ∈ t.kft.rcache ↔ l ∈ s.kft.rcache ∧
        ¬ ((bit p.p0.toNat 16 = true ∨ l.seat = p.p0.toNat % 65536) ∧ l.off < lo + k ∧ lo < l.off + 256)) ∧
      t.kft.unacked = s.kft.unacked ∧ t.job = s.job ∧ t.sp = s.sp ∧ t.hostMem = s.hostMem) ∧
    (let c := p.p0.toNat % 16
     Runs 0x44 p s → p.payloadLen.toNat = 0 → entryFree s → poolRange s c (pVa p) p.p3.toNat = true →
      (jobExists s = true → exec (.poolConfig p io) s = .next (replyOne p n 0x0201 0 0 0 0 (takePacket p s))) ∧
      (jobExists s = false →
        checkRanges (if 4 ≤ c ∧ p.p3.toNat ≠ 0 then [(0, pVa p, p.p3.toNat * 65536, true)] else []) io (takePacket p s) = (u, none) →
        Completes (.poolConfig p io) s fun t => last t ∧ (∀ q, q ≠ c → poolAt t q = poolAt s q) ∧
          (∀ h ∈ t.carafe.cells, h.pool ≠ c) ∧
          (p.p3.toNat = 0 → poolAt t c = Pool.none ∧ runsOf t c = [] ∧ t.sp = s.sp) ∧
          (p.p3.toNat ≠ 0 → c < 4 → poolAt t c =
            { base := pVa p, cells := p.p3.toNat, free := (List.range p.p3.toNat).map fun i => pVa p + i * cellBytes c }) ∧
          (p.p3.toNat ≠ 0 → 4 ≤ c → runsOf t c = [(pVa p, p.p3.toNat)] ∧ t.sp = s.sp))) ∧
    (s.rst.rootLost = false →
      ((∀ w ∈ s.carafe.waits, waitReady s w = false) → exec .carafeGrant s = .next s) ∧
      ((∃ w ∈ s.carafe.waits, waitReady s w = true) → s.coll.waiting = [] → s.coll.busy = [] → Completes .carafeGrant s fun t =>
        ∃ w c a, w ∈ s.carafe.waits ∧ poolFor s w.owner w.bytes = some c ∧ (poolAt s c).free.head? = some a ∧
          (∀ v ∈ s.carafe.waits, waitReady s v = true → w.cls ≤ v.cls) ∧
          t.carafe.waits = s.carafe.waits.erase w ∧
          t.carafe.cells = s.carafe.cells ++ [{ pool := c, addr := a, owner := w.owner, ref := w.ref, use := w.use }] ∧
          (poolAt t c).free = (poolAt s c).free.tail ∧ t.sp = s.sp ∧ t.job = s.job) ∧
      (let stops := fun (t : State) => (s.job.st ≠ .closed → t.job.st = .faulted) ∧ (s.job.st = .closed → t.job = s.job)
       ((poolAt s pool).cells ≠ 0 →
        (pool < 4 → Completes (.carafeListError pool none) s fun t =>
          (poolAt t pool).free = (poolCells (poolAt s pool) pool).filter (fun a => !cellHeld s pool a) ∧
          ctr t 18 = (ctr s 18 + 1) % 2 ^ 64 ∧ t.carafe.cells = s.carafe.cells ∧ stops t) ∧
        (4 ≤ pool → pool < 8 → Completes (.carafeListError pool none) s fun t =>
          runsOf t pool = runsOf s pool ∧ t.carafe.cells = s.carafe.cells ∧ t.sp = s.sp ∧ stops t) ∧
        (pool < 4 → a ∈ poolCells (poolAt s pool) pool → jobExists s = true → Completes (.carafeListError pool (some a)) s fun t =>
          (∀ x, x ∈ t.carafe.lost ↔ x ∈ s.carafe.lost ∨ x = (pool, a)) ∧ t.carafe.cells = s.carafe.cells ∧ t.sp = s.sp ∧ stops t)) ∧
       (8 ≤ pool ∨ (poolAt s pool).cells = 0 → exec (.carafeListError pool none) s = .next s) ∧
       (4 ≤ pool ∨ a ∉ poolCells (poolAt s pool) pool ∨ jobExists s = false →
        exec (.carafeListError pool (some a)) s = .next s)))

/-- Broken packets and the reply stream (R31, R33 to R35, R37, R80 to R82). A framing error is answered ST_LATCH_FRAMING, a
parity error with a good header ST_LATCH_PARITY under the received tag, and one with a bad header becomes EV_LATCH_PARITY,
held with the header in its slot; nothing is executed. A beat carries the one record that waits, a fatal event before a reply
of the same instant, the header after its event, and is marked where its words were bad; a first reply frees its slot;
replies and events sent are counted. Which of several sources of one instant goes first is the model's (log 13). Says when
these commands complete: latchFramingError, latchStrayBeat, latchParityError, replyBeatTaken. -/
def Obligations.LatchRowsComplete : Prop :=
  ∀ (p : Packet) (hdr : List Byte) (good two bad : Bool) (s : State), s.rst.rootLost = false →
    let n := s.latch.order
    let only := fun (l : List Source) => sources s = l ∧ s.latch.owed = none ∧ s.latch.held = [] ∧ streamOn s = true
    (exec .latchStrayBeat s = .next s) ∧
    (canTake s = false → exec (.latchFramingError p) s = .next s ∧ exec (.latchParityError hdr good) s = .next s) ∧
    (canTake s = true →
      exec (.latchFramingError p) s = .next (replyOne p n 0x0101 0 0 0 0 (takePacket p s)) ∧
      (hdr.length = 32 → Completes (.latchParityError hdr true) s fun t =>
        t.latch.free + 1 = s.latch.free ∧ t.job = s.job ∧ t.ev = s.ev ∧
        ∃ r, t.latch.replies = s.latch.replies ++ [r] ∧ r.status = 0x0102 ∧ r.tag = leAt hdr 2 2 ∧ r.final = true ∧ r.first = true) ∧
      (hdr.length = 32 → Completes (.latchParityError hdr false) s fun t =>
        t.latch.free + 1 = s.latch.free ∧ t.job = s.job ∧ t.latch.replies = s.latch.replies ∧ t.ev.seq = (s.ev.seq + 1) % 65536 ∧
        ∃ e, t.latch.parity = s.latch.parity ++ [(e, hdr)] ∧ e.code = 2 ∧ e.fatal = false ∧ e.unit = 1 ∧ e.seq = s.ev.seq)) ∧
    (streamOn s = false → exec (.replyBeatTaken two bad) s = .next s) ∧
    (only [] → exec (.replyBeatTaken two bad) s = .next { s with latch := { s.latch with beat := [], beatPoison := false } }) ∧
    (∀ r, s.latch.replies = [r] → only [.reply r] → Completes (.replyBeatTaken two bad) s fun t =>
      t.latch = { s.latch with replies := [], beat := [.reply r], beatPoison := bad,
                               completions := (if r.entry then s.latch.completions - 1 else s.latch.completions),
                               free := (if r.first then min 64 (s.latch.free + 1) else s.latch.free) } ∧
      t = { s with latch := t.latch, counters := t.counters } ∧ ctr t 42 = (ctr s 42 + 1) % 2 ^ 64 ∧
      (∀ i, i ≠ 42 → ctr t i = ctr s i)) ∧
    (∀ e r, s.ev.fatal = [e] → s.ev.waitFatal = [] → only [.fatal e, .reply r] → e.kt ≤ r.kt →
      Completes (.replyBeatTaken false bad) s fun t => t.latch.beat = [.event e] ∧ t.latch.beatPoison = bad ∧ t.ev.fatal = [] ∧
        t.latch.replies = s.latch.replies ∧ t = { s with latch := t.latch, ev := t.ev, counters := t.counters } ∧
        ctr t 43 = (ctr s 43 + 1) % 2 ^ 64) ∧
    (∀ e h, s.latch.owed = some (e, h) → s.latch.held = [] → streamOn s = true → Completes (.replyBeatTaken false bad) s fun t =>
      t.latch = { s.latch with owed := none, beat := [.header h], beatPoison := bad, free := min 64 (s.latch.free + 1),
                               parity := s.latch.parity.erase (e, h) } ∧
      t = { s with latch := t.latch, counters := t.counters } ∧ ctr t 43 = (ctr s 43 + 1) % 2 ^ 64)

/-- Links and lanes (R49 to R53, R248, R252, R263, R264, R267). Training a link's last lane takes it to Aligning; markers, with
every lane locked, take it Up; a failed lane, a lost lock, a lost alignment, a FEC limit, a remote fault and a time-out take
it Down, counted, with EV_LINK; the holdoff's expiry and a completed quiesce train it again. A change of one link leaves the
others'. Pauses of a Hinge hold while its partner's PFC is on. Says when these commands complete: pfcFrameReceive,
laneTrainDone, laneTrainTimeout, laneLockChange, linkAlignTimeout, fecFailLimit, remoteFaultReceive, relinkHoldoffExpiry,
quiesceComplete, alignmentMarkersFound, laneAlignmentLoss, relinkHoldoffRestore, pfcPauseExpiry. -/
def Obligations.LinkRowsComplete : Prop :=
  ∀ (hinge lane k eye q : Nat) (pause resume : List Nat) (s : State), Inv s → s.rst.rootLost = false →
    let i := 8 * hinge + lane
    let l := linkOfLane s hinge lane
    let others_ := fun (j : Nat) (t : State) => (∀ a, a ≠ j → linkAt t a = linkAt s a) ∧ t.hostMem = s.hostMem ∧ t.sp = s.sp
    let down := fun (cmd : Instr) (j : Nat) => Completes cmd s fun t =>
      (linkAt t j).st = .down ∧ s.kt ∈ (linkAt t j).downs ∧
      ctr t (hingeCtr (j / 4) 21) = (ctr s (hingeCtr (j / 4) 21) + 1) % 2 ^ 64 ∧ others_ j t ∧
      ∃ e ∈ t.ev.other, e.code = 0x000A ∧ e.unit = 0x20 + j / 4 ∧ e.kt = s.kt ∧ e.seq = s.ev.seq
    let willNotFault := ∀ c ∈ s.kft.unacked, exhausted s c = false
    (hinge < 8 → lane < 8 → hingeGroup s hinge ≤ 2 →
      ((laneAt s i).trainReq = true →
        (Completes (.laneTrainDone hinge lane true eye) s fun t =>
          laneAt t i = { laneAt s i with trainReq := false, trained := true, eye := eye % 256, eyeTrained := eye % 256 } ∧
          ((linkAt s l).st = .training → (∀ j ∈ linkLanes s l, j = i ∨ (laneAt s j).trained = true) →
            (linkAt t l).st = .aligning ∧ (linkAt t l).markers = false) ∧
          (∀ j ∈ linkLanes s l, j ≠ i → (laneAt s j).trained = false → linkAt t l = linkAt s l) ∧ others_ l t ∧ t.job = s.job) ∧
        (Completes (.laneTrainDone hinge lane false eye) s fun t => (laneAt t i).trainReq = false ∧ (laneAt t i).trained = false ∧
          ((linkAt s l).st = .training → (linkAt t l).st = .down) ∧ others_ l t) ∧
        (Completes (.laneTrainTimeout hinge lane) s fun t => laneAt t i = { laneAt s i with trainReq := false, trained := false } ∧
          ((linkAt s l).st = .training → (linkAt t l).st = .down) ∧ others_ l t ∧
          (s.rst.aoStopped = false → t.plan.historyHead = (s.plan.historyHead + 1) % 63) ∧
          (s.rst.aoStopped = true → t.plan.historyHead = s.plan.historyHead ∧ ∃ h, t.aoWait = s.aoWait ++ [h]))) ∧
      ((laneAt s i).trainReq = false →
        exec (.laneTrainDone hinge lane true eye) s = .next s ∧ exec (.laneTrainTimeout hinge lane) s = .next s) ∧
      ((linkAt s l).st = .up → down (.laneLockChange hinge lane false) l) ∧
      (Completes (.laneLockChange hinge lane true) s fun t => (laneAt t i).lock = true ∧ others_ l t ∧
        ((linkAt s l).st = .aligning → (linkAt s l).markers = true → (linkAt s l).fault = false → (∀ j ∈ linkLanes s l, j = i ∨ (laneAt s j).lock = true) →
          (linkAt t l).st = .up))) ∧
    ((linkAt s k).st = .up → down (.fecFailLimit k) k ∧ down (.remoteFaultReceive k) k ∧
      (lane < 8 → 8 * (k / 4) + lane ∈ linkLanes s k → down (.laneAlignmentLoss k lane) k)) ∧
    ((linkAt s k).st = .up → willNotFault → Completes (.fecFailLimit k) s fun t => t.job = s.job) ∧
    ((linkAt s k).st ≠ .up → exec (.fecFailLimit k) s = .next s ∧ exec (.laneAlignmentLoss k lane) s = .next s ∧
      ((linkAt s k).st ≠ .aligning → exec (.remoteFaultReceive k) s = .next s)) ∧
    ((linkAt s k).st = .aligning → Completes (.remoteFaultReceive k) s fun t =>
      linkAt t k = { linkAt s k with fault := true } ∧ others_ k t ∧ t = { s with links := t.links }) ∧
    ((linkAt s k).st = .aligning → down (.linkAlignTimeout k) k ∧ Completes (.alignmentMarkersFound k) s fun t => others_ k t ∧
      (allLocked s k = true → (linkAt t k).st = .up) ∧
      (allLocked s k = false → linkAt t k = { linkAt s k with markers := true, fault := false })) ∧
    ((linkAt s k).st ≠ .aligning → exec (.linkAlignTimeout k) s = .next s ∧ exec (.alignmentMarkersFound k) s = .next s) ∧
    ((linkAt s k).st = .down → hingeOn s (k / 4) = true → Completes (.relinkHoldoffExpiry k) s fun t =>
      (linkAt t k).st = .training ∧ others_ k t ∧ t.job = s.job ∧
      ∀ j ∈ linkLanes s k, j < 64 → (laneAt t j).trainReq = true ∧ (laneAt t j).trained = false ∧
        (laneAt t j).rate = hingeRate s (k / 4)) ∧
    ((linkAt s k).st ≠ .down ∨ hingeOn s (k / 4) = false → exec (.relinkHoldoffExpiry k) s = .next s) ∧
    (k < 32 → exec (.relinkHoldoffRestore k) s = .next (setLink k { linkAt s k with holdoff := 0, downs := [] } s)) ∧
    ((linkAt s k).st = .quiescing → Completes (.quiesceComplete k) s fun t => (linkAt t k).st = .training ∧ others_ k t) ∧
    ((linkAt s k).st ≠ .quiescing → exec (.quiesceComplete k) s = .next s) ∧
    (hinge < 8 → getP s (0x0203 + 16 * hinge) = 1 → Completes (.pfcFrameReceive hinge pause resume) s fun t =>
      (∀ x, x ∈ t.pfcPaused ↔ (x ∈ s.pfcPaused ∧ ¬ (x.1 = hinge ∧ (x.2 ∈ resume ∨ x.2 ∈ pause))) ∨
        (x.1 = hinge ∧ x.2 < 8 ∧ x.2 ∈ pause)) ∧ t = { s with pfcPaused := t.pfcPaused, kft := t.kft, counters := t.counters }) ∧
    (getP s (0x0203 + 16 * hinge) ≠ 1 → exec (.pfcFrameReceive hinge pause resume) s = .next s) ∧
    (Completes (.pfcPauseExpiry hinge q) s fun t => (∀ x, x ∈ t.pfcPaused ↔ x ∈ s.pfcPaused ∧ x ≠ (hinge, q)) ∧
      t = { s with pfcPaused := t.pfcPaused, kft := t.kft, counters := t.counters })

/-- The Drip ring and the record ring (R392 to R395, R484 to R488). A sample adds a record for each selected counter, at this
tick. A record written advances its ring's head and leaves its buffer, and writes exactly its bytes; a fault or bus error of
the write stops the ring and keeps the record. Says when these commands complete: dripSample, dripRecordWritten,
dripRingFault, recordWritten, recordRingFault. -/
def Obligations.RingRowsComplete : Prop :=
  ∀ (io : Io) (code : Nat) (s w : State), s.rst.rootLost = false →
    let d := s.drip
    let sel := d.sel.filter fun v => bit v 15
    let room := 32 * (d.buf.length + sel.length)
    let ready := domState s 13 = .inService
    (d.enable = false ∨ d.sampleUs = 0 → exec .dripSample s = .next s) ∧
    (d.enable = true → d.sampleUs ≠ 0 → Completes .dripSample s fun t => t = { s with drip := t.drip } ∧
      (bit d.kindMask 12 = true → bit d.unitMask 0 = true → d.lossCount = 0 → room ≤ 262144 →
        room ≤ ringFree (d.size * 65536) d.head (getP s 0x0A09) →
        t.drip.buf = d.buf ++ sel.map fun v => { kind := 12, slot := 0, slotValid := false, unit := 0, kt := s.kt, step := 0,
                                                  generation := 0, payload := v % 1024 + ctrRead s (v % 1024) * 2 ^ 32 })) ∧
    (∀ r rest, d.buf = r :: rest → d.status = 0 → ready →
      (hostWrite s 0 (d.base + d.head) r.bytes = (w, .ok ()) → Completes (.dripRecordWritten .ok) s fun t =>
        t.hostMem = w.hostMem ∧ t.drip = { d with buf := rest, head := (d.head + 32) % (d.size * 65536) } ∧
        t = { s with hostMem := t.hostMem, keyway := t.keyway, drip := t.drip }) ∧
      (∀ f, hostWrite s 0 (d.base + d.head) r.bytes = (w, .error f) → Completes (.dripRecordWritten .ok) s fun t =>
        t.hostMem = s.hostMem ∧ t.drip = { d with status := 1 }) ∧
      (∀ e c l a, Completes (.dripRecordWritten (.walk e c l a)) s fun t =>
        t.drip = { d with status := 2 } ∧ t.job = s.job ∧ t.hostMem = s.hostMem) ∧
      (∀ e v l, xlateRange s 0 (d.base + d.head) r.bytes.length true = (v, .ok l) → Completes (.dripRecordWritten (.bad e)) s fun t =>
        t.drip = { d with status := 2 } ∧ t.job = s.job ∧
        ∀ a, (∀ q ∈ l, a < q.pa ∨ q.pa + q.len ≤ a) → memGet t.hostMem a = memGet s.hostMem a)) ∧
    (d.buf = [] ∨ d.status ≠ 0 ∨ ¬ ready → exec (.dripRecordWritten io) s = .next s) ∧
    (code = 1 ∨ code = 2 → exec (.dripRingFault code) s = .next { s with drip := { d with status := code } } ∧
      exec (.recordRingFault code) s = .next { s with recRing := { s.recRing with status := code } }) ∧
    (code ≠ 1 → code ≠ 2 → exec (.dripRingFault code) s = .next s ∧ exec (.recordRingFault code) s = .next s) ∧
    (∀ r rest, s.recRing.buf = r :: rest → s.recRing.status = 0 → ready →
      let size := getP s 0x0A01
      let head := s.recRing.head
      (head + r.bytes.length ≤ size → hostWrite s 0 (getP s 0x0A00 + head) r.bytes = (w, .ok ()) →
        Completes (.recordWritten .ok) s fun t => t.hostMem = w.hostMem ∧
          t.recRing = { s.recRing with buf := rest, head := (head + r.bytes.length) % size } ∧
          t = { s with hostMem := t.hostMem, keyway := t.keyway, recRing := t.recRing }) ∧
      (∀ v, size < head + r.bytes.length →
        hostWrite s 0 (getP s 0x0A00 + head) (padRecord r.kt (size - head)) = (v, .ok ()) →
        hostWrite v 0 (getP s 0x0A00) r.bytes = (w, .ok ()) → Completes (.recordWritten .ok) s fun t => t.hostMem = w.hostMem ∧
          t.recRing = { s.recRing with buf := rest, head := r.bytes.length % size }) ∧
      (∀ e c l a, head + r.bytes.length ≤ size → Completes (.recordWritten (.walk e c l a)) s fun t =>
        t.recRing = { s.recRing with status := 2 } ∧ t.job = s.job ∧ t.hostMem = s.hostMem) ∧
      (∀ e v, size < head + r.bytes.length → reqCount s 0 (getP s 0x0A00 + head) (size - head) true ≤ e.at_ →
        hostWrite s 0 (getP s 0x0A00 + head) (padRecord r.kt (size - head)) = (v, .ok ()) →
        Completes (.recordWritten (.bad e)) s fun t => t.recRing.status ≠ 0 ∧ t.recRing.buf = r :: rest ∧
          t.recRing.head = head ∧ t.job = s.job) ∧
      (∀ e v l, head + r.bytes.length ≤ size → xlateRange s 0 (getP s 0x0A00 + head) r.bytes.length true = (v, .ok l) →
        Completes (.recordWritten (.bad e)) s fun t => t.recRing = { s.recRing with status := 2 } ∧ t.job = s.job ∧
          ∀ a, (∀ q ∈ l, a < q.pa ∨ q.pa + q.len ≤ a) → memGet t.hostMem a = memGet s.hostMem a)) ∧
    (s.recRing.buf = [] ∨ s.recRing.status ≠ 0 ∨ ¬ ready → exec (.recordWritten io) s = .next s)
end

