-- ==== Sys2Proof/Laws/Memory.lean ====
section
/-! SUPPORT. The memories: what the canonical form is, that every write keeps it, and what a byte reads as after one. -/

set_option Elab.async false

namespace Sys2Proof.Machine

theorem memWfFrom_iff (m : Mem) : ∀ lo, memWfFrom lo m = true ↔
    m.Pairwise (fun a b => a.1 < b.1) ∧ ∀ c ∈ m, lo ≤ c.1 ∧ c.2 ≠ 0 := by
  induction m with
  | nil => simp [memWfFrom]
  | cons c r ih =>
    obtain ⟨k, b⟩ := c
    intro lo
    simp only [memWfFrom, Bool.and_eq_true, decide_eq_true_eq, ih, List.pairwise_cons, List.mem_cons, forall_eq_or_imp]
    constructor
    · rintro ⟨⟨h1, h2⟩, h3, h4⟩
      exact ⟨⟨fun c hc => (h4 c hc).1, h3⟩, ⟨h1, h2⟩, fun c hc => ⟨by have := (h4 c hc).1; omega, (h4 c hc).2⟩⟩
    · rintro ⟨⟨h1, h2⟩, ⟨h3, h4⟩, h5⟩
      exact ⟨⟨h3, h4⟩, h2, fun c hc => ⟨h1 c hc, (h5 c hc).2⟩⟩

/-- The canonical form: rising addresses, no listed 0. -/
theorem Mem.wf_iff (m : Mem) : Mem.wf m = true ↔ m.Pairwise (fun a b => a.1 < b.1) ∧ ∀ c ∈ m, c.2 ≠ 0 := by
  simp [Mem.wf, memWfFrom_iff]

theorem cellsOf_mem (bs : List Byte) : ∀ a, ∀ c ∈ cellsOf a bs, a ≤ c.1 ∧ c.1 < a + bs.length ∧ c.2 ≠ 0 := by
  induction bs with
  | nil => simp [cellsOf]
  | cons b r ih =>
    intro a c hc
    simp only [cellsOf] at hc
    split at hc
    · have := ih (a + 1) c hc; simp only [List.length_cons]; exact ⟨by omega, by omega, this.2.2⟩
    · rcases List.mem_cons.1 hc with rfl | hc
      · simp; assumption
      · have := ih (a + 1) c hc; simp only [List.length_cons]; exact ⟨by omega, by omega, this.2.2⟩

theorem cellsOf_sorted (bs : List Byte) : ∀ a, (cellsOf a bs).Pairwise (fun a b => a.1 < b.1) := by
  induction bs with
  | nil => simp [cellsOf]
  | cons b r ih =>
    intro a
    simp only [cellsOf]
    split
    · exact ih _
    · exact List.pairwise_cons.2 ⟨fun c hc => (cellsOf_mem r (a + 1) c hc).1, ih _⟩

/-- A write keeps the canonical form. -/
theorem memWrite_wf {m : Mem} (h : Mem.wf m = true) (a : Nat) (bs : List Byte) : Mem.wf (memWrite m a bs) = true := by
  rw [Mem.wf_iff] at *
  obtain ⟨hs, hz⟩ := h
  simp only [memWrite, List.pairwise_append, List.mem_append, List.mem_filter, decide_eq_true_eq]
  refine ⟨⟨⟨hs.sublist List.filter_sublist, cellsOf_sorted bs a, ?_⟩, hs.sublist List.filter_sublist, ?_⟩, ?_⟩
  · intro c hc d hd; have := (cellsOf_mem bs a d hd).1; omega
  · rintro c (hc | hc) d hd
    · omega
    · have := (cellsOf_mem bs a c hc).2.1; omega
  · rintro c ((hc | hc) | hc)
    · exact hz c hc.1
    · exact (cellsOf_mem bs a c hc).2.2
    · exact hz c hc.1

/-- The addresses a write lists. -/
theorem memWrite_mem {m : Mem} {a : Nat} {bs : List Byte} {c : Host.Cell} (h : c ∈ memWrite m a bs) :
    c ∈ m ∨ (a ≤ c.1 ∧ c.1 < a + bs.length) := by
  simp only [memWrite, List.mem_append, List.mem_filter] at h
  rcases h with (h | h) | h
  · exact .inl h.1
  · exact .inr ⟨(cellsOf_mem bs a c h).1, (cellsOf_mem bs a c h).2.1⟩
  · exact .inl h.1

theorem writePieces_wf (l : List Piece) : ∀ (bs : List Byte) {m : Mem}, Mem.wf m = true → Mem.wf (writePieces l bs m) = true := by
  induction l with
  | nil => intro bs m h; exact h
  | cons p r ih => intro bs m h; exact ih _ (memWrite_wf h _ _)

theorem memGet_append (l r : Mem) (a : Nat) :
    memGet (l ++ r) a = if ∃ c ∈ l, c.1 = a then memGet l a else memGet r a := by
  induction l with
  | nil => simp
  | cons c l ih =>
    obtain ⟨k, b⟩ := c
    simp only [List.cons_append, memGet, ih, List.mem_cons, exists_eq_or_imp]
    by_cases hk : k = a <;> simp [hk]

theorem memGet_absent {m : Mem} {a : Nat} (h : ∀ c ∈ m, c.1 ≠ a) : memGet m a = 0 := by
  induction m with
  | nil => rfl
  | cons c r ih =>
    obtain ⟨k, b⟩ := c
    simp only [List.mem_cons, forall_eq_or_imp] at h
    simp [memGet, h.1, ih h.2]

theorem memGet_filter {m : Mem} {a : Nat} (p : Nat → Bool) (h : p a = true) :
    memGet (m.filter fun c => p c.1) a = memGet m a := by
  induction m with
  | nil => rfl
  | cons c r ih =>
    obtain ⟨k, b⟩ := c
    by_cases hk : k = a
    · subst hk; simp [h, memGet]
    · by_cases hp : p k = true <;> simp [hp, memGet, hk, ih]

theorem memGet_cellsOf (bs : List Byte) : ∀ a i, i < bs.length → memGet (cellsOf a bs) (a + i) = bs.getD i 0 := by
  induction bs with
  | nil => intro a i h; simp at h
  | cons b r ih =>
    intro a i h
    cases i with
    | zero =>
      simp only [cellsOf]
      split
      · rename_i hb
        rw [memGet_absent, hb]; · rfl
        intro c hc; have := (cellsOf_mem r (a + 1) c hc).1; omega
      · simp [memGet]
    | succ i =>
      have := ih (a + 1) i (by simpa using h)
      simp only [cellsOf]
      rw [show a + (i + 1) = a + 1 + i by omega]
      split
      · simpa using this
      · rw [memGet, if_neg (by omega)]; simpa using this

/-- A byte outside a write reads as before it. -/
theorem memGet_memWrite_out {m : Mem} {a x : Nat} {bs : List Byte} (h : x < a ∨ a + bs.length ≤ x) :
    memGet (memWrite m a bs) x = memGet m x := by
  have hc : ¬ ∃ c ∈ cellsOf a bs, c.1 = x := by
    rintro ⟨c, hc, rfl⟩; have := cellsOf_mem bs a c hc; omega
  rw [memWrite, memGet_append, memGet_append]
  rcases h with h | h
  · by_cases hm : ∃ c ∈ m, c.1 = x
    · obtain ⟨c, hc1, hc2⟩ := hm
      have : ∃ c ∈ m.filter (fun c => decide (c.1 < a)), c.1 = x := ⟨c, by simp [hc1, hc2, h], hc2⟩
      rw [if_pos, if_pos this]
      · exact memGet_filter (fun k => decide (k < a)) (by simpa using h)
      · obtain ⟨c, hc1, hc2⟩ := this; exact ⟨c, List.mem_append_left _ hc1, hc2⟩
    · have hn : ∀ c ∈ m, c.1 ≠ x := fun c h1 h2 => hm ⟨c, h1, h2⟩
      rw [memGet_absent hn]
      have hf : ∀ p : Nat → Bool, memGet (m.filter fun c => p c.1) x = 0 := fun p =>
        memGet_absent fun c h1 => hn c (List.mem_filter.1 h1).1
      have hs : memGet (cellsOf a bs) x = 0 := memGet_absent fun c h1 h2 => hc ⟨c, h1, h2⟩
      split
      · split
        · exact hf fun k => decide (k < a)
        · exact hs
      · exact hf fun k => decide (a + bs.length ≤ k)
  · have hl : ¬ ∃ c ∈ m.filter (fun c => decide (c.1 < a)), c.1 = x := by
      rintro ⟨c, h1, rfl⟩; have := (List.mem_filter.1 h1).2; simp at this; omega
    rw [if_neg]
    · exact memGet_filter (fun k => decide (a + bs.length ≤ k)) (by simpa using h)
    · rintro ⟨c, hc', e⟩
      rcases List.mem_append.1 hc' with h1 | h1
      · exact hl ⟨c, h1, e⟩
      · exact hc ⟨c, h1, e⟩

/-- A byte of a write reads as written. -/
theorem memGet_memWrite_in {m : Mem} {a i : Nat} {bs : List Byte} (h : i < bs.length) :
    memGet (memWrite m a bs) (a + i) = bs.getD i 0 := by
  have hl : ¬ ∃ c ∈ m.filter (fun c => decide (c.1 < a)), c.1 = a + i := by
    rintro ⟨c, hc, e⟩; have := (List.mem_filter.1 hc).2; simp at this; omega
  rw [memWrite, memGet_append, memGet_append, if_neg hl, memGet_cellsOf bs a i h]
  split
  · rfl
  · rename_i hn
    rw [memGet_absent]
    · by_cases hb : bs.getD i 0 = 0
      · exact hb.symm
      · exfalso; apply hn
        have : memGet (cellsOf a bs) (a + i) ≠ 0 := by rw [memGet_cellsOf bs a i h]; exact hb
        by_contra hc
        apply this
        apply memGet_absent
        intro c h1 h2
        exact hc ⟨c, List.mem_append_right _ h1, h2⟩
    · intro c hc e; have := (List.mem_filter.1 hc).2; simp at this; omega

end Sys2Proof.Machine
end

