-- ==== Sys2Proof/Laws/Good.lean ====
section
/-! SUPPORT. The invariant together with the queue, as every operation of the model keeps them. -/

set_option Elab.async false

namespace Sys2Proof.Machine

/-- The invariant holds, and the queue is `q`. -/
structure Good (q : List Instr) (s : State) : Prop where
  queue : s.pending = q
  inv : Inv s

/-- What an operation that writes none of the invariant's fields keeps. -/
theorem Good.frame {q : List Instr} {s t : State} (h : Good q s) (e0 : t.pending = s.pending) (e1 : t.sp = s.sp)
    (e2 : t.hostMem = s.hostMem) (e3 : t.slots.length = s.slots.length) (e4 : t.links.length = s.links.length)
    (e5 : t.lanes.length = s.lanes.length) (e6 : t.doms.length = s.doms.length)
    (e7 : t.pour.ch.length = s.pour.ch.length) (e8 : t.carafe.pools.length = s.carafe.pools.length)
    (e9 : t.keyring.length = s.keyring.length) (e10 : t.ev.fatal.length = s.ev.fatal.length) (e11 : t.ev.other = s.ev.other)
    (e12 : t.rlog.length = s.rlog.length) (e13 : t.vault.closed = s.vault.closed) (e14 : t.keyway.tlb = s.keyway.tlb)
    (e15 : t.keyway.upper = s.keyway.upper) (e16 : t.latch.completions ≤ s.latch.completions)
    (e17 : t.drip.buf = s.drip.buf) (e18 : t.recRing.buf = s.recRing.buf) (e19 : t.latch.free ≤ s.latch.free) : Good q t :=
  ⟨e0.trans h.queue, e1 ▸ h.inv.sp, e1 ▸ h.inv.spIn, e2 ▸ h.inv.host, e3.trans h.inv.slots, e4.trans h.inv.links,
    e5.trans h.inv.lanes, e6.trans h.inv.doms, e7.trans h.inv.chans, e8.trans h.inv.pools, e9.trans h.inv.keyring,
    e10 ▸ h.inv.fatal, e11 ▸ h.inv.other, e12 ▸ h.inv.rlog, e13 ▸ h.inv.closed, e14 ▸ h.inv.tlb, e15 ▸ h.inv.upper,
    e16.trans h.inv.completions, e17 ▸ h.inv.drip, e18 ▸ h.inv.recs, e19.trans h.inv.free⟩

/-- The same, of a state written out field by field. -/
theorem Good.mk' {q : List Instr} {s : State} {freeCtr rst kt fuses params pendParams counters latch ev job slots opBanks tensors duties spout funnelHeld ep
    keyring keyringBad bias kft links lanes pfcPaused pfcSent ptp barrier coll carafe spPoison keyway mport
    pour recRing drip doms esc rlog rlogSeq rlogWait aoWait dump pwr plan vault fw mgmt}
    (h : Good q s) (e3 : slots.length = s.slots.length := by first | rfl | (simp; done))
    (e4 : links.length = s.links.length := by first | rfl | (simp; done))
    (e5 : lanes.length = s.lanes.length := by first | rfl | (simp; done))
    (e6 : doms.length = s.doms.length := by first | rfl | (simp; done))
    (e7 : pour.ch.length = s.pour.ch.length := by first | rfl | (simp; done))
    (e8 : carafe.pools.length = s.carafe.pools.length := by first | rfl | (simp; done))
    (e9 : keyring.length = s.keyring.length := by first | rfl | (simp; done))
    (e10 : ev.fatal.length = s.ev.fatal.length := by first | rfl | (simp; done))
    (e11 : ev.other = s.ev.other := by rfl) (e12 : rlog.length = s.rlog.length := by first | rfl | (simp; done))
    (e13 : vault.closed = s.vault.closed := by rfl) (e14 : keyway.tlb = s.keyway.tlb := by rfl)
    (e15 : keyway.upper = s.keyway.upper := by rfl)
    (e16 : latch.completions ≤ s.latch.completions := by first | exact le_rfl | (simp; done))
    (e17 : drip.buf = s.drip.buf := by rfl) (e18 : recRing.buf = s.recRing.buf := by rfl)
    (e19 : latch.free ≤ s.latch.free := by first | exact le_rfl | (simp; done)) :
    Good q (State.mk s.pending freeCtr rst kt fuses params pendParams counters latch ev job slots opBanks tensors duties spout
      funnelHeld ep keyring keyringBad bias kft links lanes pfcPaused pfcSent ptp barrier coll carafe s.sp
      spPoison s.hostMem keyway mport pour recRing drip doms esc rlog rlogSeq rlogWait aoWait dump pwr plan
      vault fw mgmt) :=
  h.frame rfl rfl rfl e3 e4 e5 e6 e7 e8 e9 e10 e11 e12 e13 e14 e15 e16 e17 e18 e19

theorem setDrip_good {q : List Instr} {d : Drip} {s : State} (hg : Good q s) (h : 32 * d.buf.length ≤ 262144) :
    Good q { s with drip := d } := ⟨hg.queue, { hg.inv with drip := h }⟩

theorem setRec_good {q : List Instr} {r : Rec} {s : State} (hg : Good q s) (h : sumN (r.buf.map recLen) ≤ 524288) :
    Good q { s with recRing := r } := ⟨hg.queue, { hg.inv with recs := h }⟩

theorem setLatch_good {q : List Instr} {l : Latch} {s : State} (hg : Good q s) (h : l.completions ≤ 512)
    (h2 : l.free ≤ 64) : Good q { s with latch := l } := ⟨hg.queue, { hg.inv with completions := h, free := h2 }⟩

theorem setSlots_good {q : List Instr} {r : Rst} {l : Latch} {s : State} (hg : Good q s)
    (h : l.completions = s.latch.completions) (h2 : l.free ≤ 64) : Good q { s with rst := r, latch := l } :=
  ⟨hg.queue, { hg.inv with completions := h ▸ hg.inv.completions, free := h2 }⟩

theorem setEv_good {q : List Instr} {e : EvQueue} {s : State} (hg : Good q s) (h : e.fatal.length ≤ 16)
    (h2 : e.other.length ≤ 239) : Good q { s with ev := e } := ⟨hg.queue, { hg.inv with fatal := h, other := h2 }⟩

theorem setSp_good {q : List Instr} {m : Mem} {l : List Nat} {s : State} (hg : Good q s) (h : Mem.wf m = true)
    (h2 : ∀ c ∈ m, c.1 < spSize) : Good q { s with sp := m, spPoison := l } :=
  ⟨hg.queue, { hg.inv with sp := h, spIn := h2 }⟩

theorem live_good {q : List Instr} {f : State → State} {s t : State} (hx : live f s = .next t) (h : Good q (f s)) :
    Good q t := by
  unfold live at hx
  split at hx
  · cases hx
  · cases hx; exact h

theorem pair_good {q : List Instr} {α : Type} {x : State × α} {t : State} {r : α} (e : x = (t, r)) (h : Good q x.1) :
    Good q t := by
  subst e; exact h

theorem ite_good {q : List Instr} {c : Prop} [Decidable c] {s t : State} (hs : c → Good q s) (ht : ¬ c → Good q t) :
    Good q (if c then s else t) := by
  by_cases h : c <;> simp [h, hs, ht]

theorem foldl_good {q : List Instr} {α : Type} {f : State → α → State} {l : List α} {s : State} (h : Good q s)
    (hf : ∀ t x, Good q t → Good q (f t x)) : Good q (l.foldl f s) := by
  induction l generalizing s with
  | nil => exact h
  | cons x r ih => exact ih (hf s x h)

theorem foldl_fst_good {q : List Instr} {α β : Type} {f : State × β → α → State × β} {l : List α} {r : State × β}
    (h : Good q r.1) (hf : ∀ r x, Good q r.1 → Good q (f r x).1) : Good q (l.foldl f r).1 := by
  induction l generalizing r with
  | nil => exact h
  | cons x l ih => exact ih (hf r x h)

theorem sumN_eq_sum (l : List Nat) : sumN l = l.sum := by
  rw [sumN, ← List.sum_eq_foldl]

theorem sumN_cons (a : Nat) (l : List Nat) : sumN (a :: l) = a + sumN l := by
  rw [sumN_eq_sum, sumN_eq_sum, List.sum_cons]

end Sys2Proof.Machine
end

