-- ==== Sys2Proof/Laws/InvParams.lean ====
section
/-! SUPPORT. Every operation of Machine/Params.lean keeps the invariant and the queue. -/

set_option Elab.async false
set_option linter.unreachableTactic false
set_option linter.unusedTactic false

namespace Sys2Proof.Machine

variable {Q : List Instr}

theorem setP_good {s : State} {id v : Nat} (hg : Good Q s) : Good Q (setP s id v) := by
  unfold setP
  repeat' first
    | with_reducible assumption
    | fail_if_no_progress with_reducible refine Good.mk' ?_

end Sys2Proof.Machine
end

