-- ==== Sys2Proof/Laws/InvOps.lean ====
section
/-! SUPPORT. Every operation of Machine/Ops.lean keeps the invariant and the queue. -/

set_option Elab.async false
set_option linter.unreachableTactic false
set_option linter.unusedTactic false

namespace Sys2Proof.Machine

variable {Q : List Instr}

theorem ctrAdd_good {i n : Nat} {s : State} (hg : Good Q s) : Good Q (ctrAdd i n s) := by
  unfold ctrAdd
  repeat' first
    | with_reducible assumption
    | fail_if_no_progress with_reducible refine Good.mk' ?_

theorem ctrInc_good {i : Nat} {s : State} (hg : Good Q s) : Good Q (ctrInc i s) := by
  unfold ctrInc
  repeat' first
    | with_reducible assumption
    | with_reducible apply ctrAdd_good

theorem spCount_good {a n : Nat} {s : State} (hg : Good Q s) : Good Q (spCount a n s) := by
  unfold spCount
  repeat' first
    | with_reducible assumption
    | with_reducible apply ctrInc_good
    | split

theorem spWrite_good {a bs s} (h : Good Q s) : Good Q (spWrite a bs s) := by
  have i := h.inv
  unfold spWrite
  extract_lets cut
  refine spCount_good ⟨h.queue, { i with sp := memWrite_wf i.sp a cut, spIn := fun c hc => ?_ }⟩
  rcases memWrite_mem hc with h1 | h1
  · exact i.spIn c h1
  · have : cut.length ≤ spSize - a := List.length_take_le _ _
    omega

theorem dripPut_good {r s} (h : Good Q s) : Good Q (dripPut r s) := by
  have i := h.inv
  unfold dripPut dripLose
  extract_lets d more used
  split
  · split
    · rename_i h1
      refine ⟨h.queue, { i with drip := ?_ }⟩
      simpa [used, d] using h1.1
    · exact h.frame rfl rfl rfl rfl rfl rfl rfl rfl rfl rfl rfl rfl rfl rfl rfl rfl le_rfl rfl rfl le_rfl
  · exact h

theorem dripAt_good {kind unit payload : Nat} {s : State} (hg : Good Q s) : Good Q (dripAt kind unit payload s) := by
  unfold dripAt
  repeat' first
    | with_reducible assumption
    | with_reducible apply dripPut_good

theorem dripSlot_good {kind unit slot gen step payload : Nat} {s : State} (hg : Good Q s) : Good Q (dripSlot kind unit slot gen step payload s) := by
  unfold dripSlot
  repeat' first
    | with_reducible assumption
    | with_reducible apply dripPut_good

theorem dripStage_good {unit slot gen step stage fin cls : Nat} {s : State} (hg : Good Q s) : Good Q (dripStage unit slot gen step stage fin cls s) := by
  unfold dripStage
  repeat' first
    | with_reducible assumption
    | with_reducible apply dripSlot_good

theorem dripStageAll_good {slot gen step stage fin cls : Nat} {s : State} (hg : Good Q s) : Good Q (dripStageAll slot gen step stage fin cls s) := by
  unfold dripStageAll
  repeat' first
    | with_reducible assumption
    | with_reducible apply dripStage_good
    | with_reducible apply foldl_good
    | intro _
    | split

theorem recPut_good {e s} (h : Good Q s) : Good Q (recPut e s) := by
  have i := h.inv
  unfold recPut recLose
  extract_lets r loss more size plan held
  split
  · rename_i h1
    exact ⟨h.queue, { i with recs := h1.1 }⟩
  · exact h.frame rfl rfl rfl rfl rfl rfl rfl rfl rfl rfl rfl rfl rfl rfl rfl rfl le_rfl rfl rfl le_rfl

theorem recOriginal_good {k source link : Nat} {poison : Bool} {orig : List Byte} {s : State} (hg : Good Q s) : Good Q (recOriginal k source link poison orig s) := by
  unfold recOriginal
  repeat' first
    | with_reducible assumption
    | extract_lets
    | with_reducible apply recPut_good
    | split

theorem evQueue_good {e s} (h : Good Q s) : Good Q (evQueue e s) := by
  have i := h.inv
  have := i.other
  unfold evQueue
  extract_lets q'
  split
  · split
    · rename_i h1
      exact ⟨h.queue, { i with fatal := by simpa [q'] using h1 }⟩
    · exact h.frame rfl rfl rfl rfl rfl rfl rfl rfl rfl rfl rfl rfl rfl rfl rfl rfl le_rfl rfl rfl le_rfl
  · split
    · rename_i h1
      exact ⟨h.queue, { i with other := by simpa [q'] using h1 }⟩
    · split
      · exact ⟨h.queue, { i with other := by simp }⟩
      · rename_i o r e1
        refine ctrInc_good ⟨h.queue, { i with other := ?_ }⟩
        have : (o :: r).length ≤ 239 := e1 ▸ i.other
        simpa using this

theorem evSend_good {e : Event} {s : State} (hg : Good Q s) : Good Q (evSend e s) := by
  unfold evSend
  repeat' first
    | with_reducible assumption
    | extract_lets
    | fail_if_no_progress with_reducible refine Good.mk' ?_
    | with_reducible apply evQueue_good
    | with_reducible apply dripAt_good

theorem emit_good {code unit detail : Nat} {s : State} (hg : Good Q s) : Good Q (emit code unit detail s) := by
  unfold emit
  repeat' first
    | with_reducible assumption
    | with_reducible apply evSend_good

theorem reply_good {r : Reply} {s : State} (hg : Good Q s) : Good Q (reply r s) := by
  unfold reply
  repeat' first
    | with_reducible assumption
    | fail_if_no_progress with_reducible refine Good.mk' ?_
    | with_reducible apply dripAt_good

theorem replyOne_good {p : Packet} {order status r0 r1 r2 r3 : Nat} {s : State} (hg : Good Q s) : Good Q (replyOne p order status r0 r1 r2 r3 s) := by
  unfold replyOne
  repeat' first
    | with_reducible assumption
    | with_reducible apply reply_good

theorem finish_good {c : OpenCmd} {status r0 r1 r2 r3 : Nat} {s : State} (hg : Good Q s) : Good Q (finish c status r0 r1 r2 r3 s) := by
  unfold finish
  repeat' first
    | with_reducible assumption
    | fail_if_no_progress with_reducible refine Good.mk' ?_
    | with_reducible apply reply_good
    | intro _
    | split

theorem finishOpt_good {c : Option OpenCmd} {status r0 : Nat} {s : State} (hg : Good Q s) : Good Q (finishOpt c status r0 s) := by
  unfold finishOpt
  repeat' first
    | with_reducible assumption
    | with_reducible apply finish_good
    | with_reducible refine pair_good (by assumption) ?_
    | split

theorem setRlog_good {l : List LogEnt} {n : Nat} {s : State} (hg : Good Q s) (h : l.length ≤ 1024) :
    Good Q { s with rlog := l, rlogSeq := n } := ⟨hg.queue, { hg.inv with rlog := h }⟩

theorem logPut_good {e s} (h : Good Q s) : Good Q (logPut e s) := by
  have := h.inv.rlog
  unfold logPut
  refine setRlog_good h ?_
  simp only [List.length_drop, List.length_append, List.length_singleton]
  omega

theorem logAdd_good {kind body : Nat} {s : State} (hg : Good Q s) : Good Q (logAdd kind body s) := by
  unfold logAdd
  repeat' first
    | with_reducible assumption
    | extract_lets
    | fail_if_no_progress with_reducible refine Good.mk' ?_
    | with_reducible apply logPut_good
    | split

theorem aoHold_good {w : AoWrite} {s : State} (hg : Good Q s) : Good Q (aoHold w s) := by
  unfold aoHold
  repeat' first
    | with_reducible assumption
    | fail_if_no_progress with_reducible refine Good.mk' ?_

theorem logResume_good {s : State} (hg : Good Q s) : Good Q (logResume s) := by
  unfold logResume
  repeat' first
    | with_reducible assumption
    | fail_if_no_progress with_reducible refine Good.mk' ?_
    | with_reducible apply logPut_good
    | with_reducible apply foldl_good
    | intro _

theorem vaultWrite_good {s : State} (hg : Good Q s) : Good Q (vaultWrite s) := by
  unfold vaultWrite
  repeat' first
    | with_reducible assumption
    | extract_lets
    | fail_if_no_progress with_reducible refine Good.mk' ?_
    | split

theorem vaultWriteAll_good {s : State} (hg : Good Q s) : Good Q (vaultWriteAll s) := by
  unfold vaultWriteAll
  repeat' first
    | with_reducible assumption
    | extract_lets
    | fail_if_no_progress with_reducible refine Good.mk' ?_
    | split

theorem vaultSettle_good {cancelled : Bool} {c : VCounts} {s : State} (hg : Good Q s) : Good Q (vaultSettle cancelled c s) := by
  unfold vaultSettle
  repeat' first
    | with_reducible assumption
    | extract_lets
    | fail_if_no_progress with_reducible refine Good.mk' ?_
    | with_reducible apply vaultWrite_good
    | with_reducible apply ite_good
    | split

theorem vaultEvent_good {period : Nat} {s : State} (hg : Good Q s) : Good Q (vaultEvent period s) := by
  unfold vaultEvent
  repeat' first
    | with_reducible assumption
    | with_reducible apply emit_good

theorem vaultStatus_good {b : Nat} {s : State} (hg : Good Q s) : Good Q (vaultStatus b s) := by
  unfold vaultStatus
  repeat' first
    | with_reducible assumption
    | fail_if_no_progress with_reducible refine Good.mk' ?_
    | with_reducible apply vaultEvent_good
    | split

theorem setVault_good {v : Vault} {s : State} (hg : Good Q s) (h : v.closed.length ≤ 16) :
    Good Q { s with vault := v } := ⟨hg.queue, { hg.inv with closed := h }⟩

theorem vaultClose_good {newTag a b s} (h : Good Q s) : Good Q (vaultClose newTag a b s) := by
  have i := h.inv.closed
  unfold vaultClose
  extract_lets
  refine vaultEvent_good (vaultWriteAll_good (setVault_good h ?_))
  simp only [List.length_drop, List.length_append, List.length_singleton]
  omega

theorem setSlot_good {i x s} (h : Good Q s) : Good Q (setSlot i x s) :=
  h.frame rfl rfl rfl (by simp [setSlot]) rfl rfl rfl rfl rfl rfl rfl rfl rfl rfl rfl rfl le_rfl rfl rfl le_rfl

theorem slotMove_good {i : Nat} {st : SlotState} {s : State} (hg : Good Q s) : Good Q (slotMove i st s) := by
  unfold slotMove
  repeat' first
    | with_reducible assumption
    | extract_lets
    | fail_if_no_progress with_reducible refine Good.mk' ?_
    | with_reducible apply dripSlot_good
    | with_reducible apply setSlot_good
    | split

theorem ctxMap_good {i : Nat} {f : StepCtx → StepCtx} {s : State} (hg : Good Q s) : Good Q (ctxMap i f s) := by
  unfold ctxMap
  repeat' first
    | with_reducible assumption
    | fail_if_no_progress with_reducible refine Good.mk' ?_
    | with_reducible apply setSlot_good

theorem ctxCount_good {i : Nat} {c : VCounts} {s : State} (hg : Good Q s) : Good Q (ctxCount i c s) := by
  unfold ctxCount
  repeat' first
    | with_reducible assumption
    | fail_if_no_progress with_reducible refine Good.mk' ?_
    | with_reducible apply ctxMap_good
    | intro _

theorem ctxSettle_good {cancelled : Bool} {i : Nat} {s : State} (hg : Good Q s) : Good Q (ctxSettle cancelled i s) := by
  unfold ctxSettle
  repeat' first
    | with_reducible assumption
    | extract_lets
    | fail_if_no_progress with_reducible refine Good.mk' ?_
    | with_reducible apply vaultSettle_good
    | with_reducible apply ctxMap_good
    | with_reducible apply ite_good
    | with_reducible refine pair_good (by assumption) ?_
    | intro _
    | split

theorem finishStep_good {i : Nat} {c : StepCtx} {status : Nat} {s : State} (hg : Good Q s) : Good Q (finishStep i c status s) := by
  unfold finishStep
  repeat' first
    | with_reducible assumption
    | extract_lets
    | with_reducible apply finish_good

theorem endOpen_good {status : Nat} {o : OpenCmd} {s : State} (hg : Good Q s) : Good Q (endOpen status o s) := by
  unfold endOpen
  repeat' first
    | with_reducible assumption
    | with_reducible apply finishStep_good
    | with_reducible apply finish_good
    | with_reducible refine pair_good (by assumption) ?_
    | intro _
    | split

theorem endHeld_good {h : Held} {status : Nat} {s : State} (hg : Good Q s) : Good Q (endHeld h status s) := by
  unfold endHeld
  repeat' first
    | with_reducible assumption
    | extract_lets
    | fail_if_no_progress with_reducible refine Good.mk' ?_
    | with_reducible apply replyOne_good
    | with_reducible apply finish_good
    | intro _
    | split

theorem endHeldAll_good {p : Held → Bool} {status : Nat} {s : State} (hg : Good Q s) : Good Q (endHeldAll p status s) := by
  unfold endHeldAll
  repeat' first
    | with_reducible assumption
    | with_reducible apply endHeld_good
    | with_reducible apply foldl_good
    | intro _

theorem settleAll_good {s : State} (hg : Good Q s) : Good Q (settleAll s) := by
  unfold settleAll
  repeat' first
    | with_reducible assumption
    | extract_lets
    | fail_if_no_progress with_reducible refine Good.mk' ?_
    | with_reducible apply ctxSettle_good
    | with_reducible apply vaultSettle_good
    | with_reducible apply foldl_good
    | intro _
    | split

theorem endWaits_good {p : CellWait → Bool} {s : State} (hg : Good Q s) : Good Q (endWaits p s) := by
  unfold endWaits
  repeat' first
    | with_reducible assumption
    | fail_if_no_progress with_reducible refine Good.mk' ?_
    | with_reducible apply ctrAdd_good
    | with_reducible apply foldl_good
    | intro _

theorem enterFaulted_good {supply : Bool} {e : Event} {s : State} (hg : Good Q s) : Good Q (enterFaulted supply e s) := by
  unfold enterFaulted
  repeat' first
    | with_reducible assumption
    | extract_lets
    | fail_if_no_progress with_reducible refine Good.mk' ?_
    | with_reducible apply endHeldAll_good
    | with_reducible apply endOpen_good
    | with_reducible apply endWaits_good
    | with_reducible apply settleAll_good
    | with_reducible apply ite_good
    | with_reducible apply foldl_good
    | intro _
    | split

theorem secondary_good {e : Event} {s : State} (hg : Good Q s) : Good Q (secondary e s) := by
  unfold secondary
  repeat' first
    | with_reducible assumption
    | with_reducible apply logAdd_good
    | with_reducible apply ctrInc_good

theorem jobFault_good {unit status detail : Nat} {w : Where} {s : State} (hg : Good Q s) : Good Q (jobFault unit status detail w s) := by
  unfold jobFault
  repeat' first
    | with_reducible assumption
    | extract_lets
    | fail_if_no_progress with_reducible refine Good.mk' ?_
    | with_reducible apply secondary_good
    | with_reducible apply enterFaulted_good
    | with_reducible apply logAdd_good
    | with_reducible apply evSend_good
    | with_reducible refine pair_good (by assumption) ?_
    | intro _
    | split

theorem reqFault_good {e : ReqErr} {w : Where} {s : State} (hg : Good Q s) : Good Q (reqFault e w s) := by
  unfold reqFault
  repeat' first
    | with_reducible assumption
    | with_reducible apply jobFault_good

end Sys2Proof.Machine
end

