-- ==== Sys2Proof/Laws/InvKeyway.lean ====
section
/-! SUPPORT. Every operation of Machine/Keyway.lean keeps the invariant and the queue. -/

set_option Elab.async false
set_option linter.unreachableTactic false
set_option linter.unusedTactic false

namespace Sys2Proof.Machine

variable {Q : List Instr}

theorem recordFault_good {f : XFault} {s : State} (hg : Good Q s) : Good Q (recordFault f s) := by
  unfold recordFault
  repeat' first
    | with_reducible assumption
    | fail_if_no_progress with_reducible refine Good.mk' ?_

theorem setKeyway_good {k : Keyway} {s : State} (hg : Good Q s) (h : k.tlb.length ≤ 8192) (h2 : k.upper.length ≤ 512) :
    Good Q { s with keyway := k } := ⟨hg.queue, { hg.inv with tlb := h, upper := h2 }⟩

theorem setHost_good {m : Mem} {s : State} (hg : Good Q s) (h : Mem.wf m = true) :
    Good Q { s with hostMem := m } := ⟨hg.queue, { hg.inv with host := h }⟩

theorem setHost_memWrite {s : State} (hg : Good Q s) (a : Nat) (bs : List Byte) :
    Good Q { s with hostMem := memWrite s.hostMem a bs } := setHost_good hg (memWrite_wf hg.inv.host a bs)

theorem setHost_write {s : State} (hg : Good Q s) (l : List Piece) (bs : List Byte) :
    Good Q { s with hostMem := writePieces l bs s.hostMem } := setHost_good hg (writePieces_wf l bs hg.inv.host)

theorem setHost_write2 {s : State} (hg : Good Q s) (l m : List Piece) (bs cs : List Byte) :
    Good Q { s with hostMem := writePieces l bs (writePieces m cs s.hostMem) } :=
  setHost_good hg (writePieces_wf l bs (writePieces_wf m cs hg.inv.host))

theorem tlbFill_good {t up s} (hg : Good Q s) : Good Q (tlbFill t up s) := by
  unfold tlbFill
  exact setKeyway_good hg (List.length_take_le ..) (List.length_take_le ..)

theorem xlate_good {s : State} {ctx va : Nat} {write : Bool} (hg : Good Q s) : Good Q (xlate s ctx va write).1 := by
  unfold xlate
  repeat' first
    | with_reducible assumption
    | extract_lets
    | fail_if_no_progress with_reducible refine Good.mk' ?_
    | with_reducible apply recordFault_good
    | with_reducible apply tlbFill_good
    | with_reducible apply TRun.write_good
    | with_reducible apply TRun.read_good
    | with_reducible apply ite_good
    | with_reducible refine pair_good (by assumption) ?_
    | intro _
    | split
    | dsimp +zetaDelta only

theorem xlateRun_good : ∀ (fuel : Nat) (s : State) (ctx va len : Nat) (write : Bool) (acc : List Piece), Good Q s →
    Good Q (xlateRun fuel s ctx va len write acc).1 := by
  intro fuel
  induction fuel with
  | zero => intro s ctx va len write acc hg; exact hg
  | succ n ih =>
    intro s ctx va len write acc hg
    unfold xlateRun
    split
    · exact hg
    · split
      · exact  pair_good (by assumption) (xlate_good hg)
      · exact ih _ _ _ _ _ _ ( pair_good (by assumption) (xlate_good hg))

theorem xlateRange_good {ctx va len write s} (hg : Good Q s) : Good Q (xlateRange s ctx va len write).1 :=
  xlateRun_good _ _ _ _ _ _ _ hg

theorem hostRead_good {s : State} {ctx va n : Nat} (hg : Good Q s) : Good Q (hostRead s ctx va n).1 := by
  unfold hostRead
  repeat' first
    | with_reducible assumption
    | with_reducible apply xlateRange_good
    | with_reducible refine pair_good (by assumption) ?_
    | split

theorem hostWrite_good {ctx va bs s} (hg : Good Q s) : Good Q (hostWrite s ctx va bs).1 := by
  unfold hostWrite
  split
  · exact  pair_good (by assumption) (xlateRange_good hg)
  · exact setHost_write ( pair_good (by assumption) (xlateRange_good hg)) _ _

theorem freeBytes_good {s : State} {n : Nat} (hg : Good Q s) : Good Q (freeBytes s n).1 := by
  unfold freeBytes
  repeat' first
    | with_reducible assumption
    | fail_if_no_progress with_reducible refine Good.mk' ?_
    | intro _

theorem freePieces_good {l : List Piece} {s : State} (hg : Good Q s) : Good Q (freePieces l s) := by
  unfold freePieces
  repeat' first
    | with_reducible assumption
    | extract_lets
    | with_reducible refine setHost_memWrite ?_ _ _
    | fail_if_no_progress with_reducible refine Good.mk' ?_
    | with_reducible apply freeBytes_good
    | with_reducible apply foldl_good
    | intro _

theorem errCount_good {r : ReqErr} {s : State} (hg : Good Q s) : Good Q (errCount r s) := by
  unfold errCount
  repeat' first
    | with_reducible assumption
    | fail_if_no_progress with_reducible refine Good.mk' ?_
    | with_reducible apply ctrInc_good
    | with_reducible apply TRun.write_good
    | split

theorem readBroken_good {l : List Piece} {e : IoErr} {s : State} (hg : Good Q s) : Good Q (readBroken l e s) := by
  unfold readBroken
  repeat' first
    | with_reducible assumption
    | with_reducible apply errCount_good

theorem writeBroken_good {l : List Piece} {bs : List Byte} {e : IoErr} {s : State} (hg : Good Q s) : Good Q (writeBroken l bs e s) := by
  unfold writeBroken
  repeat' first
    | with_reducible assumption
    | extract_lets
    | with_reducible refine setHost_write ?_ _ _
    | fail_if_no_progress with_reducible refine Good.mk' ?_
    | with_reducible apply freePieces_good
    | with_reducible apply errCount_good

theorem walkBroken_good {e : IoErr} {ctx level va : Nat} {s : State} (hg : Good Q s) : Good Q (walkBroken e ctx level va s) := by
  unfold walkBroken
  repeat' first
    | with_reducible assumption
    | extract_lets
    | with_reducible apply errCount_good
    | with_reducible apply recordFault_good

theorem jobIo_good {io : Io} {rd wr : List Piece} {bs : List Byte} {w : Where} {go : State → State} {s : State} (hgo : ∀ u, Good Q u → Good Q (go u)) (hg : Good Q s) : Good Q (jobIo io rd wr bs w go s) := by
  unfold jobIo
  repeat' first
    | with_reducible assumption
    | extract_lets
    | fail_if_no_progress with_reducible refine Good.mk' ?_
    | with_reducible apply hgo
    | with_reducible apply jobFault_good
    | with_reducible apply walkBroken_good
    | with_reducible apply reqFault_good
    | with_reducible apply writeBroken_good
    | with_reducible apply readBroken_good
    | with_reducible refine pair_good (by assumption) ?_
    | split

theorem xlateFault_good {f : XFault} {w : Where} {s : State} (hg : Good Q s) : Good Q (xlateFault f w s) := by
  unfold xlateFault
  repeat' first
    | with_reducible assumption
    | with_reducible apply jobFault_good

theorem tlbDrop_good {lo len s} (hg : Good Q s) : Good Q (tlbDrop lo len s) := by
  unfold tlbDrop
  exact setKeyway_good hg ((List.length_filter_le ..).trans hg.inv.tlb) ((List.length_filter_le ..).trans hg.inv.upper)

theorem tlbDropCtx_good {ctx s} (hg : Good Q s) : Good Q (tlbDropCtx ctx s) := by
  unfold tlbDropCtx
  exact setKeyway_good hg ((List.length_filter_le ..).trans hg.inv.tlb) ((List.length_filter_le ..).trans hg.inv.upper)

theorem tlbClear_good {s} (hg : Good Q s) : Good Q (tlbClear s) := setKeyway_good hg (by simp) (by simp)

theorem mmuRetire_good {s : State} (hg : Good Q s) : Good Q (mmuRetire s) := by
  unfold mmuRetire
  repeat' first
    | with_reducible assumption
    | extract_lets
    | fail_if_no_progress with_reducible refine Good.mk' ?_
    | with_reducible apply finish_good
    | with_reducible apply foldl_good
    | intro _

theorem mmuEnd_good {unmapJob : Bool} {c : OpenCmd} {s : State} (hg : Good Q s) : Good Q (mmuEnd unmapJob c s) := by
  unfold mmuEnd
  repeat' first
    | with_reducible assumption
    | fail_if_no_progress with_reducible refine Good.mk' ?_
    | with_reducible apply mmuRetire_good

end Sys2Proof.Machine
end

