-- ==== Sys2Proof/Laws/InvLatch.lean ====
section
/-! SUPPORT. Every operation of Machine/Latch.lean keeps the invariant and the queue. -/

set_option Elab.async false
set_option linter.unreachableTactic false
set_option linter.unusedTactic false

namespace Sys2Proof.Machine

variable {Q : List Instr}

theorem takePacket_good {p : Packet} {s : State} (hg : Good Q s) : Good Q (takePacket p s) := by
  unfold takePacket
  repeat' first
    | with_reducible assumption
    | extract_lets
    | fail_if_no_progress with_reducible refine Good.mk' ?_
    | with_reducible apply recOriginal_good
    | with_reducible apply dripAt_good
    | with_reducible apply ctrInc_good

theorem holdCmd_good {why : HoldWhy} {p : Packet} {x : Ext} {order : Nat} {s : State} (hg : Good Q s) : Good Q (holdCmd why p x order s) := by
  unfold holdCmd
  repeat' first
    | with_reducible assumption
    | fail_if_no_progress with_reducible refine Good.mk' ?_

theorem takeCmd_good {op : Nat} {p : Packet} {x : Ext} {start : Nat → State → State} {s : State} (hstart : ∀ (x0 : Nat), ∀ u, Good Q u → Good Q (start x0 u)) (hg : Good Q s) : Good Q (takeCmd op p x start s) := by
  unfold takeCmd
  repeat' first
    | with_reducible assumption
    | extract_lets
    | with_reducible apply hstart
    | with_reducible apply takePacket_good
    | with_reducible apply holdCmd_good
    | intro _
    | split

theorem checkRanges_good : ∀ (l : List (Nat × Nat × Nat × Bool)) (io : Io) (s : State), Good Q s →
    Good Q (checkRanges l io s).1 := by
  intro l io
  induction l with
  | nil => intro s hg; exact hg
  | cons x r ih =>
    intro s hg
    obtain ⟨ctx, va, n, w⟩ := x
    unfold checkRanges
    split
    · exact walkBroken_good hg
    · split
      · exact  pair_good (by assumption) (xlateRange_good hg)
      · exact ih _ ( pair_good (by assumption) (xlateRange_good hg))

/-- The continuation of the checks runs on a good state, with a completion entry free if the command is asynchronous. -/
theorem checked_good {op async p order io c ok s} (hg : Good Q s)
    (hok : ∀ t, Good Q t → (async = true → t.latch.completions < 512) → Good Q (ok t)) :
    Good Q (checked op async p order io c ok s) := by
  unfold checked
  split
  · exact replyOne_good hg
  · split
    · exact replyOne_good ( pair_good (by assumption) (checkRanges_good _ _ _ hg))
    · have hs :=  pair_good (by assumption) (checkRanges_good _ _ _ hg)
      split
      · exact replyOne_good hs
      · split
        · exact replyOne_good hs
        · rename_i hc
          exact hok _ hs fun ha => by simp [ha] at hc; exact hc

theorem accept_good {p order r0 s} (hg : Good Q s) (h : s.latch.completions < 512) : Good Q (accept p order r0 s) := by
  unfold accept
  exact reply_good ⟨hg.queue, { hg.inv with completions := h }⟩

theorem syncCmd_good {op p order io c f s} (hg : Good Q s) (hf : ∀ u, Good Q u → Good Q (f u)) :
    Good Q (syncCmd op p order io c f s) := checked_good hg fun u hu _ => hf u hu

theorem asyncCmd_good {op p order io c f s} (hg : Good Q s) (hf : ∀ o t, Good Q t → Good Q (f o t)) :
    Good Q (asyncCmd op p order io c f s) := checked_good hg fun _ ht hc => hf _ _ (accept_good ht (hc rfl))

theorem braceCmd_good {op p x order c f s} (hg : Good Q s) (hf : ∀ o t, Good Q t → Good Q (f o t)) :
    Good Q (braceCmd op p x order c f s) := by
  refine checked_good hg fun t ht hc => ?_
  have ha := accept_good (p := p) (order := order) (r0 := 0) ht (hc rfl)
  extract_lets
  split
  · exact holdCmd_good ha
  · exact hf _ _ ha

theorem ownRead_good {ctx va n : Nat} {io : Io} {s : State} (hg : Good Q s) : Good Q (ownRead ctx va n io s).1 := by
  unfold ownRead
  repeat' first
    | with_reducible assumption
    | fail_if_no_progress with_reducible refine Good.mk' ?_
    | with_reducible apply walkBroken_good
    | with_reducible apply hostRead_good
    | with_reducible apply xlateRange_good
    | with_reducible apply readBroken_good
    | with_reducible refine pair_good (by assumption) ?_
    | split

theorem ownWrite_good {ctx va : Nat} {bs : List Byte} {io : Io} {s : State} (hg : Good Q s) : Good Q (ownWrite ctx va bs io s).1 := by
  unfold ownWrite
  repeat' first
    | with_reducible assumption
    | with_reducible apply walkBroken_good
    | with_reducible apply hostWrite_good
    | with_reducible apply xlateRange_good
    | with_reducible apply writeBroken_good
    | with_reducible refine pair_good (by assumption) ?_
    | split

theorem execLatchFramingError_good {p : Packet} {s : State} {nx} (hg : Good Q s) (hx : execLatchFramingError p s = .next nx) : Good Q nx := by
  unfold execLatchFramingError at hx
  refine live_good hx ?_
  repeat' first
    | with_reducible assumption
    | extract_lets
    | with_reducible apply replyOne_good
    | with_reducible apply takePacket_good
    | intro _
    | split

theorem execLatchStrayBeat_good {s : State} {nx} (hg : Good Q s) (hx : execLatchStrayBeat s = .next nx) : Good Q nx := by
  unfold execLatchStrayBeat at hx
  refine live_good hx ?_
  repeat' first
    | with_reducible assumption
    | intro _

theorem execLatchParityError_good {hdr : List Byte} {hdrGood : Bool} {s : State} {nx} (hg : Good Q s) (hx : execLatchParityError hdr hdrGood s = .next nx) : Good Q nx := by
  unfold execLatchParityError at hx
  refine live_good hx ?_
  repeat' first
    | with_reducible assumption
    | extract_lets
    | fail_if_no_progress with_reducible refine Good.mk' ?_
    | with_reducible apply takePacket_good
    | with_reducible apply replyOne_good
    | with_reducible apply dripAt_good
    | intro _
    | split

end Sys2Proof.Machine
end

