-- ==== Sys2Proof/Laws/InvTransport.lean ====
section
/-! SUPPORT. Every operation of Machine/Transport.lean keeps the invariant and the queue. -/

set_option Elab.async false
set_option linter.unreachableTactic false
set_option linter.unusedTactic false

namespace Sys2Proof.Machine

variable {Q : List Instr}

theorem setTx_good {t : TxSpace} {s : State} (hg : Good Q s) : Good Q (setTx t s) := by
  unfold setTx
  repeat' first
    | with_reducible assumption
    | fail_if_no_progress with_reducible refine Good.mk' ?_
    | intro _

theorem setRx_good {t : RxSpace} {s : State} (hg : Good Q s) : Good Q (setRx t s) := by
  unfold setRx
  repeat' first
    | with_reducible assumption
    | fail_if_no_progress with_reducible refine Good.mk' ?_
    | intro _

theorem setPath_good {p : Path} {s : State} (hg : Good Q s) : Good Q (setPath p s) := by
  unfold setPath
  repeat' first
    | with_reducible assumption
    | fail_if_no_progress with_reducible refine Good.mk' ?_
    | intro _

theorem bumpPaths_good {k : Nat} {s : State} (hg : Good Q s) : Good Q (bumpPaths k s) := by
  unfold bumpPaths
  repeat' first
    | with_reducible assumption
    | fail_if_no_progress with_reducible refine Good.mk' ?_
    | intro _
    | split

theorem bumpPath_good {dst : Nat} {s : State} (hg : Good Q s) : Good Q (bumpPath dst s) := by
  unfold bumpPath
  repeat' first
    | with_reducible assumption
    | extract_lets
    | fail_if_no_progress with_reducible refine Good.mk' ?_
    | with_reducible apply setPath_good

theorem carryAck_good {seat : Nat} {h : KftHdr} {s : State} (hg : Good Q s) : Good Q (carryAck seat h s).1 := by
  unfold carryAck
  repeat' first
    | with_reducible assumption
    | fail_if_no_progress with_reducible refine Good.mk' ?_
    | with_reducible apply setRx_good
    | with_reducible refine pair_good (by assumption) ?_
    | split

theorem frameOut_good {k : Nat} {h : KftHdr} {n : Nat} {s : State} (hg : Good Q s) : Good Q (frameOut k h n s) := by
  unfold frameOut
  repeat' first
    | with_reducible assumption
    | extract_lets
    | fail_if_no_progress with_reducible refine Good.mk' ?_
    | with_reducible apply ctrInc_good
    | with_reducible apply ctrAdd_good

theorem putChunk_good {c : TxChunk} {s : State} (hg : Good Q s) : Good Q (putChunk c s) := by
  unfold putChunk
  repeat' first
    | with_reducible assumption
    | fail_if_no_progress with_reducible refine Good.mk' ?_
    | intro _
    | split

theorem transmit_good {c : TxChunk} {s : State} (hg : Good Q s) : Good Q (transmit c s) := by
  unfold transmit
  repeat' first
    | with_reducible assumption
    | extract_lets
    | fail_if_no_progress with_reducible refine Good.mk' ?_
    | with_reducible apply carryAck_good
    | with_reducible apply frameOut_good
    | with_reducible apply ctrInc_good
    | with_reducible apply putChunk_good
    | with_reducible apply ite_good
    | intro _
    | split
    | dsimp +zetaDelta only

theorem placeChunk_good {s : State} {c : TxChunk} (hg : Good Q s) : Good Q (placeChunk s c) := by
  unfold placeChunk
  repeat' first
    | with_reducible assumption
    | extract_lets
    | fail_if_no_progress with_reducible refine Good.mk' ?_
    | with_reducible apply setPath_good
    | with_reducible apply putChunk_good
    | with_reducible refine pair_good (by assumption) ?_
    | split

theorem placeCtl_good {s : State} {w : CtlWait} (hg : Good Q s) : Good Q (placeCtl s w).1 := by
  unfold placeCtl
  repeat' first
    | with_reducible assumption
    | extract_lets
    | fail_if_no_progress with_reducible refine Good.mk' ?_
    | with_reducible apply setPath_good
    | with_reducible refine pair_good (by assumption) ?_
    | split

theorem pumpCtl_good {s : State} (hg : Good Q s) : Good Q (pumpCtl s) := by
  unfold pumpCtl
  repeat' first
    | with_reducible assumption
    | extract_lets
    | fail_if_no_progress with_reducible refine Good.mk' ?_
    | with_reducible apply placeCtl_good
    | with_reducible apply frameOut_good
    | with_reducible refine pair_good (by assumption) ?_
    | with_reducible apply foldl_good
    | intro _
    | split

theorem pumpTx_good {s : State} (hg : Good Q s) : Good Q (pumpTx s) := by
  unfold pumpTx
  repeat' first
    | with_reducible assumption
    | extract_lets
    | with_reducible apply placeChunk_good
    | with_reducible apply pumpCtl_good
    | with_reducible apply transmit_good
    | with_reducible apply foldl_good
    | intro _

theorem requeue_good {c : TxChunk} {s : State} (hg : Good Q s) : Good Q (requeue c s) := by
  unfold requeue
  repeat' first
    | with_reducible assumption
    | fail_if_no_progress with_reducible refine Good.mk' ?_
    | with_reducible apply jobFault_good
    | with_reducible apply putChunk_good
    | split

theorem resendAll_good {l : List TxChunk} {s : State} (hg : Good Q s) : Good Q (resendAll l s) := by
  unfold resendAll
  repeat' first
    | with_reducible assumption
    | with_reducible apply pumpTx_good
    | with_reducible apply requeue_good
    | with_reducible apply foldl_good
    | intro _
    | split

theorem resend_good {c : TxChunk} {s : State} (hg : Good Q s) : Good Q (resend c s) := by
  unfold resend
  repeat' first
    | with_reducible assumption
    | with_reducible apply resendAll_good

theorem sendPart_good {seat vc : Nat} {first : Option Nat} {h : KftHdr} {payload : List Byte} {s : State} (hg : Good Q s) : Good Q (sendPart seat vc first h payload s).1 := by
  unfold sendPart
  repeat' first
    | with_reducible assumption
    | extract_lets
    | fail_if_no_progress with_reducible refine Good.mk' ?_
    | with_reducible apply ctrInc_good
    | with_reducible apply setTx_good
    | with_reducible apply pumpTx_good
    | split

theorem sendChunk_good {seat vc : Nat} {h : KftHdr} {payload : List Byte} {s : State} (hg : Good Q s) : Good Q (sendChunk seat vc h payload s).1 := by
  unfold sendChunk
  repeat' first
    | with_reducible assumption
    | with_reducible apply sendPart_good

theorem sendMsg_good {seat vc : Nat} {h : KftHdr} {off : Nat} {body : List Byte} {s : State} (hg : Good Q s) : Good Q (sendMsg seat vc h off body s).1 := by
  unfold sendMsg
  repeat' first
    | with_reducible assumption
    | extract_lets
    | fail_if_no_progress with_reducible refine Good.mk' ?_
    | with_reducible apply sendPart_good
    | with_reducible apply ite_good
    | with_reducible apply foldl_good
    | with_reducible apply foldl_fst_good
    | intro _
    | split
    | dsimp +zetaDelta only

theorem sendNotice_good {seat cls : Nat} {body : List Byte} {s : State} (hg : Good Q s) : Good Q (sendNotice seat cls body s).1 := by
  unfold sendNotice
  repeat' first
    | with_reducible assumption
    | fail_if_no_progress with_reducible refine Good.mk' ?_
    | with_reducible apply sendMsg_good

theorem sendCtl_good {h : KftHdr} {s : State} (hg : Good Q s) : Good Q (sendCtl h s) := by
  unfold sendCtl
  repeat' first
    | with_reducible assumption
    | extract_lets
    | fail_if_no_progress with_reducible refine Good.mk' ?_
    | with_reducible apply pumpCtl_good
    | split

theorem sendAck_good {seat vc epoch : Nat} {s : State} (hg : Good Q s) : Good Q (sendAck seat vc epoch s) := by
  unfold sendAck
  repeat' first
    | with_reducible assumption
    | extract_lets
    | fail_if_no_progress with_reducible refine Good.mk' ?_
    | with_reducible apply sendCtl_good
    | with_reducible apply setRx_good
    | intro _

theorem sendNack_good {h : KftHdr} {code hinge : Nat} {s : State} (hg : Good Q s) : Good Q (sendNack h code hinge s) := by
  unfold sendNack
  repeat' first
    | with_reducible assumption
    | fail_if_no_progress with_reducible refine Good.mk' ?_
    | with_reducible apply ctrInc_good
    | with_reducible apply sendCtl_good

theorem markApplied_good {seat vc seq epoch : Nat} {s : State} (hg : Good Q s) : Good Q (markApplied seat vc seq epoch s) := by
  unfold markApplied
  repeat' first
    | with_reducible assumption
    | extract_lets
    | fail_if_no_progress with_reducible refine Good.mk' ?_
    | with_reducible apply setRx_good
    | with_reducible apply sendAck_good
    | split

theorem fenceCheck_good {s : State} (hg : Good Q s) : Good Q (fenceCheck s) := by
  unfold fenceCheck
  repeat' first
    | with_reducible assumption
    | extract_lets
    | fail_if_no_progress with_reducible refine Good.mk' ?_
    | with_reducible apply finish_good
    | with_reducible refine pair_good (by assumption) ?_
    | with_reducible apply foldl_good
    | intro _
    | split

theorem fenceStart_good {cmd : Option OpenCmd} {seats vcs : List Nat} {s : State} (hg : Good Q s) : Good Q (fenceStart cmd seats vcs s) := by
  unfold fenceStart
  repeat' first
    | with_reducible assumption
    | extract_lets
    | fail_if_no_progress with_reducible refine Good.mk' ?_
    | with_reducible apply fenceCheck_good
    | intro _
    | split

theorem takeCoverage_good {seat vc cum : Nat} {sacks : List Nat} {s : State} (hg : Good Q s) : Good Q (takeCoverage seat vc cum sacks s) := by
  unfold takeCoverage
  repeat' first
    | with_reducible assumption
    | extract_lets
    | fail_if_no_progress with_reducible refine Good.mk' ?_
    | with_reducible apply setTx_good
    | with_reducible apply fenceCheck_good
    | with_reducible apply pumpTx_good
    | with_reducible apply ite_good
    | intro _
    | split

end Sys2Proof.Machine
end

