-- ==== Sys2Proof/Laws/InvLinks.lean ====
section
/-! SUPPORT. Every operation of Machine/Links.lean keeps the invariant and the queue. -/

set_option Elab.async false
set_option linter.unreachableTactic false
set_option linter.unusedTactic false

namespace Sys2Proof.Machine

variable {Q : List Instr}

theorem setLink_good {k : Nat} {l : Link} {s : State} (hg : Good Q s) : Good Q (setLink k l s) := by
  unfold setLink
  repeat' first
    | with_reducible assumption
    | fail_if_no_progress with_reducible refine Good.mk' ?_

theorem laneMap_good {i : Nat} {f : Lane → Lane} {s : State} (hg : Good Q s) : Good Q (laneMap i f s) := by
  unfold laneMap
  repeat' first
    | with_reducible assumption
    | fail_if_no_progress with_reducible refine Good.mk' ?_

theorem lanesMap_good {l : List Nat} {f : Lane → Lane} {s : State} (hg : Good Q s) : Good Q (lanesMap l f s) := by
  unfold lanesMap
  repeat' first
    | with_reducible assumption
    | with_reducible apply laneMap_good
    | with_reducible apply foldl_good
    | intro _

theorem linkEnter_good {k : Nat} {st : LinkState} {s : State} (hg : Good Q s) : Good Q (linkEnter k st s) := by
  unfold linkEnter
  repeat' first
    | with_reducible assumption
    | extract_lets
    | fail_if_no_progress with_reducible refine Good.mk' ?_
    | with_reducible apply setLink_good
    | with_reducible apply emit_good
    | with_reducible apply dripAt_good

theorem unplace_good {k : Nat} {s : State} (hg : Good Q s) : Good Q (unplace k s) := by
  unfold unplace
  repeat' first
    | with_reducible assumption
    | fail_if_no_progress with_reducible refine Good.mk' ?_
    | intro _

theorem resendLink_good {k : Nat} {s : State} (hg : Good Q s) : Good Q (resendLink k s) := by
  unfold resendLink
  repeat' first
    | with_reducible assumption
    | extract_lets
    | with_reducible apply unplace_good
    | with_reducible apply pumpTx_good
    | with_reducible apply requeue_good
    | with_reducible apply foldl_good
    | intro _

theorem leaveSpray_good {k : Nat} {was : LinkState} {s : State} (hg : Good Q s) : Good Q (leaveSpray k was s) := by
  unfold leaveSpray
  repeat' first
    | with_reducible assumption
    | with_reducible apply bumpPaths_good
    | split

theorem linkDown_good {k : Nat} {s : State} (hg : Good Q s) : Good Q (linkDown k s) := by
  unfold linkDown
  repeat' first
    | with_reducible assumption
    | extract_lets
    | fail_if_no_progress with_reducible refine Good.mk' ?_
    | with_reducible apply setLink_good
    | with_reducible apply resendLink_good
    | with_reducible apply leaveSpray_good
    | with_reducible apply ctrInc_good
    | with_reducible apply linkEnter_good
    | with_reducible apply ite_good
    | intro _
    | split

theorem linkTrain_good {k : Nat} {s : State} (hg : Good Q s) : Good Q (linkTrain k s) := by
  unfold linkTrain
  repeat' first
    | with_reducible assumption
    | extract_lets
    | fail_if_no_progress with_reducible refine Good.mk' ?_
    | with_reducible apply linkEnter_good
    | with_reducible apply lanesMap_good
    | intro _

theorem linkOff_good {k : Nat} {s : State} (hg : Good Q s) : Good Q (linkOff k s) := by
  unfold linkOff
  repeat' first
    | with_reducible assumption
    | extract_lets
    | with_reducible apply resendLink_good
    | with_reducible apply leaveSpray_good
    | with_reducible apply linkEnter_good
    | split

theorem hingeOff_good {p : Nat} {rates : Bool} {s : State} (hg : Good Q s) : Good Q (hingeOff p rates s) := by
  unfold hingeOff
  repeat' first
    | with_reducible assumption
    | extract_lets
    | fail_if_no_progress with_reducible refine Good.mk' ?_
    | with_reducible apply linkOff_good
    | with_reducible apply lanesMap_good
    | with_reducible apply foldl_good
    | intro _
    | split

theorem hingeStart_good {p : Nat} {s : State} (hg : Good Q s) : Good Q (hingeStart p s) := by
  unfold hingeStart
  repeat' first
    | with_reducible assumption
    | with_reducible apply linkTrain_good
    | with_reducible apply foldl_good
    | intro _
    | split

theorem ledgerPut_good {rec_ : Nat} {s : State} (hg : Good Q s) : Good Q (ledgerPut rec_ s) := by
  unfold ledgerPut
  repeat' first
    | with_reducible assumption
    | extract_lets
    | fail_if_no_progress with_reducible refine Good.mk' ?_
    | with_reducible apply ite_good
    | split

theorem ledgerAdd_good {action cause value where_ : Nat} {s : State} (hg : Good Q s) : Good Q (ledgerAdd action cause value where_ s) := by
  unfold ledgerAdd
  repeat' first
    | with_reducible assumption
    | extract_lets
    | with_reducible apply dripAt_good
    | with_reducible apply aoHold_good
    | with_reducible apply ledgerPut_good
    | split

theorem trainFailed_good {hinge lane : Nat} {s : State} (hg : Good Q s) : Good Q (trainFailed hinge lane s) := by
  unfold trainFailed
  repeat' first
    | with_reducible assumption
    | extract_lets
    | with_reducible apply ledgerAdd_good
    | with_reducible apply linkDown_good
    | split

theorem tryUp_good {k : Nat} {s : State} (hg : Good Q s) : Good Q (tryUp k s) := by
  unfold tryUp
  repeat' first
    | with_reducible assumption
    | extract_lets
    | with_reducible apply pumpTx_good
    | with_reducible apply bumpPaths_good
    | with_reducible apply linkEnter_good
    | split

theorem execLaneTrainDone_good {hinge lane : Nat} {ok : Bool} {eye : Nat} {s : State} {nx} (hg : Good Q s) (hx : execLaneTrainDone hinge lane ok eye s = .next nx) : Good Q nx := by
  unfold execLaneTrainDone at hx
  refine live_good hx ?_
  repeat' first
    | with_reducible assumption
    | extract_lets
    | fail_if_no_progress with_reducible refine Good.mk' ?_
    | with_reducible apply laneMap_good
    | with_reducible apply linkEnter_good
    | with_reducible apply setLink_good
    | with_reducible apply trainFailed_good
    | intro _
    | split

theorem execLaneTrainTimeout_good {hinge lane : Nat} {s : State} {nx} (hg : Good Q s) (hx : execLaneTrainTimeout hinge lane s = .next nx) : Good Q nx := by
  unfold execLaneTrainTimeout at hx
  refine live_good hx ?_
  repeat' first
    | with_reducible assumption
    | extract_lets
    | fail_if_no_progress with_reducible refine Good.mk' ?_
    | with_reducible apply trainFailed_good
    | with_reducible apply laneMap_good
    | intro _
    | split

theorem execLaneLockChange_good {hinge lane : Nat} {lock : Bool} {s : State} {nx} (hg : Good Q s) (hx : execLaneLockChange hinge lane lock s = .next nx) : Good Q nx := by
  unfold execLaneLockChange at hx
  refine live_good hx ?_
  repeat' first
    | with_reducible assumption
    | extract_lets
    | fail_if_no_progress with_reducible refine Good.mk' ?_
    | with_reducible apply laneMap_good
    | with_reducible apply tryUp_good
    | with_reducible apply linkDown_good
    | intro _
    | split

theorem execLinkAlignTimeout_good {link : Nat} {s : State} {nx} (hg : Good Q s) (hx : execLinkAlignTimeout link s = .next nx) : Good Q nx := by
  unfold execLinkAlignTimeout at hx
  refine live_good hx ?_
  repeat' first
    | with_reducible assumption
    | with_reducible apply linkDown_good
    | intro _
    | split

theorem execFecFailLimit_good {link : Nat} {s : State} {nx} (hg : Good Q s) (hx : execFecFailLimit link s = .next nx) : Good Q nx := by
  unfold execFecFailLimit at hx
  refine live_good hx ?_
  repeat' first
    | with_reducible assumption
    | with_reducible apply linkDown_good
    | intro _
    | split

theorem execRemoteFaultReceive_good {link : Nat} {s : State} {nx} (hg : Good Q s) (hx : execRemoteFaultReceive link s = .next nx) : Good Q nx := by
  unfold execRemoteFaultReceive at hx
  refine live_good hx ?_
  repeat' first
    | with_reducible assumption
    | fail_if_no_progress with_reducible refine Good.mk' ?_
    | with_reducible apply linkDown_good
    | with_reducible apply setLink_good
    | intro _
    | split

theorem execLaneAlignmentLoss_good {link lane : Nat} {s : State} {nx} (hg : Good Q s) (hx : execLaneAlignmentLoss link lane s = .next nx) : Good Q nx := by
  unfold execLaneAlignmentLoss at hx
  refine live_good hx ?_
  repeat' first
    | with_reducible assumption
    | with_reducible apply linkDown_good
    | intro _
    | split

theorem execAlignmentMarkersFound_good {link : Nat} {s : State} {nx} (hg : Good Q s) (hx : execAlignmentMarkersFound link s = .next nx) : Good Q nx := by
  unfold execAlignmentMarkersFound at hx
  refine live_good hx ?_
  repeat' first
    | with_reducible assumption
    | fail_if_no_progress with_reducible refine Good.mk' ?_
    | with_reducible apply tryUp_good
    | with_reducible apply setLink_good
    | intro _
    | split

theorem execRelinkHoldoffExpiry_good {link : Nat} {s : State} {nx} (hg : Good Q s) (hx : execRelinkHoldoffExpiry link s = .next nx) : Good Q nx := by
  unfold execRelinkHoldoffExpiry at hx
  refine live_good hx ?_
  repeat' first
    | with_reducible assumption
    | with_reducible apply linkTrain_good
    | intro _
    | split

theorem execRelinkHoldoffRestore_good {link : Nat} {s : State} {nx} (hg : Good Q s) (hx : execRelinkHoldoffRestore link s = .next nx) : Good Q nx := by
  unfold execRelinkHoldoffRestore at hx
  refine live_good hx ?_
  repeat' first
    | with_reducible assumption
    | fail_if_no_progress with_reducible refine Good.mk' ?_
    | with_reducible apply setLink_good
    | intro _
    | split

theorem execQuiesceComplete_good {link : Nat} {s : State} {nx} (hg : Good Q s) (hx : execQuiesceComplete link s = .next nx) : Good Q nx := by
  unfold execQuiesceComplete at hx
  refine live_good hx ?_
  repeat' first
    | with_reducible assumption
    | with_reducible apply linkTrain_good
    | with_reducible apply resendLink_good
    | intro _
    | split

theorem execPfcFrameReceive_good {hinge : Nat} {pause resume : List Nat} {s : State} {nx} (hg : Good Q s) (hx : execPfcFrameReceive hinge pause resume s = .next nx) : Good Q nx := by
  unfold execPfcFrameReceive at hx
  refine live_good hx ?_
  repeat' first
    | with_reducible assumption
    | extract_lets
    | fail_if_no_progress with_reducible refine Good.mk' ?_
    | with_reducible apply pumpTx_good
    | intro _
    | split

theorem execPfcPauseExpiry_good {hinge prio : Nat} {s : State} {nx} (hg : Good Q s) (hx : execPfcPauseExpiry hinge prio s = .next nx) : Good Q nx := by
  unfold execPfcPauseExpiry at hx
  refine live_good hx ?_
  repeat' first
    | with_reducible assumption
    | fail_if_no_progress with_reducible refine Good.mk' ?_
    | with_reducible apply pumpTx_good
    | intro _

end Sys2Proof.Machine
end

