-- ==== Sys2Proof/Laws/InvTrace.lean ====
section
/-! SUPPORT. Every operation of Machine/Trace.lean keeps the invariant and the queue. -/

set_option Elab.async false
set_option linter.unreachableTactic false
set_option linter.unusedTactic false

namespace Sys2Proof.Machine

variable {Q : List Instr}

theorem traceApply_good {c : TraceCfg} {s : State} (hg : Good Q s) : Good Q (traceApply c s) := by
  unfold traceApply
  repeat' first
    | with_reducible assumption
    | extract_lets
    | (with_reducible refine setDrip_good hg ?_; simp; done)
    | fail_if_no_progress with_reducible refine Good.mk' ?_
    | with_reducible apply setP_good
    | split

theorem startTraceCfg_good {p : Packet} {x : Ext} {order : Nat} {s : State} (hg : Good Q s) : Good Q (startTraceCfg p x order s) := by
  unfold startTraceCfg
  repeat' first
    | with_reducible assumption
    | extract_lets
    | with_reducible apply syncCmd_good
    | with_reducible apply replyOne_good
    | with_reducible apply traceApply_good
    | with_reducible apply ite_good
    | intro _
    | split

theorem execTraceCfg_good {p : Packet} {io : Io} {s : State} {nx} (hg : Good Q s) (hx : execTraceCfg p io s = .next nx) : Good Q nx := by
  unfold execTraceCfg at hx
  refine live_good hx ?_
  repeat' first
    | with_reducible assumption
    | with_reducible apply takeCmd_good
    | with_reducible apply startTraceCfg_good
    | intro _

theorem execDripSample_good {s : State} {nx} (hg : Good Q s) (hx : execDripSample s = .next nx) : Good Q nx := by
  unfold execDripSample at hx
  refine live_good hx ?_
  repeat' first
    | with_reducible assumption
    | extract_lets
    | with_reducible apply dripAt_good
    | with_reducible apply foldl_good
    | intro _
    | split

theorem dripStop_good {code : Nat} {s : State} (hg : Good Q s) : Good Q (dripStop code s) := by
  unfold dripStop
  repeat' first
    | with_reducible assumption
    | fail_if_no_progress with_reducible refine Good.mk' ?_

theorem execDripRecordWritten_good {io : Io} {s : State} {t} (hg : Good Q s) (hx : execDripRecordWritten io s = .next t) :
    Good Q t := by
  unfold execDripRecordWritten at hx
  refine live_good hx ?_
  split
  · exact hg
  · rename_i r rest hb
    have hl : 32 * rest.length ≤ 262144 := by have := hg.inv.drip; rw [hb] at this; simp at this; omega
    split
    · split
      · exact dripStop_good (pair_good (by assumption) (ownWrite_good hg))
      · exact setDrip_good (pair_good (by assumption) (ownWrite_good hg)) hl
    · exact hg

theorem execDripRingFault_good {code : Nat} {s : State} {nx} (hg : Good Q s) (hx : execDripRingFault code s = .next nx) : Good Q nx := by
  unfold execDripRingFault at hx
  refine live_good hx ?_
  repeat' first
    | with_reducible assumption
    | with_reducible apply dripStop_good
    | intro _
    | split

theorem recCtl_good {old new : Nat} {s : State} (hg : Good Q s) : Good Q (recCtl old new s) := by
  unfold recCtl
  repeat' first
    | with_reducible assumption
    | (with_reducible refine setRec_good hg ?_; simp [Rec.reset, sumN]; done)
    | fail_if_no_progress with_reducible refine Good.mk' ?_
    | with_reducible apply setP_good
    | split

theorem recStop_good {code : Nat} {s : State} (hg : Good Q s) : Good Q (recStop code s) := by
  unfold recStop
  repeat' first
    | with_reducible assumption
    | fail_if_no_progress with_reducible refine Good.mk' ?_

theorem execRecordWritten_good {io : Io} {s : State} {t} (hg : Good Q s) (hx : execRecordWritten io s = .next t) :
    Good Q t := by
  unfold execRecordWritten at hx
  refine live_good hx ?_
  split
  · exact hg
  · rename_i r rest hb
    have hl : sumN (rest.map recLen) ≤ 524288 := by
      have := hg.inv.recs; rw [hb, List.map_cons, sumN_cons] at this; omega
    split
    · extract_lets base size head bs wraps at_ q
      have h1 : Good Q (if wraps = true then ownWrite 0 (base + head) (padRecord r.kt (size - head)) q.1 s else (s, none)).1 := by
        split
        · exact ownWrite_good hg
        · exact hg
      split
      · exact recStop_good (pair_good (by assumption) h1)
      · split
        · exact recStop_good (pair_good (by assumption) (ownWrite_good (pair_good (by assumption) h1)))
        · exact setRec_good (pair_good (by assumption) (ownWrite_good (pair_good (by assumption) h1))) hl
    · exact hg

theorem execRecordRingFault_good {code : Nat} {s : State} {nx} (hg : Good Q s) (hx : execRecordRingFault code s = .next nx) : Good Q nx := by
  unfold execRecordRingFault at hx
  refine live_good hx ?_
  repeat' first
    | with_reducible assumption
    | with_reducible apply recStop_good
    | intro _
    | split

theorem startDumpRead_good {p : Packet} {x : Ext} {order : Nat} {s : State} (hg : Good Q s) : Good Q (startDumpRead p x order s) := by
  unfold startDumpRead
  repeat' first
    | with_reducible assumption
    | extract_lets
    | fail_if_no_progress with_reducible refine Good.mk' ?_
    | with_reducible apply asyncCmd_good
    | with_reducible apply ownWrite_good
    | with_reducible apply finish_good
    | with_reducible apply ite_good
    | with_reducible refine pair_good (by assumption) ?_
    | intro _
    | split

theorem execDumpRead_good {p : Packet} {io : Io} {s : State} {nx} (hg : Good Q s) (hx : execDumpRead p io s = .next nx) : Good Q nx := by
  unfold execDumpRead at hx
  refine live_good hx ?_
  repeat' first
    | with_reducible assumption
    | with_reducible apply takeCmd_good
    | with_reducible apply startDumpRead_good
    | intro _

end Sys2Proof.Machine
end

