-- ==== Sys2Proof/Laws/InvPtp.lean ====
section
/-! SUPPORT. Every operation of Machine/Ptp.lean keeps the invariant and the queue. -/

set_option Elab.async false
set_option linter.unreachableTactic false
set_option linter.unusedTactic false

namespace Sys2Proof.Machine

variable {Q : List Instr}

theorem timeApply_good {b : List Byte} {s : State} (hg : Good Q s) : Good Q (timeApply b s) := by
  unfold timeApply
  repeat' first
    | with_reducible assumption
    | fail_if_no_progress with_reducible refine Good.mk' ?_
    | with_reducible apply ite_good
    | split

theorem startTimeCfg_good {p : Packet} {z1 : Ext} {order : Nat} {s : State} (hg : Good Q s) : Good Q (startTimeCfg p z1 order s) := by
  unfold startTimeCfg
  repeat' first
    | with_reducible assumption
    | extract_lets
    | fail_if_no_progress with_reducible refine Good.mk' ?_
    | with_reducible apply syncCmd_good
    | with_reducible apply replyOne_good
    | with_reducible apply timeApply_good
    | with_reducible apply ite_good
    | intro _
    | split

theorem execTimeCfg_good {p : Packet} {s : State} {nx} (hg : Good Q s) (hx : execTimeCfg p s = .next nx) : Good Q nx := by
  unfold execTimeCfg at hx
  refine live_good hx ?_
  repeat' first
    | with_reducible assumption
    | with_reducible apply takeCmd_good
    | with_reducible apply startTimeCfg_good
    | intro _

theorem emitTime_good {s : State} (hg : Good Q s) : Good Q (emitTime s) := by
  unfold emitTime
  repeat' first
    | with_reducible assumption
    | with_reducible apply emit_good

theorem ptpLock_good {v : Bool} {s : State} (hg : Good Q s) : Good Q (ptpLock v s) := by
  unfold ptpLock
  repeat' first
    | with_reducible assumption
    | fail_if_no_progress with_reducible refine Good.mk' ?_
    | with_reducible apply emitTime_good
    | split

theorem ptpHandover_good {s : State} (hg : Good Q s) : Good Q (ptpHandover s) := by
  unfold ptpHandover
  repeat' first
    | with_reducible assumption
    | extract_lets
    | fail_if_no_progress with_reducible refine Good.mk' ?_
    | with_reducible apply emitTime_good
    | with_reducible refine pair_good (by assumption) ?_
    | intro _
    | split

theorem ptpOffset_good {off : Int} {s : State} (hg : Good Q s) : Good Q (ptpOffset off s) := by
  unfold ptpOffset
  repeat' first
    | with_reducible assumption
    | extract_lets
    | fail_if_no_progress with_reducible refine Good.mk' ?_
    | with_reducible apply ptpLock_good
    | with_reducible apply emitTime_good
    | with_reducible apply ite_good
    | intro _
    | split
    | dsimp +zetaDelta only

theorem ptpDelay_good {d : Int} {s : State} (hg : Good Q s) : Good Q (ptpDelay d s) := by
  unfold ptpDelay
  repeat' first
    | with_reducible assumption
    | fail_if_no_progress with_reducible refine Good.mk' ?_

theorem execPtpEventMessage_good {domain : Nat} {m : PtpMsg} {s : State} {nx} (hg : Good Q s) (hx : execPtpEventMessage domain m s = .next nx) : Good Q nx := by
  unfold execPtpEventMessage at hx
  refine live_good hx ?_
  repeat' first
    | with_reducible assumption
    | with_reducible apply ptpOffset_good
    | with_reducible apply ptpDelay_good
    | with_reducible refine pair_good (by assumption) ?_
    | intro _
    | split

theorem execPtpSyncMissed_good {s : State} {nx} (hg : Good Q s) (hx : execPtpSyncMissed s = .next nx) : Good Q nx := by
  unfold execPtpSyncMissed at hx
  refine live_good hx ?_
  repeat' first
    | with_reducible assumption
    | extract_lets
    | fail_if_no_progress with_reducible refine Good.mk' ?_
    | with_reducible apply ptpHandover_good
    | with_reducible apply ptpLock_good
    | intro _
    | split

theorem ptpSend_good {l : List Nat} {s : State} (hg : Good Q s) : Good Q (ptpSend l s) := by
  unfold ptpSend
  repeat' first
    | with_reducible assumption
    | extract_lets
    | fail_if_no_progress with_reducible refine Good.mk' ?_
    | with_reducible apply ite_good
    | intro _
    | split

theorem execDelayRequestInterval_good {s : State} {nx} (hg : Good Q s) (hx : execDelayRequestInterval s = .next nx) : Good Q nx := by
  unfold execDelayRequestInterval at hx
  refine live_good hx ?_
  repeat' first
    | with_reducible assumption
    | with_reducible apply ptpSend_good
    | intro _
    | split

theorem execSyncIntervalTransmit_good {s : State} {nx} (hg : Good Q s) (hx : execSyncIntervalTransmit s = .next nx) : Good Q nx := by
  unfold execSyncIntervalTransmit at hx
  refine live_good hx ?_
  repeat' first
    | with_reducible assumption
    | with_reducible apply ptpSend_good
    | intro _
    | split

end Sys2Proof.Machine
end

