-- ==== Sys2Proof/Laws/InvVault.lean ====
section
/-! SUPPORT. Every operation of Machine/Vault.lean keeps the invariant and the queue. -/

set_option Elab.async false
set_option linter.unreachableTactic false
set_option linter.unusedTactic false

namespace Sys2Proof.Machine

variable {Q : List Instr}

theorem signReading_good {p : VPeriod} {closed brace : Bool} {s : State} (hg : Good Q s) : Good Q (signReading p closed brace s).1 := by
  unfold signReading
  repeat' first
    | with_reducible assumption
    | extract_lets
    | fail_if_no_progress with_reducible refine Good.mk' ?_
    | with_reducible apply vaultWrite_good

theorem signIdentity_good {s : State} (hg : Good Q s) : Good Q (signIdentity s).1 := by
  unfold signIdentity
  repeat' first
    | with_reducible assumption
    | extract_lets
    | fail_if_no_progress with_reducible refine Good.mk' ?_

theorem rawCopy_good {i : Nat} {s : State} (hg : Good Q s) : Good Q (rawCopy i s).1 := by
  unfold rawCopy
  repeat' first
    | with_reducible assumption
    | extract_lets
    | with_reducible apply freeBytes_good
    | split

theorem vaultRecord_good {sel p3 : Nat} {s : State} (hg : Good Q s) : Good Q (vaultRecord sel p3 s).1 := by
  unfold vaultRecord
  repeat' first
    | with_reducible assumption
    | with_reducible apply signReading_good
    | with_reducible apply signIdentity_good
    | with_reducible apply rawCopy_good
    | with_reducible refine pair_good (by assumption) ?_
    | split

theorem runVaultRead_good {p : Packet} {io : Io} {c : OpenCmd} {s : State} (hg : Good Q s) : Good Q (runVaultRead p io c s) := by
  unfold runVaultRead
  repeat' first
    | with_reducible assumption
    | extract_lets
    | with_reducible apply vaultRecord_good
    | with_reducible apply ownWrite_good
    | with_reducible apply finish_good
    | with_reducible refine pair_good (by assumption) ?_
    | split

theorem runPeriodClose_good {p : Packet} {io : Io} {c : OpenCmd} {s : State} (hg : Good Q s) : Good Q (runPeriodClose p io c s) := by
  unfold runPeriodClose
  repeat' first
    | with_reducible assumption
    | extract_lets
    | fail_if_no_progress with_reducible refine Good.mk' ?_
    | with_reducible apply vaultClose_good
    | with_reducible apply signReading_good
    | with_reducible apply ownWrite_good
    | with_reducible apply finish_good
    | with_reducible apply ite_good
    | with_reducible refine pair_good (by assumption) ?_
    | intro _
    | split
    | dsimp +zetaDelta only

theorem vaultWait_good {p : Packet} {x : Ext} {order : Nat} {s : State} (hg : Good Q s) : Good Q (vaultWait p x order s) := by
  unfold vaultWait
  repeat' first
    | with_reducible assumption
    | fail_if_no_progress with_reducible refine Good.mk' ?_

theorem startVaultRead_good {p : Packet} {x : Ext} {order : Nat} {s : State} (hg : Good Q s) : Good Q (startVaultRead p x order s) := by
  unfold startVaultRead
  repeat' first
    | with_reducible assumption
    | extract_lets
    | fail_if_no_progress with_reducible refine Good.mk' ?_
    | with_reducible apply asyncCmd_good
    | with_reducible apply runVaultRead_good
    | with_reducible apply vaultWait_good
    | intro _
    | split

theorem execVaultRead_good {p : Packet} {io : Io} {s : State} {nx} (hg : Good Q s) (hx : execVaultRead p io s = .next nx) : Good Q nx := by
  unfold execVaultRead at hx
  refine live_good hx ?_
  repeat' first
    | with_reducible assumption
    | with_reducible apply takeCmd_good
    | with_reducible apply startVaultRead_good
    | intro _

theorem startVaultPeriodClose_good {p : Packet} {x : Ext} {order : Nat} {s : State} (hg : Good Q s) : Good Q (startVaultPeriodClose p x order s) := by
  unfold startVaultPeriodClose
  repeat' first
    | with_reducible assumption
    | fail_if_no_progress with_reducible refine Good.mk' ?_
    | with_reducible apply asyncCmd_good
    | with_reducible apply runPeriodClose_good
    | with_reducible apply vaultWait_good
    | with_reducible apply ite_good
    | intro _
    | split

theorem execVaultPeriodClose_good {p : Packet} {io : Io} {s : State} {nx} (hg : Good Q s) (hx : execVaultPeriodClose p io s = .next nx) : Good Q nx := by
  unfold execVaultPeriodClose at hx
  refine live_good hx ?_
  repeat' first
    | with_reducible assumption
    | with_reducible apply takeCmd_good
    | with_reducible apply startVaultPeriodClose_good
    | intro _

theorem vaultServe_good {s : State} (hg : Good Q s) : Good Q (vaultServe s) := by
  unfold vaultServe
  repeat' first
    | with_reducible assumption
    | extract_lets
    | fail_if_no_progress with_reducible refine Good.mk' ?_
    | with_reducible apply runVaultRead_good
    | with_reducible apply runPeriodClose_good
    | with_reducible refine pair_good (by assumption) ?_
    | split

theorem sealCheck_good {eccOk : Bool} {romCrc : Nat} {s : State} (hg : Good Q s) : Good Q (sealCheck eccOk romCrc s) := by
  unfold sealCheck
  repeat' first
    | with_reducible assumption
    | extract_lets
    | fail_if_no_progress with_reducible refine Good.mk' ?_
    | with_reducible apply vaultStatus_good
    | with_reducible apply sealBroken_good
    | split

theorem execVaultSealCheck_good {eccOk : Bool} {romCrc : Nat} {s : State} {nx} (hg : Good Q s) (hx : execVaultSealCheck eccOk romCrc s = .next nx) : Good Q nx := by
  unfold execVaultSealCheck at hx
  refine live_good hx ?_
  repeat' first
    | with_reducible assumption
    | with_reducible apply sealCheck_good

end Sys2Proof.Machine
end

