-- ==== Sys2Proof/Laws/InvPlan.lean ====
section
/-! SUPPORT. Every operation of Machine/Plan.lean keeps the invariant and the queue. -/

set_option Elab.async false
set_option linter.unreachableTactic false
set_option linter.unusedTactic false

namespace Sys2Proof.Machine

variable {Q : List Instr}

theorem skipSettle_good {s : State} (hg : Good Q s) : Good Q (skipSettle s) := by
  unfold skipSettle
  repeat' first
    | with_reducible assumption
    | fail_if_no_progress with_reducible refine Good.mk' ?_

theorem vddTo_good {code : Nat} {s : State} (hg : Good Q s) : Good Q (vddTo code s) := by
  unfold vddTo
  repeat' first
    | with_reducible assumption
    | extract_lets
    | fail_if_no_progress with_reducible refine Good.mk' ?_
    | with_reducible apply ledgerAdd_good
    | split

theorem skipTo_good {n : Nat} {s : State} (hg : Good Q s) : Good Q (skipTo n s) := by
  unfold skipTo
  repeat' first
    | with_reducible assumption
    | extract_lets
    | fail_if_no_progress with_reducible refine Good.mk' ?_
    | with_reducible apply ledgerAdd_good
    | with_reducible apply skipSettle_good
    | split

theorem phaseTo_good {p : PlanPhase} {s : State} (hg : Good Q s) : Good Q (phaseTo p s) := by
  unfold phaseTo
  repeat' first
    | with_reducible assumption
    | fail_if_no_progress with_reducible refine Good.mk' ?_

theorem emitExhausted_good {s : State} (hg : Good Q s) : Good Q (emitExhausted s) := by
  unfold emitExhausted
  repeat' first
    | with_reducible assumption
    | with_reducible apply emit_good
    | with_reducible apply ledgerAdd_good

theorem planBaseline_good {s : State} (hg : Good Q s) : Good Q (planBaseline s) := by
  unfold planBaseline
  repeat' first
    | with_reducible assumption
    | fail_if_no_progress with_reducible refine Good.mk' ?_
    | split

theorem planEnd_good {s : State} (hg : Good Q s) : Good Q (planEnd s) := by
  unfold planEnd
  repeat' first
    | with_reducible assumption
    | extract_lets
    | fail_if_no_progress with_reducible refine Good.mk' ?_
    | with_reducible apply planBaseline_good
    | with_reducible apply emit_good
    | with_reducible apply logAdd_good
    | with_reducible apply emitExhausted_good
    | with_reducible apply ledgerAdd_good
    | with_reducible apply phaseTo_good
    | with_reducible apply skipTo_good
    | with_reducible apply ite_good
    | intro _
    | split
    | dsimp +zetaDelta only

theorem planBegin_good {cause : Nat} {s : State} (hg : Good Q s) : Good Q (planBegin cause s) := by
  unfold planBegin
  repeat' first
    | with_reducible assumption
    | fail_if_no_progress with_reducible refine Good.mk' ?_
    | with_reducible apply ite_good
    | split

theorem planAct_good {s : State} (hg : Good Q s) : Good Q (planAct s).1 := by
  unfold planAct
  repeat' first
    | with_reducible assumption
    | extract_lets
    | fail_if_no_progress with_reducible refine Good.mk' ?_
    | with_reducible apply planBegin_good
    | with_reducible apply vddTo_good
    | with_reducible apply phaseTo_good
    | with_reducible apply skipTo_good
    | with_reducible apply leaveSpray_good
    | with_reducible apply linkEnter_good
    | with_reducible apply ledgerAdd_good
    | with_reducible apply planEnd_good
    | with_reducible refine pair_good (by assumption) ?_
    | with_reducible apply foldl_good
    | intro _
    | split

theorem planRun_good  : ∀ (x0 : Nat) (x1 : State), Good Q x1 → Good Q (planRun x0 x1) := by
  intro x0
  induction x0 with
  | zero =>
    intro x1 hg
    unfold planRun
    repeat' first
      | with_reducible assumption
      | with_reducible apply planAct_good
      | with_reducible refine pair_good (by assumption) ?_
      | split
  | succ n ih =>
    intro x1 hg
    unfold planRun
    repeat' first
      | with_reducible assumption
      | with_reducible apply ih
      | with_reducible apply planAct_good
      | with_reducible refine pair_good (by assumption) ?_
      | split

theorem planGo_good {s : State} (hg : Good Q s) : Good Q (planGo s) := by
  unfold planGo
  repeat' first
    | with_reducible assumption
    | with_reducible apply planRun_good
    | split

theorem planRequest_good {cause : Nat} {s : State} (hg : Good Q s) : Good Q (planRequest cause s) := by
  unfold planRequest
  repeat' first
    | with_reducible assumption
    | extract_lets
    | fail_if_no_progress with_reducible refine Good.mk' ?_
    | with_reducible apply planGo_good
    | split

theorem escalateNow_good {s : State} (hg : Good Q s) : Good Q (escalateNow s) := by
  unfold escalateNow
  repeat' first
    | with_reducible assumption
    | extract_lets
    | fail_if_no_progress with_reducible refine Good.mk' ?_
    | with_reducible apply emitExhausted_good
    | with_reducible apply planRequest_good
    | with_reducible apply ledgerAdd_good
    | split

theorem escalate_good {s : State} (hg : Good Q s) : Good Q (escalate s) := by
  unfold escalate
  repeat' first
    | with_reducible assumption
    | fail_if_no_progress with_reducible refine Good.mk' ?_
    | with_reducible apply escalateNow_good
    | split

theorem planUnbrace_good {s : State} (hg : Good Q s) : Good Q (planUnbrace s) := by
  unfold planUnbrace
  repeat' first
    | with_reducible assumption
    | extract_lets
    | fail_if_no_progress with_reducible refine Good.mk' ?_
    | with_reducible apply planGo_good
    | with_reducible apply escalateNow_good
    | with_reducible apply foldl_good
    | intro _

theorem monitorsIn_good {m : Monitors} {s : State} (hg : Good Q s) : Good Q (monitorsIn m s) := by
  unfold monitorsIn
  repeat' first
    | with_reducible assumption
    | extract_lets
    | fail_if_no_progress with_reducible refine Good.mk' ?_
    | with_reducible apply laneMap_good
    | with_reducible apply foldl_good
    | intro _

theorem execMeasurementIntervalEnd_good {m : Monitors} {s : State} {nx} (hg : Good Q s) (hx : execMeasurementIntervalEnd m s = .next nx) : Good Q nx := by
  unfold execMeasurementIntervalEnd at hx
  refine live_good hx ?_
  repeat' first
    | with_reducible assumption
    | extract_lets
    | with_reducible apply monitorsIn_good
    | with_reducible apply planGo_good
    | intro _
    | split

theorem execMarginPlanPeriodic_good {s : State} {nx} (hg : Good Q s) (hx : execMarginPlanPeriodic s = .next nx) : Good Q nx := by
  unfold execMarginPlanPeriodic at hx
  refine live_good hx ?_
  repeat' first
    | with_reducible assumption
    | with_reducible apply planRequest_good
    | intro _
    | split

theorem execCanaryAlarm_good {slice slack : Nat} {s : State} {nx} (hg : Good Q s) (hx : execCanaryAlarm slice slack s = .next nx) : Good Q nx := by
  unfold execCanaryAlarm at hx
  refine live_good hx ?_
  repeat' first
    | with_reducible assumption
    | extract_lets
    | fail_if_no_progress with_reducible refine Good.mk' ?_
    | with_reducible apply planRequest_good
    | intro _
    | split

theorem execCeLimitReplan_good {code : Nat} {s : State} {nx} (hg : Good Q s) (hx : execCeLimitReplan code s = .next nx) : Good Q nx := by
  unfold execCeLimitReplan at hx
  refine live_good hx ?_
  repeat' first
    | with_reducible assumption
    | with_reducible apply planRequest_good
    | intro _
    | split

theorem marginStep_good {n : Nat} {s : State} (hg : Good Q s) : Good Q (marginStep n s) := by
  unfold marginStep
  repeat' first
    | with_reducible assumption
    | fail_if_no_progress with_reducible refine Good.mk' ?_
    | with_reducible apply aoHold_good
    | split

theorem advisoryEnd_good {s : State} (hg : Good Q s) : Good Q (advisoryEnd s) := by
  unfold advisoryEnd
  repeat' first
    | with_reducible assumption
    | fail_if_no_progress with_reducible refine Good.mk' ?_

theorem execRelaxPeriodExpiry_good {s : State} {nx} (hg : Good Q s) (hx : execRelaxPeriodExpiry s = .next nx) : Good Q nx := by
  unfold execRelaxPeriodExpiry at hx
  refine live_good hx ?_
  repeat' first
    | with_reducible assumption
    | with_reducible apply planRequest_good
    | with_reducible apply ledgerAdd_good
    | with_reducible apply marginStep_good
    | intro _
    | split

theorem execMarginExhaustedAdvisoryEnd_good {s : State} {nx} (hg : Good Q s) (hx : execMarginExhaustedAdvisoryEnd s = .next nx) : Good Q nx := by
  unfold execMarginExhaustedAdvisoryEnd at hx
  refine live_good hx ?_
  repeat' first
    | with_reducible assumption
    | with_reducible apply aoHold_good
    | with_reducible apply advisoryEnd_good
    | intro _
    | split

theorem execVddAckRise_good {s : State} {nx} (hg : Good Q s) (hx : execVddAckRise s = .next nx) : Good Q nx := by
  unfold execVddAckRise at hx
  refine live_good hx ?_
  repeat' first
    | with_reducible assumption
    | fail_if_no_progress with_reducible refine Good.mk' ?_
    | intro _

theorem execVddAckTimeout_good {s : State} {nx} (hg : Good Q s) (hx : execVddAckTimeout s = .next nx) : Good Q nx := by
  unfold execVddAckTimeout at hx
  refine live_good hx ?_
  repeat' first
    | with_reducible assumption
    | extract_lets
    | fail_if_no_progress with_reducible refine Good.mk' ?_
    | with_reducible apply ledgerAdd_good
    | intro _
    | split

theorem execThrottleChange_good {n : Nat} {s : State} {nx} (hg : Good Q s) (hx : execThrottleChange n s = .next nx) : Good Q nx := by
  unfold execThrottleChange at hx
  refine live_good hx ?_
  repeat' first
    | with_reducible assumption
    | fail_if_no_progress with_reducible refine Good.mk' ?_
    | with_reducible apply skipSettle_good
    | intro _

end Sys2Proof.Machine
end

