-- ==== Sys2Proof/Laws/InvCarafe.lean ====
section
/-! SUPPORT. Every operation of Machine/Carafe.lean keeps the invariant and the queue. -/

set_option Elab.async false
set_option linter.unreachableTactic false
set_option linter.unusedTactic false

namespace Sys2Proof.Machine

variable {Q : List Instr}

theorem setPool_good {c : Nat} {p : Pool} {s : State} (hg : Good Q s) : Good Q (setPool c p s) := by
  unfold setPool
  repeat' first
    | with_reducible assumption
    | fail_if_no_progress with_reducible refine Good.mk' ?_

theorem linkCell_good {a : Nat} {next : Option Nat} {s : State} (hg : Good Q s) : Good Q (linkCell a next s) := by
  unfold linkCell
  repeat' first
    | with_reducible assumption
    | with_reducible apply spWrite_good

theorem linkAll_good  : ∀ (x0 : List Nat) (x1 : State), Good Q x1 → Good Q (linkAll x0 x1) := by
  intro x0
  induction x0 with
  | nil =>
    intro x1 hg
    unfold linkAll
    repeat' first
      | with_reducible assumption
      | with_reducible apply linkCell_good
  | cons x r ih =>
    intro x1 hg
    unfold linkAll
    repeat' first
      | with_reducible assumption
      | with_reducible apply ih
      | with_reducible apply linkCell_good

theorem poolRebuild_good {c : Nat} {s : State} (hg : Good Q s) : Good Q (poolRebuild c s) := by
  unfold poolRebuild
  repeat' first
    | with_reducible assumption
    | extract_lets
    | fail_if_no_progress with_reducible refine Good.mk' ?_
    | with_reducible apply linkAll_good
    | with_reducible apply setPool_good
    | intro _

theorem takeCell_good {o c ref : Nat} {use : CellUse} {s : State} (hg : Good Q s) : Good Q (takeCell o c ref use s) := by
  unfold takeCell
  repeat' first
    | with_reducible assumption
    | extract_lets
    | fail_if_no_progress with_reducible refine Good.mk' ?_
    | with_reducible apply setPool_good
    | with_reducible refine pair_good (by assumption) ?_
    | split

theorem carafeAsk_good {o n cls ref : Nat} {use : CellUse} {s : State} (hg : Good Q s) : Good Q (carafeAsk o n cls ref use s) := by
  unfold carafeAsk
  repeat' first
    | with_reducible assumption
    | fail_if_no_progress with_reducible refine Good.mk' ?_
    | with_reducible apply takeCell_good
    | with_reducible apply ctrInc_good
    | with_reducible refine pair_good (by assumption) ?_
    | split

theorem freeCell_good {h : CellHeld} {s : State} (hg : Good Q s) : Good Q (freeCell h s) := by
  unfold freeCell
  repeat' first
    | with_reducible assumption
    | extract_lets
    | fail_if_no_progress with_reducible refine Good.mk' ?_
    | with_reducible apply setPool_good
    | with_reducible apply linkCell_good
    | intro _

theorem releaseUse_good {use : CellUse} {n : Nat} {s : State} (hg : Good Q s) : Good Q (releaseUse use n s) := by
  unfold releaseUse
  repeat' first
    | with_reducible assumption
    | fail_if_no_progress with_reducible refine Good.mk' ?_
    | with_reducible apply jobFault_good
    | with_reducible apply freeCell_good
    | with_reducible refine pair_good (by assumption) ?_
    | intro _
    | split

theorem setRef_good {use : CellUse} {n : Nat} {s : State} (hg : Good Q s) : Good Q (setRef use n s) := by
  unfold setRef
  repeat' first
    | with_reducible assumption
    | fail_if_no_progress with_reducible refine Good.mk' ?_
    | with_reducible apply freeCell_good
    | with_reducible refine pair_good (by assumption) ?_
    | intro _
    | split

theorem freeCells_good {p : CellUse → Bool} {s : State} (hg : Good Q s) : Good Q (freeCells p s) := by
  unfold freeCells
  repeat' first
    | with_reducible assumption
    | extract_lets
    | with_reducible apply endWaits_good
    | with_reducible apply freeCell_good
    | with_reducible apply foldl_good
    | intro _

theorem pfcStep_good {s : State} {hp : Nat × Nat} (hg : Good Q s) : Good Q (pfcStep s hp) := by
  unfold pfcStep
  repeat' first
    | with_reducible assumption
    | extract_lets
    | fail_if_no_progress with_reducible refine Good.mk' ?_
    | with_reducible apply ctrAdd_good
    | with_reducible apply ite_good
    | intro _
    | split

theorem pfcCheck_good {s : State} (hg : Good Q s) : Good Q (pfcCheck s) := by
  unfold pfcCheck
  repeat' first
    | with_reducible assumption
    | with_reducible apply pfcStep_good
    | with_reducible apply foldl_good
    | intro _

theorem writeHeader_good {va cells : Nat} {next : Option Nat} {s : State} (hg : Good Q s) : Good Q (writeHeader va cells next s) := by
  unfold writeHeader
  repeat' first
    | with_reducible assumption
    | with_reducible apply hostWrite_good

theorem writeHeaders_good {old : List ((Nat × Nat) × Option Nat)} : ∀ (x0 : List (Nat × Nat)) (x1 : State), Good Q x1 → Good Q (writeHeaders old x0 x1) := by
  intro x0
  induction x0 with
  | nil =>
    intro x1 hg
    unfold writeHeaders
    repeat' first
      | with_reducible assumption
      | extract_lets
      | with_reducible apply writeHeader_good
      | split
  | cons x r ih =>
    intro x1 hg
    unfold writeHeaders
    repeat' first
      | with_reducible assumption
      | extract_lets
      | with_reducible apply ih
      | with_reducible apply writeHeader_good
      | split

theorem putRuns_good {c : Nat} {old : List ((Nat × Nat) × Option Nat)} {l : List (Nat × Nat)} {s : State} (hg : Good Q s) : Good Q (putRuns c old l s) := by
  unfold putRuns
  repeat' first
    | with_reducible assumption
    | fail_if_no_progress with_reducible refine Good.mk' ?_
    | with_reducible apply writeHeaders_good
    | intro _

theorem setRuns_good {c : Nat} {l : List (Nat × Nat)} {s : State} (hg : Good Q s) : Good Q (setRuns c l s) := by
  unfold setRuns
  repeat' first
    | with_reducible assumption
    | with_reducible apply putRuns_good

theorem newRuns_good {c : Nat} {l : List (Nat × Nat)} {s : State} (hg : Good Q s) : Good Q (newRuns c l s) := by
  unfold newRuns
  repeat' first
    | with_reducible assumption
    | with_reducible apply putRuns_good

theorem runsRebuild_good {c : Nat} {s : State} (hg : Good Q s) : Good Q (runsRebuild c s) := by
  unfold runsRebuild
  repeat' first
    | with_reducible assumption
    | with_reducible apply newRuns_good

theorem releaseRun_good {c va n : Nat} {s : State} (hg : Good Q s) : Good Q (releaseRun c va n s) := by
  unfold releaseRun
  repeat' first
    | with_reducible assumption
    | with_reducible apply setRuns_good

theorem execCarafeListError_good {pool : Nat} {entry : Option Nat} {s : State} {nx} (hg : Good Q s) (hx : execCarafeListError pool entry s = .next nx) : Good Q nx := by
  unfold execCarafeListError at hx
  refine live_good hx ?_
  repeat' first
    | with_reducible assumption
    | fail_if_no_progress with_reducible refine Good.mk' ?_
    | with_reducible apply jobFault_good
    | with_reducible apply ctrInc_good
    | with_reducible apply poolRebuild_good
    | with_reducible apply runsRebuild_good
    | with_reducible refine pair_good (by assumption) ?_
    | intro _
    | split

theorem loseCells_good {s : State} (hg : Good Q s) : Good Q (loseCells s) := by
  unfold loseCells
  repeat' first
    | with_reducible assumption
    | extract_lets
    | fail_if_no_progress with_reducible refine Good.mk' ?_
    | with_reducible apply linkAll_good
    | with_reducible apply setPool_good
    | with_reducible apply foldl_good
    | intro _
    | split

theorem inboxTake_good {src : Nat} {b : List Byte} {s : State} (hg : Good Q s) : Good Q (inboxTake src b s) := by
  unfold inboxTake
  repeat' first
    | with_reducible assumption
    | fail_if_no_progress with_reducible refine Good.mk' ?_
    | with_reducible apply freeCells_good
    | with_reducible refine pair_good (by assumption) ?_
    | intro _
    | split

end Sys2Proof.Machine
end

