-- ==== Sys2Proof/Laws/InvPour.lean ====
section
/-! SUPPORT. Every operation of Machine/Pour.lean keeps the invariant and the queue. -/

set_option Elab.async false
set_option linter.unreachableTactic false
set_option linter.unusedTactic false

namespace Sys2Proof.Machine

variable {Q : List Instr}

theorem setCh_good {c : Nat} {x : PourCh} {s : State} (hg : Good Q s) : Good Q (setCh c x s) := by
  unfold setCh
  repeat' first
    | with_reducible assumption
    | fail_if_no_progress with_reducible refine Good.mk' ?_

theorem chMap_good {c : Nat} {f : PourCh → PourCh} {s : State} (hg : Good Q s) : Good Q (chMap c f s) := by
  unfold chMap
  repeat' first
    | with_reducible assumption
    | with_reducible apply setCh_good

theorem chMove_good {c : Nat} {st : PourState} {s : State} (hg : Good Q s) : Good Q (chMove c st s) := by
  unfold chMove
  repeat' first
    | with_reducible assumption
    | fail_if_no_progress with_reducible refine Good.mk' ?_
    | with_reducible apply dripAt_good
    | with_reducible apply mmuRetire_good
    | with_reducible apply chMap_good
    | intro _

theorem chReady_good {c : Nat} {s : State} (hg : Good Q s) : Good Q (chReady c s) := by
  unfold chReady
  repeat' first
    | with_reducible assumption
    | fail_if_no_progress with_reducible refine Good.mk' ?_
    | with_reducible apply chMap_good
    | intro _

theorem pourReply_good {c status : Nat} {s : State} (hg : Good Q s) : Good Q (pourReply c status s) := by
  unfold pourReply
  repeat' first
    | with_reducible assumption
    | extract_lets
    | fail_if_no_progress with_reducible refine Good.mk' ?_
    | with_reducible apply finish_good
    | with_reducible apply chMap_good
    | with_reducible refine pair_good (by assumption) ?_
    | intro _
    | split

theorem abortReplies_good {c status : Nat} {s : State} (hg : Good Q s) : Good Q (abortReplies c status s) := by
  unfold abortReplies
  repeat' first
    | with_reducible assumption
    | fail_if_no_progress with_reducible refine Good.mk' ?_
    | with_reducible apply finish_good
    | with_reducible apply chMap_good
    | with_reducible apply foldl_good
    | intro _

theorem unstage_good {c : Nat} {s : State} (hg : Good Q s) : Good Q (unstage c s) := by
  unfold unstage
  repeat' first
    | with_reducible assumption
    | with_reducible apply freeCells_good
    | intro _

theorem pourDone_good {c status : Nat} {s : State} (hg : Good Q s) : Good Q (pourDone c status s) := by
  unfold pourDone
  repeat' first
    | with_reducible assumption
    | fail_if_no_progress with_reducible refine Good.mk' ?_
    | with_reducible apply chMove_good
    | with_reducible apply unstage_good
    | with_reducible apply chMap_good
    | intro _

theorem pourIdle_good {c : Nat} {s : State} (hg : Good Q s) : Good Q (pourIdle c s) := by
  unfold pourIdle
  repeat' first
    | with_reducible assumption
    | fail_if_no_progress with_reducible refine Good.mk' ?_
    | with_reducible apply setCh_good
    | with_reducible apply chMove_good
    | with_reducible apply unstage_good
    | intro _

theorem pourBusError_good {s : State} (hg : Good Q s) : Good Q (pourBusError s) := by
  unfold pourBusError
  repeat' first
    | with_reducible assumption
    | fail_if_no_progress with_reducible refine Good.mk' ?_

theorem runPourStart_good {p : Packet} {o : OpenCmd} {s : State} (hg : Good Q s) : Good Q (runPourStart p o s) := by
  unfold runPourStart
  repeat' first
    | with_reducible assumption
    | extract_lets
    | fail_if_no_progress with_reducible refine Good.mk' ?_
    | with_reducible apply carafeAsk_good
    | with_reducible apply chMove_good
    | with_reducible apply setCh_good
    | with_reducible apply ite_good
    | intro _
    | split

theorem startPourStart_good {p : Packet} {x : Ext} {order : Nat} {s : State} (hg : Good Q s) : Good Q (startPourStart p x order s) := by
  unfold startPourStart
  repeat' first
    | with_reducible assumption
    | fail_if_no_progress with_reducible refine Good.mk' ?_
    | with_reducible apply braceCmd_good
    | with_reducible apply runPourStart_good
    | with_reducible apply ite_good
    | intro _
    | split

theorem execPourStart_good {p : Packet} {s : State} {nx} (hg : Good Q s) (hx : execPourStart p s = .next nx) : Good Q nx := by
  unfold execPourStart at hx
  refine live_good hx ?_
  repeat' first
    | with_reducible assumption
    | with_reducible apply takeCmd_good
    | with_reducible apply startPourStart_good
    | intro _

theorem startPourAbort_good {p : Packet} {z1 : Ext} {order : Nat} {s : State} (hg : Good Q s) : Good Q (startPourAbort p z1 order s) := by
  unfold startPourAbort
  repeat' first
    | with_reducible assumption
    | extract_lets
    | fail_if_no_progress with_reducible refine Good.mk' ?_
    | with_reducible apply asyncCmd_good
    | with_reducible apply finish_good
    | with_reducible apply chMap_good
    | with_reducible apply chMove_good
    | with_reducible refine pair_good (by assumption) ?_
    | intro _
    | split

theorem execPourAbort_good {p : Packet} {s : State} {nx} (hg : Good Q s) (hx : execPourAbort p s = .next nx) : Good Q nx := by
  unfold execPourAbort at hx
  refine live_good hx ?_
  repeat' first
    | with_reducible assumption
    | with_reducible apply takeCmd_good
    | with_reducible apply startPourAbort_good
    | intro _

theorem startPourRestartAll_good {p : Packet} {z1 : Ext} {order : Nat} {s : State} (hg : Good Q s) : Good Q (startPourRestartAll p z1 order s) := by
  unfold startPourRestartAll
  repeat' first
    | with_reducible assumption
    | fail_if_no_progress with_reducible refine Good.mk' ?_
    | with_reducible apply syncCmd_good
    | with_reducible apply replyOne_good
    | with_reducible apply pourIdle_good
    | with_reducible apply ite_good
    | with_reducible apply foldl_good
    | intro _
    | split

theorem execPourRestartAll_good {p : Packet} {s : State} {nx} (hg : Good Q s) (hx : execPourRestartAll p s = .next nx) : Good Q nx := by
  unfold execPourRestartAll at hx
  refine live_good hx ?_
  repeat' first
    | with_reducible assumption
    | with_reducible apply takeCmd_good
    | with_reducible apply startPourRestartAll_good
    | intro _

theorem startPourResume_good {p : Packet} {z1 : Ext} {order : Nat} {s : State} (hg : Good Q s) : Good Q (startPourResume p z1 order s) := by
  unfold startPourResume
  repeat' first
    | with_reducible assumption
    | extract_lets
    | with_reducible apply syncCmd_good
    | with_reducible apply replyOne_good
    | with_reducible apply chReady_good
    | with_reducible apply chMove_good
    | intro _
    | split

theorem execPourResume_good {p : Packet} {s : State} {nx} (hg : Good Q s) (hx : execPourResume p s = .next nx) : Good Q nx := by
  unfold execPourResume at hx
  refine live_good hx ?_
  repeat' first
    | with_reducible assumption
    | with_reducible apply takeCmd_good
    | with_reducible apply startPourResume_good
    | intro _

theorem pourIo_good {c : Nat} {io : Io} {rd wr : List Piece} {bs : List Byte} {ok : State → State} {s : State} (hok : ∀ u, Good Q u → Good Q (ok u)) (hg : Good Q s) : Good Q (pourIo c io rd wr bs ok s) := by
  unfold pourIo
  repeat' first
    | with_reducible assumption
    | extract_lets
    | fail_if_no_progress with_reducible refine Good.mk' ?_
    | with_reducible apply hok
    | with_reducible apply pourBusError_good
    | with_reducible apply walkBroken_good
    | with_reducible apply writeBroken_good
    | with_reducible apply pourDone_good
    | with_reducible apply readBroken_good
    | with_reducible refine pair_good (by assumption) ?_
    | split

theorem execPourDescriptorRead_good {ch : Nat} {io : Io} {s : State} {nx} (hg : Good Q s) (hx : execPourDescriptorRead ch io s = .next nx) : Good Q nx := by
  unfold execPourDescriptorRead at hx
  refine live_good hx ?_
  repeat' first
    | with_reducible assumption
    | extract_lets
    | fail_if_no_progress with_reducible refine Good.mk' ?_
    | with_reducible apply xlateRange_good
    | with_reducible apply pourIdle_good
    | with_reducible apply pourReply_good
    | with_reducible apply pourIo_good
    | with_reducible apply chReady_good
    | with_reducible apply chMap_good
    | with_reducible apply TRun.read_good
    | with_reducible refine pair_good (by assumption) ?_
    | intro _
    | split

theorem execPourPipeGrant_good {pipe : Nat} {s : State} {nx} (hg : Good Q s) (hx : execPourPipeGrant pipe s = .next nx) : Good Q nx := by
  unfold execPourPipeGrant at hx
  refine live_good hx ?_
  repeat' first
    | with_reducible assumption
    | extract_lets
    | fail_if_no_progress with_reducible refine Good.mk' ?_
    | with_reducible apply chMap_good
    | with_reducible apply chMove_good
    | with_reducible refine pair_good (by assumption) ?_
    | intro _
    | split

theorem execPourGranuleYield_good {ch : Nat} {s : State} {nx} (hg : Good Q s) (hx : execPourGranuleYield ch s = .next nx) : Good Q nx := by
  unfold execPourGranuleYield at hx
  refine live_good hx ?_
  repeat' first
    | with_reducible assumption
    | extract_lets
    | fail_if_no_progress with_reducible refine Good.mk' ?_
    | with_reducible apply chReady_good
    | with_reducible apply chMove_good
    | with_reducible apply chMap_good
    | with_reducible refine pair_good (by assumption) ?_
    | intro _
    | split

theorem pourFault_good {c va : Nat} {s : State} (hg : Good Q s) : Good Q (pourFault c va s) := by
  unfold pourFault
  repeat' first
    | with_reducible assumption
    | fail_if_no_progress with_reducible refine Good.mk' ?_
    | with_reducible apply chMap_good
    | intro _

theorem pourInsn_good {c : Nat} {ops : List Nat} {f : List Byte → List Piece → State → State} {s : State} (hf : ∀ (x0 : List Byte), ∀ (x1 : List Piece), ∀ u, Good Q u → Good Q (f x0 x1 u)) (hg : Good Q s) : Good Q (pourInsn c ops f s) := by
  unfold pourInsn
  repeat' first
    | with_reducible assumption
    | extract_lets
    | with_reducible apply hf
    | with_reducible apply xlateRange_good
    | with_reducible apply pourFault_good
    | with_reducible refine pair_good (by assumption) ?_
    | split

theorem spGuard_good {a : Nat} {bs : List Byte} {s : State} (hg : Good Q s) : Good Q (spGuard a bs s) := by
  unfold spGuard
  repeat' first
    | with_reducible assumption
    | extract_lets
    | fail_if_no_progress with_reducible refine Good.mk' ?_
    | with_reducible apply spWrite_good
    | with_reducible apply ctrInc_good
    | with_reducible apply spCount_good
    | with_reducible apply ite_good
    | intro _
    | split
    | dsimp +zetaDelta only

theorem pourCount_good {c n : Nat} {s : State} (hg : Good Q s) : Good Q (pourCount c n s) := by
  unfold pourCount
  repeat' first
    | with_reducible assumption
    | fail_if_no_progress with_reducible refine Good.mk' ?_
    | with_reducible apply ctrAdd_good
    | with_reducible apply chMap_good
    | intro _

theorem sidePieces_good {use sp : Bool} {ctx a n : Nat} {write : Bool} {s : State} (hg : Good Q s) : Good Q (sidePieces use sp ctx a n write s).1 := by
  unfold sidePieces
  repeat' first
    | with_reducible assumption
    | with_reducible apply xlateRange_good
    | split

theorem granAt_good {m : Mv} {pos n : Nat} {s : State} (hg : Good Q s) : Good Q (granAt m pos n s).1 := by
  unfold granAt
  repeat' first
    | with_reducible assumption
    | with_reducible apply sidePieces_good
    | with_reducible apply ite_good
    | with_reducible refine pair_good (by assumption) ?_
    | split

theorem granPlan_good {m : Mv} : ∀ (x0 : Nat) (x1 : Nat) (x2 : State), Good Q x2 → Good Q (granPlan m x0 x1 x2).1 := by
  intro x0
  induction x0 with
  | zero =>
    intro x1 x2 hg
    unfold granPlan
    repeat' first
      | with_reducible assumption
      | extract_lets
      | with_reducible apply granAt_good
      | with_reducible refine pair_good (by assumption) ?_
      | split
  | succ n ih =>
    intro x1 x2 hg
    unfold granPlan
    repeat' first
      | with_reducible assumption
      | extract_lets
      | with_reducible apply ih
      | with_reducible apply granAt_good
      | with_reducible refine pair_good (by assumption) ?_
      | split

theorem granBytes_good {m : Mv} {g : Gran} {s : State} (hg : Good Q s) : Good Q (granBytes m g s).1 := by
  unfold granBytes
  repeat' first
    | with_reducible assumption
    | extract_lets
    | with_reducible apply freeBytes_good
    | with_reducible refine pair_good (by assumption) ?_
    | intro _
    | split

theorem granCmp_good {m : Mv} {stop : Bool} {g : Gran} {s : State} (hg : Good Q s) : Good Q (granCmp m stop g s) := by
  unfold granCmp
  repeat' first
    | with_reducible assumption
    | extract_lets
    | fail_if_no_progress with_reducible refine Good.mk' ?_
    | with_reducible apply chMap_good
    | with_reducible apply pourDone_good
    | with_reducible apply ite_good
    | with_reducible refine pair_good (by assumption) ?_
    | intro _
    | split
    | dsimp +zetaDelta only

theorem granStore_good {m : Mv} {g : Gran} {bs : List Byte} {s : State} (hg : Good Q s) : Good Q (granStore m g bs s) := by
  unfold granStore
  repeat' first
    | with_reducible assumption
    | extract_lets
    | with_reducible refine setHost_write ?_ _ _
    | fail_if_no_progress with_reducible refine Good.mk' ?_
    | with_reducible apply pourCount_good
    | with_reducible apply spGuard_good
    | split

theorem granOob_good {m : Mv} {g : Gran} {s : State} (hg : Good Q s) : Good Q (granOob m g s) := by
  unfold granOob
  repeat' first
    | with_reducible assumption
    | extract_lets
    | fail_if_no_progress with_reducible refine Good.mk' ?_
    | with_reducible apply spCount_good
    | with_reducible apply ite_good
    | intro _
    | split
    | dsimp +zetaDelta only

theorem granRun_good {m : Mv} {s : State} {g : Gran} (hg : Good Q s) : Good Q (granRun m s g) := by
  unfold granRun
  repeat' first
    | with_reducible assumption
    | extract_lets
    | fail_if_no_progress with_reducible refine Good.mk' ?_
    | with_reducible apply chMap_good
    | with_reducible apply granOob_good
    | with_reducible apply granCmp_good
    | with_reducible apply granBytes_good
    | with_reducible apply granStore_good
    | with_reducible refine pair_good (by assumption) ?_
    | intro _
    | split

theorem granEnd_good {m : Mv} {stop : Option (Option Nat)} {s : State} (hg : Good Q s) : Good Q (granEnd m stop s) := by
  unfold granEnd
  repeat' first
    | with_reducible assumption
    | fail_if_no_progress with_reducible refine Good.mk' ?_
    | with_reducible apply pourDone_good
    | with_reducible apply pourFault_good
    | with_reducible apply chMap_good
    | with_reducible refine pair_good (by assumption) ?_
    | intro _
    | split

theorem granReadBad_good {m : Mv} {l : List Piece} {gs : List Gran} {e : IoErr} {s : State} (hg : Good Q s) : Good Q (granReadBad m l gs e s) := by
  unfold granReadBad
  repeat' first
    | with_reducible assumption
    | extract_lets
    | with_reducible apply readBroken_good
    | with_reducible apply granRun_good
    | with_reducible apply pourDone_good
    | with_reducible apply pourBusError_good
    | with_reducible apply foldl_good
    | intro _
    | split

theorem granWriteBad_good {m : Mv} {gs : List Gran} {e : IoErr} {s : State} (hg : Good Q s) : Good Q (granWriteBad m gs e s) := by
  unfold granWriteBad
  repeat' first
    | with_reducible assumption
    | extract_lets
    | with_reducible apply granBytes_good
    | with_reducible apply pourBusError_good
    | with_reducible apply pourCount_good
    | with_reducible apply writeBroken_good
    | with_reducible apply foldl_good
    | with_reducible apply foldl_fst_good
    | intro _

theorem granGo_good {m : Mv} {fetch : List Piece} {io : Io} {granules : Nat} {s : State} (hg : Good Q s) : Good Q (granGo m fetch io granules s) := by
  unfold granGo
  repeat' first
    | with_reducible assumption
    | extract_lets
    | fail_if_no_progress with_reducible refine Good.mk' ?_
    | with_reducible apply granPlan_good
    | with_reducible apply granEnd_good
    | with_reducible apply granRun_good
    | with_reducible apply pourBusError_good
    | with_reducible apply walkBroken_good
    | with_reducible apply granWriteBad_good
    | with_reducible apply granReadBad_good
    | with_reducible refine pair_good (by assumption) ?_
    | with_reducible apply foldl_good
    | intro _
    | split

theorem stageAsk_good {c : Nat} {s : State} (hg : Good Q s) : Good Q (stageAsk c s) := by
  unfold stageAsk
  repeat' first
    | with_reducible assumption
    | extract_lets
    | with_reducible apply carafeAsk_good
    | with_reducible apply foldl_good
    | intro _

theorem execMove_good {ch : Nat} {io : Io} {granules : Nat} {s : State} {nx} (hg : Good Q s) (hx : execMove ch io granules s = .next nx) : Good Q nx := by
  unfold execMove at hx
  refine live_good hx ?_
  repeat' first
    | with_reducible assumption
    | extract_lets
    | with_reducible apply pourInsn_good
    | with_reducible apply stageAsk_good
    | with_reducible apply granGo_good
    | with_reducible apply ite_good
    | intro _
    | split

theorem execFill_good {ch : Nat} {io : Io} {granules : Nat} {s : State} {nx} (hg : Good Q s) (hx : execFill ch io granules s = .next nx) : Good Q nx := by
  unfold execFill at hx
  refine live_good hx ?_
  repeat' first
    | with_reducible assumption
    | with_reducible apply pourInsn_good
    | with_reducible apply granGo_good
    | intro _

theorem execCmp_good {ch : Nat} {io : Io} {granules : Nat} {s : State} {nx} (hg : Good Q s) (hx : execCmp ch io granules s = .next nx) : Good Q nx := by
  unfold execCmp at hx
  refine live_good hx ?_
  repeat' first
    | with_reducible assumption
    | with_reducible apply pourInsn_good
    | with_reducible apply granGo_good
    | intro _

theorem execLoop_good {ch : Nat} {io : Io} {s : State} {nx} (hg : Good Q s) (hx : execLoop ch io s = .next nx) : Good Q nx := by
  unfold execLoop at hx
  refine live_good hx ?_
  repeat' first
    | with_reducible assumption
    | extract_lets
    | fail_if_no_progress with_reducible refine Good.mk' ?_
    | with_reducible apply pourInsn_good
    | with_reducible apply pourIo_good
    | with_reducible apply pourDone_good
    | with_reducible apply setCh_good
    | intro _
    | split

theorem waitRead_good {c : Nat} {b word : List Byte} {s : State} (hg : Good Q s) : Good Q (waitRead c b word s) := by
  unfold waitRead
  repeat' first
    | with_reducible assumption
    | extract_lets
    | fail_if_no_progress with_reducible refine Good.mk' ?_
    | with_reducible apply chReady_good
    | with_reducible apply setCh_good
    | split

theorem waitGo_good {c : Nat} {b : List Byte} {fetch : List Piece} {io : Io} {s : State} (hg : Good Q s) : Good Q (waitGo c b fetch io s) := by
  unfold waitGo
  repeat' first
    | with_reducible assumption
    | extract_lets
    | with_reducible apply pourDone_good
    | with_reducible apply sidePieces_good
    | with_reducible apply pourFault_good
    | with_reducible apply pourIo_good
    | with_reducible apply waitRead_good
    | with_reducible apply spCount_good
    | with_reducible refine pair_good (by assumption) ?_
    | intro _
    | split

theorem execWait_good {ch : Nat} {io : Io} {s : State} {nx} (hg : Good Q s) (hx : execWait ch io s = .next nx) : Good Q nx := by
  unfold execWait at hx
  refine live_good hx ?_
  repeat' first
    | with_reducible assumption
    | with_reducible apply pourInsn_good
    | with_reducible apply waitGo_good
    | intro _

theorem execWaitPoll_good {ch : Nat} {io : Io} {s : State} {nx} (hg : Good Q s) (hx : execWaitPoll ch io s = .next nx) : Good Q nx := by
  unfold execWaitPoll at hx
  refine live_good hx ?_
  repeat' first
    | with_reducible assumption
    | extract_lets
    | with_reducible apply waitGo_good
    | intro _
    | split

theorem execWaitTimeout_good {ch : Nat} {s : State} {nx} (hg : Good Q s) (hx : execWaitTimeout ch s = .next nx) : Good Q nx := by
  unfold execWaitTimeout at hx
  refine live_good hx ?_
  repeat' first
    | with_reducible assumption
    | extract_lets
    | with_reducible apply pourDone_good
    | intro _
    | split

theorem execSignal_good {ch : Nat} {io : Io} {s : State} {nx} (hg : Good Q s) (hx : execSignal ch io s = .next nx) : Good Q nx := by
  unfold execSignal at hx
  refine live_good hx ?_
  repeat' first
    | with_reducible assumption
    | extract_lets
    | with_reducible refine setHost_write ?_ _ _
    | fail_if_no_progress with_reducible refine Good.mk' ?_
    | with_reducible apply pourInsn_good
    | with_reducible apply sidePieces_good
    | with_reducible apply pourFault_good
    | with_reducible apply pourIo_good
    | with_reducible apply chMap_good
    | with_reducible apply pourCount_good
    | with_reducible apply spGuard_good
    | with_reducible refine pair_good (by assumption) ?_
    | intro _
    | split

theorem execEndProg_good {ch : Nat} {io : Io} {s : State} {nx} (hg : Good Q s) (hx : execEndProg ch io s = .next nx) : Good Q nx := by
  unfold execEndProg at hx
  refine live_good hx ?_
  repeat' first
    | with_reducible assumption
    | with_reducible apply pourInsn_good
    | with_reducible apply pourIo_good
    | with_reducible apply pourDone_good
    | intro _

theorem execPourIllegalOpcode_good {ch : Nat} {io : Io} {s : State} {nx} (hg : Good Q s) (hx : execPourIllegalOpcode ch io s = .next nx) : Good Q nx := by
  unfold execPourIllegalOpcode at hx
  refine live_good hx ?_
  repeat' first
    | with_reducible assumption
    | with_reducible apply pourInsn_good
    | with_reducible apply pourIo_good
    | with_reducible apply pourDone_good
    | intro _

theorem execPourInstructionComplete_good {ch : Nat} {s : State} {nx} (hg : Good Q s) (hx : execPourInstructionComplete ch s = .next nx) : Good Q nx := by
  unfold execPourInstructionComplete at hx
  refine live_good hx ?_
  repeat' first
    | with_reducible assumption
    | extract_lets
    | with_reducible apply mmuRetire_good
    | with_reducible apply unstage_good
    | with_reducible apply setCh_good
    | intro _
    | split

theorem execPourPark_good {ch : Nat} {s : State} {nx} (hg : Good Q s) (hx : execPourPark ch s = .next nx) : Good Q nx := by
  unfold execPourPark at hx
  refine live_good hx ?_
  repeat' first
    | with_reducible assumption
    | extract_lets
    | fail_if_no_progress with_reducible refine Good.mk' ?_
    | with_reducible apply emit_good
    | with_reducible apply chMove_good
    | with_reducible apply chMap_good
    | with_reducible refine pair_good (by assumption) ?_
    | intro _
    | split

theorem backPieces_good {c : Nat} {s : State} (hg : Good Q s) : Good Q (backPieces c s).1 := by
  unfold backPieces
  repeat' first
    | with_reducible assumption
    | extract_lets
    | with_reducible apply xlateRange_good
    | with_reducible refine pair_good (by assumption) ?_
    | split

theorem writeBack_good {c status : Nat} {s : State} (hg : Good Q s) : Good Q (writeBack c status s) := by
  unfold writeBack
  repeat' first
    | with_reducible assumption
    | extract_lets
    | with_reducible refine setHost_write2 ?_ _ _ _ _
    | with_reducible refine setHost_write ?_ _ _
    | fail_if_no_progress with_reducible refine Good.mk' ?_
    | with_reducible apply backPieces_good
    | with_reducible apply ite_good
    | with_reducible refine pair_good (by assumption) ?_
    | intro _
    | split
    | dsimp +zetaDelta only

theorem execPourWritebackComplete_good {ch : Nat} {io : Io} {s : State} {nx} (hg : Good Q s) (hx : execPourWritebackComplete ch io s = .next nx) : Good Q nx := by
  unfold execPourWritebackComplete at hx
  refine live_good hx ?_
  repeat' first
    | with_reducible assumption
    | extract_lets
    | with_reducible apply pourIdle_good
    | with_reducible apply abortReplies_good
    | with_reducible apply pourReply_good
    | with_reducible apply writeBack_good
    | with_reducible apply backPieces_good
    | with_reducible apply pourBusError_good
    | with_reducible apply writeBroken_good
    | with_reducible apply walkBroken_good
    | with_reducible refine pair_good (by assumption) ?_
    | intro _
    | split

theorem execPourCancelDrained_good {ch : Nat} {s : State} {nx} (hg : Good Q s) (hx : execPourCancelDrained ch s = .next nx) : Good Q nx := by
  unfold execPourCancelDrained at hx
  refine live_good hx ?_
  repeat' first
    | with_reducible assumption
    | fail_if_no_progress with_reducible refine Good.mk' ?_
    | with_reducible apply unstage_good
    | with_reducible apply chMap_good
    | intro _
    | split

theorem execPourBusErrorStop_good {s : State} {nx} (hg : Good Q s) (hx : execPourBusErrorStop s = .next nx) : Good Q nx := by
  unfold execPourBusErrorStop at hx
  refine live_good hx ?_
  repeat' first
    | with_reducible assumption
    | with_reducible apply pourBusError_good
    | intro _
    | split

theorem pourStop_good {c : Nat} {s : State} (hg : Good Q s) : Good Q (pourStop c s) := by
  unfold pourStop
  repeat' first
    | with_reducible assumption
    | extract_lets
    | fail_if_no_progress with_reducible refine Good.mk' ?_
    | with_reducible apply abortReplies_good
    | with_reducible apply pourReply_good
    | with_reducible apply chMove_good
    | with_reducible apply unstage_good
    | with_reducible apply chMap_good
    | intro _
    | split

theorem execPourStopDrained_good {s : State} {nx} (hg : Good Q s) (hx : execPourStopDrained s = .next nx) : Good Q nx := by
  unfold execPourStopDrained at hx
  refine live_good hx ?_
  repeat' first
    | with_reducible assumption
    | fail_if_no_progress with_reducible refine Good.mk' ?_
    | with_reducible apply pourStop_good
    | with_reducible apply foldl_good
    | intro _
    | split

theorem pourMemDrained_good {s : State} (hg : Good Q s) : Good Q (pourMemDrained s) := by
  unfold pourMemDrained
  repeat' first
    | with_reducible assumption
    | extract_lets
    | fail_if_no_progress with_reducible refine Good.mk' ?_
    | with_reducible apply unstage_good
    | with_reducible apply abortReplies_good
    | with_reducible apply pourReply_good
    | with_reducible apply writeBack_good
    | with_reducible apply foldl_good
    | intro _
    | split

theorem pourRejoin_good {s : State} (hg : Good Q s) : Good Q (pourRejoin s) := by
  unfold pourRejoin
  repeat' first
    | with_reducible assumption
    | with_reducible apply pourIdle_good
    | with_reducible apply foldl_good
    | intro _
    | split

end Sys2Proof.Machine
end

