-- ==== Sys2Proof/Laws/InvDomains.lean ====
section
/-! SUPPORT. Every operation of Machine/Domains.lean keeps the invariant and the queue. -/

set_option Elab.async false
set_option linter.unreachableTactic false
set_option linter.unusedTactic false

namespace Sys2Proof.Machine

variable {Q : List Instr}

theorem setDom_good {i : Nat} {d : Dom} {s : State} (hg : Good Q s) : Good Q (setDom i d s) := by
  unfold setDom
  repeat' first
    | with_reducible assumption
    | fail_if_no_progress with_reducible refine Good.mk' ?_

theorem domPhase_good {i phase : Nat} {s : State} (hg : Good Q s) : Good Q (domPhase i phase s) := by
  unfold domPhase
  repeat' first
    | with_reducible assumption
    | extract_lets
    | with_reducible apply logAdd_good
    | with_reducible apply emit_good
    | with_reducible apply dripAt_good

theorem domJobFault_good {i : Nat} {s : State} (hg : Good Q s) : Good Q (domJobFault i s) := by
  unfold domJobFault
  repeat' first
    | with_reducible assumption
    | with_reducible apply jobFault_good
    | split

theorem domBegin_good {i trig : Nat} {cmds : List OpenCmd} {s : State} (hg : Good Q s) : Good Q (domBegin i trig cmds s) := by
  unfold domBegin
  repeat' first
    | with_reducible assumption
    | fail_if_no_progress with_reducible refine Good.mk' ?_
    | with_reducible apply domJobFault_good
    | with_reducible apply setDom_good

theorem domTrigger_good {i trig : Nat} {cmds : List OpenCmd} {s : State} (hg : Good Q s) : Good Q (domTrigger i trig cmds s) := by
  unfold domTrigger
  repeat' first
    | with_reducible assumption
    | extract_lets
    | fail_if_no_progress with_reducible refine Good.mk' ?_
    | with_reducible apply domBegin_good
    | with_reducible apply setDom_good
    | with_reducible refine pair_good (by assumption) ?_
    | intro _
    | split

theorem startDomainReset_good {p : Packet} {z1 : Ext} {order : Nat} {s : State} (hg : Good Q s) : Good Q (startDomainReset p z1 order s) := by
  unfold startDomainReset
  repeat' first
    | with_reducible assumption
    | extract_lets
    | fail_if_no_progress with_reducible refine Good.mk' ?_
    | with_reducible apply asyncCmd_good
    | with_reducible apply domTrigger_good
    | with_reducible refine pair_good (by assumption) ?_
    | intro _
    | split

theorem execDomainReset_good {p : Packet} {s : State} {nx} (hg : Good Q s) (hx : execDomainReset p s = .next nx) : Good Q nx := by
  unfold execDomainReset at hx
  refine live_good hx ?_
  repeat' first
    | with_reducible assumption
    | with_reducible apply takeCmd_good
    | with_reducible apply startDomainReset_good
    | intro _

theorem spoutPoison_good {sl : Nat} {s : State} (hg : Good Q s) : Good Q (spoutPoison sl s) := by
  unfold spoutPoison
  repeat' first
    | with_reducible assumption
    | fail_if_no_progress with_reducible refine Good.mk' ?_
    | intro _
    | split

theorem domFenced_good {i : Nat} {s : State} (hg : Good Q s) : Good Q (domFenced i s) := by
  unfold domFenced
  repeat' first
    | with_reducible assumption
    | extract_lets
    | with_reducible apply spoutPoison_good
    | with_reducible apply hingeOff_good
    | with_reducible apply ptpHandover_good
    | split

theorem execDomainFenceClosed_good {code : Nat} {s : State} {nx} (hg : Good Q s) (hx : execDomainFenceClosed code s = .next nx) : Good Q nx := by
  unfold execDomainFenceClosed at hx
  refine live_good hx ?_
  repeat' first
    | with_reducible assumption
    | fail_if_no_progress with_reducible refine Good.mk' ?_
    | with_reducible apply domPhase_good
    | with_reducible apply domFenced_good
    | with_reducible apply setDom_good
    | with_reducible refine pair_good (by assumption) ?_
    | intro _
    | split

theorem ingressEmpty_good {p : Nat} {s : State} (hg : Good Q s) : Good Q (ingressEmpty p s) := by
  unfold ingressEmpty
  repeat' first
    | with_reducible assumption
    | extract_lets
    | fail_if_no_progress with_reducible refine Good.mk' ?_
    | with_reducible apply ctrAdd_good
    | with_reducible apply pfcCheck_good
    | with_reducible apply freeCells_good
    | with_reducible refine pair_good (by assumption) ?_
    | intro _
    | split

theorem domQueues_good {i : Nat} {s : State} (hg : Good Q s) : Good Q (domQueues i s) := by
  unfold domQueues
  repeat' first
    | with_reducible assumption
    | fail_if_no_progress with_reducible refine Good.mk' ?_
    | with_reducible apply ctrAdd_good
    | with_reducible apply mmuRetire_good
    | with_reducible apply ingressEmpty_good
    | intro _
    | split

theorem domEnter_good {i : Nat} {s : State} (hg : Good Q s) : Good Q (domEnter i s) := by
  unfold domEnter
  repeat' first
    | with_reducible assumption
    | extract_lets
    | fail_if_no_progress with_reducible refine Good.mk' ?_
    | with_reducible apply tlbClear_good
    | with_reducible apply pourMemDrained_good
    | with_reducible apply finish_good
    | with_reducible apply setDom_good
    | with_reducible apply foldl_good
    | intro _
    | split

theorem domToReset_good {i left : Nat} {s : State} (hg : Good Q s) : Good Q (domToReset i left s) := by
  unfold domToReset
  repeat' first
    | with_reducible assumption
    | extract_lets
    | fail_if_no_progress with_reducible refine Good.mk' ?_
    | with_reducible apply setDom_good
    | with_reducible apply domPhase_good
    | with_reducible apply domEnter_good
    | with_reducible apply domQueues_good

theorem execDomainDrainComplete_good {code : Nat} {s : State} {nx} (hg : Good Q s) (hx : execDomainDrainComplete code s = .next nx) : Good Q nx := by
  unfold execDomainDrainComplete at hx
  refine live_good hx ?_
  repeat' first
    | with_reducible assumption
    | with_reducible apply domToReset_good
    | with_reducible refine pair_good (by assumption) ?_
    | intro _
    | split

theorem domAnswer_good {i : Nat} {s : State} (hg : Good Q s) : Good Q (domAnswer i s) := by
  unfold domAnswer
  repeat' first
    | with_reducible assumption
    | fail_if_no_progress with_reducible refine Good.mk' ?_
    | with_reducible apply replyOne_good
    | with_reducible apply mmuRetire_good
    | with_reducible apply TRun.write_good
    | with_reducible apply foldl_good
    | intro _
    | split

theorem execDomainDrainDeadline_good {code leftover : Nat} {s : State} {nx} (hg : Good Q s) (hx : execDomainDrainDeadline code leftover s = .next nx) : Good Q nx := by
  unfold execDomainDrainDeadline at hx
  refine live_good hx ?_
  repeat' first
    | with_reducible assumption
    | extract_lets
    | with_reducible apply domToReset_good
    | with_reducible apply ctrAdd_good
    | with_reducible apply domAnswer_good
    | with_reducible refine pair_good (by assumption) ?_
    | intro _
    | split

theorem execDomainResetElapsed_good {code : Nat} {s : State} {nx} (hg : Good Q s) (hx : execDomainResetElapsed code s = .next nx) : Good Q nx := by
  unfold execDomainResetElapsed at hx
  refine live_good hx ?_
  repeat' first
    | with_reducible assumption
    | fail_if_no_progress with_reducible refine Good.mk' ?_
    | with_reducible apply setDom_good
    | with_reducible refine pair_good (by assumption) ?_
    | intro _
    | split

theorem escPut_good {kt : Nat} {s : State} (hg : Good Q s) : Good Q (escPut kt s) := by
  unfold escPut
  repeat' first
    | with_reducible assumption
    | extract_lets
    | fail_if_no_progress with_reducible refine Good.mk' ?_
    | with_reducible apply ctrInc_good
    | with_reducible apply escalate_good
    | intro _
    | split

theorem escCount_good {s : State} (hg : Good Q s) : Good Q (escCount s) := by
  unfold escCount
  repeat' first
    | with_reducible assumption
    | with_reducible apply aoHold_good
    | with_reducible apply escPut_good
    | split

theorem domBack_good {i : Nat} {s : State} (hg : Good Q s) : Good Q (domBack i s) := by
  unfold domBack
  split
  · exact vaultServe_good (vaultServe_good (vaultServe_good (setSlots_good hg rfl le_rfl)))
  · split
    · exact pourRejoin_good hg
    · split
      · exact hg
      · exact hingeStart_good hg

theorem domRejoin_good {i : Nat} {s : State} (hg : Good Q s) : Good Q (domRejoin i s) := by
  unfold domRejoin
  repeat' first
    | with_reducible assumption
    | extract_lets
    | fail_if_no_progress with_reducible refine Good.mk' ?_
    | with_reducible apply domPhase_good
    | with_reducible apply domBack_good
    | with_reducible apply setDom_good
    | with_reducible apply escCount_good
    | with_reducible apply finish_good
    | with_reducible apply domTrigger_good
    | with_reducible apply ite_good
    | with_reducible refine pair_good (by assumption) ?_
    | with_reducible apply foldl_good
    | intro _
    | split

theorem execEscalationWindowExpiry_good {s : State} {nx} (hg : Good Q s) (hx : execEscalationWindowExpiry s = .next nx) : Good Q nx := by
  unfold execEscalationWindowExpiry at hx
  refine live_good hx ?_
  repeat' first
    | with_reducible assumption
    | fail_if_no_progress with_reducible refine Good.mk' ?_
    | intro _

theorem execUnitHang_good {unit index cls : Nat} {s : State} {nx} (hg : Good Q s) (hx : execUnitHang unit index cls s = .next nx) : Good Q nx := by
  unfold execUnitHang at hx
  refine live_good hx ?_
  repeat' first
    | with_reducible assumption
    | extract_lets
    | with_reducible apply jobFault_good
    | with_reducible apply domTrigger_good
    | with_reducible apply ite_good
    | with_reducible refine pair_good (by assumption) ?_
    | intro _
    | split

theorem execPortBackpressureExpiry_good {unit index cls : Nat} {s : State} {nx} (hg : Good Q s) (hx : execPortBackpressureExpiry unit index cls s = .next nx) : Good Q nx := by
  unfold execPortBackpressureExpiry at hx
  refine live_good hx ?_
  repeat' first
    | with_reducible assumption
    | with_reducible apply jobFault_good
    | intro _
    | split

theorem execFirmwareHeartbeatMiss_good {core : Nat} {s : State} {nx} (hg : Good Q s) (hx : execFirmwareHeartbeatMiss core s = .next nx) : Good Q nx := by
  unfold execFirmwareHeartbeatMiss at hx
  refine live_good hx ?_
  repeat' first
    | with_reducible assumption
    | with_reducible apply domTrigger_good
    | intro _
    | split

theorem execControlStateError_good {code : Nat} {s : State} {nx} (hg : Good Q s) (hx : execControlStateError code s = .next nx) : Good Q nx := by
  unfold execControlStateError at hx
  refine live_good hx ?_
  repeat' first
    | with_reducible assumption
    | with_reducible apply domTrigger_good
    | with_reducible refine pair_good (by assumption) ?_
    | intro _
    | split

theorem execCoreMemoryUncorrectable_good {ward : Bool} {core : Nat} {s : State} {nx} (hg : Good Q s) (hx : execCoreMemoryUncorrectable ward core s = .next nx) : Good Q nx := by
  unfold execCoreMemoryUncorrectable at hx
  refine live_good hx ?_
  repeat' first
    | with_reducible assumption
    | with_reducible apply jobFault_good
    | with_reducible apply domTrigger_good
    | intro _
    | split

end Sys2Proof.Machine
end

