-- ==== Sys2Proof/Laws/InvBoot.lean ====
section
/-! SUPPORT. Every operation of Machine/Boot.lean keeps the invariant and the queue. -/

set_option Elab.async false
set_option linter.unreachableTactic false
set_option linter.unusedTactic false

namespace Sys2Proof.Machine

variable {Q : List Instr}

theorem bootGood_good {ctl ward : Option FwImage} {s : State} (hg : Good Q s) : Good Q (bootGood ctl ward s) :=
  ⟨hg.queue, { hg.inv with free := le_rfl }⟩

theorem bootBad_good {st img : Nat} {s : State} (hg : Good Q s) : Good Q (bootBad st img s) := by
  unfold bootBad
  repeat' first
    | with_reducible assumption
    | fail_if_no_progress with_reducible refine Good.mk' ?_
    | with_reducible apply logAdd_good

theorem boot_good {io : Io} {v : Verdict} {s : State} (hg : Good Q s) : Good Q (boot io v s) := by
  unfold boot
  repeat' first
    | with_reducible assumption
    | with_reducible apply bootBad_good
    | with_reducible apply readBroken_good
    | with_reducible apply bootGood_good
    | with_reducible refine pair_good (by assumption) ?_
    | split

theorem execBootRetry_good {io : Io} {v : Verdict} {s : State} {nx} (hg : Good Q s) (hx : execBootRetry io v s = .next nx) : Good Q nx := by
  unfold execBootRetry at hx
  refine live_good hx ?_
  repeat' first
    | with_reducible assumption
    | with_reducible apply boot_good
    | intro _
    | split

theorem stageSet_good {l : List Img} {s : State} (hg : Good Q s) : Good Q (stageSet l s) := by
  unfold stageSet
  repeat' first
    | with_reducible assumption
    | fail_if_no_progress with_reducible refine Good.mk' ?_

theorem stageBundle_good {b : List Byte} {v : Verdict} {s : State} (hg : Good Q s) : Good Q (stageBundle b v s).1 := by
  unfold stageBundle
  repeat' first
    | with_reducible assumption
    | with_reducible apply stageSet_good
    | with_reducible refine pair_good (by assumption) ?_
    | split

theorem startFwStage_good {p : Packet} {x : Ext} {order : Nat} {s : State} (hg : Good Q s) : Good Q (startFwStage p x order s) := by
  unfold startFwStage
  repeat' first
    | with_reducible assumption
    | extract_lets
    | fail_if_no_progress with_reducible refine Good.mk' ?_
    | with_reducible apply asyncCmd_good
    | with_reducible apply finish_good
    | with_reducible apply stageSet_good
    | with_reducible apply ownRead_good
    | with_reducible apply stageBundle_good
    | with_reducible refine pair_good (by assumption) ?_
    | intro _
    | split

theorem execFwStage_good {p : Packet} {io : Io} {v : Verdict} {s : State} {nx} (hg : Good Q s) (hx : execFwStage p io v s = .next nx) : Good Q nx := by
  unfold execFwStage at hx
  refine live_good hx ?_
  repeat' first
    | with_reducible assumption
    | with_reducible apply takeCmd_good
    | with_reducible apply startFwStage_good
    | intro _

theorem fwSwap_good {s : State} (hg : Good Q s) : Good Q (fwSwap s) := by
  unfold fwSwap
  repeat' first
    | with_reducible assumption
    | extract_lets
    | fail_if_no_progress with_reducible refine Good.mk' ?_
    | with_reducible apply ite_good
    | split

theorem startFwActivate_good {p : Packet} {x : Ext} {order : Nat} {s : State} (hg : Good Q s) : Good Q (startFwActivate p x order s) := by
  unfold startFwActivate
  repeat' first
    | with_reducible assumption
    | extract_lets
    | fail_if_no_progress with_reducible refine Good.mk' ?_
    | with_reducible apply asyncCmd_good
    | with_reducible apply finish_good
    | with_reducible apply fwSwap_good
    | with_reducible apply ite_good
    | with_reducible refine pair_good (by assumption) ?_
    | intro _
    | split

theorem execFwActivate_good {p : Packet} {v : Verdict} {s : State} {nx} (hg : Good Q s) (hx : execFwActivate p v s = .next nx) : Good Q nx := by
  unfold execFwActivate at hx
  refine live_good hx ?_
  repeat' first
    | with_reducible assumption
    | with_reducible apply takeCmd_good
    | with_reducible apply startFwActivate_good
    | intro _

theorem rollbackRaise_good {s : State} (hg : Good Q s) : Good Q (rollbackRaise s) := by
  unfold rollbackRaise
  repeat' first
    | with_reducible assumption
    | fail_if_no_progress with_reducible refine Good.mk' ?_
    | with_reducible refine pair_good (by assumption) ?_
    | split

end Sys2Proof.Machine
end

