-- ==== Sys2Proof/Laws/InvMgmt.lean ====
section
/-! SUPPORT. Every operation of Machine/Mgmt.lean keeps the invariant and the queue. -/

set_option Elab.async false
set_option linter.unreachableTactic false
set_option linter.unusedTactic false

namespace Sys2Proof.Machine

variable {Q : List Instr}

theorem pnUse_good {n : Nat} {s : State} (hg : Good Q s) : Good Q (pnUse n s) := by
  unfold pnUse
  repeat' first
    | with_reducible assumption
    | fail_if_no_progress with_reducible refine Good.mk' ?_
    | with_reducible refine pair_good (by assumption) ?_
    | split

theorem mgmtOut_good {r : MgmtResp} {s : State} (hg : Good Q s) : Good Q (mgmtOut r s) := by
  unfold mgmtOut
  repeat' first
    | with_reducible assumption
    | fail_if_no_progress with_reducible refine Good.mk' ?_
    | with_reducible apply pnUse_good
    | with_reducible refine pair_good (by assumption) ?_
    | split

theorem mgmtAnswer_good {q : MgmtReq} {status : Nat} {body : List Byte} {s : State} (hg : Good Q s) : Good Q (mgmtAnswer q status body s) := by
  unfold mgmtAnswer
  repeat' first
    | with_reducible assumption
    | extract_lets
    | fail_if_no_progress with_reducible refine Good.mk' ?_
    | with_reducible apply mgmtOut_good
    | intro _

theorem mgmtRead_good {q : MgmtReq} {s : State} (hg : Good Q s) : Good Q (mgmtRead q s) := by
  unfold mgmtRead
  repeat' first
    | with_reducible assumption
    | extract_lets
    | with_reducible apply mgmtAnswer_good
    | intro _
    | split

theorem mgmtChunk_good {q : MgmtReq} {s : State} (hg : Good Q s) : Good Q (mgmtChunk q s) := by
  unfold mgmtChunk
  repeat' first
    | with_reducible assumption
    | fail_if_no_progress with_reducible refine Good.mk' ?_
    | with_reducible apply mgmtAnswer_good
    | split

theorem mgmtCommit_good {q : MgmtReq} {v : Verdict} {s : State} (hg : Good Q s) : Good Q (mgmtCommit q v s) := by
  unfold mgmtCommit
  repeat' first
    | with_reducible assumption
    | extract_lets
    | with_reducible apply stageBundle_good
    | with_reducible apply stageSet_good
    | with_reducible apply bootGood_good
    | with_reducible apply mgmtAnswer_good
    | with_reducible apply ite_good
    | with_reducible apply foldl_good
    | intro _
    | split

theorem mgmtTrace_good {q : MgmtReq} {s : State} (hg : Good Q s) : Good Q (mgmtTrace q s) := by
  unfold mgmtTrace
  repeat' first
    | with_reducible assumption
    | extract_lets
    | with_reducible apply mgmtAnswer_good
    | with_reducible apply checkRanges_good
    | with_reducible apply traceApply_good
    | with_reducible refine pair_good (by assumption) ?_
    | split

theorem mgmtVault_good {q : MgmtReq} {sel : Nat} {s : State} (hg : Good Q s) : Good Q (mgmtVault q sel s) := by
  unfold mgmtVault
  repeat' first
    | with_reducible assumption
    | extract_lets
    | with_reducible apply vaultRecord_good
    | with_reducible apply mgmtAnswer_good
    | split

theorem mgmtRun_good {q : MgmtReq} {v : Verdict} {s : State} (hg : Good Q s) : Good Q (mgmtRun q v s) := by
  unfold mgmtRun
  repeat' first
    | with_reducible assumption
    | with_reducible apply mgmtRead_good
    | with_reducible apply mgmtVault_good
    | with_reducible apply mgmtChunk_good
    | with_reducible apply mgmtCommit_good
    | with_reducible apply mgmtTrace_good
    | with_reducible apply mgmtAnswer_good
    | with_reducible refine pair_good (by assumption) ?_
    | split

theorem execManagementRequest_good {q : MgmtReq} {v : Verdict} {s : State} {nx} (hg : Good Q s) (hx : execManagementRequest q v s = .next nx) : Good Q nx := by
  unfold execManagementRequest at hx
  refine live_good hx ?_
  repeat' first
    | with_reducible assumption
    | fail_if_no_progress with_reducible refine Good.mk' ?_
    | with_reducible apply ctrInc_good
    | with_reducible apply mgmtOut_good
    | with_reducible apply mgmtRun_good
    | with_reducible refine pair_good (by assumption) ?_
    | intro _
    | split

theorem mgmtServe_good  : ∀ (x0 : Nat) (x1 : State), Good Q x1 → Good Q (mgmtServe x0 x1) := by
  intro x0
  induction x0 with
  | zero =>
    intro x1 hg
    unfold mgmtServe
    repeat' first
      | with_reducible assumption
      | fail_if_no_progress with_reducible refine Good.mk' ?_
      | with_reducible apply mgmtRun_good
      | with_reducible refine pair_good (by assumption) ?_
      | split
  | succ n ih =>
    intro x1 hg
    unfold mgmtServe
    repeat' first
      | with_reducible assumption
      | fail_if_no_progress with_reducible refine Good.mk' ?_
      | with_reducible apply ih
      | with_reducible apply mgmtRun_good
      | with_reducible refine pair_good (by assumption) ?_
      | split

theorem execVaultNonceRefill_good {s : State} {nx} (hg : Good Q s) (hx : execVaultNonceRefill s = .next nx) : Good Q nx := by
  unfold execVaultNonceRefill at hx
  refine live_good hx ?_
  repeat' first
    | with_reducible assumption
    | extract_lets
    | fail_if_no_progress with_reducible refine Good.mk' ?_
    | with_reducible apply mgmtServe_good
    | with_reducible apply vaultServe_good
    | intro _
    | split

theorem keyInstall_good {b : List Byte} {v : KeyVerdict} {s : State} (hg : Good Q s) : Good Q (keyInstall b v s) := by
  unfold keyInstall
  repeat' first
    | with_reducible assumption
    | extract_lets
    | fail_if_no_progress with_reducible refine Good.mk' ?_
    | intro _
    | split

end Sys2Proof.Machine
end

