-- ==== Sys2Proof/Laws/InvAdmin.lean ====
section
/-! SUPPORT. Every operation of Machine/Admin.lean keeps the invariant and the queue. -/

set_option Elab.async false
set_option linter.unreachableTactic false
set_option linter.unusedTactic false

namespace Sys2Proof.Machine

variable {Q : List Instr}

theorem startEcho_good {p : Packet} {z1 : Ext} {order : Nat} {s : State} (hg : Good Q s) : Good Q (startEcho p z1 order s) := by
  unfold startEcho
  repeat' first
    | with_reducible assumption
    | fail_if_no_progress with_reducible refine Good.mk' ?_
    | with_reducible apply syncCmd_good
    | with_reducible apply replyOne_good
    | intro _

theorem execEcho_good {p : Packet} {s : State} {nx} (hg : Good Q s) (hx : execEcho p s = .next nx) : Good Q nx := by
  unfold execEcho at hx
  refine live_good hx ?_
  repeat' first
    | with_reducible assumption
    | with_reducible apply takeCmd_good
    | with_reducible apply startEcho_good
    | intro _

theorem startIdentify_good {p : Packet} {z1 : Ext} {order : Nat} {s : State} (hg : Good Q s) : Good Q (startIdentify p z1 order s) := by
  unfold startIdentify
  repeat' first
    | with_reducible assumption
    | with_reducible apply syncCmd_good
    | with_reducible apply replyOne_good
    | intro _

theorem execIdentify_good {p : Packet} {s : State} {nx} (hg : Good Q s) (hx : execIdentify p s = .next nx) : Good Q nx := by
  unfold execIdentify at hx
  refine live_good hx ?_
  repeat' first
    | with_reducible assumption
    | with_reducible apply takeCmd_good
    | with_reducible apply startIdentify_good
    | intro _

theorem startParamGet_good {p : Packet} {x : Ext} {order : Nat} {s : State} (hg : Good Q s) : Good Q (startParamGet p x order s) := by
  unfold startParamGet
  repeat' first
    | with_reducible assumption
    | extract_lets
    | with_reducible apply syncCmd_good
    | with_reducible apply replyOne_good
    | with_reducible apply ownWrite_good
    | with_reducible apply ite_good
    | with_reducible refine pair_good (by assumption) ?_
    | intro _
    | split

theorem execParamGet_good {p : Packet} {io : Io} {s : State} {nx} (hg : Good Q s) (hx : execParamGet p io s = .next nx) : Good Q nx := by
  unfold execParamGet at hx
  refine live_good hx ?_
  repeat' first
    | with_reducible assumption
    | with_reducible apply takeCmd_good
    | with_reducible apply startParamGet_good
    | intro _

theorem startSnapshot_good {p : Packet} {x : Ext} {order : Nat} {s : State} (hg : Good Q s) : Good Q (startSnapshot p x order s) := by
  unfold startSnapshot
  repeat' first
    | with_reducible assumption
    | extract_lets
    | fail_if_no_progress with_reducible refine Good.mk' ?_
    | with_reducible apply syncCmd_good
    | with_reducible apply ownWrite_good
    | with_reducible apply replyOne_good
    | with_reducible apply ite_good
    | with_reducible refine pair_good (by assumption) ?_
    | intro _
    | split

theorem execSnapshot_good {p : Packet} {io : Io} {s : State} {nx} (hg : Good Q s) (hx : execSnapshot p io s = .next nx) : Good Q nx := by
  unfold execSnapshot at hx
  refine live_good hx ?_
  repeat' first
    | with_reducible assumption
    | with_reducible apply takeCmd_good
    | with_reducible apply startSnapshot_good
    | intro _

theorem setHinge_good {id v : Nat} {s : State} (hg : Good Q s) : Good Q (setHinge id v s) := by
  unfold setHinge
  repeat' first
    | with_reducible assumption
    | extract_lets
    | with_reducible apply setP_good
    | with_reducible apply hingeOff_good
    | with_reducible apply hingeStart_good
    | split

theorem applyNow_good {s : State} {id v : Nat} (hg : Good Q s) : Good Q (applyNow s id v) := by
  unfold applyNow
  repeat' first
    | with_reducible assumption
    | with_reducible apply rollbackRaise_good
    | with_reducible apply setHinge_good
    | with_reducible apply recCtl_good
    | with_reducible apply setP_good
    | split

theorem applyEntry_good {at_ : Option Nat} {s : State} {e : Nat × Nat} (hg : Good Q s) : Good Q (applyEntry at_ s e) := by
  unfold applyEntry
  repeat' first
    | with_reducible assumption
    | fail_if_no_progress with_reducible refine Good.mk' ?_
    | with_reducible apply applyNow_good
    | with_reducible refine pair_good (by assumption) ?_
    | split

theorem applyEntries_good {at_ : Option Nat} {l : List (Nat × Nat)} {k : KeyVerdict} {s : State} (hg : Good Q s) : Good Q (applyEntries at_ l k s) := by
  unfold applyEntries
  repeat' first
    | with_reducible assumption
    | extract_lets
    | with_reducible apply applyEntry_good
    | with_reducible apply keyInstall_good
    | with_reducible refine pair_good (by assumption) ?_
    | with_reducible apply foldl_good
    | intro _
    | split

theorem startParamSet_good {p : Packet} {x : Ext} {order : Nat} {s : State} (hg : Good Q s) : Good Q (startParamSet p x order s) := by
  unfold startParamSet
  repeat' first
    | with_reducible assumption
    | extract_lets
    | fail_if_no_progress with_reducible refine Good.mk' ?_
    | with_reducible apply syncCmd_good
    | with_reducible apply replyOne_good
    | with_reducible apply applyEntries_good
    | intro _

theorem paramSetRow_good {p : Packet} {s : State} {nx} (hg : Good Q s) (hx : paramSetRow p s = .next nx) : Good Q nx := by
  unfold paramSetRow at hx
  refine live_good hx ?_
  repeat' first
    | with_reducible assumption
    | with_reducible apply takeCmd_good
    | with_reducible apply startParamSet_good
    | intro _
    | split

theorem execParamSet_good {p : Packet} {s : State} {nx} (hg : Good Q s) (hx : execParamSet p s = .next nx) : Good Q nx := paramSetRow_good hg hx

theorem execRollbackCommit_good {p : Packet} {s : State} {nx} (hg : Good Q s) (hx : execRollbackCommit p s = .next nx) : Good Q nx := paramSetRow_good hg hx

theorem execHingeEnable_good {p : Packet} {s : State} {nx} (hg : Good Q s) (hx : execHingeEnable p s = .next nx) : Good Q nx := paramSetRow_good hg hx

theorem execLaneModeWrite_good {p : Packet} {s : State} {nx} (hg : Good Q s) (hx : execLaneModeWrite p s = .next nx) : Good Q nx := paramSetRow_good hg hx

theorem execRecEnable_good {p : Packet} {s : State} {nx} (hg : Good Q s) (hx : execRecEnable p s = .next nx) : Good Q nx := paramSetRow_good hg hx

theorem execKeyInstall_good {p : Packet} {v : KeyVerdict} {s : State} {nx} (hg : Good Q s) (hx : execKeyInstall p v s = .next nx) : Good Q nx := by
  unfold execKeyInstall at hx
  refine live_good hx ?_
  repeat' first
    | with_reducible assumption
    | fail_if_no_progress with_reducible refine Good.mk' ?_
    | with_reducible apply takeCmd_good
    | with_reducible apply startParamSet_good
    | intro _

theorem setRoot_good {ctx : Nat} {r : Option Nat} {s : State} (hg : Good Q s) : Good Q (setRoot ctx r s) := by
  unfold setRoot
  split
  · exact setKeyway_good hg hg.inv.tlb hg.inv.upper
  · exact setKeyway_good hg hg.inv.tlb hg.inv.upper

theorem startMmuMap_good {p : Packet} {z1 : Ext} {order : Nat} {s : State} (hg : Good Q s) : Good Q (startMmuMap p z1 order s) := by
  unfold startMmuMap
  repeat' first
    | with_reducible assumption
    | extract_lets
    | fail_if_no_progress with_reducible refine Good.mk' ?_
    | with_reducible apply syncCmd_good
    | with_reducible apply replyOne_good
    | with_reducible apply setRoot_good
    | with_reducible apply ite_good
    | intro _
    | split

theorem execMmuMap_good {p : Packet} {s : State} {nx} (hg : Good Q s) (hx : execMmuMap p s = .next nx) : Good Q nx := by
  unfold execMmuMap at hx
  refine live_good hx ?_
  repeat' first
    | with_reducible assumption
    | with_reducible apply takeCmd_good
    | with_reducible apply startMmuMap_good
    | intro _

theorem startMmuUnmap_good {p : Packet} {z1 : Ext} {order : Nat} {s : State} (hg : Good Q s) : Good Q (startMmuUnmap p z1 order s) := by
  unfold startMmuUnmap
  repeat' first
    | with_reducible assumption
    | extract_lets
    | fail_if_no_progress with_reducible refine Good.mk' ?_
    | with_reducible apply asyncCmd_good
    | with_reducible apply mmuEnd_good
    | with_reducible apply tlbDropCtx_good
    | with_reducible apply setRoot_good
    | with_reducible apply ite_good
    | intro _
    | split

theorem execMmuUnmap_good {p : Packet} {s : State} {nx} (hg : Good Q s) (hx : execMmuUnmap p s = .next nx) : Good Q nx := by
  unfold execMmuUnmap at hx
  refine live_good hx ?_
  repeat' first
    | with_reducible assumption
    | with_reducible apply takeCmd_good
    | with_reducible apply startMmuUnmap_good
    | intro _

theorem startMmuInval_good {p : Packet} {z1 : Ext} {order : Nat} {s : State} (hg : Good Q s) : Good Q (startMmuInval p z1 order s) := by
  unfold startMmuInval
  repeat' first
    | with_reducible assumption
    | with_reducible apply asyncCmd_good
    | with_reducible apply mmuEnd_good
    | with_reducible apply tlbClear_good
    | with_reducible apply tlbDrop_good
    | intro _
    | split

theorem execMmuInval_good {p : Packet} {s : State} {nx} (hg : Good Q s) (hx : execMmuInval p s = .next nx) : Good Q nx := by
  unfold execMmuInval at hx
  refine live_good hx ?_
  repeat' first
    | with_reducible assumption
    | with_reducible apply takeCmd_good
    | with_reducible apply startMmuInval_good
    | intro _

theorem poolApply_good {c base n : Nat} {s : State} (hg : Good Q s) : Good Q (poolApply c base n s) := by
  unfold poolApply
  repeat' first
    | with_reducible assumption
    | extract_lets
    | fail_if_no_progress with_reducible refine Good.mk' ?_
    | with_reducible apply newRuns_good
    | with_reducible apply setPool_good
    | with_reducible apply poolRebuild_good
    | intro _
    | split

theorem startPoolConfig_good {p : Packet} {x : Ext} {order : Nat} {s : State} (hg : Good Q s) : Good Q (startPoolConfig p x order s) := by
  unfold startPoolConfig
  repeat' first
    | with_reducible assumption
    | extract_lets
    | fail_if_no_progress with_reducible refine Good.mk' ?_
    | with_reducible apply asyncCmd_good
    | with_reducible apply finish_good
    | with_reducible apply poolApply_good
    | with_reducible apply ite_good
    | intro _
    | split

theorem execPoolConfig_good {p : Packet} {io : Io} {s : State} {nx} (hg : Good Q s) (hx : execPoolConfig p io s = .next nx) : Good Q nx := by
  unfold execPoolConfig at hx
  refine live_good hx ?_
  repeat' first
    | with_reducible assumption
    | with_reducible apply takeCmd_good
    | with_reducible apply startPoolConfig_good
    | intro _

end Sys2Proof.Machine
end

