-- ==== Sys2Proof/Laws/InvEpochs.lean ====
section
/-! SUPPORT. Every operation of Machine/Epochs.lean keeps the invariant and the queue. -/

set_option Elab.async false
set_option linter.unreachableTactic false
set_option linter.unusedTactic false

namespace Sys2Proof.Machine

variable {Q : List Instr}

theorem stageLayer_good {i : Layer} {l : List DWord} {s : State} (hg : Good Q s) : Good Q (stageLayer i l s) := by
  unfold stageLayer
  repeat' first
    | with_reducible assumption
    | fail_if_no_progress with_reducible refine Good.mk' ?_
    | intro _

theorem noteLoad_good {s : State} (hg : Good Q s) : Good Q (noteLoad s) := by
  unfold noteLoad
  repeat' first
    | with_reducible assumption
    | extract_lets
    | fail_if_no_progress with_reducible refine Good.mk' ?_
    | intro _

theorem startLayerLoad_good {p : Packet} {x : Ext} {order : Nat} {s : State} (hg : Good Q s) : Good Q (startLayerLoad p x order s) := by
  unfold startLayerLoad
  repeat' first
    | with_reducible assumption
    | extract_lets
    | fail_if_no_progress with_reducible refine Good.mk' ?_
    | with_reducible apply noteLoad_good
    | with_reducible apply asyncCmd_good
    | with_reducible apply ownRead_good
    | with_reducible apply finish_good
    | with_reducible apply stageLayer_good
    | with_reducible refine pair_good (by assumption) ?_
    | intro _
    | split

theorem execLayerLoad_good {p : Packet} {io : Io} {s : State} {nx} (hg : Good Q s) (hx : execLayerLoad p io s = .next nx) : Good Q nx := by
  unfold execLayerLoad at hx
  refine live_good hx ?_
  repeat' first
    | with_reducible assumption
    | with_reducible apply takeCmd_good
    | with_reducible apply startLayerLoad_good
    | intro _

theorem startTableLoad_good {p : Packet} {x : Ext} {order : Nat} {s : State} (hg : Good Q s) : Good Q (startTableLoad p x order s) := by
  unfold startTableLoad
  repeat' first
    | with_reducible assumption
    | extract_lets
    | fail_if_no_progress with_reducible refine Good.mk' ?_
    | with_reducible apply noteLoad_good
    | with_reducible apply asyncCmd_good
    | with_reducible apply ownRead_good
    | with_reducible apply finish_good
    | with_reducible apply setP_good
    | with_reducible refine pair_good (by assumption) ?_
    | intro _
    | split

theorem execTableLoad_good {p : Packet} {io : Io} {s : State} {nx} (hg : Good Q s) (hx : execTableLoad p io s = .next nx) : Good Q nx := by
  unfold execTableLoad at hx
  refine live_good hx ?_
  repeat' first
    | with_reducible assumption
    | with_reducible apply takeCmd_good
    | with_reducible apply startTableLoad_good
    | intro _

theorem startKeyringCommit_good {p : Packet} {z1 : Ext} {order : Nat} {s : State} (hg : Good Q s) : Good Q (startKeyringCommit p z1 order s) := by
  unfold startKeyringCommit
  repeat' first
    | with_reducible assumption
    | extract_lets
    | fail_if_no_progress with_reducible refine Good.mk' ?_
    | with_reducible apply asyncCmd_good
    | with_reducible apply noteLoad_good
    | with_reducible apply ite_good
    | intro _
    | split

theorem execKeyringCommit_good {p : Packet} {s : State} {nx} (hg : Good Q s) (hx : execKeyringCommit p s = .next nx) : Good Q nx := by
  unfold execKeyringCommit at hx
  refine live_good hx ?_
  repeat' first
    | with_reducible assumption
    | with_reducible apply takeCmd_good
    | with_reducible apply startKeyringCommit_good
    | intro _

theorem endAwait_good {f : StepCtx → StepCtx} {s : State} (hg : Good Q s) : Good Q (endAwait f s) := by
  unfold endAwait
  repeat' first
    | with_reducible assumption
    | fail_if_no_progress with_reducible refine Good.mk' ?_
    | intro _
    | split

theorem endUnloaded_good {i : Nat} {s : State} (hg : Good Q s) : Good Q (endUnloaded i s) := by
  unfold endUnloaded
  repeat' first
    | with_reducible assumption
    | with_reducible apply jobFault_good
    | with_reducible refine pair_good (by assumption) ?_
    | split

theorem commitRefused_good {status : Nat} {c : Commit} {s : State} (hg : Good Q s) : Good Q (commitRefused status c s) := by
  unfold commitRefused
  repeat' first
    | with_reducible assumption
    | extract_lets
    | fail_if_no_progress with_reducible refine Good.mk' ?_
    | with_reducible apply finish_good
    | with_reducible apply endUnloaded_good
    | with_reducible apply endAwait_good
    | with_reducible apply foldl_good
    | intro _

theorem winTake_good {step cls : Nat} {s : State} (hg : Good Q s) : Good Q (winTake step cls s) := by
  unfold winTake
  repeat' first
    | with_reducible assumption
    | extract_lets
    | fail_if_no_progress with_reducible refine Good.mk' ?_
    | with_reducible apply ite_good
    | intro _
    | split

theorem winMap_good {w : Nat} {f : BiasWin → BiasWin} {s : State} (hg : Good Q s) : Good Q (winMap w f s) := by
  unfold winMap
  repeat' first
    | with_reducible assumption
    | fail_if_no_progress with_reducible refine Good.mk' ?_
    | intro _
    | split

theorem winCount_good {step epoch layer : Nat} {counts : List Nat} {s : State} (hg : Good Q s) : Good Q (winCount step epoch layer counts s) := by
  unfold winCount
  repeat' first
    | with_reducible assumption
    | extract_lets
    | fail_if_no_progress with_reducible refine Good.mk' ?_
    | with_reducible apply winMap_good
    | with_reducible refine pair_good (by assumption) ?_
    | intro _
    | split

theorem krRewrite_good {epoch layer : Nat} {f : List DWord → List DWord} {s : State} (hg : Good Q s) : Good Q (krRewrite epoch layer f s) := by
  unfold krRewrite
  repeat' first
    | with_reducible assumption
    | fail_if_no_progress with_reducible refine Good.mk' ?_
    | with_reducible refine pair_good (by assumption) ?_
    | intro _
    | split

theorem biasApply_good {x : BiasWin} {s : State} (hg : Good Q s) : Good Q (biasApply x s) := by
  unfold biasApply
  repeat' first
    | with_reducible assumption
    | extract_lets
    | fail_if_no_progress with_reducible refine Good.mk' ?_
    | with_reducible apply krRewrite_good
    | with_reducible apply winMap_good
    | with_reducible apply ite_good
    | with_reducible refine pair_good (by assumption) ?_
    | with_reducible apply foldl_good
    | intro _
    | split

theorem execBiasUpdate_good {window : Nat} {s : State} {nx} (hg : Good Q s) (hx : execBiasUpdate window s = .next nx) : Good Q nx := by
  unfold execBiasUpdate at hx
  refine live_good hx ?_
  repeat' first
    | with_reducible assumption
    | extract_lets
    | with_reducible apply jobFault_good
    | with_reducible apply biasApply_good
    | with_reducible refine pair_good (by assumption) ?_
    | intro _
    | split

theorem krPrune_good {s : State} (hg : Good Q s) : Good Q (krPrune s) := by
  unfold krPrune
  repeat' first
    | with_reducible assumption
    | extract_lets
    | fail_if_no_progress with_reducible refine Good.mk' ?_
    | with_reducible apply foldl_good
    | intro _

theorem epochSwitch_good {c : Commit} {s : State} (hg : Good Q s) : Good Q (epochSwitch c s) := by
  unfold epochSwitch
  repeat' first
    | with_reducible assumption
    | extract_lets
    | fail_if_no_progress with_reducible refine Good.mk' ?_
    | with_reducible apply jobFault_good
    | with_reducible apply endAwait_good
    | with_reducible apply krPrune_good
    | with_reducible apply ctrAdd_good
    | with_reducible apply dripAt_good
    | with_reducible apply evSend_good
    | with_reducible apply finish_good
    | with_reducible apply ite_good
    | with_reducible refine pair_good (by assumption) ?_
    | intro _
    | split

end Sys2Proof.Machine
end

