-- ==== Sys2Proof/Laws/InvTensor.lean ====
section
/-! SUPPORT. Every operation of Machine/Tensor.lean keeps the invariant and the queue. -/

set_option Elab.async false
set_option linter.unreachableTactic false
set_option linter.unusedTactic false

namespace Sys2Proof.Machine

variable {Q : List Instr}

theorem TRun.start_good {s : State} (hg : Good Q s) : Good Q (TRun.start s).s := hg

theorem foldlT_good {α : Type} {f : TRun → α → TRun} {l : List α} {t : TRun} (h : Good Q t.s)
    (hf : ∀ u x, Good Q u.s → Good Q (f u x).s) : Good Q (l.foldl f t).s := by
  induction l generalizing t with
  | nil => exact h
  | cons x r ih => exact ih (hf t x h)

theorem foldlT_fst_good {α β : Type} {f : TRun × β → α → TRun × β} {l : List α} {r : TRun × β} (h : Good Q r.1.s)
    (hf : ∀ u x, Good Q u.1.s → Good Q (f u x).1.s) : Good Q (l.foldl f r).1.s := by
  induction l generalizing r with
  | nil => exact h
  | cons x l ih => exact ih (hf r x h)

theorem TRun.read_good {t : TRun} {va n : Nat} (hg : Good Q t.s) : Good Q (TRun.read t va n).1.s := by
  unfold TRun.read
  repeat' first
    | with_reducible assumption
    | fail_if_no_progress with_reducible refine Good.mk' ?_
    | with_reducible apply xlateRange_good
    | with_reducible refine pair_good (by assumption) ?_
    | split

theorem TRun.now_good {α : Type} {f : TRun → TRun × α} {t : TRun} (hg : Good Q t.s) (hf : ∀ u, Good Q u.s → Good Q (f u).1.s) :
    Good Q (TRun.now f t).1.s := hf _ hg

theorem TRun.put_good {t : TRun} {l : List Piece} {bs : List Byte} (hg : Good Q t.s) : Good Q (TRun.put t l bs).s := by
  unfold TRun.put
  repeat' first
    | with_reducible assumption
    | with_reducible refine setHost_write ?_ _ _
    | fail_if_no_progress with_reducible refine Good.mk' ?_

theorem TRun.write_good {t : TRun} {va : Nat} {bs : List Byte} (hg : Good Q t.s) : Good Q (TRun.write t va bs).s := by
  unfold TRun.write
  repeat' first
    | with_reducible assumption
    | fail_if_no_progress with_reducible refine Good.mk' ?_
    | with_reducible apply xlateRange_good
    | with_reducible apply TRun.put_good
    | with_reducible refine pair_good (by assumption) ?_
    | split

theorem TRun.joined_good {f : TRun → TRun} {t : TRun} (hg : Good Q t.s) (hf : ∀ u, Good Q u.s → Good Q (f u).s) :
    Good Q (TRun.joined f t).s := hf _ hg

theorem elemRead_good {d : Desc} {o : List Nat} {i0 : Nat} {t : TRun} (hg : Good Q t.s) : Good Q (elemRead d o i0 t).1.s := by
  unfold elemRead
  repeat' first
    | with_reducible assumption
    | extract_lets
    | with_reducible apply TRun.read_good
    | split

theorem rowRead_good {d : Desc} {o : List Nat} {n : Nat} {t : TRun} (hg : Good Q t.s) : Good Q (rowRead d o n t).1.s := by
  unfold rowRead
  repeat' first
    | with_reducible assumption
    | extract_lets
    | with_reducible apply elemRead_good
    | with_reducible apply foldl_good
    | with_reducible apply foldl_fst_good
    | with_reducible apply foldlT_good
    | with_reducible apply foldlT_fst_good
    | intro _
    | split

theorem unitWrite_good {d : Desc} {o : List Nat} {lines : List (List Nat × List Nat)} {t : TRun} (hg : Good Q t.s) : Good Q (unitWrite d o lines t).s := by
  unfold unitWrite
  repeat' first
    | with_reducible assumption
    | extract_lets
    | fail_if_no_progress with_reducible refine Good.mk' ?_
    | with_reducible apply TRun.joined_good
    | with_reducible apply TRun.write_good
    | with_reducible apply ite_good
    | intro _
    | split
    | dsimp +zetaDelta only

theorem pickAt_good {l : List TEnt} {s : State} {a : Nat} (hg : Good Q s) : Good Q (pickAt l s a) := by
  unfold pickAt
  exact setHost_memWrite (s := { s with freeCtr := s.freeCtr + 1 }) (Good.mk' hg) _ _

theorem settleTwice_good {l : List TEnt} {s : State} (hg : Good Q s) : Good Q (settleTwice l s) := by
  unfold settleTwice
  repeat' first
    | with_reducible assumption
    | with_reducible apply pickAt_good
    | with_reducible apply foldl_good
    | with_reducible apply foldlT_good
    | with_reducible apply foldlT_fst_good
    | intro _

theorem tileWrite_good {t : TTile} {s : State} (hg : Good Q s) : Good Q (tileWrite t s) := by
  unfold tileWrite
  repeat' first
    | with_reducible assumption
    | with_reducible refine setHost_write ?_ _ _
    | fail_if_no_progress with_reducible refine Good.mk' ?_
    | intro _

theorem tensorGo_good {n : Nat} {r : TensorRun} {s : State} (hg : Good Q s) : Good Q (tensorGo n r s) := by
  unfold tensorGo
  repeat' first
    | with_reducible assumption
    | extract_lets
    | fail_if_no_progress with_reducible refine Good.mk' ?_
    | with_reducible apply tileWrite_good
    | with_reducible apply mmuRetire_good
    | with_reducible apply finish_good
    | with_reducible apply ctrInc_good
    | with_reducible apply foldl_good
    | with_reducible apply foldlT_good
    | with_reducible apply foldlT_fst_good
    | intro _
    | split

theorem tensorRun_good {t : TRun} {m : Mem} {io : Io} {tiles cls : Nat} {same arr rows : Bool} {c : OpenCmd} {r0 r1 : Nat}
    (hg : Good Q t.s) (hm : Mem.wf m = true) : Good Q (tensorRun t m io tiles cls same arr rows c r0 r1) := by
  have hs := setHost_good hg hm
  have hall : ∀ u, Good Q u → Good Q { u with hostMem := m } := fun u hu => setHost_good hu hm
  unfold tensorRun
  extract_lets log src s f f' fix all
  have hf : Good Q f := by
    show Good Q (if same then _ else _)
    split
    · exact hg
    · exact freePieces_good hg
  have hf' : Good Q f' := by
    show Good Q (if arr then _ else _)
    split
    · exact hf
    · exact settleTwice_good hf
  have ha : Good Q all := jobIo_good (fun u _ => tensorGo_good (hall _ hf')) hs
  clear_value all
  split
  · exact xlateFault_good hg
  · split
    · extract_lets bad l u
      exact finish_good (foldl_good (readBroken_good hs) fun _ _ hu => tileWrite_good hu)
    · exact ha
  · exact ha

theorem tensorBegin_good {go : OpenCmd → State → State} {p : Packet} {x : Ext} {order : Nat} {c : OpenCmd} {s : State} (hgo : ∀ (x0 : OpenCmd), ∀ u, Good Q u → Good Q (go x0 u)) (hg : Good Q s) : Good Q (tensorBegin go p x order c s) := by
  unfold tensorBegin
  repeat' first
    | with_reducible assumption
    | fail_if_no_progress with_reducible refine Good.mk' ?_
    | with_reducible apply hgo
    | intro _
    | split

theorem unitSource_good {src dst : Desc} {o : List Nat} {t : TRun} (hg : Good Q t.s) : Good Q (unitSource src dst o t).1.s := by
  unfold unitSource
  repeat' first
    | with_reducible assumption
    | extract_lets
    | with_reducible apply rowRead_good
    | with_reducible apply foldl_good
    | with_reducible apply foldl_fst_good
    | with_reducible apply foldlT_good
    | with_reducible apply foldlT_fst_good
    | intro _
    | split

theorem copyUnit_good {f : Option Fused} {src dst : Desc} {t : TRun} {o : List Nat} (hg : Good Q t.s) : Good Q (copyUnit f src dst t o).s := by
  unfold copyUnit
  repeat' first
    | with_reducible assumption
    | extract_lets
    | with_reducible apply unitSource_good
    | with_reducible apply unitWrite_good
    | with_reducible refine pair_good (by assumption) ?_
    | intro _
    | split

theorem runCopy_good {p : Packet} {x : Ext} {c : OpenCmd} {s : State} (hg : Good Q s) : Good Q (runCopy p x c s) := by
  unfold runCopy
  repeat' first
    | with_reducible assumption
    | extract_lets
    | with_reducible refine tensorRun_good ?_ hg.inv.host
    | with_reducible apply finish_good
    | with_reducible apply copyUnit_good
    | with_reducible apply TRun.start_good
    | with_reducible apply tensorRun_good
    | with_reducible apply foldl_good
    | with_reducible apply foldlT_good
    | with_reducible apply foldlT_fst_good
    | intro _
    | split

theorem startTensorCopy_good {p : Packet} {x : Ext} {order : Nat} {s : State} (hg : Good Q s) : Good Q (startTensorCopy p x order s) := by
  unfold startTensorCopy
  repeat' first
    | with_reducible assumption
    | extract_lets
    | fail_if_no_progress with_reducible refine Good.mk' ?_
    | with_reducible apply braceCmd_good
    | with_reducible apply tensorBegin_good
    | with_reducible apply runCopy_good
    | intro _

theorem execTensorCopy_good {p : Packet} {io : Io} {tiles : Nat} {s : State} {nx} (hg : Good Q s) (hx : execTensorCopy p io tiles s = .next nx) : Good Q nx := by
  unfold execTensorCopy at hx
  refine live_good hx ?_
  repeat' first
    | with_reducible assumption
    | extract_lets
    | fail_if_no_progress with_reducible refine Good.mk' ?_
    | with_reducible apply takeCmd_good
    | with_reducible apply startTensorCopy_good
    | intro _

theorem indexAt_good {ix : Desc} {n p : Nat} {t : TRun} (hg : Good Q t.s) : Good Q (indexAt ix n p t).1.s := by
  unfold indexAt
  repeat' first
    | with_reducible assumption
    | extract_lets
    | with_reducible apply elemRead_good

theorem rowCopy_good {src dst : Desc} {q r : Nat} {t : TRun} (hg : Good Q t.s) : Good Q (rowCopy src dst q r t).s := by
  unfold rowCopy
  repeat' first
    | with_reducible assumption
    | extract_lets
    | with_reducible apply rowRead_good
    | with_reducible apply unitWrite_good
    | intro _
    | split

theorem runGather_good {p : Packet} {x : Ext} {c : OpenCmd} {s : State} (hg : Good Q s) : Good Q (runGather p x c s) := by
  unfold runGather
  repeat' first
    | with_reducible assumption
    | extract_lets
    | with_reducible refine tensorRun_good ?_ hg.inv.host
    | with_reducible apply finish_good
    | with_reducible apply indexAt_good
    | with_reducible apply rowCopy_good
    | with_reducible apply TRun.start_good
    | with_reducible apply tensorRun_good
    | with_reducible apply foldl_good
    | with_reducible apply foldlT_good
    | with_reducible apply foldlT_fst_good
    | intro _
    | split

theorem startGather_good {p : Packet} {x : Ext} {order : Nat} {s : State} (hg : Good Q s) : Good Q (startGather p x order s) := by
  unfold startGather
  repeat' first
    | with_reducible assumption
    | fail_if_no_progress with_reducible refine Good.mk' ?_
    | with_reducible apply braceCmd_good
    | with_reducible apply tensorBegin_good
    | with_reducible apply runGather_good
    | intro _

theorem execGather_good {p : Packet} {io : Io} {tiles : Nat} {s : State} {nx} (hg : Good Q s) (hx : execGather p io tiles s = .next nx) : Good Q nx := by
  unfold execGather at hx
  refine live_good hx ?_
  repeat' first
    | with_reducible assumption
    | extract_lets
    | fail_if_no_progress with_reducible refine Good.mk' ?_
    | with_reducible apply takeCmd_good
    | with_reducible apply startGather_good
    | intro _

theorem targets_good {src ix dst : Desc} {t : TRun} (hg : Good Q t.s) : Good Q (targets src ix dst t).1.s := by
  unfold targets
  repeat' first
    | with_reducible assumption
    | extract_lets
    | with_reducible apply indexAt_good
    | with_reducible apply foldl_good
    | with_reducible apply foldl_fst_good
    | with_reducible apply foldlT_good
    | with_reducible apply foldlT_fst_good
    | intro _

theorem accRow_good {src dst : Desc} {r : Nat} {ps : List Nat} {t : TRun} (hg : Good Q t.s) : Good Q (accRow src dst r ps t).s := by
  unfold accRow
  repeat' first
    | with_reducible assumption
    | extract_lets
    | fail_if_no_progress with_reducible refine Good.mk' ?_
    | with_reducible apply rowRead_good
    | with_reducible apply unitWrite_good
    | with_reducible apply TRun.now_good
    | with_reducible apply ite_good
    | with_reducible apply foldl_good
    | with_reducible apply foldl_fst_good
    | with_reducible apply foldlT_good
    | with_reducible apply foldlT_fst_good
    | intro _
    | split
    | dsimp +zetaDelta only

theorem collisions_good {dst : Desc} {n : Nat} {tg : List Nat} {t : TRun} (hg : Good Q t.s) : Good Q (collisions dst n tg t).1.s := by
  unfold collisions
  repeat' first
    | with_reducible assumption
    | extract_lets
    | fail_if_no_progress with_reducible refine Good.mk' ?_
    | with_reducible apply freeBytes_good
    | split

theorem runScatter_good {p : Packet} {x : Ext} {c : OpenCmd} {s : State} (hg : Good Q s) : Good Q (runScatter p x c s) := by
  unfold runScatter
  repeat' first
    | with_reducible assumption
    | extract_lets
    | with_reducible refine tensorRun_good ?_ hg.inv.host
    | fail_if_no_progress with_reducible refine Good.mk' ?_
    | with_reducible apply finish_good
    | with_reducible apply targets_good
    | with_reducible apply TRun.start_good
    | with_reducible apply accRow_good
    | with_reducible apply collisions_good
    | with_reducible apply tensorRun_good
    | with_reducible apply ite_good
    | with_reducible apply foldl_good
    | with_reducible apply foldl_fst_good
    | with_reducible apply foldlT_good
    | with_reducible apply foldlT_fst_good
    | intro _
    | split
    | dsimp +zetaDelta only

theorem startScatterAcc_good {p : Packet} {x : Ext} {order : Nat} {s : State} (hg : Good Q s) : Good Q (startScatterAcc p x order s) := by
  unfold startScatterAcc
  repeat' first
    | with_reducible assumption
    | extract_lets
    | fail_if_no_progress with_reducible refine Good.mk' ?_
    | with_reducible apply braceCmd_good
    | with_reducible apply tensorBegin_good
    | with_reducible apply runScatter_good
    | intro _

theorem execScatterAcc_good {p : Packet} {io : Io} {arrival : List Nat} {tiles : Nat} {s : State} {nx} (hg : Good Q s) (hx : execScatterAcc p io arrival tiles s = .next nx) : Good Q nx := by
  unfold execScatterAcc at hx
  refine live_good hx ?_
  repeat' first
    | with_reducible assumption
    | extract_lets
    | fail_if_no_progress with_reducible refine Good.mk' ?_
    | with_reducible apply takeCmd_good
    | with_reducible apply startScatterAcc_good
    | intro _

theorem tensorStart_good {h : Held} {c : OpenCmd} {s : State} (hg : Good Q s) : Good Q (tensorStart h c s) := by
  unfold tensorStart
  repeat' first
    | with_reducible assumption
    | with_reducible apply runCopy_good
    | with_reducible apply runGather_good
    | with_reducible apply runScatter_good
    | with_reducible refine pair_good (by assumption) ?_
    | split

theorem tensorPump_good {cls : Nat} : ∀ (x0 : Nat) (x1 : State), Good Q x1 → Good Q (tensorPump cls x0 x1) := by
  intro x0
  induction x0 with
  | zero =>
    intro x1 hg
    unfold tensorPump
    repeat' first
      | with_reducible assumption
      | fail_if_no_progress with_reducible refine Good.mk' ?_
      | with_reducible apply tensorStart_good
      | with_reducible refine pair_good (by assumption) ?_
      | intro _
      | split
  | succ n ih =>
    intro x1 hg
    unfold tensorPump
    repeat' first
      | with_reducible assumption
      | fail_if_no_progress with_reducible refine Good.mk' ?_
      | with_reducible apply ih
      | with_reducible apply tensorStart_good
      | with_reducible refine pair_good (by assumption) ?_
      | intro _
      | split

theorem tensorOn_good {cls n : Nat} {s : State} (hg : Good Q s) : Good Q (tensorOn cls n s) := by
  unfold tensorOn
  repeat' first
    | with_reducible assumption
    | extract_lets
    | with_reducible apply tensorGo_good
    | with_reducible apply tensorPump_good
    | with_reducible refine pair_good (by assumption) ?_
    | intro _
    | split

theorem tensorPoison_good {cls : Nat} {s : State} (hg : Good Q s) : Good Q (tensorPoison cls s) := by
  unfold tensorPoison
  repeat' first
    | with_reducible assumption
    | extract_lets
    | fail_if_no_progress with_reducible refine Good.mk' ?_
    | with_reducible apply mmuRetire_good
    | with_reducible apply finish_good
    | with_reducible apply tensorPump_good
    | with_reducible refine pair_good (by assumption) ?_
    | intro _
    | split

theorem tensorAbort_good {s : State} (hg : Good Q s) : Good Q (tensorAbort s) := by
  unfold tensorAbort
  repeat' first
    | with_reducible assumption
    | fail_if_no_progress with_reducible refine Good.mk' ?_
    | with_reducible apply mmuRetire_good
    | with_reducible apply finish_good
    | with_reducible apply foldl_good
    | with_reducible apply foldlT_good
    | with_reducible apply foldlT_fst_good
    | intro _

end Sys2Proof.Machine
end

