-- ==== Sys2Proof/Laws/InvScore.lean ====
section
/-! SUPPORT. Every operation of Machine/Score.lean keeps the invariant and the queue. -/

set_option Elab.async false
set_option linter.unreachableTactic false
set_option linter.unusedTactic false

namespace Sys2Proof.Machine

variable {Q : List Instr}

theorem withRouter_good {l : Layer} {d n : Nat} {io : Io} {w : Where} {go : List Byte → State → State} {s : State} (hgo : ∀ (x0 : List Byte), ∀ u, Good Q u → Good Q (go x0 u)) (hg : Good Q s) : Good Q (withRouter l d n io w go s) := by
  unfold withRouter
  repeat' first
    | with_reducible assumption
    | extract_lets
    | with_reducible apply hgo
    | with_reducible apply xlateRange_good
    | with_reducible apply xlateFault_good
    | with_reducible apply jobIo_good
    | with_reducible apply jobFault_good
    | with_reducible apply spCount_good
    | with_reducible refine pair_good (by assumption) ?_
    | intro _
    | split

theorem unitCount_good  : ∀ (x0 : UnitErr) (x1 : State), Good Q x1 → Good Q (unitCount x0 x1) := by
  intro x0 x1 hg
  unfold unitCount
  repeat' first
    | with_reducible assumption
    | with_reducible apply ctrInc_good
    | with_reducible refine pair_good (by assumption) ?_
    | split

theorem foundOne_good {w : Where} {s : State} {f : Found} (hg : Good Q s) : Good Q (foundOne w s f) := by
  unfold foundOne
  repeat' first
    | with_reducible assumption
    | with_reducible apply unitCount_good
    | with_reducible apply jobFault_good
    | split

theorem foundAll_good {w : Where} {l : List Found} {s : State} (hg : Good Q s) : Good Q (foundAll w l s) := by
  unfold foundAll
  repeat' first
    | with_reducible assumption
    | with_reducible apply foundOne_good
    | with_reducible apply foldl_good
    | with_reducible apply foldlT_good
    | with_reducible apply foldlT_fst_good
    | intro _

end Sys2Proof.Machine
end

