-- ==== Sys2Proof/Laws/InvColl.lean ====
section
/-! SUPPORT. Every operation of Machine/Coll.lean keeps the invariant and the queue. -/

set_option Elab.async false
set_option linter.unreachableTactic false
set_option linter.unusedTactic false

namespace Sys2Proof.Machine

variable {Q : List Instr}

theorem closeTry_good {s : State} (hg : Good Q s) : Good Q (closeTry s) := by
  unfold closeTry
  repeat' first
    | with_reducible assumption
    | with_reducible apply fenceStart_good
    | intro _
    | split

theorem takeStaging_good {pool : Nat} {use : CellUse} : ∀ (n : Nat) (s t : State), Good Q s →
    takeStaging pool use n s = some t → Good Q t := by
  intro n
  induction n with
  | zero => intro s t hg h; cases h; exact hg
  | succ n ih =>
    intro s t hg h
    unfold takeStaging at h
    split at h
    · exact ih _ _ (takeCell_good hg) h
    · cases h

theorem installGroup_good {g : Group} {s t : State} (h : installGroup g s = some t) (hg : Good Q s) : Good Q t := by
  unfold installGroup at h
  extract_lets at h
  split at h
  · cases h
  · rename_i h1
    have h2 := takeStaging_good _ _ _ (freeCells_good hg) h1
    cases h
    exact h2.frame rfl rfl rfl rfl rfl rfl rfl rfl rfl rfl rfl rfl rfl rfl rfl rfl le_rfl rfl rfl le_rfl

theorem startGroupDefine_good {p : Packet} {x : Ext} {order : Nat} {s : State} (hg : Good Q s) : Good Q (startGroupDefine p x order s) := by
  unfold startGroupDefine
  repeat' first
    | with_reducible assumption
    | extract_lets
    | with_reducible refine installGroup_good (by assumption) ?_
    | fail_if_no_progress with_reducible refine Good.mk' ?_
    | with_reducible apply asyncCmd_good
    | with_reducible apply ownRead_good
    | with_reducible apply finish_good
    | with_reducible refine pair_good (by assumption) ?_
    | intro _
    | split

theorem execGroupDefine_good {p : Packet} {io : Io} {s : State} {nx} (hg : Good Q s) (hx : execGroupDefine p io s = .next nx) : Good Q nx := by
  unfold execGroupDefine at hx
  refine live_good hx ?_
  repeat' first
    | with_reducible assumption
    | with_reducible apply takeCmd_good
    | with_reducible apply startGroupDefine_good
    | intro _

theorem opMap_good {o : CollOp} {f : CollOp → CollOp} {s : State} (hg : Good Q s) : Good Q (opMap o f s) := by
  unfold opMap
  repeat' first
    | with_reducible assumption
    | fail_if_no_progress with_reducible refine Good.mk' ?_
    | intro _
    | split

theorem freeSent_good {s : State} (hg : Good Q s) : Good Q (freeSent s) := by
  unfold freeSent
  repeat' first
    | with_reducible assumption
    | with_reducible apply freeCells_good
    | with_reducible refine pair_good (by assumption) ?_
    | intro _
    | split

theorem chunkLeave_good {x : Outgoing} {s : State} (hg : Good Q s) : Good Q (chunkLeave x s) := by
  unfold chunkLeave
  repeat' first
    | with_reducible assumption
    | extract_lets
    | fail_if_no_progress with_reducible refine Good.mk' ?_
    | with_reducible apply sendMsg_good
    | with_reducible apply freeSent_good
    | with_reducible apply dripAt_good
    | with_reducible apply ite_good
    | intro _
    | split
    | dsimp +zetaDelta only

theorem bufFree_good {e : Edge} {s : State} (hg : Good Q s) : Good Q (bufFree e s) := by
  unfold bufFree
  repeat' first
    | with_reducible assumption
    | fail_if_no_progress with_reducible refine Good.mk' ?_

theorem bufPump_good {s : State} (hg : Good Q s) : Good Q (bufPump s) := by
  unfold bufPump
  repeat' first
    | with_reducible assumption
    | extract_lets
    | fail_if_no_progress with_reducible refine Good.mk' ?_
    | with_reducible apply bufFree_good
    | with_reducible apply foldl_good
    | with_reducible apply foldlT_good
    | with_reducible apply foldlT_fst_good
    | intro _

theorem chunkPump_good {s : State} (hg : Good Q s) : Good Q (chunkPump s) := by
  unfold chunkPump
  repeat' first
    | with_reducible assumption
    | fail_if_no_progress with_reducible refine Good.mk' ?_
    | with_reducible apply chunkLeave_good
    | with_reducible apply bufPump_good
    | with_reducible apply foldl_good
    | with_reducible apply foldlT_good
    | with_reducible apply foldlT_fst_good
    | intro _
    | split

theorem chunkSend_good {g : Group} {o : CollOp} {m key level : Nat} {dist : Bool} {vals : List Nat} {wait : Nat} {s : State} (hg : Good Q s) : Good Q (chunkSend g o m key level dist vals wait s) := by
  unfold chunkSend
  repeat' first
    | with_reducible assumption
    | extract_lets
    | fail_if_no_progress with_reducible refine Good.mk' ?_
    | with_reducible apply chunkPump_good
    | with_reducible apply carafeAsk_good
    | with_reducible apply ite_good
    | split

theorem writeElem_good {d : Desc} {i code : Nat} {t : TRun} (hg : Good Q t.s) : Good Q (writeElem d i code t).s := by
  unfold writeElem
  repeat' first
    | with_reducible assumption
    | extract_lets
    | with_reducible apply TRun.write_good

theorem writeBlock_good {o : CollOp} {d : Desc} {row : List Nat} {i0 : Nat} {l : List Nat} {t : TRun} (hg : Good Q t.s) : Good Q (writeBlock o d row i0 l t).s := by
  unfold writeBlock
  repeat' first
    | with_reducible assumption
    | extract_lets
    | fail_if_no_progress with_reducible refine Good.mk' ?_
    | with_reducible apply TRun.write_good
    | with_reducible apply ite_good
    | intro _
    | split
    | dsimp +zetaDelta only

theorem writeTotal_good {o : CollOp} {e c : Nat} {t : TRun} (hg : Good Q t.s) : Good Q (writeTotal o e c t).s := by
  unfold writeTotal
  repeat' first
    | with_reducible assumption
    | extract_lets
    | with_reducible apply writeElem_good
    | with_reducible apply writeBlock_good
    | with_reducible refine pair_good (by assumption) ?_
    | with_reducible apply foldl_good
    | with_reducible apply foldlT_good
    | with_reducible apply foldlT_fst_good
    | intro _
    | split

theorem slowReport_good {o : CollOp} {s : State} (hg : Good Q s) : Good Q (slowReport o s) := by
  unfold slowReport
  repeat' first
    | with_reducible assumption
    | extract_lets
    | fail_if_no_progress with_reducible refine Good.mk' ?_
    | with_reducible apply emit_good
    | with_reducible apply ite_good
    | with_reducible apply foldl_good
    | with_reducible apply foldlT_good
    | with_reducible apply foldlT_fst_good
    | intro _
    | split

theorem opEnd_good {o : CollOp} {status r0 : Nat} {sums : List Nat} {s : State} (hg : Good Q s) : Good Q (opEnd o status r0 sums s) := by
  unfold opEnd
  repeat' first
    | with_reducible assumption
    | extract_lets
    | fail_if_no_progress with_reducible refine Good.mk' ?_
    | with_reducible apply slowReport_good
    | with_reducible apply finish_good
    | with_reducible apply closeTry_good
    | with_reducible apply ite_good
    | with_reducible refine pair_good (by assumption) ?_
    | intro _
    | split
    | dsimp +zetaDelta only

theorem partAdd_good {o : CollOp} {p : CollPart} {s : State} (hg : Good Q s) : Good Q (partAdd o p s) := by
  unfold partAdd
  repeat' first
    | with_reducible assumption
    | fail_if_no_progress with_reducible refine Good.mk' ?_
    | with_reducible apply opMap_good
    | intro _

theorem climb_good {g : Group} {o : CollOp} {m key : Nat} {total : Nat → List Nat → Nat → State → State} (htotal : ∀ (x0 : Nat), ∀ (x1 : List Nat), ∀ (x2 : Nat), ∀ u, Good Q u → Good Q (total x0 x1 x2 u)) : ∀ (x0 : Nat) (x1 : Nat) (x2 : List Nat) (x3 : Nat) (x4 : State), Good Q x4 → Good Q (climb g o m key total x0 x1 x2 x3 x4) := by
  intro x0
  induction x0 with
  | zero =>
    intro x1 x2 x3 x4 hg
    unfold climb
    repeat' first
      | with_reducible assumption
      | extract_lets
      | with_reducible apply htotal
      | with_reducible apply partAdd_good
      | with_reducible apply chunkSend_good
      | split
  | succ n ih =>
    intro x1 x2 x3 x4 hg
    unfold climb
    repeat' first
      | with_reducible assumption
      | extract_lets
      | with_reducible apply ih
      | with_reducible apply htotal
      | with_reducible apply partAdd_good
      | with_reducible apply chunkSend_good
      | split

theorem forwardTotal_good {g : Group} {o : CollOp} {m key from_ : Nat} {vals : List Nat} {wait : Nat} {s : State} (hg : Good Q s) : Good Q (forwardTotal g o m key from_ vals wait s) := by
  unfold forwardTotal
  repeat' first
    | with_reducible assumption
    | with_reducible apply chunkSend_good
    | with_reducible apply foldl_good
    | with_reducible apply foldlT_good
    | with_reducible apply foldlT_fst_good
    | intro _
    | split

theorem dataTotal_good {g : Group} {o : CollOp} {m key from_ : Nat} {vals : List Nat} {wait : Nat} {s : State} (hg : Good Q s) : Good Q (dataTotal g o m key from_ vals wait s) := by
  unfold dataTotal
  repeat' first
    | with_reducible assumption
    | extract_lets
    | with_reducible apply partAdd_good
    | with_reducible apply forwardTotal_good
    | with_reducible apply writeTotal_good
    | with_reducible apply TRun.start_good
    | with_reducible apply xlateFault_good
    | with_reducible refine pair_good (by assumption) ?_
    | split

theorem startData_good {g : Group} {o : CollOp} {m n : Nat} {s : State} (hg : Good Q s) : Good Q (startData g o m n s) := by
  unfold startData
  repeat' first
    | with_reducible assumption
    | extract_lets
    | fail_if_no_progress with_reducible refine Good.mk' ?_
    | with_reducible apply opMap_good
    | with_reducible apply climb_good
    | with_reducible apply dataTotal_good
    | with_reducible apply foldl_good
    | with_reducible apply foldlT_good
    | with_reducible apply foldlT_fst_good
    | intro _
    | split

theorem agreeLength_good {g : Group} {o : CollOp} {m n : Nat} {s : State} (hg : Good Q s) : Good Q (agreeLength g o m n s) := by
  unfold agreeLength
  repeat' first
    | with_reducible assumption
    | with_reducible apply opEnd_good
    | with_reducible apply startData_good
    | split

theorem lengthTotal_good {g : Group} {o : CollOp} {m from_ : Nat} {vals : List Nat} {wait : Nat} {s : State} (hg : Good Q s) : Good Q (lengthTotal g o m from_ vals wait s) := by
  unfold lengthTotal
  repeat' first
    | with_reducible assumption
    | extract_lets
    | with_reducible apply forwardTotal_good
    | with_reducible apply partAdd_good
    | with_reducible apply agreeLength_good
    | split

theorem totalStep_good {g : Group} {o : CollOp} {m key : Nat} : ∀ (x0 : Nat) (x1 : List Nat) (x2 : Nat) (x3 : State), Good Q x3 → Good Q (totalStep g o m key x0 x1 x2 x3) := by
  intro x0
  induction x0 with
  | zero =>
    intro x1 x2 x3 hg
    unfold totalStep
    repeat' first
      | with_reducible assumption
      | with_reducible apply lengthTotal_good
      | with_reducible apply dataTotal_good
      | split
  | succ n ih =>
    intro x1 x2 x3 hg
    unfold totalStep
    repeat' first
      | with_reducible assumption
      | with_reducible apply ih
      | with_reducible apply lengthTotal_good
      | with_reducible apply dataTotal_good
      | split

theorem collFault_good {h : CollHdr} {s : State} (hg : Good Q s) : Good Q (collFault h s) := by
  unfold collFault
  repeat' first
    | with_reducible assumption
    | with_reducible apply jobFault_good

theorem bufDone_good {h : CollHdr} {num : Nat} {s : State} (hg : Good Q s) : Good Q (bufDone h num s) := by
  unfold bufDone
  repeat' first
    | with_reducible assumption
    | fail_if_no_progress with_reducible refine Good.mk' ?_
    | with_reducible apply bufPump_good

theorem chunkTake_good {x : Staged} {s : State} (hg : Good Q s) : Good Q (chunkTake x s) := by
  unfold chunkTake
  repeat' first
    | with_reducible assumption
    | extract_lets
    | fail_if_no_progress with_reducible refine Good.mk' ?_
    | with_reducible apply collFault_good
    | with_reducible apply jobFault_good
    | with_reducible apply opMap_good
    | with_reducible apply bufDone_good
    | with_reducible apply totalStep_good
    | with_reducible apply climb_good
    | with_reducible apply chunkSend_good
    | with_reducible apply ite_good
    | with_reducible refine pair_good (by assumption) ?_
    | intro _
    | split

theorem collDrain_good  : ∀ (x0 : Nat) (x1 : State), Good Q x1 → Good Q (collDrain x0 x1) := by
  intro x0
  induction x0 with
  | zero =>
    intro x1 hg
    unfold collDrain
    repeat' first
      | with_reducible assumption
      | with_reducible apply chunkTake_good
      | with_reducible refine pair_good (by assumption) ?_
      | split
  | succ n ih =>
    intro x1 hg
    unfold collDrain
    repeat' first
      | with_reducible assumption
      | with_reducible apply ih
      | with_reducible apply chunkTake_good
      | with_reducible refine pair_good (by assumption) ?_
      | split

theorem collRun_good {s : State} (hg : Good Q s) : Good Q (collRun s) := by
  unfold collRun
  repeat' first
    | with_reducible assumption
    | with_reducible apply collDrain_good

theorem execCarafeGrant_good {s : State} {nx} (hg : Good Q s) (hx : execCarafeGrant s = .next nx) : Good Q nx := by
  unfold execCarafeGrant at hx
  refine live_good hx ?_
  repeat' first
    | with_reducible assumption
    | extract_lets
    | fail_if_no_progress with_reducible refine Good.mk' ?_
    | with_reducible apply chunkPump_good
    | with_reducible apply pfcCheck_good
    | with_reducible apply ctrAdd_good
    | with_reducible apply takeCell_good
    | with_reducible refine pair_good (by assumption) ?_
    | intro _
    | split

theorem readOwn_good {o : CollOp} {t : TRun} (hg : Good Q t.s) : Good Q (readOwn o t).1.s := by
  unfold readOwn
  repeat' first
    | with_reducible assumption
    | extract_lets
    | with_reducible apply elemRead_good
    | with_reducible apply foldl_good
    | with_reducible apply foldl_fst_good
    | with_reducible apply foldlT_good
    | with_reducible apply foldlT_fst_good
    | intro _
    | split

theorem opGo_good {g : Group} {o : CollOp} {own : List Nat} {n : Nat} {s : State} (hg : Good Q s) : Good Q (opGo g o own n s) := by
  unfold opGo
  repeat' first
    | with_reducible assumption
    | extract_lets
    | fail_if_no_progress with_reducible refine Good.mk' ?_
    | with_reducible apply opMap_good
    | with_reducible apply climb_good
    | with_reducible apply lengthTotal_good
    | with_reducible apply agreeLength_good
    | with_reducible apply collRun_good
    | with_reducible apply ite_good
    | with_reducible refine pair_good (by assumption) ?_
    | intro _
    | split

theorem opStart_good {o : CollOp} {s : State} (hg : Good Q s) : Good Q (opStart o s) := by
  unfold opStart
  repeat' first
    | with_reducible assumption
    | extract_lets
    | with_reducible apply opGo_good
    | with_reducible apply opEnd_good
    | with_reducible apply readOwn_good
    | with_reducible apply TRun.start_good
    | with_reducible apply xlateFault_good
    | with_reducible apply jobIo_good
    | with_reducible refine pair_good (by assumption) ?_
    | split

theorem opPost_good {o : CollOp} {s : State} (hg : Good Q s) : Good Q (opPost o s) := by
  unfold opPost
  repeat' first
    | with_reducible assumption
    | extract_lets
    | fail_if_no_progress with_reducible refine Good.mk' ?_
    | with_reducible apply opStart_good
    | split

theorem collBegin_good {p : Packet} {io : Io} {c : OpenCmd} {s : State} (hg : Good Q s) : Good Q (collBegin p io c s) := by
  unfold collBegin
  repeat' first
    | with_reducible assumption
    | extract_lets
    | fail_if_no_progress with_reducible refine Good.mk' ?_
    | with_reducible apply finish_good
    | with_reducible apply opPost_good
    | with_reducible refine pair_good (by assumption) ?_
    | intro _
    | split

theorem startCollPost_good {p : Packet} {x : Ext} {order : Nat} {s : State} (hg : Good Q s) : Good Q (startCollPost p x order s) := by
  unfold startCollPost
  repeat' first
    | with_reducible assumption
    | extract_lets
    | exact (by assumption : true = true → _) rfl
    | fail_if_no_progress with_reducible refine Good.mk' ?_
    | with_reducible apply checked_good
    | with_reducible apply accept_good
    | with_reducible apply holdCmd_good
    | with_reducible apply collBegin_good
    | intro _
    | split

theorem execCollPost_good {p : Packet} {io : Io} {s : State} {nx} (hg : Good Q s) (hx : execCollPost p io s = .next nx) : Good Q nx := by
  unfold execCollPost at hx
  refine live_good hx ?_
  repeat' first
    | with_reducible assumption
    | with_reducible apply takeCmd_good
    | with_reducible apply startCollPost_good
    | intro _

theorem execCollOperationStart_good {group : Nat} {loopQ : Bool} {s : State} {nx} (hg : Good Q s) (hx : execCollOperationStart group loopQ s = .next nx) : Good Q nx := by
  unfold execCollOperationStart at hx
  refine live_good hx ?_
  repeat' first
    | with_reducible assumption
    | with_reducible apply opStart_good
    | with_reducible refine pair_good (by assumption) ?_
    | intro _
    | split

theorem execCollChunkReceive_good {h : CollHdr} {data : List Byte} {adderBad : Bool} {s : State} {nx} (hg : Good Q s) (hx : execCollChunkReceive h data adderBad s = .next nx) : Good Q nx := by
  unfold execCollChunkReceive at hx
  refine live_good hx ?_
  repeat' first
    | with_reducible assumption
    | fail_if_no_progress with_reducible refine Good.mk' ?_
    | with_reducible apply collFault_good
    | with_reducible apply collRun_good
    | with_reducible refine pair_good (by assumption) ?_
    | intro _
    | split

theorem execCollCreditReceive_good {e : Edge} {count : Nat} {s : State} {nx} (hg : Good Q s) (hx : execCollCreditReceive e count s = .next nx) : Good Q nx := by
  unfold execCollCreditReceive at hx
  refine live_good hx ?_
  repeat' first
    | with_reducible assumption
    | extract_lets
    | fail_if_no_progress with_reducible refine Good.mk' ?_
    | with_reducible apply inboxTake_good
    | with_reducible apply chunkPump_good
    | intro _
    | split

theorem execCreditCoalesceExpiry_good {e : Edge} {s : State} {nx} (hg : Good Q s) (hx : execCreditCoalesceExpiry e s = .next nx) : Good Q nx := by
  unfold execCreditCoalesceExpiry at hx
  refine live_good hx ?_
  repeat' first
    | with_reducible assumption
    | extract_lets
    | fail_if_no_progress with_reducible refine Good.mk' ?_
    | with_reducible apply sendNotice_good
    | with_reducible refine pair_good (by assumption) ?_
    | intro _
    | split

theorem execCollTimeout_good {group : Nat} {loopQ : Bool} {s : State} {nx} (hg : Good Q s) (hx : execCollTimeout group loopQ s = .next nx) : Good Q nx := by
  unfold execCollTimeout at hx
  refine live_good hx ?_
  repeat' first
    | with_reducible assumption
    | extract_lets
    | with_reducible apply jobFault_good
    | with_reducible refine pair_good (by assumption) ?_
    | intro _
    | split

theorem totalWrites_good {o : CollOp} {e chunks : Nat} {s : State} (hg : Good Q s) : Good Q (totalWrites o e chunks s).s := by
  unfold totalWrites
  repeat' first
    | with_reducible assumption
    | with_reducible apply TRun.start_good
    | with_reducible apply writeTotal_good
    | with_reducible apply foldl_good
    | with_reducible apply foldlT_good
    | with_reducible apply foldlT_fst_good
    | intro _
    | split

theorem execCollOperationComplete_good {group : Nat} {loopQ : Bool} {io : Io} {s : State} {nx} (hg : Good Q s) (hx : execCollOperationComplete group loopQ io s = .next nx) : Good Q nx := by
  unfold execCollOperationComplete at hx
  refine live_good hx ?_
  repeat' first
    | with_reducible assumption
    | extract_lets
    | with_reducible apply totalWrites_good
    | with_reducible apply jobIo_good
    | with_reducible apply opEnd_good
    | with_reducible apply settleTwice_good
    | with_reducible refine pair_good (by assumption) ?_
    | intro _
    | split

theorem postLoop_good {x : BiasWin} {g : Nat} {s : State} (hg : Good Q s) : Good Q (postLoop x g s) := by
  unfold postLoop
  repeat' first
    | with_reducible assumption
    | extract_lets
    | with_reducible apply opPost_good
    | intro _

theorem execLoopSumPost_good {window : Nat} {s : State} {nx} (hg : Good Q s) (hx : execLoopSumPost window s = .next nx) : Good Q nx := by
  unfold execLoopSumPost at hx
  refine live_good hx ?_
  repeat' first
    | with_reducible assumption
    | extract_lets
    | fail_if_no_progress with_reducible refine Good.mk' ?_
    | with_reducible apply postLoop_good
    | with_reducible apply winMap_good
    | with_reducible refine pair_good (by assumption) ?_
    | with_reducible apply foldl_good
    | with_reducible apply foldlT_good
    | with_reducible apply foldlT_fst_good
    | intro _
    | split

theorem collAbort_good {s : State} (hg : Good Q s) : Good Q (collAbort s) := by
  unfold collAbort
  repeat' first
    | with_reducible assumption
    | extract_lets
    | fail_if_no_progress with_reducible refine Good.mk' ?_
    | with_reducible apply opEnd_good
    | with_reducible apply freeCells_good
    | with_reducible refine pair_good (by assumption) ?_
    | with_reducible apply foldl_good
    | with_reducible apply foldlT_good
    | with_reducible apply foldlT_fst_good
    | intro _
    | split

end Sys2Proof.Machine
end

