-- ==== Sys2Proof/Laws/InvExchange.lean ====
section
/-! SUPPORT. Every operation of Machine/Exchange.lean keeps the invariant and the queue. -/

set_option Elab.async false
set_option linter.unreachableTactic false
set_option linter.unusedTactic false

namespace Sys2Proof.Machine

variable {Q : List Instr}

theorem dutyMap_good {step : Nat} {f : Duty → Duty} {s : State} (hg : Good Q s) : Good Q (dutyMap step f s) := by
  unfold dutyMap
  repeat' first
    | with_reducible assumption
    | fail_if_no_progress with_reducible refine Good.mk' ?_
    | intro _
    | split

theorem dutySettle_good {s : State} (hg : Good Q s) : Good Q (dutySettle s) := by
  unfold dutySettle
  repeat' first
    | with_reducible assumption
    | extract_lets
    | fail_if_no_progress with_reducible refine Good.mk' ?_
    | with_reducible apply vaultSettle_good
    | with_reducible apply dutyMap_good
    | with_reducible refine pair_good (by assumption) ?_
    | with_reducible apply foldl_good
    | with_reducible apply foldlT_good
    | with_reducible apply foldlT_fst_good
    | intro _
    | split

theorem dutyTidy_good {s : State} (hg : Good Q s) : Good Q (dutyTidy s) := by
  unfold dutyTidy
  repeat' first
    | with_reducible assumption
    | extract_lets
    | fail_if_no_progress with_reducible refine Good.mk' ?_
    | with_reducible apply dutySettle_good
    | intro _

theorem countCheck_good {d : Duty} {m : CountMsg} {s : State} (hg : Good Q s) : Good Q (countCheck d m s) := by
  unfold countCheck
  repeat' first
    | with_reducible assumption
    | with_reducible apply jobFault_good
    | split

theorem execCountMessageReceive_good {hinge : Nat} {m : CountMsg} {s : State} {nx} (hg : Good Q s) (hx : execCountMessageReceive hinge m s = .next nx) : Good Q nx := by
  unfold execCountMessageReceive at hx
  refine live_good hx ?_
  repeat' first
    | with_reducible assumption
    | extract_lets
    | fail_if_no_progress with_reducible refine Good.mk' ?_
    | with_reducible apply inboxTake_good
    | with_reducible apply dutyMap_good
    | with_reducible apply countCheck_good
    | with_reducible apply carafeAsk_good
    | intro _
    | split

theorem execCountExchangeTimeout_good {step : Nat} {s : State} {nx} (hg : Good Q s) (hx : execCountExchangeTimeout step s = .next nx) : Good Q nx := by
  unfold execCountExchangeTimeout at hx
  refine live_good hx ?_
  repeat' first
    | with_reducible assumption
    | with_reducible apply jobFault_good
    | with_reducible refine pair_good (by assumption) ?_
    | intro _
    | split

theorem dutyReach_good {i : Nat} {s : State} (hg : Good Q s) : Good Q (dutyReach i s) := by
  unfold dutyReach
  repeat' first
    | with_reducible assumption
    | extract_lets
    | fail_if_no_progress with_reducible refine Good.mk' ?_
    | with_reducible apply dutyMap_good
    | with_reducible apply freeCells_good
    | with_reducible apply countCheck_good
    | with_reducible refine pair_good (by assumption) ?_
    | with_reducible apply foldl_good
    | with_reducible apply foldlT_good
    | with_reducible apply foldlT_fst_good
    | intro _
    | split

theorem sendCounts_good {i : Nat} {cancelled : Bool} {s : State} (hg : Good Q s) : Good Q (sendCounts i cancelled s) := by
  unfold sendCounts
  repeat' first
    | with_reducible assumption
    | extract_lets
    | fail_if_no_progress with_reducible refine Good.mk' ?_
    | with_reducible apply sendNotice_good
    | with_reducible apply ctxMap_good
    | with_reducible refine pair_good (by assumption) ?_
    | with_reducible apply foldl_good
    | with_reducible apply foldlT_good
    | with_reducible apply foldlT_fst_good
    | intro _
    | split

theorem spoutPut_good {k : SpoutPkt} {s : State} (hg : Good Q s) : Good Q (spoutPut k s) := by
  unfold spoutPut
  repeat' first
    | with_reducible assumption
    | fail_if_no_progress with_reducible refine Good.mk' ?_
    | with_reducible apply ctrAdd_good

theorem listPut_good {d : Duty} {localSlot cls : Nat} {l : List WorkEntry} {s : State} (hg : Good Q s) : Good Q (listPut d localSlot cls l s) := by
  unfold listPut
  repeat' first
    | with_reducible assumption
    | with_reducible apply spoutPut_good
    | with_reducible apply foldl_good
    | with_reducible apply foldlT_good
    | with_reducible apply foldlT_fst_good
    | intro _

theorem tilesPut_good {slot : Nat} {c : StepCtx} {localSlot : Nat} {l : List Copy} {s : State} (hg : Good Q s) : Good Q (tilesPut slot c localSlot l s) := by
  unfold tilesPut
  repeat' first
    | with_reducible assumption
    | extract_lets
    | with_reducible apply spoutPut_good
    | with_reducible apply foldl_good
    | with_reducible apply foldlT_good
    | with_reducible apply foldlT_fst_good
    | intro _

theorem emitList_good {step localSlot : Nat} {s : State} (hg : Good Q s) : Good Q (emitList step localSlot s) := by
  unfold emitList
  repeat' first
    | with_reducible assumption
    | extract_lets
    | fail_if_no_progress with_reducible refine Good.mk' ?_
    | with_reducible apply dutyMap_good
    | with_reducible apply dutyTidy_good
    | with_reducible apply listPut_good
    | with_reducible apply ite_good
    | with_reducible refine pair_good (by assumption) ?_
    | with_reducible apply foldl_good
    | with_reducible apply foldl_fst_good
    | with_reducible apply foldlT_good
    | with_reducible apply foldlT_fst_good
    | intro _
    | split

theorem execWorkListEmit_good {step localSlot : Nat} {s : State} {nx} (hg : Good Q s) (hx : execWorkListEmit step localSlot s = .next nx) : Good Q nx := by
  unfold execWorkListEmit at hx
  refine live_good hx ?_
  repeat' first
    | with_reducible assumption
    | with_reducible apply emitList_good
    | intro _
    | split

theorem copyMap_good {i token rank : Nat} {f : Copy → Copy} {s : State} (hg : Good Q s) : Good Q (copyMap i token rank f s) := by
  unfold copyMap
  repeat' first
    | with_reducible assumption
    | fail_if_no_progress with_reducible refine Good.mk' ?_
    | with_reducible apply ctxMap_good
    | intro _

theorem sendCopy_good {i : Nat} {c : StepCtx} {x : Copy} {s : State} (hg : Good Q s) : Good Q (sendCopy i c x s) := by
  unfold sendCopy
  repeat' first
    | with_reducible assumption
    | extract_lets
    | fail_if_no_progress with_reducible refine Good.mk' ?_
    | with_reducible apply jobFault_good
    | with_reducible apply sendMsg_good
    | with_reducible apply ctxCount_good
    | with_reducible apply copyMap_good
    | intro _
    | split

theorem sendCopies_good {i : Nat} {c : StepCtx} : ∀ (x0 : List Copy) (x1 : State), Good Q x1 → Good Q (sendCopies i c x0 x1) := by
  intro x0
  induction x0 with
  | nil =>
    intro x1 hg
    unfold sendCopies
    repeat' first
      | with_reducible assumption
      | with_reducible apply sendCopy_good
      | split
  | cons x r ih =>
    intro x1 hg
    unfold sendCopies
    repeat' first
      | with_reducible assumption
      | with_reducible apply ih
      | with_reducible apply sendCopy_good
      | split

theorem tilesAcked_good {i : Nat} {s : State} (hg : Good Q s) : Good Q (tilesAcked i s) := by
  unfold tilesAcked
  repeat' first
    | with_reducible assumption
    | fail_if_no_progress with_reducible refine Good.mk' ?_
    | with_reducible apply releaseUse_good
    | with_reducible apply copyMap_good
    | with_reducible refine pair_good (by assumption) ?_
    | with_reducible apply foldl_good
    | with_reducible apply foldlT_good
    | with_reducible apply foldlT_fst_good
    | intro _
    | split

theorem dispatchPump_good {i : Nat} {s : State} (hg : Good Q s) : Good Q (dispatchPump i s) := by
  unfold dispatchPump
  repeat' first
    | with_reducible assumption
    | with_reducible apply tilesAcked_good
    | with_reducible apply sendCopies_good
    | with_reducible refine pair_good (by assumption) ?_
    | intro _
    | split

theorem ackedTiles_good {s : State} (hg : Good Q s) : Good Q (ackedTiles s) := by
  unfold ackedTiles
  repeat' first
    | with_reducible assumption
    | fail_if_no_progress with_reducible refine Good.mk' ?_
    | with_reducible apply releaseUse_good
    | with_reducible apply foldl_good
    | with_reducible apply foldlT_good
    | with_reducible apply foldlT_fst_good
    | intro _
    | split

theorem exchangeAcked_good {s : State} (hg : Good Q s) : Good Q (exchangeAcked s) := by
  unfold exchangeAcked
  repeat' first
    | with_reducible assumption
    | with_reducible apply dutyTidy_good
    | with_reducible apply dispatchPump_good
    | with_reducible apply tilesAcked_good
    | with_reducible apply ackedTiles_good
    | with_reducible apply foldl_good
    | with_reducible apply foldlT_good
    | with_reducible apply foldlT_fst_good
    | intro _

theorem emitLocal_good {i : Nat} {c : StepCtx} {s : State} {x : Nat × Nat} (hg : Good Q s) : Good Q (emitLocal i c s x) := by
  unfold emitLocal
  repeat' first
    | with_reducible assumption
    | extract_lets
    | fail_if_no_progress with_reducible refine Good.mk' ?_
    | with_reducible apply dutyMap_good
    | with_reducible apply tilesPut_good
    | with_reducible apply listPut_good
    | with_reducible apply ite_good
    | with_reducible refine pair_good (by assumption) ?_
    | with_reducible apply foldl_good
    | with_reducible apply foldlT_good
    | with_reducible apply foldlT_fst_good
    | intro _
    | split

theorem execDispatchStart_good {slot : Nat} {s : State} {nx} (hg : Good Q s) (hx : execDispatchStart slot s = .next nx) : Good Q nx := by
  unfold execDispatchStart at hx
  refine live_good hx ?_
  repeat' first
    | with_reducible assumption
    | extract_lets
    | fail_if_no_progress with_reducible refine Good.mk' ?_
    | with_reducible apply scored_good
    | with_reducible apply dripStageAll_good
    | with_reducible apply slotMove_good
    | with_reducible apply setSlot_good
    | with_reducible apply emitLocal_good
    | with_reducible apply dutyTidy_good
    | with_reducible apply dispatchPump_good
    | with_reducible refine pair_good (by assumption) ?_
    | with_reducible apply foldl_good
    | with_reducible apply foldlT_good
    | with_reducible apply foldlT_fst_good
    | intro _
    | split

theorem toAwaiting_good {i : Nat} {s : State} (hg : Good Q s) : Good Q (toAwaiting i s) := by
  unfold toAwaiting
  repeat' first
    | with_reducible assumption
    | extract_lets
    | fail_if_no_progress with_reducible refine Good.mk' ?_
    | with_reducible apply dripStageAll_good
    | with_reducible apply slotMove_good
    | with_reducible apply setSlot_good
    | with_reducible refine pair_good (by assumption) ?_
    | split

theorem execDispatchAcked_good {slot : Nat} {s : State} {nx} (hg : Good Q s) (hx : execDispatchAcked slot s = .next nx) : Good Q nx := by
  unfold execDispatchAcked at hx
  refine live_good hx ?_
  repeat' first
    | with_reducible assumption
    | with_reducible apply toAwaiting_good
    | with_reducible refine pair_good (by assumption) ?_
    | intro _
    | split

theorem listLeft_good {s : State} {k : SpoutPkt} (hg : Good Q s) : Good Q (listLeft s k) := by
  unfold listLeft
  repeat' first
    | with_reducible assumption
    | extract_lets
    | fail_if_no_progress with_reducible refine Good.mk' ?_
    | with_reducible apply ctxCount_good
    | with_reducible refine pair_good (by assumption) ?_
    | split

theorem spoutTake_good {slot step token rank : Nat} {s t : State} (h : spoutTake slot step token rank s = some t) (hg : Good Q s) :
    Good Q t := by
  unfold spoutTake at h
  extract_lets at h
  split at h
  · cases h
  · extract_lets at h
    split at h
    · cases h
    · cases h
      exact foldl_good (Good.mk' hg) fun _ _ hu => listLeft_good hu

theorem execSpoutLocalCopySent_good {slot token rank : Nat} {s : State} {nx} (hg : Good Q s) (hx : execSpoutLocalCopySent slot token rank s = .next nx) : Good Q nx := by
  unfold execSpoutLocalCopySent at hx
  refine live_good hx ?_
  repeat' first
    | with_reducible assumption
    | extract_lets
    | with_reducible refine spoutTake_good (by assumption) ?_
    | fail_if_no_progress with_reducible refine Good.mk' ?_
    | with_reducible apply dutyMap_good
    | with_reducible apply releaseUse_good
    | with_reducible apply ctxCount_good
    | with_reducible apply copyMap_good
    | with_reducible apply ite_good
    | with_reducible refine pair_good (by assumption) ?_
    | intro _
    | split
    | dsimp +zetaDelta only

theorem landCount_good {step seat n : Nat} {s : State} (hg : Good Q s) : Good Q (landCount step seat n s) := by
  unfold landCount
  repeat' first
    | with_reducible assumption
    | extract_lets
    | fail_if_no_progress with_reducible refine Good.mk' ?_
    | with_reducible apply vaultSettle_good
    | with_reducible apply dutyMap_good
    | with_reducible refine pair_good (by assumption) ?_
    | intro _
    | split

theorem execCopyLanded_good {hinge : Nat} {h : TileHdr} {slotIndex : Nat} {s : State} {nx} (hg : Good Q s) (hx : execCopyLanded hinge h slotIndex s = .next nx) : Good Q nx := by
  unfold execCopyLanded at hx
  refine live_good hx ?_
  repeat' first
    | with_reducible assumption
    | extract_lets
    | fail_if_no_progress with_reducible refine Good.mk' ?_
    | with_reducible apply hostWrite_good
    | with_reducible apply xlateFault_good
    | with_reducible apply dutyMap_good
    | with_reducible apply landCount_good
    | with_reducible apply jobFault_good
    | with_reducible refine pair_good (by assumption) ?_
    | intro _
    | split

theorem slotRead_good {va n : Nat} {io : Io} {w : Where} {go : List Byte → State → State} {s : State} (hgo : ∀ (x0 : List Byte), ∀ u, Good Q u → Good Q (go x0 u)) (hg : Good Q s) : Good Q (slotRead va n io w go s) := by
  unfold slotRead
  repeat' first
    | with_reducible assumption
    | with_reducible apply hgo
    | with_reducible apply xlateRange_good
    | with_reducible apply xlateFault_good
    | with_reducible apply jobIo_good
    | with_reducible refine pair_good (by assumption) ?_
    | intro _
    | split

theorem sendAnswer_good {h : TileHdr} {idx : Nat} {b : List Byte} {s : State} (hg : Good Q s) : Good Q (sendAnswer h idx b s) := by
  unfold sendAnswer
  repeat' first
    | with_reducible assumption
    | extract_lets
    | fail_if_no_progress with_reducible refine Good.mk' ?_
    | with_reducible apply sendMsg_good
    | with_reducible apply dutyMap_good
    | intro _

theorem receiveEntry_good {funnel : Nat} {s : State} {e : Nat × Io} (hg : Good Q s) : Good Q (receiveEntry funnel s e) := by
  unfold receiveEntry
  repeat' first
    | with_reducible assumption
    | extract_lets
    | fail_if_no_progress with_reducible refine Good.mk' ?_
    | with_reducible apply hostRead_good
    | with_reducible apply xlateFault_good
    | with_reducible apply slotRead_good
    | with_reducible apply jobFault_good
    | with_reducible apply ctrInc_good
    | with_reducible apply dutyMap_good
    | with_reducible apply sendAnswer_good
    | with_reducible apply ite_good
    | with_reducible refine pair_good (by assumption) ?_
    | intro _
    | split

theorem receiveEntries_good {funnel : Nat} {io : Io} {l : List Nat} {s : State} (hg : Good Q s) :
    Good Q (receiveEntries funnel io l s) := by
  induction l generalizing io s with
  | nil => exact hg
  | cons x r ih =>
    unfold receiveEntries
    exact ih (receiveEntry_good hg)

theorem funnelSeen_good {kind : Nat} {f : FunnelPkt} {s : State} (hg : Good Q s) : Good Q (funnelSeen kind f s) := by
  unfold funnelSeen
  repeat' first
    | with_reducible assumption
    | with_reducible apply ctrAdd_good
    | with_reducible apply recOriginal_good

theorem funnelTake_good {kind : Nat} {f : FunnelPkt} {go : State → State} {s : State} (hgo : ∀ u, Good Q u → Good Q (go u)) (hg : Good Q s) : Good Q (funnelTake kind f go s) := by
  unfold funnelTake
  repeat' first
    | with_reducible assumption
    | extract_lets
    | with_reducible apply hgo
    | with_reducible apply funnelSeen_good
    | with_reducible apply ctrInc_good
    | with_reducible refine pair_good (by assumption) ?_
    | split

theorem execAnswerReadyReceive_good {f : FunnelPkt} {io : Io} {s : State} {nx} (hg : Good Q s) (hx : execAnswerReadyReceive f io s = .next nx) : Good Q nx := by
  unfold execAnswerReadyReceive at hx
  refine live_good hx ?_
  repeat' first
    | with_reducible assumption
    | with_reducible apply funnelTake_good
    | with_reducible apply dutyTidy_good
    | with_reducible apply receiveEntries_good
    | intro _

theorem answerAct_good {unit slot gen step t j : Nat} {write : State → State} {s : State} (hwrite : ∀ u, Good Q u → Good Q (write u)) (hg : Good Q s) : Good Q (answerAct unit slot gen step t j write s) := by
  unfold answerAct
  repeat' first
    | with_reducible assumption
    | fail_if_no_progress with_reducible refine Good.mk' ?_
    | with_reducible apply hwrite
    | with_reducible apply ctrInc_good
    | with_reducible apply jobFault_good
    | with_reducible apply copyMap_good
    | with_reducible refine pair_good (by assumption) ?_
    | intro _
    | split

theorem execAnswerReceive_good {hinge : Nat} {h : TileHdr} {data : List Byte} {s : State} {nx} (hg : Good Q s) (hx : execAnswerReceive hinge h data s = .next nx) : Good Q nx := by
  unfold execAnswerReceive at hx
  refine live_good hx ?_
  repeat' first
    | with_reducible assumption
    | extract_lets
    | fail_if_no_progress with_reducible refine Good.mk' ?_
    | with_reducible apply ctxCount_good
    | with_reducible apply answerAct_good
    | with_reducible apply hostWrite_good
    | with_reducible apply xlateFault_good
    | with_reducible apply ite_good
    | with_reducible refine pair_good (by assumption) ?_
    | intro _
    | split
    | dsimp +zetaDelta only

theorem returnEntry_good {f : FunnelPkt} {s : State} {idx : Nat} (hg : Good Q s) : Good Q (returnEntry f s idx) := by
  unfold returnEntry
  repeat' first
    | with_reducible assumption
    | extract_lets
    | fail_if_no_progress with_reducible refine Good.mk' ?_
    | with_reducible apply jobFault_good
    | with_reducible apply answerAct_good
    | intro _
    | split

theorem execAnswerReadyReturn_good {f : FunnelPkt} {s : State} {nx} (hg : Good Q s) (hx : execAnswerReadyReturn f s = .next nx) : Good Q nx := by
  unfold execAnswerReadyReturn at hx
  refine live_good hx ?_
  repeat' first
    | with_reducible assumption
    | with_reducible apply funnelTake_good
    | with_reducible apply dutyTidy_good
    | with_reducible apply returnEntry_good
    | with_reducible apply foldl_good
    | with_reducible apply foldlT_good
    | with_reducible apply foldlT_fst_good
    | intro _

theorem execCancelNoticeReceive_good {hinge : Nat} {m : CancelMsg} {s : State} {nx} (hg : Good Q s) (hx : execCancelNoticeReceive hinge m s = .next nx) : Good Q nx := by
  unfold execCancelNoticeReceive at hx
  refine live_good hx ?_
  repeat' first
    | with_reducible assumption
    | extract_lets
    | fail_if_no_progress with_reducible refine Good.mk' ?_
    | with_reducible apply inboxTake_good
    | with_reducible apply dutyMap_good
    | with_reducible apply carafeAsk_good
    | intro _
    | split

theorem execCancelAckSend_good {src step : Nat} {s : State} {nx} (hg : Good Q s) (hx : execCancelAckSend src step s = .next nx) : Good Q nx := by
  unfold execCancelAckSend at hx
  refine live_good hx ?_
  repeat' first
    | with_reducible assumption
    | extract_lets
    | fail_if_no_progress with_reducible refine Good.mk' ?_
    | with_reducible apply sendNotice_good
    | with_reducible apply dutyMap_good
    | with_reducible apply vaultSettle_good
    | with_reducible refine pair_good (by assumption) ?_
    | intro _
    | split

theorem execCancelAckReceive_good {m : CancelMsg} {s : State} {nx} (hg : Good Q s) (hx : execCancelAckReceive m s = .next nx) : Good Q nx := by
  unfold execCancelAckReceive at hx
  refine live_good hx ?_
  repeat' first
    | with_reducible assumption
    | extract_lets
    | fail_if_no_progress with_reducible refine Good.mk' ?_
    | with_reducible apply inboxTake_good
    | with_reducible apply ctxMap_good
    | with_reducible apply ite_good
    | with_reducible refine pair_good (by assumption) ?_
    | intro _
    | split

theorem dropTiles_good {i : Nat} {c : StepCtx} {dispatched : Bool} {s : State} (hg : Good Q s) : Good Q (dropTiles i c dispatched s) := by
  unfold dropTiles
  repeat' first
    | with_reducible assumption
    | extract_lets
    | with_reducible apply freeCells_good
    | with_reducible apply releaseUse_good
    | with_reducible refine pair_good (by assumption) ?_
    | with_reducible apply foldl_good
    | with_reducible apply foldlT_good
    | with_reducible apply foldlT_fst_good
    | intro _
    | split

theorem spoutDrop_good {i step : Nat} {s : State} (hg : Good Q s) : Good Q (spoutDrop i step s) := by
  unfold spoutDrop
  repeat' first
    | with_reducible assumption
    | extract_lets
    | fail_if_no_progress with_reducible refine Good.mk' ?_
    | intro _
    | split

theorem dropRows_good {i step : Nat} {s : State} (hg : Good Q s) : Good Q (dropRows i step s) := by
  unfold dropRows
  repeat' first
    | with_reducible assumption
    | with_reducible apply freeCells_good
    | with_reducible refine pair_good (by assumption) ?_
    | intro _
    | split

theorem cancelStep_good {i : Nat} {cmd : Option OpenCmd} {scrub : Nat → State → State} {s : State} (hscrub : ∀ (x0 : Nat), ∀ u, Good Q u → Good Q (scrub x0 u)) (hg : Good Q s) : Good Q (cancelStep i cmd scrub s) := by
  unfold cancelStep
  repeat' first
    | with_reducible assumption
    | extract_lets
    | fail_if_no_progress with_reducible refine Good.mk' ?_
    | with_reducible apply hscrub
    | with_reducible apply finish_good
    | with_reducible apply sendCounts_good
    | with_reducible apply sendNotice_good
    | with_reducible apply spoutDrop_good
    | with_reducible apply dropRows_good
    | with_reducible apply dropTiles_good
    | with_reducible apply finishStep_good
    | with_reducible apply ctrInc_good
    | with_reducible apply ctxMap_good
    | with_reducible apply setSlot_good
    | with_reducible apply dutyTidy_good
    | with_reducible apply slotMove_good
    | with_reducible apply ite_good
    | with_reducible refine pair_good (by assumption) ?_
    | with_reducible apply foldl_good
    | with_reducible apply foldlT_good
    | with_reducible apply foldlT_fst_good
    | intro _
    | split

theorem execCancelTeardownComplete_good {slot : Nat} {s : State} {nx} (hg : Good Q s) (hx : execCancelTeardownComplete slot s = .next nx) : Good Q nx := by
  unfold execCancelTeardownComplete at hx
  refine live_good hx ?_
  repeat' first
    | with_reducible assumption
    | extract_lets
    | fail_if_no_progress with_reducible refine Good.mk' ?_
    | with_reducible apply slotMove_good
    | with_reducible apply ctxSettle_good
    | with_reducible apply setSlot_good
    | with_reducible apply closeTry_good
    | with_reducible apply finishOpt_good
    | with_reducible refine pair_good (by assumption) ?_
    | intro _
    | split

end Sys2Proof.Machine
end

