-- ==== Sys2Proof/Laws/InvStepRun.lean ====
section
/-! SUPPORT. Every operation of Machine/StepRun.lean keeps the invariant and the queue. -/

set_option Elab.async false
set_option linter.unreachableTactic false
set_option linter.unusedTactic false

namespace Sys2Proof.Machine

variable {Q : List Instr}

theorem mportIssue_good {m : MReq} {s : State} (hg : Good Q s) : Good Q (mportIssue m s) := by
  unfold mportIssue
  repeat' first
    | with_reducible assumption
    | fail_if_no_progress with_reducible refine Good.mk' ?_
    | with_reducible apply TRun.write_good
    | with_reducible refine pair_good (by assumption) ?_
    | split

theorem mportAsk_good {write : Bool} {cls : Nat} {who : Requester} {l : List Piece} {s : State} (hg : Good Q s) : Good Q (mportAsk write cls who l s) := by
  unfold mportAsk
  repeat' first
    | with_reducible assumption
    | with_reducible apply mportIssue_good
    | with_reducible apply foldl_good
    | with_reducible apply foldlT_good
    | with_reducible apply foldlT_fst_good
    | intro _

theorem mportPump_good {s : State} (hg : Good Q s) : Good Q (mportPump s) := by
  unfold mportPump
  repeat' first
    | with_reducible assumption
    | fail_if_no_progress with_reducible refine Good.mk' ?_
    | with_reducible apply mportIssue_good
    | with_reducible apply foldl_good
    | with_reducible apply foldlT_good
    | with_reducible apply foldlT_fst_good
    | intro _

theorem mportDone_good {m : MReq} {s : State} (hg : Good Q s) : Good Q (mportDone m s) := by
  unfold mportDone
  repeat' first
    | with_reducible assumption
    | fail_if_no_progress with_reducible refine Good.mk' ?_
    | with_reducible apply mportPump_good
    | with_reducible apply mmuRetire_good

theorem mportStray_good {write : Bool} {ch id : Nat} {last : Bool} {s : State} (hg : Good Q s) : Good Q (mportStray write ch id last s) := by
  unfold mportStray
  repeat' first
    | with_reducible assumption
    | fail_if_no_progress with_reducible refine Good.mk' ?_
    | with_reducible apply ctrInc_good
    | with_reducible apply ite_good
    | intro _
    | split

theorem inRow_good {c : StepCtx} {d t : Nat} {r : TRun} (hg : Good Q r.s) : Good Q (inRow c d t r).1.s := by
  unfold inRow
  repeat' first
    | with_reducible assumption
    | extract_lets
    | with_reducible apply rowRead_good

theorem rowPut_good {i t : Nat} {v : List Num} {s : State} (hg : Good Q s) : Good Q (rowPut i t v s) := by
  unfold rowPut
  repeat' first
    | with_reducible assumption
    | fail_if_no_progress with_reducible refine Good.mk' ?_
    | with_reducible apply ctxMap_good
    | intro _

theorem rowReady_good {i step t : Nat} {s : State} (hg : Good Q s) : Good Q (rowReady i step t s) := by
  unfold rowReady
  repeat' first
    | with_reducible assumption
    | extract_lets
    | with_reducible apply inRow_good
    | with_reducible apply TRun.start_good
    | with_reducible apply xlateFault_good
    | with_reducible apply rowPut_good
    | with_reducible refine pair_good (by assumption) ?_
    | intro _
    | split

theorem readRows_good {i : Nat} {c : StepCtx} {s : State} (hg : Good Q s) : Good Q (readRows i c s) := by
  unfold readRows
  repeat' first
    | with_reducible assumption
    | extract_lets
    | with_reducible apply rowPut_good
    | with_reducible apply inRow_good
    | with_reducible apply TRun.start_good
    | with_reducible apply xlateFault_good
    | with_reducible apply mportAsk_good
    | with_reducible refine pair_good (by assumption) ?_
    | with_reducible apply foldl_good
    | with_reducible apply foldlT_good
    | with_reducible apply foldlT_fst_good
    | intro _
    | split

theorem reqScrub_good {m : MReq} {s : State} (hg : Good Q s) : Good Q (reqScrub m s) := by
  unfold reqScrub
  repeat' first
    | with_reducible assumption
    | with_reducible apply freePieces_good
    | with_reducible apply TRun.write_good
    | split

theorem reqAnswered_good {m : MReq} {s : State} (hg : Good Q s) : Good Q (reqAnswered m s) := by
  unfold reqAnswered
  repeat' first
    | with_reducible assumption
    | with_reducible apply rowReady_good
    | with_reducible refine pair_good (by assumption) ?_
    | split

theorem execMportReadData_good {channel id err : Nat} {last badParity : Bool} {s : State} {nx} (hg : Good Q s) (hx : execMportReadData channel id err last badParity s = .next nx) : Good Q nx := by
  unfold execMportReadData at hx
  refine live_good hx ?_
  repeat' first
    | with_reducible assumption
    | extract_lets
    | with_reducible apply mportStray_good
    | with_reducible apply reqFault_good
    | with_reducible apply errCount_good
    | with_reducible apply reqAnswered_good
    | with_reducible apply mportDone_good
    | with_reducible apply ite_good
    | with_reducible refine pair_good (by assumption) ?_
    | intro _
    | split

theorem execMportWriteResponse_good {channel id err : Nat} {s : State} {nx} (hg : Good Q s) (hx : execMportWriteResponse channel id err s = .next nx) : Good Q nx := by
  unfold execMportWriteResponse at hx
  refine live_good hx ?_
  repeat' first
    | with_reducible assumption
    | extract_lets
    | with_reducible apply mportStray_good
    | with_reducible apply reqFault_good
    | with_reducible apply reqScrub_good
    | with_reducible apply errCount_good
    | with_reducible apply reqAnswered_good
    | with_reducible apply mportDone_good
    | with_reducible apply ite_good
    | with_reducible refine pair_good (by assumption) ?_
    | intro _
    | split

theorem execMportTimeout_good {write : Bool} {channel id : Nat} {s : State} {nx} (hg : Good Q s) (hx : execMportTimeout write channel id s = .next nx) : Good Q nx := by
  unfold execMportTimeout at hx
  refine live_good hx ?_
  repeat' first
    | with_reducible assumption
    | extract_lets
    | with_reducible apply reqFault_good
    | with_reducible apply mportDone_good
    | with_reducible apply reqScrub_good
    | with_reducible apply errCount_good
    | with_reducible refine pair_good (by assumption) ?_
    | intro _
    | split

theorem bodyFill_good {n : Nat} {body : List Byte} {s : State} (hg : Good Q s) : Good Q (bodyFill n body s).1 := by
  unfold bodyFill
  repeat' first
    | with_reducible assumption
    | extract_lets
    | with_reducible apply freeBytes_good

theorem takeRows_good {kind : Nat} {f : FunnelPkt} {i : Nat} {l : Layer} {s : State} (hg : Good Q s) : Good Q (takeRows kind f i l s) := by
  unfold takeRows
  repeat' first
    | with_reducible assumption
    | extract_lets
    | fail_if_no_progress with_reducible refine Good.mk' ?_
    | with_reducible apply bodyFill_good
    | with_reducible apply jobFault_good
    | with_reducible apply rowPut_good
    | with_reducible apply carafeAsk_good
    | with_reducible apply ctxMap_good
    | with_reducible apply ite_good
    | with_reducible refine pair_good (by assumption) ?_
    | with_reducible apply foldl_good
    | with_reducible apply foldlT_good
    | with_reducible apply foldlT_fst_good
    | intro _
    | split

theorem holdPacket_good {kind : Nat} {f : FunnelPkt} {s : State} (hg : Good Q s) : Good Q (holdPacket kind f s) := by
  unfold holdPacket
  repeat' first
    | with_reducible assumption
    | fail_if_no_progress with_reducible refine Good.mk' ?_
    | with_reducible apply carafeAsk_good

theorem assignPacket_good {kind : Nat} {f : FunnelPkt} {s : State} (hg : Good Q s) : Good Q (assignPacket kind f s) := by
  unfold assignPacket
  repeat' first
    | with_reducible assumption
    | extract_lets
    | with_reducible apply holdPacket_good
    | with_reducible apply jobFault_good
    | with_reducible apply takeRows_good
    | with_reducible apply ctrInc_good
    | with_reducible refine pair_good (by assumption) ?_
    | split

theorem flushHeld_good {i : Nat} {s : State} (hg : Good Q s) : Good Q (flushHeld i s) := by
  unfold flushHeld
  repeat' first
    | with_reducible assumption
    | extract_lets
    | fail_if_no_progress with_reducible refine Good.mk' ?_
    | with_reducible apply freeCells_good
    | with_reducible apply assignPacket_good
    | with_reducible refine pair_good (by assumption) ?_
    | with_reducible apply foldl_good
    | with_reducible apply foldlT_good
    | with_reducible apply foldlT_fst_good
    | intro _
    | split

theorem execRouterRowsPacket_good {f : FunnelPkt} {s : State} {nx} (hg : Good Q s) (hx : execRouterRowsPacket f s = .next nx) : Good Q nx := by
  unfold execRouterRowsPacket at hx
  refine live_good hx ?_
  repeat' first
    | with_reducible assumption
    | with_reducible apply funnelTake_good
    | with_reducible apply assignPacket_good

theorem execSharedOutputPacket_good {f : FunnelPkt} {s : State} {nx} (hg : Good Q s) (hx : execSharedOutputPacket f s = .next nx) : Good Q nx := by
  unfold execSharedOutputPacket at hx
  refine live_good hx ?_
  repeat' first
    | with_reducible assumption
    | with_reducible apply funnelTake_good
    | with_reducible apply assignPacket_good

theorem execFunnelMalformed_good {funnel : Nat} {s : State} {nx} (hg : Good Q s) (hx : execFunnelMalformed funnel s = .next nx) : Good Q nx := by
  unfold execFunnelMalformed at hx
  refine live_good hx ?_
  repeat' first
    | with_reducible assumption
    | with_reducible apply jobFault_good
    | with_reducible apply ctrInc_good
    | intro _
    | split

theorem execFunnelPoisonedBeat_good {funnel slot : Nat} {s : State} {nx} (hg : Good Q s) (hx : execFunnelPoisonedBeat funnel slot s = .next nx) : Good Q nx := by
  unfold execFunnelPoisonedBeat at hx
  refine live_good hx ?_
  repeat' first
    | with_reducible assumption
    | with_reducible apply jobFault_good
    | with_reducible apply ctrInc_good
    | intro _
    | split

theorem krCheck_good {i : Nat} {c : StepCtx} {s : State} (hg : Good Q s) : Good Q (krCheck i c s) := by
  unfold krCheck
  repeat' first
    | with_reducible assumption
    | with_reducible apply jobFault_good
    | with_reducible refine pair_good (by assumption) ?_
    | split

theorem reachStep_good {i : Nat} {c : StepCtx} {s : State} (hg : Good Q s) : Good Q (reachStep i c s) := by
  unfold reachStep
  repeat' first
    | with_reducible assumption
    | extract_lets
    | with_reducible apply krCheck_good
    | with_reducible apply dutyReach_good
    | with_reducible apply flushHeld_good
    | with_reducible apply readRows_good
    | split

theorem beginStep_good {p : Packet} {c : OpenCmd} {s : State} (hg : Good Q s) : Good Q (beginStep p c s) := by
  unfold beginStep
  repeat' first
    | with_reducible assumption
    | extract_lets
    | fail_if_no_progress with_reducible refine Good.mk' ?_
    | with_reducible apply setSlot_good
    | with_reducible apply dripStageAll_good
    | with_reducible apply slotMove_good
    | with_reducible apply scored_good
    | with_reducible apply reachStep_good
    | with_reducible apply ite_good
    | with_reducible refine pair_good (by assumption) ?_
    | intro _
    | split
    | dsimp +zetaDelta only

theorem runTaken_good {a : RunArgs} {cls : Nat} {s : State} (hg : Good Q s) : Good Q (runTaken a cls s) := by
  unfold runTaken
  repeat' first
    | with_reducible assumption
    | extract_lets
    | fail_if_no_progress with_reducible refine Good.mk' ?_
    | with_reducible apply winTake_good
    | with_reducible apply ctrInc_good
    | split

theorem startStepRun_good {p : Packet} {x : Ext} {order : Nat} {s : State} (hg : Good Q s) : Good Q (startStepRun p x order s) := by
  unfold startStepRun
  repeat' first
    | with_reducible assumption
    | extract_lets
    | exact (by assumption : true = true → _) rfl
    | fail_if_no_progress with_reducible refine Good.mk' ?_
    | with_reducible apply checked_good
    | with_reducible apply runTaken_good
    | with_reducible apply accept_good
    | with_reducible apply holdCmd_good
    | with_reducible apply beginStep_good
    | intro _
    | split

theorem execStepRun_good {p : Packet} {s : State} {nx} (hg : Good Q s) (hx : execStepRun p s = .next nx) : Good Q nx := by
  unfold execStepRun at hx
  refine live_good hx ?_
  repeat' first
    | with_reducible assumption
    | with_reducible apply takeCmd_good
    | with_reducible apply startStepRun_good
    | intro _

theorem reachLate_good {i : Nat} {c : StepCtx} {s : State} (hg : Good Q s) : Good Q (reachLate i c s) := by
  unfold reachLate
  repeat' first
    | with_reducible assumption
    | with_reducible apply sendCounts_good
    | with_reducible apply dutyReach_good
    | with_reducible apply reachStep_good
    | split

theorem reachAwaited_good {was s : State} (hg : Good Q s) : Good Q (reachAwaited was s) := by
  unfold reachAwaited
  refine dutyTidy_good (foldl_good hg fun t i ht => ?_)
  split
  · split
    · exact reachLate_good ht
    · exact ht
  · exact ht

theorem execCommitLoadsDone_good {s : State} {nx} (hg : Good Q s) (hx : execCommitLoadsDone s = .next nx) : Good Q nx := by
  unfold execCommitLoadsDone at hx
  refine live_good hx ?_
  repeat' first
    | with_reducible assumption
    | fail_if_no_progress with_reducible refine Good.mk' ?_
    | with_reducible apply reachAwaited_good
    | with_reducible apply commitRefused_good
    | with_reducible refine pair_good (by assumption) ?_
    | intro _
    | split

theorem execEpochTakesEffect_good {s : State} {nx} (hg : Good Q s) (hx : execEpochTakesEffect s = .next nx) : Good Q nx := by
  unfold execEpochTakesEffect at hx
  refine live_good hx ?_
  repeat' first
    | with_reducible assumption
    | with_reducible apply reachAwaited_good
    | with_reducible apply epochSwitch_good
    | with_reducible refine pair_good (by assumption) ?_
    | intro _
    | split

end Sys2Proof.Machine
end

