-- ==== Sys2Proof/Laws/InvStages.lean ====
section
/-! SUPPORT. Every operation of Machine/Stages.lean keeps the invariant and the queue. -/

set_option Elab.async false
set_option linter.unreachableTactic false
set_option linter.unusedTactic false

namespace Sys2Proof.Machine

variable {Q : List Instr}

theorem stageTwo_good {i : Nat} {c : StepCtx} {l : Layer} {s : State} (hg : Good Q s) : Good Q (stageTwo i c l s) := by
  unfold stageTwo
  repeat' first
    | with_reducible assumption
    | extract_lets
    | fail_if_no_progress with_reducible refine Good.mk' ?_
    | with_reducible apply carafeAsk_good
    | with_reducible apply setSlot_good
    | with_reducible apply dripStageAll_good
    | with_reducible apply foldl_good
    | with_reducible apply foldlT_good
    | with_reducible apply foldlT_fst_good
    | intro _

theorem execStage1Complete_good {slot : Nat} {s : State} {nx} (hg : Good Q s) (hx : execStage1Complete slot s = .next nx) : Good Q nx := by
  unfold execStage1Complete at hx
  refine live_good hx ?_
  repeat' first
    | with_reducible assumption
    | extract_lets
    | with_reducible apply scored_good
    | with_reducible apply stageTwo_good
    | with_reducible refine pair_good (by assumption) ?_
    | intro _
    | split

theorem scoreCount_good {l : Layer} {d n : Nat} {splits : Nat → Nat → Nat} {s : State} (hg : Good Q s) : Good Q (scoreCount l d n splits s) := by
  unfold scoreCount
  repeat' first
    | with_reducible assumption
    | with_reducible apply ctrAdd_good
    | with_reducible apply foldl_good
    | with_reducible apply foldlT_good
    | with_reducible apply foldlT_fst_good
    | intro _

theorem cellWrite_good {use : CellUse} {o : Nat} {b : List Byte} {s : State} (hg : Good Q s) : Good Q (cellWrite use o b s) := by
  unfold cellWrite
  repeat' first
    | with_reducible assumption
    | with_reducible apply spWrite_good
    | with_reducible refine pair_good (by assumption) ?_
    | intro _
    | split

theorem opBankPut_good {l : List OpBank} {s : State} (hg : Good Q s) : Good Q (opBankPut l s) := by
  unfold opBankPut
  repeat' first
    | with_reducible assumption
    | extract_lets
    | fail_if_no_progress with_reducible refine Good.mk' ?_
    | intro _

theorem stageTiles_good {i : Nat} {c : StepCtx} {wFmt : Nat} {rs : List Scored} {s : State} (hg : Good Q s) : Good Q (stageTiles i c wFmt rs s) := by
  unfold stageTiles
  repeat' first
    | with_reducible assumption
    | extract_lets
    | with_reducible apply cellWrite_good
    | with_reducible apply freeCells_good
    | with_reducible apply opBankPut_good
    | with_reducible refine pair_good (by assumption) ?_
    | with_reducible apply foldl_good
    | with_reducible apply foldlT_good
    | with_reducible apply foldlT_fst_good
    | intro _
    | split

theorem scored_good {i : Nat} {c : StepCtx} {l : Layer} {ents : List DWord} {rs : List Scored} {s : State} (hg : Good Q s) : Good Q (scored i c l ents rs s) := by
  unfold scored
  repeat' first
    | with_reducible assumption
    | extract_lets
    | fail_if_no_progress with_reducible refine Good.mk' ?_
    | with_reducible apply ctrAdd_good
    | with_reducible apply setSlot_good
    | with_reducible apply setRef_good
    | with_reducible apply stageTiles_good
    | with_reducible apply winCount_good
    | with_reducible apply ctxMap_good
    | with_reducible apply dripStageAll_good
    | with_reducible apply sendCounts_good
    | with_reducible apply ite_good
    | with_reducible apply foldl_good
    | with_reducible apply foldlT_good
    | with_reducible apply foldlT_fst_good
    | intro _
    | split

theorem scoreStep_good {i : Nat} {c : StepCtx} {l : Layer} {b : List Byte} {s : State} (hg : Good Q s) : Good Q (scoreStep i c l b s) := by
  unfold scoreStep
  repeat' first
    | with_reducible assumption
    | extract_lets
    | fail_if_no_progress with_reducible refine Good.mk' ?_
    | with_reducible apply scoreCount_good
    | with_reducible apply scored_good
    | with_reducible apply ite_good
    | intro _
    | split
    | dsimp +zetaDelta only

theorem execStepScoringDone_good {slot : Nat} {io : Io} {found : List Found} {s : State} {nx} (hg : Good Q s) (hx : execStepScoringDone slot io found s = .next nx) : Good Q nx := by
  unfold execStepScoringDone at hx
  refine live_good hx ?_
  repeat' first
    | with_reducible assumption
    | extract_lets
    | with_reducible apply scored_good
    | with_reducible apply foundAll_good
    | with_reducible apply jobFault_good
    | with_reducible apply withRouter_good
    | with_reducible apply scoreStep_good
    | with_reducible refine pair_good (by assumption) ?_
    | intro _
    | split

theorem xlateAnswers_good {c : StepCtx} : ∀ (x0 : List (Nat × Nat)) (x1 : State), Good Q x1 → Good Q (xlateAnswers c x0 x1).1 := by
  intro x0
  induction x0 with
  | nil =>
    intro x1 hg
    unfold xlateAnswers
    repeat' first
      | with_reducible assumption
      | with_reducible apply xlateRange_good
      | with_reducible refine pair_good (by assumption) ?_
      | split
  | cons x r ih =>
    intro x1 hg
    unfold xlateAnswers
    repeat' first
      | with_reducible assumption
      | with_reducible apply ih
      | with_reducible apply xlateRange_good
      | with_reducible refine pair_good (by assumption) ?_
      | split

theorem TRun.poke_good {t : TRun} {va off w code : Nat} (hg : Good Q t.s) : Good Q (TRun.poke t va off w code).s := by
  unfold TRun.poke
  repeat' first
    | with_reducible assumption
    | extract_lets
    | with_reducible refine setHost_write ?_ _ _
    | fail_if_no_progress with_reducible refine Good.mk' ?_
    | with_reducible apply xlateRange_good
    | with_reducible refine pair_good (by assumption) ?_
    | split

theorem TRun.touched_good {f : TRun → TRun} {t : TRun} (hg : Good Q t.s) (hf : ∀ u, Good Q u.s → Good Q (f u).s) :
    Good Q (TRun.touched f t).s := hf _ hg

theorem outPart_good {d : Desc} {o : List Nat} {n : Nat} {l : List OutRow} {t : TRun} (hg : Good Q t.s) : Good Q (outPart d o n l t).s := by
  unfold outPart
  repeat' first
    | with_reducible assumption
    | extract_lets
    | fail_if_no_progress with_reducible refine Good.mk' ?_
    | with_reducible apply TRun.write_good
    | with_reducible apply TRun.touched_good
    | with_reducible apply TRun.poke_good
    | with_reducible apply ite_good
    | with_reducible apply foldl_good
    | with_reducible apply foldl_fst_good
    | with_reducible apply foldlT_good
    | with_reducible apply foldlT_fst_good
    | intro _
    | split
    | dsimp +zetaDelta only

theorem outUnit_good {d : Desc} {dim : Nat} {rows : List OutRow} {t : TRun} {o : List Nat} (hg : Good Q t.s) : Good Q (outUnit d dim rows t o).s := by
  unfold outUnit
  repeat' first
    | with_reducible assumption
    | extract_lets
    | with_reducible apply unitWrite_good
    | with_reducible apply outPart_good
    | split

theorem outWrite_good {d : Desc} {dim : Nat} {rows : List OutRow} {lo hi : Nat} {t : TRun} (hg : Good Q t.s) : Good Q (outWrite d dim rows lo hi t).s := by
  unfold outWrite
  repeat' first
    | with_reducible assumption
    | with_reducible apply outUnit_good
    | with_reducible apply foldl_good
    | with_reducible apply foldlT_good
    | with_reducible apply foldlT_fst_good
    | intro _

theorem combineEnter_good {i : Nat} {s : State} (hg : Good Q s) : Good Q (combineEnter i s) := by
  unfold combineEnter
  repeat' first
    | with_reducible assumption
    | with_reducible apply slotMove_good
    | with_reducible apply dripStageAll_good
    | with_reducible refine pair_good (by assumption) ?_
    | split

theorem combineRead_good {i : Nat} {io : Io} {s : State} (hg : Good Q s) : Good Q (combineRead i io s) := by
  unfold combineRead
  repeat' first
    | with_reducible assumption
    | extract_lets
    | fail_if_no_progress with_reducible refine Good.mk' ?_
    | with_reducible apply xlateAnswers_good
    | with_reducible apply xlateFault_good
    | with_reducible apply jobIo_good
    | with_reducible apply setSlot_good
    | with_reducible apply dripStageAll_good
    | with_reducible apply ctxMap_good
    | with_reducible refine pair_good (by assumption) ?_
    | intro _
    | split

theorem outSettle_good {c : StepCtx} {s : State} (hg : Good Q s) : Good Q (outSettle c s) := by
  unfold outSettle
  repeat' first
    | with_reducible assumption
    | with_reducible apply settleTwice_good
    | with_reducible apply outWrite_good
    | with_reducible apply TRun.start_good

theorem combineOn_good {i n : Nat} {s : State} (hg : Good Q s) : Good Q (combineOn i n s) := by
  unfold combineOn
  repeat' first
    | with_reducible assumption
    | extract_lets
    | fail_if_no_progress with_reducible refine Good.mk' ?_
    | with_reducible apply outWrite_good
    | with_reducible apply TRun.start_good
    | with_reducible apply xlateFault_good
    | with_reducible apply ctrInc_good
    | with_reducible apply outSettle_good
    | with_reducible apply mportAsk_good
    | with_reducible apply ctxMap_good
    | with_reducible apply ite_good
    | with_reducible refine pair_good (by assumption) ?_
    | with_reducible apply foldl_good
    | with_reducible apply foldlT_good
    | with_reducible apply foldlT_fst_good
    | intro _
    | split

theorem execCombineStart_good {slot rows : Nat} {io : Io} {found : List Found} {s : State} {nx} (hg : Good Q s) (hx : execCombineStart slot rows io found s = .next nx) : Good Q nx := by
  unfold execCombineStart at hx
  refine live_good hx ?_
  repeat' first
    | with_reducible assumption
    | extract_lets
    | with_reducible apply combineEnter_good
    | with_reducible apply foundAll_good
    | with_reducible apply combineRead_good
    | with_reducible apply combineOn_good
    | with_reducible apply ite_good
    | intro _
    | split

theorem outScrub_good {i : Nat} {s : State} (hg : Good Q s) : Good Q (outScrub i s) := by
  unfold outScrub
  repeat' first
    | with_reducible assumption
    | with_reducible apply freePieces_good
    | with_reducible apply outWrite_good
    | with_reducible apply TRun.start_good
    | with_reducible refine pair_good (by assumption) ?_
    | split

theorem putDigests_good {i : Nat} {c : StepCtx} {s : State} (hg : Good Q s) : Good Q (putDigests i c s) := by
  unfold putDigests
  repeat' first
    | with_reducible assumption
    | extract_lets
    | with_reducible apply setP_good
    | with_reducible apply recPut_good
    | with_reducible refine pair_good (by assumption) ?_
    | with_reducible apply foldl_good
    | with_reducible apply foldlT_good
    | with_reducible apply foldlT_fst_good
    | intro _
    | split

theorem stepDone_good {i : Nat} {c : StepCtx} {s : State} (hg : Good Q s) : Good Q (stepDone i c s) := by
  unfold stepDone
  repeat' first
    | with_reducible assumption
    | extract_lets
    | fail_if_no_progress with_reducible refine Good.mk' ?_
    | with_reducible apply putDigests_good
    | with_reducible apply dripStageAll_good
    | with_reducible apply ctxSettle_good
    | with_reducible apply finishStep_good
    | with_reducible apply ctrInc_good
    | with_reducible apply finish_good
    | with_reducible apply dropRows_good
    | with_reducible apply slotMove_good
    | with_reducible apply closeTry_good
    | with_reducible apply setSlot_good
    | with_reducible apply foldl_good
    | with_reducible apply foldlT_good
    | with_reducible apply foldlT_fst_good
    | intro _

theorem maskDone_good {i : Nat} {c : StepCtx} {io : Io} {s : State} (hg : Good Q s) : Good Q (maskDone i c io s) := by
  unfold maskDone
  repeat' first
    | with_reducible assumption
    | extract_lets
    | with_reducible refine setHost_write ?_ _ _
    | fail_if_no_progress with_reducible refine Good.mk' ?_
    | with_reducible apply xlateRange_good
    | with_reducible apply xlateFault_good
    | with_reducible apply jobIo_good
    | with_reducible apply stepDone_good
    | with_reducible apply ite_good
    | with_reducible refine pair_good (by assumption) ?_
    | intro _
    | split

theorem execCombineDone_good {slot : Nat} {io : Io} {s : State} {nx} (hg : Good Q s) (hx : execCombineDone slot io s = .next nx) : Good Q nx := by
  unfold execCombineDone at hx
  refine live_good hx ?_
  repeat' first
    | with_reducible assumption
    | extract_lets
    | with_reducible apply maskDone_good
    | with_reducible apply stepDone_good
    | with_reducible refine pair_good (by assumption) ?_
    | intro _
    | split

theorem startBatchCancel_good {p : Packet} {z1 : Ext} {order : Nat} {s : State} (hg : Good Q s) : Good Q (startBatchCancel p z1 order s) := by
  unfold startBatchCancel
  repeat' first
    | with_reducible assumption
    | extract_lets
    | exact (by assumption : true = true → _) rfl
    | fail_if_no_progress with_reducible refine Good.mk' ?_
    | with_reducible apply checked_good
    | with_reducible apply setSlot_good
    | with_reducible apply finish_good
    | with_reducible apply accept_good
    | with_reducible apply cancelStep_good
    | with_reducible apply outScrub_good
    | intro _
    | split

theorem execBatchCancel_good {p : Packet} {s : State} {nx} (hg : Good Q s) (hx : execBatchCancel p s = .next nx) : Good Q nx := by
  unfold execBatchCancel at hx
  refine live_good hx ?_
  repeat' first
    | with_reducible assumption
    | with_reducible apply takeCmd_good
    | with_reducible apply startBatchCancel_good
    | intro _

theorem startBatchPreempt_good {p : Packet} {z1 : Ext} {order : Nat} {s : State} (hg : Good Q s) : Good Q (startBatchPreempt p z1 order s) := by
  unfold startBatchPreempt
  repeat' first
    | with_reducible assumption
    | fail_if_no_progress with_reducible refine Good.mk' ?_
    | with_reducible apply asyncCmd_good
    | with_reducible apply ctxMap_good
    | intro _

theorem execBatchPreempt_good {p : Packet} {s : State} {nx} (hg : Good Q s) (hx : execBatchPreempt p s = .next nx) : Good Q nx := by
  unfold execBatchPreempt at hx
  refine live_good hx ?_
  repeat' first
    | with_reducible assumption
    | with_reducible apply takeCmd_good
    | with_reducible apply startBatchPreempt_good
    | intro _

theorem execPreemptBoundary_good {slot : Nat} {s : State} {nx} (hg : Good Q s) (hx : execPreemptBoundary slot s = .next nx) : Good Q nx := by
  unfold execPreemptBoundary at hx
  refine live_good hx ?_
  repeat' first
    | with_reducible assumption
    | extract_lets
    | fail_if_no_progress with_reducible refine Good.mk' ?_
    | with_reducible apply slotMove_good
    | with_reducible apply ctxMap_good
    | with_reducible apply finish_good
    | with_reducible refine pair_good (by assumption) ?_
    | with_reducible apply foldl_good
    | with_reducible apply foldlT_good
    | with_reducible apply foldlT_fst_good
    | intro _
    | split

theorem resumeSlot_good {i : Nat} {s : State} (hg : Good Q s) : Good Q (resumeSlot i s) := by
  unfold resumeSlot
  repeat' first
    | with_reducible assumption
    | extract_lets
    | fail_if_no_progress with_reducible refine Good.mk' ?_
    | with_reducible apply dispatchPump_good
    | with_reducible apply slotMove_good
    | with_reducible apply toAwaiting_good
    | with_reducible apply combineEnter_good
    | with_reducible apply ite_good
    | with_reducible refine pair_good (by assumption) ?_
    | intro _
    | split
    | dsimp +zetaDelta only

theorem startBatchResume_good {p : Packet} {x : Ext} {order : Nat} {s : State} (hg : Good Q s) : Good Q (startBatchResume p x order s) := by
  unfold startBatchResume
  repeat' first
    | with_reducible assumption
    | fail_if_no_progress with_reducible refine Good.mk' ?_
    | with_reducible apply holdCmd_good
    | with_reducible apply syncCmd_good
    | with_reducible apply replyOne_good
    | with_reducible apply resumeSlot_good
    | intro _
    | split

theorem execBatchResume_good {p : Packet} {s : State} {nx} (hg : Good Q s) (hx : execBatchResume p s = .next nx) : Good Q nx := by
  unfold execBatchResume at hx
  refine live_good hx ?_
  repeat' first
    | with_reducible assumption
    | with_reducible apply takeCmd_good
    | with_reducible apply startBatchResume_good
    | intro _

theorem asidePut_good {i : Nat} {a : Aside} {s : State} (hg : Good Q s) : Good Q (asidePut i a s) := by
  unfold asidePut
  repeat' first
    | with_reducible assumption
    | fail_if_no_progress with_reducible refine Good.mk' ?_
    | with_reducible apply ctrInc_good
    | with_reducible apply ctxMap_good
    | intro _

theorem engineAside_good {i slice : Nat} {c : StepCtx} {l : Layer} {u : WorkUnit} {s : State} (hg : Good Q s) : Good Q (engineAside i slice c l u s) := by
  unfold engineAside
  repeat' first
    | with_reducible assumption
    | extract_lets
    | with_reducible apply withRouter_good
    | with_reducible apply asidePut_good
    | with_reducible apply opBankPut_good
    | with_reducible refine pair_good (by assumption) ?_
    | intro _
    | split

theorem asideBack_good {i slice : Nat} {u : WorkUnit} {s : State} (hg : Good Q s) : Good Q (asideBack i slice u s) := by
  unfold asideBack
  repeat' first
    | with_reducible assumption
    | extract_lets
    | fail_if_no_progress with_reducible refine Good.mk' ?_
    | with_reducible apply dispatchPump_good
    | with_reducible apply ctxMap_good
    | intro _

theorem execClassSwitch_good {slice slot cls : Nat} {unit : WorkUnit} {s : State} {nx} (hg : Good Q s) (hx : execClassSwitch slice slot cls unit s = .next nx) : Good Q nx := by
  unfold execClassSwitch at hx
  refine live_good hx ?_
  repeat' first
    | with_reducible assumption
    | with_reducible apply closeTry_good
    | with_reducible apply tensorOn_good
    | with_reducible apply asideBack_good
    | with_reducible apply engineAside_good
    | with_reducible refine pair_good (by assumption) ?_
    | intro _
    | split

end Sys2Proof.Machine
end

