-- ==== Sys2Proof/Laws/InvFaults.lean ====
section
/-! SUPPORT. Every operation of Machine/Faults.lean keeps the invariant and the queue. -/

set_option Elab.async false
set_option linter.unreachableTactic false
set_option linter.unusedTactic false

namespace Sys2Proof.Machine

variable {Q : List Instr}

theorem execStepDeadlineExpiry_good {slot : Nat} {s : State} {nx} (hg : Good Q s) (hx : execStepDeadlineExpiry slot s = .next nx) : Good Q nx := by
  unfold execStepDeadlineExpiry at hx
  refine live_good hx ?_
  repeat' first
    | with_reducible assumption
    | extract_lets
    | with_reducible apply jobFault_good
    | with_reducible refine pair_good (by assumption) ?_
    | intro _
    | split

theorem spoutMark_good {unit : Nat} {s : State} (hg : Good Q s) : Good Q (spoutMark unit s) := by
  unfold spoutMark
  repeat' first
    | with_reducible assumption
    | extract_lets
    | fail_if_no_progress with_reducible refine Good.mk' ?_
    | with_reducible refine pair_good (by assumption) ?_
    | intro _
    | split

theorem execQueuePoisonConsume_good {q : QueueConsumer} {s : State} {nx} (hg : Good Q s) (hx : execQueuePoisonConsume q s = .next nx) : Good Q nx := by
  unfold execQueuePoisonConsume at hx
  refine live_good hx ?_
  repeat' first
    | with_reducible assumption
    | with_reducible apply jobFault_good
    | with_reducible apply spoutMark_good
    | with_reducible apply resend_good
    | with_reducible apply closeTry_good
    | with_reducible apply tensorPoison_good
    | with_reducible apply ctrInc_good
    | with_reducible refine pair_good (by assumption) ?_
    | intro _
    | split

theorem execPatrolScrub_good {off : Nat} {found : ScrubFind} {s : State} {nx} (hg : Good Q s) (hx : execPatrolScrub off found s = .next nx) : Good Q nx := by
  unfold execPatrolScrub at hx
  refine live_good hx ?_
  repeat' first
    | with_reducible assumption
    | extract_lets
    | fail_if_no_progress with_reducible refine Good.mk' ?_
    | with_reducible apply ctrInc_good
    | with_reducible apply logAdd_good
    | with_reducible apply ite_good
    | with_reducible refine pair_good (by assumption) ?_
    | intro _
    | split
    | dsimp +zetaDelta only

theorem dumpSpaces_good {s : State} (hg : Good Q s) : Good Q (dumpSpaces s).1 := by
  unfold dumpSpaces
  repeat' first
    | with_reducible assumption
    | extract_lets
    | with_reducible apply freeBytes_good
    | with_reducible apply foldl_good
    | with_reducible apply foldlT_good
    | with_reducible apply foldlT_fst_good
    | intro _

theorem dumpSample_good {s : State} (hg : Good Q s) : Good Q (dumpSample s) := by
  unfold dumpSample
  repeat' first
    | with_reducible assumption
    | extract_lets
    | fail_if_no_progress with_reducible refine Good.mk' ?_
    | with_reducible apply dumpSpaces_good
    | with_reducible apply ite_good
    | intro _
    | split
    | dsimp +zetaDelta only

theorem dumpWrite_good {io : Io} {l : List (Nat × Nat × List Byte)} {s : State} (hg : Good Q s) : Good Q (dumpWrite io l s) := by
  induction l generalizing io s with
  | nil => exact hg
  | cons x r ih =>
    unfold dumpWrite
    extract_lets va q
    split
    · exact Good.mk' (pair_good (by assumption) (ownWrite_good hg))
    · exact ih (Good.mk' (pair_good (by assumption) (ownWrite_good hg)))

theorem execCrashDump_good {io : Io} {s : State} {nx} (hg : Good Q s) (hx : execCrashDump io s = .next nx) : Good Q nx := by
  unfold execCrashDump at hx
  refine live_good hx ?_
  repeat' first
    | with_reducible assumption
    | extract_lets
    | fail_if_no_progress with_reducible refine Good.mk' ?_
    | with_reducible apply dumpSample_good
    | with_reducible apply mmuRetire_good
    | with_reducible apply dumpWrite_good
    | with_reducible apply ite_good
    | intro _
    | split
    | dsimp +zetaDelta only

theorem dumpHeaderPut_good {h : List Byte} {s : State} (hg : Good Q s) : Good Q (dumpHeaderPut h s) := by
  unfold dumpHeaderPut
  repeat' first
    | with_reducible assumption
    | fail_if_no_progress with_reducible refine Good.mk' ?_

theorem dumpEnd_good {status n bytes : Nat} {s : State} (hg : Good Q s) : Good Q (dumpEnd status n bytes s) := by
  unfold dumpEnd
  repeat' first
    | with_reducible assumption
    | extract_lets
    | fail_if_no_progress with_reducible refine Good.mk' ?_
    | with_reducible apply logAdd_good
    | with_reducible apply aoHold_good
    | with_reducible apply dumpHeaderPut_good
    | split

theorem execCrashDumpComplete_good {io : Io} {s : State} {nx} (hg : Good Q s) (hx : execCrashDumpComplete io s = .next nx) : Good Q nx := by
  unfold execCrashDumpComplete at hx
  refine live_good hx ?_
  repeat' first
    | with_reducible assumption
    | extract_lets
    | fail_if_no_progress with_reducible refine Good.mk' ?_
    | with_reducible apply dumpEnd_good
    | with_reducible apply ownWrite_good
    | with_reducible refine pair_good (by assumption) ?_
    | intro _
    | split

end Sys2Proof.Machine
end

