-- ==== Sys2Proof/Laws/InvJob.lean ====
section
/-! SUPPORT. Every operation of Machine/Job.lean keeps the invariant and the queue. -/

set_option Elab.async false
set_option linter.unreachableTactic false
set_option linter.unusedTactic false

namespace Sys2Proof.Machine

variable {Q : List Instr}

theorem takeRun_good {c n va : Nat} {s t : State} (h : takeRun c n s = some (t, va)) (hg : Good Q s) : Good Q t := by
  unfold takeRun at h
  extract_lets at h
  split at h
  · cases h; exact hg
  · split at h
    · cases h
    · extract_lets at h
      cases h
      exact Good.frame (setRuns_good hg) rfl rfl rfl rfl rfl rfl rfl rfl rfl rfl rfl rfl rfl rfl rfl rfl le_rfl rfl rfl le_rfl

theorem jobParamsReset_good {s : State} (hg : Good Q s) : Good Q (jobParamsReset s) := by
  unfold jobParamsReset
  repeat' first
    | with_reducible assumption
    | fail_if_no_progress with_reducible refine Good.mk' ?_
    | with_reducible refine pair_good (by assumption) ?_
    | intro _
    | split

theorem jobClear_good {s : State} (hg : Good Q s) : Good Q (jobClear s) :=
  hg.frame rfl rfl rfl (by simp [jobClear, hg.inv.slots]) rfl rfl rfl rfl rfl (by simp [jobClear, hg.inv.keyring])
    rfl rfl rfl rfl rfl rfl le_rfl rfl rfl le_rfl

theorem takeRunIf_good {p : Prop} [Decidable p] {c n va : Nat} {s t : State}
    (h : (if p then takeRun c n s else some (s, 0)) = some (t, va)) (hg : Good Q s) : Good Q t := by
  split at h
  · exact takeRun_good h hg
  · cases h; exact hg

theorem openTry_good {tag : Nat} {j : JobDesc} {list : List Byte} {s t : State} (h : openTry tag j list s = .ok t)
    (hg : Good Q s) : Good Q t := by
  unfold openTry at h
  extract_lets members s0 old s1 s2 at h
  have h1 : Good Q s1 := Good.frame (jobClear_good (jobParamsReset_good hg)) rfl rfl rfl rfl rfl rfl rfl rfl rfl rfl rfl rfl rfl rfl rfl rfl le_rfl rfl rfl le_rfl
  have h2 : Good Q s2 := foldl_good h1 fun _ _ hu => poolRebuild_good hu
  repeat' split at h
  all_goals first
    | (cases h; done)
    | (rename_i h5
       have h4 := takeRun_good (by assumption) (installGroup_good (by assumption) h2)
       have h6 := takeRunIf_good h5 h4
       cases h
       exact vaultClose_good (setP_good (setP_good (setP_good (setP_good (setP_good h6))))))

theorem startJobOpen_good {p : Packet} {x : Ext} {order : Nat} {s : State} (hg : Good Q s) : Good Q (startJobOpen p x order s) := by
  unfold startJobOpen
  repeat' first
    | with_reducible assumption
    | extract_lets
    | with_reducible refine openTry_good (by assumption) ?_
    | fail_if_no_progress with_reducible refine Good.mk' ?_
    | with_reducible apply asyncCmd_good
    | with_reducible apply ownRead_good
    | with_reducible apply finish_good
    | with_reducible apply ite_good
    | with_reducible refine pair_good (by assumption) ?_
    | intro _
    | split

theorem execJobOpen_good {p : Packet} {io : Io} {s : State} {nx} (hg : Good Q s) (hx : execJobOpen p io s = .next nx) : Good Q nx := by
  unfold execJobOpen at hx
  refine live_good hx ?_
  repeat' first
    | with_reducible assumption
    | with_reducible apply takeCmd_good
    | with_reducible apply startJobOpen_good
    | intro _

theorem endBraced_good {s : State} (hg : Good Q s) : Good Q (endBraced s) := by
  unfold endBraced
  repeat' first
    | with_reducible assumption
    | with_reducible apply endHeldAll_good
    | intro _

theorem closeAbortAll_good {s : State} (hg : Good Q s) : Good Q (closeAbortAll s) := by
  unfold closeAbortAll
  repeat' first
    | with_reducible assumption
    | extract_lets
    | with_reducible apply tensorAbort_good
    | with_reducible apply endBraced_good
    | with_reducible apply collAbort_good
    | with_reducible apply cancelStep_good
    | with_reducible apply outScrub_good
    | with_reducible apply foldl_good
    | with_reducible apply foldlT_good
    | with_reducible apply foldlT_fst_good
    | intro _
    | split

theorem closeFaulted_good {s : State} (hg : Good Q s) : Good Q (closeFaulted s) := by
  unfold closeFaulted
  repeat' first
    | with_reducible assumption
    | extract_lets
    | fail_if_no_progress with_reducible refine Good.mk' ?_
    | intro _

theorem jobClose_good {abort : Bool} {c : OpenCmd} {s : State} (hg : Good Q s) : Good Q (jobClose abort c s) := by
  unfold jobClose
  repeat' first
    | with_reducible assumption
    | extract_lets
    | fail_if_no_progress with_reducible refine Good.mk' ?_
    | with_reducible apply mmuRetire_good
    | with_reducible apply loseCells_good
    | with_reducible apply endHeldAll_good
    | with_reducible apply finishOpt_good
    | with_reducible apply closeFaulted_good
    | with_reducible apply dumpSample_good
    | with_reducible apply closeTry_good
    | with_reducible apply closeAbortAll_good
    | intro _
    | split

theorem startJobClose_good {p : Packet} {z1 : Ext} {order : Nat} {s : State} (hg : Good Q s) : Good Q (startJobClose p z1 order s) := by
  unfold startJobClose
  repeat' first
    | with_reducible assumption
    | with_reducible apply asyncCmd_good
    | with_reducible apply jobClose_good
    | intro _

theorem execJobClose_good {p : Packet} {s : State} {nx} (hg : Good Q s) (hx : execJobClose p s = .next nx) : Good Q nx := by
  unfold execJobClose at hx
  refine live_good hx ?_
  repeat' first
    | with_reducible assumption
    | with_reducible apply takeCmd_good
    | with_reducible apply startJobClose_good
    | intro _

theorem keepParams_good {s : State} (hg : Good Q s) : Good Q (keepParams s) := by
  unfold keepParams
  repeat' first
    | with_reducible assumption
    | extract_lets
    | fail_if_no_progress with_reducible refine Good.mk' ?_
    | with_reducible apply setP_good
    | with_reducible apply foldl_good
    | with_reducible apply foldlT_good
    | with_reducible apply foldlT_fst_good
    | intro _

theorem jobClosed_good {s : State} (hg : Good Q s) : Good Q (jobClosed s) := by
  unfold jobClosed
  repeat' first
    | with_reducible assumption
    | extract_lets
    | fail_if_no_progress with_reducible refine Good.mk' ?_
    | with_reducible apply endOpen_good
    | with_reducible apply freeCells_good
    | with_reducible apply keepParams_good
    | with_reducible apply releaseRun_good
    | with_reducible apply vaultClose_good
    | with_reducible apply finishOpt_good
    | with_reducible apply jobClear_good
    | with_reducible apply foldl_good
    | with_reducible apply foldlT_good
    | with_reducible apply foldlT_fst_good
    | intro _

theorem execJobDrainComplete_good {s : State} {nx} (hg : Good Q s) (hx : execJobDrainComplete s = .next nx) : Good Q nx := by
  unfold execJobDrainComplete at hx
  refine live_good hx ?_
  repeat' first
    | with_reducible assumption
    | with_reducible apply jobClosed_good
    | intro _
    | split

end Sys2Proof.Machine
end

