-- ==== Sys2Proof/Laws/InvBarrier.lean ====
section
/-! SUPPORT. Every operation of Machine/Barrier.lean keeps the invariant and the queue. -/

set_option Elab.async false
set_option linter.unreachableTactic false
set_option linter.unusedTactic false

namespace Sys2Proof.Machine

variable {Q : List Instr}

theorem noticeSend_good {seat : Nat} {n : Notice} {s : State} (hg : Good Q s) : Good Q (noticeSend seat n s) := by
  unfold noticeSend
  repeat' first
    | with_reducible assumption
    | with_reducible apply sendNotice_good

theorem sendGo_good {s : State} (hg : Good Q s) : Good Q (sendGo s) := by
  unfold sendGo
  repeat' first
    | with_reducible assumption
    | with_reducible apply noticeSend_good
    | with_reducible apply foldl_good
    | with_reducible apply foldlT_good
    | with_reducible apply foldlT_fst_good
    | intro _

theorem takeGo_good {s : State} (hg : Good Q s) : Good Q (takeGo s) := by
  unfold takeGo
  repeat' first
    | with_reducible assumption
    | fail_if_no_progress with_reducible refine Good.mk' ?_
    | with_reducible apply sendGo_good
    | split

theorem barrierTry_good {s : State} (hg : Good Q s) : Good Q (barrierTry s) := by
  unfold barrierTry
  repeat' first
    | with_reducible assumption
    | extract_lets
    | fail_if_no_progress with_reducible refine Good.mk' ?_
    | with_reducible apply takeGo_good
    | with_reducible apply noticeSend_good
    | intro _
    | split

theorem noticeTake_good {n : Notice} {s : State} (hg : Good Q s) : Good Q (noticeTake n s) := by
  unfold noticeTake
  repeat' first
    | with_reducible assumption
    | fail_if_no_progress with_reducible refine Good.mk' ?_
    | with_reducible apply ctrInc_good
    | with_reducible apply barrierTry_good
    | with_reducible apply takeGo_good
    | split

theorem noticeIn_good {n : Notice} {s : State} (hg : Good Q s) : Good Q (noticeIn n s) := by
  unfold noticeIn
  repeat' first
    | with_reducible assumption
    | fail_if_no_progress with_reducible refine Good.mk' ?_
    | with_reducible apply noticeTake_good
    | with_reducible apply ctrInc_good
    | with_reducible refine pair_good (by assumption) ?_
    | split

theorem noticeCame_good {n : Notice} {s : State} (hg : Good Q s) : Good Q (noticeCame n s) := by
  unfold noticeCame
  repeat' first
    | with_reducible assumption
    | with_reducible apply inboxTake_good

theorem execStartBarrierNotice_good {n : Notice} {s : State} {nx} (hg : Good Q s) (hx : execStartBarrierNotice n s = .next nx) : Good Q nx := by
  unfold execStartBarrierNotice at hx
  refine live_good hx ?_
  repeat' first
    | with_reducible assumption
    | with_reducible apply noticeIn_good
    | with_reducible apply noticeCame_good
    | intro _

theorem jobStart_good {release cls : Nat} {c : OpenCmd} {s : State} (hg : Good Q s) : Good Q (jobStart release cls c s) := by
  unfold jobStart
  repeat' first
    | with_reducible assumption
    | extract_lets
    | fail_if_no_progress with_reducible refine Good.mk' ?_
    | with_reducible apply barrierTry_good
    | with_reducible apply noticeTake_good
    | with_reducible apply foldl_good
    | with_reducible apply foldlT_good
    | with_reducible apply foldlT_fst_good
    | intro _
    | split

theorem startJobStart_good {p : Packet} {z1 : Ext} {order : Nat} {s : State} (hg : Good Q s) : Good Q (startJobStart p z1 order s) := by
  unfold startJobStart
  repeat' first
    | with_reducible assumption
    | fail_if_no_progress with_reducible refine Good.mk' ?_
    | with_reducible apply asyncCmd_good
    | with_reducible apply jobStart_good
    | intro _

theorem execJobStart_good {p : Packet} {s : State} {nx} (hg : Good Q s) (hx : execJobStart p s = .next nx) : Good Q nx := by
  unfold execJobStart at hx
  refine live_good hx ?_
  repeat' first
    | with_reducible assumption
    | with_reducible apply takeCmd_good
    | with_reducible apply startJobStart_good
    | intro _

theorem execCalibrationWindow_good {t : Nat} {s : State} {nx} (hg : Good Q s) (hx : execCalibrationWindow t s = .next nx) : Good Q nx := by
  unfold execCalibrationWindow at hx
  refine live_good hx ?_
  repeat' first
    | with_reducible assumption
    | extract_lets
    | fail_if_no_progress with_reducible refine Good.mk' ?_
    | with_reducible apply noticeSend_good
    | with_reducible refine pair_good (by assumption) ?_
    | with_reducible apply foldl_good
    | with_reducible apply foldlT_good
    | with_reducible apply foldlT_fst_good
    | intro _
    | split

theorem execCalibrationRequest_good {link deskew : Nat} {n : Notice} {t2 t3 : Nat} {s : State} {nx} (hg : Good Q s) (hx : execCalibrationRequest link deskew n t2 t3 s = .next nx) : Good Q nx := by
  unfold execCalibrationRequest at hx
  refine live_good hx ?_
  repeat' first
    | with_reducible assumption
    | extract_lets
    | fail_if_no_progress with_reducible refine Good.mk' ?_
    | with_reducible apply noticeCame_good
    | with_reducible apply noticeSend_good
    | with_reducible apply noticeIn_good
    | with_reducible refine pair_good (by assumption) ?_
    | intro _
    | split

theorem execCalibrationReply_good {link deskew : Nat} {n : Notice} {t4 : Nat} {s : State} {nx} (hg : Good Q s) (hx : execCalibrationReply link deskew n t4 s = .next nx) : Good Q nx := by
  unfold execCalibrationReply at hx
  refine live_good hx ?_
  repeat' first
    | with_reducible assumption
    | extract_lets
    | fail_if_no_progress with_reducible refine Good.mk' ?_
    | with_reducible apply noticeCame_good
    | with_reducible apply noticeIn_good
    | intro _
    | split

theorem releaseHeld_good {s : State} {h : Held} (hg : Good Q s) : Good Q (releaseHeld s h) := by
  unfold releaseHeld
  repeat' first
    | with_reducible assumption
    | extract_lets
    | fail_if_no_progress with_reducible refine Good.mk' ?_
    | with_reducible apply beginStep_good
    | with_reducible apply collBegin_good
    | intro _
    | split

theorem enterRunning_good {s : State} (hg : Good Q s) : Good Q (enterRunning s) := by
  unfold enterRunning
  repeat' first
    | with_reducible assumption
    | extract_lets
    | fail_if_no_progress with_reducible refine Good.mk' ?_
    | with_reducible apply ctrInc_good
    | with_reducible apply finishOpt_good
    | with_reducible apply releaseHeld_good
    | with_reducible apply ite_good
    | with_reducible apply foldl_good
    | with_reducible apply foldlT_good
    | with_reducible apply foldlT_fst_good
    | intro _
    | split

theorem releaseMissed_good {s : State} (hg : Good Q s) : Good Q (releaseMissed s) := by
  unfold releaseMissed
  repeat' first
    | with_reducible assumption
    | extract_lets
    | fail_if_no_progress with_reducible refine Good.mk' ?_
    | with_reducible apply freeCells_good
    | with_reducible apply endHeldAll_good
    | with_reducible apply finishOpt_good
    | with_reducible refine pair_good (by assumption) ?_
    | intro _
    | split

theorem execReleaseInstant_good {s : State} {nx} (hg : Good Q s) (hx : execReleaseInstant s = .next nx) : Good Q nx := by
  unfold execReleaseInstant at hx
  refine live_good hx ?_
  repeat' first
    | with_reducible assumption
    | with_reducible apply enterRunning_good
    | with_reducible apply releaseMissed_good
    | intro _
    | split

end Sys2Proof.Machine
end

