-- ==== Sys2Proof/Laws/InvWard.lean ====
section
/-! SUPPORT. Every operation of Machine/Ward.lean keeps the invariant and the queue. -/

set_option Elab.async false
set_option linter.unreachableTactic false
set_option linter.unusedTactic false

namespace Sys2Proof.Machine

variable {Q : List Instr}

theorem ingressLeave_good {src vc seq : Nat} {s : State} (hg : Good Q s) : Good Q (ingressLeave src vc seq s) := by
  unfold ingressLeave
  repeat' first
    | with_reducible assumption
    | fail_if_no_progress with_reducible refine Good.mk' ?_
    | intro _

theorem ingressDrop_good {src vc seq : Nat} {s : State} (hg : Good Q s) : Good Q (ingressDrop src vc seq s) := by
  unfold ingressDrop
  repeat' first
    | with_reducible assumption
    | with_reducible apply pfcCheck_good
    | with_reducible apply freeCells_good
    | with_reducible apply ingressLeave_good
    | intro _

theorem flagRelease_good  : ∀ (x0 : Nat) (x1 : Nat) (x2 : State), Good Q x2 → Good Q (flagRelease x0 x1 x2) := by
  intro x0
  induction x0 with
  | zero =>
    intro x1 x2 hg
    unfold flagRelease
    repeat' first
      | with_reducible assumption
      | extract_lets
      | fail_if_no_progress with_reducible refine Good.mk' ?_
      | with_reducible apply markApplied_good
      | with_reducible apply spWrite_good
      | with_reducible refine pair_good (by assumption) ?_
      | intro _
      | split
  | succ n ih =>
    intro x1 x2 hg
    unfold flagRelease
    repeat' first
      | with_reducible assumption
      | extract_lets
      | fail_if_no_progress with_reducible refine Good.mk' ?_
      | with_reducible apply ih
      | with_reducible apply markApplied_good
      | with_reducible apply spWrite_good
      | with_reducible refine pair_good (by assumption) ?_
      | intro _
      | split

theorem recArrival_good {src vc seq : Nat} {s : State} (hg : Good Q s) : Good Q (recArrival src vc seq s) := by
  unfold recArrival
  repeat' first
    | with_reducible assumption
    | with_reducible apply recOriginal_good
    | with_reducible refine pair_good (by assumption) ?_
    | split

theorem applyWith_good {drop : Nat → Nat → Nat → State → State} {src vc seq : Nat} {s : State} (hdrop : ∀ (x0 : Nat), ∀ (x1 : Nat), ∀ (x2 : Nat), ∀ u, Good Q u → Good Q (drop x0 x1 x2 u)) (hg : Good Q s) : Good Q (applyWith drop src vc seq s) := by
  unfold applyWith
  repeat' first
    | with_reducible assumption
    | extract_lets
    | with_reducible apply hdrop
    | with_reducible apply markApplied_good
    | with_reducible apply recArrival_good
    | with_reducible apply flagRelease_good
    | split

theorem applyDone_good {src vc seq : Nat} {s : State} (hg : Good Q s) : Good Q (applyDone src vc seq s) := by
  unfold applyDone
  repeat' first
    | with_reducible assumption
    | extract_lets
    | fail_if_no_progress with_reducible refine Good.mk' ?_
    | with_reducible apply applyWith_good
    | with_reducible apply ingressDrop_good
    | with_reducible apply ite_good
    | intro _
    | split
    | dsimp +zetaDelta only

theorem homeNack_good {src seq code : Nat} {s : State} (hg : Good Q s) : Good Q (homeNack src seq code s) := by
  unfold homeNack
  repeat' first
    | with_reducible assumption
    | fail_if_no_progress with_reducible refine Good.mk' ?_
    | with_reducible apply sendNack_good
    | with_reducible apply ingressDrop_good
    | with_reducible refine pair_good (by assumption) ?_
    | split

theorem homeRespond_good {src loadTag : Nat} {data : List Byte} {s : State} (hg : Good Q s) : Good Q (homeRespond src loadTag data s) := by
  unfold homeRespond
  repeat' first
    | with_reducible assumption
    | fail_if_no_progress with_reducible refine Good.mk' ?_
    | with_reducible apply sendChunk_good

theorem homeRead_good {src seq off n : Nat} {go : List Byte → State → State} {s : State} (hgo : ∀ (x0 : List Byte), ∀ u, Good Q u → Good Q (go x0 u)) (hg : Good Q s) : Good Q (homeRead src seq off n go s) := by
  unfold homeRead
  repeat' first
    | with_reducible assumption
    | extract_lets
    | with_reducible apply hgo
    | with_reducible apply jobFault_good
    | split

theorem homeLoad_good {src seq loadTag off size : Nat} {s : State} (hg : Good Q s) : Good Q (homeLoad src seq loadTag off size s) := by
  unfold homeLoad
  repeat' first
    | with_reducible assumption
    | with_reducible apply homeNack_good
    | with_reducible apply homeRead_good
    | with_reducible apply applyDone_good
    | with_reducible apply homeRespond_good
    | intro _
    | split

theorem homeStore_good {src seq off : Nat} {data : List Byte} {s : State} (hg : Good Q s) : Good Q (homeStore src seq off data s) := by
  unfold homeStore
  repeat' first
    | with_reducible assumption
    | with_reducible apply homeNack_good
    | with_reducible apply applyDone_good
    | with_reducible apply spWrite_good
    | split

theorem homeFlag_good {src seq off : Nat} {data : List Byte} {s : State} (hg : Good Q s) : Good Q (homeFlag src seq off data s) := by
  unfold homeFlag
  repeat' first
    | with_reducible assumption
    | extract_lets
    | fail_if_no_progress with_reducible refine Good.mk' ?_
    | with_reducible apply homeNack_good
    | with_reducible apply applyDone_good
    | with_reducible apply spWrite_good
    | with_reducible apply ingressDrop_good
    | with_reducible apply recArrival_good
    | with_reducible apply ite_good
    | intro _
    | split
    | dsimp +zetaDelta only

theorem homeAtomic_good {src seq loadTag aop width off a b : Nat} {s : State} (hg : Good Q s) : Good Q (homeAtomic src seq loadTag aop width off a b s) := by
  unfold homeAtomic
  repeat' first
    | with_reducible assumption
    | extract_lets
    | fail_if_no_progress with_reducible refine Good.mk' ?_
    | with_reducible apply homeNack_good
    | with_reducible apply homeRead_good
    | with_reducible apply spWrite_good
    | with_reducible apply applyDone_good
    | with_reducible apply homeRespond_good
    | with_reducible apply ite_good
    | intro _
    | split
    | dsimp +zetaDelta only

theorem execRemoteLoad_good {src seq loadTag off size : Nat} {s : State} {nx} (hg : Good Q s) (hx : execRemoteLoad src seq loadTag off size s = .next nx) : Good Q nx := by
  unfold execRemoteLoad at hx
  refine live_good hx ?_
  repeat' first
    | with_reducible assumption
    | with_reducible apply homeLoad_good
    | intro _
    | split

theorem execRemoteStore_good {src seq off : Nat} {data : List Byte} {s : State} {nx} (hg : Good Q s) (hx : execRemoteStore src seq off data s = .next nx) : Good Q nx := by
  unfold execRemoteStore at hx
  refine live_good hx ?_
  repeat' first
    | with_reducible assumption
    | with_reducible apply homeStore_good
    | intro _
    | split

theorem execFlagStore_good {src seq off : Nat} {data : List Byte} {s : State} {nx} (hg : Good Q s) (hx : execFlagStore src seq off data s = .next nx) : Good Q nx := by
  unfold execFlagStore at hx
  refine live_good hx ?_
  repeat' first
    | with_reducible assumption
    | with_reducible apply homeFlag_good
    | intro _
    | split

theorem execRemoteAtomic_good {src seq loadTag aop width off a b : Nat} {s : State} {nx} (hg : Good Q s) (hx : execRemoteAtomic src seq loadTag aop width off a b s = .next nx) : Good Q nx := by
  unfold execRemoteAtomic at hx
  refine live_good hx ?_
  repeat' first
    | with_reducible assumption
    | with_reducible apply homeAtomic_good
    | intro _
    | split

theorem cachePut_good {l : RLine} {s : State} (hg : Good Q s) : Good Q (cachePut l s) := by
  unfold cachePut
  repeat' first
    | with_reducible assumption
    | extract_lets
    | fail_if_no_progress with_reducible refine Good.mk' ?_
    | intro _

theorem cacheInval_good {all : Bool} {seat off len : Nat} {s : State} (hg : Good Q s) : Good Q (cacheInval all seat off len s) := by
  unfold cacheInval
  repeat' first
    | with_reducible assumption
    | extract_lets
    | fail_if_no_progress with_reducible refine Good.mk' ?_
    | with_reducible apply ite_good
    | intro _
    | split

theorem cacheStore_good {seat off : Nat} {data : List Byte} {s : State} (hg : Good Q s) : Good Q (cacheStore seat off data s) := by
  unfold cacheStore
  repeat' first
    | with_reducible assumption
    | extract_lets
    | fail_if_no_progress with_reducible refine Good.mk' ?_
    | intro _

theorem wardDone_good {core thread : Nat} {data : List Byte} {s : State} (hg : Good Q s) : Good Q (wardDone core thread data s) := by
  unfold wardDone
  repeat' first
    | with_reducible assumption
    | fail_if_no_progress with_reducible refine Good.mk' ?_
    | intro _

theorem loadAdd_good {r : RLoad} {s : State} (hg : Good Q s) : Good Q (loadAdd r s) := by
  unfold loadAdd
  repeat' first
    | with_reducible assumption
    | fail_if_no_progress with_reducible refine Good.mk' ?_

theorem switchOut_good {core : Nat} {s : State} (hg : Good Q s) : Good Q (switchOut core s) := by
  unfold switchOut
  repeat' first
    | with_reducible assumption
    | with_reducible apply ctrInc_good

theorem issueLoad_good {r : RLoad} {s : State} (hg : Good Q s) : Good Q (issueLoad r s) := by
  unfold issueLoad
  repeat' first
    | with_reducible assumption
    | extract_lets
    | fail_if_no_progress with_reducible refine Good.mk' ?_
    | with_reducible apply wardDone_good
    | with_reducible apply switchOut_good
    | with_reducible apply loadAdd_good
    | with_reducible apply sendChunk_good
    | with_reducible refine pair_good (by assumption) ?_
    | split

theorem issueAtomic_good {r : RLoad} {s : State} (hg : Good Q s) : Good Q (issueAtomic r s) := by
  unfold issueAtomic
  repeat' first
    | with_reducible assumption
    | extract_lets
    | fail_if_no_progress with_reducible refine Good.mk' ?_
    | with_reducible apply switchOut_good
    | with_reducible apply loadAdd_good
    | with_reducible apply sendChunk_good
    | intro _
    | split

theorem issueAccess_good {r : RLoad} {s : State} (hg : Good Q s) : Good Q (issueAccess r s) := by
  unfold issueAccess
  repeat' first
    | with_reducible assumption
    | fail_if_no_progress with_reducible refine Good.mk' ?_
    | with_reducible apply loadAdd_good
    | with_reducible apply issueAtomic_good
    | with_reducible apply issueLoad_good
    | split

theorem issueWaiting_good {s : State} (hg : Good Q s) : Good Q (issueWaiting s) := by
  unfold issueWaiting
  repeat' first
    | with_reducible assumption
    | fail_if_no_progress with_reducible refine Good.mk' ?_
    | with_reducible apply issueAccess_good
    | with_reducible apply foldl_good
    | with_reducible apply foldlT_good
    | with_reducible apply foldlT_fst_good
    | intro _
    | split

theorem wardAcked_good {s : State} (hg : Good Q s) : Good Q (wardAcked s) := by
  unfold wardAcked
  repeat' first
    | with_reducible assumption
    | fail_if_no_progress with_reducible refine Good.mk' ?_
    | with_reducible apply issueWaiting_good
    | intro _

theorem storeIssued_good {core thread seat off : Nat} {data : List Byte} {r : State × Nat} (hg : Good Q r.1) : Good Q (storeIssued core thread seat off data r) := by
  unfold storeIssued
  repeat' first
    | with_reducible assumption
    | fail_if_no_progress with_reducible refine Good.mk' ?_
    | with_reducible apply wardAcked_good
    | with_reducible apply cacheStore_good
    | with_reducible apply switchOut_good

theorem execRld_good {core thread size seat off : Nat} {s : State} {nx} (hg : Good Q s) (hx : execRld core thread size seat off s = .next nx) : Good Q nx := by
  unfold execRld at hx
  refine live_good hx ?_
  repeat' first
    | with_reducible assumption
    | with_reducible apply issueAccess_good
    | intro _
    | split

theorem execRstr_good {core thread seat off srcOff len : Nat} {s : State} {nx} (hg : Good Q s) (hx : execRstr core thread seat off srcOff len s = .next nx) : Good Q nx := by
  unfold execRstr at hx
  refine live_good hx ?_
  repeat' first
    | with_reducible assumption
    | extract_lets
    | fail_if_no_progress with_reducible refine Good.mk' ?_
    | with_reducible apply jobFault_good
    | with_reducible apply spCount_good
    | with_reducible apply storeIssued_good
    | with_reducible apply sendMsg_good
    | intro _
    | split

theorem execRstf_good {core thread seat off len value : Nat} {s : State} {nx} (hg : Good Q s) (hx : execRstf core thread seat off len value s = .next nx) : Good Q nx := by
  unfold execRstf at hx
  refine live_good hx ?_
  repeat' first
    | with_reducible assumption
    | extract_lets
    | fail_if_no_progress with_reducible refine Good.mk' ?_
    | with_reducible apply storeIssued_good
    | with_reducible apply sendChunk_good
    | intro _
    | split

theorem execRamo_good {core thread aop width seat off a b : Nat} {s : State} {nx} (hg : Good Q s) (hx : execRamo core thread aop width seat off a b s = .next nx) : Good Q nx := by
  unfold execRamo at hx
  refine live_good hx ?_
  repeat' first
    | with_reducible assumption
    | with_reducible apply issueAccess_good
    | intro _
    | split

theorem execRinv_good {core thread : Nat} {all : Bool} {seat off len : Nat} {s : State} {nx} (hg : Good Q s) (hx : execRinv core thread all seat off len s = .next nx) : Good Q nx := by
  unfold execRinv at hx
  refine live_good hx ?_
  repeat' first
    | with_reducible assumption
    | with_reducible apply cacheInval_good
    | intro _
    | split

theorem loadResponse_good {src loadTag : Nat} {data : List Byte} {s : State} (hg : Good Q s) : Good Q (loadResponse src loadTag data s) := by
  unfold loadResponse
  repeat' first
    | with_reducible assumption
    | extract_lets
    | fail_if_no_progress with_reducible refine Good.mk' ?_
    | with_reducible apply wardDone_good
    | with_reducible apply cachePut_good
    | with_reducible refine pair_good (by assumption) ?_
    | split

theorem execLoadResponseReceive_good {src loadTag : Nat} {data : List Byte} {s : State} {nx} (hg : Good Q s) (hx : execLoadResponseReceive src loadTag data s = .next nx) : Good Q nx := by
  unfold execLoadResponseReceive at hx
  refine live_good hx ?_
  repeat' first
    | with_reducible assumption
    | with_reducible apply loadResponse_good
    | intro _
    | split

theorem startRemoteInval_good {p : Packet} {z1 : Ext} {order : Nat} {s : State} (hg : Good Q s) : Good Q (startRemoteInval p z1 order s) := by
  unfold startRemoteInval
  repeat' first
    | with_reducible assumption
    | with_reducible apply syncCmd_good
    | with_reducible apply replyOne_good
    | with_reducible apply cacheInval_good
    | intro _

theorem execRemoteInval_good {p : Packet} {s : State} {nx} (hg : Good Q s) (hx : execRemoteInval p s = .next nx) : Good Q nx := by
  unfold execRemoteInval at hx
  refine live_good hx ?_
  repeat' first
    | with_reducible assumption
    | with_reducible apply takeCmd_good
    | with_reducible apply startRemoteInval_good
    | intro _

end Sys2Proof.Machine
end

