-- ==== Sys2Proof/Laws/InvKft.lean ====
section
/-! SUPPORT. Every operation of Machine/Kft.lean keeps the invariant and the queue. -/

set_option Elab.async false
set_option linter.unreachableTactic false
set_option linter.unusedTactic false

namespace Sys2Proof.Machine

variable {Q : List Instr}

theorem ackFollow_good {seat : Nat} {s : State} (hg : Good Q s) : Good Q (ackFollow seat s) := by
  unfold ackFollow
  repeat' first
    | with_reducible assumption
    | extract_lets
    | with_reducible apply resendAll_good
    | with_reducible apply closeTry_good
    | with_reducible apply wardAcked_good
    | with_reducible apply chunkPump_good
    | with_reducible apply freeSent_good
    | with_reducible apply exchangeAcked_good
    | intro _

theorem fastResend_good {seat vc : Nat} {s : State} (hg : Good Q s) : Good Q (fastResend seat vc s) := by
  unfold fastResend
  repeat' first
    | with_reducible assumption
    | with_reducible apply resendAll_good
    | intro _

theorem execKftAckReceive_good {h : KftHdr} {s : State} {nx} (hg : Good Q s) (hx : execKftAckReceive h s = .next nx) : Good Q nx := by
  unfold execKftAckReceive at hx
  refine live_good hx ?_
  repeat' first
    | with_reducible assumption
    | extract_lets
    | fail_if_no_progress with_reducible refine Good.mk' ?_
    | with_reducible apply takeCoverage_good
    | with_reducible apply ackFollow_good
    | with_reducible apply fastResend_good
    | with_reducible apply ite_good
    | intro _
    | split

theorem nackAct_good {c : TxChunk} {code : Nat} {s : State} (hg : Good Q s) : Good Q (nackAct c code s) := by
  unfold nackAct
  repeat' first
    | with_reducible assumption
    | extract_lets
    | fail_if_no_progress with_reducible refine Good.mk' ?_
    | with_reducible apply jobFault_good
    | with_reducible apply putChunk_good
    | with_reducible apply resend_good
    | split

theorem execKftNackReceive_good {h : KftHdr} {s : State} {nx} (hg : Good Q s) (hx : execKftNackReceive h s = .next nx) : Good Q nx := by
  unfold execKftNackReceive at hx
  refine live_good hx ?_
  repeat' first
    | with_reducible assumption
    | extract_lets
    | with_reducible apply ctrInc_good
    | with_reducible apply ackFollow_good
    | with_reducible apply takeCoverage_good
    | with_reducible apply nackAct_good
    | with_reducible apply ite_good
    | with_reducible refine pair_good (by assumption) ?_
    | intro _
    | split

theorem execKftAckDelayExpiry_good {seat vc : Nat} {s : State} {nx} (hg : Good Q s) (hx : execKftAckDelayExpiry seat vc s = .next nx) : Good Q nx := by
  unfold execKftAckDelayExpiry at hx
  refine live_good hx ?_
  repeat' first
    | with_reducible assumption
    | with_reducible apply sendAck_good
    | intro _
    | split

theorem spraySet_good {link dst : Nat} {s : State} (hg : Good Q s) : Good Q (spraySet link dst s) := by
  unfold spraySet
  repeat' first
    | with_reducible assumption
    | with_reducible apply bumpPath_good
    | split

theorem missCount_good {link dst : Nat} {s : State} (hg : Good Q s) : Good Q (missCount link dst s) := by
  unfold missCount
  repeat' first
    | with_reducible assumption
    | extract_lets
    | fail_if_no_progress with_reducible refine Good.mk' ?_
    | with_reducible apply spraySet_good
    | with_reducible refine pair_good (by assumption) ?_
    | intro _
    | split

theorem noLinkTry_good {dst vc seq : Nat} {s : State} (hg : Good Q s) : Good Q (noLinkTry dst vc seq s) := by
  unfold noLinkTry
  repeat' first
    | with_reducible assumption
    | fail_if_no_progress with_reducible refine Good.mk' ?_
    | with_reducible apply putChunk_good
    | with_reducible refine pair_good (by assumption) ?_
    | split

theorem execKftRetransmitTimeout_good {dst vc seq : Nat} {s : State} {nx} (hg : Good Q s) (hx : execKftRetransmitTimeout dst vc seq s = .next nx) : Good Q nx := by
  unfold execKftRetransmitTimeout at hx
  refine live_good hx ?_
  repeat' first
    | with_reducible assumption
    | with_reducible apply resend_good
    | with_reducible apply noLinkTry_good
    | with_reducible apply missCount_good
    | with_reducible refine pair_good (by assumption) ?_
    | intro _
    | split

theorem execPathHoldoffExpiry_good {link dst : Nat} {s : State} {nx} (hg : Good Q s) (hx : execPathHoldoffExpiry link dst s = .next nx) : Good Q nx := by
  unfold execPathHoldoffExpiry at hx
  refine live_good hx ?_
  repeat' first
    | with_reducible assumption
    | fail_if_no_progress with_reducible refine Good.mk' ?_
    | with_reducible apply pumpTx_good
    | with_reducible apply spraySet_good
    | intro _
    | split

theorem stateDrop_good {f : Frame} {s : State} (hg : Good Q s) : Good Q (stateDrop f s) := by
  unfold stateDrop
  repeat' first
    | with_reducible assumption
    | fail_if_no_progress with_reducible refine Good.mk' ?_
    | with_reducible apply ctrInc_good
    | with_reducible refine pair_good (by assumption) ?_
    | split

theorem ingressAdd_good {c : RxChunk} {s : State} (hg : Good Q s) : Good Q (ingressAdd c s) := by
  unfold ingressAdd
  repeat' first
    | with_reducible assumption
    | fail_if_no_progress with_reducible refine Good.mk' ?_
    | with_reducible apply pfcCheck_good
    | with_reducible apply carafeAsk_good

theorem frameAdmit_good {hinge link : Nat} {f : Frame} {s : State} (hg : Good Q s) : Good Q (frameAdmit hinge link f s) := by
  unfold frameAdmit
  repeat' first
    | with_reducible assumption
    | extract_lets
    | fail_if_no_progress with_reducible refine Good.mk' ?_
    | with_reducible apply ackFollow_good
    | with_reducible apply takeCoverage_good
    | with_reducible apply sendAck_good
    | with_reducible apply sendNack_good
    | with_reducible apply ctrInc_good
    | with_reducible apply ingressAdd_good
    | with_reducible apply ite_good
    | intro _
    | split
    | dsimp +zetaDelta only

theorem fecCount_good {k : Nat} {f : Frame} {s : State} (hg : Good Q s) : Good Q (fecCount k f s) := by
  unfold fecCount
  repeat' first
    | with_reducible assumption
    | with_reducible apply ctrAdd_good
    | with_reducible apply foldl_good
    | with_reducible apply foldlT_good
    | with_reducible apply foldlT_fst_good
    | intro _

theorem pnSeen_good {f : Frame} {s : State} (hg : Good Q s) : Good Q (pnSeen f s) := by
  unfold pnSeen
  repeat' first
    | with_reducible assumption
    | fail_if_no_progress with_reducible refine Good.mk' ?_

theorem execKftFrameReceive_good {hinge link : Nat} {f : Frame} {s : State} {nx} (hg : Good Q s) (hx : execKftFrameReceive hinge link f s = .next nx) : Good Q nx := by
  unfold execKftFrameReceive at hx
  refine live_good hx ?_
  repeat' first
    | with_reducible assumption
    | extract_lets
    | with_reducible apply ctrInc_good
    | with_reducible apply ctrAdd_good
    | with_reducible apply fecCount_good
    | with_reducible apply pnSeen_good
    | with_reducible apply stateDrop_good
    | with_reducible apply frameAdmit_good
    | with_reducible refine pair_good (by assumption) ?_
    | intro _
    | split

theorem messageTake_good {c : RxChunk} {s : State} (hg : Good Q s) : Good Q (messageTake c s) := by
  unfold messageTake
  repeat' first
    | with_reducible assumption
    | extract_lets
    | fail_if_no_progress with_reducible refine Good.mk' ?_
    | intro _
    | split

theorem answerNote_good {c : RxChunk} {take : Bool} {s : State} (hg : Good Q s) : Good Q (answerNote c take s) := by
  unfold answerNote
  repeat' first
    | with_reducible assumption
    | extract_lets
    | fail_if_no_progress with_reducible refine Good.mk' ?_
    | with_reducible apply ite_good
    | intro _
    | split

theorem chunkWrite_good {va : Nat} {b : List Byte} {io : Io} {go : State → State} {s : State} (hgo : ∀ u, Good Q u → Good Q (go u)) (hg : Good Q s) : Good Q (chunkWrite va b io go s) := by
  unfold chunkWrite
  repeat' first
    | with_reducible assumption
    | with_reducible refine setHost_write ?_ _ _
    | fail_if_no_progress with_reducible refine Good.mk' ?_
    | with_reducible apply hgo
    | with_reducible apply xlateRange_good
    | with_reducible apply xlateFault_good
    | with_reducible apply jobIo_good
    | with_reducible refine pair_good (by assumption) ?_
    | intro _
    | split

theorem chunkApply_good {c : RxChunk} {io : Io} {s : State} (hg : Good Q s) : Good Q (chunkApply c io s) := by
  unfold chunkApply
  repeat' first
    | with_reducible assumption
    | extract_lets
    | with_reducible apply applyDone_good
    | with_reducible apply chunkWrite_good
    | with_reducible apply answerNote_good
    | with_reducible apply homeLoad_good
    | with_reducible apply homeAtomic_good
    | with_reducible apply homeFlag_good
    | with_reducible apply homeStore_good
    | with_reducible apply applyWith_good
    | with_reducible apply ingressLeave_good
    | with_reducible apply messageTake_good
    | with_reducible apply loadResponse_good
    | with_reducible refine pair_good (by assumption) ?_
    | intro _
    | split

theorem execKftChunkApply_good {src vc seq : Nat} {io : Io} {s : State} {nx} (hg : Good Q s) (hx : execKftChunkApply src vc seq io s = .next nx) : Good Q nx := by
  unfold execKftChunkApply at hx
  refine live_good hx ?_
  repeat' first
    | with_reducible assumption
    | with_reducible apply ingressDrop_good
    | with_reducible apply chunkApply_good
    | with_reducible refine pair_good (by assumption) ?_
    | intro _
    | split

theorem execReplayArrivalInject_good {funnel : Nat} {h : KftHdr} {payload : List Byte} {full : Bool} {io : Io} {s : State} {nx} (hg : Good Q s) (hx : execReplayArrivalInject funnel h payload full io s = .next nx) : Good Q nx := by
  unfold execReplayArrivalInject at hx
  refine live_good hx ?_
  repeat' first
    | with_reducible assumption
    | extract_lets
    | with_reducible apply funnelTake_good
    | with_reducible apply ingressAdd_good
    | with_reducible apply chunkApply_good
    | intro _
    | split

theorem startFence_good {p : Packet} {z1 : Ext} {order : Nat} {s : State} (hg : Good Q s) : Good Q (startFence p z1 order s) := by
  unfold startFence
  repeat' first
    | with_reducible assumption
    | fail_if_no_progress with_reducible refine Good.mk' ?_
    | with_reducible apply asyncCmd_good
    | with_reducible apply fenceStart_good
    | intro _

theorem execFence_good {p : Packet} {s : State} {nx} (hg : Good Q s) (hx : execFence p s = .next nx) : Good Q nx := by
  unfold execFence at hx
  refine live_good hx ?_
  repeat' first
    | with_reducible assumption
    | with_reducible apply takeCmd_good
    | with_reducible apply startFence_good
    | intro _

end Sys2Proof.Machine
end

