-- ==== Sys2Proof/Laws/InvRelease.lean ====
section
/-! SUPPORT. Every operation of Machine/Release.lean keeps the invariant and the queue. -/

set_option Elab.async false
set_option linter.unreachableTactic false
set_option linter.unusedTactic false

namespace Sys2Proof.Machine

variable {Q : List Instr}

theorem startCommand_good {p : Packet} {x : Ext} {order : Nat} {s : State} (hg : Good Q s) : Good Q (startCommand p x order s) := by
  unfold startCommand
  repeat' first
    | with_reducible assumption
    | with_reducible apply startEcho_good
    | with_reducible apply startIdentify_good
    | with_reducible apply startParamGet_good
    | with_reducible apply startParamSet_good
    | with_reducible apply startSnapshot_good
    | with_reducible apply startJobOpen_good
    | with_reducible apply startJobClose_good
    | with_reducible apply startJobStart_good
    | with_reducible apply startLayerLoad_good
    | with_reducible apply startKeyringCommit_good
    | with_reducible apply startTableLoad_good
    | with_reducible apply startStepRun_good
    | with_reducible apply startBatchCancel_good
    | with_reducible apply startBatchPreempt_good
    | with_reducible apply startBatchResume_good
    | with_reducible apply startTensorCopy_good
    | with_reducible apply startGather_good
    | with_reducible apply startScatterAcc_good
    | with_reducible apply startGroupDefine_good
    | with_reducible apply startCollPost_good
    | with_reducible apply startFence_good
    | with_reducible apply startPourStart_good
    | with_reducible apply startPourAbort_good
    | with_reducible apply startPourRestartAll_good
    | with_reducible apply startPourResume_good
    | with_reducible apply startMmuMap_good
    | with_reducible apply startMmuUnmap_good
    | with_reducible apply startMmuInval_good
    | with_reducible apply startPoolConfig_good
    | with_reducible apply startRemoteInval_good
    | with_reducible apply startTimeCfg_good
    | with_reducible apply startFwStage_good
    | with_reducible apply startFwActivate_good
    | with_reducible apply startVaultRead_good
    | with_reducible apply startVaultPeriodClose_good
    | with_reducible apply startTraceCfg_good
    | with_reducible apply startDomainReset_good
    | with_reducible apply startDumpRead_good
    | with_reducible refine pair_good (by assumption) ?_
    | split

theorem heldDrop_good {h : Held} {s : State} (hg : Good Q s) : Good Q (heldDrop h s) := by
  unfold heldDrop
  repeat' first
    | with_reducible assumption
    | fail_if_no_progress with_reducible refine Good.mk' ?_
    | intro _

theorem releaseAfter_good  : ∀ (x0 : Nat) (x1 : State), Good Q x1 → Good Q (releaseAfter x0 x1) := by
  intro x0
  induction x0 with
  | zero =>
    intro x1 hg
    unfold releaseAfter
    repeat' first
      | with_reducible assumption
      | with_reducible apply startCommand_good
      | with_reducible apply heldDrop_good
      | with_reducible refine pair_good (by assumption) ?_
      | split
  | succ n ih =>
    intro x1 hg
    unfold releaseAfter
    repeat' first
      | with_reducible assumption
      | with_reducible apply ih
      | with_reducible apply startCommand_good
      | with_reducible apply heldDrop_good
      | with_reducible refine pair_good (by assumption) ?_
      | split

theorem execDomainSelfCheck_good {code : Nat} {ok : Bool} {s : State} {nx} (hg : Good Q s) (hx : execDomainSelfCheck code ok s = .next nx) : Good Q nx := by
  unfold execDomainSelfCheck at hx
  refine live_good hx ?_
  repeat' first
    | with_reducible assumption
    | fail_if_no_progress with_reducible refine Good.mk' ?_
    | with_reducible apply releaseAfter_good
    | with_reducible apply domRejoin_good
    | with_reducible apply domJobFault_good
    | with_reducible apply setDom_good
    | with_reducible refine pair_good (by assumption) ?_
    | intro _
    | split

theorem reHold_good {why : HoldWhy} {h : Held} {s : State} (hg : Good Q s) : Good Q (reHold why h s) := by
  unfold reHold
  repeat' first
    | with_reducible assumption
    | fail_if_no_progress with_reducible refine Good.mk' ?_

theorem unbraceOne_good {h : Held} {s : State} (hg : Good Q s) : Good Q (unbraceOne h s) := by
  unfold unbraceOne
  repeat' first
    | with_reducible assumption
    | extract_lets
    | with_reducible apply heldDrop_good
    | with_reducible apply reHold_good
    | with_reducible apply beginStep_good
    | with_reducible apply startBatchResume_good
    | with_reducible apply tensorBegin_good
    | with_reducible apply runCopy_good
    | with_reducible apply runGather_good
    | with_reducible apply runScatter_good
    | with_reducible apply collBegin_good
    | with_reducible apply runPourStart_good
    | with_reducible refine pair_good (by assumption) ?_
    | split

theorem unbraceAll_good {s : State} (hg : Good Q s) : Good Q (unbraceAll s) := by
  unfold unbraceAll
  repeat' first
    | with_reducible assumption
    | with_reducible apply unbraceOne_good
    | with_reducible apply foldl_good
    | with_reducible apply foldlT_good
    | with_reducible apply foldlT_fst_good
    | intro _

theorem slotFree_good {s : State} (hg : Good Q s) : Good Q (slotFree s) :=
  setLatch_good hg hg.inv.completions (Nat.min_le_left ..)

theorem takeReply_good {r : Reply} {s : State} (hg : Good Q s) : Good Q (takeReply r s) := by
  have h1 : Good Q { s with latch := { s.latch with
      replies := s.latch.replies.erase r,
      completions := if r.entry then s.latch.completions - 1 else s.latch.completions } } := by
    refine setLatch_good hg ?_ hg.inv.free
    have := hg.inv.completions
    simp only
    split <;> omega
  unfold takeReply
  extract_lets
  split
  · exact slotFree_good h1
  · exact h1

theorem fatalNext_good {s : State} (hg : Good Q s) : Good Q (fatalNext s) := by
  have := hg.inv.fatal
  unfold fatalNext
  extract_lets q
  refine setEv_good hg ?_ hg.inv.other
  simp only [List.length_append, List.length_drop, List.length_take, q]
  omega

theorem takeSource_good {x : Source} {s : State} (hg : Good Q s) : Good Q (takeSource x s).1 := by
  unfold takeSource
  split
  · exact ctrInc_good (fatalNext_good hg)
  · exact ctrInc_good (setEv_good hg hg.inv.fatal hg.inv.other)
  · refine ctrInc_good (setEv_good hg hg.inv.fatal ?_)
    have := hg.inv.other
    simp only [List.length_drop]
    omega
  · exact ctrInc_good (Good.mk' hg)
  · exact ctrInc_good (takeReply_good hg)

theorem pickSource_good {l : List Source} {s : State} (hg : Good Q s) : Good Q (pickSource l s).1 := by
  unfold pickSource
  repeat' first
    | with_reducible assumption
    | fail_if_no_progress with_reducible refine Good.mk' ?_
    | with_reducible refine pair_good (by assumption) ?_
    | split

theorem takeRecord_good {s : State} (hg : Good Q s) : Good Q (takeRecord s) := by
  unfold takeRecord
  repeat' first
    | with_reducible assumption
    | extract_lets
    | fail_if_no_progress with_reducible refine Good.mk' ?_
    | with_reducible apply ctrInc_good
    | with_reducible apply slotFree_good
    | with_reducible apply pickSource_good
    | with_reducible apply takeSource_good
    | with_reducible refine pair_good (by assumption) ?_
    | intro _
    | split

theorem execReplyBeatTaken_good {two bad : Bool} {s : State} {nx} (hg : Good Q s) (hx : execReplyBeatTaken two bad s = .next nx) : Good Q nx := by
  unfold execReplyBeatTaken at hx
  refine live_good hx ?_
  repeat' first
    | with_reducible assumption
    | extract_lets
    | fail_if_no_progress with_reducible refine Good.mk' ?_
    | with_reducible apply takeRecord_good
    | with_reducible apply releaseAfter_good
    | with_reducible apply ite_good
    | intro _
    | split

end Sys2Proof.Machine
end

