-- ==== Sys2Proof/Laws/InvBrace.lean ====
section
/-! SUPPORT. Every operation of Machine/Brace.lean keeps the invariant and the queue. -/

set_option Elab.async false
set_option linter.unreachableTactic false
set_option linter.unusedTactic false

namespace Sys2Proof.Machine

variable {Q : List Instr}

theorem braceTo_good {b : BraceState} {s : State} (hg : Good Q s) : Good Q (braceTo b s) := by
  unfold braceTo
  repeat' first
    | with_reducible assumption
    | fail_if_no_progress with_reducible refine Good.mk' ?_
    | with_reducible apply dripAt_good

theorem sampleVin_good {s : State} (hg : Good Q s) : Good Q (sampleVin s).1 := by
  unfold sampleVin
  repeat' first
    | with_reducible assumption
    | fail_if_no_progress with_reducible refine Good.mk' ?_

theorem aoPut_good {s : State} (hg : Good Q s) : ∀ x : AoWrite, Good Q (aoPut s x) := by
  rintro (_ | _ | _ | _ | _)
  · exact ledgerPut_good hg
  · exact Good.mk' hg
  · exact advisoryEnd_good hg
  · exact dumpHeaderPut_good hg
  · exact escPut_good hg

theorem aoResume_good {s : State} (hg : Good Q s) : Good Q (aoResume s) := by
  unfold aoResume
  repeat' first
    | with_reducible assumption
    | extract_lets
    | exact aoPut_good (by assumption) _
    | fail_if_no_progress with_reducible refine Good.mk' ?_
    | with_reducible apply logResume_good
    | with_reducible apply aoPut_good
    | with_reducible apply vaultWriteAll_good
    | with_reducible apply ite_good
    | with_reducible apply foldl_good
    | with_reducible apply foldl_fst_good
    | with_reducible apply foldlT_good
    | with_reducible apply foldlT_fst_good
    | intro _
    | split
    | dsimp +zetaDelta only

theorem braceLeave_good {s : State} (hg : Good Q s) : Good Q (braceLeave s) := by
  unfold braceLeave
  repeat' first
    | with_reducible assumption
    | extract_lets
    | fail_if_no_progress with_reducible refine Good.mk' ?_
    | with_reducible apply braceTo_good
    | with_reducible apply planUnbrace_good
    | with_reducible apply unbraceAll_good
    | with_reducible apply emit_good

theorem braceTry_good {s : State} (hg : Good Q s) : Good Q (braceTry s) := by
  unfold braceTry
  repeat' first
    | with_reducible assumption
    | with_reducible apply braceLeave_good
    | split

theorem holdoffStart_good {s : State} (hg : Good Q s) : Good Q (holdoffStart s) := by
  unfold holdoffStart
  repeat' first
    | with_reducible assumption
    | fail_if_no_progress with_reducible refine Good.mk' ?_
    | with_reducible apply braceTry_good
    | split

theorem execPwrWarnActed_good {s : State} {nx} (hg : Good Q s) (hx : execPwrWarnActed s = .next nx) : Good Q nx := by
  unfold execPwrWarnActed at hx
  refine live_good hx ?_
  repeat' first
    | with_reducible assumption
    | extract_lets
    | fail_if_no_progress with_reducible refine Good.mk' ?_
    | with_reducible apply sampleVin_good
    | with_reducible apply braceTo_good
    | intro _
    | split

theorem execBraceInflightDone_good {s : State} {nx} (hg : Good Q s) (hx : execBraceInflightDone s = .next nx) : Good Q nx := by
  unfold execBraceInflightDone at hx
  refine live_good hx ?_
  repeat' first
    | with_reducible assumption
    | extract_lets
    | with_reducible apply vaultWriteAll_good
    | with_reducible apply braceTo_good
    | with_reducible apply signReading_good
    | with_reducible apply hostWrite_good
    | with_reducible apply vaultStatus_good
    | with_reducible refine pair_good (by assumption) ?_
    | intro _
    | split

theorem sealBroken_good {va err : Nat} {s : State} (hg : Good Q s) : Good Q (sealBroken va err s) := by
  unfold sealBroken
  repeat' first
    | with_reducible assumption
    | with_reducible apply xlateRange_good
    | with_reducible apply writeBroken_good
    | with_reducible refine pair_good (by assumption) ?_
    | split

theorem execBraceSealed_good {err : Nat} {s : State} {nx} (hg : Good Q s) (hx : execBraceSealed err s = .next nx) : Good Q nx := by
  unfold execBraceSealed at hx
  refine live_good hx ?_
  repeat' first
    | with_reducible assumption
    | extract_lets
    | with_reducible apply sealBroken_good
    | with_reducible apply emit_good
    | with_reducible apply braceTo_good
    | with_reducible apply braceTry_good
    | with_reducible apply vaultStatus_good
    | with_reducible apply ite_good
    | intro _
    | split

theorem execPwrWarnClear_good {s : State} {nx} (hg : Good Q s) (hx : execPwrWarnClear s = .next nx) : Good Q nx := by
  unfold execPwrWarnClear at hx
  refine live_good hx ?_
  repeat' first
    | with_reducible assumption
    | fail_if_no_progress with_reducible refine Good.mk' ?_
    | with_reducible apply holdoffStart_good
    | intro _
    | split

theorem execBraceHoldoffExpiry_good {s : State} {nx} (hg : Good Q s) (hx : execBraceHoldoffExpiry s = .next nx) : Good Q nx := by
  unfold execBraceHoldoffExpiry at hx
  refine live_good hx ?_
  repeat' first
    | with_reducible assumption
    | fail_if_no_progress with_reducible refine Good.mk' ?_
    | with_reducible apply braceTry_good
    | intro _
    | split

theorem supplyFault_good {e : Event} {s : State} (hg : Good Q s) : Good Q (supplyFault e s) := by
  unfold supplyFault
  repeat' first
    | with_reducible assumption
    | with_reducible apply endHeldAll_good
    | with_reducible apply ctrInc_good
    | with_reducible apply enterFaulted_good
    | with_reducible refine pair_good (by assumption) ?_
    | intro _
    | split

theorem execPwrResetRise_good {s : State} {nx} (hg : Good Q s) (hx : execPwrResetRise s = .next nx) : Good Q nx := by
  unfold execPwrResetRise at hx
  refine live_good hx ?_
  repeat' first
    | with_reducible assumption
    | extract_lets
    | fail_if_no_progress with_reducible refine Good.mk' ?_
    | with_reducible apply sampleVin_good
    | with_reducible apply braceTo_good
    | with_reducible apply logAdd_good
    | with_reducible apply supplyFault_good
    | with_reducible apply evSend_good
    | with_reducible apply ite_good
    | intro _
    | split

theorem execPwrResetFall_good {warn : Bool} {s : State} {nx} (hg : Good Q s) (hx : execPwrResetFall warn s = .next nx) : Good Q nx := by
  unfold execPwrResetFall at hx
  refine live_good hx ?_
  repeat' first
    | with_reducible assumption
    | extract_lets
    | fail_if_no_progress with_reducible refine Good.mk' ?_
    | with_reducible apply aoResume_good
    | with_reducible apply braceTo_good
    | with_reducible apply holdoffStart_good
    | intro _
    | split

end Sys2Proof.Machine
end

