-- ==== Sys2Proof/Laws/InvTick.lean ====
section
/-! SUPPORT. Every operation of Machine/Tick.lean keeps the invariant and the queue. -/

set_option Elab.async false
set_option linter.unreachableTactic false
set_option linter.unusedTactic false

namespace Sys2Proof.Machine

variable {Q : List Instr}

theorem stallCount_good {n : Nat} {s : State} (hg : Good Q s) : Good Q (stallCount n s) := by
  unfold stallCount
  repeat' first
    | with_reducible assumption
    | fail_if_no_progress with_reducible refine Good.mk' ?_
    | with_reducible apply ctrAdd_good
    | with_reducible refine pair_good (by assumption) ?_
    | with_reducible apply foldl_good
    | with_reducible apply foldlT_good
    | with_reducible apply foldlT_fst_good
    | intro _
    | split

theorem tick_good {s : State} (hg : Good Q s) : Good Q (tick s) := by
  unfold tick
  repeat' first
    | with_reducible assumption
    | extract_lets
    | fail_if_no_progress with_reducible refine Good.mk' ?_
    | with_reducible apply stallCount_good
    | with_reducible apply dumpSample_good
    | with_reducible apply ite_good
    | intro _
    | split
    | dsimp +zetaDelta only

end Sys2Proof.Machine
end

