-- ==== Sys2Proof/Laws/InvReset.lean ====
section
/-! SUPPORT. Every operation of Machine/Reset.lean keeps the invariant and the queue. -/

set_option Elab.async false
set_option linter.unreachableTactic false
set_option linter.unusedTactic false

namespace Sys2Proof.Machine

variable {Q : List Instr}

theorem porJob_good {s : State} (hg : Good Q s) : Good Q (porJob s) := by
  unfold porJob
  repeat' first
    | with_reducible assumption
    | with_reducible apply vaultClose_good
    | with_reducible apply settleAll_good
    | split

theorem porKeep_good {s : State} (hg : Good Q s) : Good Q (porKeep s) :=
  ⟨hg.queue, { sp := hg.inv.sp, spIn := hg.inv.spIn, host := hg.inv.host, slots := rfl, links := rfl, lanes := rfl,
               doms := rfl, chans := rfl, pools := rfl, keyring := rfl, fatal := Nat.zero_le _, other := Nat.zero_le _,
               rlog := hg.inv.rlog, closed := hg.inv.closed, tlb := Nat.zero_le _, upper := Nat.zero_le _,
               completions := Nat.zero_le _, drip := Nat.zero_le _, recs := Nat.zero_le _, free := Nat.zero_le _ }⟩

theorem execPorAssert_good {s : State} {nx} (hg : Good Q s) (hx : execPorAssert s = .next nx) : Good Q nx := by
  cases hx
  exact skipSettle_good (porKeep_good (porJob_good hg))

theorem execPorReleaseBoot_good {io : Io} {v : Verdict} {s : State} {nx} (hg : Good Q s)
    (hx : execPorReleaseBoot io v s = .next nx) : Good Q nx := by
  unfold execPorReleaseBoot at hx
  refine live_good hx ?_
  split
  · refine boot_good (aoResume_good ⟨hg.queue, { hg.inv with sp := rfl, spIn := ?_, fatal := ?_, other := ?_ }⟩)
    · simp
    · simp [EvQueue.reset]
    · simp [EvQueue.reset]
  · exact hg

theorem execAoPorAssert_good {s : State} {nx} (hg : Good Q s) (hx : execAoPorAssert s = .next nx) : Good Q nx := by
  cases hx
  exact skipSettle_good ⟨hg.queue, { hg.inv with }⟩

theorem vaultFresh_good {s : State} (hg : Good Q s) : Good Q (vaultFresh s) := by
  unfold vaultFresh
  extract_lets
  exact vaultStatus_good (vaultWriteAll_good ⟨hg.queue, { hg.inv with
    slots := (List.length_map _).trans hg.inv.slots, closed := Nat.zero_le _ }⟩)

theorem vaultRecover_good {s : State} (hg : Good Q s) : Good Q (vaultRecover s) := by
  unfold vaultRecover
  repeat' first
    | with_reducible assumption
    | extract_lets
    | fail_if_no_progress with_reducible refine Good.mk' ?_
    | with_reducible apply vaultFresh_good
    | with_reducible apply vaultClose_good
    | with_reducible apply vaultStatus_good
    | with_reducible apply ite_good
    | with_reducible refine pair_good (by assumption) ?_
    | intro _
    | split
    | dsimp +zetaDelta only

theorem execAoPorRelease_good {eccOk : Bool} {romCrc : Nat} {s : State} {nx} (hg : Good Q s) (hx : execAoPorRelease eccOk romCrc s = .next nx) : Good Q nx := by
  unfold execAoPorRelease at hx
  refine live_good hx ?_
  repeat' first
    | with_reducible assumption
    | extract_lets
    | fail_if_no_progress with_reducible refine Good.mk' ?_
    | with_reducible apply vaultRecover_good
    | with_reducible apply sealCheck_good
    | with_reducible apply vaultServe_good
    | with_reducible apply unbraceAll_good
    | intro _
    | split

theorem execRootLockLoss_good {s : State} {nx} (hg : Good Q s) (hx : execRootLockLoss s = .next nx) : Good Q nx := by
  unfold execRootLockLoss at hx
  refine live_good hx ?_
  repeat' first
    | with_reducible assumption
    | fail_if_no_progress with_reducible refine Good.mk' ?_
    | intro _
    | split

end Sys2Proof.Machine
end

