-- ==== Sys2Proof/Laws/State.lean ====
section
/-! SUPPORT. What each named update of the state writes: every other field is as before. -/

set_option Elab.async false

namespace Sys2Proof.Machine

/-! `ctrAdd` writes nothing but counters. -/

@[simp] theorem ctrAdd_pending (i n : Nat) (s : State) : (ctrAdd i n s).pending = s.pending := rfl
@[simp] theorem ctrAdd_freeCtr (i n : Nat) (s : State) : (ctrAdd i n s).freeCtr = s.freeCtr := rfl
@[simp] theorem ctrAdd_rst (i n : Nat) (s : State) : (ctrAdd i n s).rst = s.rst := rfl
@[simp] theorem ctrAdd_kt (i n : Nat) (s : State) : (ctrAdd i n s).kt = s.kt := rfl
@[simp] theorem ctrAdd_fuses (i n : Nat) (s : State) : (ctrAdd i n s).fuses = s.fuses := rfl
@[simp] theorem ctrAdd_params (i n : Nat) (s : State) : (ctrAdd i n s).params = s.params := rfl
@[simp] theorem ctrAdd_pendParams (i n : Nat) (s : State) : (ctrAdd i n s).pendParams = s.pendParams := rfl
@[simp] theorem ctrAdd_latch (i n : Nat) (s : State) : (ctrAdd i n s).latch = s.latch := rfl
@[simp] theorem ctrAdd_ev (i n : Nat) (s : State) : (ctrAdd i n s).ev = s.ev := rfl
@[simp] theorem ctrAdd_job (i n : Nat) (s : State) : (ctrAdd i n s).job = s.job := rfl
@[simp] theorem ctrAdd_slots (i n : Nat) (s : State) : (ctrAdd i n s).slots = s.slots := rfl
@[simp] theorem ctrAdd_opBanks (i n : Nat) (s : State) : (ctrAdd i n s).opBanks = s.opBanks := rfl
@[simp] theorem ctrAdd_tensors (i n : Nat) (s : State) : (ctrAdd i n s).tensors = s.tensors := rfl
@[simp] theorem ctrAdd_duties (i n : Nat) (s : State) : (ctrAdd i n s).duties = s.duties := rfl
@[simp] theorem ctrAdd_spout (i n : Nat) (s : State) : (ctrAdd i n s).spout = s.spout := rfl
@[simp] theorem ctrAdd_funnelHeld (i n : Nat) (s : State) : (ctrAdd i n s).funnelHeld = s.funnelHeld := rfl
@[simp] theorem ctrAdd_ep (i n : Nat) (s : State) : (ctrAdd i n s).ep = s.ep := rfl
@[simp] theorem ctrAdd_keyring (i n : Nat) (s : State) : (ctrAdd i n s).keyring = s.keyring := rfl
@[simp] theorem ctrAdd_keyringBad (i n : Nat) (s : State) : (ctrAdd i n s).keyringBad = s.keyringBad := rfl
@[simp] theorem ctrAdd_bias (i n : Nat) (s : State) : (ctrAdd i n s).bias = s.bias := rfl
@[simp] theorem ctrAdd_kft (i n : Nat) (s : State) : (ctrAdd i n s).kft = s.kft := rfl
@[simp] theorem ctrAdd_links (i n : Nat) (s : State) : (ctrAdd i n s).links = s.links := rfl
@[simp] theorem ctrAdd_lanes (i n : Nat) (s : State) : (ctrAdd i n s).lanes = s.lanes := rfl
@[simp] theorem ctrAdd_pfcPaused (i n : Nat) (s : State) : (ctrAdd i n s).pfcPaused = s.pfcPaused := rfl
@[simp] theorem ctrAdd_pfcSent (i n : Nat) (s : State) : (ctrAdd i n s).pfcSent = s.pfcSent := rfl
@[simp] theorem ctrAdd_ptp (i n : Nat) (s : State) : (ctrAdd i n s).ptp = s.ptp := rfl
@[simp] theorem ctrAdd_barrier (i n : Nat) (s : State) : (ctrAdd i n s).barrier = s.barrier := rfl
@[simp] theorem ctrAdd_coll (i n : Nat) (s : State) : (ctrAdd i n s).coll = s.coll := rfl
@[simp] theorem ctrAdd_carafe (i n : Nat) (s : State) : (ctrAdd i n s).carafe = s.carafe := rfl
@[simp] theorem ctrAdd_sp (i n : Nat) (s : State) : (ctrAdd i n s).sp = s.sp := rfl
@[simp] theorem ctrAdd_spPoison (i n : Nat) (s : State) : (ctrAdd i n s).spPoison = s.spPoison := rfl
@[simp] theorem ctrAdd_hostMem (i n : Nat) (s : State) : (ctrAdd i n s).hostMem = s.hostMem := rfl
@[simp] theorem ctrAdd_keyway (i n : Nat) (s : State) : (ctrAdd i n s).keyway = s.keyway := rfl
@[simp] theorem ctrAdd_mport (i n : Nat) (s : State) : (ctrAdd i n s).mport = s.mport := rfl
@[simp] theorem ctrAdd_pour (i n : Nat) (s : State) : (ctrAdd i n s).pour = s.pour := rfl
@[simp] theorem ctrAdd_recRing (i n : Nat) (s : State) : (ctrAdd i n s).recRing = s.recRing := rfl
@[simp] theorem ctrAdd_drip (i n : Nat) (s : State) : (ctrAdd i n s).drip = s.drip := rfl
@[simp] theorem ctrAdd_doms (i n : Nat) (s : State) : (ctrAdd i n s).doms = s.doms := rfl
@[simp] theorem ctrAdd_esc (i n : Nat) (s : State) : (ctrAdd i n s).esc = s.esc := rfl
@[simp] theorem ctrAdd_rlog (i n : Nat) (s : State) : (ctrAdd i n s).rlog = s.rlog := rfl
@[simp] theorem ctrAdd_rlogSeq (i n : Nat) (s : State) : (ctrAdd i n s).rlogSeq = s.rlogSeq := rfl
@[simp] theorem ctrAdd_rlogWait (i n : Nat) (s : State) : (ctrAdd i n s).rlogWait = s.rlogWait := rfl
@[simp] theorem ctrAdd_aoWait (i n : Nat) (s : State) : (ctrAdd i n s).aoWait = s.aoWait := rfl
@[simp] theorem ctrAdd_dump (i n : Nat) (s : State) : (ctrAdd i n s).dump = s.dump := rfl
@[simp] theorem ctrAdd_pwr (i n : Nat) (s : State) : (ctrAdd i n s).pwr = s.pwr := rfl
@[simp] theorem ctrAdd_plan (i n : Nat) (s : State) : (ctrAdd i n s).plan = s.plan := rfl
@[simp] theorem ctrAdd_vault (i n : Nat) (s : State) : (ctrAdd i n s).vault = s.vault := rfl
@[simp] theorem ctrAdd_fw (i n : Nat) (s : State) : (ctrAdd i n s).fw = s.fw := rfl
@[simp] theorem ctrAdd_mgmt (i n : Nat) (s : State) : (ctrAdd i n s).mgmt = s.mgmt := rfl

/-! `ctrInc` writes nothing but counters. -/

@[simp] theorem ctrInc_pending (i : Nat) (s : State) : (ctrInc i s).pending = s.pending := rfl
@[simp] theorem ctrInc_freeCtr (i : Nat) (s : State) : (ctrInc i s).freeCtr = s.freeCtr := rfl
@[simp] theorem ctrInc_rst (i : Nat) (s : State) : (ctrInc i s).rst = s.rst := rfl
@[simp] theorem ctrInc_kt (i : Nat) (s : State) : (ctrInc i s).kt = s.kt := rfl
@[simp] theorem ctrInc_fuses (i : Nat) (s : State) : (ctrInc i s).fuses = s.fuses := rfl
@[simp] theorem ctrInc_params (i : Nat) (s : State) : (ctrInc i s).params = s.params := rfl
@[simp] theorem ctrInc_pendParams (i : Nat) (s : State) : (ctrInc i s).pendParams = s.pendParams := rfl
@[simp] theorem ctrInc_latch (i : Nat) (s : State) : (ctrInc i s).latch = s.latch := rfl
@[simp] theorem ctrInc_ev (i : Nat) (s : State) : (ctrInc i s).ev = s.ev := rfl
@[simp] theorem ctrInc_job (i : Nat) (s : State) : (ctrInc i s).job = s.job := rfl
@[simp] theorem ctrInc_slots (i : Nat) (s : State) : (ctrInc i s).slots = s.slots := rfl
@[simp] theorem ctrInc_opBanks (i : Nat) (s : State) : (ctrInc i s).opBanks = s.opBanks := rfl
@[simp] theorem ctrInc_tensors (i : Nat) (s : State) : (ctrInc i s).tensors = s.tensors := rfl
@[simp] theorem ctrInc_duties (i : Nat) (s : State) : (ctrInc i s).duties = s.duties := rfl
@[simp] theorem ctrInc_spout (i : Nat) (s : State) : (ctrInc i s).spout = s.spout := rfl
@[simp] theorem ctrInc_funnelHeld (i : Nat) (s : State) : (ctrInc i s).funnelHeld = s.funnelHeld := rfl
@[simp] theorem ctrInc_ep (i : Nat) (s : State) : (ctrInc i s).ep = s.ep := rfl
@[simp] theorem ctrInc_keyring (i : Nat) (s : State) : (ctrInc i s).keyring = s.keyring := rfl
@[simp] theorem ctrInc_keyringBad (i : Nat) (s : State) : (ctrInc i s).keyringBad = s.keyringBad := rfl
@[simp] theorem ctrInc_bias (i : Nat) (s : State) : (ctrInc i s).bias = s.bias := rfl
@[simp] theorem ctrInc_kft (i : Nat) (s : State) : (ctrInc i s).kft = s.kft := rfl
@[simp] theorem ctrInc_links (i : Nat) (s : State) : (ctrInc i s).links = s.links := rfl
@[simp] theorem ctrInc_lanes (i : Nat) (s : State) : (ctrInc i s).lanes = s.lanes := rfl
@[simp] theorem ctrInc_pfcPaused (i : Nat) (s : State) : (ctrInc i s).pfcPaused = s.pfcPaused := rfl
@[simp] theorem ctrInc_pfcSent (i : Nat) (s : State) : (ctrInc i s).pfcSent = s.pfcSent := rfl
@[simp] theorem ctrInc_ptp (i : Nat) (s : State) : (ctrInc i s).ptp = s.ptp := rfl
@[simp] theorem ctrInc_barrier (i : Nat) (s : State) : (ctrInc i s).barrier = s.barrier := rfl
@[simp] theorem ctrInc_coll (i : Nat) (s : State) : (ctrInc i s).coll = s.coll := rfl
@[simp] theorem ctrInc_carafe (i : Nat) (s : State) : (ctrInc i s).carafe = s.carafe := rfl
@[simp] theorem ctrInc_sp (i : Nat) (s : State) : (ctrInc i s).sp = s.sp := rfl
@[simp] theorem ctrInc_spPoison (i : Nat) (s : State) : (ctrInc i s).spPoison = s.spPoison := rfl
@[simp] theorem ctrInc_hostMem (i : Nat) (s : State) : (ctrInc i s).hostMem = s.hostMem := rfl
@[simp] theorem ctrInc_keyway (i : Nat) (s : State) : (ctrInc i s).keyway = s.keyway := rfl
@[simp] theorem ctrInc_mport (i : Nat) (s : State) : (ctrInc i s).mport = s.mport := rfl
@[simp] theorem ctrInc_pour (i : Nat) (s : State) : (ctrInc i s).pour = s.pour := rfl
@[simp] theorem ctrInc_recRing (i : Nat) (s : State) : (ctrInc i s).recRing = s.recRing := rfl
@[simp] theorem ctrInc_drip (i : Nat) (s : State) : (ctrInc i s).drip = s.drip := rfl
@[simp] theorem ctrInc_doms (i : Nat) (s : State) : (ctrInc i s).doms = s.doms := rfl
@[simp] theorem ctrInc_esc (i : Nat) (s : State) : (ctrInc i s).esc = s.esc := rfl
@[simp] theorem ctrInc_rlog (i : Nat) (s : State) : (ctrInc i s).rlog = s.rlog := rfl
@[simp] theorem ctrInc_rlogSeq (i : Nat) (s : State) : (ctrInc i s).rlogSeq = s.rlogSeq := rfl
@[simp] theorem ctrInc_rlogWait (i : Nat) (s : State) : (ctrInc i s).rlogWait = s.rlogWait := rfl
@[simp] theorem ctrInc_aoWait (i : Nat) (s : State) : (ctrInc i s).aoWait = s.aoWait := rfl
@[simp] theorem ctrInc_dump (i : Nat) (s : State) : (ctrInc i s).dump = s.dump := rfl
@[simp] theorem ctrInc_pwr (i : Nat) (s : State) : (ctrInc i s).pwr = s.pwr := rfl
@[simp] theorem ctrInc_plan (i : Nat) (s : State) : (ctrInc i s).plan = s.plan := rfl
@[simp] theorem ctrInc_vault (i : Nat) (s : State) : (ctrInc i s).vault = s.vault := rfl
@[simp] theorem ctrInc_fw (i : Nat) (s : State) : (ctrInc i s).fw = s.fw := rfl
@[simp] theorem ctrInc_mgmt (i : Nat) (s : State) : (ctrInc i s).mgmt = s.mgmt := rfl

/-! `setP` writes nothing but params. -/

@[simp] theorem setP_pending (s : State) (id v : Nat) : (setP s id v).pending = s.pending := rfl
@[simp] theorem setP_freeCtr (s : State) (id v : Nat) : (setP s id v).freeCtr = s.freeCtr := rfl
@[simp] theorem setP_rst (s : State) (id v : Nat) : (setP s id v).rst = s.rst := rfl
@[simp] theorem setP_kt (s : State) (id v : Nat) : (setP s id v).kt = s.kt := rfl
@[simp] theorem setP_fuses (s : State) (id v : Nat) : (setP s id v).fuses = s.fuses := rfl
@[simp] theorem setP_pendParams (s : State) (id v : Nat) : (setP s id v).pendParams = s.pendParams := rfl
@[simp] theorem setP_counters (s : State) (id v : Nat) : (setP s id v).counters = s.counters := rfl
@[simp] theorem setP_latch (s : State) (id v : Nat) : (setP s id v).latch = s.latch := rfl
@[simp] theorem setP_ev (s : State) (id v : Nat) : (setP s id v).ev = s.ev := rfl
@[simp] theorem setP_job (s : State) (id v : Nat) : (setP s id v).job = s.job := rfl
@[simp] theorem setP_slots (s : State) (id v : Nat) : (setP s id v).slots = s.slots := rfl
@[simp] theorem setP_opBanks (s : State) (id v : Nat) : (setP s id v).opBanks = s.opBanks := rfl
@[simp] theorem setP_tensors (s : State) (id v : Nat) : (setP s id v).tensors = s.tensors := rfl
@[simp] theorem setP_duties (s : State) (id v : Nat) : (setP s id v).duties = s.duties := rfl
@[simp] theorem setP_spout (s : State) (id v : Nat) : (setP s id v).spout = s.spout := rfl
@[simp] theorem setP_funnelHeld (s : State) (id v : Nat) : (setP s id v).funnelHeld = s.funnelHeld := rfl
@[simp] theorem setP_ep (s : State) (id v : Nat) : (setP s id v).ep = s.ep := rfl
@[simp] theorem setP_keyring (s : State) (id v : Nat) : (setP s id v).keyring = s.keyring := rfl
@[simp] theorem setP_keyringBad (s : State) (id v : Nat) : (setP s id v).keyringBad = s.keyringBad := rfl
@[simp] theorem setP_bias (s : State) (id v : Nat) : (setP s id v).bias = s.bias := rfl
@[simp] theorem setP_kft (s : State) (id v : Nat) : (setP s id v).kft = s.kft := rfl
@[simp] theorem setP_links (s : State) (id v : Nat) : (setP s id v).links = s.links := rfl
@[simp] theorem setP_lanes (s : State) (id v : Nat) : (setP s id v).lanes = s.lanes := rfl
@[simp] theorem setP_pfcPaused (s : State) (id v : Nat) : (setP s id v).pfcPaused = s.pfcPaused := rfl
@[simp] theorem setP_pfcSent (s : State) (id v : Nat) : (setP s id v).pfcSent = s.pfcSent := rfl
@[simp] theorem setP_ptp (s : State) (id v : Nat) : (setP s id v).ptp = s.ptp := rfl
@[simp] theorem setP_barrier (s : State) (id v : Nat) : (setP s id v).barrier = s.barrier := rfl
@[simp] theorem setP_coll (s : State) (id v : Nat) : (setP s id v).coll = s.coll := rfl
@[simp] theorem setP_carafe (s : State) (id v : Nat) : (setP s id v).carafe = s.carafe := rfl
@[simp] theorem setP_sp (s : State) (id v : Nat) : (setP s id v).sp = s.sp := rfl
@[simp] theorem setP_spPoison (s : State) (id v : Nat) : (setP s id v).spPoison = s.spPoison := rfl
@[simp] theorem setP_hostMem (s : State) (id v : Nat) : (setP s id v).hostMem = s.hostMem := rfl
@[simp] theorem setP_keyway (s : State) (id v : Nat) : (setP s id v).keyway = s.keyway := rfl
@[simp] theorem setP_mport (s : State) (id v : Nat) : (setP s id v).mport = s.mport := rfl
@[simp] theorem setP_pour (s : State) (id v : Nat) : (setP s id v).pour = s.pour := rfl
@[simp] theorem setP_recRing (s : State) (id v : Nat) : (setP s id v).recRing = s.recRing := rfl
@[simp] theorem setP_drip (s : State) (id v : Nat) : (setP s id v).drip = s.drip := rfl
@[simp] theorem setP_doms (s : State) (id v : Nat) : (setP s id v).doms = s.doms := rfl
@[simp] theorem setP_esc (s : State) (id v : Nat) : (setP s id v).esc = s.esc := rfl
@[simp] theorem setP_rlog (s : State) (id v : Nat) : (setP s id v).rlog = s.rlog := rfl
@[simp] theorem setP_rlogSeq (s : State) (id v : Nat) : (setP s id v).rlogSeq = s.rlogSeq := rfl
@[simp] theorem setP_rlogWait (s : State) (id v : Nat) : (setP s id v).rlogWait = s.rlogWait := rfl
@[simp] theorem setP_aoWait (s : State) (id v : Nat) : (setP s id v).aoWait = s.aoWait := rfl
@[simp] theorem setP_dump (s : State) (id v : Nat) : (setP s id v).dump = s.dump := rfl
@[simp] theorem setP_pwr (s : State) (id v : Nat) : (setP s id v).pwr = s.pwr := rfl
@[simp] theorem setP_plan (s : State) (id v : Nat) : (setP s id v).plan = s.plan := rfl
@[simp] theorem setP_vault (s : State) (id v : Nat) : (setP s id v).vault = s.vault := rfl
@[simp] theorem setP_fw (s : State) (id v : Nat) : (setP s id v).fw = s.fw := rfl
@[simp] theorem setP_mgmt (s : State) (id v : Nat) : (setP s id v).mgmt = s.mgmt := rfl

/-! `setSlot` writes nothing but slots. -/

@[simp] theorem setSlot_pending (i : Nat) (x : Slot) (s : State) : (setSlot i x s).pending = s.pending := rfl
@[simp] theorem setSlot_freeCtr (i : Nat) (x : Slot) (s : State) : (setSlot i x s).freeCtr = s.freeCtr := rfl
@[simp] theorem setSlot_rst (i : Nat) (x : Slot) (s : State) : (setSlot i x s).rst = s.rst := rfl
@[simp] theorem setSlot_kt (i : Nat) (x : Slot) (s : State) : (setSlot i x s).kt = s.kt := rfl
@[simp] theorem setSlot_fuses (i : Nat) (x : Slot) (s : State) : (setSlot i x s).fuses = s.fuses := rfl
@[simp] theorem setSlot_params (i : Nat) (x : Slot) (s : State) : (setSlot i x s).params = s.params := rfl
@[simp] theorem setSlot_pendParams (i : Nat) (x : Slot) (s : State) : (setSlot i x s).pendParams = s.pendParams := rfl
@[simp] theorem setSlot_counters (i : Nat) (x : Slot) (s : State) : (setSlot i x s).counters = s.counters := rfl
@[simp] theorem setSlot_latch (i : Nat) (x : Slot) (s : State) : (setSlot i x s).latch = s.latch := rfl
@[simp] theorem setSlot_ev (i : Nat) (x : Slot) (s : State) : (setSlot i x s).ev = s.ev := rfl
@[simp] theorem setSlot_job (i : Nat) (x : Slot) (s : State) : (setSlot i x s).job = s.job := rfl
@[simp] theorem setSlot_opBanks (i : Nat) (x : Slot) (s : State) : (setSlot i x s).opBanks = s.opBanks := rfl
@[simp] theorem setSlot_tensors (i : Nat) (x : Slot) (s : State) : (setSlot i x s).tensors = s.tensors := rfl
@[simp] theorem setSlot_duties (i : Nat) (x : Slot) (s : State) : (setSlot i x s).duties = s.duties := rfl
@[simp] theorem setSlot_spout (i : Nat) (x : Slot) (s : State) : (setSlot i x s).spout = s.spout := rfl
@[simp] theorem setSlot_funnelHeld (i : Nat) (x : Slot) (s : State) : (setSlot i x s).funnelHeld = s.funnelHeld := rfl
@[simp] theorem setSlot_ep (i : Nat) (x : Slot) (s : State) : (setSlot i x s).ep = s.ep := rfl
@[simp] theorem setSlot_keyring (i : Nat) (x : Slot) (s : State) : (setSlot i x s).keyring = s.keyring := rfl
@[simp] theorem setSlot_keyringBad (i : Nat) (x : Slot) (s : State) : (setSlot i x s).keyringBad = s.keyringBad := rfl
@[simp] theorem setSlot_bias (i : Nat) (x : Slot) (s : State) : (setSlot i x s).bias = s.bias := rfl
@[simp] theorem setSlot_kft (i : Nat) (x : Slot) (s : State) : (setSlot i x s).kft = s.kft := rfl
@[simp] theorem setSlot_links (i : Nat) (x : Slot) (s : State) : (setSlot i x s).links = s.links := rfl
@[simp] theorem setSlot_lanes (i : Nat) (x : Slot) (s : State) : (setSlot i x s).lanes = s.lanes := rfl
@[simp] theorem setSlot_pfcPaused (i : Nat) (x : Slot) (s : State) : (setSlot i x s).pfcPaused = s.pfcPaused := rfl
@[simp] theorem setSlot_pfcSent (i : Nat) (x : Slot) (s : State) : (setSlot i x s).pfcSent = s.pfcSent := rfl
@[simp] theorem setSlot_ptp (i : Nat) (x : Slot) (s : State) : (setSlot i x s).ptp = s.ptp := rfl
@[simp] theorem setSlot_barrier (i : Nat) (x : Slot) (s : State) : (setSlot i x s).barrier = s.barrier := rfl
@[simp] theorem setSlot_coll (i : Nat) (x : Slot) (s : State) : (setSlot i x s).coll = s.coll := rfl
@[simp] theorem setSlot_carafe (i : Nat) (x : Slot) (s : State) : (setSlot i x s).carafe = s.carafe := rfl
@[simp] theorem setSlot_sp (i : Nat) (x : Slot) (s : State) : (setSlot i x s).sp = s.sp := rfl
@[simp] theorem setSlot_spPoison (i : Nat) (x : Slot) (s : State) : (setSlot i x s).spPoison = s.spPoison := rfl
@[simp] theorem setSlot_hostMem (i : Nat) (x : Slot) (s : State) : (setSlot i x s).hostMem = s.hostMem := rfl
@[simp] theorem setSlot_keyway (i : Nat) (x : Slot) (s : State) : (setSlot i x s).keyway = s.keyway := rfl
@[simp] theorem setSlot_mport (i : Nat) (x : Slot) (s : State) : (setSlot i x s).mport = s.mport := rfl
@[simp] theorem setSlot_pour (i : Nat) (x : Slot) (s : State) : (setSlot i x s).pour = s.pour := rfl
@[simp] theorem setSlot_recRing (i : Nat) (x : Slot) (s : State) : (setSlot i x s).recRing = s.recRing := rfl
@[simp] theorem setSlot_drip (i : Nat) (x : Slot) (s : State) : (setSlot i x s).drip = s.drip := rfl
@[simp] theorem setSlot_doms (i : Nat) (x : Slot) (s : State) : (setSlot i x s).doms = s.doms := rfl
@[simp] theorem setSlot_esc (i : Nat) (x : Slot) (s : State) : (setSlot i x s).esc = s.esc := rfl
@[simp] theorem setSlot_rlog (i : Nat) (x : Slot) (s : State) : (setSlot i x s).rlog = s.rlog := rfl
@[simp] theorem setSlot_rlogSeq (i : Nat) (x : Slot) (s : State) : (setSlot i x s).rlogSeq = s.rlogSeq := rfl
@[simp] theorem setSlot_rlogWait (i : Nat) (x : Slot) (s : State) : (setSlot i x s).rlogWait = s.rlogWait := rfl
@[simp] theorem setSlot_aoWait (i : Nat) (x : Slot) (s : State) : (setSlot i x s).aoWait = s.aoWait := rfl
@[simp] theorem setSlot_dump (i : Nat) (x : Slot) (s : State) : (setSlot i x s).dump = s.dump := rfl
@[simp] theorem setSlot_pwr (i : Nat) (x : Slot) (s : State) : (setSlot i x s).pwr = s.pwr := rfl
@[simp] theorem setSlot_plan (i : Nat) (x : Slot) (s : State) : (setSlot i x s).plan = s.plan := rfl
@[simp] theorem setSlot_vault (i : Nat) (x : Slot) (s : State) : (setSlot i x s).vault = s.vault := rfl
@[simp] theorem setSlot_fw (i : Nat) (x : Slot) (s : State) : (setSlot i x s).fw = s.fw := rfl
@[simp] theorem setSlot_mgmt (i : Nat) (x : Slot) (s : State) : (setSlot i x s).mgmt = s.mgmt := rfl

/-! `setLink` writes nothing but links. -/

@[simp] theorem setLink_pending (k : Nat) (l : Link) (s : State) : (setLink k l s).pending = s.pending := rfl
@[simp] theorem setLink_freeCtr (k : Nat) (l : Link) (s : State) : (setLink k l s).freeCtr = s.freeCtr := rfl
@[simp] theorem setLink_rst (k : Nat) (l : Link) (s : State) : (setLink k l s).rst = s.rst := rfl
@[simp] theorem setLink_kt (k : Nat) (l : Link) (s : State) : (setLink k l s).kt = s.kt := rfl
@[simp] theorem setLink_fuses (k : Nat) (l : Link) (s : State) : (setLink k l s).fuses = s.fuses := rfl
@[simp] theorem setLink_params (k : Nat) (l : Link) (s : State) : (setLink k l s).params = s.params := rfl
@[simp] theorem setLink_pendParams (k : Nat) (l : Link) (s : State) : (setLink k l s).pendParams = s.pendParams := rfl
@[simp] theorem setLink_counters (k : Nat) (l : Link) (s : State) : (setLink k l s).counters = s.counters := rfl
@[simp] theorem setLink_latch (k : Nat) (l : Link) (s : State) : (setLink k l s).latch = s.latch := rfl
@[simp] theorem setLink_ev (k : Nat) (l : Link) (s : State) : (setLink k l s).ev = s.ev := rfl
@[simp] theorem setLink_job (k : Nat) (l : Link) (s : State) : (setLink k l s).job = s.job := rfl
@[simp] theorem setLink_slots (k : Nat) (l : Link) (s : State) : (setLink k l s).slots = s.slots := rfl
@[simp] theorem setLink_opBanks (k : Nat) (l : Link) (s : State) : (setLink k l s).opBanks = s.opBanks := rfl
@[simp] theorem setLink_tensors (k : Nat) (l : Link) (s : State) : (setLink k l s).tensors = s.tensors := rfl
@[simp] theorem setLink_duties (k : Nat) (l : Link) (s : State) : (setLink k l s).duties = s.duties := rfl
@[simp] theorem setLink_spout (k : Nat) (l : Link) (s : State) : (setLink k l s).spout = s.spout := rfl
@[simp] theorem setLink_funnelHeld (k : Nat) (l : Link) (s : State) : (setLink k l s).funnelHeld = s.funnelHeld := rfl
@[simp] theorem setLink_ep (k : Nat) (l : Link) (s : State) : (setLink k l s).ep = s.ep := rfl
@[simp] theorem setLink_keyring (k : Nat) (l : Link) (s : State) : (setLink k l s).keyring = s.keyring := rfl
@[simp] theorem setLink_keyringBad (k : Nat) (l : Link) (s : State) : (setLink k l s).keyringBad = s.keyringBad := rfl
@[simp] theorem setLink_bias (k : Nat) (l : Link) (s : State) : (setLink k l s).bias = s.bias := rfl
@[simp] theorem setLink_kft (k : Nat) (l : Link) (s : State) : (setLink k l s).kft = s.kft := rfl
@[simp] theorem setLink_lanes (k : Nat) (l : Link) (s : State) : (setLink k l s).lanes = s.lanes := rfl
@[simp] theorem setLink_pfcPaused (k : Nat) (l : Link) (s : State) : (setLink k l s).pfcPaused = s.pfcPaused := rfl
@[simp] theorem setLink_pfcSent (k : Nat) (l : Link) (s : State) : (setLink k l s).pfcSent = s.pfcSent := rfl
@[simp] theorem setLink_ptp (k : Nat) (l : Link) (s : State) : (setLink k l s).ptp = s.ptp := rfl
@[simp] theorem setLink_barrier (k : Nat) (l : Link) (s : State) : (setLink k l s).barrier = s.barrier := rfl
@[simp] theorem setLink_coll (k : Nat) (l : Link) (s : State) : (setLink k l s).coll = s.coll := rfl
@[simp] theorem setLink_carafe (k : Nat) (l : Link) (s : State) : (setLink k l s).carafe = s.carafe := rfl
@[simp] theorem setLink_sp (k : Nat) (l : Link) (s : State) : (setLink k l s).sp = s.sp := rfl
@[simp] theorem setLink_spPoison (k : Nat) (l : Link) (s : State) : (setLink k l s).spPoison = s.spPoison := rfl
@[simp] theorem setLink_hostMem (k : Nat) (l : Link) (s : State) : (setLink k l s).hostMem = s.hostMem := rfl
@[simp] theorem setLink_keyway (k : Nat) (l : Link) (s : State) : (setLink k l s).keyway = s.keyway := rfl
@[simp] theorem setLink_mport (k : Nat) (l : Link) (s : State) : (setLink k l s).mport = s.mport := rfl
@[simp] theorem setLink_pour (k : Nat) (l : Link) (s : State) : (setLink k l s).pour = s.pour := rfl
@[simp] theorem setLink_recRing (k : Nat) (l : Link) (s : State) : (setLink k l s).recRing = s.recRing := rfl
@[simp] theorem setLink_drip (k : Nat) (l : Link) (s : State) : (setLink k l s).drip = s.drip := rfl
@[simp] theorem setLink_doms (k : Nat) (l : Link) (s : State) : (setLink k l s).doms = s.doms := rfl
@[simp] theorem setLink_esc (k : Nat) (l : Link) (s : State) : (setLink k l s).esc = s.esc := rfl
@[simp] theorem setLink_rlog (k : Nat) (l : Link) (s : State) : (setLink k l s).rlog = s.rlog := rfl
@[simp] theorem setLink_rlogSeq (k : Nat) (l : Link) (s : State) : (setLink k l s).rlogSeq = s.rlogSeq := rfl
@[simp] theorem setLink_rlogWait (k : Nat) (l : Link) (s : State) : (setLink k l s).rlogWait = s.rlogWait := rfl
@[simp] theorem setLink_aoWait (k : Nat) (l : Link) (s : State) : (setLink k l s).aoWait = s.aoWait := rfl
@[simp] theorem setLink_dump (k : Nat) (l : Link) (s : State) : (setLink k l s).dump = s.dump := rfl
@[simp] theorem setLink_pwr (k : Nat) (l : Link) (s : State) : (setLink k l s).pwr = s.pwr := rfl
@[simp] theorem setLink_plan (k : Nat) (l : Link) (s : State) : (setLink k l s).plan = s.plan := rfl
@[simp] theorem setLink_vault (k : Nat) (l : Link) (s : State) : (setLink k l s).vault = s.vault := rfl
@[simp] theorem setLink_fw (k : Nat) (l : Link) (s : State) : (setLink k l s).fw = s.fw := rfl
@[simp] theorem setLink_mgmt (k : Nat) (l : Link) (s : State) : (setLink k l s).mgmt = s.mgmt := rfl

/-! `setDom` writes nothing but doms. -/

@[simp] theorem setDom_pending (i : Nat) (d : Dom) (s : State) : (setDom i d s).pending = s.pending := rfl
@[simp] theorem setDom_freeCtr (i : Nat) (d : Dom) (s : State) : (setDom i d s).freeCtr = s.freeCtr := rfl
@[simp] theorem setDom_rst (i : Nat) (d : Dom) (s : State) : (setDom i d s).rst = s.rst := rfl
@[simp] theorem setDom_kt (i : Nat) (d : Dom) (s : State) : (setDom i d s).kt = s.kt := rfl
@[simp] theorem setDom_fuses (i : Nat) (d : Dom) (s : State) : (setDom i d s).fuses = s.fuses := rfl
@[simp] theorem setDom_params (i : Nat) (d : Dom) (s : State) : (setDom i d s).params = s.params := rfl
@[simp] theorem setDom_pendParams (i : Nat) (d : Dom) (s : State) : (setDom i d s).pendParams = s.pendParams := rfl
@[simp] theorem setDom_counters (i : Nat) (d : Dom) (s : State) : (setDom i d s).counters = s.counters := rfl
@[simp] theorem setDom_latch (i : Nat) (d : Dom) (s : State) : (setDom i d s).latch = s.latch := rfl
@[simp] theorem setDom_ev (i : Nat) (d : Dom) (s : State) : (setDom i d s).ev = s.ev := rfl
@[simp] theorem setDom_job (i : Nat) (d : Dom) (s : State) : (setDom i d s).job = s.job := rfl
@[simp] theorem setDom_slots (i : Nat) (d : Dom) (s : State) : (setDom i d s).slots = s.slots := rfl
@[simp] theorem setDom_opBanks (i : Nat) (d : Dom) (s : State) : (setDom i d s).opBanks = s.opBanks := rfl
@[simp] theorem setDom_tensors (i : Nat) (d : Dom) (s : State) : (setDom i d s).tensors = s.tensors := rfl
@[simp] theorem setDom_duties (i : Nat) (d : Dom) (s : State) : (setDom i d s).duties = s.duties := rfl
@[simp] theorem setDom_spout (i : Nat) (d : Dom) (s : State) : (setDom i d s).spout = s.spout := rfl
@[simp] theorem setDom_funnelHeld (i : Nat) (d : Dom) (s : State) : (setDom i d s).funnelHeld = s.funnelHeld := rfl
@[simp] theorem setDom_ep (i : Nat) (d : Dom) (s : State) : (setDom i d s).ep = s.ep := rfl
@[simp] theorem setDom_keyring (i : Nat) (d : Dom) (s : State) : (setDom i d s).keyring = s.keyring := rfl
@[simp] theorem setDom_keyringBad (i : Nat) (d : Dom) (s : State) : (setDom i d s).keyringBad = s.keyringBad := rfl
@[simp] theorem setDom_bias (i : Nat) (d : Dom) (s : State) : (setDom i d s).bias = s.bias := rfl
@[simp] theorem setDom_kft (i : Nat) (d : Dom) (s : State) : (setDom i d s).kft = s.kft := rfl
@[simp] theorem setDom_links (i : Nat) (d : Dom) (s : State) : (setDom i d s).links = s.links := rfl
@[simp] theorem setDom_lanes (i : Nat) (d : Dom) (s : State) : (setDom i d s).lanes = s.lanes := rfl
@[simp] theorem setDom_pfcPaused (i : Nat) (d : Dom) (s : State) : (setDom i d s).pfcPaused = s.pfcPaused := rfl
@[simp] theorem setDom_pfcSent (i : Nat) (d : Dom) (s : State) : (setDom i d s).pfcSent = s.pfcSent := rfl
@[simp] theorem setDom_ptp (i : Nat) (d : Dom) (s : State) : (setDom i d s).ptp = s.ptp := rfl
@[simp] theorem setDom_barrier (i : Nat) (d : Dom) (s : State) : (setDom i d s).barrier = s.barrier := rfl
@[simp] theorem setDom_coll (i : Nat) (d : Dom) (s : State) : (setDom i d s).coll = s.coll := rfl
@[simp] theorem setDom_carafe (i : Nat) (d : Dom) (s : State) : (setDom i d s).carafe = s.carafe := rfl
@[simp] theorem setDom_sp (i : Nat) (d : Dom) (s : State) : (setDom i d s).sp = s.sp := rfl
@[simp] theorem setDom_spPoison (i : Nat) (d : Dom) (s : State) : (setDom i d s).spPoison = s.spPoison := rfl
@[simp] theorem setDom_hostMem (i : Nat) (d : Dom) (s : State) : (setDom i d s).hostMem = s.hostMem := rfl
@[simp] theorem setDom_keyway (i : Nat) (d : Dom) (s : State) : (setDom i d s).keyway = s.keyway := rfl
@[simp] theorem setDom_mport (i : Nat) (d : Dom) (s : State) : (setDom i d s).mport = s.mport := rfl
@[simp] theorem setDom_pour (i : Nat) (d : Dom) (s : State) : (setDom i d s).pour = s.pour := rfl
@[simp] theorem setDom_recRing (i : Nat) (d : Dom) (s : State) : (setDom i d s).recRing = s.recRing := rfl
@[simp] theorem setDom_drip (i : Nat) (d : Dom) (s : State) : (setDom i d s).drip = s.drip := rfl
@[simp] theorem setDom_esc (i : Nat) (d : Dom) (s : State) : (setDom i d s).esc = s.esc := rfl
@[simp] theorem setDom_rlog (i : Nat) (d : Dom) (s : State) : (setDom i d s).rlog = s.rlog := rfl
@[simp] theorem setDom_rlogSeq (i : Nat) (d : Dom) (s : State) : (setDom i d s).rlogSeq = s.rlogSeq := rfl
@[simp] theorem setDom_rlogWait (i : Nat) (d : Dom) (s : State) : (setDom i d s).rlogWait = s.rlogWait := rfl
@[simp] theorem setDom_aoWait (i : Nat) (d : Dom) (s : State) : (setDom i d s).aoWait = s.aoWait := rfl
@[simp] theorem setDom_dump (i : Nat) (d : Dom) (s : State) : (setDom i d s).dump = s.dump := rfl
@[simp] theorem setDom_pwr (i : Nat) (d : Dom) (s : State) : (setDom i d s).pwr = s.pwr := rfl
@[simp] theorem setDom_plan (i : Nat) (d : Dom) (s : State) : (setDom i d s).plan = s.plan := rfl
@[simp] theorem setDom_vault (i : Nat) (d : Dom) (s : State) : (setDom i d s).vault = s.vault := rfl
@[simp] theorem setDom_fw (i : Nat) (d : Dom) (s : State) : (setDom i d s).fw = s.fw := rfl
@[simp] theorem setDom_mgmt (i : Nat) (d : Dom) (s : State) : (setDom i d s).mgmt = s.mgmt := rfl

/-! `holdCmd` writes nothing but latch. -/

@[simp] theorem holdCmd_pending (why : HoldWhy) (p : Packet) (x : Ext) (order : Nat) (s : State) :
    (holdCmd why p x order s).pending = s.pending := rfl
@[simp] theorem holdCmd_freeCtr (why : HoldWhy) (p : Packet) (x : Ext) (order : Nat) (s : State) :
    (holdCmd why p x order s).freeCtr = s.freeCtr := rfl
@[simp] theorem holdCmd_rst (why : HoldWhy) (p : Packet) (x : Ext) (order : Nat) (s : State) :
    (holdCmd why p x order s).rst = s.rst := rfl
@[simp] theorem holdCmd_kt (why : HoldWhy) (p : Packet) (x : Ext) (order : Nat) (s : State) :
    (holdCmd why p x order s).kt = s.kt := rfl
@[simp] theorem holdCmd_fuses (why : HoldWhy) (p : Packet) (x : Ext) (order : Nat) (s : State) :
    (holdCmd why p x order s).fuses = s.fuses := rfl
@[simp] theorem holdCmd_params (why : HoldWhy) (p : Packet) (x : Ext) (order : Nat) (s : State) :
    (holdCmd why p x order s).params = s.params := rfl
@[simp] theorem holdCmd_pendParams (why : HoldWhy) (p : Packet) (x : Ext) (order : Nat) (s : State) :
    (holdCmd why p x order s).pendParams = s.pendParams := rfl
@[simp] theorem holdCmd_counters (why : HoldWhy) (p : Packet) (x : Ext) (order : Nat) (s : State) :
    (holdCmd why p x order s).counters = s.counters := rfl
@[simp] theorem holdCmd_ev (why : HoldWhy) (p : Packet) (x : Ext) (order : Nat) (s : State) :
    (holdCmd why p x order s).ev = s.ev := rfl
@[simp] theorem holdCmd_job (why : HoldWhy) (p : Packet) (x : Ext) (order : Nat) (s : State) :
    (holdCmd why p x order s).job = s.job := rfl
@[simp] theorem holdCmd_slots (why : HoldWhy) (p : Packet) (x : Ext) (order : Nat) (s : State) :
    (holdCmd why p x order s).slots = s.slots := rfl
@[simp] theorem holdCmd_opBanks (why : HoldWhy) (p : Packet) (x : Ext) (order : Nat) (s : State) :
    (holdCmd why p x order s).opBanks = s.opBanks := rfl
@[simp] theorem holdCmd_tensors (why : HoldWhy) (p : Packet) (x : Ext) (order : Nat) (s : State) :
    (holdCmd why p x order s).tensors = s.tensors := rfl
@[simp] theorem holdCmd_duties (why : HoldWhy) (p : Packet) (x : Ext) (order : Nat) (s : State) :
    (holdCmd why p x order s).duties = s.duties := rfl
@[simp] theorem holdCmd_spout (why : HoldWhy) (p : Packet) (x : Ext) (order : Nat) (s : State) :
    (holdCmd why p x order s).spout = s.spout := rfl
@[simp] theorem holdCmd_funnelHeld (why : HoldWhy) (p : Packet) (x : Ext) (order : Nat) (s : State) :
    (holdCmd why p x order s).funnelHeld = s.funnelHeld := rfl
@[simp] theorem holdCmd_ep (why : HoldWhy) (p : Packet) (x : Ext) (order : Nat) (s : State) :
    (holdCmd why p x order s).ep = s.ep := rfl
@[simp] theorem holdCmd_keyring (why : HoldWhy) (p : Packet) (x : Ext) (order : Nat) (s : State) :
    (holdCmd why p x order s).keyring = s.keyring := rfl
@[simp] theorem holdCmd_keyringBad (why : HoldWhy) (p : Packet) (x : Ext) (order : Nat) (s : State) :
    (holdCmd why p x order s).keyringBad = s.keyringBad := rfl
@[simp] theorem holdCmd_bias (why : HoldWhy) (p : Packet) (x : Ext) (order : Nat) (s : State) :
    (holdCmd why p x order s).bias = s.bias := rfl
@[simp] theorem holdCmd_kft (why : HoldWhy) (p : Packet) (x : Ext) (order : Nat) (s : State) :
    (holdCmd why p x order s).kft = s.kft := rfl
@[simp] theorem holdCmd_links (why : HoldWhy) (p : Packet) (x : Ext) (order : Nat) (s : State) :
    (holdCmd why p x order s).links = s.links := rfl
@[simp] theorem holdCmd_lanes (why : HoldWhy) (p : Packet) (x : Ext) (order : Nat) (s : State) :
    (holdCmd why p x order s).lanes = s.lanes := rfl
@[simp] theorem holdCmd_pfcPaused (why : HoldWhy) (p : Packet) (x : Ext) (order : Nat) (s : State) :
    (holdCmd why p x order s).pfcPaused = s.pfcPaused := rfl
@[simp] theorem holdCmd_pfcSent (why : HoldWhy) (p : Packet) (x : Ext) (order : Nat) (s : State) :
    (holdCmd why p x order s).pfcSent = s.pfcSent := rfl
@[simp] theorem holdCmd_ptp (why : HoldWhy) (p : Packet) (x : Ext) (order : Nat) (s : State) :
    (holdCmd why p x order s).ptp = s.ptp := rfl
@[simp] theorem holdCmd_barrier (why : HoldWhy) (p : Packet) (x : Ext) (order : Nat) (s : State) :
    (holdCmd why p x order s).barrier = s.barrier := rfl
@[simp] theorem holdCmd_coll (why : HoldWhy) (p : Packet) (x : Ext) (order : Nat) (s : State) :
    (holdCmd why p x order s).coll = s.coll := rfl
@[simp] theorem holdCmd_carafe (why : HoldWhy) (p : Packet) (x : Ext) (order : Nat) (s : State) :
    (holdCmd why p x order s).carafe = s.carafe := rfl
@[simp] theorem holdCmd_sp (why : HoldWhy) (p : Packet) (x : Ext) (order : Nat) (s : State) :
    (holdCmd why p x order s).sp = s.sp := rfl
@[simp] theorem holdCmd_spPoison (why : HoldWhy) (p : Packet) (x : Ext) (order : Nat) (s : State) :
    (holdCmd why p x order s).spPoison = s.spPoison := rfl
@[simp] theorem holdCmd_hostMem (why : HoldWhy) (p : Packet) (x : Ext) (order : Nat) (s : State) :
    (holdCmd why p x order s).hostMem = s.hostMem := rfl
@[simp] theorem holdCmd_keyway (why : HoldWhy) (p : Packet) (x : Ext) (order : Nat) (s : State) :
    (holdCmd why p x order s).keyway = s.keyway := rfl
@[simp] theorem holdCmd_mport (why : HoldWhy) (p : Packet) (x : Ext) (order : Nat) (s : State) :
    (holdCmd why p x order s).mport = s.mport := rfl
@[simp] theorem holdCmd_pour (why : HoldWhy) (p : Packet) (x : Ext) (order : Nat) (s : State) :
    (holdCmd why p x order s).pour = s.pour := rfl
@[simp] theorem holdCmd_recRing (why : HoldWhy) (p : Packet) (x : Ext) (order : Nat) (s : State) :
    (holdCmd why p x order s).recRing = s.recRing := rfl
@[simp] theorem holdCmd_drip (why : HoldWhy) (p : Packet) (x : Ext) (order : Nat) (s : State) :
    (holdCmd why p x order s).drip = s.drip := rfl
@[simp] theorem holdCmd_doms (why : HoldWhy) (p : Packet) (x : Ext) (order : Nat) (s : State) :
    (holdCmd why p x order s).doms = s.doms := rfl
@[simp] theorem holdCmd_esc (why : HoldWhy) (p : Packet) (x : Ext) (order : Nat) (s : State) :
    (holdCmd why p x order s).esc = s.esc := rfl
@[simp] theorem holdCmd_rlog (why : HoldWhy) (p : Packet) (x : Ext) (order : Nat) (s : State) :
    (holdCmd why p x order s).rlog = s.rlog := rfl
@[simp] theorem holdCmd_rlogSeq (why : HoldWhy) (p : Packet) (x : Ext) (order : Nat) (s : State) :
    (holdCmd why p x order s).rlogSeq = s.rlogSeq := rfl
@[simp] theorem holdCmd_rlogWait (why : HoldWhy) (p : Packet) (x : Ext) (order : Nat) (s : State) :
    (holdCmd why p x order s).rlogWait = s.rlogWait := rfl
@[simp] theorem holdCmd_aoWait (why : HoldWhy) (p : Packet) (x : Ext) (order : Nat) (s : State) :
    (holdCmd why p x order s).aoWait = s.aoWait := rfl
@[simp] theorem holdCmd_dump (why : HoldWhy) (p : Packet) (x : Ext) (order : Nat) (s : State) :
    (holdCmd why p x order s).dump = s.dump := rfl
@[simp] theorem holdCmd_pwr (why : HoldWhy) (p : Packet) (x : Ext) (order : Nat) (s : State) :
    (holdCmd why p x order s).pwr = s.pwr := rfl
@[simp] theorem holdCmd_plan (why : HoldWhy) (p : Packet) (x : Ext) (order : Nat) (s : State) :
    (holdCmd why p x order s).plan = s.plan := rfl
@[simp] theorem holdCmd_vault (why : HoldWhy) (p : Packet) (x : Ext) (order : Nat) (s : State) :
    (holdCmd why p x order s).vault = s.vault := rfl
@[simp] theorem holdCmd_fw (why : HoldWhy) (p : Packet) (x : Ext) (order : Nat) (s : State) :
    (holdCmd why p x order s).fw = s.fw := rfl
@[simp] theorem holdCmd_mgmt (why : HoldWhy) (p : Packet) (x : Ext) (order : Nat) (s : State) :
    (holdCmd why p x order s).mgmt = s.mgmt := rfl

/-! `dripPut` writes nothing but drip. -/

@[simp] theorem dripPut_pending (r : DripRec) (s : State) :
    (dripPut r s).pending = s.pending := by unfold dripPut dripLose; extract_lets; split_ifs <;> rfl
@[simp] theorem dripPut_freeCtr (r : DripRec) (s : State) :
    (dripPut r s).freeCtr = s.freeCtr := by unfold dripPut dripLose; extract_lets; split_ifs <;> rfl
@[simp] theorem dripPut_rst (r : DripRec) (s : State) :
    (dripPut r s).rst = s.rst := by unfold dripPut dripLose; extract_lets; split_ifs <;> rfl
@[simp] theorem dripPut_kt (r : DripRec) (s : State) :
    (dripPut r s).kt = s.kt := by unfold dripPut dripLose; extract_lets; split_ifs <;> rfl
@[simp] theorem dripPut_fuses (r : DripRec) (s : State) :
    (dripPut r s).fuses = s.fuses := by unfold dripPut dripLose; extract_lets; split_ifs <;> rfl
@[simp] theorem dripPut_params (r : DripRec) (s : State) :
    (dripPut r s).params = s.params := by unfold dripPut dripLose; extract_lets; split_ifs <;> rfl
@[simp] theorem dripPut_pendParams (r : DripRec) (s : State) :
    (dripPut r s).pendParams = s.pendParams := by unfold dripPut dripLose; extract_lets; split_ifs <;> rfl
@[simp] theorem dripPut_counters (r : DripRec) (s : State) :
    (dripPut r s).counters = s.counters := by unfold dripPut dripLose; extract_lets; split_ifs <;> rfl
@[simp] theorem dripPut_latch (r : DripRec) (s : State) :
    (dripPut r s).latch = s.latch := by unfold dripPut dripLose; extract_lets; split_ifs <;> rfl
@[simp] theorem dripPut_ev (r : DripRec) (s : State) :
    (dripPut r s).ev = s.ev := by unfold dripPut dripLose; extract_lets; split_ifs <;> rfl
@[simp] theorem dripPut_job (r : DripRec) (s : State) :
    (dripPut r s).job = s.job := by unfold dripPut dripLose; extract_lets; split_ifs <;> rfl
@[simp] theorem dripPut_slots (r : DripRec) (s : State) :
    (dripPut r s).slots = s.slots := by unfold dripPut dripLose; extract_lets; split_ifs <;> rfl
@[simp] theorem dripPut_opBanks (r : DripRec) (s : State) :
    (dripPut r s).opBanks = s.opBanks := by unfold dripPut dripLose; extract_lets; split_ifs <;> rfl
@[simp] theorem dripPut_tensors (r : DripRec) (s : State) :
    (dripPut r s).tensors = s.tensors := by unfold dripPut dripLose; extract_lets; split_ifs <;> rfl
@[simp] theorem dripPut_duties (r : DripRec) (s : State) :
    (dripPut r s).duties = s.duties := by unfold dripPut dripLose; extract_lets; split_ifs <;> rfl
@[simp] theorem dripPut_spout (r : DripRec) (s : State) :
    (dripPut r s).spout = s.spout := by unfold dripPut dripLose; extract_lets; split_ifs <;> rfl
@[simp] theorem dripPut_funnelHeld (r : DripRec) (s : State) :
    (dripPut r s).funnelHeld = s.funnelHeld := by unfold dripPut dripLose; extract_lets; split_ifs <;> rfl
@[simp] theorem dripPut_ep (r : DripRec) (s : State) :
    (dripPut r s).ep = s.ep := by unfold dripPut dripLose; extract_lets; split_ifs <;> rfl
@[simp] theorem dripPut_keyring (r : DripRec) (s : State) :
    (dripPut r s).keyring = s.keyring := by unfold dripPut dripLose; extract_lets; split_ifs <;> rfl
@[simp] theorem dripPut_keyringBad (r : DripRec) (s : State) :
    (dripPut r s).keyringBad = s.keyringBad := by unfold dripPut dripLose; extract_lets; split_ifs <;> rfl
@[simp] theorem dripPut_bias (r : DripRec) (s : State) :
    (dripPut r s).bias = s.bias := by unfold dripPut dripLose; extract_lets; split_ifs <;> rfl
@[simp] theorem dripPut_kft (r : DripRec) (s : State) :
    (dripPut r s).kft = s.kft := by unfold dripPut dripLose; extract_lets; split_ifs <;> rfl
@[simp] theorem dripPut_links (r : DripRec) (s : State) :
    (dripPut r s).links = s.links := by unfold dripPut dripLose; extract_lets; split_ifs <;> rfl
@[simp] theorem dripPut_lanes (r : DripRec) (s : State) :
    (dripPut r s).lanes = s.lanes := by unfold dripPut dripLose; extract_lets; split_ifs <;> rfl
@[simp] theorem dripPut_pfcPaused (r : DripRec) (s : State) :
    (dripPut r s).pfcPaused = s.pfcPaused := by unfold dripPut dripLose; extract_lets; split_ifs <;> rfl
@[simp] theorem dripPut_pfcSent (r : DripRec) (s : State) :
    (dripPut r s).pfcSent = s.pfcSent := by unfold dripPut dripLose; extract_lets; split_ifs <;> rfl
@[simp] theorem dripPut_ptp (r : DripRec) (s : State) :
    (dripPut r s).ptp = s.ptp := by unfold dripPut dripLose; extract_lets; split_ifs <;> rfl
@[simp] theorem dripPut_barrier (r : DripRec) (s : State) :
    (dripPut r s).barrier = s.barrier := by unfold dripPut dripLose; extract_lets; split_ifs <;> rfl
@[simp] theorem dripPut_coll (r : DripRec) (s : State) :
    (dripPut r s).coll = s.coll := by unfold dripPut dripLose; extract_lets; split_ifs <;> rfl
@[simp] theorem dripPut_carafe (r : DripRec) (s : State) :
    (dripPut r s).carafe = s.carafe := by unfold dripPut dripLose; extract_lets; split_ifs <;> rfl
@[simp] theorem dripPut_sp (r : DripRec) (s : State) :
    (dripPut r s).sp = s.sp := by unfold dripPut dripLose; extract_lets; split_ifs <;> rfl
@[simp] theorem dripPut_spPoison (r : DripRec) (s : State) :
    (dripPut r s).spPoison = s.spPoison := by unfold dripPut dripLose; extract_lets; split_ifs <;> rfl
@[simp] theorem dripPut_hostMem (r : DripRec) (s : State) :
    (dripPut r s).hostMem = s.hostMem := by unfold dripPut dripLose; extract_lets; split_ifs <;> rfl
@[simp] theorem dripPut_keyway (r : DripRec) (s : State) :
    (dripPut r s).keyway = s.keyway := by unfold dripPut dripLose; extract_lets; split_ifs <;> rfl
@[simp] theorem dripPut_mport (r : DripRec) (s : State) :
    (dripPut r s).mport = s.mport := by unfold dripPut dripLose; extract_lets; split_ifs <;> rfl
@[simp] theorem dripPut_pour (r : DripRec) (s : State) :
    (dripPut r s).pour = s.pour := by unfold dripPut dripLose; extract_lets; split_ifs <;> rfl
@[simp] theorem dripPut_recRing (r : DripRec) (s : State) :
    (dripPut r s).recRing = s.recRing := by unfold dripPut dripLose; extract_lets; split_ifs <;> rfl
@[simp] theorem dripPut_doms (r : DripRec) (s : State) :
    (dripPut r s).doms = s.doms := by unfold dripPut dripLose; extract_lets; split_ifs <;> rfl
@[simp] theorem dripPut_esc (r : DripRec) (s : State) :
    (dripPut r s).esc = s.esc := by unfold dripPut dripLose; extract_lets; split_ifs <;> rfl
@[simp] theorem dripPut_rlog (r : DripRec) (s : State) :
    (dripPut r s).rlog = s.rlog := by unfold dripPut dripLose; extract_lets; split_ifs <;> rfl
@[simp] theorem dripPut_rlogSeq (r : DripRec) (s : State) :
    (dripPut r s).rlogSeq = s.rlogSeq := by unfold dripPut dripLose; extract_lets; split_ifs <;> rfl
@[simp] theorem dripPut_rlogWait (r : DripRec) (s : State) :
    (dripPut r s).rlogWait = s.rlogWait := by unfold dripPut dripLose; extract_lets; split_ifs <;> rfl
@[simp] theorem dripPut_aoWait (r : DripRec) (s : State) :
    (dripPut r s).aoWait = s.aoWait := by unfold dripPut dripLose; extract_lets; split_ifs <;> rfl
@[simp] theorem dripPut_dump (r : DripRec) (s : State) :
    (dripPut r s).dump = s.dump := by unfold dripPut dripLose; extract_lets; split_ifs <;> rfl
@[simp] theorem dripPut_pwr (r : DripRec) (s : State) :
    (dripPut r s).pwr = s.pwr := by unfold dripPut dripLose; extract_lets; split_ifs <;> rfl
@[simp] theorem dripPut_plan (r : DripRec) (s : State) :
    (dripPut r s).plan = s.plan := by unfold dripPut dripLose; extract_lets; split_ifs <;> rfl
@[simp] theorem dripPut_vault (r : DripRec) (s : State) :
    (dripPut r s).vault = s.vault := by unfold dripPut dripLose; extract_lets; split_ifs <;> rfl
@[simp] theorem dripPut_fw (r : DripRec) (s : State) :
    (dripPut r s).fw = s.fw := by unfold dripPut dripLose; extract_lets; split_ifs <;> rfl
@[simp] theorem dripPut_mgmt (r : DripRec) (s : State) :
    (dripPut r s).mgmt = s.mgmt := by unfold dripPut dripLose; extract_lets; split_ifs <;> rfl

/-! `dripAt` writes nothing but drip. -/

@[simp] theorem dripAt_pending (kind unit payload : Nat) (s : State) :
    (dripAt kind unit payload s).pending = s.pending := by simp [dripAt]
@[simp] theorem dripAt_freeCtr (kind unit payload : Nat) (s : State) :
    (dripAt kind unit payload s).freeCtr = s.freeCtr := by simp [dripAt]
@[simp] theorem dripAt_rst (kind unit payload : Nat) (s : State) :
    (dripAt kind unit payload s).rst = s.rst := by simp [dripAt]
@[simp] theorem dripAt_kt (kind unit payload : Nat) (s : State) :
    (dripAt kind unit payload s).kt = s.kt := by simp [dripAt]
@[simp] theorem dripAt_fuses (kind unit payload : Nat) (s : State) :
    (dripAt kind unit payload s).fuses = s.fuses := by simp [dripAt]
@[simp] theorem dripAt_params (kind unit payload : Nat) (s : State) :
    (dripAt kind unit payload s).params = s.params := by simp [dripAt]
@[simp] theorem dripAt_pendParams (kind unit payload : Nat) (s : State) :
    (dripAt kind unit payload s).pendParams = s.pendParams := by simp [dripAt]
@[simp] theorem dripAt_counters (kind unit payload : Nat) (s : State) :
    (dripAt kind unit payload s).counters = s.counters := by simp [dripAt]
@[simp] theorem dripAt_latch (kind unit payload : Nat) (s : State) :
    (dripAt kind unit payload s).latch = s.latch := by simp [dripAt]
@[simp] theorem dripAt_ev (kind unit payload : Nat) (s : State) :
    (dripAt kind unit payload s).ev = s.ev := by simp [dripAt]
@[simp] theorem dripAt_job (kind unit payload : Nat) (s : State) :
    (dripAt kind unit payload s).job = s.job := by simp [dripAt]
@[simp] theorem dripAt_slots (kind unit payload : Nat) (s : State) :
    (dripAt kind unit payload s).slots = s.slots := by simp [dripAt]
@[simp] theorem dripAt_opBanks (kind unit payload : Nat) (s : State) :
    (dripAt kind unit payload s).opBanks = s.opBanks := by simp [dripAt]
@[simp] theorem dripAt_tensors (kind unit payload : Nat) (s : State) :
    (dripAt kind unit payload s).tensors = s.tensors := by simp [dripAt]
@[simp] theorem dripAt_duties (kind unit payload : Nat) (s : State) :
    (dripAt kind unit payload s).duties = s.duties := by simp [dripAt]
@[simp] theorem dripAt_spout (kind unit payload : Nat) (s : State) :
    (dripAt kind unit payload s).spout = s.spout := by simp [dripAt]
@[simp] theorem dripAt_funnelHeld (kind unit payload : Nat) (s : State) :
    (dripAt kind unit payload s).funnelHeld = s.funnelHeld := by simp [dripAt]
@[simp] theorem dripAt_ep (kind unit payload : Nat) (s : State) :
    (dripAt kind unit payload s).ep = s.ep := by simp [dripAt]
@[simp] theorem dripAt_keyring (kind unit payload : Nat) (s : State) :
    (dripAt kind unit payload s).keyring = s.keyring := by simp [dripAt]
@[simp] theorem dripAt_keyringBad (kind unit payload : Nat) (s : State) :
    (dripAt kind unit payload s).keyringBad = s.keyringBad := by simp [dripAt]
@[simp] theorem dripAt_bias (kind unit payload : Nat) (s : State) :
    (dripAt kind unit payload s).bias = s.bias := by simp [dripAt]
@[simp] theorem dripAt_kft (kind unit payload : Nat) (s : State) :
    (dripAt kind unit payload s).kft = s.kft := by simp [dripAt]
@[simp] theorem dripAt_links (kind unit payload : Nat) (s : State) :
    (dripAt kind unit payload s).links = s.links := by simp [dripAt]
@[simp] theorem dripAt_lanes (kind unit payload : Nat) (s : State) :
    (dripAt kind unit payload s).lanes = s.lanes := by simp [dripAt]
@[simp] theorem dripAt_pfcPaused (kind unit payload : Nat) (s : State) :
    (dripAt kind unit payload s).pfcPaused = s.pfcPaused := by simp [dripAt]
@[simp] theorem dripAt_pfcSent (kind unit payload : Nat) (s : State) :
    (dripAt kind unit payload s).pfcSent = s.pfcSent := by simp [dripAt]
@[simp] theorem dripAt_ptp (kind unit payload : Nat) (s : State) :
    (dripAt kind unit payload s).ptp = s.ptp := by simp [dripAt]
@[simp] theorem dripAt_barrier (kind unit payload : Nat) (s : State) :
    (dripAt kind unit payload s).barrier = s.barrier := by simp [dripAt]
@[simp] theorem dripAt_coll (kind unit payload : Nat) (s : State) :
    (dripAt kind unit payload s).coll = s.coll := by simp [dripAt]
@[simp] theorem dripAt_carafe (kind unit payload : Nat) (s : State) :
    (dripAt kind unit payload s).carafe = s.carafe := by simp [dripAt]
@[simp] theorem dripAt_sp (kind unit payload : Nat) (s : State) :
    (dripAt kind unit payload s).sp = s.sp := by simp [dripAt]
@[simp] theorem dripAt_spPoison (kind unit payload : Nat) (s : State) :
    (dripAt kind unit payload s).spPoison = s.spPoison := by simp [dripAt]
@[simp] theorem dripAt_hostMem (kind unit payload : Nat) (s : State) :
    (dripAt kind unit payload s).hostMem = s.hostMem := by simp [dripAt]
@[simp] theorem dripAt_keyway (kind unit payload : Nat) (s : State) :
    (dripAt kind unit payload s).keyway = s.keyway := by simp [dripAt]
@[simp] theorem dripAt_mport (kind unit payload : Nat) (s : State) :
    (dripAt kind unit payload s).mport = s.mport := by simp [dripAt]
@[simp] theorem dripAt_pour (kind unit payload : Nat) (s : State) :
    (dripAt kind unit payload s).pour = s.pour := by simp [dripAt]
@[simp] theorem dripAt_recRing (kind unit payload : Nat) (s : State) :
    (dripAt kind unit payload s).recRing = s.recRing := by simp [dripAt]
@[simp] theorem dripAt_doms (kind unit payload : Nat) (s : State) :
    (dripAt kind unit payload s).doms = s.doms := by simp [dripAt]
@[simp] theorem dripAt_esc (kind unit payload : Nat) (s : State) :
    (dripAt kind unit payload s).esc = s.esc := by simp [dripAt]
@[simp] theorem dripAt_rlog (kind unit payload : Nat) (s : State) :
    (dripAt kind unit payload s).rlog = s.rlog := by simp [dripAt]
@[simp] theorem dripAt_rlogSeq (kind unit payload : Nat) (s : State) :
    (dripAt kind unit payload s).rlogSeq = s.rlogSeq := by simp [dripAt]
@[simp] theorem dripAt_rlogWait (kind unit payload : Nat) (s : State) :
    (dripAt kind unit payload s).rlogWait = s.rlogWait := by simp [dripAt]
@[simp] theorem dripAt_aoWait (kind unit payload : Nat) (s : State) :
    (dripAt kind unit payload s).aoWait = s.aoWait := by simp [dripAt]
@[simp] theorem dripAt_dump (kind unit payload : Nat) (s : State) :
    (dripAt kind unit payload s).dump = s.dump := by simp [dripAt]
@[simp] theorem dripAt_pwr (kind unit payload : Nat) (s : State) :
    (dripAt kind unit payload s).pwr = s.pwr := by simp [dripAt]
@[simp] theorem dripAt_plan (kind unit payload : Nat) (s : State) :
    (dripAt kind unit payload s).plan = s.plan := by simp [dripAt]
@[simp] theorem dripAt_vault (kind unit payload : Nat) (s : State) :
    (dripAt kind unit payload s).vault = s.vault := by simp [dripAt]
@[simp] theorem dripAt_fw (kind unit payload : Nat) (s : State) :
    (dripAt kind unit payload s).fw = s.fw := by simp [dripAt]
@[simp] theorem dripAt_mgmt (kind unit payload : Nat) (s : State) :
    (dripAt kind unit payload s).mgmt = s.mgmt := by simp [dripAt]

/-! `dripSlot` writes nothing but drip. -/

@[simp] theorem dripSlot_pending (kind unit slot gen step payload : Nat) (s : State) :
    (dripSlot kind unit slot gen step payload s).pending = s.pending := by simp [dripSlot]
@[simp] theorem dripSlot_freeCtr (kind unit slot gen step payload : Nat) (s : State) :
    (dripSlot kind unit slot gen step payload s).freeCtr = s.freeCtr := by simp [dripSlot]
@[simp] theorem dripSlot_rst (kind unit slot gen step payload : Nat) (s : State) :
    (dripSlot kind unit slot gen step payload s).rst = s.rst := by simp [dripSlot]
@[simp] theorem dripSlot_kt (kind unit slot gen step payload : Nat) (s : State) :
    (dripSlot kind unit slot gen step payload s).kt = s.kt := by simp [dripSlot]
@[simp] theorem dripSlot_fuses (kind unit slot gen step payload : Nat) (s : State) :
    (dripSlot kind unit slot gen step payload s).fuses = s.fuses := by simp [dripSlot]
@[simp] theorem dripSlot_params (kind unit slot gen step payload : Nat) (s : State) :
    (dripSlot kind unit slot gen step payload s).params = s.params := by simp [dripSlot]
@[simp] theorem dripSlot_pendParams (kind unit slot gen step payload : Nat) (s : State) :
    (dripSlot kind unit slot gen step payload s).pendParams = s.pendParams := by simp [dripSlot]
@[simp] theorem dripSlot_counters (kind unit slot gen step payload : Nat) (s : State) :
    (dripSlot kind unit slot gen step payload s).counters = s.counters := by simp [dripSlot]
@[simp] theorem dripSlot_latch (kind unit slot gen step payload : Nat) (s : State) :
    (dripSlot kind unit slot gen step payload s).latch = s.latch := by simp [dripSlot]
@[simp] theorem dripSlot_ev (kind unit slot gen step payload : Nat) (s : State) :
    (dripSlot kind unit slot gen step payload s).ev = s.ev := by simp [dripSlot]
@[simp] theorem dripSlot_job (kind unit slot gen step payload : Nat) (s : State) :
    (dripSlot kind unit slot gen step payload s).job = s.job := by simp [dripSlot]
@[simp] theorem dripSlot_slots (kind unit slot gen step payload : Nat) (s : State) :
    (dripSlot kind unit slot gen step payload s).slots = s.slots := by simp [dripSlot]
@[simp] theorem dripSlot_opBanks (kind unit slot gen step payload : Nat) (s : State) :
    (dripSlot kind unit slot gen step payload s).opBanks = s.opBanks := by simp [dripSlot]
@[simp] theorem dripSlot_tensors (kind unit slot gen step payload : Nat) (s : State) :
    (dripSlot kind unit slot gen step payload s).tensors = s.tensors := by simp [dripSlot]
@[simp] theorem dripSlot_duties (kind unit slot gen step payload : Nat) (s : State) :
    (dripSlot kind unit slot gen step payload s).duties = s.duties := by simp [dripSlot]
@[simp] theorem dripSlot_spout (kind unit slot gen step payload : Nat) (s : State) :
    (dripSlot kind unit slot gen step payload s).spout = s.spout := by simp [dripSlot]
@[simp] theorem dripSlot_funnelHeld (kind unit slot gen step payload : Nat) (s : State) :
    (dripSlot kind unit slot gen step payload s).funnelHeld = s.funnelHeld := by simp [dripSlot]
@[simp] theorem dripSlot_ep (kind unit slot gen step payload : Nat) (s : State) :
    (dripSlot kind unit slot gen step payload s).ep = s.ep := by simp [dripSlot]
@[simp] theorem dripSlot_keyring (kind unit slot gen step payload : Nat) (s : State) :
    (dripSlot kind unit slot gen step payload s).keyring = s.keyring := by simp [dripSlot]
@[simp] theorem dripSlot_keyringBad (kind unit slot gen step payload : Nat) (s : State) :
    (dripSlot kind unit slot gen step payload s).keyringBad = s.keyringBad := by simp [dripSlot]
@[simp] theorem dripSlot_bias (kind unit slot gen step payload : Nat) (s : State) :
    (dripSlot kind unit slot gen step payload s).bias = s.bias := by simp [dripSlot]
@[simp] theorem dripSlot_kft (kind unit slot gen step payload : Nat) (s : State) :
    (dripSlot kind unit slot gen step payload s).kft = s.kft := by simp [dripSlot]
@[simp] theorem dripSlot_links (kind unit slot gen step payload : Nat) (s : State) :
    (dripSlot kind unit slot gen step payload s).links = s.links := by simp [dripSlot]
@[simp] theorem dripSlot_lanes (kind unit slot gen step payload : Nat) (s : State) :
    (dripSlot kind unit slot gen step payload s).lanes = s.lanes := by simp [dripSlot]
@[simp] theorem dripSlot_pfcPaused (kind unit slot gen step payload : Nat) (s : State) :
    (dripSlot kind unit slot gen step payload s).pfcPaused = s.pfcPaused := by simp [dripSlot]
@[simp] theorem dripSlot_pfcSent (kind unit slot gen step payload : Nat) (s : State) :
    (dripSlot kind unit slot gen step payload s).pfcSent = s.pfcSent := by simp [dripSlot]
@[simp] theorem dripSlot_ptp (kind unit slot gen step payload : Nat) (s : State) :
    (dripSlot kind unit slot gen step payload s).ptp = s.ptp := by simp [dripSlot]
@[simp] theorem dripSlot_barrier (kind unit slot gen step payload : Nat) (s : State) :
    (dripSlot kind unit slot gen step payload s).barrier = s.barrier := by simp [dripSlot]
@[simp] theorem dripSlot_coll (kind unit slot gen step payload : Nat) (s : State) :
    (dripSlot kind unit slot gen step payload s).coll = s.coll := by simp [dripSlot]
@[simp] theorem dripSlot_carafe (kind unit slot gen step payload : Nat) (s : State) :
    (dripSlot kind unit slot gen step payload s).carafe = s.carafe := by simp [dripSlot]
@[simp] theorem dripSlot_sp (kind unit slot gen step payload : Nat) (s : State) :
    (dripSlot kind unit slot gen step payload s).sp = s.sp := by simp [dripSlot]
@[simp] theorem dripSlot_spPoison (kind unit slot gen step payload : Nat) (s : State) :
    (dripSlot kind unit slot gen step payload s).spPoison = s.spPoison := by simp [dripSlot]
@[simp] theorem dripSlot_hostMem (kind unit slot gen step payload : Nat) (s : State) :
    (dripSlot kind unit slot gen step payload s).hostMem = s.hostMem := by simp [dripSlot]
@[simp] theorem dripSlot_keyway (kind unit slot gen step payload : Nat) (s : State) :
    (dripSlot kind unit slot gen step payload s).keyway = s.keyway := by simp [dripSlot]
@[simp] theorem dripSlot_mport (kind unit slot gen step payload : Nat) (s : State) :
    (dripSlot kind unit slot gen step payload s).mport = s.mport := by simp [dripSlot]
@[simp] theorem dripSlot_pour (kind unit slot gen step payload : Nat) (s : State) :
    (dripSlot kind unit slot gen step payload s).pour = s.pour := by simp [dripSlot]
@[simp] theorem dripSlot_recRing (kind unit slot gen step payload : Nat) (s : State) :
    (dripSlot kind unit slot gen step payload s).recRing = s.recRing := by simp [dripSlot]
@[simp] theorem dripSlot_doms (kind unit slot gen step payload : Nat) (s : State) :
    (dripSlot kind unit slot gen step payload s).doms = s.doms := by simp [dripSlot]
@[simp] theorem dripSlot_esc (kind unit slot gen step payload : Nat) (s : State) :
    (dripSlot kind unit slot gen step payload s).esc = s.esc := by simp [dripSlot]
@[simp] theorem dripSlot_rlog (kind unit slot gen step payload : Nat) (s : State) :
    (dripSlot kind unit slot gen step payload s).rlog = s.rlog := by simp [dripSlot]
@[simp] theorem dripSlot_rlogSeq (kind unit slot gen step payload : Nat) (s : State) :
    (dripSlot kind unit slot gen step payload s).rlogSeq = s.rlogSeq := by simp [dripSlot]
@[simp] theorem dripSlot_rlogWait (kind unit slot gen step payload : Nat) (s : State) :
    (dripSlot kind unit slot gen step payload s).rlogWait = s.rlogWait := by simp [dripSlot]
@[simp] theorem dripSlot_aoWait (kind unit slot gen step payload : Nat) (s : State) :
    (dripSlot kind unit slot gen step payload s).aoWait = s.aoWait := by simp [dripSlot]
@[simp] theorem dripSlot_dump (kind unit slot gen step payload : Nat) (s : State) :
    (dripSlot kind unit slot gen step payload s).dump = s.dump := by simp [dripSlot]
@[simp] theorem dripSlot_pwr (kind unit slot gen step payload : Nat) (s : State) :
    (dripSlot kind unit slot gen step payload s).pwr = s.pwr := by simp [dripSlot]
@[simp] theorem dripSlot_plan (kind unit slot gen step payload : Nat) (s : State) :
    (dripSlot kind unit slot gen step payload s).plan = s.plan := by simp [dripSlot]
@[simp] theorem dripSlot_vault (kind unit slot gen step payload : Nat) (s : State) :
    (dripSlot kind unit slot gen step payload s).vault = s.vault := by simp [dripSlot]
@[simp] theorem dripSlot_fw (kind unit slot gen step payload : Nat) (s : State) :
    (dripSlot kind unit slot gen step payload s).fw = s.fw := by simp [dripSlot]
@[simp] theorem dripSlot_mgmt (kind unit slot gen step payload : Nat) (s : State) :
    (dripSlot kind unit slot gen step payload s).mgmt = s.mgmt := by simp [dripSlot]

/-! `recPut` writes nothing but recRing. -/

@[simp] theorem recPut_pending (e : RecEnt) (s : State) :
    (recPut e s).pending = s.pending := by unfold recPut recLose; extract_lets; split_ifs <;> rfl
@[simp] theorem recPut_freeCtr (e : RecEnt) (s : State) :
    (recPut e s).freeCtr = s.freeCtr := by unfold recPut recLose; extract_lets; split_ifs <;> rfl
@[simp] theorem recPut_rst (e : RecEnt) (s : State) :
    (recPut e s).rst = s.rst := by unfold recPut recLose; extract_lets; split_ifs <;> rfl
@[simp] theorem recPut_kt (e : RecEnt) (s : State) :
    (recPut e s).kt = s.kt := by unfold recPut recLose; extract_lets; split_ifs <;> rfl
@[simp] theorem recPut_fuses (e : RecEnt) (s : State) :
    (recPut e s).fuses = s.fuses := by unfold recPut recLose; extract_lets; split_ifs <;> rfl
@[simp] theorem recPut_params (e : RecEnt) (s : State) :
    (recPut e s).params = s.params := by unfold recPut recLose; extract_lets; split_ifs <;> rfl
@[simp] theorem recPut_pendParams (e : RecEnt) (s : State) :
    (recPut e s).pendParams = s.pendParams := by unfold recPut recLose; extract_lets; split_ifs <;> rfl
@[simp] theorem recPut_counters (e : RecEnt) (s : State) :
    (recPut e s).counters = s.counters := by unfold recPut recLose; extract_lets; split_ifs <;> rfl
@[simp] theorem recPut_latch (e : RecEnt) (s : State) :
    (recPut e s).latch = s.latch := by unfold recPut recLose; extract_lets; split_ifs <;> rfl
@[simp] theorem recPut_ev (e : RecEnt) (s : State) :
    (recPut e s).ev = s.ev := by unfold recPut recLose; extract_lets; split_ifs <;> rfl
@[simp] theorem recPut_job (e : RecEnt) (s : State) :
    (recPut e s).job = s.job := by unfold recPut recLose; extract_lets; split_ifs <;> rfl
@[simp] theorem recPut_slots (e : RecEnt) (s : State) :
    (recPut e s).slots = s.slots := by unfold recPut recLose; extract_lets; split_ifs <;> rfl
@[simp] theorem recPut_opBanks (e : RecEnt) (s : State) :
    (recPut e s).opBanks = s.opBanks := by unfold recPut recLose; extract_lets; split_ifs <;> rfl
@[simp] theorem recPut_tensors (e : RecEnt) (s : State) :
    (recPut e s).tensors = s.tensors := by unfold recPut recLose; extract_lets; split_ifs <;> rfl
@[simp] theorem recPut_duties (e : RecEnt) (s : State) :
    (recPut e s).duties = s.duties := by unfold recPut recLose; extract_lets; split_ifs <;> rfl
@[simp] theorem recPut_spout (e : RecEnt) (s : State) :
    (recPut e s).spout = s.spout := by unfold recPut recLose; extract_lets; split_ifs <;> rfl
@[simp] theorem recPut_funnelHeld (e : RecEnt) (s : State) :
    (recPut e s).funnelHeld = s.funnelHeld := by unfold recPut recLose; extract_lets; split_ifs <;> rfl
@[simp] theorem recPut_ep (e : RecEnt) (s : State) :
    (recPut e s).ep = s.ep := by unfold recPut recLose; extract_lets; split_ifs <;> rfl
@[simp] theorem recPut_keyring (e : RecEnt) (s : State) :
    (recPut e s).keyring = s.keyring := by unfold recPut recLose; extract_lets; split_ifs <;> rfl
@[simp] theorem recPut_keyringBad (e : RecEnt) (s : State) :
    (recPut e s).keyringBad = s.keyringBad := by unfold recPut recLose; extract_lets; split_ifs <;> rfl
@[simp] theorem recPut_bias (e : RecEnt) (s : State) :
    (recPut e s).bias = s.bias := by unfold recPut recLose; extract_lets; split_ifs <;> rfl
@[simp] theorem recPut_kft (e : RecEnt) (s : State) :
    (recPut e s).kft = s.kft := by unfold recPut recLose; extract_lets; split_ifs <;> rfl
@[simp] theorem recPut_links (e : RecEnt) (s : State) :
    (recPut e s).links = s.links := by unfold recPut recLose; extract_lets; split_ifs <;> rfl
@[simp] theorem recPut_lanes (e : RecEnt) (s : State) :
    (recPut e s).lanes = s.lanes := by unfold recPut recLose; extract_lets; split_ifs <;> rfl
@[simp] theorem recPut_pfcPaused (e : RecEnt) (s : State) :
    (recPut e s).pfcPaused = s.pfcPaused := by unfold recPut recLose; extract_lets; split_ifs <;> rfl
@[simp] theorem recPut_pfcSent (e : RecEnt) (s : State) :
    (recPut e s).pfcSent = s.pfcSent := by unfold recPut recLose; extract_lets; split_ifs <;> rfl
@[simp] theorem recPut_ptp (e : RecEnt) (s : State) :
    (recPut e s).ptp = s.ptp := by unfold recPut recLose; extract_lets; split_ifs <;> rfl
@[simp] theorem recPut_barrier (e : RecEnt) (s : State) :
    (recPut e s).barrier = s.barrier := by unfold recPut recLose; extract_lets; split_ifs <;> rfl
@[simp] theorem recPut_coll (e : RecEnt) (s : State) :
    (recPut e s).coll = s.coll := by unfold recPut recLose; extract_lets; split_ifs <;> rfl
@[simp] theorem recPut_carafe (e : RecEnt) (s : State) :
    (recPut e s).carafe = s.carafe := by unfold recPut recLose; extract_lets; split_ifs <;> rfl
@[simp] theorem recPut_sp (e : RecEnt) (s : State) :
    (recPut e s).sp = s.sp := by unfold recPut recLose; extract_lets; split_ifs <;> rfl
@[simp] theorem recPut_spPoison (e : RecEnt) (s : State) :
    (recPut e s).spPoison = s.spPoison := by unfold recPut recLose; extract_lets; split_ifs <;> rfl
@[simp] theorem recPut_hostMem (e : RecEnt) (s : State) :
    (recPut e s).hostMem = s.hostMem := by unfold recPut recLose; extract_lets; split_ifs <;> rfl
@[simp] theorem recPut_keyway (e : RecEnt) (s : State) :
    (recPut e s).keyway = s.keyway := by unfold recPut recLose; extract_lets; split_ifs <;> rfl
@[simp] theorem recPut_mport (e : RecEnt) (s : State) :
    (recPut e s).mport = s.mport := by unfold recPut recLose; extract_lets; split_ifs <;> rfl
@[simp] theorem recPut_pour (e : RecEnt) (s : State) :
    (recPut e s).pour = s.pour := by unfold recPut recLose; extract_lets; split_ifs <;> rfl
@[simp] theorem recPut_drip (e : RecEnt) (s : State) :
    (recPut e s).drip = s.drip := by unfold recPut recLose; extract_lets; split_ifs <;> rfl
@[simp] theorem recPut_doms (e : RecEnt) (s : State) :
    (recPut e s).doms = s.doms := by unfold recPut recLose; extract_lets; split_ifs <;> rfl
@[simp] theorem recPut_esc (e : RecEnt) (s : State) :
    (recPut e s).esc = s.esc := by unfold recPut recLose; extract_lets; split_ifs <;> rfl
@[simp] theorem recPut_rlog (e : RecEnt) (s : State) :
    (recPut e s).rlog = s.rlog := by unfold recPut recLose; extract_lets; split_ifs <;> rfl
@[simp] theorem recPut_rlogSeq (e : RecEnt) (s : State) :
    (recPut e s).rlogSeq = s.rlogSeq := by unfold recPut recLose; extract_lets; split_ifs <;> rfl
@[simp] theorem recPut_rlogWait (e : RecEnt) (s : State) :
    (recPut e s).rlogWait = s.rlogWait := by unfold recPut recLose; extract_lets; split_ifs <;> rfl
@[simp] theorem recPut_aoWait (e : RecEnt) (s : State) :
    (recPut e s).aoWait = s.aoWait := by unfold recPut recLose; extract_lets; split_ifs <;> rfl
@[simp] theorem recPut_dump (e : RecEnt) (s : State) :
    (recPut e s).dump = s.dump := by unfold recPut recLose; extract_lets; split_ifs <;> rfl
@[simp] theorem recPut_pwr (e : RecEnt) (s : State) :
    (recPut e s).pwr = s.pwr := by unfold recPut recLose; extract_lets; split_ifs <;> rfl
@[simp] theorem recPut_plan (e : RecEnt) (s : State) :
    (recPut e s).plan = s.plan := by unfold recPut recLose; extract_lets; split_ifs <;> rfl
@[simp] theorem recPut_vault (e : RecEnt) (s : State) :
    (recPut e s).vault = s.vault := by unfold recPut recLose; extract_lets; split_ifs <;> rfl
@[simp] theorem recPut_fw (e : RecEnt) (s : State) :
    (recPut e s).fw = s.fw := by unfold recPut recLose; extract_lets; split_ifs <;> rfl
@[simp] theorem recPut_mgmt (e : RecEnt) (s : State) :
    (recPut e s).mgmt = s.mgmt := by unfold recPut recLose; extract_lets; split_ifs <;> rfl

/-! `recOriginal` writes nothing but recRing. -/

@[simp] theorem recOriginal_pending (k source link : Nat) (poison : Bool) (orig : List Byte) (s : State) :
    (recOriginal k source link poison orig s).pending = s.pending := by unfold recOriginal; extract_lets; split_ifs <;> simp
@[simp] theorem recOriginal_freeCtr (k source link : Nat) (poison : Bool) (orig : List Byte) (s : State) :
    (recOriginal k source link poison orig s).freeCtr = s.freeCtr := by unfold recOriginal; extract_lets; split_ifs <;> simp
@[simp] theorem recOriginal_rst (k source link : Nat) (poison : Bool) (orig : List Byte) (s : State) :
    (recOriginal k source link poison orig s).rst = s.rst := by unfold recOriginal; extract_lets; split_ifs <;> simp
@[simp] theorem recOriginal_kt (k source link : Nat) (poison : Bool) (orig : List Byte) (s : State) :
    (recOriginal k source link poison orig s).kt = s.kt := by unfold recOriginal; extract_lets; split_ifs <;> simp
@[simp] theorem recOriginal_fuses (k source link : Nat) (poison : Bool) (orig : List Byte) (s : State) :
    (recOriginal k source link poison orig s).fuses = s.fuses := by unfold recOriginal; extract_lets; split_ifs <;> simp
@[simp] theorem recOriginal_params (k source link : Nat) (poison : Bool) (orig : List Byte) (s : State) :
    (recOriginal k source link poison orig s).params = s.params := by unfold recOriginal; extract_lets; split_ifs <;> simp
@[simp] theorem recOriginal_pendParams (k source link : Nat) (poison : Bool) (orig : List Byte) (s : State) :
    (recOriginal k source link poison orig s).pendParams = s.pendParams := by unfold recOriginal; extract_lets; split_ifs <;> simp
@[simp] theorem recOriginal_counters (k source link : Nat) (poison : Bool) (orig : List Byte) (s : State) :
    (recOriginal k source link poison orig s).counters = s.counters := by unfold recOriginal; extract_lets; split_ifs <;> simp
@[simp] theorem recOriginal_latch (k source link : Nat) (poison : Bool) (orig : List Byte) (s : State) :
    (recOriginal k source link poison orig s).latch = s.latch := by unfold recOriginal; extract_lets; split_ifs <;> simp
@[simp] theorem recOriginal_ev (k source link : Nat) (poison : Bool) (orig : List Byte) (s : State) :
    (recOriginal k source link poison orig s).ev = s.ev := by unfold recOriginal; extract_lets; split_ifs <;> simp
@[simp] theorem recOriginal_job (k source link : Nat) (poison : Bool) (orig : List Byte) (s : State) :
    (recOriginal k source link poison orig s).job = s.job := by unfold recOriginal; extract_lets; split_ifs <;> simp
@[simp] theorem recOriginal_slots (k source link : Nat) (poison : Bool) (orig : List Byte) (s : State) :
    (recOriginal k source link poison orig s).slots = s.slots := by unfold recOriginal; extract_lets; split_ifs <;> simp
@[simp] theorem recOriginal_opBanks (k source link : Nat) (poison : Bool) (orig : List Byte) (s : State) :
    (recOriginal k source link poison orig s).opBanks = s.opBanks := by unfold recOriginal; extract_lets; split_ifs <;> simp
@[simp] theorem recOriginal_tensors (k source link : Nat) (poison : Bool) (orig : List Byte) (s : State) :
    (recOriginal k source link poison orig s).tensors = s.tensors := by unfold recOriginal; extract_lets; split_ifs <;> simp
@[simp] theorem recOriginal_duties (k source link : Nat) (poison : Bool) (orig : List Byte) (s : State) :
    (recOriginal k source link poison orig s).duties = s.duties := by unfold recOriginal; extract_lets; split_ifs <;> simp
@[simp] theorem recOriginal_spout (k source link : Nat) (poison : Bool) (orig : List Byte) (s : State) :
    (recOriginal k source link poison orig s).spout = s.spout := by unfold recOriginal; extract_lets; split_ifs <;> simp
@[simp] theorem recOriginal_funnelHeld (k source link : Nat) (poison : Bool) (orig : List Byte) (s : State) :
    (recOriginal k source link poison orig s).funnelHeld = s.funnelHeld := by unfold recOriginal; extract_lets; split_ifs <;> simp
@[simp] theorem recOriginal_ep (k source link : Nat) (poison : Bool) (orig : List Byte) (s : State) :
    (recOriginal k source link poison orig s).ep = s.ep := by unfold recOriginal; extract_lets; split_ifs <;> simp
@[simp] theorem recOriginal_keyring (k source link : Nat) (poison : Bool) (orig : List Byte) (s : State) :
    (recOriginal k source link poison orig s).keyring = s.keyring := by unfold recOriginal; extract_lets; split_ifs <;> simp
@[simp] theorem recOriginal_keyringBad (k source link : Nat) (poison : Bool) (orig : List Byte) (s : State) :
    (recOriginal k source link poison orig s).keyringBad = s.keyringBad := by unfold recOriginal; extract_lets; split_ifs <;> simp
@[simp] theorem recOriginal_bias (k source link : Nat) (poison : Bool) (orig : List Byte) (s : State) :
    (recOriginal k source link poison orig s).bias = s.bias := by unfold recOriginal; extract_lets; split_ifs <;> simp
@[simp] theorem recOriginal_kft (k source link : Nat) (poison : Bool) (orig : List Byte) (s : State) :
    (recOriginal k source link poison orig s).kft = s.kft := by unfold recOriginal; extract_lets; split_ifs <;> simp
@[simp] theorem recOriginal_links (k source link : Nat) (poison : Bool) (orig : List Byte) (s : State) :
    (recOriginal k source link poison orig s).links = s.links := by unfold recOriginal; extract_lets; split_ifs <;> simp
@[simp] theorem recOriginal_lanes (k source link : Nat) (poison : Bool) (orig : List Byte) (s : State) :
    (recOriginal k source link poison orig s).lanes = s.lanes := by unfold recOriginal; extract_lets; split_ifs <;> simp
@[simp] theorem recOriginal_pfcPaused (k source link : Nat) (poison : Bool) (orig : List Byte) (s : State) :
    (recOriginal k source link poison orig s).pfcPaused = s.pfcPaused := by unfold recOriginal; extract_lets; split_ifs <;> simp
@[simp] theorem recOriginal_pfcSent (k source link : Nat) (poison : Bool) (orig : List Byte) (s : State) :
    (recOriginal k source link poison orig s).pfcSent = s.pfcSent := by unfold recOriginal; extract_lets; split_ifs <;> simp
@[simp] theorem recOriginal_ptp (k source link : Nat) (poison : Bool) (orig : List Byte) (s : State) :
    (recOriginal k source link poison orig s).ptp = s.ptp := by unfold recOriginal; extract_lets; split_ifs <;> simp
@[simp] theorem recOriginal_barrier (k source link : Nat) (poison : Bool) (orig : List Byte) (s : State) :
    (recOriginal k source link poison orig s).barrier = s.barrier := by unfold recOriginal; extract_lets; split_ifs <;> simp
@[simp] theorem recOriginal_coll (k source link : Nat) (poison : Bool) (orig : List Byte) (s : State) :
    (recOriginal k source link poison orig s).coll = s.coll := by unfold recOriginal; extract_lets; split_ifs <;> simp
@[simp] theorem recOriginal_carafe (k source link : Nat) (poison : Bool) (orig : List Byte) (s : State) :
    (recOriginal k source link poison orig s).carafe = s.carafe := by unfold recOriginal; extract_lets; split_ifs <;> simp
@[simp] theorem recOriginal_sp (k source link : Nat) (poison : Bool) (orig : List Byte) (s : State) :
    (recOriginal k source link poison orig s).sp = s.sp := by unfold recOriginal; extract_lets; split_ifs <;> simp
@[simp] theorem recOriginal_spPoison (k source link : Nat) (poison : Bool) (orig : List Byte) (s : State) :
    (recOriginal k source link poison orig s).spPoison = s.spPoison := by unfold recOriginal; extract_lets; split_ifs <;> simp
@[simp] theorem recOriginal_hostMem (k source link : Nat) (poison : Bool) (orig : List Byte) (s : State) :
    (recOriginal k source link poison orig s).hostMem = s.hostMem := by unfold recOriginal; extract_lets; split_ifs <;> simp
@[simp] theorem recOriginal_keyway (k source link : Nat) (poison : Bool) (orig : List Byte) (s : State) :
    (recOriginal k source link poison orig s).keyway = s.keyway := by unfold recOriginal; extract_lets; split_ifs <;> simp
@[simp] theorem recOriginal_mport (k source link : Nat) (poison : Bool) (orig : List Byte) (s : State) :
    (recOriginal k source link poison orig s).mport = s.mport := by unfold recOriginal; extract_lets; split_ifs <;> simp
@[simp] theorem recOriginal_pour (k source link : Nat) (poison : Bool) (orig : List Byte) (s : State) :
    (recOriginal k source link poison orig s).pour = s.pour := by unfold recOriginal; extract_lets; split_ifs <;> simp
@[simp] theorem recOriginal_drip (k source link : Nat) (poison : Bool) (orig : List Byte) (s : State) :
    (recOriginal k source link poison orig s).drip = s.drip := by unfold recOriginal; extract_lets; split_ifs <;> simp
@[simp] theorem recOriginal_doms (k source link : Nat) (poison : Bool) (orig : List Byte) (s : State) :
    (recOriginal k source link poison orig s).doms = s.doms := by unfold recOriginal; extract_lets; split_ifs <;> simp
@[simp] theorem recOriginal_esc (k source link : Nat) (poison : Bool) (orig : List Byte) (s : State) :
    (recOriginal k source link poison orig s).esc = s.esc := by unfold recOriginal; extract_lets; split_ifs <;> simp
@[simp] theorem recOriginal_rlog (k source link : Nat) (poison : Bool) (orig : List Byte) (s : State) :
    (recOriginal k source link poison orig s).rlog = s.rlog := by unfold recOriginal; extract_lets; split_ifs <;> simp
@[simp] theorem recOriginal_rlogSeq (k source link : Nat) (poison : Bool) (orig : List Byte) (s : State) :
    (recOriginal k source link poison orig s).rlogSeq = s.rlogSeq := by unfold recOriginal; extract_lets; split_ifs <;> simp
@[simp] theorem recOriginal_rlogWait (k source link : Nat) (poison : Bool) (orig : List Byte) (s : State) :
    (recOriginal k source link poison orig s).rlogWait = s.rlogWait := by unfold recOriginal; extract_lets; split_ifs <;> simp
@[simp] theorem recOriginal_aoWait (k source link : Nat) (poison : Bool) (orig : List Byte) (s : State) :
    (recOriginal k source link poison orig s).aoWait = s.aoWait := by unfold recOriginal; extract_lets; split_ifs <;> simp
@[simp] theorem recOriginal_dump (k source link : Nat) (poison : Bool) (orig : List Byte) (s : State) :
    (recOriginal k source link poison orig s).dump = s.dump := by unfold recOriginal; extract_lets; split_ifs <;> simp
@[simp] theorem recOriginal_pwr (k source link : Nat) (poison : Bool) (orig : List Byte) (s : State) :
    (recOriginal k source link poison orig s).pwr = s.pwr := by unfold recOriginal; extract_lets; split_ifs <;> simp
@[simp] theorem recOriginal_plan (k source link : Nat) (poison : Bool) (orig : List Byte) (s : State) :
    (recOriginal k source link poison orig s).plan = s.plan := by unfold recOriginal; extract_lets; split_ifs <;> simp
@[simp] theorem recOriginal_vault (k source link : Nat) (poison : Bool) (orig : List Byte) (s : State) :
    (recOriginal k source link poison orig s).vault = s.vault := by unfold recOriginal; extract_lets; split_ifs <;> simp
@[simp] theorem recOriginal_fw (k source link : Nat) (poison : Bool) (orig : List Byte) (s : State) :
    (recOriginal k source link poison orig s).fw = s.fw := by unfold recOriginal; extract_lets; split_ifs <;> simp
@[simp] theorem recOriginal_mgmt (k source link : Nat) (poison : Bool) (orig : List Byte) (s : State) :
    (recOriginal k source link poison orig s).mgmt = s.mgmt := by unfold recOriginal; extract_lets; split_ifs <;> simp

/-! `evQueue` writes nothing but ev, counters. -/

@[simp] theorem evQueue_pending (e : Event) (s : State) :
    (evQueue e s).pending = s.pending := by unfold evQueue; extract_lets; split_ifs <;> first | rfl | (split <;> rfl)
@[simp] theorem evQueue_freeCtr (e : Event) (s : State) :
    (evQueue e s).freeCtr = s.freeCtr := by unfold evQueue; extract_lets; split_ifs <;> first | rfl | (split <;> rfl)
@[simp] theorem evQueue_rst (e : Event) (s : State) :
    (evQueue e s).rst = s.rst := by unfold evQueue; extract_lets; split_ifs <;> first | rfl | (split <;> rfl)
@[simp] theorem evQueue_kt (e : Event) (s : State) :
    (evQueue e s).kt = s.kt := by unfold evQueue; extract_lets; split_ifs <;> first | rfl | (split <;> rfl)
@[simp] theorem evQueue_fuses (e : Event) (s : State) :
    (evQueue e s).fuses = s.fuses := by unfold evQueue; extract_lets; split_ifs <;> first | rfl | (split <;> rfl)
@[simp] theorem evQueue_params (e : Event) (s : State) :
    (evQueue e s).params = s.params := by unfold evQueue; extract_lets; split_ifs <;> first | rfl | (split <;> rfl)
@[simp] theorem evQueue_pendParams (e : Event) (s : State) :
    (evQueue e s).pendParams = s.pendParams := by unfold evQueue; extract_lets; split_ifs <;> first | rfl | (split <;> rfl)
@[simp] theorem evQueue_latch (e : Event) (s : State) :
    (evQueue e s).latch = s.latch := by unfold evQueue; extract_lets; split_ifs <;> first | rfl | (split <;> rfl)
@[simp] theorem evQueue_job (e : Event) (s : State) :
    (evQueue e s).job = s.job := by unfold evQueue; extract_lets; split_ifs <;> first | rfl | (split <;> rfl)
@[simp] theorem evQueue_slots (e : Event) (s : State) :
    (evQueue e s).slots = s.slots := by unfold evQueue; extract_lets; split_ifs <;> first | rfl | (split <;> rfl)
@[simp] theorem evQueue_opBanks (e : Event) (s : State) :
    (evQueue e s).opBanks = s.opBanks := by unfold evQueue; extract_lets; split_ifs <;> first | rfl | (split <;> rfl)
@[simp] theorem evQueue_tensors (e : Event) (s : State) :
    (evQueue e s).tensors = s.tensors := by unfold evQueue; extract_lets; split_ifs <;> first | rfl | (split <;> rfl)
@[simp] theorem evQueue_duties (e : Event) (s : State) :
    (evQueue e s).duties = s.duties := by unfold evQueue; extract_lets; split_ifs <;> first | rfl | (split <;> rfl)
@[simp] theorem evQueue_spout (e : Event) (s : State) :
    (evQueue e s).spout = s.spout := by unfold evQueue; extract_lets; split_ifs <;> first | rfl | (split <;> rfl)
@[simp] theorem evQueue_funnelHeld (e : Event) (s : State) :
    (evQueue e s).funnelHeld = s.funnelHeld := by unfold evQueue; extract_lets; split_ifs <;> first | rfl | (split <;> rfl)
@[simp] theorem evQueue_ep (e : Event) (s : State) :
    (evQueue e s).ep = s.ep := by unfold evQueue; extract_lets; split_ifs <;> first | rfl | (split <;> rfl)
@[simp] theorem evQueue_keyring (e : Event) (s : State) :
    (evQueue e s).keyring = s.keyring := by unfold evQueue; extract_lets; split_ifs <;> first | rfl | (split <;> rfl)
@[simp] theorem evQueue_keyringBad (e : Event) (s : State) :
    (evQueue e s).keyringBad = s.keyringBad := by unfold evQueue; extract_lets; split_ifs <;> first | rfl | (split <;> rfl)
@[simp] theorem evQueue_bias (e : Event) (s : State) :
    (evQueue e s).bias = s.bias := by unfold evQueue; extract_lets; split_ifs <;> first | rfl | (split <;> rfl)
@[simp] theorem evQueue_kft (e : Event) (s : State) :
    (evQueue e s).kft = s.kft := by unfold evQueue; extract_lets; split_ifs <;> first | rfl | (split <;> rfl)
@[simp] theorem evQueue_links (e : Event) (s : State) :
    (evQueue e s).links = s.links := by unfold evQueue; extract_lets; split_ifs <;> first | rfl | (split <;> rfl)
@[simp] theorem evQueue_lanes (e : Event) (s : State) :
    (evQueue e s).lanes = s.lanes := by unfold evQueue; extract_lets; split_ifs <;> first | rfl | (split <;> rfl)
@[simp] theorem evQueue_pfcPaused (e : Event) (s : State) :
    (evQueue e s).pfcPaused = s.pfcPaused := by unfold evQueue; extract_lets; split_ifs <;> first | rfl | (split <;> rfl)
@[simp] theorem evQueue_pfcSent (e : Event) (s : State) :
    (evQueue e s).pfcSent = s.pfcSent := by unfold evQueue; extract_lets; split_ifs <;> first | rfl | (split <;> rfl)
@[simp] theorem evQueue_ptp (e : Event) (s : State) :
    (evQueue e s).ptp = s.ptp := by unfold evQueue; extract_lets; split_ifs <;> first | rfl | (split <;> rfl)
@[simp] theorem evQueue_barrier (e : Event) (s : State) :
    (evQueue e s).barrier = s.barrier := by unfold evQueue; extract_lets; split_ifs <;> first | rfl | (split <;> rfl)
@[simp] theorem evQueue_coll (e : Event) (s : State) :
    (evQueue e s).coll = s.coll := by unfold evQueue; extract_lets; split_ifs <;> first | rfl | (split <;> rfl)
@[simp] theorem evQueue_carafe (e : Event) (s : State) :
    (evQueue e s).carafe = s.carafe := by unfold evQueue; extract_lets; split_ifs <;> first | rfl | (split <;> rfl)
@[simp] theorem evQueue_sp (e : Event) (s : State) :
    (evQueue e s).sp = s.sp := by unfold evQueue; extract_lets; split_ifs <;> first | rfl | (split <;> rfl)
@[simp] theorem evQueue_spPoison (e : Event) (s : State) :
    (evQueue e s).spPoison = s.spPoison := by unfold evQueue; extract_lets; split_ifs <;> first | rfl | (split <;> rfl)
@[simp] theorem evQueue_hostMem (e : Event) (s : State) :
    (evQueue e s).hostMem = s.hostMem := by unfold evQueue; extract_lets; split_ifs <;> first | rfl | (split <;> rfl)
@[simp] theorem evQueue_keyway (e : Event) (s : State) :
    (evQueue e s).keyway = s.keyway := by unfold evQueue; extract_lets; split_ifs <;> first | rfl | (split <;> rfl)
@[simp] theorem evQueue_mport (e : Event) (s : State) :
    (evQueue e s).mport = s.mport := by unfold evQueue; extract_lets; split_ifs <;> first | rfl | (split <;> rfl)
@[simp] theorem evQueue_pour (e : Event) (s : State) :
    (evQueue e s).pour = s.pour := by unfold evQueue; extract_lets; split_ifs <;> first | rfl | (split <;> rfl)
@[simp] theorem evQueue_recRing (e : Event) (s : State) :
    (evQueue e s).recRing = s.recRing := by unfold evQueue; extract_lets; split_ifs <;> first | rfl | (split <;> rfl)
@[simp] theorem evQueue_drip (e : Event) (s : State) :
    (evQueue e s).drip = s.drip := by unfold evQueue; extract_lets; split_ifs <;> first | rfl | (split <;> rfl)
@[simp] theorem evQueue_doms (e : Event) (s : State) :
    (evQueue e s).doms = s.doms := by unfold evQueue; extract_lets; split_ifs <;> first | rfl | (split <;> rfl)
@[simp] theorem evQueue_esc (e : Event) (s : State) :
    (evQueue e s).esc = s.esc := by unfold evQueue; extract_lets; split_ifs <;> first | rfl | (split <;> rfl)
@[simp] theorem evQueue_rlog (e : Event) (s : State) :
    (evQueue e s).rlog = s.rlog := by unfold evQueue; extract_lets; split_ifs <;> first | rfl | (split <;> rfl)
@[simp] theorem evQueue_rlogSeq (e : Event) (s : State) :
    (evQueue e s).rlogSeq = s.rlogSeq := by unfold evQueue; extract_lets; split_ifs <;> first | rfl | (split <;> rfl)
@[simp] theorem evQueue_rlogWait (e : Event) (s : State) :
    (evQueue e s).rlogWait = s.rlogWait := by unfold evQueue; extract_lets; split_ifs <;> first | rfl | (split <;> rfl)
@[simp] theorem evQueue_aoWait (e : Event) (s : State) :
    (evQueue e s).aoWait = s.aoWait := by unfold evQueue; extract_lets; split_ifs <;> first | rfl | (split <;> rfl)
@[simp] theorem evQueue_dump (e : Event) (s : State) :
    (evQueue e s).dump = s.dump := by unfold evQueue; extract_lets; split_ifs <;> first | rfl | (split <;> rfl)
@[simp] theorem evQueue_pwr (e : Event) (s : State) :
    (evQueue e s).pwr = s.pwr := by unfold evQueue; extract_lets; split_ifs <;> first | rfl | (split <;> rfl)
@[simp] theorem evQueue_plan (e : Event) (s : State) :
    (evQueue e s).plan = s.plan := by unfold evQueue; extract_lets; split_ifs <;> first | rfl | (split <;> rfl)
@[simp] theorem evQueue_vault (e : Event) (s : State) :
    (evQueue e s).vault = s.vault := by unfold evQueue; extract_lets; split_ifs <;> first | rfl | (split <;> rfl)
@[simp] theorem evQueue_fw (e : Event) (s : State) :
    (evQueue e s).fw = s.fw := by unfold evQueue; extract_lets; split_ifs <;> first | rfl | (split <;> rfl)
@[simp] theorem evQueue_mgmt (e : Event) (s : State) :
    (evQueue e s).mgmt = s.mgmt := by unfold evQueue; extract_lets; split_ifs <;> first | rfl | (split <;> rfl)

/-! `evSend` writes nothing but ev, counters, drip. -/

@[simp] theorem evSend_pending (e : Event) (s : State) : (evSend e s).pending = s.pending := by simp [evSend]
@[simp] theorem evSend_freeCtr (e : Event) (s : State) : (evSend e s).freeCtr = s.freeCtr := by simp [evSend]
@[simp] theorem evSend_rst (e : Event) (s : State) : (evSend e s).rst = s.rst := by simp [evSend]
@[simp] theorem evSend_kt (e : Event) (s : State) : (evSend e s).kt = s.kt := by simp [evSend]
@[simp] theorem evSend_fuses (e : Event) (s : State) : (evSend e s).fuses = s.fuses := by simp [evSend]
@[simp] theorem evSend_params (e : Event) (s : State) : (evSend e s).params = s.params := by simp [evSend]
@[simp] theorem evSend_pendParams (e : Event) (s : State) : (evSend e s).pendParams = s.pendParams := by simp [evSend]
@[simp] theorem evSend_latch (e : Event) (s : State) : (evSend e s).latch = s.latch := by simp [evSend]
@[simp] theorem evSend_job (e : Event) (s : State) : (evSend e s).job = s.job := by simp [evSend]
@[simp] theorem evSend_slots (e : Event) (s : State) : (evSend e s).slots = s.slots := by simp [evSend]
@[simp] theorem evSend_opBanks (e : Event) (s : State) : (evSend e s).opBanks = s.opBanks := by simp [evSend]
@[simp] theorem evSend_tensors (e : Event) (s : State) : (evSend e s).tensors = s.tensors := by simp [evSend]
@[simp] theorem evSend_duties (e : Event) (s : State) : (evSend e s).duties = s.duties := by simp [evSend]
@[simp] theorem evSend_spout (e : Event) (s : State) : (evSend e s).spout = s.spout := by simp [evSend]
@[simp] theorem evSend_funnelHeld (e : Event) (s : State) : (evSend e s).funnelHeld = s.funnelHeld := by simp [evSend]
@[simp] theorem evSend_ep (e : Event) (s : State) : (evSend e s).ep = s.ep := by simp [evSend]
@[simp] theorem evSend_keyring (e : Event) (s : State) : (evSend e s).keyring = s.keyring := by simp [evSend]
@[simp] theorem evSend_keyringBad (e : Event) (s : State) : (evSend e s).keyringBad = s.keyringBad := by simp [evSend]
@[simp] theorem evSend_bias (e : Event) (s : State) : (evSend e s).bias = s.bias := by simp [evSend]
@[simp] theorem evSend_kft (e : Event) (s : State) : (evSend e s).kft = s.kft := by simp [evSend]
@[simp] theorem evSend_links (e : Event) (s : State) : (evSend e s).links = s.links := by simp [evSend]
@[simp] theorem evSend_lanes (e : Event) (s : State) : (evSend e s).lanes = s.lanes := by simp [evSend]
@[simp] theorem evSend_pfcPaused (e : Event) (s : State) : (evSend e s).pfcPaused = s.pfcPaused := by simp [evSend]
@[simp] theorem evSend_pfcSent (e : Event) (s : State) : (evSend e s).pfcSent = s.pfcSent := by simp [evSend]
@[simp] theorem evSend_ptp (e : Event) (s : State) : (evSend e s).ptp = s.ptp := by simp [evSend]
@[simp] theorem evSend_barrier (e : Event) (s : State) : (evSend e s).barrier = s.barrier := by simp [evSend]
@[simp] theorem evSend_coll (e : Event) (s : State) : (evSend e s).coll = s.coll := by simp [evSend]
@[simp] theorem evSend_carafe (e : Event) (s : State) : (evSend e s).carafe = s.carafe := by simp [evSend]
@[simp] theorem evSend_sp (e : Event) (s : State) : (evSend e s).sp = s.sp := by simp [evSend]
@[simp] theorem evSend_spPoison (e : Event) (s : State) : (evSend e s).spPoison = s.spPoison := by simp [evSend]
@[simp] theorem evSend_hostMem (e : Event) (s : State) : (evSend e s).hostMem = s.hostMem := by simp [evSend]
@[simp] theorem evSend_keyway (e : Event) (s : State) : (evSend e s).keyway = s.keyway := by simp [evSend]
@[simp] theorem evSend_mport (e : Event) (s : State) : (evSend e s).mport = s.mport := by simp [evSend]
@[simp] theorem evSend_pour (e : Event) (s : State) : (evSend e s).pour = s.pour := by simp [evSend]
@[simp] theorem evSend_recRing (e : Event) (s : State) : (evSend e s).recRing = s.recRing := by simp [evSend]
@[simp] theorem evSend_doms (e : Event) (s : State) : (evSend e s).doms = s.doms := by simp [evSend]
@[simp] theorem evSend_esc (e : Event) (s : State) : (evSend e s).esc = s.esc := by simp [evSend]
@[simp] theorem evSend_rlog (e : Event) (s : State) : (evSend e s).rlog = s.rlog := by simp [evSend]
@[simp] theorem evSend_rlogSeq (e : Event) (s : State) : (evSend e s).rlogSeq = s.rlogSeq := by simp [evSend]
@[simp] theorem evSend_rlogWait (e : Event) (s : State) : (evSend e s).rlogWait = s.rlogWait := by simp [evSend]
@[simp] theorem evSend_aoWait (e : Event) (s : State) : (evSend e s).aoWait = s.aoWait := by simp [evSend]
@[simp] theorem evSend_dump (e : Event) (s : State) : (evSend e s).dump = s.dump := by simp [evSend]
@[simp] theorem evSend_pwr (e : Event) (s : State) : (evSend e s).pwr = s.pwr := by simp [evSend]
@[simp] theorem evSend_plan (e : Event) (s : State) : (evSend e s).plan = s.plan := by simp [evSend]
@[simp] theorem evSend_vault (e : Event) (s : State) : (evSend e s).vault = s.vault := by simp [evSend]
@[simp] theorem evSend_fw (e : Event) (s : State) : (evSend e s).fw = s.fw := by simp [evSend]
@[simp] theorem evSend_mgmt (e : Event) (s : State) : (evSend e s).mgmt = s.mgmt := by simp [evSend]

/-! `emit` writes nothing but ev, counters, drip. -/

@[simp] theorem emit_pending (code unit detail : Nat) (s : State) :
    (emit code unit detail s).pending = s.pending := by simp [emit]
@[simp] theorem emit_freeCtr (code unit detail : Nat) (s : State) :
    (emit code unit detail s).freeCtr = s.freeCtr := by simp [emit]
@[simp] theorem emit_rst (code unit detail : Nat) (s : State) : (emit code unit detail s).rst = s.rst := by simp [emit]
@[simp] theorem emit_kt (code unit detail : Nat) (s : State) : (emit code unit detail s).kt = s.kt := by simp [emit]
@[simp] theorem emit_fuses (code unit detail : Nat) (s : State) :
    (emit code unit detail s).fuses = s.fuses := by simp [emit]
@[simp] theorem emit_params (code unit detail : Nat) (s : State) :
    (emit code unit detail s).params = s.params := by simp [emit]
@[simp] theorem emit_pendParams (code unit detail : Nat) (s : State) :
    (emit code unit detail s).pendParams = s.pendParams := by simp [emit]
@[simp] theorem emit_latch (code unit detail : Nat) (s : State) :
    (emit code unit detail s).latch = s.latch := by simp [emit]
@[simp] theorem emit_job (code unit detail : Nat) (s : State) : (emit code unit detail s).job = s.job := by simp [emit]
@[simp] theorem emit_slots (code unit detail : Nat) (s : State) :
    (emit code unit detail s).slots = s.slots := by simp [emit]
@[simp] theorem emit_opBanks (code unit detail : Nat) (s : State) :
    (emit code unit detail s).opBanks = s.opBanks := by simp [emit]
@[simp] theorem emit_tensors (code unit detail : Nat) (s : State) :
    (emit code unit detail s).tensors = s.tensors := by simp [emit]
@[simp] theorem emit_duties (code unit detail : Nat) (s : State) :
    (emit code unit detail s).duties = s.duties := by simp [emit]
@[simp] theorem emit_spout (code unit detail : Nat) (s : State) :
    (emit code unit detail s).spout = s.spout := by simp [emit]
@[simp] theorem emit_funnelHeld (code unit detail : Nat) (s : State) :
    (emit code unit detail s).funnelHeld = s.funnelHeld := by simp [emit]
@[simp] theorem emit_ep (code unit detail : Nat) (s : State) : (emit code unit detail s).ep = s.ep := by simp [emit]
@[simp] theorem emit_keyring (code unit detail : Nat) (s : State) :
    (emit code unit detail s).keyring = s.keyring := by simp [emit]
@[simp] theorem emit_keyringBad (code unit detail : Nat) (s : State) :
    (emit code unit detail s).keyringBad = s.keyringBad := by simp [emit]
@[simp] theorem emit_bias (code unit detail : Nat) (s : State) :
    (emit code unit detail s).bias = s.bias := by simp [emit]
@[simp] theorem emit_kft (code unit detail : Nat) (s : State) : (emit code unit detail s).kft = s.kft := by simp [emit]
@[simp] theorem emit_links (code unit detail : Nat) (s : State) :
    (emit code unit detail s).links = s.links := by simp [emit]
@[simp] theorem emit_lanes (code unit detail : Nat) (s : State) :
    (emit code unit detail s).lanes = s.lanes := by simp [emit]
@[simp] theorem emit_pfcPaused (code unit detail : Nat) (s : State) :
    (emit code unit detail s).pfcPaused = s.pfcPaused := by simp [emit]
@[simp] theorem emit_pfcSent (code unit detail : Nat) (s : State) :
    (emit code unit detail s).pfcSent = s.pfcSent := by simp [emit]
@[simp] theorem emit_ptp (code unit detail : Nat) (s : State) : (emit code unit detail s).ptp = s.ptp := by simp [emit]
@[simp] theorem emit_barrier (code unit detail : Nat) (s : State) :
    (emit code unit detail s).barrier = s.barrier := by simp [emit]
@[simp] theorem emit_coll (code unit detail : Nat) (s : State) :
    (emit code unit detail s).coll = s.coll := by simp [emit]
@[simp] theorem emit_carafe (code unit detail : Nat) (s : State) :
    (emit code unit detail s).carafe = s.carafe := by simp [emit]
@[simp] theorem emit_sp (code unit detail : Nat) (s : State) : (emit code unit detail s).sp = s.sp := by simp [emit]
@[simp] theorem emit_spPoison (code unit detail : Nat) (s : State) :
    (emit code unit detail s).spPoison = s.spPoison := by simp [emit]
@[simp] theorem emit_hostMem (code unit detail : Nat) (s : State) :
    (emit code unit detail s).hostMem = s.hostMem := by simp [emit]
@[simp] theorem emit_keyway (code unit detail : Nat) (s : State) :
    (emit code unit detail s).keyway = s.keyway := by simp [emit]
@[simp] theorem emit_mport (code unit detail : Nat) (s : State) :
    (emit code unit detail s).mport = s.mport := by simp [emit]
@[simp] theorem emit_pour (code unit detail : Nat) (s : State) :
    (emit code unit detail s).pour = s.pour := by simp [emit]
@[simp] theorem emit_recRing (code unit detail : Nat) (s : State) :
    (emit code unit detail s).recRing = s.recRing := by simp [emit]
@[simp] theorem emit_doms (code unit detail : Nat) (s : State) :
    (emit code unit detail s).doms = s.doms := by simp [emit]
@[simp] theorem emit_esc (code unit detail : Nat) (s : State) : (emit code unit detail s).esc = s.esc := by simp [emit]
@[simp] theorem emit_rlog (code unit detail : Nat) (s : State) :
    (emit code unit detail s).rlog = s.rlog := by simp [emit]
@[simp] theorem emit_rlogSeq (code unit detail : Nat) (s : State) :
    (emit code unit detail s).rlogSeq = s.rlogSeq := by simp [emit]
@[simp] theorem emit_rlogWait (code unit detail : Nat) (s : State) :
    (emit code unit detail s).rlogWait = s.rlogWait := by simp [emit]
@[simp] theorem emit_aoWait (code unit detail : Nat) (s : State) :
    (emit code unit detail s).aoWait = s.aoWait := by simp [emit]
@[simp] theorem emit_dump (code unit detail : Nat) (s : State) :
    (emit code unit detail s).dump = s.dump := by simp [emit]
@[simp] theorem emit_pwr (code unit detail : Nat) (s : State) : (emit code unit detail s).pwr = s.pwr := by simp [emit]
@[simp] theorem emit_plan (code unit detail : Nat) (s : State) :
    (emit code unit detail s).plan = s.plan := by simp [emit]
@[simp] theorem emit_vault (code unit detail : Nat) (s : State) :
    (emit code unit detail s).vault = s.vault := by simp [emit]
@[simp] theorem emit_fw (code unit detail : Nat) (s : State) : (emit code unit detail s).fw = s.fw := by simp [emit]
@[simp] theorem emit_mgmt (code unit detail : Nat) (s : State) :
    (emit code unit detail s).mgmt = s.mgmt := by simp [emit]

/-! `reply` writes nothing but latch, drip. -/

@[simp] theorem reply_pending (r : Reply) (s : State) : (reply r s).pending = s.pending := by simp [reply]
@[simp] theorem reply_freeCtr (r : Reply) (s : State) : (reply r s).freeCtr = s.freeCtr := by simp [reply]
@[simp] theorem reply_rst (r : Reply) (s : State) : (reply r s).rst = s.rst := by simp [reply]
@[simp] theorem reply_kt (r : Reply) (s : State) : (reply r s).kt = s.kt := by simp [reply]
@[simp] theorem reply_fuses (r : Reply) (s : State) : (reply r s).fuses = s.fuses := by simp [reply]
@[simp] theorem reply_params (r : Reply) (s : State) : (reply r s).params = s.params := by simp [reply]
@[simp] theorem reply_pendParams (r : Reply) (s : State) : (reply r s).pendParams = s.pendParams := by simp [reply]
@[simp] theorem reply_counters (r : Reply) (s : State) : (reply r s).counters = s.counters := by simp [reply]
@[simp] theorem reply_ev (r : Reply) (s : State) : (reply r s).ev = s.ev := by simp [reply]
@[simp] theorem reply_job (r : Reply) (s : State) : (reply r s).job = s.job := by simp [reply]
@[simp] theorem reply_slots (r : Reply) (s : State) : (reply r s).slots = s.slots := by simp [reply]
@[simp] theorem reply_opBanks (r : Reply) (s : State) : (reply r s).opBanks = s.opBanks := by simp [reply]
@[simp] theorem reply_tensors (r : Reply) (s : State) : (reply r s).tensors = s.tensors := by simp [reply]
@[simp] theorem reply_duties (r : Reply) (s : State) : (reply r s).duties = s.duties := by simp [reply]
@[simp] theorem reply_spout (r : Reply) (s : State) : (reply r s).spout = s.spout := by simp [reply]
@[simp] theorem reply_funnelHeld (r : Reply) (s : State) : (reply r s).funnelHeld = s.funnelHeld := by simp [reply]
@[simp] theorem reply_ep (r : Reply) (s : State) : (reply r s).ep = s.ep := by simp [reply]
@[simp] theorem reply_keyring (r : Reply) (s : State) : (reply r s).keyring = s.keyring := by simp [reply]
@[simp] theorem reply_keyringBad (r : Reply) (s : State) : (reply r s).keyringBad = s.keyringBad := by simp [reply]
@[simp] theorem reply_bias (r : Reply) (s : State) : (reply r s).bias = s.bias := by simp [reply]
@[simp] theorem reply_kft (r : Reply) (s : State) : (reply r s).kft = s.kft := by simp [reply]
@[simp] theorem reply_links (r : Reply) (s : State) : (reply r s).links = s.links := by simp [reply]
@[simp] theorem reply_lanes (r : Reply) (s : State) : (reply r s).lanes = s.lanes := by simp [reply]
@[simp] theorem reply_pfcPaused (r : Reply) (s : State) : (reply r s).pfcPaused = s.pfcPaused := by simp [reply]
@[simp] theorem reply_pfcSent (r : Reply) (s : State) : (reply r s).pfcSent = s.pfcSent := by simp [reply]
@[simp] theorem reply_ptp (r : Reply) (s : State) : (reply r s).ptp = s.ptp := by simp [reply]
@[simp] theorem reply_barrier (r : Reply) (s : State) : (reply r s).barrier = s.barrier := by simp [reply]
@[simp] theorem reply_coll (r : Reply) (s : State) : (reply r s).coll = s.coll := by simp [reply]
@[simp] theorem reply_carafe (r : Reply) (s : State) : (reply r s).carafe = s.carafe := by simp [reply]
@[simp] theorem reply_sp (r : Reply) (s : State) : (reply r s).sp = s.sp := by simp [reply]
@[simp] theorem reply_spPoison (r : Reply) (s : State) : (reply r s).spPoison = s.spPoison := by simp [reply]
@[simp] theorem reply_hostMem (r : Reply) (s : State) : (reply r s).hostMem = s.hostMem := by simp [reply]
@[simp] theorem reply_keyway (r : Reply) (s : State) : (reply r s).keyway = s.keyway := by simp [reply]
@[simp] theorem reply_mport (r : Reply) (s : State) : (reply r s).mport = s.mport := by simp [reply]
@[simp] theorem reply_pour (r : Reply) (s : State) : (reply r s).pour = s.pour := by simp [reply]
@[simp] theorem reply_recRing (r : Reply) (s : State) : (reply r s).recRing = s.recRing := by simp [reply]
@[simp] theorem reply_doms (r : Reply) (s : State) : (reply r s).doms = s.doms := by simp [reply]
@[simp] theorem reply_esc (r : Reply) (s : State) : (reply r s).esc = s.esc := by simp [reply]
@[simp] theorem reply_rlog (r : Reply) (s : State) : (reply r s).rlog = s.rlog := by simp [reply]
@[simp] theorem reply_rlogSeq (r : Reply) (s : State) : (reply r s).rlogSeq = s.rlogSeq := by simp [reply]
@[simp] theorem reply_rlogWait (r : Reply) (s : State) : (reply r s).rlogWait = s.rlogWait := by simp [reply]
@[simp] theorem reply_aoWait (r : Reply) (s : State) : (reply r s).aoWait = s.aoWait := by simp [reply]
@[simp] theorem reply_dump (r : Reply) (s : State) : (reply r s).dump = s.dump := by simp [reply]
@[simp] theorem reply_pwr (r : Reply) (s : State) : (reply r s).pwr = s.pwr := by simp [reply]
@[simp] theorem reply_plan (r : Reply) (s : State) : (reply r s).plan = s.plan := by simp [reply]
@[simp] theorem reply_vault (r : Reply) (s : State) : (reply r s).vault = s.vault := by simp [reply]
@[simp] theorem reply_fw (r : Reply) (s : State) : (reply r s).fw = s.fw := by simp [reply]
@[simp] theorem reply_mgmt (r : Reply) (s : State) : (reply r s).mgmt = s.mgmt := by simp [reply]

/-! `replyOne` writes nothing but latch, drip. -/

@[simp] theorem replyOne_pending (p : Packet) (order status r0 r1 r2 r3 : Nat) (s : State) :
    (replyOne p order status r0 r1 r2 r3 s).pending = s.pending := by simp [replyOne]
@[simp] theorem replyOne_freeCtr (p : Packet) (order status r0 r1 r2 r3 : Nat) (s : State) :
    (replyOne p order status r0 r1 r2 r3 s).freeCtr = s.freeCtr := by simp [replyOne]
@[simp] theorem replyOne_rst (p : Packet) (order status r0 r1 r2 r3 : Nat) (s : State) :
    (replyOne p order status r0 r1 r2 r3 s).rst = s.rst := by simp [replyOne]
@[simp] theorem replyOne_kt (p : Packet) (order status r0 r1 r2 r3 : Nat) (s : State) :
    (replyOne p order status r0 r1 r2 r3 s).kt = s.kt := by simp [replyOne]
@[simp] theorem replyOne_fuses (p : Packet) (order status r0 r1 r2 r3 : Nat) (s : State) :
    (replyOne p order status r0 r1 r2 r3 s).fuses = s.fuses := by simp [replyOne]
@[simp] theorem replyOne_params (p : Packet) (order status r0 r1 r2 r3 : Nat) (s : State) :
    (replyOne p order status r0 r1 r2 r3 s).params = s.params := by simp [replyOne]
@[simp] theorem replyOne_pendParams (p : Packet) (order status r0 r1 r2 r3 : Nat) (s : State) :
    (replyOne p order status r0 r1 r2 r3 s).pendParams = s.pendParams := by simp [replyOne]
@[simp] theorem replyOne_counters (p : Packet) (order status r0 r1 r2 r3 : Nat) (s : State) :
    (replyOne p order status r0 r1 r2 r3 s).counters = s.counters := by simp [replyOne]
@[simp] theorem replyOne_ev (p : Packet) (order status r0 r1 r2 r3 : Nat) (s : State) :
    (replyOne p order status r0 r1 r2 r3 s).ev = s.ev := by simp [replyOne]
@[simp] theorem replyOne_job (p : Packet) (order status r0 r1 r2 r3 : Nat) (s : State) :
    (replyOne p order status r0 r1 r2 r3 s).job = s.job := by simp [replyOne]
@[simp] theorem replyOne_slots (p : Packet) (order status r0 r1 r2 r3 : Nat) (s : State) :
    (replyOne p order status r0 r1 r2 r3 s).slots = s.slots := by simp [replyOne]
@[simp] theorem replyOne_opBanks (p : Packet) (order status r0 r1 r2 r3 : Nat) (s : State) :
    (replyOne p order status r0 r1 r2 r3 s).opBanks = s.opBanks := by simp [replyOne]
@[simp] theorem replyOne_tensors (p : Packet) (order status r0 r1 r2 r3 : Nat) (s : State) :
    (replyOne p order status r0 r1 r2 r3 s).tensors = s.tensors := by simp [replyOne]
@[simp] theorem replyOne_duties (p : Packet) (order status r0 r1 r2 r3 : Nat) (s : State) :
    (replyOne p order status r0 r1 r2 r3 s).duties = s.duties := by simp [replyOne]
@[simp] theorem replyOne_spout (p : Packet) (order status r0 r1 r2 r3 : Nat) (s : State) :
    (replyOne p order status r0 r1 r2 r3 s).spout = s.spout := by simp [replyOne]
@[simp] theorem replyOne_funnelHeld (p : Packet) (order status r0 r1 r2 r3 : Nat) (s : State) :
    (replyOne p order status r0 r1 r2 r3 s).funnelHeld = s.funnelHeld := by simp [replyOne]
@[simp] theorem replyOne_ep (p : Packet) (order status r0 r1 r2 r3 : Nat) (s : State) :
    (replyOne p order status r0 r1 r2 r3 s).ep = s.ep := by simp [replyOne]
@[simp] theorem replyOne_keyring (p : Packet) (order status r0 r1 r2 r3 : Nat) (s : State) :
    (replyOne p order status r0 r1 r2 r3 s).keyring = s.keyring := by simp [replyOne]
@[simp] theorem replyOne_keyringBad (p : Packet) (order status r0 r1 r2 r3 : Nat) (s : State) :
    (replyOne p order status r0 r1 r2 r3 s).keyringBad = s.keyringBad := by simp [replyOne]
@[simp] theorem replyOne_bias (p : Packet) (order status r0 r1 r2 r3 : Nat) (s : State) :
    (replyOne p order status r0 r1 r2 r3 s).bias = s.bias := by simp [replyOne]
@[simp] theorem replyOne_kft (p : Packet) (order status r0 r1 r2 r3 : Nat) (s : State) :
    (replyOne p order status r0 r1 r2 r3 s).kft = s.kft := by simp [replyOne]
@[simp] theorem replyOne_links (p : Packet) (order status r0 r1 r2 r3 : Nat) (s : State) :
    (replyOne p order status r0 r1 r2 r3 s).links = s.links := by simp [replyOne]
@[simp] theorem replyOne_lanes (p : Packet) (order status r0 r1 r2 r3 : Nat) (s : State) :
    (replyOne p order status r0 r1 r2 r3 s).lanes = s.lanes := by simp [replyOne]
@[simp] theorem replyOne_pfcPaused (p : Packet) (order status r0 r1 r2 r3 : Nat) (s : State) :
    (replyOne p order status r0 r1 r2 r3 s).pfcPaused = s.pfcPaused := by simp [replyOne]
@[simp] theorem replyOne_pfcSent (p : Packet) (order status r0 r1 r2 r3 : Nat) (s : State) :
    (replyOne p order status r0 r1 r2 r3 s).pfcSent = s.pfcSent := by simp [replyOne]
@[simp] theorem replyOne_ptp (p : Packet) (order status r0 r1 r2 r3 : Nat) (s : State) :
    (replyOne p order status r0 r1 r2 r3 s).ptp = s.ptp := by simp [replyOne]
@[simp] theorem replyOne_barrier (p : Packet) (order status r0 r1 r2 r3 : Nat) (s : State) :
    (replyOne p order status r0 r1 r2 r3 s).barrier = s.barrier := by simp [replyOne]
@[simp] theorem replyOne_coll (p : Packet) (order status r0 r1 r2 r3 : Nat) (s : State) :
    (replyOne p order status r0 r1 r2 r3 s).coll = s.coll := by simp [replyOne]
@[simp] theorem replyOne_carafe (p : Packet) (order status r0 r1 r2 r3 : Nat) (s : State) :
    (replyOne p order status r0 r1 r2 r3 s).carafe = s.carafe := by simp [replyOne]
@[simp] theorem replyOne_sp (p : Packet) (order status r0 r1 r2 r3 : Nat) (s : State) :
    (replyOne p order status r0 r1 r2 r3 s).sp = s.sp := by simp [replyOne]
@[simp] theorem replyOne_spPoison (p : Packet) (order status r0 r1 r2 r3 : Nat) (s : State) :
    (replyOne p order status r0 r1 r2 r3 s).spPoison = s.spPoison := by simp [replyOne]
@[simp] theorem replyOne_hostMem (p : Packet) (order status r0 r1 r2 r3 : Nat) (s : State) :
    (replyOne p order status r0 r1 r2 r3 s).hostMem = s.hostMem := by simp [replyOne]
@[simp] theorem replyOne_keyway (p : Packet) (order status r0 r1 r2 r3 : Nat) (s : State) :
    (replyOne p order status r0 r1 r2 r3 s).keyway = s.keyway := by simp [replyOne]
@[simp] theorem replyOne_mport (p : Packet) (order status r0 r1 r2 r3 : Nat) (s : State) :
    (replyOne p order status r0 r1 r2 r3 s).mport = s.mport := by simp [replyOne]
@[simp] theorem replyOne_pour (p : Packet) (order status r0 r1 r2 r3 : Nat) (s : State) :
    (replyOne p order status r0 r1 r2 r3 s).pour = s.pour := by simp [replyOne]
@[simp] theorem replyOne_recRing (p : Packet) (order status r0 r1 r2 r3 : Nat) (s : State) :
    (replyOne p order status r0 r1 r2 r3 s).recRing = s.recRing := by simp [replyOne]
@[simp] theorem replyOne_doms (p : Packet) (order status r0 r1 r2 r3 : Nat) (s : State) :
    (replyOne p order status r0 r1 r2 r3 s).doms = s.doms := by simp [replyOne]
@[simp] theorem replyOne_esc (p : Packet) (order status r0 r1 r2 r3 : Nat) (s : State) :
    (replyOne p order status r0 r1 r2 r3 s).esc = s.esc := by simp [replyOne]
@[simp] theorem replyOne_rlog (p : Packet) (order status r0 r1 r2 r3 : Nat) (s : State) :
    (replyOne p order status r0 r1 r2 r3 s).rlog = s.rlog := by simp [replyOne]
@[simp] theorem replyOne_rlogSeq (p : Packet) (order status r0 r1 r2 r3 : Nat) (s : State) :
    (replyOne p order status r0 r1 r2 r3 s).rlogSeq = s.rlogSeq := by simp [replyOne]
@[simp] theorem replyOne_rlogWait (p : Packet) (order status r0 r1 r2 r3 : Nat) (s : State) :
    (replyOne p order status r0 r1 r2 r3 s).rlogWait = s.rlogWait := by simp [replyOne]
@[simp] theorem replyOne_aoWait (p : Packet) (order status r0 r1 r2 r3 : Nat) (s : State) :
    (replyOne p order status r0 r1 r2 r3 s).aoWait = s.aoWait := by simp [replyOne]
@[simp] theorem replyOne_dump (p : Packet) (order status r0 r1 r2 r3 : Nat) (s : State) :
    (replyOne p order status r0 r1 r2 r3 s).dump = s.dump := by simp [replyOne]
@[simp] theorem replyOne_pwr (p : Packet) (order status r0 r1 r2 r3 : Nat) (s : State) :
    (replyOne p order status r0 r1 r2 r3 s).pwr = s.pwr := by simp [replyOne]
@[simp] theorem replyOne_plan (p : Packet) (order status r0 r1 r2 r3 : Nat) (s : State) :
    (replyOne p order status r0 r1 r2 r3 s).plan = s.plan := by simp [replyOne]
@[simp] theorem replyOne_vault (p : Packet) (order status r0 r1 r2 r3 : Nat) (s : State) :
    (replyOne p order status r0 r1 r2 r3 s).vault = s.vault := by simp [replyOne]
@[simp] theorem replyOne_fw (p : Packet) (order status r0 r1 r2 r3 : Nat) (s : State) :
    (replyOne p order status r0 r1 r2 r3 s).fw = s.fw := by simp [replyOne]
@[simp] theorem replyOne_mgmt (p : Packet) (order status r0 r1 r2 r3 : Nat) (s : State) :
    (replyOne p order status r0 r1 r2 r3 s).mgmt = s.mgmt := by simp [replyOne]

/-! `accept` writes nothing but latch, drip. -/

@[simp] theorem accept_pending (p : Packet) (order r0 : Nat) (s : State) :
    (accept p order r0 s).pending = s.pending := by simp [accept]
@[simp] theorem accept_freeCtr (p : Packet) (order r0 : Nat) (s : State) :
    (accept p order r0 s).freeCtr = s.freeCtr := by simp [accept]
@[simp] theorem accept_rst (p : Packet) (order r0 : Nat) (s : State) :
    (accept p order r0 s).rst = s.rst := by simp [accept]
@[simp] theorem accept_kt (p : Packet) (order r0 : Nat) (s : State) :
    (accept p order r0 s).kt = s.kt := by simp [accept]
@[simp] theorem accept_fuses (p : Packet) (order r0 : Nat) (s : State) :
    (accept p order r0 s).fuses = s.fuses := by simp [accept]
@[simp] theorem accept_params (p : Packet) (order r0 : Nat) (s : State) :
    (accept p order r0 s).params = s.params := by simp [accept]
@[simp] theorem accept_pendParams (p : Packet) (order r0 : Nat) (s : State) :
    (accept p order r0 s).pendParams = s.pendParams := by simp [accept]
@[simp] theorem accept_counters (p : Packet) (order r0 : Nat) (s : State) :
    (accept p order r0 s).counters = s.counters := by simp [accept]
@[simp] theorem accept_ev (p : Packet) (order r0 : Nat) (s : State) :
    (accept p order r0 s).ev = s.ev := by simp [accept]
@[simp] theorem accept_job (p : Packet) (order r0 : Nat) (s : State) :
    (accept p order r0 s).job = s.job := by simp [accept]
@[simp] theorem accept_slots (p : Packet) (order r0 : Nat) (s : State) :
    (accept p order r0 s).slots = s.slots := by simp [accept]
@[simp] theorem accept_opBanks (p : Packet) (order r0 : Nat) (s : State) :
    (accept p order r0 s).opBanks = s.opBanks := by simp [accept]
@[simp] theorem accept_tensors (p : Packet) (order r0 : Nat) (s : State) :
    (accept p order r0 s).tensors = s.tensors := by simp [accept]
@[simp] theorem accept_duties (p : Packet) (order r0 : Nat) (s : State) :
    (accept p order r0 s).duties = s.duties := by simp [accept]
@[simp] theorem accept_spout (p : Packet) (order r0 : Nat) (s : State) :
    (accept p order r0 s).spout = s.spout := by simp [accept]
@[simp] theorem accept_funnelHeld (p : Packet) (order r0 : Nat) (s : State) :
    (accept p order r0 s).funnelHeld = s.funnelHeld := by simp [accept]
@[simp] theorem accept_ep (p : Packet) (order r0 : Nat) (s : State) :
    (accept p order r0 s).ep = s.ep := by simp [accept]
@[simp] theorem accept_keyring (p : Packet) (order r0 : Nat) (s : State) :
    (accept p order r0 s).keyring = s.keyring := by simp [accept]
@[simp] theorem accept_keyringBad (p : Packet) (order r0 : Nat) (s : State) :
    (accept p order r0 s).keyringBad = s.keyringBad := by simp [accept]
@[simp] theorem accept_bias (p : Packet) (order r0 : Nat) (s : State) :
    (accept p order r0 s).bias = s.bias := by simp [accept]
@[simp] theorem accept_kft (p : Packet) (order r0 : Nat) (s : State) :
    (accept p order r0 s).kft = s.kft := by simp [accept]
@[simp] theorem accept_links (p : Packet) (order r0 : Nat) (s : State) :
    (accept p order r0 s).links = s.links := by simp [accept]
@[simp] theorem accept_lanes (p : Packet) (order r0 : Nat) (s : State) :
    (accept p order r0 s).lanes = s.lanes := by simp [accept]
@[simp] theorem accept_pfcPaused (p : Packet) (order r0 : Nat) (s : State) :
    (accept p order r0 s).pfcPaused = s.pfcPaused := by simp [accept]
@[simp] theorem accept_pfcSent (p : Packet) (order r0 : Nat) (s : State) :
    (accept p order r0 s).pfcSent = s.pfcSent := by simp [accept]
@[simp] theorem accept_ptp (p : Packet) (order r0 : Nat) (s : State) :
    (accept p order r0 s).ptp = s.ptp := by simp [accept]
@[simp] theorem accept_barrier (p : Packet) (order r0 : Nat) (s : State) :
    (accept p order r0 s).barrier = s.barrier := by simp [accept]
@[simp] theorem accept_coll (p : Packet) (order r0 : Nat) (s : State) :
    (accept p order r0 s).coll = s.coll := by simp [accept]
@[simp] theorem accept_carafe (p : Packet) (order r0 : Nat) (s : State) :
    (accept p order r0 s).carafe = s.carafe := by simp [accept]
@[simp] theorem accept_sp (p : Packet) (order r0 : Nat) (s : State) :
    (accept p order r0 s).sp = s.sp := by simp [accept]
@[simp] theorem accept_spPoison (p : Packet) (order r0 : Nat) (s : State) :
    (accept p order r0 s).spPoison = s.spPoison := by simp [accept]
@[simp] theorem accept_hostMem (p : Packet) (order r0 : Nat) (s : State) :
    (accept p order r0 s).hostMem = s.hostMem := by simp [accept]
@[simp] theorem accept_keyway (p : Packet) (order r0 : Nat) (s : State) :
    (accept p order r0 s).keyway = s.keyway := by simp [accept]
@[simp] theorem accept_mport (p : Packet) (order r0 : Nat) (s : State) :
    (accept p order r0 s).mport = s.mport := by simp [accept]
@[simp] theorem accept_pour (p : Packet) (order r0 : Nat) (s : State) :
    (accept p order r0 s).pour = s.pour := by simp [accept]
@[simp] theorem accept_recRing (p : Packet) (order r0 : Nat) (s : State) :
    (accept p order r0 s).recRing = s.recRing := by simp [accept]
@[simp] theorem accept_doms (p : Packet) (order r0 : Nat) (s : State) :
    (accept p order r0 s).doms = s.doms := by simp [accept]
@[simp] theorem accept_esc (p : Packet) (order r0 : Nat) (s : State) :
    (accept p order r0 s).esc = s.esc := by simp [accept]
@[simp] theorem accept_rlog (p : Packet) (order r0 : Nat) (s : State) :
    (accept p order r0 s).rlog = s.rlog := by simp [accept]
@[simp] theorem accept_rlogSeq (p : Packet) (order r0 : Nat) (s : State) :
    (accept p order r0 s).rlogSeq = s.rlogSeq := by simp [accept]
@[simp] theorem accept_rlogWait (p : Packet) (order r0 : Nat) (s : State) :
    (accept p order r0 s).rlogWait = s.rlogWait := by simp [accept]
@[simp] theorem accept_aoWait (p : Packet) (order r0 : Nat) (s : State) :
    (accept p order r0 s).aoWait = s.aoWait := by simp [accept]
@[simp] theorem accept_dump (p : Packet) (order r0 : Nat) (s : State) :
    (accept p order r0 s).dump = s.dump := by simp [accept]
@[simp] theorem accept_pwr (p : Packet) (order r0 : Nat) (s : State) :
    (accept p order r0 s).pwr = s.pwr := by simp [accept]
@[simp] theorem accept_plan (p : Packet) (order r0 : Nat) (s : State) :
    (accept p order r0 s).plan = s.plan := by simp [accept]
@[simp] theorem accept_vault (p : Packet) (order r0 : Nat) (s : State) :
    (accept p order r0 s).vault = s.vault := by simp [accept]
@[simp] theorem accept_fw (p : Packet) (order r0 : Nat) (s : State) :
    (accept p order r0 s).fw = s.fw := by simp [accept]
@[simp] theorem accept_mgmt (p : Packet) (order r0 : Nat) (s : State) :
    (accept p order r0 s).mgmt = s.mgmt := by simp [accept]

/-! `finish` writes nothing but latch, drip. -/

@[simp] theorem finish_pending (c : OpenCmd) (status r0 r1 r2 r3 : Nat) (s : State) :
    (finish c status r0 r1 r2 r3 s).pending = s.pending := by unfold finish; split_ifs <;> simp
@[simp] theorem finish_freeCtr (c : OpenCmd) (status r0 r1 r2 r3 : Nat) (s : State) :
    (finish c status r0 r1 r2 r3 s).freeCtr = s.freeCtr := by unfold finish; split_ifs <;> simp
@[simp] theorem finish_rst (c : OpenCmd) (status r0 r1 r2 r3 : Nat) (s : State) :
    (finish c status r0 r1 r2 r3 s).rst = s.rst := by unfold finish; split_ifs <;> simp
@[simp] theorem finish_kt (c : OpenCmd) (status r0 r1 r2 r3 : Nat) (s : State) :
    (finish c status r0 r1 r2 r3 s).kt = s.kt := by unfold finish; split_ifs <;> simp
@[simp] theorem finish_fuses (c : OpenCmd) (status r0 r1 r2 r3 : Nat) (s : State) :
    (finish c status r0 r1 r2 r3 s).fuses = s.fuses := by unfold finish; split_ifs <;> simp
@[simp] theorem finish_params (c : OpenCmd) (status r0 r1 r2 r3 : Nat) (s : State) :
    (finish c status r0 r1 r2 r3 s).params = s.params := by unfold finish; split_ifs <;> simp
@[simp] theorem finish_pendParams (c : OpenCmd) (status r0 r1 r2 r3 : Nat) (s : State) :
    (finish c status r0 r1 r2 r3 s).pendParams = s.pendParams := by unfold finish; split_ifs <;> simp
@[simp] theorem finish_counters (c : OpenCmd) (status r0 r1 r2 r3 : Nat) (s : State) :
    (finish c status r0 r1 r2 r3 s).counters = s.counters := by unfold finish; split_ifs <;> simp
@[simp] theorem finish_ev (c : OpenCmd) (status r0 r1 r2 r3 : Nat) (s : State) :
    (finish c status r0 r1 r2 r3 s).ev = s.ev := by unfold finish; split_ifs <;> simp
@[simp] theorem finish_job (c : OpenCmd) (status r0 r1 r2 r3 : Nat) (s : State) :
    (finish c status r0 r1 r2 r3 s).job = s.job := by unfold finish; split_ifs <;> simp
@[simp] theorem finish_slots (c : OpenCmd) (status r0 r1 r2 r3 : Nat) (s : State) :
    (finish c status r0 r1 r2 r3 s).slots = s.slots := by unfold finish; split_ifs <;> simp
@[simp] theorem finish_opBanks (c : OpenCmd) (status r0 r1 r2 r3 : Nat) (s : State) :
    (finish c status r0 r1 r2 r3 s).opBanks = s.opBanks := by unfold finish; split_ifs <;> simp
@[simp] theorem finish_tensors (c : OpenCmd) (status r0 r1 r2 r3 : Nat) (s : State) :
    (finish c status r0 r1 r2 r3 s).tensors = s.tensors := by unfold finish; split_ifs <;> simp
@[simp] theorem finish_duties (c : OpenCmd) (status r0 r1 r2 r3 : Nat) (s : State) :
    (finish c status r0 r1 r2 r3 s).duties = s.duties := by unfold finish; split_ifs <;> simp
@[simp] theorem finish_spout (c : OpenCmd) (status r0 r1 r2 r3 : Nat) (s : State) :
    (finish c status r0 r1 r2 r3 s).spout = s.spout := by unfold finish; split_ifs <;> simp
@[simp] theorem finish_funnelHeld (c : OpenCmd) (status r0 r1 r2 r3 : Nat) (s : State) :
    (finish c status r0 r1 r2 r3 s).funnelHeld = s.funnelHeld := by unfold finish; split_ifs <;> simp
@[simp] theorem finish_ep (c : OpenCmd) (status r0 r1 r2 r3 : Nat) (s : State) :
    (finish c status r0 r1 r2 r3 s).ep = s.ep := by unfold finish; split_ifs <;> simp
@[simp] theorem finish_keyring (c : OpenCmd) (status r0 r1 r2 r3 : Nat) (s : State) :
    (finish c status r0 r1 r2 r3 s).keyring = s.keyring := by unfold finish; split_ifs <;> simp
@[simp] theorem finish_keyringBad (c : OpenCmd) (status r0 r1 r2 r3 : Nat) (s : State) :
    (finish c status r0 r1 r2 r3 s).keyringBad = s.keyringBad := by unfold finish; split_ifs <;> simp
@[simp] theorem finish_bias (c : OpenCmd) (status r0 r1 r2 r3 : Nat) (s : State) :
    (finish c status r0 r1 r2 r3 s).bias = s.bias := by unfold finish; split_ifs <;> simp
@[simp] theorem finish_kft (c : OpenCmd) (status r0 r1 r2 r3 : Nat) (s : State) :
    (finish c status r0 r1 r2 r3 s).kft = s.kft := by unfold finish; split_ifs <;> simp
@[simp] theorem finish_links (c : OpenCmd) (status r0 r1 r2 r3 : Nat) (s : State) :
    (finish c status r0 r1 r2 r3 s).links = s.links := by unfold finish; split_ifs <;> simp
@[simp] theorem finish_lanes (c : OpenCmd) (status r0 r1 r2 r3 : Nat) (s : State) :
    (finish c status r0 r1 r2 r3 s).lanes = s.lanes := by unfold finish; split_ifs <;> simp
@[simp] theorem finish_pfcPaused (c : OpenCmd) (status r0 r1 r2 r3 : Nat) (s : State) :
    (finish c status r0 r1 r2 r3 s).pfcPaused = s.pfcPaused := by unfold finish; split_ifs <;> simp
@[simp] theorem finish_pfcSent (c : OpenCmd) (status r0 r1 r2 r3 : Nat) (s : State) :
    (finish c status r0 r1 r2 r3 s).pfcSent = s.pfcSent := by unfold finish; split_ifs <;> simp
@[simp] theorem finish_ptp (c : OpenCmd) (status r0 r1 r2 r3 : Nat) (s : State) :
    (finish c status r0 r1 r2 r3 s).ptp = s.ptp := by unfold finish; split_ifs <;> simp
@[simp] theorem finish_barrier (c : OpenCmd) (status r0 r1 r2 r3 : Nat) (s : State) :
    (finish c status r0 r1 r2 r3 s).barrier = s.barrier := by unfold finish; split_ifs <;> simp
@[simp] theorem finish_coll (c : OpenCmd) (status r0 r1 r2 r3 : Nat) (s : State) :
    (finish c status r0 r1 r2 r3 s).coll = s.coll := by unfold finish; split_ifs <;> simp
@[simp] theorem finish_carafe (c : OpenCmd) (status r0 r1 r2 r3 : Nat) (s : State) :
    (finish c status r0 r1 r2 r3 s).carafe = s.carafe := by unfold finish; split_ifs <;> simp
@[simp] theorem finish_sp (c : OpenCmd) (status r0 r1 r2 r3 : Nat) (s : State) :
    (finish c status r0 r1 r2 r3 s).sp = s.sp := by unfold finish; split_ifs <;> simp
@[simp] theorem finish_spPoison (c : OpenCmd) (status r0 r1 r2 r3 : Nat) (s : State) :
    (finish c status r0 r1 r2 r3 s).spPoison = s.spPoison := by unfold finish; split_ifs <;> simp
@[simp] theorem finish_hostMem (c : OpenCmd) (status r0 r1 r2 r3 : Nat) (s : State) :
    (finish c status r0 r1 r2 r3 s).hostMem = s.hostMem := by unfold finish; split_ifs <;> simp
@[simp] theorem finish_keyway (c : OpenCmd) (status r0 r1 r2 r3 : Nat) (s : State) :
    (finish c status r0 r1 r2 r3 s).keyway = s.keyway := by unfold finish; split_ifs <;> simp
@[simp] theorem finish_mport (c : OpenCmd) (status r0 r1 r2 r3 : Nat) (s : State) :
    (finish c status r0 r1 r2 r3 s).mport = s.mport := by unfold finish; split_ifs <;> simp
@[simp] theorem finish_pour (c : OpenCmd) (status r0 r1 r2 r3 : Nat) (s : State) :
    (finish c status r0 r1 r2 r3 s).pour = s.pour := by unfold finish; split_ifs <;> simp
@[simp] theorem finish_recRing (c : OpenCmd) (status r0 r1 r2 r3 : Nat) (s : State) :
    (finish c status r0 r1 r2 r3 s).recRing = s.recRing := by unfold finish; split_ifs <;> simp
@[simp] theorem finish_doms (c : OpenCmd) (status r0 r1 r2 r3 : Nat) (s : State) :
    (finish c status r0 r1 r2 r3 s).doms = s.doms := by unfold finish; split_ifs <;> simp
@[simp] theorem finish_esc (c : OpenCmd) (status r0 r1 r2 r3 : Nat) (s : State) :
    (finish c status r0 r1 r2 r3 s).esc = s.esc := by unfold finish; split_ifs <;> simp
@[simp] theorem finish_rlog (c : OpenCmd) (status r0 r1 r2 r3 : Nat) (s : State) :
    (finish c status r0 r1 r2 r3 s).rlog = s.rlog := by unfold finish; split_ifs <;> simp
@[simp] theorem finish_rlogSeq (c : OpenCmd) (status r0 r1 r2 r3 : Nat) (s : State) :
    (finish c status r0 r1 r2 r3 s).rlogSeq = s.rlogSeq := by unfold finish; split_ifs <;> simp
@[simp] theorem finish_rlogWait (c : OpenCmd) (status r0 r1 r2 r3 : Nat) (s : State) :
    (finish c status r0 r1 r2 r3 s).rlogWait = s.rlogWait := by unfold finish; split_ifs <;> simp
@[simp] theorem finish_aoWait (c : OpenCmd) (status r0 r1 r2 r3 : Nat) (s : State) :
    (finish c status r0 r1 r2 r3 s).aoWait = s.aoWait := by unfold finish; split_ifs <;> simp
@[simp] theorem finish_dump (c : OpenCmd) (status r0 r1 r2 r3 : Nat) (s : State) :
    (finish c status r0 r1 r2 r3 s).dump = s.dump := by unfold finish; split_ifs <;> simp
@[simp] theorem finish_pwr (c : OpenCmd) (status r0 r1 r2 r3 : Nat) (s : State) :
    (finish c status r0 r1 r2 r3 s).pwr = s.pwr := by unfold finish; split_ifs <;> simp
@[simp] theorem finish_plan (c : OpenCmd) (status r0 r1 r2 r3 : Nat) (s : State) :
    (finish c status r0 r1 r2 r3 s).plan = s.plan := by unfold finish; split_ifs <;> simp
@[simp] theorem finish_vault (c : OpenCmd) (status r0 r1 r2 r3 : Nat) (s : State) :
    (finish c status r0 r1 r2 r3 s).vault = s.vault := by unfold finish; split_ifs <;> simp
@[simp] theorem finish_fw (c : OpenCmd) (status r0 r1 r2 r3 : Nat) (s : State) :
    (finish c status r0 r1 r2 r3 s).fw = s.fw := by unfold finish; split_ifs <;> simp
@[simp] theorem finish_mgmt (c : OpenCmd) (status r0 r1 r2 r3 : Nat) (s : State) :
    (finish c status r0 r1 r2 r3 s).mgmt = s.mgmt := by unfold finish; split_ifs <;> simp

/-! `takePacket` writes nothing but latch, counters, drip, recRing. -/

@[simp] theorem takePacket_pending (p : Packet) (s : State) :
    (takePacket p s).pending = s.pending := by simp [takePacket]
@[simp] theorem takePacket_freeCtr (p : Packet) (s : State) :
    (takePacket p s).freeCtr = s.freeCtr := by simp [takePacket]
@[simp] theorem takePacket_rst (p : Packet) (s : State) : (takePacket p s).rst = s.rst := by simp [takePacket]
@[simp] theorem takePacket_kt (p : Packet) (s : State) : (takePacket p s).kt = s.kt := by simp [takePacket]
@[simp] theorem takePacket_fuses (p : Packet) (s : State) : (takePacket p s).fuses = s.fuses := by simp [takePacket]
@[simp] theorem takePacket_params (p : Packet) (s : State) : (takePacket p s).params = s.params := by simp [takePacket]
@[simp] theorem takePacket_pendParams (p : Packet) (s : State) :
    (takePacket p s).pendParams = s.pendParams := by simp [takePacket]
@[simp] theorem takePacket_ev (p : Packet) (s : State) : (takePacket p s).ev = s.ev := by simp [takePacket]
@[simp] theorem takePacket_job (p : Packet) (s : State) : (takePacket p s).job = s.job := by simp [takePacket]
@[simp] theorem takePacket_slots (p : Packet) (s : State) : (takePacket p s).slots = s.slots := by simp [takePacket]
@[simp] theorem takePacket_opBanks (p : Packet) (s : State) :
    (takePacket p s).opBanks = s.opBanks := by simp [takePacket]
@[simp] theorem takePacket_tensors (p : Packet) (s : State) :
    (takePacket p s).tensors = s.tensors := by simp [takePacket]
@[simp] theorem takePacket_duties (p : Packet) (s : State) : (takePacket p s).duties = s.duties := by simp [takePacket]
@[simp] theorem takePacket_spout (p : Packet) (s : State) : (takePacket p s).spout = s.spout := by simp [takePacket]
@[simp] theorem takePacket_funnelHeld (p : Packet) (s : State) :
    (takePacket p s).funnelHeld = s.funnelHeld := by simp [takePacket]
@[simp] theorem takePacket_ep (p : Packet) (s : State) : (takePacket p s).ep = s.ep := by simp [takePacket]
@[simp] theorem takePacket_keyring (p : Packet) (s : State) :
    (takePacket p s).keyring = s.keyring := by simp [takePacket]
@[simp] theorem takePacket_keyringBad (p : Packet) (s : State) :
    (takePacket p s).keyringBad = s.keyringBad := by simp [takePacket]
@[simp] theorem takePacket_bias (p : Packet) (s : State) : (takePacket p s).bias = s.bias := by simp [takePacket]
@[simp] theorem takePacket_kft (p : Packet) (s : State) : (takePacket p s).kft = s.kft := by simp [takePacket]
@[simp] theorem takePacket_links (p : Packet) (s : State) : (takePacket p s).links = s.links := by simp [takePacket]
@[simp] theorem takePacket_lanes (p : Packet) (s : State) : (takePacket p s).lanes = s.lanes := by simp [takePacket]
@[simp] theorem takePacket_pfcPaused (p : Packet) (s : State) :
    (takePacket p s).pfcPaused = s.pfcPaused := by simp [takePacket]
@[simp] theorem takePacket_pfcSent (p : Packet) (s : State) :
    (takePacket p s).pfcSent = s.pfcSent := by simp [takePacket]
@[simp] theorem takePacket_ptp (p : Packet) (s : State) : (takePacket p s).ptp = s.ptp := by simp [takePacket]
@[simp] theorem takePacket_barrier (p : Packet) (s : State) :
    (takePacket p s).barrier = s.barrier := by simp [takePacket]
@[simp] theorem takePacket_coll (p : Packet) (s : State) : (takePacket p s).coll = s.coll := by simp [takePacket]
@[simp] theorem takePacket_carafe (p : Packet) (s : State) : (takePacket p s).carafe = s.carafe := by simp [takePacket]
@[simp] theorem takePacket_sp (p : Packet) (s : State) : (takePacket p s).sp = s.sp := by simp [takePacket]
@[simp] theorem takePacket_spPoison (p : Packet) (s : State) :
    (takePacket p s).spPoison = s.spPoison := by simp [takePacket]
@[simp] theorem takePacket_hostMem (p : Packet) (s : State) :
    (takePacket p s).hostMem = s.hostMem := by simp [takePacket]
@[simp] theorem takePacket_keyway (p : Packet) (s : State) : (takePacket p s).keyway = s.keyway := by simp [takePacket]
@[simp] theorem takePacket_mport (p : Packet) (s : State) : (takePacket p s).mport = s.mport := by simp [takePacket]
@[simp] theorem takePacket_pour (p : Packet) (s : State) : (takePacket p s).pour = s.pour := by simp [takePacket]
@[simp] theorem takePacket_doms (p : Packet) (s : State) : (takePacket p s).doms = s.doms := by simp [takePacket]
@[simp] theorem takePacket_esc (p : Packet) (s : State) : (takePacket p s).esc = s.esc := by simp [takePacket]
@[simp] theorem takePacket_rlog (p : Packet) (s : State) : (takePacket p s).rlog = s.rlog := by simp [takePacket]
@[simp] theorem takePacket_rlogSeq (p : Packet) (s : State) :
    (takePacket p s).rlogSeq = s.rlogSeq := by simp [takePacket]
@[simp] theorem takePacket_rlogWait (p : Packet) (s : State) :
    (takePacket p s).rlogWait = s.rlogWait := by simp [takePacket]
@[simp] theorem takePacket_aoWait (p : Packet) (s : State) : (takePacket p s).aoWait = s.aoWait := by simp [takePacket]
@[simp] theorem takePacket_dump (p : Packet) (s : State) : (takePacket p s).dump = s.dump := by simp [takePacket]
@[simp] theorem takePacket_pwr (p : Packet) (s : State) : (takePacket p s).pwr = s.pwr := by simp [takePacket]
@[simp] theorem takePacket_plan (p : Packet) (s : State) : (takePacket p s).plan = s.plan := by simp [takePacket]
@[simp] theorem takePacket_vault (p : Packet) (s : State) : (takePacket p s).vault = s.vault := by simp [takePacket]
@[simp] theorem takePacket_fw (p : Packet) (s : State) : (takePacket p s).fw = s.fw := by simp [takePacket]
@[simp] theorem takePacket_mgmt (p : Packet) (s : State) : (takePacket p s).mgmt = s.mgmt := by simp [takePacket]

/-! `slotMove` writes nothing but slots, drip. -/

@[simp] theorem slotMove_pending (i : Nat) (st : SlotState) (s : State) :
    (slotMove i st s).pending = s.pending := by simp [slotMove]
@[simp] theorem slotMove_freeCtr (i : Nat) (st : SlotState) (s : State) :
    (slotMove i st s).freeCtr = s.freeCtr := by simp [slotMove]
@[simp] theorem slotMove_rst (i : Nat) (st : SlotState) (s : State) :
    (slotMove i st s).rst = s.rst := by simp [slotMove]
@[simp] theorem slotMove_kt (i : Nat) (st : SlotState) (s : State) : (slotMove i st s).kt = s.kt := by simp [slotMove]
@[simp] theorem slotMove_fuses (i : Nat) (st : SlotState) (s : State) :
    (slotMove i st s).fuses = s.fuses := by simp [slotMove]
@[simp] theorem slotMove_params (i : Nat) (st : SlotState) (s : State) :
    (slotMove i st s).params = s.params := by simp [slotMove]
@[simp] theorem slotMove_pendParams (i : Nat) (st : SlotState) (s : State) :
    (slotMove i st s).pendParams = s.pendParams := by simp [slotMove]
@[simp] theorem slotMove_counters (i : Nat) (st : SlotState) (s : State) :
    (slotMove i st s).counters = s.counters := by simp [slotMove]
@[simp] theorem slotMove_latch (i : Nat) (st : SlotState) (s : State) :
    (slotMove i st s).latch = s.latch := by simp [slotMove]
@[simp] theorem slotMove_ev (i : Nat) (st : SlotState) (s : State) : (slotMove i st s).ev = s.ev := by simp [slotMove]
@[simp] theorem slotMove_job (i : Nat) (st : SlotState) (s : State) :
    (slotMove i st s).job = s.job := by simp [slotMove]
@[simp] theorem slotMove_opBanks (i : Nat) (st : SlotState) (s : State) :
    (slotMove i st s).opBanks = s.opBanks := by simp [slotMove]
@[simp] theorem slotMove_tensors (i : Nat) (st : SlotState) (s : State) :
    (slotMove i st s).tensors = s.tensors := by simp [slotMove]
@[simp] theorem slotMove_duties (i : Nat) (st : SlotState) (s : State) :
    (slotMove i st s).duties = s.duties := by simp [slotMove]
@[simp] theorem slotMove_spout (i : Nat) (st : SlotState) (s : State) :
    (slotMove i st s).spout = s.spout := by simp [slotMove]
@[simp] theorem slotMove_funnelHeld (i : Nat) (st : SlotState) (s : State) :
    (slotMove i st s).funnelHeld = s.funnelHeld := by simp [slotMove]
@[simp] theorem slotMove_ep (i : Nat) (st : SlotState) (s : State) : (slotMove i st s).ep = s.ep := by simp [slotMove]
@[simp] theorem slotMove_keyring (i : Nat) (st : SlotState) (s : State) :
    (slotMove i st s).keyring = s.keyring := by simp [slotMove]
@[simp] theorem slotMove_keyringBad (i : Nat) (st : SlotState) (s : State) :
    (slotMove i st s).keyringBad = s.keyringBad := by simp [slotMove]
@[simp] theorem slotMove_bias (i : Nat) (st : SlotState) (s : State) :
    (slotMove i st s).bias = s.bias := by simp [slotMove]
@[simp] theorem slotMove_kft (i : Nat) (st : SlotState) (s : State) :
    (slotMove i st s).kft = s.kft := by simp [slotMove]
@[simp] theorem slotMove_links (i : Nat) (st : SlotState) (s : State) :
    (slotMove i st s).links = s.links := by simp [slotMove]
@[simp] theorem slotMove_lanes (i : Nat) (st : SlotState) (s : State) :
    (slotMove i st s).lanes = s.lanes := by simp [slotMove]
@[simp] theorem slotMove_pfcPaused (i : Nat) (st : SlotState) (s : State) :
    (slotMove i st s).pfcPaused = s.pfcPaused := by simp [slotMove]
@[simp] theorem slotMove_pfcSent (i : Nat) (st : SlotState) (s : State) :
    (slotMove i st s).pfcSent = s.pfcSent := by simp [slotMove]
@[simp] theorem slotMove_ptp (i : Nat) (st : SlotState) (s : State) :
    (slotMove i st s).ptp = s.ptp := by simp [slotMove]
@[simp] theorem slotMove_barrier (i : Nat) (st : SlotState) (s : State) :
    (slotMove i st s).barrier = s.barrier := by simp [slotMove]
@[simp] theorem slotMove_coll (i : Nat) (st : SlotState) (s : State) :
    (slotMove i st s).coll = s.coll := by simp [slotMove]
@[simp] theorem slotMove_carafe (i : Nat) (st : SlotState) (s : State) :
    (slotMove i st s).carafe = s.carafe := by simp [slotMove]
@[simp] theorem slotMove_sp (i : Nat) (st : SlotState) (s : State) : (slotMove i st s).sp = s.sp := by simp [slotMove]
@[simp] theorem slotMove_spPoison (i : Nat) (st : SlotState) (s : State) :
    (slotMove i st s).spPoison = s.spPoison := by simp [slotMove]
@[simp] theorem slotMove_hostMem (i : Nat) (st : SlotState) (s : State) :
    (slotMove i st s).hostMem = s.hostMem := by simp [slotMove]
@[simp] theorem slotMove_keyway (i : Nat) (st : SlotState) (s : State) :
    (slotMove i st s).keyway = s.keyway := by simp [slotMove]
@[simp] theorem slotMove_mport (i : Nat) (st : SlotState) (s : State) :
    (slotMove i st s).mport = s.mport := by simp [slotMove]
@[simp] theorem slotMove_pour (i : Nat) (st : SlotState) (s : State) :
    (slotMove i st s).pour = s.pour := by simp [slotMove]
@[simp] theorem slotMove_recRing (i : Nat) (st : SlotState) (s : State) :
    (slotMove i st s).recRing = s.recRing := by simp [slotMove]
@[simp] theorem slotMove_doms (i : Nat) (st : SlotState) (s : State) :
    (slotMove i st s).doms = s.doms := by simp [slotMove]
@[simp] theorem slotMove_esc (i : Nat) (st : SlotState) (s : State) :
    (slotMove i st s).esc = s.esc := by simp [slotMove]
@[simp] theorem slotMove_rlog (i : Nat) (st : SlotState) (s : State) :
    (slotMove i st s).rlog = s.rlog := by simp [slotMove]
@[simp] theorem slotMove_rlogSeq (i : Nat) (st : SlotState) (s : State) :
    (slotMove i st s).rlogSeq = s.rlogSeq := by simp [slotMove]
@[simp] theorem slotMove_rlogWait (i : Nat) (st : SlotState) (s : State) :
    (slotMove i st s).rlogWait = s.rlogWait := by simp [slotMove]
@[simp] theorem slotMove_aoWait (i : Nat) (st : SlotState) (s : State) :
    (slotMove i st s).aoWait = s.aoWait := by simp [slotMove]
@[simp] theorem slotMove_dump (i : Nat) (st : SlotState) (s : State) :
    (slotMove i st s).dump = s.dump := by simp [slotMove]
@[simp] theorem slotMove_pwr (i : Nat) (st : SlotState) (s : State) :
    (slotMove i st s).pwr = s.pwr := by simp [slotMove]
@[simp] theorem slotMove_plan (i : Nat) (st : SlotState) (s : State) :
    (slotMove i st s).plan = s.plan := by simp [slotMove]
@[simp] theorem slotMove_vault (i : Nat) (st : SlotState) (s : State) :
    (slotMove i st s).vault = s.vault := by simp [slotMove]
@[simp] theorem slotMove_fw (i : Nat) (st : SlotState) (s : State) : (slotMove i st s).fw = s.fw := by simp [slotMove]
@[simp] theorem slotMove_mgmt (i : Nat) (st : SlotState) (s : State) :
    (slotMove i st s).mgmt = s.mgmt := by simp [slotMove]

/-! `vaultEvent` writes nothing but ev, counters, drip. -/

@[simp] theorem vaultEvent_pending (period : Nat) (s : State) :
    (vaultEvent period s).pending = s.pending := by simp [vaultEvent]
@[simp] theorem vaultEvent_freeCtr (period : Nat) (s : State) :
    (vaultEvent period s).freeCtr = s.freeCtr := by simp [vaultEvent]
@[simp] theorem vaultEvent_rst (period : Nat) (s : State) : (vaultEvent period s).rst = s.rst := by simp [vaultEvent]
@[simp] theorem vaultEvent_kt (period : Nat) (s : State) : (vaultEvent period s).kt = s.kt := by simp [vaultEvent]
@[simp] theorem vaultEvent_fuses (period : Nat) (s : State) :
    (vaultEvent period s).fuses = s.fuses := by simp [vaultEvent]
@[simp] theorem vaultEvent_params (period : Nat) (s : State) :
    (vaultEvent period s).params = s.params := by simp [vaultEvent]
@[simp] theorem vaultEvent_pendParams (period : Nat) (s : State) :
    (vaultEvent period s).pendParams = s.pendParams := by simp [vaultEvent]
@[simp] theorem vaultEvent_latch (period : Nat) (s : State) :
    (vaultEvent period s).latch = s.latch := by simp [vaultEvent]
@[simp] theorem vaultEvent_job (period : Nat) (s : State) : (vaultEvent period s).job = s.job := by simp [vaultEvent]
@[simp] theorem vaultEvent_slots (period : Nat) (s : State) :
    (vaultEvent period s).slots = s.slots := by simp [vaultEvent]
@[simp] theorem vaultEvent_opBanks (period : Nat) (s : State) :
    (vaultEvent period s).opBanks = s.opBanks := by simp [vaultEvent]
@[simp] theorem vaultEvent_tensors (period : Nat) (s : State) :
    (vaultEvent period s).tensors = s.tensors := by simp [vaultEvent]
@[simp] theorem vaultEvent_duties (period : Nat) (s : State) :
    (vaultEvent period s).duties = s.duties := by simp [vaultEvent]
@[simp] theorem vaultEvent_spout (period : Nat) (s : State) :
    (vaultEvent period s).spout = s.spout := by simp [vaultEvent]
@[simp] theorem vaultEvent_funnelHeld (period : Nat) (s : State) :
    (vaultEvent period s).funnelHeld = s.funnelHeld := by simp [vaultEvent]
@[simp] theorem vaultEvent_ep (period : Nat) (s : State) : (vaultEvent period s).ep = s.ep := by simp [vaultEvent]
@[simp] theorem vaultEvent_keyring (period : Nat) (s : State) :
    (vaultEvent period s).keyring = s.keyring := by simp [vaultEvent]
@[simp] theorem vaultEvent_keyringBad (period : Nat) (s : State) :
    (vaultEvent period s).keyringBad = s.keyringBad := by simp [vaultEvent]
@[simp] theorem vaultEvent_bias (period : Nat) (s : State) : (vaultEvent period s).bias = s.bias := by simp [vaultEvent]
@[simp] theorem vaultEvent_kft (period : Nat) (s : State) : (vaultEvent period s).kft = s.kft := by simp [vaultEvent]
@[simp] theorem vaultEvent_links (period : Nat) (s : State) :
    (vaultEvent period s).links = s.links := by simp [vaultEvent]
@[simp] theorem vaultEvent_lanes (period : Nat) (s : State) :
    (vaultEvent period s).lanes = s.lanes := by simp [vaultEvent]
@[simp] theorem vaultEvent_pfcPaused (period : Nat) (s : State) :
    (vaultEvent period s).pfcPaused = s.pfcPaused := by simp [vaultEvent]
@[simp] theorem vaultEvent_pfcSent (period : Nat) (s : State) :
    (vaultEvent period s).pfcSent = s.pfcSent := by simp [vaultEvent]
@[simp] theorem vaultEvent_ptp (period : Nat) (s : State) : (vaultEvent period s).ptp = s.ptp := by simp [vaultEvent]
@[simp] theorem vaultEvent_barrier (period : Nat) (s : State) :
    (vaultEvent period s).barrier = s.barrier := by simp [vaultEvent]
@[simp] theorem vaultEvent_coll (period : Nat) (s : State) : (vaultEvent period s).coll = s.coll := by simp [vaultEvent]
@[simp] theorem vaultEvent_carafe (period : Nat) (s : State) :
    (vaultEvent period s).carafe = s.carafe := by simp [vaultEvent]
@[simp] theorem vaultEvent_sp (period : Nat) (s : State) : (vaultEvent period s).sp = s.sp := by simp [vaultEvent]
@[simp] theorem vaultEvent_spPoison (period : Nat) (s : State) :
    (vaultEvent period s).spPoison = s.spPoison := by simp [vaultEvent]
@[simp] theorem vaultEvent_hostMem (period : Nat) (s : State) :
    (vaultEvent period s).hostMem = s.hostMem := by simp [vaultEvent]
@[simp] theorem vaultEvent_keyway (period : Nat) (s : State) :
    (vaultEvent period s).keyway = s.keyway := by simp [vaultEvent]
@[simp] theorem vaultEvent_mport (period : Nat) (s : State) :
    (vaultEvent period s).mport = s.mport := by simp [vaultEvent]
@[simp] theorem vaultEvent_pour (period : Nat) (s : State) : (vaultEvent period s).pour = s.pour := by simp [vaultEvent]
@[simp] theorem vaultEvent_recRing (period : Nat) (s : State) :
    (vaultEvent period s).recRing = s.recRing := by simp [vaultEvent]
@[simp] theorem vaultEvent_doms (period : Nat) (s : State) : (vaultEvent period s).doms = s.doms := by simp [vaultEvent]
@[simp] theorem vaultEvent_esc (period : Nat) (s : State) : (vaultEvent period s).esc = s.esc := by simp [vaultEvent]
@[simp] theorem vaultEvent_rlog (period : Nat) (s : State) : (vaultEvent period s).rlog = s.rlog := by simp [vaultEvent]
@[simp] theorem vaultEvent_rlogSeq (period : Nat) (s : State) :
    (vaultEvent period s).rlogSeq = s.rlogSeq := by simp [vaultEvent]
@[simp] theorem vaultEvent_rlogWait (period : Nat) (s : State) :
    (vaultEvent period s).rlogWait = s.rlogWait := by simp [vaultEvent]
@[simp] theorem vaultEvent_aoWait (period : Nat) (s : State) :
    (vaultEvent period s).aoWait = s.aoWait := by simp [vaultEvent]
@[simp] theorem vaultEvent_dump (period : Nat) (s : State) : (vaultEvent period s).dump = s.dump := by simp [vaultEvent]
@[simp] theorem vaultEvent_pwr (period : Nat) (s : State) : (vaultEvent period s).pwr = s.pwr := by simp [vaultEvent]
@[simp] theorem vaultEvent_plan (period : Nat) (s : State) : (vaultEvent period s).plan = s.plan := by simp [vaultEvent]
@[simp] theorem vaultEvent_vault (period : Nat) (s : State) :
    (vaultEvent period s).vault = s.vault := by simp [vaultEvent]
@[simp] theorem vaultEvent_fw (period : Nat) (s : State) : (vaultEvent period s).fw = s.fw := by simp [vaultEvent]
@[simp] theorem vaultEvent_mgmt (period : Nat) (s : State) : (vaultEvent period s).mgmt = s.mgmt := by simp [vaultEvent]

end Sys2Proof.Machine
end

