-- ==== Sys2Proof/Laws/Latch.lean ====
section
/-! SUPPORT. What becomes of a packet that Latch takes: it starts at once, passes its checks, and is accepted. -/

set_option Elab.async false

namespace Sys2Proof.Machine

theorem live_next {f : State → State} {s : State} (h : s.rst.rootLost = false) : live f s = .next (f s) := by
  simp [live, h]

@[simp] theorem takePacket_held (p : Packet) (s : State) : (takePacket p s).latch.held = s.latch.held := by
  simp [takePacket]

@[simp] theorem takePacket_opened (p : Packet) (s : State) : (takePacket p s).latch.opened = s.latch.opened := by
  simp [takePacket]

@[simp] theorem takePacket_replies (p : Packet) (s : State) : (takePacket p s).latch.replies = s.latch.replies := by
  simp [takePacket]

@[simp] theorem takePacket_completions (p : Packet) (s : State) :
    (takePacket p s).latch.completions = s.latch.completions := by
  simp [takePacket]

/-- Taking a packet leaves what MEM waits on as it is. -/
@[simp] theorem memWaits_takePacket (p q : Packet) (s : State) : memWaits p (takePacket q s) = memWaits p s := by
  simp [memWaits, domState]

/-- A packet without `after` waits only for an earlier one that has it, or for MEM (R59, R68). -/
theorem mustWait_false {op : Nat} {p : Packet} {s : State} (h : Runs op p s) (order : Nat) :
    mustWait p order (takePacket p s) = false := by
  simp [mustWait, h.free, h.mem]
  exact fun x hx hw => absurd hw (h.ahead x hx)

/-- A packet that runs is taken, and its command starts. -/
theorem takeCmd_start {op : Nat} {p : Packet} {s : State} (h : Runs op p s) (x : Ext) (start : Nat → State → State) :
    takeCmd op p x start s = start s.latch.order (takePacket p s) := by
  simp [takeCmd, h.take, h.code, mustWait_false h]

/-- Checks 2 to 7 pass (R61). -/
theorem checkFields_none {op : Nat} {p : Packet} {s : State} (h : Runs op p s) {c : Checks} {t : State}
    (hl : p.payloadLen.toNat ≤ 4096) (hlen : c.len p.payloadLen.toNat = true)
    (hj : jobScope op = true → jobExists t = true ∧ p.jobTag.toNat = t.job.tag) (hr : c.range = true)
    (ha : jobScope op = true → jobAdmits t op = true) (hs : c.state = none) : checkFields op p c t = none := by
  unfold checkFields
  rw [if_neg (by simp [h.ver]), if_neg (by simp [h.code]), if_neg (by simp [hl, hlen]), if_neg, if_neg (by simp [hr]),
    if_neg, hs]
  · rintro ⟨h1, h2⟩; simp [ha h1] at h2
  · rintro ⟨h1, h2⟩; exact h2 (hj h1)

/-- All checks pass, where the command names no range (R61). -/
theorem checked_ok {op : Nat} {async : Bool} {p : Packet} {order : Nat} {io : Io} {c : Checks} {ok : State → State} {t : State}
    (hf : checkFields op p c t = none) (hg : c.ranges = []) (hres : c.res = none)
    (he : async = true → t.latch.completions < 512) : checked op async p order io c ok t = ok t := by
  unfold checked
  rw [hf, hg]
  simp only [checkRanges, hres]
  rw [if_neg]
  rintro ⟨h1, h2⟩
  have := he h1
  omega

/-- All checks pass, where the ranges translate (R61). -/
theorem checked_ranges {op : Nat} {async : Bool} {p : Packet} {order : Nat} {io : Io} {c : Checks} {ok : State → State}
    {t u : State} (hf : checkFields op p c t = none) (hg : checkRanges c.ranges io t = (u, none)) (hres : c.res = none)
    (he : async = true → u.latch.completions < 512) : checked op async p order io c ok t = ok u := by
  unfold checked
  rw [hf, hg]
  simp only [hres]
  rw [if_neg]
  rintro ⟨h1, h2⟩
  have := he h1
  omega

/-- A wrong header version is the first check that fails (R61). -/
theorem checked_version {op : Nat} {async : Bool} {p : Packet} {order : Nat} {io : Io} {c : Checks} {ok : State → State}
    {t : State} (h : p.hdrVersion.toNat ≠ 2) :
    checked op async p order io c ok t = replyOne p order 0x0103 0 0 0 0 t := by
  simp [checked, checkFields, h]

/-- Next, the opcode (R61). -/
theorem checked_opcode {op : Nat} {async : Bool} {p : Packet} {order : Nat} {io : Io} {c : Checks} {ok : State → State}
    {t : State} (h : p.hdrVersion.toNat = 2) (ho : p.opcode.toNat ≠ op) :
    checked op async p order io c ok t = replyOne p order 0x0104 0 0 0 0 t := by
  simp [checked, checkFields, h, ho]

/-- Next, the payload length (R61). -/
theorem checked_length {op : Nat} {async : Bool} {p : Packet} {order : Nat} {io : Io} {c : Checks} {ok : State → State}
    {t : State} (h : p.hdrVersion.toNat = 2) (ho : p.opcode.toNat = op)
    (hl : ¬ (p.payloadLen.toNat ≤ 4096 ∧ c.len p.payloadLen.toNat = true)) :
    checked op async p order io c ok t = replyOne p order 0x0105 0 0 0 0 t := by
  unfold checked checkFields
  rw [if_neg (by simp [h]), if_neg (by simp [ho]), if_pos hl]

/-- Next, the job tag of a job-scope command (R61, R62). -/
theorem checked_tag {op : Nat} {async : Bool} {p : Packet} {order : Nat} {io : Io} {c : Checks} {ok : State → State}
    {t : State} (h : p.hdrVersion.toNat = 2) (ho : p.opcode.toNat = op) (hl : p.payloadLen.toNat ≤ 4096)
    (hlen : c.len p.payloadLen.toNat = true) (hj : jobScope op = true)
    (ht : ¬ (jobExists t = true ∧ p.jobTag.toNat = t.job.tag)) :
    checked op async p order io c ok t = replyOne p order 0x0202 0 0 0 0 t := by
  unfold checked checkFields
  rw [if_neg (by simp [h]), if_neg (by simp [ho]), if_neg (by simp [hl, hlen]), if_pos ⟨hj, ht⟩]

end Sys2Proof.Machine
end

