-- ==== Sys2Proof/WellFormed.lean ====
section
/-! DEFINITION. Well-formed commands: fields that fit their widths on the boundary. A meaning is total on ill-formed ones
too; these checks say which commands the boundary can present. -/

namespace Sys2Proof

/-- A packet carries exactly the payload its header announces, at most 4,096 B (R29, R60). -/
def Packet.wf (p : Packet) : Bool := decide (p.payload.length = p.payloadLen.toNat) && decide (p.payloadLen.toNat ≤ 4096)

/-- A Funnel packet: a port, a 6-bit slot, an 8-bit generation, a 48-bit step, whole chunks (R39, R107). -/
def FunnelPkt.wf (f : FunnelPkt) : Bool :=
  decide (f.funnel < 4) && decide (f.slot < 64) && decide (f.generation < 256) && decide (f.step < 2 ^ 48) &&
  decide (f.firstToken < 4096) && decide (f.cls < 4) && decide (f.body.length % 64 = 0) && decide (f.body.length ≤ 65472)

/-- A KFT header whose fields fit (R254). -/
def KftHdr.wf (h : KftHdr) : Bool :=
  decide (h.ver < 16) && decide (h.vc < 8) && decide (h.op < 8) && decide (h.cls < 4) && decide (h.jobTag < 2 ^ 24) &&
  decide (h.partKey < 65536) && decide (h.srcSeat < 65536) && decide (h.dstSeat < 65536) && decide (h.seq < 2 ^ 32) &&
  decide (h.ackSeq < 2 ^ 32) && decide (h.ackVc < 8) && decide (h.region < 16) && decide (h.offset < 2 ^ 48) &&
  decide (h.length ≤ 8192) && decide (h.nackCode < 8)

/-- A frame whose payload has the length its header announces. -/
def Frame.wf (f : Frame) : Bool := f.hdr.wf && decide (f.payload.length = f.hdr.length)

/-- A unit's work: one of a slice's two engines, a token below 4,096, one of four classes (R10, R129, R141). -/
def WorkUnit.wf (u : WorkUnit) : Bool :=
  match u with
  | .engine e _ _ _ t => decide (e < 2) && decide (t < 4096)
  | .sfu token _ => decide (token < 4096)
  | .tumbler token => decide (token < 4096)
  | .tensor cls _ => decide (cls < 4)
  | _ => true

/-- A check's finding names one of the four slices, and an engine's column one of 128 (R152). -/
def Found.wf (f : Found) : Bool :=
  decide (f.slice < 4) && match f.err with
    | .column engine column => decide (engine < 2) && decide (column < 128)
    | _ => true

/-- The commands the boundary can present: packets, Funnel packets, headers and frames as above, and every index within its
unit's range. -/
def Instr.wf : Instr → Bool
  | .echo p => p.wf
  | .identify p => p.wf
  | .paramGet p _ => p.wf
  | .paramSet p => p.wf
  | .snapshot p _ => p.wf
  | .jobOpen p _ => p.wf
  | .jobClose p => p.wf
  | .jobStart p => p.wf
  | .layerLoad p _ => p.wf
  | .keyringCommit p => p.wf
  | .tableLoad p _ => p.wf
  | .stepRun p => p.wf
  | .batchCancel p => p.wf
  | .batchPreempt p => p.wf
  | .batchResume p => p.wf
  | .tensorCopy p _ _ => p.wf
  | .gather p _ _ => p.wf
  | .scatterAcc p _ _ _ => p.wf
  | .groupDefine p _ => p.wf
  | .collPost p _ => p.wf
  | .fence p => p.wf
  | .pourStart p => p.wf
  | .pourAbort p => p.wf
  | .pourRestartAll p => p.wf
  | .pourResume p => p.wf
  | .mmuMap p => p.wf
  | .mmuUnmap p => p.wf
  | .mmuInval p => p.wf
  | .poolConfig p _ => p.wf
  | .remoteInval p => p.wf
  | .timeCfg p => p.wf
  | .fwStage p _ _ => p.wf
  | .fwActivate p _ => p.wf
  | .vaultRead p _ => p.wf
  | .vaultPeriodClose p _ => p.wf
  | .traceCfg p _ => p.wf
  | .domainReset p => p.wf
  | .dumpRead p _ => p.wf
  | .rollbackCommit p => p.wf
  | .keyInstall p _ => p.wf
  | .hingeEnable p => p.wf
  | .laneModeWrite p => p.wf
  | .recEnable p => p.wf
  | .latchFramingError p => p.wf
  | .latchStrayBeat => true
  | .latchParityError _ _ => true
  | .replyBeatTaken _ _ => true
  | .routerRowsPacket f => f.wf
  | .sharedOutputPacket f => f.wf
  | .answerReadyReceive f _ => f.wf
  | .answerReadyReturn f => f.wf
  | .replayArrivalInject funnel h _ _ _ => decide (funnel < 4) && h.wf
  | .funnelMalformed funnel => decide (funnel < 4)
  | .funnelPoisonedBeat funnel slot => decide (funnel < 4) && decide (slot < 64)
  | .spoutLocalCopySent slot token rank => decide (slot < 64) && decide (token < 4096) && decide (rank < 32)
  | .mportReadData channel id err _ _ => decide (channel < 32) && decide (id < 64) && decide (err < 4)
  | .mportWriteResponse channel id err => decide (channel < 32) && decide (id < 64) && decide (err < 4)
  | .mportTimeout _ channel id => decide (channel < 32) && decide (id < 64)
  | .kftFrameReceive hinge link f => decide (hinge < 8) && decide (link < 4) && f.wf
  | .kftChunkApply src vc _ _ => decide (src < 65536) && decide (vc < 8)
  | .kftAckReceive h => h.wf
  | .kftNackReceive h => h.wf
  | .kftAckDelayExpiry seat vc => decide (seat < 65536) && decide (vc < 8)
  | .kftRetransmitTimeout dst vc _ => decide (dst < 65536) && decide (vc < 8)
  | .pathHoldoffExpiry link dst => decide (link < 32) && decide (dst < 65536)
  | .pfcFrameReceive hinge _ _ => decide (hinge < 8)
  | .countMessageReceive hinge _ => decide (hinge < 8)
  | .countExchangeTimeout step => decide (step < 2 ^ 48)
  | .cancelNoticeReceive hinge _ => decide (hinge < 8)
  | .cancelAckSend src _ => decide (src < 65536)
  | .cancelAckReceive _ => true
  | .answerReceive hinge _ _ => decide (hinge < 8)
  | .copyLanded hinge _ _ => decide (hinge < 8)
  | .workListEmit _ localSlot => decide (localSlot < 16384)
  | .collChunkReceive _ _ _ => true
  | .collCreditReceive _ _ => true
  | .collTimeout group _ => decide (group < 256)
  | .collOperationComplete group _ _ => decide (group < 256)
  | .collOperationStart group _ => decide (group < 256)
  | .startBarrierNotice _ => true
  | .calibrationRequest _ _ _ _ _ => true
  | .calibrationReply _ _ _ _ => true
  | .calibrationWindow _ => true
  | .releaseInstant => true
  | .remoteLoad src _ loadTag _ _ => decide (src < 65536) && decide (loadTag < 65536)
  | .remoteStore src _ _ _ => decide (src < 65536)
  | .flagStore src _ _ _ => decide (src < 65536)
  | .remoteAtomic src _ loadTag aop width _ _ _ => decide (src < 65536) && decide (loadTag < 65536) && decide (aop < 8) && decide (width < 2)
  | .loadResponseReceive src loadTag _ => decide (src < 65536) && decide (loadTag < 65536)
  | .rld core thread _ seat _ => decide (core < 16) && decide (thread < 8) && decide (seat < 65536)
  | .rstr core thread seat _ _ _ => decide (core < 16) && decide (thread < 8) && decide (seat < 65536)
  | .rstf core thread seat _ _ _ => decide (core < 16) && decide (thread < 8) && decide (seat < 65536)
  | .ramo core thread aop width seat _ _ _ => decide (core < 16) && decide (thread < 8) && decide (aop < 8) && decide (width < 2) && decide (seat < 65536)
  | .rinv core thread _ seat _ _ => decide (core < 16) && decide (thread < 8) && decide (seat < 65536)
  | .managementRequest _ _ => true
  | .ptpEventMessage domain _ => decide (domain < 256)
  | .ptpSyncMissed => true
  | .laneTrainDone hinge lane _ _ => decide (hinge < 8) && decide (lane < 8)
  | .laneTrainTimeout hinge lane => decide (hinge < 8) && decide (lane < 8)
  | .laneLockChange hinge lane _ => decide (hinge < 8) && decide (lane < 8)
  | .linkAlignTimeout link => decide (link < 32)
  | .fecFailLimit link => decide (link < 32)
  | .remoteFaultReceive link => decide (link < 32)
  | .relinkHoldoffExpiry link => decide (link < 32)
  | .quiesceComplete link => decide (link < 32)
  | .stage1Complete slot => decide (slot < 64)
  | .stepScoringDone slot _ found => decide (slot < 64) && found.all Found.wf
  | .dispatchStart slot => decide (slot < 64)
  | .dispatchAcked slot => decide (slot < 64)
  | .combineStart slot _ _ found => decide (slot < 64) && found.all Found.wf
  | .combineDone slot _ => decide (slot < 64)
  | .preemptBoundary slot => decide (slot < 64)
  | .cancelTeardownComplete slot => decide (slot < 64)
  | .classSwitch slice slot cls unit => decide (slice < 4) && decide (slot < 64) && decide (cls < 4) && unit.wf
  | .loopSumPost _ => true
  | .biasUpdate _ => true
  | .commitLoadsDone => true
  | .epochTakesEffect => true
  | .jobDrainComplete => true
  | .crashDump _ => true
  | .crashDumpComplete _ => true
  | .stepDeadlineExpiry slot => decide (slot < 64)
  | .unitHang _ _ cls => decide (cls < 4)
  | .portBackpressureExpiry _ _ cls => decide (cls < 4)
  | .firmwareHeartbeatMiss core => decide (core < 4)
  | .controlStateError _ => true
  | .coreMemoryUncorrectable ward core => decide (core < if ward then 16 else 4)
  | .domainFenceClosed _ => true
  | .domainDrainComplete _ => true
  | .domainDrainDeadline _ _ => true
  | .domainResetElapsed _ => true
  | .domainSelfCheck _ _ => true
  | .escalationWindowExpiry => true
  | .aoPorAssert => true
  | .aoPorRelease _ _ => true
  | .porAssert => true
  | .porReleaseBoot _ _ => true
  | .bootRetry _ _ => true
  | .rootLockLoss => true
  | .pwrWarnActed => true
  | .braceInflightDone => true
  | .braceSealed err => decide (err < 4)
  | .pwrWarnClear => true
  | .braceHoldoffExpiry => true
  | .pwrResetRise => true
  | .pwrResetFall _ => true
  | .throttleChange _ => true
  | .vddAckRise => true
  | .vddAckTimeout => true
  | .marginPlanPeriodic => true
  | .canaryAlarm slice _ => decide (slice < 4)
  | .ceLimitReplan _ => true
  | .relaxPeriodExpiry => true
  | .measurementIntervalEnd _ => true
  | .vaultSealCheck _ _ => true
  | .vaultNonceRefill => true
  | .patrolScrub _ _ => true
  | .carafeGrant => true
  | .carafeListError pool _ => decide (pool < 8)
  | .pourDescriptorRead ch _ => decide (ch < 32)
  | .pourPipeGrant pipe => decide (pipe < 8)
  | .pourGranuleYield ch => decide (ch < 32)
  | .move ch _ _ => decide (ch < 32)
  | .fill ch _ _ => decide (ch < 32)
  | .cmp ch _ _ => decide (ch < 32)
  | .loop ch _ => decide (ch < 32)
  | .wait ch _ => decide (ch < 32)
  | .waitPoll ch _ => decide (ch < 32)
  | .waitTimeout ch => decide (ch < 32)
  | .signal ch _ => decide (ch < 32)
  | .endProg ch _ => decide (ch < 32)
  | .pourIllegalOpcode ch _ => decide (ch < 32)
  | .pourInstructionComplete ch => decide (ch < 32)
  | .pourPark ch => decide (ch < 32)
  | .pourWritebackComplete ch _ => decide (ch < 32)
  | .pourCancelDrained ch => decide (ch < 32)
  | .pourBusErrorStop => true
  | .pourStopDrained => true
  | .dripSample => true
  | .dripRecordWritten _ => true
  | .dripRingFault _ => true
  | .recordWritten _ => true
  | .recordRingFault _ => true
  | .queuePoisonConsume _ => true
  | .alignmentMarkersFound link => decide (link < 32)
  | .laneAlignmentLoss link lane => decide (link < 32) && decide (lane < 8)
  | .relinkHoldoffRestore link => decide (link < 32)
  | .marginExhaustedAdvisoryEnd => true
  | .creditCoalesceExpiry _ => true
  | .delayRequestInterval => true
  | .syncIntervalTransmit => true
  | .pfcPauseExpiry hinge prio => decide (hinge < 8) && decide (prio < 8)

end Sys2Proof
end

