-- ==== Sys2Proof/Tests/Slice0.lean ====
section
/-! SUPPORT. Our own tests: helpers that build small states, the WellFormed smoke, witnesses that the hypotheses of each
statement can be met, and small checks of single commands against values the manual gives. -/

set_option Elab.async false

namespace Sys2Proof.Tests

open Sys2Proof.Machine

/-! ### Builders -/

/-- A packet of an opcode with a payload. -/
def pkt (op : Nat) (body : List Byte := []) (p0 p1 p2 p3 p4 : Nat := 0) (job : Nat := 0) (after : Bool := false) : Packet :=
  { opcode := BitVec.ofNat 8 op, cls := 0, after := after, tag := 7, jobTag := BitVec.ofNat 24 job, hdrVersion := 2,
    payloadLen := BitVec.ofNat 16 body.length, p0 := BitVec.ofNat 32 p0, p1 := BitVec.ofNat 32 p1, p2 := BitVec.ofNat 32 p2,
    p3 := BitVec.ofNat 32 p3, p4 := BitVec.ofNat 32 p4, payload := body }

/-- The block with both resets released, its firmware running, a cached translation of the first GiB of both contexts, and
own seat 320. -/
def booted : State :=
  { State.reset with
    rst := { State.reset.rst with aoHeld := false, porHeld := false, ctlReady := true },
    params := [(0x0001, 320)],
    latch := { Latch.reset with free := 64 },
    keyway := { State.reset.keyway with
      root0 := some 0x1000,
      tlb := [{ ctx := 0, va := 0, bytes := 2 ^ 30, pa := 2 ^ 32, read := true, write := true },
              { ctx := 1, va := 0, bytes := 2 ^ 30, pa := 2 ^ 33, read := true, write := true }] } }

/-- With the root clock lost. -/
def unlocked : State := { booted with rst := { booted.rst with rootLost := true } }

/-- With the packets of commands waiting. -/
def queued (l : List Instr) : State := { booted with pending := l }

/-- With an open command of place 0 in the order. -/
def opened : State :=
  { booted with latch := { booted.latch with order := 1, opened := [{ tag := 1, opcode := 0x71, order := 0, jobScope := false }] } }

/-- A held command. -/
def heldOf (why : HoldWhy) (p : Packet) (n : Nat) : Held :=
  { why := why, cmd := p, io := .ok, arrival := [], tiles := 0, verdict := ⟨false, false, false, false⟩, key := ⟨false, false⟩, order := n }

/-- With a command held. -/
def holding (why : HoldWhy) (p : Packet) (s : State) : State :=
  { s with latch := { s.latch with order := s.latch.order + 1, held := s.latch.held ++ [heldOf why p s.latch.order] } }

/-- A job of seats 320 (the block) and 321 in a state. -/
def jobIn (st : JobState) : State :=
  { booted with
    keyway := { booted.keyway with root1 := some 0x2000 },
    job := { Job.zero with
      st := st, tag := 5, members := [320, 321],
      desc := { JobDesc.zero with nMembers := 2, kMax := 1, bMax := 4, hMax := 4, nLayers := 1, rxWindows := 4, d := 128 } } }

/-- `Runs` as a test. -/
def runsB (op : Nat) (p : Packet) (s : State) : Bool :=
  !s.rst.rootLost && canTake s && decide (p.opcode.toNat = op) && decide (p.hdrVersion.toNat = 2) && !p.after &&
  s.latch.held.all (fun h => decide (h.why ≠ .after)) && !memWaits p s

/-- `RunsJob` as a test. -/
def runsJobB (op : Nat) (p : Packet) (s : State) : Bool :=
  runsB op p s && jobExists s && decide (p.jobTag.toNat = s.job.tag) && jobAdmits s op

theorem runs_of {op : Nat} {p : Packet} {s : State} (h : runsB op p s = true) : Runs op p s := by
  simp only [runsB, Bool.and_eq_true, Bool.not_eq_true', decide_eq_true_eq, List.all_eq_true] at h
  obtain ⟨⟨⟨⟨⟨⟨a, b⟩, c⟩, d⟩, e⟩, f⟩, g⟩ := h
  exact ⟨a, b, c, d, e, f, g⟩

theorem runsJob_of {op : Nat} {p : Packet} {s : State} (h : runsJobB op p s = true) : RunsJob op p s := by
  simp only [runsJobB, Bool.and_eq_true, decide_eq_true_eq] at h
  obtain ⟨⟨⟨a, b⟩, c⟩, d⟩ := h
  exact ⟨runs_of a, b, c, d⟩

/-- `Inv` as a test. -/
def invB (s : State) : Bool :=
  Mem.wf s.sp && s.sp.all (fun c => decide (c.1 < spSize)) && Mem.wf s.hostMem &&
  decide (s.slots.length = 64 ∧ s.links.length = 32 ∧ s.lanes.length = 64 ∧ s.doms.length = 14 ∧ s.pour.ch.length = 32 ∧
    s.carafe.pools.length = 8 ∧ s.keyring.length = 4 ∧ s.ev.fatal.length ≤ 16 ∧ s.ev.other.length ≤ 239 ∧
    s.rlog.length ≤ 1024 ∧ s.vault.closed.length ≤ 16 ∧ s.keyway.tlb.length ≤ 8192 ∧ s.keyway.upper.length ≤ 512 ∧
    s.latch.completions ≤ 512 ∧ 32 * s.drip.buf.length ≤ 262144 ∧ sumN (s.recRing.buf.map recLen) ≤ 524288 ∧ s.latch.free ≤ 64)

theorem inv_of {s : State} (h : invB s = true) : Inv s := by
  simp only [invB, Bool.and_eq_true, decide_eq_true_eq, List.all_eq_true] at h
  obtain ⟨⟨⟨a, b⟩, c⟩, d1, d2, d3, d4, d5, d6, d7, d8, d9, e1, e2, e3, e4, e5, e6, e7, e8⟩ := h
  exact ⟨a, b, c, d1, d2, d3, d4, d5, d6, d7, d8, d9, e1, e2, e3, e4, e5, e6, e7, e8⟩

/-! ### Witnesses: the queue, the header checks, and holding -/

theorem wit_StepRunsTheFrontCommand : (queued [.latchStrayBeat, .vddAckRise]).pending = .latchStrayBeat :: [.vddAckRise] := by decide

theorem wit_EmptyQueueIsOneTick :
    booted.pending = [] ∧ booted.rst.aoHeld = false ∧ booted.rst.rootLost = false ∧ maySlew booted = false ∧
    State.reset.pending = [] ∧ State.reset.rst.aoHeld = true := by decide

theorem wit_EveryStepKeepsInv : Inv (queued [.latchStrayBeat]) ∧ ∃ t, step (queued [.latchStrayBeat]) = .next t :=
  ⟨inv_of (by decide), _, rfl⟩

theorem wit_OnlyRootLockStopsAndTheQueueStays :
    Inv booted ∧ (∃ t, exec .latchStrayBeat booted = .next t) ∧ booted.rst.rootLost = false ∧ unlocked.rst.rootLost = true ∧
    Instr.latchStrayBeat ≠ .porAssert ∧ Instr.latchStrayBeat ≠ .aoPorAssert :=
  ⟨inv_of (by decide), ⟨_, rfl⟩, by decide⟩

theorem wit_HeaderChecksInOrder :
    let e := pkt 0x01
    let i := pkt 0x02 [0]
    let j := pkt 0x32 (job := 6)
    let s := jobIn .running
    (packetOf (.echo e) = some (0x01, e) ∧ canTake State.reset = false ∧ State.reset.rst.rootLost = false) ∧
    (canTake booted = true ∧ ∀ h ∈ booted.latch.held, h.why ≠ .after) ∧
    (packetOf (.echo { e with hdrVersion := 1 }) = some (0x01, { e with hdrVersion := 1 })) ∧
    (packetOf (.echo (pkt 0x6F)) = some (0x01, pkt 0x6F) ∧ (pkt 0x6F).opcode.toNat ∉ opcodes) ∧
    (packetOf (.echo { e with payloadLen := 4097 }) = some (0x01, { e with payloadLen := 4097 })) ∧
    (packetOf (.identify i) = some (0x02, i) ∧ fixedLen 0x02 i = some 0 ∧ i.payloadLen.toNat ≠ 0) ∧
    (packetOf (.fence j) = some (0x32, j) ∧ jobScope 0x32 = true ∧ fixedLen 0x32 j = some j.payloadLen.toNat ∧
      canTake s = true ∧ ¬ (jobExists s = true ∧ j.jobTag.toNat = s.job.tag)) ∧
    memWaits e booted = false ∧ memWaits i booted = false ∧ memWaits j s = false ∧ inBrace booted = false := by decide

theorem wit_AfterHoldsThePacket :
    let p := pkt 0x01 (after := true)
    packetOf (.echo p) = some (0x01, p) ∧ canTake opened = true ∧ p.opcode.toNat = 0x01 ∧ p.after = true ∧
    (∃ o ∈ opened.latch.opened, o.order < opened.latch.order) ∧
    canTake (holding .after p opened) = true ∧ ∃ h ∈ (holding .after p opened).latch.held, h.why = .after := by decide

theorem wit_EchoAndIdentifyReply :
    Runs 0x01 (pkt 0x01) booted ∧ (pkt 0x01).payloadLen.toNat ≤ 4096 ∧ Runs 0x02 (pkt 0x02) booted ∧
    (pkt 0x02).payloadLen.toNat = 0 := ⟨runs_of (by decide), by decide, runs_of (by decide), by decide⟩

/-- An asynchronous command that is open, and one that is not. -/
theorem wit_TakingAndReplyingFrame :
    let o : OpenCmd := { tag := 1, opcode := 0x71, order := 0, jobScope := false }
    opened.latch.opened.any (fun x => sameCmd x o) = true ∧ booted.latch.opened.any (fun x => sameCmd x o) = false := by decide

/-- A state whose translations fail. -/
def unmapped : State := { booted with keyway := State.reset.keyway }

theorem wit_MemoryWriteFrames :
    (hostWrite booted 0 0x100 [1]).2 matches .ok _ ∧ (hostWrite unmapped 0 0x100 [1]).2 matches .error _ := by decide


theorem pairN {x : State × Option Nat} (h : x.2.isNone = true) : x = (x.1, none) := by
  obtain ⟨a, b⟩ := x; cases b <;> simp_all

theorem entry_of {s : State} (h : s.latch.completions < 512) : entryFree s := h

/-- The first state of a check of ranges. -/
def ranged (l : List (Nat × Nat × Nat × Bool)) (s : State) : State := (checkRanges l .ok s).1

/-! ### Witnesses: block-scope commands -/

theorem wit_ParamGetSnapshotAndDumpReadComplete :
    let g := pkt 0x03 [1, 0]
    let h := pkt 0x03 [1, 0, 1, 0, 1, 0] (p1 := 0x100)
    let n := pkt 0x05 (p0 := 2) (p1 := 0x100)
    let d := pkt 0x71 (p0 := 1) (p1 := 0x100)
    (Runs 0x03 g booted ∧ g.payloadLen.toNat = 2 ∧ ∀ i ∈ getIds g, (paramInfo i).isSome = true) ∧
    (Runs 0x03 h booted ∧ h.payloadLen.toNat % 2 = 0 ∧ 4 < h.payloadLen.toNat ∧ h.payloadLen.toNat ≤ 4096 ∧
      checkRanges [(0, pVa h, 24, true)] .ok (takePacket h booted) = (ranged [(0, pVa h, 24, true)] (takePacket h booted), none) ∧
      (ownWrite 0 (pVa h) (((getIds h).map (paramValue (takePacket h booted))).flatMap (leBytes 8)) .ok
        (ranged [(0, pVa h, 24, true)] (takePacket h booted))).2.isNone = true) ∧
    (Runs 0x05 n booted ∧ n.payloadLen.toNat = 0 ∧ n.p0.toNat % 256 ≤ 4 ∧
      (checkRanges [(0, pVa n, (snapBytes (takePacket n booted) 2).length, true)] .ok (takePacket n booted)).2.isNone = true) ∧
    (Runs 0x71 d booted ∧ d.payloadLen.toNat = 0 ∧ entryFree booted ∧ d.p0.toNat % 2 = 1 ∧
      (checkRanges [(0, pVa d, (takePacket d booted).dump.header.length, true)] .ok (takePacket d booted)).2.isNone = true) := by
  refine ⟨⟨runs_of (by decide), by decide, by decide⟩,
    ⟨runs_of (by decide), by decide, by decide, by decide, pairN (by decide), by decide⟩,
    ⟨runs_of (by decide), by decide, by decide, by decide +kernel⟩,
    ⟨runs_of (by decide), by decide, entry_of (by decide), by decide, by decide⟩⟩

/-- One PARAM_SET entry. -/
def entry (id v : Nat) : List Byte := leBytes 2 id ++ List.replicate 6 0 ++ leBytes 8 v

theorem wit_ParamSetAppliesAllOrNone :
    let p := pkt 0x04 (entry 0x0118 10)
    let q := pkt 0x04 (entry 0x7777 1)
    Runs 0x04 p booted ∧ p.payloadLen.toNat % 16 = 0 ∧ 16 ≤ p.payloadLen.toNat ∧ p.payloadLen.toNat ≤ 4096 ∧
    namesKey (setEntries p) = false ∧
    entriesBad (takePacket p booted) (setStep p) (setEntries p) 0 (setEntries p) = none ∧ namesKey (setEntries q) = false ∧
    (entriesBad (takePacket q booted) (setStep q) (setEntries q) 0 (setEntries q)).isSome = true ∧
    (0x0300 ≥ 0x0280 ∧ 0x0300 ≠ 0x0A02 ∧ ¬ (0x0310 ≤ 0x0300 ∧ 0x0300 ≤ 0x0337)) ∧
    (0x0100 < 0x0200 ∧ 0x0100 ≠ 0x002C ∧ 0x0100 ≠ 0x0A02 ∧ ¬ (0x0310 ≤ 0x0100 ∧ 0x0100 ≤ 0x0337)) ∧
    isBound 0x0500 = true ∧ Inv booted ∧ bit 1 0 = true ∧ bit (getP booted 0x0A02) 0 = false :=
  ⟨runs_of (by decide), by decide, by decide, by decide, by decide, by decide, by decide, by decide, by decide, by decide,
    by decide, inv_of (by decide), by decide, by decide⟩

/-- With one memory-port request out. -/
def busyPort : State :=
  { booted with mport := { booted.mport with out := [{ write := false, channel := 3, id := 0, cls := 2, pa := 64, len := 64, who := .stepRow 0 1 0 }] } }

theorem wit_MmuCommandsComplete :
    let m := pkt 0x40 (p0 := 1) (p1 := 0x2000)
    let u := pkt 0x41
    let i := pkt 0x42 (p1 := 0) (p3 := 1)
    (Runs 0x40 m booted ∧ m.payloadLen.toNat = 0 ∧ mmuRoot m % 4096 = 0 ∧ rootOf booted 1 = none ∧ jobExists booted = false) ∧
    (Runs 0x40 { m with p0 := 0 } booted ∧ rootOf booted 0 ≠ none) ∧
    (Runs 0x40 m (jobIn .opened) ∧ jobExists (jobIn .opened) = true) ∧
    (Runs 0x41 u booted ∧ u.payloadLen.toNat = 0 ∧ jobExists booted = false ∧ hostPool booted = false ∧ entryFree booted ∧
      booted.mport.out = [] ∧ Runs 0x41 u busyPort ∧ busyPort.mport.out ≠ [] ∧ jobExists busyPort = false ∧
      hostPool busyPort = false ∧ entryFree busyPort) ∧
    (Runs 0x42 i booted ∧ i.payloadLen.toNat = 0 ∧ entryFree booted ∧ i.p3.toNat ≠ 0 ∧ Runs 0x42 (pkt 0x42) busyPort ∧
      (pkt 0x42).p3.toNat = 0) ∧
    (booted.mport.wait = [] ∧ poursBusy booted = [] ∧ tensorsOpen booted = [] ∧ booted.keyway.retire = [] ∧
      ∀ x ∈ booted.pour.ch, x.ctx = 1 → x.st = .idle) := by
  refine ⟨⟨runs_of (by decide), by decide, by decide, by decide, by decide⟩, ⟨runs_of (by decide), by decide⟩,
    ⟨runs_of (by decide), by decide⟩, ⟨runs_of (by decide), by decide, by decide, by decide, entry_of (by decide), by decide,
    runs_of (by decide), by decide, by decide, by decide, entry_of (by decide)⟩,
    ⟨runs_of (by decide), by decide, entry_of (by decide), by decide, runs_of (by decide), by decide⟩, by decide⟩

/-- A TIME_CFG payload: a time receiver, lock bound 100 ns, alarm bound 1,000 ns; bit 3 of byte 0 steps KT to `kt`. -/
def timeBody (step kt : Nat) : List Byte :=
  leBytes 64 (1 + step * 8 + kt * 2 ^ 64 + 100 * 2 ^ 128 + 1000 * 2 ^ 160)

/-- A TRACE_CFG payload: a ring of 64 KiB at 0x10000, enabled. -/
def traceBody (en size : Nat) : List Byte :=
  leBytes 64 (en + 0x10000 * 2 ^ 16 + size * 2 ^ 64 + 0x7FFE * 2 ^ 96 + 0x7FFF * 2 ^ 128 + 10 * 2 ^ 160)

/-- Drip enabled on that ring. -/
def dripping : State :=
  { booted with drip := { Drip.reset with enable := true, base := 0x10000, size := 1, kindMask := 0x7FFE, unitMask := 0x7FFF,
                                          sampleUs := 10, sel := [0x8000 + 41, 0] } }

theorem wit_TraceConfigComplete :
    let p := pkt 0x68 (traceBody 1 1)
    let q := pkt 0x68 (traceBody 1 2)
    Runs 0x68 p booted ∧ p.payloadLen.toNat = 64 ∧ traceRange (traceOf (pBody p)) = true ∧
    traceFixed booted (traceOf (pBody p)) = false ∧ (traceOf (pBody p)).enable = true ∧ booted.drip.enable = false ∧
    checkRanges [(0, 0x10000, 65536, true)] .ok (takePacket p booted) =
      (ranged [(0, 0x10000, 65536, true)] (takePacket p booted), none) ∧
    Runs 0x68 q dripping ∧ traceRange (traceOf (pBody q)) = true ∧ traceFixed dripping (traceOf (pBody q)) = true ∧
    Runs 0x68 p dripping ∧ traceFixed dripping (traceOf (pBody p)) = false ∧ dripping.drip.enable = true := by
  refine ⟨runs_of (by decide), by decide, by decide, by decide, by decide, by decide, pairN (by decide), runs_of (by decide),
    by decide, by decide, runs_of (by decide), by decide, by decide⟩

theorem wit_TimeConfigComplete :
    let p := pkt 0x50 (timeBody 1 1000)
    let q := pkt 0x50 (timeBody 0 0)
    Runs 0x50 p booted ∧ p.payloadLen.toNat = 64 ∧ timeRange (pBody p) booted = true ∧
    (bit (leAt (pBody p) 0 1) 3 = true ∧ booted.job.st ≠ .starting ∧ booted.job.st ≠ .running) ∧
    Runs 0x50 q (jobIn .running) ∧ timeRange (pBody q) (jobIn .running) = true ∧ bit (leAt (pBody q) 0 1) 3 = false :=
  ⟨runs_of (by decide), by decide, by decide, by decide, runs_of (by decide), by decide, by decide⟩

/-- SHA-384 of nothing (FIPS 180-4). -/
def emptyHash : Nat := 0x38b060a751ac96384cd9327eb1b1e36a21fdb71114be07434c0cc7bf63f6e1da274edebfe76f65fbd51ad2f14898b95b

/-- An image of a kind with no body (R469). -/
def image (kind : Nat) : List Byte :=
  leBytes 16 (kind + 2 ^ 16 + 2 ^ 32) ++ (leBytes 48 emptyHash).reverse ++ List.replicate 192 0

theorem test_sha384_of_nothing : sha384 [] = (leBytes 48 emptyHash).reverse := by decide +kernel

/-- Every signature good. -/
def signed : Verdict := ⟨true, true, true, true⟩

/-- A bundle of both images lies at VA 0x10000 and at the boot address. -/
def bundled : State :=
  { booted with hostMem := memWrite (memWrite [] 0 (image 0x4601 ++ image 0x4602)) (2 ^ 32 + 0x10000) (image 0x4601 ++ image 0x4602) }

/-- That bundle is staged. -/
def stagedFw : State :=
  { booted with fw := { booted.fw with stagedCtl := some { version := 1, svn := 0, image := image 0x4601 } } }

theorem wit_FirmwareStageAndActivateComplete :
    let p := pkt 0x58 (p1 := 0x10000) (p3 := 512)
    let r := ranged [(0, pVa p, 512, false)] (takePacket p bundled)
    let a := pkt 0x59
    (Runs 0x58 p bundled ∧ p.payloadLen.toNat = 0 ∧ entryFree bundled ∧ p.p3.toNat ≤ bundleMax ∧
      checkRanges [(0, pVa p, 512, false)] .ok (takePacket p bundled) = (r, none) ∧
      (match ownRead 0 (pVa p) 512 .ok (accept p 0 0 r) with
       | (w, .ok b) => ((verifyBundle w signed b) matches .ok [_, _]) &&
           ((verifyBundle w ⟨false, true, true, true⟩ b) matches .error (0x0503, 0))
       | _ => false) = true) ∧
    (Runs 0x59 a stagedFw ∧ a.payloadLen.toNat = 0 ∧ entryFree stagedFw ∧ inBrace stagedFw = false ∧ stagedImgs stagedFw ≠ [] ∧
      imgsBad stagedFw signed (stagedImgs stagedFw) = none ∧ imgsBad stagedFw ⟨false, true, true, true⟩ (stagedImgs stagedFw) = some (0x0503, 0)) := by
  refine ⟨⟨runs_of (by decide +kernel), by decide, entry_of (by decide), by decide, pairN (by decide +kernel), by decide +kernel⟩,
    ⟨runs_of (by decide), by decide, entry_of (by decide), by decide, by decide +kernel, by decide +kernel, by decide +kernel⟩⟩

/-- Vault with pairs left and a closed period 3. -/
def vaulted (n : Nat) : State :=
  { booted with vault := { Vault.reset with nonces := n, closed := [{ VPeriod.zero with num := 3 }] } }

theorem wit_VaultCommandsComplete :
    let p := fun (sel : Nat) => pkt 0x60 (p0 := sel) (p1 := 0x100) (p3 := 3)
    let q := pkt 0x61 (p1 := 0x100)
    (Runs 0x60 (p 1) (vaulted 4) ∧ (p 1).payloadLen.toNat = 0 ∧ entryFree (vaulted 4) ∧ vaultSelOk (vaulted 4) 1 3 = true ∧
      vaultSelOk (vaulted 4) 0 3 = true ∧ vaultSelOk (vaulted 4) 2 3 = true ∧ vaultSelOk (vaulted 4) 3 0 = true ∧
      (checkRanges [(0, 0x100, vaultSelBytes 1, true)] .ok (takePacket (p 1) (vaulted 4))).2.isNone = true ∧
      nonceFree (vaulted 4) = true ∧ nonceFree (vaulted 1) = false ∧ Runs 0x60 (p 0) (vaulted 1) ∧ entryFree (vaulted 1)) ∧
    (Runs 0x61 q (vaulted 4) ∧ q.payloadLen.toNat = 0 ∧ inBrace (vaulted 4) = false ∧ Runs 0x61 q (vaulted 1) ∧
      inBrace (vaulted 1) = false ∧ (checkRanges [(0, 0x100, 512, true)] .ok (takePacket q (vaulted 1))).2.isNone = true) := by
  refine ⟨⟨runs_of (by decide), by decide, entry_of (by decide), by decide, by decide, by decide, by decide, by decide, by decide,
    by decide, runs_of (by decide), entry_of (by decide)⟩, ⟨runs_of (by decide), by decide, by decide, runs_of (by decide), by decide,
    by decide⟩⟩

theorem wit_VaultReadWrites :
    let p := pkt 0x60 (p0 := 3) (p1 := 0x100)
    let a := accept p 0 0 (ranged [(0, pVa p, 512, true)] (takePacket p (vaulted 4)))
    (ownWrite 0 (pVa p) (vaultRecord 3 0 a).2 .ok (vaultRecord 3 0 a).1).2.isNone = true := by decide +kernel

theorem wit_VaultCheckAndRefillComplete :
    (booted.rst.rootLost = false ∧ 0 % 2 ^ 32 = booted.fuses.vaultChecksum ∧ 1 % 2 ^ 32 ≠ booted.fuses.vaultChecksum ∧
      bit booted.vault.status 0 = false ∧ bit 1 0 = true) ∧
    ((vaulted 3).vault.nonces < 4 ∧ (vaulted 3).rst.aoHeld = false ∧ (vaulted 3).vault.waiting = [] ∧
      (vaulted 3).mgmt.waiting = [] ∧ 4 ≤ (vaulted 4).vault.nonces) := by decide

/-- A management request that reads parameter 1. -/
def request (kind : Nat) (bad : Bool := false) : MgmtReq :=
  { seat := 322, kind := kind, reqId := 9, arg0 := 1, arg1 := 0, body := [1, 0], poisoned := bad }

/-- One already answered. -/
def answered : State :=
  { booted with mgmt := { booted.mgmt with cache := [{ seat := 322, reqId := 9, kind := 0x81, status := 0, body := [] }] } }

theorem wit_ManagementRequestAnswers :
    (request 1 true).poisoned = true ∧ (request 1).poisoned = false ∧ mgmtServed State.reset (request 1) = false ∧
    mgmtServed booted (request 1) = true ∧ (answered.mgmt.cache.find? fun r => decide (r.seat = 322 ∧ r.reqId = 9)).isSome = true ∧
    mgmtServed answered (request 1) = true ∧ (booted.mgmt.cache.find? fun r => decide (r.seat = 322 ∧ r.reqId = 9)) = none ∧
    mgmtWaits booted (request 1) = false ∧ mgmtWaits (vaulted 1) (request 7) = true ∧ mgmtServed (vaulted 1) (request 7) = true ∧
    mgmtLink booted = none ∧ 1 ≤ (request 1).kind ∧ (request 1).kind ≤ 7 ∧ 1 ≤ (request 1).arg0 ∧ (request 1).arg0 ≤ 512 ∧
    (∀ i < (request 1).arg0, (paramInfo (leAt (request 1).body (2 * i) 2)).isSome = true) ∧
    mgmtServed booted (request 6) = true ∧ mgmtWaits booted (request 6) = false := by decide

/-- A time receiver (1) or transmitter (2), on an Up link, that has sent a message of kind `k`. -/
def timed (role good bad missed : Nat) (mech : Bool := false) (k : Nat := 1) : State :=
  { booted with
    ptp := { Ptp.reset with role := role, delayMech := mech, lockNs := 100, good := good, bad := bad, missed := missed,
                            sent := [{ kind := k, stamp := 640, domain := 0, pcp := none, clockId := 0 }] },
    links := { Link.reset with st := .up } :: List.replicate 31 Link.reset }

theorem wit_PtpRowsComplete :
    (timed 1 15 0 0).ptp.role = 1 ∧ (timed 1 15 0 0).ptp.domain = 0 ∧
    above (rxStamp (timed 1 15 0 0) 0 0 - 0 - (timed 1 15 0 0).ptp.delay) 100 = false ∧
    above (rxStamp (timed 1 15 0 0) 100000 0 - 0 - (timed 1 15 0 0).ptp.delay) 100 = true ∧
    (sentStamp (timed 1 0 0 0) 1 = some 640 ∧ (timed 1 0 0 0).ptp.delayMech = false) ∧
    (sentStamp (timed 1 0 0 0 true 2) 2 = some 640 ∧ (timed 1 0 0 0 true 2).ptp.delayMech = true ∧
      sentStamp (timed 1 0 0 0 true 2) 1 = none) ∧ sentStamp (timed 1 0 0 0) 2 = none ∧ mgmtLink (timed 1 0 0 0) = some 0 ∧ 15 ≤ (timed 1 15 0 0).ptp.good ∧ (timed 1 14 0 0).ptp.good < 15 ∧
    3 ≤ (timed 1 0 3 0).ptp.bad ∧ (timed 1 0 2 0).ptp.bad < 3 ∧ (timed 1 0 0 2).ptp.missed < 3 ∧ 3 ≤ (timed 1 0 0 3).ptp.missed ∧
    (timed 2 0 0 0).ptp.role ≠ 1 ∧ (timed 2 0 0 0).ptp.role = 2 ∧ ptpLinkUp (timed 1 0 0 0) = true ∧ ptpLinkUp (timed 2 0 0 0) = true ∧
    ptpLinkUp booted = false := by decide

/-! ### Witnesses: recovery, power and reset -/

/-- With domain `i` in a state. -/
def domIn (i : Nat) (st : DomState) (again : Option Nat) (s : State) : State :=
  { s with doms := s.doms.set i { Dom.reset with st := st, again := again } }

theorem wit_DomainResetCommandCompletes :
    let p := fun (c : Nat) => pkt 0x70 (p0 := c)
    let s := jobIn .running
    Inv s ∧ Runs 0x70 (p 0x10) s ∧ (p 0x10).payloadLen.toNat = 0 ∧ entryFree s ∧ domOf 0x10 = some 1 ∧ domState s 1 = .inService ∧
    jobActive s = true ∧ jobActive booted = false ∧ domOf 0 = some 0 ∧ domState (domIn 1 .rejoining none s) 1 = .rejoining ∧
    Runs 0x70 (p 0x10) (domIn 1 .rejoining none s) ∧ domState (domIn 13 .draining none s) 13 = .draining ∧
    Runs 0x70 (p 0x30) (domIn 13 .draining none s) ∧ domOf 0x30 = some 13 := by
  refine ⟨inv_of (by decide), runs_of (by decide), by decide, entry_of (by decide), by decide, by decide, by decide, by decide,
    by decide, by decide, runs_of (by decide), by decide, runs_of (by decide), by decide⟩

theorem wit_DomainResetPhasesComplete :
    domOf 0x27 = some 12 ∧ domOf 0x13 = some 4 ∧ Inv (domIn 12 .fencing none booted) ∧
    domState (domIn 12 .fencing none booted) 12 = .fencing ∧ domState (domIn 4 .fencing none booted) 4 = .fencing ∧
    domState (domIn 0 .draining none booted) 0 = .draining ∧ domDrained 0 (domIn 0 .draining none booted) = true ∧
    domDrained 13 (domIn 13 .draining none booted) = true ∧ domState (domIn 13 .draining none busyPort) 13 = .draining ∧
    domDrained 13 (domIn 13 .draining none busyPort) = false ∧ domState (domIn 1 .inReset none booted) 1 = .inReset ∧
    domState (domIn 1 .rejoining none booted) 1 = .rejoining ∧
    (domAt (domIn 1 .rejoining (some 2) booted) 1).again = some 2 ∧ domState booted 1 ≠ .fencing ∧
    ∀ h ∈ booted.latch.held, h.why ≠ .after :=
  ⟨by decide, by decide, inv_of (by decide), by decide, by decide, by decide, by decide, by decide, by decide, by decide, by decide,
    by decide, by decide, by decide, by decide⟩

theorem wit_WatchdogsComplete :
    Inv (jobIn .running) ∧ (jobIn .running).rst.rootLost = false ∧ jobActive (jobIn .running) = true ∧ unitDom 0x10 = some 1 ∧
    domState (jobIn .running) 1 = .inService ∧ unitDom 0x60 = none ∧ (0x1C ≤ 0x1F ∧ 0x1F ≤ 0x1F) ∧
    ¬ ((0x1C ≤ 0x1B ∧ 0x1B ≤ 0x1F) ∨ 0x1B = 0x30) ∧ domOf 0x20 = some 5 ∧ domState (domIn 5 .fencing none booted) 5 ≠ .inService ∧ domState (jobIn .running) 5 = .inService ∧
    (3 < 4 ∧ 15 < 16 ∧ domState booted 0 = .inService) :=
  ⟨inv_of (by decide), by decide⟩

/-- A faulted job whose fatal event still waits. -/
def faultedNow : State :=
  let e := faultEvent (jobIn .faulted) 1 0x20 0x04060000 Where.none
  { jobIn .faulted with ev := { (jobIn .faulted).ev with fatal := [e] }, dump := { (jobIn .faulted).dump with fault := e } }

theorem wit_JobFaultsOnce :
    renames (faultEvent faultedNow 1 0x10 0x04060000 Where.none) faultedNow = true ∧
    renames (faultEvent faultedNow 1 0x21 0x04060000 Where.none) faultedNow = false ∧
    booted.job.st = .closed ∧ (jobIn .faulted).job.st = .faulted ∧ (jobIn .opened).job.st ≠ .closed ∧
    (jobIn .opened).job.st ≠ .faulted ∧ (jobIn .opened).rst.aoStopped = false := by decide

/-- kw_por_n held, kw_ao_por_n released, with the bundle at the boot address. -/
def porHeld : State := { bundled with rst := { bundled.rst with porHeld := true, ctlReady := false } }

/-- With one good Vault copy. -/
def copied : State :=
  { State.reset with vault := { Vault.reset with copies := [{ seq := 4, period := { VPeriod.zero with num := 9 }, readingSeq := 2, held := VCounts.zero, good := true }] } }

theorem wit_ResetRowsComplete :
    (porHeld.rst.rootLost = false ∧ porHeld.rst.porHeld = true ∧ porHeld.rst.aoHeld = false ∧ booted.rst.porHeld = false ∧
      ∀ e, Io.ok ≠ .bad e) ∧
    ((State.reset).rst.aoHeld = true ∧ State.reset.vault.waiting = [] ∧ (∀ h ∈ State.reset.latch.held, h.why ≠ .brace) ∧
      vaultBest State.reset.vault = [] ∧ vaultBest copied.vault ≠ [] ∧ copied.rst.aoHeld = true) ∧
    ({ booted.rst with bootFail := true }.bootFail = true ∧ booted.rst.bootFail = false) :=
  ⟨⟨by decide +kernel, by decide +kernel, by decide +kernel, by decide +kernel, fun _ h => by cases h⟩, by decide +kernel, by decide⟩

theorem ok_of {α β : Type} {x : Except α β} {l : β} (h : x.toOption = some l) : x = .ok l := by
  cases x with
  | error e => exact absurd h (by simp [Except.toOption])
  | ok b => simp only [Except.toOption, Option.some.injEq] at h; rw [h]

theorem wit_ResetRowsBoot :
    ∃ l a b, verifyBundle porHeld signed (bootBundle porHeld) = .ok l ∧ imgOfKind 0x4601 l = some a ∧ imgOfKind 0x4602 l = some b := by
  exact ⟨[imgOf (image 0x4601), imgOf (image 0x4602)], _, _, ok_of (by decide +kernel), rfl, rfl⟩

/-- Brace in a state. -/
def braced (b : BraceState) (warn holdoff cleared pin : Bool) : State :=
  { booted with pwr := { Power.reset with brace := b, warn := warn, holdoff := holdoff, cleared := cleared, resetPin := pin } }

theorem wit_BraceRowsComplete :
    (powered booted = true ∧ booted.pwr.brace = .normal ∧ powered State.reset = false) ∧
    ((braced .bracing true false false false).pwr.brace = .bracing ∧ getP booted 0x0023 = 0) ∧
    ((braced .sealing true false false false).pwr.brace = .sealing ∧
      ¬ ((braced .sealing true false false false).pwr.cleared = true ∧ (braced .sealing true false false false).pwr.warn = false)) ∧
    ((braced .sealing false false true false).pwr.cleared = true ∧ (braced .sealing false false true false).pwr.warn = false ∧
      ∀ h ∈ booted.latch.held, h.why ≠ .brace) ∧
    ((braced .resetWarned true false false true).pwr.warn = true ∧ getP booted 0x0102 ≠ 0 ∧ booted.pwr.warn = false) ∧
    ((braced .bracing false true false false).pwr.holdoff = true ∧ (braced .braced false true false false).pwr.holdoff = true ∧
      booted.pwr.holdoff = false) ∧
    (booted.pwr.resetPin = false ∧ booted.rst.aoHeld = false ∧ booted.rst.porHeld = false ∧ (jobIn .running).job.st ≠ .closed ∧
      (braced .resetWarned true false false true).pwr.resetPin = true) := by decide

/-- The planner at a code, its predecessor, and whether the regulator has acknowledged. -/
def planned (req prev : Nat) (ack : Bool) (s : Nat) : State :=
  { booted with plan := { Plan.reset with vddReq := req, vddPrev := prev, vddAck := ack, s := s } }

theorem wit_PlannerRowsComplete :
    ((planned 52 50 false 0).plan.vddAck = false ∧ (planned 52 50 false 0).plan.vddPrev ≠ (planned 52 50 false 0).plan.vddReq) ∧
    ((planned 50 50 true 3).rst.ctlReady = true ∧ (planned 50 50 true 3).plan.phase = .none ∧ inBrace (planned 50 50 true 3) = false ∧
      (planned 50 50 true 3).plan.vddAck = true ∧ State.reset.rst.ctlReady = false) ∧
    (0 < getP booted 0x0118 ∧ inBrace (braced .bracing true false false false) = true ∧ (domOf 0x30).isSome = true ∧
      (domOf 0x31).isSome = false) ∧
    (0 < (planned 50 50 true 3).plan.s ∧ (planned 50 50 true 3).plan.exhausted = false ∧ booted.plan.s = 0) ∧
    ({ Plan.reset with exhausted := true }.exhausted = true ∧ (recentSteps booted).length < 3 ∧
      3 ≤ (recentSteps { booted with esc := { resets := [], steps := [0, 0, 0] } }).length) ∧
    (let u := { (planned 50 50 true 3) with rst := { booted.rst with aoStopped := true } }
     0 < u.plan.s ∧ u.plan.exhausted = false ∧ u.rst.aoStopped = true ∧ (planned 50 50 true 3).rst.aoStopped = false) ∧
    (30 ≤ booted.plan.vddReq ∧ booted.plan.vddReq ≤ 70) := by decide

/-! ### Witnesses: Pour -/

/-- Channel 3 in a state, with `b` at VA 0x4000 of the block context. -/
def pouring (st : PourState) (f : PourCh → PourCh) (b : List Byte) : State :=
  { booted with
    hostMem := memWrite [] (2 ^ 32 + 0x4000) b,
    pour := { booted.pour with ch := (List.replicate 32 PourCh.idle).set 3 (f { PourCh.idle with st := st, progVa := 0x4000, descVa := 0x4000 }) } }

theorem wit_PourCommandsComplete :
    let p := pkt 0x38 (p0 := 3 + 1 * 32) (p1 := 0x1000)
    let a := pkt 0x39 (p0 := 3)
    let q := fun (st : PourState) => pouring st id []
    let br := { booted with pwr := { Power.reset with brace := .braced } }
    (Inv booted ∧ Runs 0x38 p booted ∧ p.payloadLen.toNat = 0 ∧ pVa p % 64 = 0 ∧ anyStopped booted = false ∧
      (chAt booted 3).st = .idle ∧ entryFree booted ∧ inBrace booted = false ∧ Runs 0x38 p br ∧ inBrace br = true) ∧
    (Runs 0x39 a booted ∧ Runs 0x39 a (q .stopped) ∧ (chAt (q .stopped) 3).st = .stopped ∧ Runs 0x39 a (q .done) ∧
      (chAt (q .done) 3).st = .done ∧ Runs 0x39 a (q .running) ∧ (chAt (q .running) 3).st ∈ [.armed, .running, .suspended, .parked]) ∧
    (Runs 0x3A (pkt 0x3A) (q .stopped) ∧ (q .stopped).pour.drain = false ∧
      Runs 0x3A (pkt 0x3A) { booted with pour := { booted.pour with drain := true } }) ∧
    (Runs 0x3B (pkt 0x3B (p0 := 3)) (q .parked) ∧ (chAt (q .parked) 3).st = .parked ∧ (chAt booted 3).st ≠ .parked) := by
  refine ⟨⟨inv_of (by decide), runs_of (by decide), by decide, by decide, by decide, by decide, entry_of (by decide), by decide,
    runs_of (by decide), by decide⟩, ⟨runs_of (by decide), runs_of (by decide), by decide, runs_of (by decide), by decide,
    runs_of (by decide), by decide⟩, ⟨runs_of (by decide), by decide, runs_of (by decide)⟩,
    ⟨runs_of (by decide), by decide, by decide⟩⟩

theorem wit_PourStartNeedsAnIdleChannel :
    let p := pkt 0x38 (p0 := 3) (p1 := 0x1000)
    Runs 0x38 p (pouring .done id []) ∧ p.payloadLen.toNat = 0 ∧ pVa p % 64 = 0 ∧ anyStopped (pouring .done id []) = false ∧
    (chAt (pouring .done id []) (p.p0.toNat % 32)).st ≠ .idle ∧ Runs 0x38 p (pouring .stopped id []) ∧
    anyStopped (pouring .stopped id []) = true :=
  ⟨runs_of (by decide), by decide, by decide, by decide, by decide, runs_of (by decide), by decide⟩

/-- A descriptor with own set: program at 0x8000. -/
def descriptor (own : Nat) : List Byte := leBytes 64 (own + 0x8000 * 2 ^ 64)

theorem wit_PourChannelMachineCompletes :
    let q := fun (own : Nat) => pouring .armed id (descriptor own)
    let r := pouring .armed (fun x => { x with read := true, prio := 2 }) []
    let h := pouring .running (fun x => { x with hold := true, busy := true }) []
    let y := { h with pour := { h.pour with ch := h.pour.ch.set 11 { PourCh.idle with st := .armed, read := true, prio := 1 } } }
    let w := pouring .done (fun x => { x with wb := true }) []
    (Inv (q 1) ∧ (chAt (q 1) 3).st = .armed ∧ (chAt (q 1) 3).read = false ∧ pourRuns (q 1) = true ∧
      (match hostRead (q 1) 0 (chAt (q 1) 3).descVa 64 with | (_, .ok b) => bit (leAt b 0 1) 0 | _ => false) = true ∧
      (match hostRead (q 0) 0 (chAt (q 0) 3).descVa 64 with | (_, .ok b) => !bit (leAt b 0 1) 0 | _ => false) = true) ∧
    (pipeHolder r 3 = none ∧ pourRuns r = true ∧ pipeNext r 3 = some 3 ∧ pipeNext booted 3 = none ∧ pipeHolder h 3 ≠ none) ∧
    (pipeNext y (3 % 8) = some 11 ∧ (chAt y 3).st = .running ∧ (chAt y 3).hold = true ∧ (chAt y 3).prio < (chAt y 11).prio ∧
      (chAt y 3).busy = true ∧ pourRuns y = true) ∧
    ((chAt (pouring .running (fun x => { x with pending := some 7 }) []) 3).pending = some 7 ∧ (chAt booted 3).pending = none) ∧
    ((chAt (pouring .cancelling id []) 3).st = .cancelling ∧ (chAt w 3).st = .done ∧ (chAt w 3).wb = true ∧ pourRuns w = true) ∧
    ((∃ d < 32, (chAt h d).st ≠ .idle ∧ (chAt h d).st ≠ .stopped) ∧ (∀ d < 32, (chAt booted d).st = .idle ∨ (chAt booted d).st = .stopped) ∧
      booted.pour.drain = false ∧ ({ booted.pour with drain := true } : Pour).drain = true) := by
  refine ⟨⟨inv_of (by decide +kernel), by decide, by decide, by decide, by decide +kernel, by decide +kernel⟩, by decide, by decide,
    by decide, by decide, by decide⟩

/-- Channel 3 runs, holding its pipe, the instruction `b` of opcode `op`. -/
def running (b : List Byte) : State := pouring .running (fun x => { x with hold := true }) b

theorem pourAt_of {op : Nat} {b : List Byte} {s : State}
    (h : (!s.rst.rootLost && decide (s.pour.ch.length = 32) && decide ((chAt s 3).st = .running) && (chAt s 3).hold &&
      !(chAt s 3).busy && !(chAt s 3).waiting && (chAt s 3).pending.isNone && pourRuns s) = true)
    (g : (hostRead s (chAt s 3).ctx ((chAt s 3).progVa + 32 * (chAt s 3).pc) 32).2.toOption = some b)
    (k : leAt b 0 1 % 16 = op) :
    PourAt 3 op b (hostRead s (chAt s 3).ctx ((chAt s 3).progVa + 32 * (chAt s 3).pc) 32).1 s := by
  simp only [Bool.and_eq_true, Bool.not_eq_true', decide_eq_true_eq, Option.isNone_iff_eq_none] at h
  obtain ⟨⟨⟨⟨⟨⟨⟨a, b'⟩, c⟩, d⟩, e⟩, w⟩, f⟩, i⟩ := h
  exact ⟨a, by decide, b', c, d, e, w, f, i, Prod.ext rfl (ok_of g), k⟩

/-- The state after the fetch. -/
def fetched (s : State) : State := (hostRead s (chAt s 3).ctx ((chAt s 3).progVa + 32 * (chAt s 3).pc) 32).1

/-- An instruction: opcode and flags in byte 0, byte 1, and the fields at 4, 8, 16 and 24. -/
def insn (b0 b1 f4 f8 f16 f24 : Nat) : List Byte :=
  leBytes 32 (b0 + b1 * 2 ^ 8 + f4 * 2 ^ 32 + f8 * 2 ^ 64 + f16 * 2 ^ 128 + f24 * 2 ^ 192)

/-- FILL of 5 bytes at scratchpad 0x103, and of host memory; MOVE of 7 bytes within the scratchpad, and out of it; CMP of 4
bytes; SIGNAL of either memory (R351 to R353, R359). -/
def iFill : List Byte := insn 0x22 0 5 0 0x103 0x0807060504030201
def iFillHost : List Byte := insn 0x02 0 5 0 0x6000 0x0807060504030201
def iMove : List Byte := insn 0x31 0 7 0x100 0x200 0
def iMoveOut : List Byte := insn 0x11 0 7 0x100 0x6000 0
def iMoveIn : List Byte := insn 0x21 0 7 0x6000 0x200 0
def iMoveHost : List Byte := insn 0x01 0 7 0x6000 0x7000 0
def iCmp : List Byte := insn 0x73 0 4 0x100 0x200 0
def iSignal : List Byte := insn 0x16 0 0 0x100 0x1122334455667788 0
def iSignalHost : List Byte := insn 0x06 0 0 0x6000 0x1122334455667788 0

/-- With two staging cells for channel 3, and a byte set at 0x101. -/
def withCells (s : State) : State :=
  { s with
    sp := [(0x101, 9)],
    carafe := { s.carafe with cells := [{ pool := 1, addr := 0x10000, owner := 11, ref := 1, use := .pour 3 },
                                        { pool := 1, addr := 0x11000, owner := 11, ref := 1, use := .pour 3 }] } }

theorem wit_PourDataInstructionsInScratchpad :
    let f := running iFill
    let m := running iMove
    let c := running iCmp
    let g := running iSignal
    (PourAt 3 2 iFill (fetched f) f ∧ (chAt f 3).pos = 0 ∧ (mvOf .move 3 iFill (fetched f)).dstSp = true ∧
      (mvOf .move 3 iFill (fetched f)).dst + (mvOf .move 3 iFill (fetched f)).len ≤ spReserve) ∧
    (PourAt 3 1 iMove (fetched m) m ∧ (mvOf .move 3 iMove (fetched m)).srcSp = true ∧ (mvOf .move 3 iMove (fetched m)).dstSp = true ∧
      0x107 ≤ (mvOf .move 3 iMove (fetched m)).dst ∧ spPoisoned m 0x100 7 = false ∧ staged (stageAsk 3 (fetched m)) 3 < 2 ∧
      2 ≤ staged (withCells m) 3) ∧
    (PourAt 3 3 iCmp (fetched c) c ∧ (mvOf .move 3 iCmp (fetched c)).srcSp = true ∧ (mvOf .move 3 iCmp (fetched c)).dstSp = true ∧
      (∀ i < 4, memGet c.sp (0x100 + i) = memGet c.sp (0x200 + i)) ∧ (chAt c 3).hit = false ∧
      memGet (withCells c).sp (0x100 + 1) ≠ memGet (withCells c).sp (0x200 + 1) ∧
      (∀ i < 1, memGet (withCells c).sp (0x100 + i) = memGet (withCells c).sp (0x200 + i)) ∧ bit (leAt iCmp 0 1) 6 = true) ∧
    (PourAt 3 6 iSignal (fetched g) g ∧ bit (leAt iSignal 0 1) 4 = true ∧ leAt iSignal 8 6 / 8 * 8 + 8 ≤ spReserve) := by
  refine ⟨⟨pourAt_of (by decide) (by decide +kernel) (by decide), by decide, by decide +kernel, by decide +kernel⟩,
    ⟨pourAt_of (by decide) (by decide +kernel) (by decide), by decide +kernel, by decide +kernel, by decide +kernel, by decide,
      by decide +kernel, by decide⟩,
    ⟨pourAt_of (by decide) (by decide +kernel) (by decide), by decide +kernel, by decide +kernel, by decide, by decide, by decide,
      by decide, by decide⟩,
    ⟨pourAt_of (by decide) (by decide +kernel) (by decide), by decide, by decide⟩⟩

theorem wit_PourDataInstructionsInHostMemory :
    let m := running iMoveOut
    let f := running iFillHost
    let g := running iSignalHost
    let v := mvOf .move 3 iMoveOut (fetched m)
    let i := running iMoveIn
    let h := withCells (running iMoveHost)
    (PourAt 3 1 iMoveOut (fetched m) m ∧ (chAt m 3).pos = 0 ∧ 0 < v.len ∧ v.srcSp ≠ v.dstSp ∧ v.len ≤ 4096 - v.dst % 4096 ∧
      v.srcSp = true ∧ spPoisoned m v.src v.len = false ∧ v.src + v.len ≤ spReserve ∧
      ((xlateRange (fetched m) 0 0x6000 7 true).2 matches .ok _) ∧ ((xlateRange (fetched m) 0 (2 ^ 40) 7 true).2 matches .error _) ∧
      spBad { fetched m with spPoison := [0x20] } v.src v.len = true) ∧
    (PourAt 3 1 iMoveIn (fetched i) i ∧ (mvOf .move 3 iMoveIn (fetched i)).srcSp = false ∧
      (mvOf .move 3 iMoveIn (fetched i)).dstSp = true ∧ ((xlateRange (fetched i) 0 0x6000 7 false).2 matches .ok _)) ∧
    (PourAt 3 1 iMoveHost (fetched h) h ∧ (mvOf .move 3 iMoveHost (fetched h)).srcSp = false ∧
      (mvOf .move 3 iMoveHost (fetched h)).dstSp = false ∧ 2 ≤ staged h 3) ∧
    (PourAt 3 2 iFillHost (fetched f) f ∧ (mvOf .move 3 iFillHost (fetched f)).dstSp = false ∧
      ((xlateRange (fetched f) 0 0x6000 5 true).2 matches .ok _) ∧ ((xlateRange (fetched f) 0 (2 ^ 40) 5 true).2 matches .error _)) ∧
    (PourAt 3 6 iSignalHost (fetched g) g ∧ bit (leAt iSignalHost 0 1) 4 = false) := by
  refine ⟨⟨pourAt_of (by decide) (by decide +kernel) (by decide), by decide, by decide +kernel, by decide +kernel, by decide +kernel,
      by decide +kernel, by decide +kernel, by decide +kernel, by decide +kernel, by decide +kernel, by decide +kernel⟩,
    ⟨pourAt_of (by decide) (by decide +kernel) (by decide), by decide +kernel, by decide +kernel, by decide +kernel⟩,
    ⟨pourAt_of (by decide) (by decide +kernel) (by decide), by decide +kernel, by decide +kernel, by decide +kernel⟩,
    ⟨pourAt_of (by decide) (by decide +kernel) (by decide), by decide +kernel, by decide +kernel, by decide +kernel⟩,
    ⟨pourAt_of (by decide) (by decide +kernel) (by decide), by decide⟩⟩

/-- LOOP of a body of `n` instructions and a count; WAIT until the word at scratchpad 0x100 is `k` (R354, R358). -/
def iLoop (n count : Nat) : List Byte := insn 0x04 n count 0 0 0
def iWait (k timeout : Nat) : List Byte := insn 0x15 0 timeout 0x100 k (2 ^ 64 - 1)

theorem wit_PourControlInstructionsComplete :
    let l := running (iLoop 2 3)
    let w := running (iWait 0 1)
    let v := pouring .running (fun x => { x with waiting := true, insn := iWait 0 1 }) []
    let e := running (insn 0x07 0 0 0 0 0)
    (PourAt 3 4 (iLoop 2 3) (fetched l) l ∧ bodyFits (chAt l 3) 2 = true ∧ (chAt l 3).loops.length < 4 ∧
      leAt (iLoop 0 3) 1 1 = 0 ∧ leAt (iLoop 2 0) 4 4 = 0 ∧
      bodyFits { chAt l 3 with pc := 1, loops := [⟨0, 2, 1, 0, 0, 0⟩] } 2 = false) ∧
    (PourAt 3 5 (iWait 0 1) (fetched w) w ∧ bit (leAt (iWait 0 1) 0 1) 4 = true ∧ 0x108 ≤ spReserve ∧ spPoisoned w 0x100 8 = false ∧
      (chAt w 3).waiting = false ∧ waitHolds (iWait 0 1) (leNat (memRead w.sp 0x100 8)) = true ∧
      waitHolds (iWait 1 1) (leNat (memRead w.sp 0x100 8)) = false) ∧
    ((chAt v 3).st = .running ∧ (chAt v 3).waiting = true ∧ pourRuns v = true ∧ (chAt v 3).insn = iWait 0 1 ∧
      (chAt v 3).pending = none ∧ leAt (iWait 0 1) 4 4 ≠ 0 ∧ leAt (iWait 0 0) 4 4 = 0) ∧
    PourAt 3 7 (insn 0x07 0 0 0 0 0) (fetched e) e ∧ leAt (iLoop 2 3) 0 1 % 16 = 4 ∧ leAt (insn 0x07 0 0 0 0 0) 0 1 % 16 ≠ 4 ∧
    (({ at_ := 0, write := false, timeout := false, err := 3 } : IoErr).err = 3) := by
  refine ⟨⟨pourAt_of (by decide) (by decide +kernel) (by decide), by decide, by decide, by decide, by decide, by decide⟩,
    ⟨pourAt_of (by decide) (by decide +kernel) (by decide), by decide, by decide, by decide, by decide, by decide, by decide⟩,
    ⟨by decide, by decide, by decide, by decide +kernel, by decide, by decide, by decide⟩,
    pourAt_of (by decide) (by decide +kernel) (by decide), by decide, by decide, by decide⟩

theorem wit_IllegalPourOpcodeEndsTheChannel :
    PourAt 3 0 (insn 0x00 0 0 0 0 0) (fetched (running [])) (running []) ∧
    PourAt 3 8 (insn 0x08 0 0 0 0 0) (fetched (running (insn 0x08 0 0 0 0 0))) (running (insn 0x08 0 0 0 0 0)) ∧
    PourAt 3 15 (insn 0x0F 0 0 0 0 0) (fetched (running (insn 0x0F 0 0 0 0 0))) (running (insn 0x0F 0 0 0 0 0)) :=
  ⟨pourAt_of (by decide) (by decide +kernel) (by decide), pourAt_of (by decide) (by decide +kernel) (by decide),
    pourAt_of (by decide) (by decide +kernel) (by decide)⟩

/-! ### Witnesses: the job, its loads and steps -/

/-- A job descriptor payload: two members, k_max 1, b_max 4, h_max 4, one layer, four windows, pool 4, d 128, the member
list at VA 0x20000 of the job context (R98). -/
def jobBody : List Byte :=
  leBytes 128 (2 + 2 ^ 16 + 4 * 2 ^ 32 + 4 * 2 ^ 48 + 2 ^ 64 + 4 * 2 ^ 76 + 4 * 2 ^ 84 + 128 * 2 ^ 96 + 0x20000 * 2 ^ 128 + 2 ^ 176)

/-- Pools 3 and 4 laid out, every reserve one cell of pool 3, and the members 320 and 321 listed. -/
def pooled : State :=
  { booted with
    keyway := { booted.keyway with root1 := some 0x2000 },
    params := (0x0001, 320) :: (List.range 12).map fun o => (0x0408 + o, 2 ^ 48),
    hostMem := memWrite [] (2 ^ 33 + 0x20000) (leBytes 2 320 ++ leBytes 2 321),
    carafe := { booted.carafe with
      pools := [Pool.none, Pool.none, { base := 0x80000, cells := 8, free := [] }, { base := 0x100000, cells := 40, free := [] },
                { base := 0x1000000, cells := 64, free := [] }, Pool.none, Pool.none, Pool.none],
      runs := [(4, 0x1000000, 64)] } }

theorem wit_JobOpenRefusedWhileAJobExists :
    let p := pkt 0x10 jobBody (job := 6)
    Runs 0x10 p (jobIn .running) ∧ jobExists (jobIn .running) = true ∧ p.payloadLen.toNat = 128 ∧
    jobRange (jobDescOf (pBody p)) p.jobTag.toNat = true :=
  ⟨runs_of (by decide), by decide, by decide +kernel, by decide +kernel⟩

/-- The ranges JOB_OPEN names. -/
def jobRanges : List (Nat × Nat × Nat × Bool) := [(1, 0x20000, 4, false)]

theorem wit_JobOpenCompletes :
    let p := pkt 0x10 jobBody (job := 6)
    let u := ranged jobRanges (takePacket p pooled)
    Runs 0x10 p pooled ∧ p.payloadLen.toNat = 128 ∧ jobRange (jobDescOf (pBody p)) 6 = true ∧ jobExists pooled = false ∧
    entryFree pooled ∧ checkRanges jobRanges .ok (takePacket p pooled) = (u, none) ∧
    (match ownRead 1 0x20000 4 .ok (accept p 0 0 u) with
     | (w, .ok l) => (openTry 6 (jobDescOf (pBody p)) l w matches .ok _) && (openTry 6 (jobDescOf (pBody p)) [0, 0, 0, 0] w matches .error 0x0108)
     | _ => false) = true := by
  refine ⟨runs_of (by decide +kernel), by decide +kernel, by decide +kernel, by decide, entry_of (by decide), pairN (by decide +kernel),
    by decide +kernel⟩

/-- With JOB_START or JOB_CLOSE outstanding. -/
def jobCmd (op : Nat) : OpenCmd := { tag := 3, opcode := op, order := 0, jobScope := true }

/-- The draining job, its fence done. -/
def drained : State :=
  { jobIn .draining with job := { (jobIn .draining).job with closeFence := true, closeCmd := some (jobCmd 0x11) } }

/-- The block is the whole member tree. -/
def alone : State := { jobIn .opened with job := { (jobIn .opened).job with members := [320] } }

theorem wit_JobStartCloseAndDrainComplete :
    let p := pkt 0x12 (p1 := 1000) (job := 5)
    let c := pkt 0x11 (job := 5)
    (Inv (jobIn .opened) ∧ RunsJob 0x12 p (jobIn .opened) ∧ p.payloadLen.toNat = 0 ∧ (jobIn .opened).kt < pVal64 p ∧
      entryFree (jobIn .opened) ∧ getP (jobIn .opened) 0x0520 ≠ 1 ∧ getP { jobIn .opened with params := [(0x0001, 320), (0x0520, 1)] } 0x0520 = 1 ∧
      RunsJob 0x12 p alone ∧ alone.barrier.early = [] ∧ ownIndex alone = 0 ∧ childSeats alone 0 = []) ∧
    (RunsJob 0x11 c (jobIn .running) ∧ c.payloadLen.toNat = 0 ∧ (jobIn .running).job.st ≠ .faulted ∧ bit c.p0.toNat 0 = false ∧
      (jobIn .running).coll.ops = [] ∧ (∀ x ∈ (jobIn .running).slots, x.st = .idle ∨ x.st = .done) ∧ RunsJob 0x11 c (jobIn .faulted) ∧
      RunsJob 0x11 c (jobIn .starting)) ∧
    (drainDone drained = true ∧ drainDone booted = false) := by
  refine ⟨⟨inv_of (by decide), runsJob_of (by decide), by decide, by decide, entry_of (by decide), by decide, by decide,
    runsJob_of (by decide), by decide, by decide, by decide⟩, ⟨runsJob_of (by decide), by decide, by decide, by decide, by decide,
    by decide, runsJob_of (by decide), runsJob_of (by decide)⟩, by decide, by decide⟩

/-- A layer of two experts, k 1, no normalisation, and its Keyring entries: expert 0 lives on seat 321, expert 1 here
(R102, R103). -/
def layerImage (layer : Nat) : List Byte :=
  leBytes 128 (0x4C01 + layer * 2 ^ 32 + 2 * 2 ^ 48 + (1 + 2 ^ 8) * 2 ^ 64 + 0x3F800000 * 2 ^ 128 + 0x3F800000 * 2 ^ 192) ++
  leBytes 8 (3 + 321 * 2 ^ 16) ++ leBytes 8 (3 + 320 * 2 ^ 16)

/-- A function table of one linear segment over 0 to 1 (R176). -/
def tableBytes (index : Nat) : List Byte :=
  let seg := leBytes 16 0
  leBytes 16 (0x5401 + index * 2 ^ 16 + 2 ^ 32 + 0x3F800000 * 2 ^ 96) ++ leBytes 48 (crc32c seg) ++ seg

/-- A running job with the layer loaded in epoch 1 and group 0 defined. -/
def runJob : State :=
  { jobIn .running with
    job := { (jobIn .running).job with desc := { (jobIn .running).job.desc with krKib := 1 } },
    ep := { num := 1, epochs := [{ num := 1, first := 0, layers := [layerOf (layerImage 0)], tables := [] }], staged := [],
            stagedTables := [], commit := none },
    keyring := List.replicate 4 [{ epoch := 1, layer := 0, entries := entriesOf (layerImage 0) 2, digest := krDigest (entriesOf (layerImage 0) 2) }],
    coll := { Coll.reset with groups := [groupZero [320, 321]] } }

/-- The job Open, with `b` at VA 0x30000 of the job context. -/
def loading (b : List Byte) : State :=
  { runJob with job := { runJob.job with st := .opened }, hostMem := memWrite [] (2 ^ 33 + 0x30000) b }

/-- What the load of `b` reads. -/
def loads (p : Packet) (n : Nat) (s : State) (f : State → List Byte → Bool) : Bool :=
  match ownRead 1 0x30000 n .ok (accept p 0 0 (ranged [(1, 0x30000, n, false)] (takePacket p s))) with
  | (w, .ok b) => f w b
  | _ => false

/-- With a commit pending. -/
def committing (ready : Bool) (top : Option Nat) : State :=
  { runJob with job := { runJob.job with topStep := top }, ep := { runJob.ep with commit := some { step := 7, cmd := jobCmd 0x15, loads := [], bad := false, ready := ready } } }

theorem wit_LoadsAndCommitComplete :
    let l := pkt 0x14 (p0 := 0) (p1 := 0x30000) (p3 := 144) (job := 5)
    let t := pkt 0x16 (p1 := 0x30000) (p3 := 80) (job := 5)
    let k := pkt 0x15 (p1 := 7) (job := 5)
    (Inv (loading (layerImage 0)) ∧ RunsJob 0x14 l (loading (layerImage 0)) ∧ l.payloadLen.toNat = 0 ∧
      l.p0.toNat % 512 < (loading (layerImage 0)).job.desc.nLayers ∧ l.p0.toNat % 512 < (committing false none).job.desc.nLayers ∧ entryFree (loading (layerImage 0)) ∧
      (loading (layerImage 0)).ep.commit = none ∧
      checkRanges [(1, pVa l, 144, false)] .ok (takePacket l (loading (layerImage 0))) =
        (ranged [(1, pVa l, 144, false)] (takePacket l (loading (layerImage 0))), none) ∧
      loads l 144 (loading (layerImage 0)) (fun w b => decide (layerBad w b 0 = none ∧ layerBad w b 1 = some 0x0108)) = true ∧
      RunsJob 0x14 l (committing false none) ∧ (committing false none).ep.commit.isSome = true) ∧
    (RunsJob 0x16 t (loading (tableBytes 0)) ∧ t.p0.toNat % 4 = 0 ∧ t.payloadLen.toNat = 0 ∧
      loads t 80 (loading (tableBytes 0)) (fun _ b => decide (tableBad b 0 = none ∧ tableBad b 1 = some (0x0108, 0))) = true ∧
      RunsJob 0x16 t (committing false none)) ∧
    (RunsJob 0x15 k runJob ∧ stepTaken runJob (pVa k) = false ∧ runJob.ep.commit = none ∧ RunsJob 0x15 k (committing false none) ∧
      stepTaken (committing false none) (pVa k) = false ∧ stepTaken (committing false (some 7)) 7 = true ∧
      RunsJob 0x15 k (committing false (some 7))) ∧
    ((∀ l ∈ layersNext (committing false none), ownGroup (committing false none) l.biasGroup = true) ∧
      (∃ l ∈ layersNext { committing false none with coll := Coll.reset },
        ownGroup { committing false none with coll := Coll.reset } l.biasGroup = false) ∧
      (committing false none).ep.commit.isSome = true ∧ jobGoes (committing false none) = true ∧ loadsOut (committing false none) = [] ∧
      krReadBad 1 [] (committing true (some 7)) = none ∧
      (let z := { committing true (some 7) with
                    keyringBad := [(2, 0, 1)],
                    ep := { (committing true (some 7)).ep with staged := [{ img := { layerOf (layerImage 0) with keepBias := true }, entries := [] }] } }
       krReadBad z.ep.num ((z.ep.staged.filter (·.img.keepBias)).map (·.img.layer)) z = some 2) ∧
      stepTaken (committing true (some 7)) 7 = true ∧ biasDone (committing true (some 7)) 7 = true ∧
      ∀ x ∈ (committing true (some 7)).slots, ∀ k, x.ctx = some k → k.awaitCommit = false) := by
  refine ⟨⟨inv_of (by decide +kernel), runsJob_of (by decide +kernel), by decide, by decide, by decide, entry_of (by decide), by decide,
    pairN (by decide +kernel),
    by decide +kernel, runsJob_of (by decide +kernel), by decide⟩,
    ⟨runsJob_of (by decide +kernel), by decide, by decide, by decide +kernel, runsJob_of (by decide +kernel)⟩,
    ⟨runsJob_of (by decide +kernel), by decide, by decide, runsJob_of (by decide +kernel), by decide, by decide, runsJob_of (by decide +kernel)⟩,
    by decide +kernel, by decide +kernel, by decide, by decide, by decide, by decide +kernel, by decide +kernel, by decide, by decide, ?_⟩
  have h : ∀ x ∈ (committing true (some 7)).slots, x.ctx.all (fun k => k.awaitCommit == false) = true := by decide +kernel
  intro x hx k hk
  simpa [hk] using h x hx

/-- STEP_RUN of step 1 in slot 2: four tokens, rows from the Funnels. -/
def stepPkt (gen : Nat) : Packet := pkt 0x20 (List.replicate 64 0) (p0 := 2 + gen * 2 ^ 8) (p1 := 1) (p2 := 4 * 2 ^ 16) (job := 5)

theorem wit_StepRunCompletes :
    let s := { runJob with job := { runJob.job with st := .starting } }
    let b := { runJob with pwr := { Power.reset with brace := .braced } }
    Inv runJob ∧ RunsJob 0x20 (stepPkt 0) runJob ∧ (stepPkt 0).payloadLen.toNat = 64 ∧ (runArgs (stepPkt 0)).inSrc = false ∧
    (runArgs (stepPkt 0)).nTok ≤ runJob.job.desc.bMax ∧ (runArgs (stepPkt 0)).layer < runJob.job.desc.nLayers ∧
    layerLoaded runJob 1 0 = true ∧ runState runJob (runArgs (stepPkt 0)) = none ∧ entryFree runJob ∧ inBrace runJob = false ∧
    dutyAt runJob 1 = none ∧ (∀ f ∈ runJob.funnelHeld, f.2.slot ≠ 2 ∨ 1 < f.2.step) ∧ RunsJob 0x20 (stepPkt 0) s ∧
    layerLoaded s 1 0 = true ∧ RunsJob 0x20 (stepPkt 0) b ∧ inBrace b = true ∧ underCommit runJob 1 = false ∧
    krPoisoned runJob 1 0 = none ∧ digestMismatch (krDigests runJob 1 0) = none ∧
    krPoisoned { runJob with keyringBad := [(2, 0, 1)] } 1 0 = some 2 ∧
    (digestMismatch (krDigests { runJob with keyring := runJob.keyring.set 3 [{ epoch := 1, layer := 0, entries := [], digest := 0 }] } 1 0)).isSome
      = true := by
  refine ⟨inv_of (by decide +kernel), runsJob_of (by decide +kernel), by decide, by decide, by decide, by decide, by decide +kernel,
    by decide, entry_of (by decide), by decide, by decide, by decide, runsJob_of (by decide +kernel), by decide +kernel,
    runsJob_of (by decide +kernel), by decide, by decide, by decide +kernel, by decide +kernel, by decide +kernel, by decide +kernel⟩

theorem wit_StaleGenerationRefused :
    RunsJob 0x20 (stepPkt 9) runJob ∧ (stepPkt 9).payloadLen.toNat = 64 ∧ (runArgs (stepPkt 9)).nTok ≤ 4096 ∧
    layerLoaded runJob 1 0 = true ∧ stepTaken runJob 1 = false ∧ (slotAt runJob 2).gen ≠ (runArgs (stepPkt 9)).gen :=
  ⟨runsJob_of (by decide +kernel), by decide, by decide, by decide +kernel, by decide, by decide⟩

/-- A step of one token in slot 2. -/
def ctx : StepCtx :=
  { step := 1, layer := 0, nTok := 1, cls := 0, inSrc := false, outDesc := 0, inDesc := 0, exitVa := 0, exitEn := false, gen := 0,
    cmd := jobCmd 0x20, startKt := 0, epoch := 1, awaitCommit := false, rows := [(0, List.replicate 128 Num.one)], shared := [], sels := [],
    copies := [], outs := [], outPos := 0, aside := [], countsSent := false, cancelled := false, dests := [], cancelCmd := none, preemptCmds := [], resume := .scored,
    digests := [], held := VCounts.zero }

/-- The running job with that step at a state and stage. -/
def stepIn (st : SlotState) (stage : Nat) (c : StepCtx) : State :=
  { runJob with
    job := { runJob.job with topStep := some 1 },
    slots := runJob.slots.set 2 { Slot.idle with st := st, stage := stage, lastStep := 1, ctx := some c },
    duties := [{ step := 1, layer := 0, epoch := 1, reached := true, counts := [], landed := [], closed := [], cancels := [], srcs := [], ended := false }] }

theorem wit_BatchCommandsComplete :
    let c := pkt 0x21 (p0 := 2) (job := 5)
    let q := pkt 0x22 (p0 := 2) (job := 5)
    let r := pkt 0x23 (p0 := 2) (job := 5)
    let s := stepIn .scored 12 ctx
    let w := stepIn .scored 12 { ctx with preemptCmds := [jobCmd 0x22] }
    let z := stepIn .preempted 12 ctx
    let b := { z with pwr := { Power.reset with brace := .braced } }
    (Inv runJob ∧ RunsJob 0x21 c runJob ∧ c.payloadLen.toNat = 0 ∧ entryFree runJob ∧ (slotAt runJob 2).gen = batchGen c ∧
      (slotAt runJob 2).st = .idle ∧ RunsJob 0x21 c s ∧ (slotAt s 2).st = .scored ∧ (slotAt s 2).stage < 13 ∧ (slotAt s 2).ctx = some ctx ∧
      RunsJob 0x21 c z ∧ (slotAt z 2).st = .preempted) ∧
    (RunsJob 0x22 q s ∧ (slotAt s 2).st ∈ flightStates ∧ (slotAt s 2).gen = batchGen q) ∧
    ((slotAt w 2).st ∈ flightStates ∧ (slotAt w 2).ctx.isSome = true ∧ (slotAt runJob 2).st ∉ flightStates) ∧
    (RunsJob 0x23 r z ∧ inBrace z = false ∧ (slotAt z 2).gen = batchGen r ∧ ctx.resume = .scored ∧ RunsJob 0x23 r b ∧ inBrace b = true) ∧
    (let g := stepIn .scored 2 { ctx with cls := 2 }
     applied g = true ∧ (layerIn g 1 0).isSome = true ∧ classGroup 2 = classGroup 2 ∧ classGroup 0 < classGroup 2 ∧ classGroup 2 < classGroup 3 ∧
     ((layerIn g 1 0).elim false fun l => unitWorks g 2 0 { ctx with cls := 2 } l (.tumbler 0)) = true ∧
     ((layerIn g 1 0).elim false fun l => unitWorks g 2 1 { ctx with cls := 2 } l (.engine 0 0 0 0 1)) = true ∧ ctx.aside = []) := by
  refine ⟨⟨inv_of (by decide +kernel), runsJob_of (by decide +kernel), by decide, entry_of (by decide), by decide, by decide,
    runsJob_of (by decide +kernel), by decide, by decide, rfl, runsJob_of (by decide +kernel), by decide⟩,
    ⟨runsJob_of (by decide +kernel), by decide, by decide⟩, by decide, ⟨runsJob_of (by decide +kernel), by decide, by decide, by decide,
    runsJob_of (by decide +kernel), by decide⟩, by decide +kernel⟩

/-! ### Witnesses: the stages of a step, the bias loop -/

/-- The count message of seat 321 for step 1: no copy for the block. -/
def countOf (step : Nat) : CountMsg := { cancelled := false, step := step, layer := 0, epoch := 1, srcSeat := 321, counts := [0] }

/-- With the counts of seat 321 in. -/
def counted (st : SlotState) (stage : Nat) (c : StepCtx) : State :=
  let s := stepIn st stage { c with countsSent := true }
  { s with duties := s.duties.map fun d => { d with counts := [countOf 1] } }

/-- The step combines: one row of 128 BF16 values to write at VA 0x50000, of which `n` are done. -/
def combining (n : Nat) : StepCtx :=
  let c := { ctx with outDesc := 1 + 2 * 2 ^ 8 + 0x50000 * 2 ^ 16 + 128 * 2 ^ 64 + 2 ^ 96 + 512 * 2 ^ 224, outPos := n }
  { c with outs := [outRow (outDescOf c) (List.replicate 128 Num.one)] }

theorem wit_StepStagesComplete :
    let s := stepIn .scored 1 ctx
    let b := stepIn .scored 2 ctx
    let d := counted .scored 12 ctx
    let w := counted .awaiting 15 ctx
    (Inv s ∧ s.rst.rootLost = false ∧ (slotAt s 2).ctx = some ctx ∧ (slotAt s 2).st = .scored ∧ (slotAt s 2).stage = 1 ∧
      ctx.awaitCommit = false ∧ applied s = true ∧ rowsIn ctx = true ∧ krPoisoned s 1 0 = none ∧
      krPoisoned { s with keyringBad := [(2, 0, 1)] } 1 0 = some 2 ∧ (layerIn s 1 0).isSome = true ∧ (slotAt b 2).stage ≠ 1) ∧
    ((layerIn b 1 0).isSome = true ∧ (slotAt b 2).st = .scored ∧ (slotAt b 2).stage = 2 ∧ biasWaits b 1 = false ∧
      tileWaits b 2 1 = false ∧ setAside b 2 isScoring = false ∧ ctx.nTok ≠ 0 ∧
      ((layerIn b 1 0).elim false fun l => !l.routerSrc && decide (routerPoison b l b.job.desc.d = none) &&
        decide (routerPoison { b with spPoison := [l.wAddr / 8] } l b.job.desc.d ≠ none) &&
        (xlateRange b 1 l.wAddr (routerBytes (routerDesc l b.job.desc.d) b.job.desc.d) false).2.toOption.isSome) = true) ∧
    ((slotAt d 2).st = .scored ∧ (slotAt d 2).stage = 12 ∧ ((dutyAt d 1).elim false (exchangeDone d)) = true ∧ ctx.copies = []) ∧
    ((slotAt (counted .dispatched 13 ctx) 2).st = .dispatched ∧ copiesOut (counted .dispatched 13 ctx) ctx = true) ∧
    (combineReady w 2 = true ∧ (slotAt w 2).stage = 15 ∧
      (xlateAnswers { ctx with countsSent := true } (answersOf { ctx with countsSent := true }) (combineEnter 2 w)).2.toOption.isSome = true ∧
      combineReady s 2 = false) ∧
    (let z := stepIn .combining 16 (combining 0)
     (slotAt z 2).st = .combining ∧ (slotAt z 2).stage = 16 ∧ applied z = true ∧ (combining 0).outPos ≠ (combining 0).outs.length ∧
     (outWrite (outDescOf (combining 0)) z.job.desc.d (combining 0).outs 0 1 (TRun.start z)).bad.isNone = true ∧
     (combining 1).exitEn = false ∧ (combining 1).outPos = (combining 1).outs.length ∧
     reqOpen (stepIn .combining 16 (combining 1)) (.outRow 2 1) = false) := by
  refine ⟨⟨inv_of (by decide +kernel), by decide, rfl, rfl, rfl, rfl, by decide, by decide,
    by decide +kernel, by decide +kernel, by decide +kernel, by decide⟩, by decide +kernel, by decide +kernel, by decide +kernel,
    by decide +kernel, by decide +kernel⟩

/-- Window 0 of the running job, closed, with its sums posted and in, and the window length 2. -/
def windowed (posted : List Nat) (sums : List (Nat × List Nat)) (top : Option Nat) : State :=
  { runJob with
    params := (0x0500, 2) :: (0x0501, 0x3F800000) :: runJob.params,
    job := { runJob.job with topStep := top },
    bias := { wins := [{ w := 0, epoch := 1, cls := 0, closed := true, frozen := false, counts := [(0, [3, 1])], posted := posted,
                         sums := sums, applied := false, dropped := false }] } }

theorem wit_BiasRowsComplete :
    let p := windowed [] [] (some 4)
    let u := windowed [0] [(0, [3, 1])] (some 4)
    let z := runJob.bias.wins.find? fun x => decide (x.w = 0)
    ((∃ x, (p.bias.wins.find? fun x => decide (x.w = 0)) = some x ∧ x.closed = true ∧ x.posted = [] ∧ winScored p x = true ∧
        winLayers p x ≠ [] ∧ postsFirst p x = false) ∧ collLive p = true ∧ winFrozen p 0 = false) ∧
    (∃ x, (u.bias.wins.find? fun x => decide (x.w = 0)) = some x ∧ winOwes u x = true ∧ winSummed u x = true ∧ x.posted ≠ [] ∧
        stepP u 0x0503 (winStart u 2) ≠ 1 ∧ stepTaken u (winStart u 2) = true ∧ scoredBelow u (winStart u 2) = true ∧ winStart u 2 = 4 ∧
        switchComes u 0 = false ∧ krReadBad x.epoch ((winLayers u x).map (·.layer)) u = none ∧ collLive u = true ∧
        (krReadBad x.epoch ((winLayers u x).map (·.layer)) { u with keyringBad := [(2, 0, 1)] }) = some 2 ∧
        ((winLayers u x).map (·.layer)) = [0] ∧ (x.sums.find? fun y => decide (y.1 = 0)) = some (0, [3, 1]) ∧
        (krFind (krCopy u 2) x.epoch 0).isSome = true) ∧
    (let f := { u with pendParams := [{ id := 0x0503, step := 4, value := 1 }] }
      ∃ x, (f.bias.wins.find? fun x => decide (x.w = 0)) = some x ∧ winOwes f x = true ∧ winSummed f x = true ∧
        stepTaken f (winStart f 2) = true ∧ scoredBelow f (winStart f 2) = true ∧ stepP f 0x0503 (winStart f 2) = 1) ∧
    (∃ x, (p.bias.wins.find? fun x => decide (x.w = 0)) = some x ∧ winSummed p x = false) ∧ z = none := by
  refine ⟨⟨⟨_, rfl, by decide +kernel⟩, by decide +kernel⟩, ⟨_, rfl, by decide +kernel⟩, ⟨_, rfl, by decide +kernel⟩,
    ⟨_, rfl, by decide +kernel⟩, by decide⟩

/-! ### Witnesses: deadlines, the dump, tensor commands, the memory port -/

/-- A frame header of version 2 of the job, from seat 321 to the block. -/
def blankHdr : KftHdr := { KftHdr.blank with jobTag := 5, srcSeat := 321, dstSeat := 320, pathId := 4 }

/-- A chunk of return data for seat 321, sent once on link 4. -/
def sentChunk (vc seq tries : Nat) : TxChunk :=
  { hdr := { blankHdr with vc := vc, dstSeat := 321, seq := seq }, payload := [1, 2, 3], tries := tries, link := 4,
    lastKt := 0, timeout := 100, crcNacks := 0, again := false, queued := false, placed := false, seen := [] }

/-- With chunks not yet acknowledged. -/
def sending (l : List TxChunk) (s : State) : State := { s with kft := { s.kft with unacked := l } }

/-- A packet on Spout 2. -/
def spoutPkt : SpoutPkt :=
  { spout := 2, kind := 0x11, slot := 2, generation := 0, step := 1, layer := 0, cls := 2, entries := [], tiles := [], poison := false }

theorem wit_DeadlinePoisonAndScrubComplete :
    let s := counted .scored 12 ctx
    let m := stepIn .scored 12 { ctx with countsSent := true }
    let k := sending [sentChunk 2 9 1] runJob
    let z := ({ cmd := jobCmd 0x28, cls := 1, queued := none, tiles := [], done := 64, r0 := 128, r1 := 0 } : TensorRun)
    let a := { runJob with tensors := [z], latch := { runJob.latch with opened := [jobCmd 0x28] } }
    ((slotAt s 2).ctx.isSome = true ∧ (slotAt s 2).st ∈ flightStates ∧ s.job.st ≠ .closed ∧ s.job.st ≠ .faulted ∧
      (slotAt (stepIn .preempted 12 ctx) 2).ctx = some ctx ∧ (slotAt (stepIn .preempted 12 ctx) 2).st ∉ flightStates) ∧
    ((slotAt m 2).ctx = some { ctx with countsSent := true } ∧ ((dutyAt m 1).map (missing m)) = some [321] ∧ applied m = true ∧
      ownSent m 1 = true ∧ ((dutyAt m 1).map fun d => (d.reached, d.ended)) = some (true, false) ∧ dutyAt m 9 = none) ∧
    (∃ q r, ({ runJob with spout := [spoutPkt] } : State).spout = q :: r ∧ q.spout + 0x1C = 0x1E) ∧
    (chunkAt k 321 2 9).isSome = true ∧ 0x100 < spSize ∧ (krAt { runJob with params := (0x0404, 0x1000) :: runJob.params } 0x1008).isSome = true ∧
    runJob.rst.aoStopped = false ∧
    ((a.tensors.find? fun x => decide (x.cls = 1) && x.queued.isNone) = some z ∧ (∀ x ∈ a.tensors, x.queued = none) ∧
      (a.latch.opened.any fun o => sameCmd o z.cmd) = true ∧ a.job.st ≠ .draining ∧
      (runJob.tensors.find? fun x => decide (x.cls = 1) && x.queued.isNone) = none ∧ runJob.job.st ≠ .draining) := by
  refine ⟨⟨rfl, by decide⟩, ⟨rfl, by decide +kernel, by decide, by decide, by decide +kernel, by decide⟩,
    ⟨_, _, rfl, rfl⟩, by decide +kernel, by decide, by decide +kernel, by decide, rfl, by decide, by decide, by decide, by decide,
    by decide⟩

/-- A dump wanted, or active. -/
def dumping (wanted active : Bool) (status : Nat) : State :=
  { runJob with dump := { Dump.zero with wanted := wanted, active := active, bytes := 512, status := status } }

theorem wit_CrashDumpRowsComplete :
    (dumping true false 0).dump.wanted = true ∧ domState (dumping true false 0) 13 = .inService ∧ runJob.dump.wanted = false ∧
    runJob.dump.active = false ∧ (dumping false true 0).dump.active = true ∧ 256 ≤ (dumping false true 0).dump.bytes ∧
    (dumping false true 2).dump.status = 2 ∧ runJob.rst.aoStopped = false ∧
    Io.bad { at_ := 2, write := true, timeout := false, err := 1 } ≠ .ok ∧
    (let s := dumping false true 0
     { s with rst := { s.rst with aoStopped := true } }.rst.aoStopped = true ∧ { s with rst := { s.rst with aoStopped := true } }.dump.active = true)
    := by decide

/-- A descriptor of `n` rows of two elements of a format at a VA, row stride 64 (R191). -/
def tensor (fmt base n : Nat) : List Byte := leBytes 64 (fmt + 2 * 2 ^ 8 + base * 2 ^ 16 + 2 * 2 ^ 64 + n * 2 ^ 96 + 64 * 2 ^ 224)

/-- A descriptor of `n` row numbers in one run. -/
def indices (base n : Nat) : List Byte := leBytes 64 (10 + 2 ^ 8 + base * 2 ^ 16 + n * 2 ^ 64)

theorem wit_TensorCommandsComplete :
    let c := fun (n : Nat) => pkt 0x28 (tensor 1 0x40000 n ++ tensor 1 0x50000 n) (job := 5)
    let g := fun (n : Nat) => pkt 0x29 (tensor 1 0x40000 2 ++ indices 0x48000 n ++ tensor 1 0x50000 2) (job := 5)
    let a := fun (n : Nat) => pkt 0x2A (tensor 1 0x40000 2 ++ indices 0x48000 n ++ tensor 1 0x50000 2) (job := 5)
    let br := { runJob with pwr := { Power.reset with brace := .braced } }
    let bz := { runJob with tensors := [{ cmd := jobCmd 0x28, cls := 0, queued := none, tiles := [], done := 0, r0 := 0, r1 := 0 }] }
    let acc := fun (p : Packet) => accept p 0 0 (takePacket p runJob)
    let D := fun (p : Packet) (o : Nat) => descOf (pBody p) o
    (entryFree runJob ∧ RunsJob 0x28 (c 2) runJob ∧ (c 2).payloadLen.toNat = 128 ∧ inBrace runJob = false ∧ RunsJob 0x28 (c 2) br ∧
      inBrace br = true ∧ runJob.tensors.any (fun r => decide (r.cls = (c 2).cls.toNat)) = false ∧
      RunsJob 0x28 (c 2) bz ∧ bz.tensors.any (fun r => decide (r.cls = (c 2).cls.toNat)) = true ∧
      isPoison { at_ := 0, write := false, timeout := false, err := 3 } = true ∧ copyRange (fusedOf (c 2) runJob) (D (c 2) 0) (D (c 2) 64) = true ∧ (D (c 2) 64).empty = false ∧
      (D (c 0) 64).empty = true ∧
      (let t := (D (c 2) 64).units.foldl (copyUnit (fusedOf (c 2) (acc (c 2))) (D (c 2) 0) (D (c 2) 64)) (TRun.start (acc (c 2)))
       t.bad.isNone = true ∧ t.rd ≠ [] ∧ 0 < (tilesOf false t.log.reverse).length)) ∧
    (RunsJob 0x29 (g 2) runJob ∧ (g 2).payloadLen.toNat = 192 ∧ (D (g 2) 64).asIndex.empty = false ∧ (D (g 0) 64).asIndex.empty = true ∧
      (D (g 2) 0).byRows.rows = 2 ∧ (D (g 2) 128).byRows.rows = 2 ∧
      ((List.range 2).foldl (fun t r => rowCopy (D (g 2) 0).byRows (D (g 2) 128).byRows (indexAt (D (g 2) 64).asIndex 2 r t).2 r
        (indexAt (D (g 2) 64).asIndex 2 r t).1) (TRun.start (acc (g 2)))).bad.isNone = true) ∧
    (RunsJob 0x2A (a 2) runJob ∧ ((D (a 2) 0).fmt = 10 ↔ (D (a 2) 128).fmt = 10) ∧ (D (a 2) 0).byRows.rows ≠ 0 ∧
      (D (a 0) 64).asIndex.empty = true ∧ (D (a 2) 128).byRows.rows ≠ 0 ∧ bit (a 2).p0.toNat 0 = false ∧
      (D (a 2) 64).asIndex.empty = false ∧
      (let src := (D (a 2) 0).byRows
       let dst := (D (a 2) 128).byRows
       let x := targets src (D (a 2) 64).asIndex dst (TRun.start (acc (a 2)))
       ((dedup x.2).foldl (fun t r => accRow src dst r ((List.range src.rows).filter fun q => decide (x.2.getD q 0 = r)) t) x.1).bad.isNone
         = true)) := by
  refine ⟨⟨entry_of (by decide), runsJob_of (by decide +kernel), by decide +kernel, by decide, runsJob_of (by decide +kernel), by decide,
    by decide +kernel, runsJob_of (by decide +kernel), by decide +kernel, by decide, by decide +kernel, by decide +kernel, by decide +kernel, by decide +kernel⟩,
    ⟨runsJob_of (by decide +kernel), by decide +kernel, by decide +kernel, by decide +kernel, by decide +kernel, by decide +kernel,
      by decide +kernel⟩,
    ⟨runsJob_of (by decide +kernel), by decide +kernel, by decide +kernel, by decide +kernel, by decide +kernel, by decide +kernel,
      by decide +kernel, by decide +kernel⟩⟩

/-- A request for row 0 of step 1 in slot 2, or a write of its results. -/
def mreq (write : Bool) (id : Nat) : MReq :=
  { write := write, channel := 3, id := id, cls := 2, pa := 2 ^ 33, len := 64, who := if write then .outRow 2 1 else .stepRow 2 1 0 }

/-- The step waits for the reads. -/
def porting (l : List MReq) : State :=
  { stepIn .scored 1 { ctx with inSrc := true, rows := [], inDesc := leNat (tensor 1 0x40000 1) } with mport := { out := l, wait := [], quar := [] } }

theorem wit_MemoryPortRowsComplete :
    let s := porting [mreq false 5]
    let t := porting [mreq false 5, mreq false 6]
    let w := porting [mreq true 5]
    (mportFind s false 3 4 = none ∧ mportFind s true 3 4 = none ∧ mportFind s false 3 5 = some (mreq false 5) ∧ s.mport.wait = [] ∧
      s.keyway.retire = [] ∧ (mreq false 5).who ∈ (t.mport.out.erase (mreq false 5)).map (·.who) ∧
      (mreq false 5).who ∉ (s.mport.out.erase (mreq false 5)).map (·.who) ∧ (mreq false 5).who = .stepRow 2 1 0 ∧
      ((slotAt s 2).ctx.elim false fun c => decide (c.cancelled = false ∧ c.rows = []) && (inRow c s.job.desc.d 0 (TRun.start s)).1.bad.isNone) = true ∧
      s.job.st ≠ .closed ∧ s.job.st ≠ .faulted) ∧
    (mportFind w true 3 5 = some (mreq true 5) ∧ (mreq true 5).who = .outRow 2 1 ∧ (mreq true 5).write = true ∧
      (mreq false 5).write = false) := by
  refine ⟨⟨by decide, by decide, rfl, rfl, rfl, by decide, by decide, rfl, by decide +kernel, by decide, by decide⟩, by decide +kernel⟩

/-! ### Witnesses: the Funnels and the exchange between seats -/

/-- A Funnel packet for slot 2 and step 1. -/
def funnelPkt (body : List Byte) : FunnelPkt :=
  { funnel := 0, slot := 2, generation := 0, step := 1, firstToken := 0, nRows := 1, cls := 0, body := body }

/-- The header of a copy of token 0 of seat `seat` for local slot 0. -/
def tile (kind seat : Nat) : TileHdr :=
  { kind := kind, srcSlot := 2, generation := 0, rank := 0, cls := 0, step := 1, token := 0, srcSeat := seat, localSlot := 0, expert := 1,
    layer := 0, tileFmt := 0, slotIndex := 0, sr := false }

/-- A copy of token 0 sent to seat 321, and one for the block itself. -/
def copyTo (dest : Nat) (answered : Bool) : Copy :=
  { token := 0, rank := 0, expert := 0, dest := dest, localSlot := 0, pos := 0, sent := true, acked := true, answered := answered, seq := 1 }

/-- The duty of step 1, seat 321 having announced `n` copies, with what has landed and who cancelled. -/
def duty (n : Nat) (landed : List Landed) (cancels : List CancelSrc) : Duty :=
  { step := 1, layer := 0, epoch := 1, reached := true, counts := [{ countOf 1 with counts := [n] }], landed := landed, closed := [],
    cancels := cancels, srcs := [], ended := false }

/-- The step in slot 2, and that duty. -/
def dutied (st : SlotState) (c : StepCtx) (n : Nat) (landed : List Landed) (cancels : List CancelSrc) : State :=
  let s := stepIn st 15 { c with countsSent := true }
  { s with duties := [duty n landed cancels],
           hostMem := memWrite [] (2 ^ 32 + rxVa s (rxBaseIdx s 321 320 1)) (tileHdrBytes (tile 0x21 321)) }

/-- A copy of seat 321 landed in the slot the exchange gives it. -/
def landed (listed answered : Bool) (seat : Nat) : Landed :=
  { hdr := tile 0x21 seat, slotIndex := rxBaseIdx runJob 321 320 1, listed := listed, answered := answered }

/-- A cancel of step 1 by seat 321. -/
def cancelOf (seat : Nat) : CancelMsg := { srcSlot := 2, generation := 0, step := 1, sender := seat, retSeq := 0, cls := 0 }
def cancelled (early acked : Bool) : CancelSrc := { msg := cancelOf 321, early := early, acked := acked }

/-- An answer-ready packet for a receive slot or a return slot. -/
def ready (k : Nat) : FunnelPkt := funnelPkt (leBytes 64 k)

theorem wit_FunnelRowsComplete :
    let f := funnelPkt (List.replicate 256 0)
    let r := stepIn .scored 1 { ctx with rows := [] }
    let sh := { r with ep := { r.ep with epochs := r.ep.epochs.map fun e => { e with layers := e.layers.map fun l => { l with shared := true } } } }
    let k := rxBaseIdx runJob 321 320 1
    let way := fun (s : State) => match hostRead (funnelSeen 3 (ready k) s) 0 (rxVa s k) 64 with
      | (u, .ok b) => if (xlateRange u 0 (rxVa s k) (pitchOf s.job.desc) false).2.toOption.isSome then some (entryWay s k (tileHdrOf b)) else none
      | _ => none
    let a := dutied .awaiting ctx 1 [landed true false 321] []
    let out := fun (b : Bool) => dutied .awaiting { ctx with copies := [copyTo 321 b] } 0 [] []
    let ri := retIdx runJob.job.desc 1 0 0
    let own := { dutied .dispatched { ctx with copies := [{ copyTo 320 false with sent := false }] } 0
        [{ landed false false 320 with hdr := tile 0x23 320 }] [] with
      spout := [{ spoutPkt with kind := 0x12, spout := 0, tiles := [(tile 0x22 320, [])] }] }
    let h := KftHdr.blank
    let rp := { runJob with params := (0x0520, 1) :: runJob.params }
    (funnelOpen booted 0 = true ∧ funnelOpen (domIn 1 .fencing none booted) 0 = false ∧ booted.job.st = .closed) ∧
    ((slotAt r 2).ctx.isSome = true ∧ ((layerIn r 1 0).elim false fun l => decide (f.body.length = f.nRows * funnelRow l r.job.desc.d)) = true ∧
      ((slotAt r 2).ctx.elim false fun c => decide (c.gen = 0 ∧ c.step = 1 ∧ c.cancelled = false ∧ c.awaitCommit = false ∧ c.nTok = 1 ∧
        c.rows = [] ∧ c.shared = [])) = true ∧ ((layerIn sh 1 0).elim false (·.shared)) = true ∧
      ((layerIn r 1 0).elim true (·.shared)) = false ∧ (slotAt runJob 2).ctx = none ∧ aboveSlot (slotAt runJob 2) 1 = true ∧
      (slotAt runJob 2).gen = f.generation ∧
      aboveSlot { Slot.idle with lastStep := 5 } 1 = false) ∧
    (applied a = true ∧ way a = some .send ∧ way runJob = some .bad ∧
      way (dutied .awaiting ctx 1 [landed true false 321] [cancelled false false]) = some .drop ∧ replayOn a = false ∧ 0 < getP a 0x0342) ∧
    (ri / (runJob.job.desc.bMax * runJob.job.desc.kMax) = winNo runJob.job.desc 1 ∧ answerWay (out false) 2 0 1 0 0 = .take ∧
      answerWay (out true) 2 0 1 0 0 = .dup ∧ answerWay (out true) 2 9 1 0 0 = .stale ∧ answerWay runJob 2 0 1 0 0 = .bad) ∧
    (own.duties.length = 1 ∧ (∃ d, own.duties = [d] ∧ ∃ y ∈ d.landed, y.hdr.kind = 0x23 ∧ y.hdr.token = 0 ∧
      y.hdr.rank = 0 ∧ y.listed = false) ∧ (spoutTake 2 1 0 0 own).isSome = true ∧ (spoutTake 2 1 0 0 { own with spout := [] }).isNone = true ∧
      (slotAt own 2).st = .dispatched ∧ applied own = true) ∧
    (replayOn rp = true ∧ applied rp = true ∧ isNotice h [] = false ∧
      replayOn { rp with job := { rp.job with st := .starting } } = true) := by
  refine ⟨by decide, by decide +kernel, by decide +kernel, by decide +kernel, ⟨by decide +kernel, ⟨_, rfl, _, .head _, rfl, rfl, rfl, rfl⟩, by decide +kernel⟩,
    by decide +kernel⟩

theorem wit_ExchangeRowsComplete :
    let k := rxBaseIdx runJob 321 320 1
    let a := dutied .awaiting { ctx with copies := [copyTo 321 false] } 1 [] []
    let o := fun (b : Bool) => dutied .awaiting { ctx with copies := [copyTo 321 b] } 0 [] []
    let n := stepIn .scored 12 ctx
    let e := { n with duties := [{ duty 1 [] [] with counts := [], reached := false }] }
    let c := dutied .awaiting ctx 1 [landed true true 321] [cancelled false false]
    let x := stepIn .cancelled 15 { ctx with cancelled := true, countsSent := true, dests := [⟨321, true, 0⟩], cancelCmd := some (jobCmd 0x21) }
    (Inv a ∧ a.rst.rootLost = false ∧ applied booted = false ∧ applied a = true) ∧
    (((dutyAt n 1).map fun d => (d.msg 321).isNone && d.reached) = some true ∧ ((dutyAt a 1).map fun d => (d.msg 321).isSome) = some true ∧
      (((dutyAt e 1).getD (Duty.blank 1)).msg 321 = none ∧ ((dutyAt e 1).getD (Duty.blank 1)).reached = false) ∧
      (homedAt n 1 0 (ownSeat n)).length = (countOf 1).counts.length) ∧
    (((dutyAt a 1).map fun d => d.cancelledBy 321) = some false ∧ ((dutyAt c 1).map fun d => d.cancelledBy 321) = some true) ∧
    (answerWay (o false) 2 0 1 0 0 = .take ∧ answerWay (o true) 2 0 1 0 0 = .dup ∧ answerWay (o true) 2 9 1 0 0 = .stale ∧
      answerWay runJob 2 0 1 0 0 = .bad ∧ ((hostWrite (o false) 0 (retVa runJob (retIdx runJob.job.desc 1 0 0)) [1]).2 matches .ok _)) ∧
    (isAnnounced a (tile 0x22 321) k = true ∧ isAnnounced a (tile 0x22 321) (k + 1) = false ∧ ((dutyAt a 1).map (·.landed)) = some [] ∧
      ((hostWrite a 0 (rxVa a k) (tileHdrBytes (tile 0x22 321))).2 matches .ok _)) ∧
    (((localSlots a 1 0).find? fun x => decide (x.1 = 0)).isSome = true ∧ ((dutyAt a 1).map fun d => decide (0 ∉ d.closed) && d.reached) = some true ∧
      ((dutyAt (o true) 1).map fun d => slotFinal (o true) d 0 && (others (o true)).all fun y => (listable (o true) d 0 y).isNone) = some true ∧
      ((dutyAt a 1).map fun d => !slotFinal a d 0 && (others a).all fun y => (listable a d 0 y).isNone) = some true) ∧
    (((dutyAt c 1).map fun d => (d.cancels.find? fun c => decide (c.msg.sender = 321) && !c.acked).isSome && d.reached && listedAnswered d 321) = some true ∧
      ((dutyAt (dutied .awaiting ctx 1 [landed true false 321] [cancelled false false]) 1).map fun d => listedAnswered d 321) = some false ∧
      replayOn c = false) ∧
    (((slotAt x 2).ctx.elim false fun q => q.cancelled && decide (q.gen = 0 ∧ q.step = 1) && tornDown x q) = true ∧
      (slotAt x 2).st = .cancelled ∧ applied x = true ∧ (slotAt n 2).st ≠ .cancelled) := by
  refine ⟨⟨inv_of (by decide +kernel), by decide, by decide, by decide⟩, by decide +kernel, by decide +kernel, by decide +kernel,
    by decide +kernel, by decide +kernel, by decide +kernel, by decide +kernel⟩

/-! ### Witnesses: collectives, the barrier, the transport -/

/-- The image of group 1: seats 320 and 321 on one level, switched, two buffers (R286). -/
def groupImage : List Byte :=
  leBytes 64 (0x4701 + 2 ^ 16 + 2 ^ 25 + 2 * 2 ^ 32 + 2 ^ 40 + 320 * 2 ^ 48 + 2 * 2 ^ 64 + 2 ^ 80 + 2 ^ 96)

/-- The running job, the image at VA 0x30000, and eight free cells in pool 1 with no reserve. -/
def grouping (b : List Byte) : State :=
  { runJob with
    params := (0x0001, 320) :: (List.range 12).map fun o => (0x0408 + o, 0),
    hostMem := memWrite [] (2 ^ 33 + 0x30000) b,
    carafe := { runJob.carafe with pools :=
      [Pool.none, { base := 0x80000, cells := 8, free := (List.range 8).map fun i => 0x80000 + 4096 * i }] ++ List.replicate 6 Pool.none } }

/-- An operation of group 1: three elements of its own. -/
def opOf (loopQ running : Bool) (agreed : Option Nat) (parts : List CollPart) (cmd : Option OpenCmd) : CollOp :=
  { group := 1, loopQ := loopQ, seq := 0, cmd := cmd, cls := 0, desc := 0, io := .ok, wide := true, crc := false, residue := false,
    dynamic := false, fmt := 1, own := [1, 2, 3], running := running, agreed := agreed, parts := parts, charges := [], thresh := 100,
    counts := [(0, 3)] }

/-- Group 1 of those members defined, with operations. -/
def collecting (members : List Nat) (ops : List CollOp) (s : State) : State :=
  { s with coll := { Coll.reset with groups := [{ groupOf groupImage with members := members, extents := [members.length, 1, 1] }], ops := ops } }

theorem wit_CollectiveCommandsComplete :
    let s := grouping groupImage
    let z := { s with carafe := Carafe.reset }
    let p := fun (g : Nat) => pkt 0x30 (p0 := g) (p1 := 0x30000) (p3 := 64) (job := 5)
    let q := pkt 0x31 (leBytes 64 0) (p0 := 1) (job := 5)
    let c := collecting [320, 321] [] runJob
    let d := fun (st : JobState) => { c with job := { c.job with st := st } }
    (RunsJob 0x30 (p 1) s ∧ (p 1).payloadLen.toNat = 0 ∧ entryFree s ∧
      checkRanges [(1, pVa (p 1), 64, false)] .ok (takePacket (p 1) s) = (ranged [(1, pVa (p 1), 64, false)] (takePacket (p 1) s), none) ∧
      loads (p 1) 64 s (fun w b => decide (groupBad w b 1 64 = none ∧ groupBad w b 2 64 = some 0x0108) && (installGroup (groupOf b) w).isSome) = true ∧
      loads (p 1) 64 z (fun w b => decide (groupBad w b 1 64 = none) && (installGroup (groupOf b) w).isNone) = true) ∧
    (RunsJob 0x31 q c ∧ q.payloadLen.toNat = 64 ∧ ownGroup c 1 = true ∧ entryFree c ∧ inBrace c = false ∧
      RunsJob 0x31 q (d .starting) ∧ RunsJob 0x31 q (d .draining) ∧ ((groupAt c 1).elim false (nextArrived c)) = false ∧
      RunsJob 0x31 q { c with pwr := { Power.reset with brace := .braced } } ∧
      ((groupAt c 1).elim false fun g => g.members.contains (ownSeat c)) = true) ∧
    ((collecting [320, 321] [opOf false true none [] (some (jobCmd 0x31))] runJob).coll.ops.find?
      fun x => decide (x.group = 1 ∧ x.loopQ = false)) = some (opOf false true none [] (some (jobCmd 0x31))) := by
  refine ⟨⟨runsJob_of (by decide +kernel), by decide, entry_of (by decide), pairN (by decide +kernel), by decide +kernel, by decide +kernel⟩,
    ⟨runsJob_of (by decide +kernel), by decide, by decide, entry_of (by decide), by decide, runsJob_of (by decide +kernel),
      runsJob_of (by decide +kernel), by decide, runsJob_of (by decide +kernel), by decide⟩, by decide +kernel⟩

/-- The header of a chunk of group 1. -/
def collHdr (group crc : Nat) : CollHdr :=
  { lengthRound := false, group := group, loopQ := false, level := 1, distribute := false, buffer := 0, wide := true, crcEn := false,
    dynamic := false, opSeq := 0, chunk := 0, length := 3, srcSeat := 321, nElem := 3, defCrc := crc, dataCrc := 0, upWait := 0, fmt := 1 }

theorem wit_CollectiveRowsComplete :
    let g := (groupOf groupImage).defCrc
    let s := collecting [320, 321] [] runJob
    let e : Edge := ⟨1, false, 0, false⟩
    let one := fun (o : CollOp) => collecting [320] [o] runJob
    let idle := opOf true false none [] none
    let done := opOf false true (some 3) [⟨1, 4, [1, 2, 3], 0⟩] (some (jobCmd 0x31))
    let run := opOf false true none [] (some (jobCmd 0x31))
    let f := { s with coll := { s.coll with freed := [⟨e, 2⟩] } }
    (runJob.rst.rootLost = false ∧ collLive booted = false ∧ collLive s = true ∧ groupAt s 9 = none) ∧
    ((groupAt s 1).elim false (fun x => decide (x.defCrc = g) && x.members.contains (ownSeat s)) = true ∧ (collHdr 1 7).defCrc ≠ g ∧
      chunkStale s (collHdr 1 g) = false ∧ s.coll.staged = [] ∧ takeable s { hdr := collHdr 1 g, data := [], landed := 0, adderBad := false } = false) ∧
    (s.coll.waiting = [] ∧ s.coll.busy = [] ∧ ((groupAt f e.group).bind fun g => memberIndex g.members (ownSeat f)).isSome = true ∧
      0 < edgeGet f.coll.freed e ∧ edgeGet s.coll.freed e = 0 ∧ replayOn f = false) ∧
    (opHead s 1 true = none ∧ opHead (one idle) 1 true = some idle ∧ opReady (one idle) idle = true ∧
      opReady { one idle with job := { runJob.job with st := .faulted } } idle = false ∧
      (groupAt (one idle) 1).elim false (fun g => decide (g.extents = [1, 1, 1] ∧ 1 ≤ g.nLevels ∧ g.nLevels ≤ 3 ∧
        memberIndex g.members (ownSeat (one idle)) = some 0)) = true ∧ idle.dynamic = false ∧ idle.own ≠ [] ∧ idle.own.length < 2 ^ 32) ∧
    (opRunning (one done) 1 false = some done ∧ ((groupAt (one done) 1).map fun g => missingKeys g done) = some [] ∧
      (∀ x ∈ (one done).coll.ops, sameOp x done = true → x = done) ∧ opRunning (one run) 1 false = some run ∧
      ((groupAt (one run) 1).map fun g => missingKeys g run) = some [0] ∧ opRunning s 1 false = none) := by
  refine ⟨by decide, by decide +kernel, by decide +kernel, by decide +kernel, by decide +kernel⟩

/-- A notice of the start in progress. -/
def notice (kind sender : Nat) : Notice :=
  { kind := kind, listCrc := 0, release := 1000, sender := sender, subtree := 0, t1 := 10, t2 := 20, t3 := 30 }

/-- A job being started at tick 1000, the block its root with leaf group 1, or a leaf of it. -/
def startingAs (members : List Nat) (go held : Bool) : State :=
  let s := collecting members [] (jobIn .starting)
  { s with
    params := (0x0522, 1) :: s.params,
    job := { s.job with release := 1000, members := members, startCmd := some (jobCmd 0x12) },
    barrier := { Barrier.reset with go := go },
    ptp := { s.ptp with slewHeld := held } }

theorem wit_BarrierRowsComplete :
    let s := startingAs [320, 321] false false
    let l := startingAs [321, 320] false false
    (s.rst.rootLost = false ∧ (jobIn .opened).job.st = .opened ∧ (jobIn .opened).job.release = 0 ∧ (notice 0x51 321).kind ≠ 0x52) ∧
    (s.job.st = .starting ∧ (notice 0x51 321).release = s.job.release ∧ (notice 0x51 321).listCrc = s.job.listCrc ∧
      ¬ ((notice 0x51 321).release = runJob.job.release) ∧ 321 ∈ childSeats s (ownIndex s) ∧ ownIndex s = 0 ∧
      (∀ c ∈ childSeats s (ownIndex s), c = 321 ∨ c ∈ s.barrier.reports) ∧ s.barrier.reported = false) ∧
    (runJob.job.st = .running ∧ (jobIn .draining).job.st = .draining) ∧
    ((leafGroup s).map (fun x => x.1.digit x.2 1) = some 0 ∧ (leafGroup l).map (fun x => x.1.digit x.2 1) = some 1 ∧
      leafGroup runJob = none ∧ s.ptp.slewHeld = false ∧ (startingAs [321, 320] false true).ptp.slewHeld = true) ∧
    ((startingAs [320, 321] true false).barrier.go = true ∧ s.barrier.go = false ∧ ∀ h ∈ s.latch.held, h.why ≠ .release) := by
  refine ⟨by decide, by decide, by decide, by decide +kernel, by decide⟩

/-- A frame of the job from seat 321, and its header. -/
def hdrOf (vc seq region : Nat) (payload : List Byte) : KftHdr :=
  { blankHdr with vc := vc, seq := seq, region := region, length := payload.length, chunkCrc := crc32c payload, op := if vc = 5 then 5 else 0 }
def frameOf (h : KftHdr) (payload : List Byte) : Frame :=
  { fecSymbols := [], fecUncorr := [], fcsOk := true, bytes := 128, tpidOk := true, vid := 1, pcp := 1, an := 0, pn := 0, ethertype := getP runJob 0x0305, macsecOk := false, hdr := h, payload := payload }

/-- Chunks admitted and not applied. -/
def arrived (l : List RxChunk) (s : State) : State := { s with kft := { s.kft with ingress := l } }
def chunkOf (h : KftHdr) (payload : List Byte) : RxChunk := { hinge := 1, link := 4, pcp := 1, hdr := h, payload := payload }

theorem wit_FrameReceiveAndApplyComplete :
    let s := runJob
    let u := ctrInc (hingeCtr 1 14) (ctrAdd (hingeCtr 1 16) 128 s)
    let f := frameOf (hdrOf 1 1 0 [1, 2]) [1, 2]
    let y := { s with kft := { s.kft with rx := [{ seat := 321, vc := 1, cum := 5, sacks := [], owed := [], epoch := 0 }] } }
    let c := chunkOf (hdrOf 1 1 0 [1, 2]) [1, 2]
    let m := chunkOf (hdrOf 5 1 4 [9]) [9]
    (domState s (5 + 1) = .inService ∧ domState (domIn 6 .fencing none s) 6 ≠ .inService ∧ frameBad u 1 f = none ∧
      isPause f = false ∧ isPause { f with ethertype := 0x8808 } = true ∧ rxFull u 1 f = false ∧
      rxFull u 1 { f with bytes := 2 ^ 20 + 1 } = true ∧
      frameBad u 1 { f with fcsOk := false } = some 0 ∧ jobBad u f = none ∧ isCtl f.hdr = false ∧ f.hdr.ackValid = false ∧
      jobBad { u with job := { u.job with tag := 6 } } f = some 5 ∧ jobBad { u with job := { u.job with st := .opened } } f = some 8 ∧
      isCtl { f.hdr with op := 3 } = true ∧ f.ethertype ≠ 0x88F7 ∧ f.hdr.vc ≠ 0) ∧
    (alreadyApplied s 321 1 1 = false ∧ alreadyApplied y 321 1 1 = true ∧ acksSent y = true ∧ inWindow s 321 1 1 = true ∧
      inWindow s 321 1 (2 ^ 31) = false ∧ s.kft.ingress = [] ∧ s.kft.flags = [] ∧ f.hdr.chunkCrc = crc32c f.payload ∧
      f.hdr.chunkCrc ≠ crc32c [7] ∧ regionHolds s f.hdr 2 = true ∧ regionHolds s { f.hdr with offset := 2 ^ 40 } 2 = false) ∧
    (((arrived [c] s).kft.ingress.find? (RxChunk.is 321 1 1)) = some c ∧ s.kft.ingress.find? (RxChunk.is 321 1 1) = none ∧
      appliesNow s c = true ∧ appliesNow (jobIn .starting) c = false ∧ c.hdr.region = 0 ∧
      ((hostWrite s 0 (getP s 0x0508 + c.hdr.offset) c.payload).2 matches .ok _) ∧ (rxSpace s 321 1).sacks = [] ∧
      1 = (rxSpace s 321 1).cum + 1) ∧
    (((arrived [m] s).kft.ingress.find? (RxChunk.is 321 5 1)) = some m ∧ m.hdr.vc = 5 ∧ m.hdr.region = 4 ∧ m.hdr.msgChunks ≤ 1 ∧ s.kft.msgs = []) := by
  refine ⟨by decide +kernel, by decide +kernel, by decide +kernel, by decide +kernel⟩

/-- Links 4 and 5 Up, with chunk 9 of VC 2 sent. -/
def linked (l : List TxChunk) (unusable : List (Nat × Nat)) : State :=
  { sending l runJob with
    links := (runJob.links.set 4 { Link.reset with st := .up }).set 5 { Link.reset with st := .up },
    kft := { (sending l runJob).kft with unusable := unusable, rx := [{ seat := 321, vc := 2, cum := 5, sacks := [], owed := [5], epoch := 0 }],
                                         tx := [{ seat := 321, vc := 2, next := 10, ack := 3, sacks := [] }] } }

theorem wit_AcksNacksAndTimersComplete :
    let s := linked [sentChunk 2 9 1] []
    let n := fun (code : Nat) => { blankHdr with op := 4, ackVc := 2, operand0 := 9, nackCode := code }
    let a := { blankHdr with op := 3, ackVc := 2, ackSeq := 7, ackValid := true }
    let c := sentChunk 2 9 1
    (s.rst.rootLost = false ∧ acksSent booted = false ∧ acksSent s = true ∧ (others s).contains blankHdr.srcSeat = true ∧
      a.ackValid = true ∧ (n 1).ackValid = false ∧ serialLt 32 (txSpace s 321 2).ack a.ackSeq = true ∧
      serialLt 32 a.ackSeq (txSpace s 321 2).next = true ∧ serialLt 32 1 (txSpace s 321 2).ack = true) ∧
    (chunkAt s 321 2 9 = some c ∧ chunkAt s 321 2 8 = none ∧ c.crcNacks + 1 < getP s 0x0347 ∧
      (n 5).nackCode ≠ 0 ∧ getP s 0x0347 ≤ { c with crcNacks := 100000 }.crcNacks + 1 ∧ (n 5).nackCode = 5 ∧ (n 2).nackCode = 2 ∧ (n 7).nackCode = 7) ∧
    ((rxSpace s 321 2).owed ≠ [] ∧ (rxSpace runJob 321 2).owed = [] ∧ nextLink (sprayOf s 321) (pathOf s 321).last none = some 4 ∧
      replayOn s = false) ∧
    (0 < c.tries ∧ exhausted s c = false ∧ nextLink (chunkLinks (missCount c.link 321 s) c) (pathOf (missCount c.link 321 s) 321).last (some c.link) = some 5 ∧
      pausedOn (missCount c.link 321 s) 1 2 = false ∧ chunkLinks (missCount c.link 321 runJob) c = [] ∧
      c.queued = false ∧ s.kft.ctlWait = [] ∧ (∀ x ∈ s.kft.unacked, x.queued = false) ∧
      (s.kft.unacked.filter fun x => decide (x.hdr.dstSeat = 321 ∧ x.hdr.vc = 2 ∧ x.hdr.seq = 9)) = [c]) ∧
    ((linked [] [(4, 321)]).kft.unusable.contains (4, 321) = true ∧ s.kft.unusable.contains (4, 321) = false ∧ 4 ∈ upLinks s ∧
      4 ∉ upLinks runJob) := by
  refine ⟨by decide, by decide +kernel, by decide +kernel, by decide +kernel, by decide⟩

theorem wit_RetriesExhaustedEndTheJob :
    let c := sentChunk 2 9 (getP runJob 0x0346 + 1)
    let s := linked [c] []
    s.rst.rootLost = false ∧ chunkAt s 321 2 9 = some c ∧ s.job.st ≠ .closed ∧ s.job.st ≠ .faulted ∧ c.tries = getP s 0x0346 + 1 := by
  decide +kernel

/-! ### Witnesses: remote memory, pools, the Latch, links and rings -/

/-- An outstanding load of thread 2 of core 1, and a store. -/
def loadOf (issued : Bool) : RLoad :=
  { tag := 3, core := 1, thread := 2, seat := 321, off := 0x140, size := 8, atomic := false, aop := 0, a := 0, b := 0, issued := issued, install := true }
def storeOf : RStore := { core := 4, thread := 0, seat := 321, off := 0x140, len := 8, last := 1 }

/-- With Ward state. -/
def warding (loads : List RLoad) (stores : List RStore) (rcache : List RLine) : State :=
  { runJob with kft := { runJob.kft with loads := loads, stores := stores, rcache := rcache } }

theorem wit_WardAndRemoteRowsComplete :
    let s := runJob
    let line : RLine := { seat := 321, off := 0x100, data := List.replicate 256 5 }
    let h := warding [] [] [line]
    let b := warding [] [storeOf] []
    let r := warding [loadOf true] [] []
    (s.rst.rootLost = false ∧ homeTakes booted 321 1 = false ∧ homeTakes s 321 1 = true ∧ s.kft.ingress = [] ∧ s.kft.flags = [] ∧
      (∀ c ∈ s.carafe.cells, c.use ≠ .arrival 321 4 1) ∧ serialLe 32 (1 + 2 ^ 32 - 1) (rxSpace s 321 4).cum = true ∧
      serialLe 32 (7 + 2 ^ 32 - 1) (rxSpace s 321 4).cum = false ∧ winBytes - 8 + 8 ≤ winBytes ∧ winBytes < winBytes - 4 + 8 ∧
      0x103 % 4 ≠ 0 ∧ replayOn s = false ∧
      spPoisoned s (getP s 0x0341 + 8) 8 = false ∧ spPoisoned { s with spPoison := [getP s 0x0341 / 8 + 1] } (getP s 0x0341 + 8) 8 = true) ∧
    (wardTakes booted 1 2 321 = false ∧ wardTakes s 1 2 320 = false ∧ wardTakes s 1 2 321 = true ∧ wardTakes h 1 2 321 = true ∧
      storeOverlaps h 321 0x140 8 = false ∧ cacheLine h 321 (0x140 / 256 * 256) = some line ∧ cacheLine s 321 (0x140 / 256 * 256) = none ∧
      wardTakes b 1 2 321 = true ∧ storeOverlaps b 321 0x140 8 = true ∧ s.kft.loads = [] ∧ wardBusy s 1 2 = false) ∧
    (Sys2Proof.Machine.loadOf r 321 3 = some (loadOf true) ∧ Sys2Proof.Machine.loadOf s 321 3 = none ∧ applied r = true ∧
      (loadOf true).install = true ∧ applied booted = false) := by decide +kernel

/-- Pool 1 at 0x80000: two cells free, and a wait for one of them; or no cell. -/
def carafed (free : List Nat) (waits : List CellWait) : State :=
  { booted with
    params := (0x0001, 320) :: (List.range 12).map fun o => (0x0408 + o, 0),
    carafe := { booted.carafe with
      pools := [Pool.none, { base := 0x80000, cells := 2, free := free }] ++ List.replicate 6 Pool.none, waits := waits } }

theorem wit_FenceInvalAndPoolsComplete :
    let f := fun (m : Nat) => pkt 0x32 (p0 := 4 + 2 ^ 8 + m * 2 ^ 16) (job := 5)
    let t := fun (ack : Nat) => { runJob with kft := { runJob.kft with tx := [{ seat := 321, vc := 2, next := 10, ack := ack, sacks := [] }] } }
    let c := fun (pool n : Nat) => pkt 0x44 (p0 := pool) (p1 := 0x90000) (p3 := n)
    let w : CellWait := { owner := 9, bytes := 256, cls := 1, ref := 1, use := .pour 3, since := 0 }
    let g := carafed [0x80000, 0x81000] [w]
    (Inv runJob ∧ RunsJob 0x32 (f 321) runJob ∧ (f 321).payloadLen.toNat = 0 ∧ entryFree runJob ∧ fenceSeats runJob (f 400) = none ∧
      fenceSeats runJob (f 321) = some [321] ∧ fenceVcs (f 321) = [2] ∧ RunsJob 0x32 (f 321) (t 9) ∧
      serialLe 32 ((10 + 2 ^ 32 - 1) % 2 ^ 32) (txSpace (t 9) 321 2).ack = true ∧
      serialLe 32 ((10 + 2 ^ 32 - 1) % 2 ^ 32) (txSpace (t 3) 321 2).ack = false ∧ runJob.kft.fences = [] ∧
      (txSpace runJob 321 2).next = 1 ∧ (txSpace runJob 321 2).ack = 0) ∧
    (Runs 0x48 (pkt 0x48 (p0 := 321) (p1 := 256) (p3 := 256)) runJob ∧ (pkt 0x48).payloadLen.toNat = 0) ∧
    (Runs 0x44 (c 1 2) booted ∧ (c 1 2).payloadLen.toNat = 0 ∧ entryFree booted ∧ poolRange booted 1 (pVa (c 1 2)) 2 = true ∧
      poolRange booted 1 (pVa (c 1 0)) 0 = true ∧ jobExists booted = false ∧ jobExists runJob = true ∧ Runs 0x44 (c 1 2) runJob ∧
      poolRange runJob 1 (pVa (c 1 2)) 2 = true ∧ poolRange booted 4 (pVa (c 4 2)) 2 = true ∧
      checkRanges [] .ok (takePacket (c 1 2) booted) = (ranged [] (takePacket (c 1 2) booted), none) ∧
      checkRanges [(0, pVa (c 4 2), 2 * 65536, true)] .ok (takePacket (c 4 2) booted) =
        (ranged [(0, pVa (c 4 2), 2 * 65536, true)] (takePacket (c 4 2) booted), none)) ∧
    ((∀ w ∈ booted.carafe.waits, waitReady booted w = false) ∧ (∃ w ∈ g.carafe.waits, waitReady g w = true) ∧
      (poolAt g 1).cells ≠ 0 ∧ g.job.st = .closed ∧ (poolAt g 2).cells = 0 ∧ g.coll.waiting = [] ∧ g.coll.busy = [] ∧
      (let j := { runJob with carafe := g.carafe }
       0x81000 ∈ poolCells (poolAt j 1) 1 ∧ jobExists j = true ∧ j.job.st ≠ .closed)) := by
  refine ⟨⟨inv_of (by decide +kernel), runsJob_of (by decide +kernel), by decide, entry_of (by decide), by decide, by decide, by decide,
      runsJob_of (by decide +kernel), by decide, by decide, by decide, by decide, by decide⟩, ⟨runs_of (by decide +kernel), by decide⟩,
    ⟨runs_of (by decide), by decide, entry_of (by decide), by decide, by decide, by decide, by decide, runs_of (by decide), by decide,
      by decide, pairN (by decide +kernel), pairN (by decide +kernel)⟩, by decide, ⟨_, .head _, by decide⟩, by decide +kernel⟩

/-- A reply and a fatal event that wait. -/
def replyOf : Reply :=
  { tag := 7, status := 0, opcode := 1, final := true, kt := 5, r0 := 0, r1 := 0, r2 := 0, r3 := 0, order := 0, first := true, entry := false }
def fatalOf : Event := { Event.zero with code := 1, fatal := true, kt := 5 }

theorem wit_LatchRowsComplete :
    let r := { booted with latch := { booted.latch with replies := [replyOf] } }
    let e := { r with ev := { r.ev with fatal := [fatalOf] } }
    (booted.rst.rootLost = false ∧ canTake State.reset = false ∧ canTake booted = true ∧ (List.replicate 32 (0 : Byte)).length = 32 ∧
      streamOn State.reset = false) ∧
    (sources booted = [] ∧ booted.latch.owed = none ∧ booted.latch.held = [] ∧ streamOn booted = true) ∧
    (sources r = [.reply replyOf] ∧ r.latch.owed = none ∧ r.latch.held = [] ∧ streamOn r = true) ∧
    (let o := { booted with latch := { booted.latch with owed := some (Event.zero, []) } }
     o.latch.owed = some (Event.zero, []) ∧ o.latch.held = [] ∧ streamOn o = true) ∧
    (sources e = [.fatal fatalOf, .reply replyOf] ∧ e.ev.fatal = [fatalOf] ∧ e.ev.waitFatal = [] ∧ fatalOf.kt ≤ replyOf.kt ∧
      e.latch.owed = none ∧ e.latch.held = [] ∧ streamOn e = true) := by decide

/-- Hinge 1 on, link 4 in a state, its lanes trained, locked, or asked to train. -/
def linking (st : LinkState) (l : Lane) (markers : Bool) : State :=
  { runJob with
    params := (0x0210, 1) :: (0x0211, 1) :: (0x0213, 1) :: runJob.params,
    links := runJob.links.set 4 { Link.reset with st := st, markers := markers },
    lanes := (List.range 64).map fun i => if 8 ≤ i ∧ i < 16 then l else Lane.reset }

theorem wit_LinkRowsComplete :
    let a := { Lane.reset with trainReq := true }
    let b := { Lane.reset with trained := true, lock := true }
    let t := linking .training a false
    let one := { t with lanes := (List.range 64).map fun i => if 9 ≤ i ∧ i < 16 then b else if i = 8 then a else Lane.reset }
    let u := linking .up b true
    let g := linking .aligning b true
    let d := linking .down b false
    (Inv u ∧ u.rst.rootLost = false ∧ hingeGroup t 1 ≤ 2 ∧ linkOfLane t 1 0 = 4 ∧ (laneAt t 8).trainReq = true ∧
      (linkAt t 4).st = .training ∧ (linkAt one 4).st = .training ∧ (laneAt one 8).trainReq = true ∧
      (∀ j ∈ linkLanes one 4, j = 8 ∨ (laneAt one j).trained = true) ∧ (∃ j ∈ linkLanes t 4, j ≠ 8 ∧ (laneAt t j).trained = false) ∧
      (laneAt u 8).trainReq = false) ∧
    ((linkAt u 4).st = .up ∧ (linkAt g 4).st = .aligning ∧ (linkAt g 4).markers = true ∧
      (∀ j ∈ linkLanes g 4, j = 8 ∨ (laneAt g j).lock = true) ∧ allLocked g 4 = true ∧ allLocked (linking .aligning a false) 4 = false ∧
      8 * (4 / 4) + 0 ∈ linkLanes u 4 ∧ (∀ c ∈ u.kft.unacked, exhausted u c = false)) ∧
    ((linkAt d 4).st = .down ∧ hingeOn d (4 / 4) = true ∧ hingeOn runJob 1 = false ∧ (linkAt (linking .quiescing b false) 4).st = .quiescing ∧
      (linkAt g 4).fault = false ∧ u.rst.aoStopped = false ∧ getP d (0x0203 + 16 * 1) = 1 ∧ getP runJob (0x0203 + 16 * 2) ≠ 1) := by
  refine ⟨⟨inv_of (by decide +kernel), by decide, by decide, by decide, by decide, by decide, by decide, by decide, by decide +kernel,
    by decide +kernel, by decide⟩, by decide +kernel, by decide +kernel⟩

/-- A Drip record and a full record ring's record. -/
def dripRec : DripRec := { kind := 12, slot := 0, slotValid := false, unit := 0, kt := 5, step := 0, generation := 0, payload := 7 }
def recEnt : RecEnt :=
  { kind := 2, full := true, poison := false, source := 0, link := 0, kt := 5, seq := 0, crc := 0, origBytes := 0, context := 0, payload := [1] }

/-- Drip on with a record; the record ring of 4,096 bytes with a record, its head at `head`. -/
def ringing (head : Nat) : State :=
  { booted with
    params := (0x0A00, 0x10000) :: (0x0A01, 4096) :: booted.params,
    drip := { Drip.reset with enable := true, base := 0x8000, size := 1, kindMask := 2 ^ 12, unitMask := 1, sampleUs := 10, sel := [2 ^ 15 + 6], buf := [dripRec] },
    recRing := { Rec.reset with head := head, buf := [recEnt] } }

theorem wit_RingRowsComplete :
    let s := ringing 0
    let z := ringing 4032
    (s.rst.rootLost = false ∧ booted.drip.enable = false ∧ s.drip.enable = true ∧ s.drip.sampleUs ≠ 0 ∧ bit s.drip.kindMask 12 = true ∧
      bit s.drip.unitMask 0 = true ∧ s.drip.lossCount = 0 ∧ 32 * (s.drip.buf.length + 1) ≤ 262144 ∧
      32 * (s.drip.buf.length + 1) ≤ ringFree (s.drip.size * 65536) s.drip.head (getP s 0x0A09)) ∧
    (s.drip.buf = [dripRec] ∧ s.drip.status = 0 ∧ domState s 13 = .inService ∧ ((hostWrite s 0 0x8000 dripRec.bytes).2 matches .ok _) ∧
      ((hostWrite { s with keyway := State.reset.keyway } 0 0x8000 dripRec.bytes).2 matches .error _) ∧ booted.drip.buf = []) ∧
    (s.recRing.buf = [recEnt] ∧ s.recRing.status = 0 ∧ 0 + recEnt.bytes.length ≤ getP s 0x0A01 ∧
      ((hostWrite s 0 0x10000 recEnt.bytes).2 matches .ok _) ∧ getP z 0x0A01 < 4032 + recEnt.bytes.length ∧
      ((hostWrite z 0 (0x10000 + 4032) (padRecord recEnt.kt (4096 - 4032))).2 matches .ok _) ∧ booted.recRing.buf = []) := by decide +kernel

/-! ### The WellFormed smoke: for each check a term it refuses -/

/-- A packet that carries less than its header announces. -/
def badPkt : Packet := { pkt 0x01 with payloadLen := 1 }

theorem test_packet_wf_refuses :
    badPkt.wf = false ∧ (pkt 0x01 (List.replicate 64 0)).wf = true := by decide

theorem test_packet_wf_refuses_long (p : Packet) (h : 4096 < p.payloadLen.toNat) : p.wf = false := by
  have : ¬ p.payloadLen.toNat ≤ 4096 := by omega
  simp [Packet.wf, this]

theorem test_funnel_wf_refuses :
    let f := funnelPkt []
    f.wf = true ∧
    [{ f with funnel := 4 }, { f with slot := 64 }, { f with generation := 256 }, { f with step := 2 ^ 48 }, { f with firstToken := 4096 },
     { f with cls := 4 }, { f with body := [0] }].any FunnelPkt.wf = false := by decide

theorem test_funnel_wf_refuses_long (f : FunnelPkt) (h : 65472 < f.body.length) : f.wf = false := by
  have : ¬ f.body.length ≤ 65472 := by omega
  simp [FunnelPkt.wf, this]

theorem test_header_wf_refuses :
    let h := blankHdr
    h.wf = true ∧
    [{ h with ver := 16 }, { h with vc := 8 }, { h with op := 8 }, { h with cls := 4 }, { h with jobTag := 2 ^ 24 },
     { h with partKey := 65536 }, { h with srcSeat := 65536 }, { h with dstSeat := 65536 }, { h with seq := 2 ^ 32 },
     { h with ackSeq := 2 ^ 32 }, { h with ackVc := 8 }, { h with region := 16 }, { h with offset := 2 ^ 48 }, { h with length := 8193 },
     { h with nackCode := 8 }].any KftHdr.wf = false ∧
    (frameOf { h with vc := 8 } []).wf = false ∧ (frameOf h [0]).wf = false := by decide +kernel

/-- Operands the boundary can present, and ill-formed ones. -/
def okPkt : Packet := pkt 0x01
def okFunnel : FunnelPkt := funnelPkt []
def okFrame : Frame := frameOf blankHdr []
def okCount : CountMsg := countOf 1
def okCancel : CancelMsg := cancelOf 321
def okTile : TileHdr := tile 0x21 321
def okColl : CollHdr := collHdr 1 0
def okEdge : Edge := ⟨1, false, 0, false⟩
def okNotice : Notice := notice 0x51 321
def okReq : MgmtReq := request 1
def badFunnel : FunnelPkt := funnelPkt [0]
def badHdr : KftHdr := { blankHdr with vc := 8 }
def badFrame : Frame := frameOf blankHdr [0]

/-- For each check of `Instr.wf`, a command it refuses. Part 0. -/
def illFormed0 : List Instr :=
 [
  .echo badPkt, .identify badPkt, .paramGet badPkt .ok, .paramSet badPkt, .snapshot badPkt .ok, .jobOpen badPkt .ok,
  .jobClose badPkt, .jobStart badPkt, .layerLoad badPkt .ok, .keyringCommit badPkt, .tableLoad badPkt .ok, .stepRun badPkt,
  .batchCancel badPkt, .batchPreempt badPkt, .batchResume badPkt, .tensorCopy badPkt .ok 0, .gather badPkt .ok 0,
  .scatterAcc badPkt .ok [] 0, .groupDefine badPkt .ok, .collPost badPkt .ok, .fence badPkt, .pourStart badPkt, .pourAbort badPkt,
  .pourRestartAll badPkt, .pourResume badPkt, .mmuMap badPkt, .mmuUnmap badPkt, .mmuInval badPkt, .poolConfig badPkt .ok,
  .remoteInval badPkt, .timeCfg badPkt, .fwStage badPkt .ok signed, .fwActivate badPkt signed, .vaultRead badPkt .ok,
  .vaultPeriodClose badPkt .ok, .traceCfg badPkt .ok, .domainReset badPkt, .dumpRead badPkt .ok, .rollbackCommit badPkt,
  .keyInstall badPkt ⟨true, true⟩, .hingeEnable badPkt, .laneModeWrite badPkt]

/-- For each check of `Instr.wf`, a command it refuses. Part 1. -/
def illFormed1 : List Instr :=
 [
  .recEnable badPkt, .latchFramingError badPkt, .routerRowsPacket badFunnel, .sharedOutputPacket badFunnel,
  .answerReadyReceive badFunnel .ok, .answerReadyReturn badFunnel, .replayArrivalInject 4 blankHdr [] true .ok,
  .replayArrivalInject 0 badHdr [] true .ok, .funnelMalformed 4, .funnelPoisonedBeat 4 0, .funnelPoisonedBeat 0 64,
  .spoutLocalCopySent 64 0 0, .spoutLocalCopySent 0 4096 0, .spoutLocalCopySent 0 0 32, .mportReadData 32 0 0 true true,
  .mportReadData 0 64 0 true true, .mportReadData 0 0 4 true true, .mportWriteResponse 32 0 0, .mportWriteResponse 0 64 0,
  .mportWriteResponse 0 0 4, .mportTimeout true 32 0, .mportTimeout true 0 64, .kftFrameReceive 8 0 okFrame,
  .kftFrameReceive 0 4 okFrame, .kftFrameReceive 0 0 badFrame, .kftChunkApply 65536 0 0 .ok, .kftChunkApply 0 8 0 .ok,
  .kftAckReceive badHdr, .kftNackReceive badHdr, .kftAckDelayExpiry 65536 0, .kftAckDelayExpiry 0 8,
  .kftRetransmitTimeout 65536 0 0, .kftRetransmitTimeout 0 8 0, .pathHoldoffExpiry 32 0, .pathHoldoffExpiry 0 65536,
  .pfcFrameReceive 8 [] [], .countMessageReceive 8 okCount, .countExchangeTimeout (2 ^ 48), .cancelNoticeReceive 8 okCancel, .cancelAckSend 65536 0,
  .answerReceive 8 okTile [], .copyLanded 8 okTile 0, .workListEmit 0 16384]

/-- For each check of `Instr.wf`, a command it refuses. Part 2. -/
def illFormed2 : List Instr :=
 [
  .collTimeout 256 true, .collOperationComplete 256 true .ok, .collOperationStart 256 true, .remoteLoad 65536 0 0 0 0,
  .remoteLoad 0 0 65536 0 0, .remoteStore 65536 0 0 [], .flagStore 65536 0 0 [], .remoteAtomic 65536 0 0 0 0 0 0 0,
  .remoteAtomic 0 0 65536 0 0 0 0 0, .remoteAtomic 0 0 0 8 0 0 0 0, .remoteAtomic 0 0 0 0 2 0 0 0, .loadResponseReceive 65536 0 [], .loadResponseReceive 0 65536 [],
  .rld 16 0 0 0 0, .rld 0 8 0 0 0, .rld 0 0 0 65536 0, .rstr 16 0 0 0 0 0, .rstr 0 8 0 0 0 0, .rstr 0 0 65536 0 0 0,
  .rstf 16 0 0 0 0 0, .rstf 0 8 0 0 0 0, .rstf 0 0 65536 0 0 0, .ramo 16 0 0 0 0 0 0 0, .ramo 0 8 0 0 0 0 0 0,
  .ramo 0 0 8 0 0 0 0 0, .ramo 0 0 0 2 0 0 0 0, .ramo 0 0 0 0 65536 0 0 0, .rinv 16 0 true 0 0 0, .rinv 0 8 true 0 0 0,
  .rinv 0 0 true 65536 0 0, .laneTrainDone 8 0 true 0, .laneTrainDone 0 8 true 0, .laneTrainTimeout 8 0, .laneTrainTimeout 0 8,
  .laneLockChange 8 0 true, .laneLockChange 0 8 true, .linkAlignTimeout 32, .fecFailLimit 32, .remoteFaultReceive 32,
  .relinkHoldoffExpiry 32, .quiesceComplete 32, .stage1Complete 64, .stepScoringDone 64 .ok [], .stepScoringDone 0 .ok [⟨4, .weight, true⟩],
  .stepScoringDone 0 .ok [⟨0, .column 2 0, true⟩], .stepScoringDone 0 .ok [⟨0, .column 0 128, true⟩], .ptpEventMessage 256 .announce]

/-- For each check of `Instr.wf`, a command it refuses. Part 3. -/
def illFormed3 : List Instr :=
 [
  .dispatchStart 64, .dispatchAcked 64, .combineStart 64 0 .ok [], .combineStart 0 0 .ok [⟨4, .adder, true⟩], .combineDone 64 .ok, .preemptBoundary 64, .cancelTeardownComplete 64,
  .classSwitch 4 0 0 .dispatch, .classSwitch 0 64 0 .dispatch, .classSwitch 0 0 4 .dispatch,
  .classSwitch 0 0 0 (.engine 2 0 0 0 0), .classSwitch 0 0 0 (.engine 0 0 0 0 4096), .classSwitch 0 0 0 (.sfu 4096 0),
  .classSwitch 0 0 0 (.tumbler 4096), .classSwitch 0 0 0 (.tensor 4 0), .stepDeadlineExpiry 64, .unitHang 0 0 4, .portBackpressureExpiry 0 0 4,
  .firmwareHeartbeatMiss 4, .coreMemoryUncorrectable true 16, .coreMemoryUncorrectable false 4, .braceSealed 4, .canaryAlarm 4 0, .carafeListError 8 none,
  .pourDescriptorRead 32 .ok, .pourPipeGrant 8, .pourGranuleYield 32, .move 32 .ok 0, .fill 32 .ok 0, .cmp 32 .ok 0, .loop 32 .ok,
  .wait 32 .ok, .waitPoll 32 .ok, .waitTimeout 32, .signal 32 .ok, .endProg 32 .ok, .pourIllegalOpcode 32 .ok,
  .pourInstructionComplete 32, .pourPark 32, .pourWritebackComplete 32 .ok, .pourCancelDrained 32, .alignmentMarkersFound 32,
  .laneAlignmentLoss 32 0, .laneAlignmentLoss 0 8, .relinkHoldoffRestore 32, .pfcPauseExpiry 8 0, .pfcPauseExpiry 0 8]

/-- For each check of `Instr.wf`, a command it refuses. -/
def illFormed : List Instr := illFormed0 ++ illFormed1 ++ illFormed2 ++ illFormed3

theorem test_instr_wf_refuses : illFormed.any Instr.wf = false := by decide +kernel

/-- One command of each row that the boundary can present. Part 0. -/
def wellFormed0 : List Instr :=
 [
  .echo okPkt, .identify okPkt, .paramGet okPkt .ok, .paramSet okPkt, .snapshot okPkt .ok, .jobOpen okPkt .ok, .jobClose okPkt,
  .jobStart okPkt, .layerLoad okPkt .ok, .keyringCommit okPkt, .tableLoad okPkt .ok, .stepRun okPkt, .batchCancel okPkt,
  .batchPreempt okPkt, .batchResume okPkt, .tensorCopy okPkt .ok 0, .gather okPkt .ok 0, .scatterAcc okPkt .ok [] 0,
  .groupDefine okPkt .ok, .collPost okPkt .ok, .fence okPkt, .pourStart okPkt, .pourAbort okPkt, .pourRestartAll okPkt,
  .pourResume okPkt, .mmuMap okPkt, .mmuUnmap okPkt, .mmuInval okPkt, .poolConfig okPkt .ok, .remoteInval okPkt, .timeCfg okPkt,
  .fwStage okPkt .ok signed, .fwActivate okPkt signed, .vaultRead okPkt .ok, .vaultPeriodClose okPkt .ok, .traceCfg okPkt .ok,
  .domainReset okPkt, .dumpRead okPkt .ok, .rollbackCommit okPkt, .keyInstall okPkt ⟨true, true⟩, .hingeEnable okPkt,
  .laneModeWrite okPkt, .recEnable okPkt, .latchFramingError okPkt, .latchStrayBeat, .latchParityError [] true,
  .replyBeatTaken true false, .routerRowsPacket okFunnel]

/-- One command of each row that the boundary can present. Part 1. -/
def wellFormed1 : List Instr :=
 [
  .sharedOutputPacket okFunnel, .answerReadyReceive okFunnel .ok, .answerReadyReturn okFunnel,
  .replayArrivalInject 0 blankHdr [] true .ok, .funnelMalformed 0, .funnelPoisonedBeat 0 0, .spoutLocalCopySent 0 0 0,
  .mportReadData 0 0 0 true true, .mportWriteResponse 0 0 0, .mportTimeout true 0 0, .kftFrameReceive 0 0 okFrame,
  .kftChunkApply 0 0 0 .ok, .kftAckReceive blankHdr, .kftNackReceive blankHdr, .kftAckDelayExpiry 0 0,
  .kftRetransmitTimeout 0 0 0, .pathHoldoffExpiry 0 0, .pfcFrameReceive 0 [] [], .countMessageReceive 0 okCount,
  .countExchangeTimeout 0, .cancelNoticeReceive 0 okCancel, .cancelAckSend 0 0, .cancelAckReceive okCancel,
  .answerReceive 0 okTile [], .copyLanded 0 okTile 0, .workListEmit 0 0, .collChunkReceive okColl [] false,
  .collCreditReceive okEdge 0, .collTimeout 0 true, .collOperationComplete 0 true .ok, .collOperationStart 0 true,
  .startBarrierNotice okNotice, .calibrationRequest 0 0 okNotice 0 0, .calibrationReply 0 0 okNotice 0, .calibrationWindow 0,
  .releaseInstant, .remoteLoad 0 0 0 0 0, .remoteStore 0 0 0 [], .flagStore 0 0 0 [], .remoteAtomic 0 0 0 0 0 0 0 0,
  .loadResponseReceive 0 0 [], .rld 0 0 0 0 0, .rstr 0 0 0 0 0 0, .rstf 0 0 0 0 0 0, .ramo 0 0 0 0 0 0 0 0, .rinv 0 0 true 0 0 0,
  .managementRequest okReq signed, .ptpEventMessage 0 .announce]

/-- One command of each row that the boundary can present. Part 2. -/
def wellFormed2 : List Instr :=
 [
  .ptpSyncMissed, .laneTrainDone 0 0 true 0, .laneTrainTimeout 0 0, .laneLockChange 0 0 true, .linkAlignTimeout 0,
  .fecFailLimit 0, .remoteFaultReceive 0, .relinkHoldoffExpiry 0, .quiesceComplete 0, .stage1Complete 0, .stepScoringDone 0 .ok [],
  .dispatchStart 0, .dispatchAcked 0, .combineStart 0 0 .ok [], .combineDone 0 .ok, .preemptBoundary 0, .cancelTeardownComplete 0,
  .classSwitch 0 0 0 .dispatch, .loopSumPost 0, .biasUpdate 0, .commitLoadsDone, .epochTakesEffect, .jobDrainComplete, .crashDump .ok,
  .crashDumpComplete .ok, .stepDeadlineExpiry 0, .unitHang 0 0 0, .portBackpressureExpiry 0 0 0, .firmwareHeartbeatMiss 0,
  .controlStateError 0, .coreMemoryUncorrectable true 0, .domainFenceClosed 0, .domainDrainComplete 0, .domainDrainDeadline 0 0,
  .domainResetElapsed 0, .domainSelfCheck 0 true, .escalationWindowExpiry, .aoPorAssert, .aoPorRelease true 0, .porAssert,
  .porReleaseBoot .ok signed, .bootRetry .ok signed, .rootLockLoss, .pwrWarnActed, .braceInflightDone, .braceSealed 0,
  .pwrWarnClear, .braceHoldoffExpiry]

/-- One command of each row that the boundary can present. Part 3. -/
def wellFormed3 : List Instr :=
 [
  .pwrResetRise, .pwrResetFall true, .throttleChange 0, .vddAckRise, .vddAckTimeout, .marginPlanPeriodic, .canaryAlarm 0 0,
  .ceLimitReplan 0, .relaxPeriodExpiry, .measurementIntervalEnd ⟨[], [], [], []⟩, .vaultSealCheck true 0, .vaultNonceRefill,
  .patrolScrub 0 .clean, .carafeGrant, .carafeListError 0 none, .pourDescriptorRead 0 .ok, .pourPipeGrant 0, .pourGranuleYield 0,
  .move 0 .ok 0, .fill 0 .ok 0, .cmp 0 .ok 0, .loop 0 .ok, .wait 0 .ok, .waitPoll 0 .ok, .waitTimeout 0, .signal 0 .ok, .endProg 0 .ok,
  .pourIllegalOpcode 0 .ok, .pourInstructionComplete 0, .pourPark 0, .pourWritebackComplete 0 .ok, .pourCancelDrained 0,
  .pourBusErrorStop, .pourStopDrained, .dripSample, .dripRecordWritten .ok, .dripRingFault 0, .recordWritten .ok,
  .recordRingFault 0, .queuePoisonConsume .mgmt, .alignmentMarkersFound 0, .laneAlignmentLoss 0 0, .relinkHoldoffRestore 0,
  .marginExhaustedAdvisoryEnd, .creditCoalesceExpiry okEdge, .delayRequestInterval, .syncIntervalTransmit, .pfcPauseExpiry 0 0]

/-- One command of each row that the boundary can present. -/
def wellFormed : List Instr := wellFormed0 ++ wellFormed1 ++ wellFormed2 ++ wellFormed3

theorem test_instr_wf_admits : wellFormed.all Instr.wf = true ∧ wellFormed.length = 192 := by decide +kernel

/-! ### Small checks against values of the manual or of the standards it names -/

/-- The reply to a command taken first by the booted block: status and r0. -/
def replyTo (c : Instr) (s : State) : Option (Nat × Nat) := match step { s with pending := [c] } with
  | .next t => t.latch.replies.getLast?.map fun r => (r.status, r.r0)
  | _ => none

/-- The check string of the CRC catalogues, "123456789". -/
def nine : List Byte := [0x31, 0x32, 0x33, 0x34, 0x35, 0x36, 0x37, 0x38, 0x39]

/-- CRC-32C, of R102 and others, and CRC-64/ECMA-182 (R120): their published check values. -/
theorem test_crc_check_values : crc32c nine = 0xE3069283 ∧ crc64 nine = 0x6C40DF5F0B497347 := by decide +kernel

/-- AES-128 on the example of FIPS-197, appendix B. -/
theorem test_aes128_fips_example :
    aes128 (beBytes 16 0x2b7e151628aed2a6abf7158809cf4f3c) (beBytes 16 0x3243f6a8885a308d313198a2e0370734) =
      beBytes 16 0x3925841d02dc09fbdc118597196a0b32 := by decide +kernel

/-- R61 and R76: the version is checked before the opcode, the opcode before the length. -/
theorem test_header_statuses :
    replyTo (.echo { pkt 0x6F with hdrVersion := 1 }) booted = some (0x0103, 0) ∧ replyTo (.echo (pkt 0x6F)) booted = some (0x0104, 0) ∧
    replyTo (.identify (pkt 0x02 [0])) booted = some (0x0105, 0) := by decide +kernel

/-- R62: with no job, a job-scope opcode fails with ST_JOB_TAG. -/
theorem test_job_tag_without_job : replyTo (.fence (pkt 0x32)) booted = some (0x0202, 0) := by decide +kernel

/-- R74: a stale generation fails with ST_STALE_GEN and r0 carries the slot's generation, 0. -/
theorem test_stale_generation : replyTo (.stepRun (stepPkt 9)) runJob = some (0x0204, 0) := by decide +kernel

/-- R64: an asynchronous command answers ST_ASYNC first. -/
theorem test_commit_answers_async : replyTo (.keyringCommit (pkt 0x15 (p1 := 7) (job := 5))) runJob = some (0x0001, 0) := by decide +kernel

/-- R161: exp2 of an integer is exact; 2^3 and 2^−1. -/
theorem test_exp2_of_integers :
    (exp2R fp32 (.fin false 3 0) |> fp32.conv) = 0x41000000 ∧ (exp2R fp32 (.fin true 1 0) |> fp32.conv) = 0x3F000000 := by decide +kernel

/-- R216: kind, generation and source seat lie in bits 7..0, 23..16 and 111..96 of a tile header. -/
theorem test_tile_header_bits :
    let b := tileHdrBytes { tile 0x21 321 with generation := 9 }
    leAt b 0 1 = 0x21 ∧ leAt b 2 1 = 9 ∧ leAt b 12 2 = 321 ∧ tileHdrOf b = { tile 0x21 321 with generation := 9 } := by decide +kernel

/-- R254 and R271: fetch-add and compare-and-swap wrap at their width, and a failed comparison leaves the word. -/
theorem test_remote_atomics :
    atomicNew 0 32 0xFFFFFFFF 2 0 = 1 ∧ atomicNew 1 32 5 5 9 = 9 ∧ atomicNew 1 32 6 5 9 = 6 := by decide

end Sys2Proof.Tests
end

section
/-! PROOFS. A command that its own state check stops makes one reply and has no other effect; of these, JOB_OPEN while a job
exists. -/

namespace Sys2Proof.Machine

@[simp] theorem jobExists_takePacket (p : Packet) (s : State) : jobExists (takePacket p s) = jobExists s := by
  simp [jobExists]

/-- With every earlier check of R61 passed, the command's own state check decides. -/
theorem checkFields_eq_state {op : Nat} {p : Packet} {s : State} (h : Runs op p s) {c : Checks} {t : State}
    (hl : p.payloadLen.toNat ≤ 4096) (hlen : c.len p.payloadLen.toNat = true)
    (hj : jobScope op = true → jobExists t = true ∧ p.jobTag.toNat = t.job.tag) (hr : c.range = true)
    (ha : jobScope op = true → jobAdmits t op = true) : checkFields op p c t = c.state := by
  unfold checkFields
  rw [if_neg (by simp [h.ver]), if_neg (by simp [h.code]), if_neg (by simp [hl, hlen]), if_neg (fun ⟨hs, hn⟩ => hn (hj hs)),
    if_neg (by simp [hr]), if_neg (fun ⟨hs, hn⟩ => by simp [ha hs] at hn)]

/-- Where the state check fails with a status alone, the checks of R61 fail with one, that of the first that fails. -/
theorem checkFields_some {op st : Nat} {p : Packet} {c : Checks} {t : State} (hs : c.state = some (st, 0, 0)) :
    ∃ st', checkFields op p c t = some (st', 0, 0) := by
  unfold checkFields
  rw [hs]
  split_ifs <;> exact ⟨_, rfl⟩

/-- A failed check is the command's single reply and has no other effect (R61). -/
theorem checked_refused {op order st r0 r1 : Nat} {async : Bool} {p : Packet} {io : Io} {c : Checks} {ok : State → State}
    {t : State} (h : checkFields op p c t = some (st, r0, r1)) :
    checked op async p order io c ok t = replyOne p order st r0 r1 0 0 t := by
  simp [checked, h]

/-- JOB_OPEN starts on the state in which its packet is taken. -/
theorem exec_jobOpen {p : Packet} {s : State} (h : Runs 0x10 p s) (io : Io) :
    exec (.jobOpen p io) s = .next (startJobOpen p (Ext.ofIo io) s.latch.order (takePacket p s)) := by
  change execJobOpen p io s = _
  rw [execJobOpen, live_next h.lock, takeCmd_start h]

/-- While a job exists, JOB_OPEN is refused, whatever else its packet holds (R3). -/
theorem startJobOpen_refused {p : Packet} {t : State} (he : jobExists t = true) (x : Ext) (order : Nat) :
    ∃ st, startJobOpen p x order t = replyOne p order st 0 0 0 0 t := by
  unfold startJobOpen asyncCmd
  rw [if_pos he]
  exact (checkFields_some rfl).imp fun st => checked_refused

/-- A JOB_OPEN that is well formed is refused for the job that exists alone (R3, R61). -/
theorem startJobOpen_wrongState {p : Packet} {s t : State} (h : Runs 0x10 p s) (hlen : p.payloadLen.toNat = 128)
    (hr : jobRange (jobDescOf (pBody p)) p.jobTag.toNat = true) (he : jobExists t = true) (x : Ext) (order : Nat) :
    startJobOpen p x order t = replyOne p order 0x0201 0 0 0 0 t := by
  have hscope : jobScope 0x10 = false := by decide
  unfold startJobOpen asyncCmd
  rw [if_pos he]
  exact checked_refused (checkFields_eq_state h (by omega) (by simp [hlen]) (by simp [hscope]) hr (by simp [hscope]))

/-- Settles O35: of the checks of R61, that for a job's existence fails at the latest, and every failure before it is one
reply too; a reply writes nothing of the job. -/
theorem jobOpenRefusedWhileAJobExists : Obligations.JobOpenRefusedWhileAJobExists := by
  unfold Obligations.JobOpenRefusedWhileAJobExists
  intro p io s hruns hjob
  have hexec := exec_jobOpen hruns io
  have htaken : jobExists (takePacket p s) = true := by simpa using hjob
  constructor
  · obtain ⟨st, hst⟩ := startJobOpen_refused (p := p) htaken (Ext.ofIo io) s.latch.order
    rw [hst] at hexec
    exact ⟨_, hexec, by simp⟩
  · intro hlen hrange
    rw [startJobOpen_wrongState hruns hlen hrange htaken] at hexec
    exact ⟨0x0201, by decide, hexec⟩

end Sys2Proof.Machine
end

section
/-! PROOFS. STEP_RUN that its state check stops: with every earlier check of R61 passed, one reply with what that check
answers; of these, the stale generation. -/

namespace Sys2Proof.Machine

@[simp] theorem slotAt_takePacket (p : Packet) (s : State) (i : Nat) : slotAt (takePacket p s) i = slotAt s i := by
  simp [slotAt]

@[simp] theorem slotAt_replyOne (p : Packet) (order status r0 r1 r2 r3 : Nat) (s : State) (i : Nat) :
    slotAt (replyOne p order status r0 r1 r2 r3 s) i = slotAt s i := by
  simp [slotAt]

@[simp] theorem stepTaken_takePacket (p : Packet) (s : State) (step : Nat) :
    stepTaken (takePacket p s) step = stepTaken s step := by
  simp [stepTaken]

@[simp] theorem jobAdmits_takePacket (p : Packet) (s : State) (op : Nat) :
    jobAdmits (takePacket p s) op = jobAdmits s op := by
  simp [jobAdmits]

@[simp] theorem layersNow_takePacket (p : Packet) (s : State) : layersNow (takePacket p s) = layersNow s := by
  unfold layersNow epochNow
  rw [takePacket_ep]

@[simp] theorem layersNext_takePacket (p : Packet) (s : State) : layersNext (takePacket p s) = layersNext s := by
  simp [layersNext]

@[simp] theorem underCommit_takePacket (p : Packet) (s : State) (step : Nat) :
    underCommit (takePacket p s) step = underCommit s step := by
  simp [underCommit]

@[simp] theorem epochFor_takePacket (p : Packet) (s : State) (step : Nat) :
    epochFor (takePacket p s) step = epochFor s step := by
  simp [epochFor]

@[simp] theorem layerLoaded_takePacket (p : Packet) (s : State) (step layer : Nat) :
    layerLoaded (takePacket p s) step layer = layerLoaded s step layer := by
  simp [layerLoaded]

/-- The checks of the job's existence, tag and state of a job-scope command that runs pass as well, so its own state check
decides. -/
theorem checkFields_eq_state_of_runsJob {op : Nat} {p : Packet} {s : State} (h : RunsJob op p s) {c : Checks}
    (hl : p.payloadLen.toNat ≤ 4096) (hlen : c.len p.payloadLen.toNat = true) (hr : c.range = true) :
    checkFields op p c (takePacket p s) = c.state :=
  checkFields_eq_state h.toRuns hl hlen (fun _ => ⟨by simp [h.job], by simp [h.tag]⟩) hr (fun _ => by simp [h.admits])

/-- STEP_RUN starts on the state in which its packet is taken. -/
theorem exec_stepRun {p : Packet} {s : State} (h : Runs 0x20 p s) :
    exec (.stepRun p) s = .next (startStepRun p Ext.none s.latch.order (takePacket p s)) := by
  change execStepRun p s = _
  rw [execStepRun, live_next h.lock, takeCmd_start h]

/-- A STEP_RUN that is well formed and in range is refused with the answer of its state check, if that fails (R61). -/
theorem startStepRun_refused {p : Packet} {s : State} (h : RunsJob 0x20 p s)
    (hlen : p.payloadLen.toNat = if (runArgs p).inSrc then 128 else 64)
    (hrange : (runArgs p).nTok ≤ 4096 ∧ (runArgs p).nTok ≤ s.job.desc.bMax ∧ (runArgs p).layer < s.job.desc.nLayers)
    (hloaded : layerLoaded s (runArgs p).step (runArgs p).layer = true) {st r0 r1 : Nat}
    (hstate : runState (takePacket p s) (runArgs p) = some (st, r0, r1)) (x : Ext) (order : Nat) :
    startStepRun p x order (takePacket p s) = replyOne p order st r0 r1 0 0 (takePacket p s) := by
  have hshort : p.payloadLen.toNat ≤ 4096 := by
    rw [hlen]
    split <;> decide
  unfold startStepRun
  refine checked_refused (.trans (checkFields_eq_state_of_runsJob h hshort ?length ?range) hstate)
  case length => simpa using hlen
  case range => simpa [hloaded] using hrange

/-- Of the state checks of STEP_RUN, the generation is the first after the step order (R61, R74). -/
theorem runState_staleGen {s : State} {a : RunArgs} (horder : stepTaken s a.step = false)
    (hgen : (slotAt s a.slot).gen ≠ a.gen) : runState s a = some (0x0204, (slotAt s a.slot).gen, 0) := by
  simp [runState, horder, hgen]

/-- Settles O40: taking the packet changes neither the slot nor the steps taken, so the state check answers with the slot's
current generation; a reply writes nothing of the slots. -/
theorem staleGenerationRefused : Obligations.StaleGenerationRefused := by
  unfold Obligations.StaleGenerationRefused
  intro p s hruns a hlen hmax hbatch hlayer hloaded horder hgen
  have hstate : runState (takePacket p s) a = some (0x0204, (slotAt s a.slot).gen, 0) := by
    simpa using runState_staleGen (s := takePacket p s) (a := a) (by simpa using horder) (by simpa using hgen)
  constructor
  · rw [exec_stepRun hruns.toRuns,
      startStepRun_refused hruns hlen ⟨hmax, hbatch, hlayer⟩ hloaded hstate]
  · simp

end Sys2Proof.Machine
end

section
/-! PROOFS. The first fault of a job (R90, R407): the job is Faulted, and its fatal event is queued; what ends with the job
takes no event back. -/

namespace Sys2Proof.Machine

/-- A fatal event is queued, or held by its unit while the queue is full (R81). -/
theorem evQueue_fatal {e : Event} (h : e.fatal = true) (s : State) :
    e ∈ (evQueue e s).ev.fatal ∨ e ∈ (evQueue e s).ev.waitFatal := by
  rw [evQueue, if_pos h]
  split_ifs with hroom
  · exact .inl (by simp)
  · exact .inr (by simp)

theorem evSend_fatal {e : Event} (h : e.fatal = true) (s : State) :
    e ∈ (evSend e s).ev.fatal ∨ e ∈ (evSend e s).ev.waitFatal :=
  evQueue_fatal h _

theorem foldl_ev {α : Type} {f : State → α → State} (hf : ∀ t x, (f t x).ev = t.ev) (l : List α) (s : State) :
    (l.foldl f s).ev = s.ev :=
  List.foldlRecOn (motive := fun t => t.ev = s.ev) _ _ rfl fun t ht x _ => (hf t x).trans ht

@[simp] theorem logAdd_ev (kind body : Nat) (s : State) : (logAdd kind body s).ev = s.ev := by
  unfold logAdd logPut
  extract_lets
  split_ifs <;> rfl

@[simp] theorem finishStep_ev (i : Nat) (c : StepCtx) (status : Nat) (s : State) : (finishStep i c status s).ev = s.ev := by
  simp [finishStep]

@[simp] theorem endOpen_ev (status : Nat) (o : OpenCmd) (s : State) : (endOpen status o s).ev = s.ev := by
  unfold endOpen
  split <;> simp

@[simp] theorem endHeld_ev (h : Held) (status : Nat) (s : State) : (endHeld h status s).ev = s.ev := by
  unfold endHeld
  split_ifs <;> simp

@[simp] theorem endHeldAll_ev (p : Held → Bool) (status : Nat) (s : State) : (endHeldAll p status s).ev = s.ev :=
  foldl_ev (fun t h => endHeld_ev h status t) _ _

@[simp] theorem vaultWrite_ev (s : State) : (vaultWrite s).ev = s.ev := by
  unfold vaultWrite
  split <;> rfl

@[simp] theorem vaultSettle_ev (cancelled : Bool) (c : VCounts) (s : State) : (vaultSettle cancelled c s).ev = s.ev := by
  simp [vaultSettle]

@[simp] theorem ctxSettle_ev (cancelled : Bool) (i : Nat) (s : State) : (ctxSettle cancelled i s).ev = s.ev := by
  unfold ctxSettle
  split <;> simp [ctxMap]

@[simp] theorem settleAll_ev (s : State) : (settleAll s).ev = s.ev := by
  have hslot (t : State) (i : Nat) : (if (slotAt t i).ctx.isSome then ctxSettle true i t else t).ev = t.ev := by
    split_ifs <;> simp
  have hsource (t : State) (x : DutySrc) : (if x.held.isZero then t else vaultSettle true x.held t).ev = t.ev := by
    split_ifs <;> simp
  simp only [settleAll, foldl_ev hslot, foldl_ev hsource]

@[simp] theorem endWaits_ev (p : CellWait → Bool) (s : State) : (endWaits p s).ev = s.ev :=
  foldl_ev (fun t _ => ctrAdd_ev _ _ t) _ _

@[simp] theorem enterFaulted_ev (supply : Bool) (e : Event) (s : State) : (enterFaulted supply e s).ev = s.ev := by
  unfold enterFaulted
  extract_lets held ended waits
  have hheld : held.ev = s.ev := by
    unfold held
    split <;> simp
  have hended : ended.ev = s.ev :=
    (foldl_ev (fun t c => endOpen_ev _ c t) _ _).trans hheld
  simpa [waits] using hended

@[simp] theorem enterFaulted_st (supply : Bool) (e : Event) (s : State) : (enterFaulted supply e s).job.st = .faulted := rfl

/-- The fault of a job that has not faulted yet is its first (R407). -/
theorem jobFault_first {s : State} (hopen : s.job.st ≠ .closed) (hfirst : s.job.st ≠ .faulted) (unit status detail : Nat)
    (w : Where) : jobFault unit status detail w s =
      let e := faultEvent s 1 unit (status + detail * 2 ^ 16) w
      enterFaulted false e (logAdd 0x0001 e.word (evSend e s)) := by
  unfold jobFault
  split
  case h_1 hst => exact absurd hst hopen
  case h_2 hst => exact absurd hst hfirst
  case h_3 => rfl

theorem jobFault_first_faults {s : State} (hopen : s.job.st ≠ .closed) (hfirst : s.job.st ≠ .faulted)
    (unit status detail : Nat) (w : Where) : (jobFault unit status detail w s).job.st = .faulted := by
  simp [jobFault_first hopen hfirst]

theorem jobFault_first_emits {s : State} (hopen : s.job.st ≠ .closed) (hfirst : s.job.st ≠ .faulted)
    (unit status detail : Nat) (w : Where) :
    faultEvent s 1 unit (status + detail * 2 ^ 16) w ∈ (jobFault unit status detail w s).ev.fatal ∨
      faultEvent s 1 unit (status + detail * 2 ^ 16) w ∈ (jobFault unit status detail w s).ev.waitFatal := by
  simp only [jobFault_first hopen hfirst, enterFaulted_ev, logAdd_ev]
  exact evSend_fatal rfl s

end Sys2Proof.Machine
end

section
/-! PROOFS. What KFT's sending writes (R257 to R267): its own state and the counters, and nothing else. -/

namespace Sys2Proof.Machine

/-- `t` is `s` but for KFT's own state and the counters. -/
def KftOnly (s t : State) : Prop := ∃ kft counters, t = { s with kft := kft, counters := counters }

theorem KftOnly.refl (s : State) : KftOnly s s := ⟨s.kft, s.counters, rfl⟩

theorem KftOnly.trans {s t u : State} (hst : KftOnly s t) (htu : KftOnly t u) : KftOnly s u := by
  obtain ⟨_, _, rfl⟩ := hst
  obtain ⟨kft, counters, rfl⟩ := htu
  exact ⟨kft, counters, rfl⟩

theorem KftOnly.job {s t : State} (h : KftOnly s t) : t.job = s.job := by
  obtain ⟨_, _, rfl⟩ := h
  rfl

theorem KftOnly.ev {s t : State} (h : KftOnly s t) : t.ev = s.ev := by
  obtain ⟨_, _, rfl⟩ := h
  rfl

/-- What each step of a fold keeps, the fold keeps. -/
theorem KftOnly.foldl {α : Type} {f : State → α → State} (hf : ∀ t x, KftOnly t (f t x)) (l : List α) (s : State) :
    KftOnly s (l.foldl f s) :=
  List.foldlRecOn (motive := KftOnly s) _ _ (.refl s) fun t ht x _ => ht.trans (hf t x)

theorem ctrInc_kftOnly (i : Nat) (s : State) : KftOnly s (ctrInc i s) := ⟨_, _, rfl⟩

theorem setPath_kftOnly (p : Path) (s : State) : KftOnly s (setPath p s) := ⟨_, _, rfl⟩

theorem putChunk_kftOnly (c : TxChunk) (s : State) : KftOnly s (putChunk c s) := ⟨_, _, rfl⟩

theorem frameOut_kftOnly (k : Nat) (h : KftHdr) (n : Nat) (s : State) : KftOnly s (frameOut k h n s) := ⟨_, _, rfl⟩

theorem carryAck_kftOnly (seat : Nat) (h : KftHdr) (s : State) : KftOnly s (carryAck seat h s).1 := by
  unfold carryAck
  split
  · exact ⟨_, _, rfl⟩
  · exact .refl s

/-- A chunk goes out with an acknowledgement, as a frame that is counted, again if it was sent before. -/
theorem transmit_kftOnly (c : TxChunk) (s : State) : KftOnly s (transmit c s) := by
  unfold transmit
  extract_lets dst _ r rto framed counted
  have hframed : KftOnly s framed := (carryAck_kftOnly _ _ s).trans (frameOut_kftOnly ..)
  have hcounted : KftOnly framed counted := by
    unfold counted
    split_ifs
    · exact .refl framed
    · exact ctrInc_kftOnly ..
  exact (hframed.trans hcounted).trans (putChunk_kftOnly ..)

theorem placeChunk_kftOnly (s : State) (c : TxChunk) : KftOnly s (placeChunk s c) := by
  unfold placeChunk
  split
  · extract_lets
    split
    · exact .refl s
    · exact (putChunk_kftOnly ..).trans (setPath_kftOnly ..)
  · exact .refl s

theorem placeCtl_kftOnly (s : State) (w : CtlWait) : KftOnly s (placeCtl s w).1 := by
  unfold placeCtl
  split
  · exact .refl s
  · extract_lets
    split
    · exact .refl s
    · exact setPath_kftOnly ..

/-- Each ack or nack frame is placed; then it goes out, or waits on. -/
theorem pumpCtl_kftOnly (s : State) : KftOnly s (pumpCtl s) := by
  refine .trans ⟨_, _, rfl⟩ (.foldl (fun t w => (placeCtl_kftOnly t w).trans ?_) _ _)
  dsimp only
  split
  · split_ifs <;> exact ⟨_, _, rfl⟩
  · exact ⟨_, _, rfl⟩

theorem pumpTx_kftOnly (s : State) : KftOnly s (pumpTx s) :=
  ((pumpCtl_kftOnly s).trans (.foldl placeChunk_kftOnly _ _)).trans
    (.foldl (fun _ _ => .foldl (fun u c => transmit_kftOnly c u) _ _) _ _)

end Sys2Proof.Machine
end

section
/-! PROOFS. The retransmit time-out of a chunk whose retries are exhausted (R261). -/

namespace Sys2Proof.Machine

/-- Where a chunk's retries are exhausted, the job faults instead of sending it again; what else waits is sent (R261). -/
theorem resend_exhausted {c : TxChunk} {s : State} (h : exhausted s c = true) :
    resend c s = pumpTx (jobFault (0x20 + c.link / 4) 0x0405 (c.hdr.dstSeat % 65536) Where.none s) := by
  simp [resend, resendAll, requeue, h]

/-- KFT_RETRANSMIT_TIMEOUT of such a chunk, in a job that has not faulted. -/
theorem exec_kftRetransmitTimeout_exhausted {dst vc seq : Nat} {c : TxChunk} {s : State} (hlock : s.rst.rootLost = false)
    (hchunk : chunkAt s dst vc seq = some c) (hopen : s.job.st ≠ .closed) (hfirst : s.job.st ≠ .faulted)
    (hsent : 0 < c.tries) (h : exhausted s c = true) :
    exec (.kftRetransmitTimeout dst vc seq) s =
      .next (pumpTx (jobFault (0x20 + c.link / 4) 0x0405 (c.hdr.dstSeat % 65536) Where.none s)) := by
  change execKftRetransmitTimeout dst vc seq s = _
  have hjob : jobExists s = true := decide_eq_true hopen
  rw [execKftRetransmitTimeout, live_next hlock, hchunk]
  simp [hfirst, hjob, hsent, h, resend_exhausted h]

theorem chunkAt_dstSeat {s : State} {dst vc seq : Nat} {c : TxChunk} (h : chunkAt s dst vc seq = some c) :
    c.hdr.dstSeat = dst := by
  have hkey := List.find?_some h
  exact (of_decide_eq_true hkey).1

/-- Settles O55: with retry_max + 1 transmissions the retries are exhausted, so the time-out is the job's first fault; the
sending that follows writes only KFT's state and the counters, so job and event stand. -/
theorem retriesExhaustedEndTheJob : Obligations.RetriesExhaustedEndTheJob := by
  unfold Obligations.RetriesExhaustedEndTheJob
  intro dst vc seq c s hlock hchunk hopen hfirst htries hdst
  have hexhausted : exhausted s c = true := decide_eq_true htries.ge
  refine ⟨_, exec_kftRetransmitTimeout_exhausted hlock hchunk hopen hfirst (by omega) hexhausted, ?_⟩
  have hpump := pumpTx_kftOnly (jobFault (0x20 + c.link / 4) 0x0405 (c.hdr.dstSeat % 65536) Where.none s)
  have hseat : c.hdr.dstSeat % 65536 = dst := by
    rw [chunkAt_dstSeat hchunk, Nat.mod_eq_of_lt hdst]
  beta_reduce
  rw [hpump.job, hpump.ev, hseat]
  refine ⟨jobFault_first_faults hopen hfirst .., _, jobFault_first_emits hopen hfirst .., rfl, rfl, rfl, ?status, ?seat⟩
  case status =>
    change (0x0405 + dst * 2 ^ 16) % 2 ^ 16 = 0x0405
    omega
  case seat =>
    change (0x0405 + dst * 2 ^ 16) / 2 ^ 16 = dst
    omega

end Sys2Proof.Machine
end

section
/-! PROOFS. What leaves Pour's channels and host memory as they were: the translation of an access, which writes the cache
and mmu.last_fault alone (R336, R337); the freeing of its staging cells (R323, R375); and the end of MMU commands that
waited (R338). -/

namespace Sys2Proof.Machine

/-- Pour and host memory stand in `t` as in `s`. -/
structure KeepsPour (s t : State) : Prop where
  pour : t.pour = s.pour
  hostMem : t.hostMem = s.hostMem

namespace KeepsPour

theorem refl (s : State) : KeepsPour s s := ⟨rfl, rfl⟩

theorem trans {s t u : State} (hst : KeepsPour s t) (htu : KeepsPour t u) : KeepsPour s u :=
  ⟨htu.pour.trans hst.pour, htu.hostMem.trans hst.hostMem⟩

/-- What each step of a fold keeps, the fold keeps. -/
theorem foldl {α : Type} {f : State → α → State} (hf : ∀ t x, KeepsPour t (f t x)) (l : List α) (s : State) :
    KeepsPour s (l.foldl f s) :=
  List.foldlRecOn (motive := KeepsPour s) _ _ (.refl s) fun t ht x _ => ht.trans (hf t x)

theorem chAt_eq {s t : State} (h : KeepsPour s t) (c : Nat) : chAt t c = chAt s c := by
  rw [chAt, h.pour, chAt]

end KeepsPour

/-! ### Translation -/

theorem recordFault_keepsPour (f : XFault) (s : State) : KeepsPour s (recordFault f s) := by
  unfold recordFault
  exact ⟨rfl, rfl⟩

theorem tlbFill_keepsPour (t : Tlb) (up : List Upper) (s : State) : KeepsPour s (tlbFill t up s) := ⟨rfl, rfl⟩

theorem xlate_keepsPour (s : State) (ctx va : Nat) (write : Bool) : KeepsPour s (xlate s ctx va write).1 := by
  unfold xlate
  extract_lets page fail
  have hfail (kind level : Nat) : KeepsPour s (fail kind level).1 := recordFault_keepsPour ..
  split
  case h_1 => exact hfail _ _
  case h_2 =>
    split
    case h_1 =>
      split_ifs
      · exact .refl s
      · exact hfail _ _
      · exact .refl s
      · exact hfail _ _
    case h_2 =>
      extract_lets walk
      clear_value walk
      cases walk with
      | page t up => exact tlbFill_keepsPour ..
      | bad kind level => exact hfail kind level

theorem xlateRun_keepsPour (fuel : Nat) (s : State) (ctx va len : Nat) (write : Bool) (acc : List Piece) :
    KeepsPour s (xlateRun fuel s ctx va len write acc).1 := by
  induction fuel generalizing s va len acc with
  | zero => exact .refl s
  | succ fuel ih =>
    rw [xlateRun]
    split_ifs
    · exact .refl s
    · have hpage := xlate_keepsPour s ctx va write
      split
      case h_1 hfailed => rwa [hfailed] at hpage
      case h_2 hmapped =>
        rw [hmapped] at hpage
        exact hpage.trans (ih ..)

theorem xlateRange_keepsPour (s : State) (ctx va len : Nat) (write : Bool) :
    KeepsPour s (xlateRange s ctx va len write).1 :=
  xlateRun_keepsPour ..

/-- A read that translates is the bytes of its pieces. -/
theorem hostRead_ok {s u : State} {ctx va n : Nat} {b : List Byte} (h : hostRead s ctx va n = (u, .ok b)) :
    ∃ l, xlateRange s ctx va n false = (u, .ok l) ∧ readPieces u.hostMem l = b := by
  unfold hostRead at h
  split at h
  case h_1 => cases h
  case h_2 t l hl =>
    cases h
    exact ⟨l, hl, rfl⟩

/-! ### Staging cells and MMU commands -/

theorem spCount_keepsPour (a n : Nat) (s : State) : KeepsPour s (spCount a n s) := by
  unfold spCount
  split_ifs
  · exact ⟨rfl, rfl⟩
  · exact .refl s

theorem spWrite_keepsPour (a : Nat) (bs : List Byte) (s : State) : KeepsPour s (spWrite a bs s) := by
  unfold spWrite
  refine .trans ?_ (spCount_keepsPour ..)
  exact ⟨rfl, rfl⟩

/-- The link of a free cell lies in the scratchpad, not in host memory (R323). -/
theorem freeCell_keepsPour (h : CellHeld) (s : State) : KeepsPour s (freeCell h s) := by
  unfold freeCell
  extract_lets pool cells freed
  have hlink : KeepsPour freed (linkCell h.addr pool.free.head? freed) := spWrite_keepsPour ..
  exact ⟨hlink.pour, hlink.hostMem⟩

theorem endWaits_keepsPour (p : CellWait → Bool) (s : State) : KeepsPour s (endWaits p s) := by
  unfold endWaits
  refine .trans ?_ (.foldl (fun _ _ => ⟨ctrAdd_pour .., ctrAdd_hostMem ..⟩) _ _)
  exact ⟨rfl, rfl⟩

theorem unstage_keepsPour (c : Nat) (s : State) : KeepsPour s (unstage c s) :=
  (endWaits_keepsPour ..).trans (.foldl (fun t h => freeCell_keepsPour h t) _ _)

theorem mmuRetire_keepsPour (s : State) : KeepsPour s (mmuRetire s) := by
  unfold mmuRetire
  refine .trans ?_ (.foldl (fun _ _ => ⟨finish_pour .., finish_hostMem ..⟩) _ _)
  exact ⟨rfl, rfl⟩

theorem dripAt_keepsPour (kind unit payload : Nat) (s : State) : KeepsPour s (dripAt kind unit payload s) :=
  ⟨dripAt_pour .., dripAt_hostMem ..⟩

end Sys2Proof.Machine
end

section
/-! PROOFS. A change to one Pour channel: what that channel then is, and that every other channel and host memory stand. -/

namespace Sys2Proof.Machine

/-- In `t` channel `c` is `x`, and every other channel and host memory are as in `s`. -/
structure ChSet (c : Nat) (x : PourCh) (s t : State) : Prop where
  same : chAt t c = x
  other : ∀ d, d ≠ c → chAt t d = chAt s d
  hostMem : t.hostMem = s.hostMem
  length : t.pour.ch.length = s.pour.ch.length

/-- What keeps Pour may come before the change. -/
theorem KeepsPour.trans_chSet {c : Nat} {x : PourCh} {s t u : State} (hst : KeepsPour s t) (h : ChSet c x t u) :
    ChSet c x s u where
  same := h.same
  other d hd := (h.other d hd).trans (hst.chAt_eq d)
  hostMem := h.hostMem.trans hst.hostMem
  length := by rw [h.length, hst.pour]

/-- What keeps Pour may come after the change. -/
theorem ChSet.trans_keepsPour {c : Nat} {x : PourCh} {s t u : State} (h : ChSet c x s t) (htu : KeepsPour t u) :
    ChSet c x s u where
  same := (htu.chAt_eq c).trans h.same
  other d hd := (htu.chAt_eq d).trans (h.other d hd)
  hostMem := htu.hostMem.trans h.hostMem
  length := by rw [htu.pour, h.length]

/-- Of two changes to a channel the later one stands. -/
theorem ChSet.trans {c : Nat} {x y : PourCh} {s t u : State} (hst : ChSet c x s t) (htu : ChSet c y t u) : ChSet c y s u where
  same := htu.same
  other d hd := (htu.other d hd).trans (hst.other d hd)
  hostMem := htu.hostMem.trans hst.hostMem
  length := htu.length.trans hst.length

theorem setCh_chSet {c : Nat} {s : State} (hc : c < s.pour.ch.length) (x : PourCh) : ChSet c x s (setCh c x s) where
  same := by simp [chAt, setCh, hc]
  other d hd := by simp [chAt, setCh, List.getElem?_set_ne hd.symm]
  hostMem := rfl
  length := by simp [setCh]

theorem chMap_chSet {c : Nat} {s : State} (hc : c < s.pour.ch.length) (f : PourCh → PourCh) :
    ChSet c (f (chAt s c)) s (chMap c f s) :=
  setCh_chSet hc _

/-- Entering a state changes the channel's state alone. -/
theorem chMove_chSet {c : Nat} {s : State} (hc : c < s.pour.ch.length) (st : PourState) :
    ChSet c { chAt s c with st := st } s (chMove c st s) :=
  (chMap_chSet hc fun x => { x with st := st }).trans_keepsPour ((mmuRetire_keepsPour _).trans (dripAt_keepsPour ..))

/-- A channel that is changed, gives back its staging cells and enters a state. -/
theorem chMove_unstage_chMap_chSet {c : Nat} {s : State} (hc : c < s.pour.ch.length) (st : PourState) (f : PourCh → PourCh) :
    ChSet c { f (chAt s c) with st := st } s (chMove c st (unstage c (chMap c f s))) := by
  have hmapped := (chMap_chSet hc f).trans_keepsPour (unstage_keepsPour c _)
  have hmoved := chMove_chSet (s := unstage c (chMap c f s)) (by rwa [hmapped.length]) st
  rw [hmapped.same] at hmoved
  exact hmapped.trans hmoved

/-- What an ending with a status writes of the channel `x`: its pipe released, nothing in flight, its write-back begun
(R368). -/
def PourCh.ended (x : PourCh) (status : Nat) : PourCh :=
  { x with status := status, hold := false, busy := false, waiting := false, waitFrom := none, pending := none, wb := true }

/-- A channel that ends keeps its pc, and nothing of another channel or of host memory changes (R368). -/
theorem pourDone_chSet {c : Nat} {s : State} (hc : c < s.pour.ch.length) (status : Nat) :
    ChSet c { (chAt s c).ended status with st := .done } s (pourDone c status s) := by
  unfold pourDone
  exact chMove_unstage_chMap_chSet hc .done (·.ended status)

end Sys2Proof.Machine
end

section
/-! PROOFS. An instruction row at the instruction a channel has fetched; of these, the illegal opcode (R349). -/

namespace Sys2Proof.Machine

theorem PourAt.keepsPour {ch op : Nat} {b : List Byte} {u s : State} (h : PourAt ch op b u s) : KeepsPour s u := by
  obtain ⟨l, hl, -⟩ := hostRead_ok h.fetched
  have hrange := xlateRange_keepsPour s (chAt s ch).ctx ((chAt s ch).progVa + 32 * (chAt s ch).pc) 32 false
  rwa [hl] at hrange

/-- A row for the opcode of the instruction at pc runs on its bytes, from the state its fetch leaves. -/
theorem pourInsn_at {ch op : Nat} {ops : List Nat} {b : List Byte} {u s : State} (h : PourAt ch op b u s) (hop : op ∈ ops)
    (f : List Byte → List Piece → State → State) : ∃ l, pourInsn ch ops f s = f b l u := by
  obtain ⟨l, hl, hb⟩ := hostRead_ok h.fetched
  refine ⟨l, ?_⟩
  unfold pourInsn
  extract_lets x
  rw [if_pos ⟨h.chan, h.running, h.hold, h.busy, h.waiting, h.pending, h.runs⟩, hl]
  dsimp only
  rw [hb, h.code, if_pos hop]

/-- POUR_ILLEGAL_OPCODE of such an instruction ends the channel with ST_BAD_IMAGE (R349). -/
theorem exec_pourIllegalOpcode {ch op : Nat} {b : List Byte} {u s : State} (h : PourAt ch op b u s)
    (hop : op = 0 ∨ (8 ≤ op ∧ op ≤ 15)) : exec (.pourIllegalOpcode ch .ok) s = .next (pourDone ch 0x0108 u) := by
  have hrow : op ∈ [0, 8, 9, 10, 11, 12, 13, 14, 15] := by
    simp only [List.mem_cons, List.not_mem_nil, or_false]
    omega
  obtain ⟨l, hrun⟩ := pourInsn_at h hrow fun _ l s => pourIo ch .ok l [] [] (pourDone ch 0x0108) s
  change execPourIllegalOpcode ch .ok s = _
  rw [execPourIllegalOpcode, live_next h.lock, hrun, pourIo]

/-- Settles O34: the fetch keeps Pour and host memory, and the row then ends the channel alone, its pc as it was. -/
theorem illegalPourOpcodeEndsTheChannel : Obligations.IllegalPourOpcodeEndsTheChannel := by
  unfold Obligations.IllegalPourOpcodeEndsTheChannel
  intro ch op b s u hop hat
  have hfetch := hat.keepsPour
  have hch : ch < u.pour.ch.length := by rw [hfetch.pour, hat.length]; exact hat.chan
  have hset := hfetch.trans_chSet (pourDone_chSet hch 0x0108)
  rw [hfetch.chAt_eq] at hset
  refine ⟨_, exec_pourIllegalOpcode hat hop, ?_⟩
  beta_reduce
  rw [hset.same]
  exact ⟨rfl, rfl, rfl, hset.hostMem, hset.other⟩

end Sys2Proof.Machine
end

section
/-! PROOFS. What holds of every step, whatever the command: the step of the queue, the invariant, the one stop (R25), and
what the block is right after reset. -/

namespace Sys2Proof.Machine

-- One declaration at a time: see the frames of the state's operations.
set_option Elab.async false

/-- Every command keeps the invariant and the queue behind it. -/
theorem exec_good {c : Instr} {q : List Instr} {s t : State} (hg : Good q s) (hx : exec c s = .next t) : Good q t := by
  cases c with
  | echo _ => exact execEcho_good hg hx
  | identify _ => exact execIdentify_good hg hx
  | paramGet _ _ => exact execParamGet_good hg hx
  | paramSet _ => exact execParamSet_good hg hx
  | snapshot _ _ => exact execSnapshot_good hg hx
  | jobOpen _ _ => exact execJobOpen_good hg hx
  | jobClose _ => exact execJobClose_good hg hx
  | jobStart _ => exact execJobStart_good hg hx
  | layerLoad _ _ => exact execLayerLoad_good hg hx
  | keyringCommit _ => exact execKeyringCommit_good hg hx
  | tableLoad _ _ => exact execTableLoad_good hg hx
  | stepRun _ => exact execStepRun_good hg hx
  | batchCancel _ => exact execBatchCancel_good hg hx
  | batchPreempt _ => exact execBatchPreempt_good hg hx
  | batchResume _ => exact execBatchResume_good hg hx
  | tensorCopy _ _ _ => exact execTensorCopy_good hg hx
  | gather _ _ _ => exact execGather_good hg hx
  | scatterAcc _ _ _ _ => exact execScatterAcc_good hg hx
  | groupDefine _ _ => exact execGroupDefine_good hg hx
  | collPost _ _ => exact execCollPost_good hg hx
  | fence _ => exact execFence_good hg hx
  | pourStart _ => exact execPourStart_good hg hx
  | pourAbort _ => exact execPourAbort_good hg hx
  | pourRestartAll _ => exact execPourRestartAll_good hg hx
  | pourResume _ => exact execPourResume_good hg hx
  | mmuMap _ => exact execMmuMap_good hg hx
  | mmuUnmap _ => exact execMmuUnmap_good hg hx
  | mmuInval _ => exact execMmuInval_good hg hx
  | poolConfig _ _ => exact execPoolConfig_good hg hx
  | remoteInval _ => exact execRemoteInval_good hg hx
  | timeCfg _ => exact execTimeCfg_good hg hx
  | fwStage _ _ _ => exact execFwStage_good hg hx
  | fwActivate _ _ => exact execFwActivate_good hg hx
  | vaultRead _ _ => exact execVaultRead_good hg hx
  | vaultPeriodClose _ _ => exact execVaultPeriodClose_good hg hx
  | traceCfg _ _ => exact execTraceCfg_good hg hx
  | domainReset _ => exact execDomainReset_good hg hx
  | dumpRead _ _ => exact execDumpRead_good hg hx
  | rollbackCommit _ => exact execRollbackCommit_good hg hx
  | keyInstall _ _ => exact execKeyInstall_good hg hx
  | hingeEnable _ => exact execHingeEnable_good hg hx
  | laneModeWrite _ => exact execLaneModeWrite_good hg hx
  | recEnable _ => exact execRecEnable_good hg hx
  | latchFramingError _ => exact execLatchFramingError_good hg hx
  | latchStrayBeat => exact execLatchStrayBeat_good hg hx
  | latchParityError _ _ => exact execLatchParityError_good hg hx
  | replyBeatTaken _ _ => exact execReplyBeatTaken_good hg hx
  | routerRowsPacket _ => exact execRouterRowsPacket_good hg hx
  | sharedOutputPacket _ => exact execSharedOutputPacket_good hg hx
  | answerReadyReceive _ _ => exact execAnswerReadyReceive_good hg hx
  | answerReadyReturn _ => exact execAnswerReadyReturn_good hg hx
  | replayArrivalInject _ _ _ _ _ => exact execReplayArrivalInject_good hg hx
  | funnelMalformed _ => exact execFunnelMalformed_good hg hx
  | funnelPoisonedBeat _ _ => exact execFunnelPoisonedBeat_good hg hx
  | spoutLocalCopySent _ _ _ => exact execSpoutLocalCopySent_good hg hx
  | mportReadData _ _ _ _ _ => exact execMportReadData_good hg hx
  | mportWriteResponse _ _ _ => exact execMportWriteResponse_good hg hx
  | mportTimeout _ _ _ => exact execMportTimeout_good hg hx
  | kftFrameReceive _ _ _ => exact execKftFrameReceive_good hg hx
  | kftChunkApply _ _ _ _ => exact execKftChunkApply_good hg hx
  | kftAckReceive _ => exact execKftAckReceive_good hg hx
  | kftNackReceive _ => exact execKftNackReceive_good hg hx
  | kftAckDelayExpiry _ _ => exact execKftAckDelayExpiry_good hg hx
  | kftRetransmitTimeout _ _ _ => exact execKftRetransmitTimeout_good hg hx
  | pathHoldoffExpiry _ _ => exact execPathHoldoffExpiry_good hg hx
  | pfcFrameReceive _ _ _ => exact execPfcFrameReceive_good hg hx
  | countMessageReceive _ _ => exact execCountMessageReceive_good hg hx
  | countExchangeTimeout _ => exact execCountExchangeTimeout_good hg hx
  | cancelNoticeReceive _ _ => exact execCancelNoticeReceive_good hg hx
  | cancelAckSend _ _ => exact execCancelAckSend_good hg hx
  | cancelAckReceive _ => exact execCancelAckReceive_good hg hx
  | answerReceive _ _ _ => exact execAnswerReceive_good hg hx
  | copyLanded _ _ _ => exact execCopyLanded_good hg hx
  | workListEmit _ _ => exact execWorkListEmit_good hg hx
  | collChunkReceive _ _ _ => exact execCollChunkReceive_good hg hx
  | collCreditReceive _ _ => exact execCollCreditReceive_good hg hx
  | collTimeout _ _ => exact execCollTimeout_good hg hx
  | collOperationComplete _ _ _ => exact execCollOperationComplete_good hg hx
  | collOperationStart _ _ => exact execCollOperationStart_good hg hx
  | startBarrierNotice _ => exact execStartBarrierNotice_good hg hx
  | calibrationRequest _ _ _ _ _ => exact execCalibrationRequest_good hg hx
  | calibrationReply _ _ _ _ => exact execCalibrationReply_good hg hx
  | calibrationWindow _ => exact execCalibrationWindow_good hg hx
  | releaseInstant => exact execReleaseInstant_good hg hx
  | remoteLoad _ _ _ _ _ => exact execRemoteLoad_good hg hx
  | remoteStore _ _ _ _ => exact execRemoteStore_good hg hx
  | flagStore _ _ _ _ => exact execFlagStore_good hg hx
  | remoteAtomic _ _ _ _ _ _ _ _ => exact execRemoteAtomic_good hg hx
  | loadResponseReceive _ _ _ => exact execLoadResponseReceive_good hg hx
  | rld _ _ _ _ _ => exact execRld_good hg hx
  | rstr _ _ _ _ _ _ => exact execRstr_good hg hx
  | rstf _ _ _ _ _ _ => exact execRstf_good hg hx
  | ramo _ _ _ _ _ _ _ _ => exact execRamo_good hg hx
  | rinv _ _ _ _ _ _ => exact execRinv_good hg hx
  | managementRequest _ _ => exact execManagementRequest_good hg hx
  | ptpEventMessage _ _ => exact execPtpEventMessage_good hg hx
  | ptpSyncMissed => exact execPtpSyncMissed_good hg hx
  | laneTrainDone _ _ _ _ => exact execLaneTrainDone_good hg hx
  | laneTrainTimeout _ _ => exact execLaneTrainTimeout_good hg hx
  | laneLockChange _ _ _ => exact execLaneLockChange_good hg hx
  | linkAlignTimeout _ => exact execLinkAlignTimeout_good hg hx
  | fecFailLimit _ => exact execFecFailLimit_good hg hx
  | remoteFaultReceive _ => exact execRemoteFaultReceive_good hg hx
  | relinkHoldoffExpiry _ => exact execRelinkHoldoffExpiry_good hg hx
  | quiesceComplete _ => exact execQuiesceComplete_good hg hx
  | stage1Complete _ => exact execStage1Complete_good hg hx
  | stepScoringDone _ _ _ => exact execStepScoringDone_good hg hx
  | dispatchStart _ => exact execDispatchStart_good hg hx
  | dispatchAcked _ => exact execDispatchAcked_good hg hx
  | combineStart _ _ _ _ => exact execCombineStart_good hg hx
  | combineDone _ _ => exact execCombineDone_good hg hx
  | preemptBoundary _ => exact execPreemptBoundary_good hg hx
  | cancelTeardownComplete _ => exact execCancelTeardownComplete_good hg hx
  | classSwitch _ _ _ _ => exact execClassSwitch_good hg hx
  | loopSumPost _ => exact execLoopSumPost_good hg hx
  | biasUpdate _ => exact execBiasUpdate_good hg hx
  | commitLoadsDone => exact execCommitLoadsDone_good hg hx
  | epochTakesEffect => exact execEpochTakesEffect_good hg hx
  | jobDrainComplete => exact execJobDrainComplete_good hg hx
  | crashDump _ => exact execCrashDump_good hg hx
  | crashDumpComplete _ => exact execCrashDumpComplete_good hg hx
  | stepDeadlineExpiry _ => exact execStepDeadlineExpiry_good hg hx
  | unitHang _ _ _ => exact execUnitHang_good hg hx
  | portBackpressureExpiry _ _ _ => exact execPortBackpressureExpiry_good hg hx
  | firmwareHeartbeatMiss _ => exact execFirmwareHeartbeatMiss_good hg hx
  | controlStateError _ => exact execControlStateError_good hg hx
  | coreMemoryUncorrectable _ _ => exact execCoreMemoryUncorrectable_good hg hx
  | domainFenceClosed _ => exact execDomainFenceClosed_good hg hx
  | domainDrainComplete _ => exact execDomainDrainComplete_good hg hx
  | domainDrainDeadline _ _ => exact execDomainDrainDeadline_good hg hx
  | domainResetElapsed _ => exact execDomainResetElapsed_good hg hx
  | domainSelfCheck _ _ => exact execDomainSelfCheck_good hg hx
  | escalationWindowExpiry => exact execEscalationWindowExpiry_good hg hx
  | aoPorAssert => exact execAoPorAssert_good hg hx
  | aoPorRelease _ _ => exact execAoPorRelease_good hg hx
  | porAssert => exact execPorAssert_good hg hx
  | porReleaseBoot _ _ => exact execPorReleaseBoot_good hg hx
  | bootRetry _ _ => exact execBootRetry_good hg hx
  | rootLockLoss => exact execRootLockLoss_good hg hx
  | pwrWarnActed => exact execPwrWarnActed_good hg hx
  | braceInflightDone => exact execBraceInflightDone_good hg hx
  | braceSealed _ => exact execBraceSealed_good hg hx
  | pwrWarnClear => exact execPwrWarnClear_good hg hx
  | braceHoldoffExpiry => exact execBraceHoldoffExpiry_good hg hx
  | pwrResetRise => exact execPwrResetRise_good hg hx
  | pwrResetFall _ => exact execPwrResetFall_good hg hx
  | throttleChange _ => exact execThrottleChange_good hg hx
  | vddAckRise => exact execVddAckRise_good hg hx
  | vddAckTimeout => exact execVddAckTimeout_good hg hx
  | marginPlanPeriodic => exact execMarginPlanPeriodic_good hg hx
  | canaryAlarm _ _ => exact execCanaryAlarm_good hg hx
  | ceLimitReplan _ => exact execCeLimitReplan_good hg hx
  | relaxPeriodExpiry => exact execRelaxPeriodExpiry_good hg hx
  | measurementIntervalEnd _ => exact execMeasurementIntervalEnd_good hg hx
  | vaultSealCheck _ _ => exact execVaultSealCheck_good hg hx
  | vaultNonceRefill => exact execVaultNonceRefill_good hg hx
  | patrolScrub _ _ => exact execPatrolScrub_good hg hx
  | carafeGrant => exact execCarafeGrant_good hg hx
  | carafeListError _ _ => exact execCarafeListError_good hg hx
  | pourDescriptorRead _ _ => exact execPourDescriptorRead_good hg hx
  | pourPipeGrant _ => exact execPourPipeGrant_good hg hx
  | pourGranuleYield _ => exact execPourGranuleYield_good hg hx
  | move _ _ _ => exact execMove_good hg hx
  | fill _ _ _ => exact execFill_good hg hx
  | cmp _ _ _ => exact execCmp_good hg hx
  | loop _ _ => exact execLoop_good hg hx
  | wait _ _ => exact execWait_good hg hx
  | waitPoll _ _ => exact execWaitPoll_good hg hx
  | waitTimeout _ => exact execWaitTimeout_good hg hx
  | signal _ _ => exact execSignal_good hg hx
  | endProg _ _ => exact execEndProg_good hg hx
  | pourIllegalOpcode _ _ => exact execPourIllegalOpcode_good hg hx
  | pourInstructionComplete _ => exact execPourInstructionComplete_good hg hx
  | pourPark _ => exact execPourPark_good hg hx
  | pourWritebackComplete _ _ => exact execPourWritebackComplete_good hg hx
  | pourCancelDrained _ => exact execPourCancelDrained_good hg hx
  | pourBusErrorStop => exact execPourBusErrorStop_good hg hx
  | pourStopDrained => exact execPourStopDrained_good hg hx
  | dripSample => exact execDripSample_good hg hx
  | dripRecordWritten _ => exact execDripRecordWritten_good hg hx
  | dripRingFault _ => exact execDripRingFault_good hg hx
  | recordWritten _ => exact execRecordWritten_good hg hx
  | recordRingFault _ => exact execRecordRingFault_good hg hx
  | queuePoisonConsume _ => exact execQueuePoisonConsume_good hg hx
  | alignmentMarkersFound _ => exact execAlignmentMarkersFound_good hg hx
  | laneAlignmentLoss _ _ => exact execLaneAlignmentLoss_good hg hx
  | relinkHoldoffRestore _ => exact execRelinkHoldoffRestore_good hg hx
  | marginExhaustedAdvisoryEnd => exact execMarginExhaustedAdvisoryEnd_good hg hx
  | creditCoalesceExpiry _ => exact execCreditCoalesceExpiry_good hg hx
  | delayRequestInterval => exact execDelayRequestInterval_good hg hx
  | syncIntervalTransmit => exact execSyncIntervalTransmit_good hg hx
  | pfcPauseExpiry _ _ => exact execPfcPauseExpiry_good hg hx

/-- Every command but the two reset assertions is an effect that waits on the root lock alone (R25). -/
theorem exec_eq_live (c : Instr) (hpor : c ≠ .porAssert) (hao : c ≠ .aoPorAssert) : ∃ f, ∀ s, exec c s = live f s := by
  cases c with
  | porAssert => exact absurd rfl hpor
  | aoPorAssert => exact absurd rfl hao
  | _ => exact ⟨_, fun _ => rfl⟩

theorem exec_porAssert_next (s : State) : ∃ t, exec .porAssert s = .next t := ⟨_, rfl⟩

theorem exec_aoPorAssert_next (s : State) : ∃ t, exec .aoPorAssert s = .next t := ⟨_, rfl⟩

theorem exec_next_of_locked (c : Instr) {s : State} (hlock : s.rst.rootLost = false) : ∃ t, exec c s = .next t := by
  by_cases hpor : c = .porAssert
  · exact hpor ▸ exec_porAssert_next s
  by_cases hao : c = .aoPorAssert
  · exact hao ▸ exec_aoPorAssert_next s
  obtain ⟨f, hf⟩ := exec_eq_live c hpor hao
  exact ⟨f s, (hf s).trans (live_next hlock)⟩

/-- Settles O6: every command is an effect under the root lock, but for the two reset assertions, which always answer. -/
theorem onlyRootLockStopsAndTheQueueStays : Obligations.OnlyRootLockStopsAndTheQueueStays := by
  unfold Obligations.OnlyRootLockStopsAndTheQueueStays
  intro c s
  refine ⟨fun t hinv hx => (exec_good ⟨rfl, hinv⟩ hx).queue, exec_next_of_locked c, fun hlost hpor hao => ?_,
    exec_porAssert_next s, exec_aoPorAssert_next s⟩
  obtain ⟨f, hf⟩ := exec_eq_live c hpor hao
  rw [hf, live, if_pos hlost]

theorem step_cons {c : Instr} {rest : List Instr} {s : State} (h : s.pending = c :: rest) :
    step s = exec c { s with pending := rest } := by
  rw [step, h]

theorem step_nil {s : State} (h : s.pending = []) : step s = .next (tick s) := by
  rw [step, h]

/-- Settles O1. -/
theorem stepRunsTheFrontCommand : Obligations.StepRunsTheFrontCommand := fun _ _ _ h => step_cons h

/-- Settles O5: a step is a command on the rest of the queue, or a tick, and each keeps the invariant. -/
theorem everyStepKeepsInv : Obligations.EveryStepKeepsInv := by
  unfold Obligations.EveryStepKeepsInv
  intro s t hinv hstep
  cases hq : s.pending with
  | nil =>
    rw [step_nil hq] at hstep
    cases hstep
    exact (tick_good ⟨rfl, hinv⟩).inv
  | cons c rest =>
    rw [step_cons hq] at hstep
    have hrest : Good rest { s with pending := rest } := ⟨rfl, { hinv with }⟩
    exact (exec_good hrest hstep).inv

/-- The sampling of a dump, and the count of stalls, leave KT and the servo alone. -/
theorem dumpSample_kt (s : State) : (dumpSample s).kt = s.kt := by
  unfold dumpSample
  split_ifs <;> rfl

theorem stallCount_kt (n : Nat) (s : State) : (stallCount n s).kt = s.kt := by
  unfold stallCount
  split_ifs
  · rfl
  · refine List.foldlRecOn (motive := fun t : State => t.kt = s.kt) _ _ rfl fun t ht l _ => ?_
    dsimp only
    split
    · exact ht
    · exact ht

theorem tick_kt {s : State} (hheld : s.rst.aoHeld = false) (hlock : s.rst.rootLost = false) :
    (tick s).kt = (s.kt + ktAdvance s) % 2 ^ 64 := by
  rw [tick, if_neg (by simp [hheld, hlock])]
  exact congrArg (fun k : Nat => (k + ktAdvance s) % 2 ^ 64) ((stallCount_kt _ _).trans (dumpSample_kt s))

theorem ktAdvance_of_not_maySlew {s : State} (h : maySlew s = false) : ktAdvance s = 1 := by
  simp [ktAdvance, h]

/-- Settles O2. -/
theorem emptyQueueIsOneTick : Obligations.EmptyQueueIsOneTick := by
  unfold Obligations.EmptyQueueIsOneTick
  intro s hq
  refine ⟨step_nil hq, fun hheld hlock hslew => ?_, fun hheld => ?_⟩
  · rw [tick_kt hheld hlock, ktAdvance_of_not_maySlew hslew]
  · rw [tick, if_pos (.inl hheld)]

/-- Settles O3: each list of the reset state repeats one element. -/
theorem resetAsStated : Obligations.ResetAsStated := by
  unfold Obligations.ResetAsStated
  refine ⟨rfl, fun i hi => ?_, fun k hk => ?_, fun d hd => ?_, rfl, rfl, rfl, rfl, rfl⟩
  · have hslot : slotAt State.reset i = Slot.idle := List.getD_replicate _ hi
    exact ⟨congrArg Slot.st hslot, congrArg Slot.gen hslot⟩
  · exact congrArg Link.st (List.getD_replicate _ hk)
  · exact congrArg Dom.st (List.getD_replicate _ hd)

/-- Settles O4: at reset the memories, queues, logs and caches are empty, and the lists have their lengths. -/
theorem invHoldsAtReset : Obligations.InvHoldsAtReset where
  sp := rfl
  spIn := by simp [State.reset]
  host := rfl
  slots := rfl
  links := rfl
  lanes := rfl
  doms := rfl
  chans := rfl
  pools := rfl
  keyring := rfl
  fatal := Nat.zero_le _
  other := Nat.zero_le _
  rlog := Nat.zero_le _
  closed := Nat.zero_le _
  tlb := Nat.zero_le _
  upper := Nat.zero_le _
  completions := Nat.zero_le _
  drip := Nat.zero_le _
  recs := Nat.zero_le _
  free := Nat.zero_le _

end Sys2Proof.Machine
end

section
/-! PROOFS. Frames: which fields of the state an operation writes. `Writes l s t` says that `t` is `s` but for the fields in
`l`; it composes along the operations of a command, and gives back the equation between the two states. -/

namespace Sys2Proof.Machine

-- One declaration at a time: elaborated at once, the many short frames below wait for one another, each on a thread.
set_option Elab.async false

/-- The fields of the state, by name. -/
inductive Fld where
  | pending | freeCtr | rst | kt | fuses | params | pendParams | counters | latch | ev | job | slots | opBanks
  | tensors | duties | spout | funnelHeld | ep | keyring | keyringBad | bias | kft | links | lanes | pfcPaused
  | pfcSent | ptp | barrier | coll | carafe | sp | spPoison | hostMem | keyway | mport | pour | recRing | drip | doms
  | esc | rlog | rlogSeq | rlogWait | aoWait | dump | pwr | plan | vault | fw | mgmt
  deriving DecidableEq

/-- The field is the same in both states. -/
def Fld.same (s t : State) : Fld → Prop
  | .pending => t.pending = s.pending
  | .freeCtr => t.freeCtr = s.freeCtr
  | .rst => t.rst = s.rst
  | .kt => t.kt = s.kt
  | .fuses => t.fuses = s.fuses
  | .params => t.params = s.params
  | .pendParams => t.pendParams = s.pendParams
  | .counters => t.counters = s.counters
  | .latch => t.latch = s.latch
  | .ev => t.ev = s.ev
  | .job => t.job = s.job
  | .slots => t.slots = s.slots
  | .opBanks => t.opBanks = s.opBanks
  | .tensors => t.tensors = s.tensors
  | .duties => t.duties = s.duties
  | .spout => t.spout = s.spout
  | .funnelHeld => t.funnelHeld = s.funnelHeld
  | .ep => t.ep = s.ep
  | .keyring => t.keyring = s.keyring
  | .keyringBad => t.keyringBad = s.keyringBad
  | .bias => t.bias = s.bias
  | .kft => t.kft = s.kft
  | .links => t.links = s.links
  | .lanes => t.lanes = s.lanes
  | .pfcPaused => t.pfcPaused = s.pfcPaused
  | .pfcSent => t.pfcSent = s.pfcSent
  | .ptp => t.ptp = s.ptp
  | .barrier => t.barrier = s.barrier
  | .coll => t.coll = s.coll
  | .carafe => t.carafe = s.carafe
  | .sp => t.sp = s.sp
  | .spPoison => t.spPoison = s.spPoison
  | .hostMem => t.hostMem = s.hostMem
  | .keyway => t.keyway = s.keyway
  | .mport => t.mport = s.mport
  | .pour => t.pour = s.pour
  | .recRing => t.recRing = s.recRing
  | .drip => t.drip = s.drip
  | .doms => t.doms = s.doms
  | .esc => t.esc = s.esc
  | .rlog => t.rlog = s.rlog
  | .rlogSeq => t.rlogSeq = s.rlogSeq
  | .rlogWait => t.rlogWait = s.rlogWait
  | .aoWait => t.aoWait = s.aoWait
  | .dump => t.dump = s.dump
  | .pwr => t.pwr = s.pwr
  | .plan => t.plan = s.plan
  | .vault => t.vault = s.vault
  | .fw => t.fw = s.fw
  | .mgmt => t.mgmt = s.mgmt

theorem Fld.same_refl (s : State) (f : Fld) : f.same s s := by
  cases f <;> rfl

theorem Fld.same_symm {s t : State} {f : Fld} (h : f.same s t) : f.same t s := by
  cases f <;> exact Eq.symm h

theorem Fld.same_trans {s t u : State} {f : Fld} (hst : f.same s t) (htu : f.same t u) : f.same s u := by
  cases f <;> exact Eq.trans htu hst

theorem Fld.ext {s t : State} (h : ∀ f : Fld, f.same s t) : t = s :=
  State.ext (h .pending) (h .freeCtr) (h .rst) (h .kt) (h .fuses) (h .params) (h .pendParams) (h .counters) (h .latch)
    (h .ev) (h .job) (h .slots) (h .opBanks) (h .tensors) (h .duties) (h .spout) (h .funnelHeld) (h .ep) (h .keyring)
    (h .keyringBad) (h .bias) (h .kft) (h .links) (h .lanes) (h .pfcPaused) (h .pfcSent) (h .ptp) (h .barrier)
    (h .coll) (h .carafe) (h .sp) (h .spPoison) (h .hostMem) (h .keyway) (h .mport) (h .pour) (h .recRing) (h .drip)
    (h .doms) (h .esc) (h .rlog) (h .rlogSeq) (h .rlogWait) (h .aoWait) (h .dump) (h .pwr) (h .plan) (h .vault)
    (h .fw) (h .mgmt)

/-- `t` is `s` but for the fields in `l`. -/
structure Writes (l : List Fld) (s t : State) : Prop where
  same : ∀ f, f ∉ l → f.same s t

/-- Of two values the first, if the flag is set. Reducible, and a bare recursor, so that `rfl` settles the flag before it looks
into either value. -/
@[reducible] def pick {α : Type} (b : Bool) (x y : α) : α := Bool.rec y x b

theorem pick_true {α : Type} {b : Bool} (h : b = true) (x y : α) : pick b x y = x := by
  rw [h]

theorem pick_false {α : Type} {b : Bool} (h : b = false) (x y : α) : pick b x y = y := by
  rw [h]

/-- `s`, with the fields in `l` taken from `t`. -/
def State.mix (l : List Fld) (s t : State) : State :=
  { pending := pick (l.contains .pending) t.pending s.pending,
    freeCtr := pick (l.contains .freeCtr) t.freeCtr s.freeCtr, rst := pick (l.contains .rst) t.rst s.rst,
    kt := pick (l.contains .kt) t.kt s.kt, fuses := pick (l.contains .fuses) t.fuses s.fuses,
    params := pick (l.contains .params) t.params s.params,
    pendParams := pick (l.contains .pendParams) t.pendParams s.pendParams,
    counters := pick (l.contains .counters) t.counters s.counters, latch := pick (l.contains .latch) t.latch s.latch,
    ev := pick (l.contains .ev) t.ev s.ev, job := pick (l.contains .job) t.job s.job,
    slots := pick (l.contains .slots) t.slots s.slots, opBanks := pick (l.contains .opBanks) t.opBanks s.opBanks,
    tensors := pick (l.contains .tensors) t.tensors s.tensors, duties := pick (l.contains .duties) t.duties s.duties,
    spout := pick (l.contains .spout) t.spout s.spout,
    funnelHeld := pick (l.contains .funnelHeld) t.funnelHeld s.funnelHeld, ep := pick (l.contains .ep) t.ep s.ep,
    keyring := pick (l.contains .keyring) t.keyring s.keyring,
    keyringBad := pick (l.contains .keyringBad) t.keyringBad s.keyringBad,
    bias := pick (l.contains .bias) t.bias s.bias, kft := pick (l.contains .kft) t.kft s.kft,
    links := pick (l.contains .links) t.links s.links, lanes := pick (l.contains .lanes) t.lanes s.lanes,
    pfcPaused := pick (l.contains .pfcPaused) t.pfcPaused s.pfcPaused,
    pfcSent := pick (l.contains .pfcSent) t.pfcSent s.pfcSent, ptp := pick (l.contains .ptp) t.ptp s.ptp,
    barrier := pick (l.contains .barrier) t.barrier s.barrier, coll := pick (l.contains .coll) t.coll s.coll,
    carafe := pick (l.contains .carafe) t.carafe s.carafe, sp := pick (l.contains .sp) t.sp s.sp,
    spPoison := pick (l.contains .spPoison) t.spPoison s.spPoison,
    hostMem := pick (l.contains .hostMem) t.hostMem s.hostMem, keyway := pick (l.contains .keyway) t.keyway s.keyway,
    mport := pick (l.contains .mport) t.mport s.mport, pour := pick (l.contains .pour) t.pour s.pour,
    recRing := pick (l.contains .recRing) t.recRing s.recRing, drip := pick (l.contains .drip) t.drip s.drip,
    doms := pick (l.contains .doms) t.doms s.doms, esc := pick (l.contains .esc) t.esc s.esc,
    rlog := pick (l.contains .rlog) t.rlog s.rlog, rlogSeq := pick (l.contains .rlogSeq) t.rlogSeq s.rlogSeq,
    rlogWait := pick (l.contains .rlogWait) t.rlogWait s.rlogWait,
    aoWait := pick (l.contains .aoWait) t.aoWait s.aoWait, dump := pick (l.contains .dump) t.dump s.dump,
    pwr := pick (l.contains .pwr) t.pwr s.pwr, plan := pick (l.contains .plan) t.plan s.plan,
    vault := pick (l.contains .vault) t.vault s.vault, fw := pick (l.contains .fw) t.fw s.fw,
    mgmt := pick (l.contains .mgmt) t.mgmt s.mgmt }

theorem Fld.same_mix_out {l : List Fld} {f : Fld} {s : State} (t : State) (h : f ∉ l) : f.same s (s.mix l t) := by
  have hl : l.contains f = false := by simpa using h
  cases f <;> exact pick_false hl _ _

theorem Fld.same_mix_in {l : List Fld} {f : Fld} (s t : State) (h : f ∈ l) : f.same (s.mix l t) t := by
  have hl : l.contains f = true := by simpa using h
  cases f <;> exact (pick_true hl _ _).symm

namespace Writes

variable {l k : List Fld} {s t u : State}

theorem refl (l : List Fld) (s : State) : Writes l s s := ⟨fun f _ => f.same_refl s⟩

theorem trans (hst : Writes l s t) (htu : Writes l t u) : Writes l s u :=
  ⟨fun f hf => Fld.same_trans (hst.same f hf) (htu.same f hf)⟩

theorem mono (h : Writes k s t) (hkl : k ⊆ l := by decide) : Writes l s t :=
  ⟨fun f hf => h.same f fun hk => hf (hkl hk)⟩

/-- An operation that writes in a part of `l` comes after what writes in `l`. -/
theorem after (htu : Writes k t u) (hst : Writes l s t) (hkl : k ⊆ l := by decide) : Writes l s u :=
  hst.trans (htu.mono hkl)

theorem andThen (hst : Writes l s t) (htu : Writes k t u) (hkl : k ⊆ l := by decide) : Writes l s u := htu.after hst hkl

theorem of_mix (h : t = s.mix l t) : Writes l s t := by
  refine ⟨fun f hf => ?_⟩
  rw [h]
  exact Fld.same_mix_out t hf

theorem eq_mix (h : Writes l s t) : t = s.mix l t := by
  refine Fld.ext fun f => ?_
  by_cases hf : f ∈ l
  · exact Fld.same_mix_in s t hf
  · exact Fld.same_trans (Fld.same_symm (Fld.same_mix_out t hf)) (h.same f hf)

theorem ite {c : Prop} [Decidable c] (ht : c → Writes l s t) (hu : ¬ c → Writes l s u) :
    Writes l s (if c then t else u) := by
  split_ifs with h
  · exact ht h
  · exact hu h

theorem foldl {α : Type} {f : State → α → State} (hf : ∀ t x, Writes l t (f t x)) (xs : List α) (s : State) :
    Writes l s (xs.foldl f s) :=
  List.foldlRecOn (motive := Writes l s) _ _ (.refl l s) fun t ht x _ => ht.trans (hf t x)

end Writes

/-! ### Counters, the scratchpad, Drip and the record ring -/

theorem ctrAdd_writes (i n : Nat) (s : State) : Writes [.counters] s (ctrAdd i n s) := .of_mix rfl

theorem ctrInc_writes (i : Nat) (s : State) : Writes [.counters] s (ctrInc i s) := .of_mix rfl

theorem spCount_writes (a n : Nat) (s : State) : Writes [.counters] s (spCount a n s) :=
  .ite (fun _ => ctrInc_writes 12 s) (fun _ => .refl _ s)

theorem spWrite_writes (a : Nat) (bs : List Byte) (s : State) : Writes [.sp, .spPoison, .counters] s (spWrite a bs s) :=
  .after (spCount_writes a bs.length _) (.of_mix rfl)

theorem dripPut_writes (r : DripRec) (s : State) : Writes [.drip] s (dripPut r s) :=
  .ite (fun _ => .ite (fun _ => .of_mix rfl) (fun _ => .of_mix rfl)) (fun _ => .refl _ s)

theorem dripAt_writes (kind unit payload : Nat) (s : State) : Writes [.drip] s (dripAt kind unit payload s) :=
  dripPut_writes _ s

theorem dripSlot_writes (kind unit slot gen step payload : Nat) (s : State) :
    Writes [.drip] s (dripSlot kind unit slot gen step payload s) :=
  dripPut_writes _ s

theorem dripStageAll_writes (slot gen step stage fin cls : Nat) (s : State) :
    Writes [.drip] s (dripStageAll slot gen step stage fin cls s) :=
  .ite (fun _ => dripSlot_writes _ _ _ _ _ _ s) (fun _ => .foldl (fun t _ => dripSlot_writes _ _ _ _ _ _ t) _ s)

theorem recPut_writes (e : RecEnt) (s : State) : Writes [.recRing] s (recPut e s) :=
  .ite (fun _ => .of_mix rfl) (fun _ => .of_mix rfl)

theorem recOriginal_writes (k source link : Nat) (poison : Bool) (orig : List Byte) (s : State) :
    Writes [.recRing] s (recOriginal k source link poison orig s) :=
  .ite (fun _ => recPut_writes _ s) (fun _ => .refl _ s)

/-! ### Events and replies -/

theorem evQueue_writes (e : Event) (s : State) : Writes [.ev, .counters] s (evQueue e s) := by
  unfold evQueue
  refine .ite (fun _ => .ite (fun _ => .of_mix rfl) fun _ => .of_mix rfl) fun _ => .ite (fun _ => .of_mix rfl) fun _ => ?_
  split
  · exact .of_mix rfl
  · exact .of_mix rfl

theorem evSend_writes (e : Event) (s : State) : Writes [.ev, .counters, .drip] s (evSend e s) :=
  .after (evQueue_writes ..) (.after (dripAt_writes ..) (.of_mix rfl))

theorem emit_writes (code unit detail : Nat) (s : State) : Writes [.ev, .counters, .drip] s (emit code unit detail s) :=
  evSend_writes _ s

theorem reply_writes (r : Reply) (s : State) : Writes [.latch, .drip] s (reply r s) :=
  .after (dripAt_writes ..) (.of_mix rfl)

theorem replyOne_writes (p : Packet) (order status r0 r1 r2 r3 : Nat) (s : State) :
    Writes [.latch, .drip] s (replyOne p order status r0 r1 r2 r3 s) :=
  reply_writes _ s

theorem finish_writes (c : OpenCmd) (status r0 r1 r2 r3 : Nat) (s : State) :
    Writes [.latch, .drip] s (finish c status r0 r1 r2 r3 s) :=
  .ite (fun _ => .after (reply_writes ..) (.of_mix rfl)) (fun _ => .refl _ s)

theorem finishOpt_writes (c : Option OpenCmd) (status r0 : Nat) (s : State) :
    Writes [.latch, .drip] s (finishOpt c status r0 s) := by
  cases c with
  | none => exact .refl _ s
  | some c => exact finish_writes c ..

theorem takePacket_writes (p : Packet) (s : State) : Writes [.latch, .counters, .drip, .recRing] s (takePacket p s) :=
  .after (recOriginal_writes ..) (.after (dripAt_writes ..) (.after (ctrInc_writes 41 _) (.of_mix rfl)))

theorem accept_writes (p : Packet) (order r0 : Nat) (s : State) : Writes [.latch, .drip] s (accept p order r0 s) :=
  .after (reply_writes ..) (.of_mix rfl)

theorem holdCmd_writes (why : HoldWhy) (p : Packet) (x : Ext) (order : Nat) (s : State) :
    Writes [.latch] s (holdCmd why p x order s) :=
  .of_mix rfl

/-! ### The retention log, Vault's counts and batch slots -/

theorem logPut_writes (e : LogEnt) (s : State) : Writes [.rlog, .rlogSeq] s (logPut e s) := by
  unfold logPut
  generalize List.drop (s.rlog.length - 1023) _ = log
  exact .of_mix rfl

theorem logAdd_writes (kind body : Nat) (s : State) : Writes [.rlog, .rlogSeq, .rlogWait] s (logAdd kind body s) := by
  unfold logAdd
  extract_lets e
  exact .ite (fun _ => .of_mix rfl) (fun _ => (logPut_writes e s).mono)

theorem vaultWrite_writes (s : State) : Writes [.vault] s (vaultWrite s) :=
  .ite (fun _ => .of_mix rfl) (fun _ => .of_mix rfl)

theorem vaultWriteAll_writes (s : State) : Writes [.vault] s (vaultWriteAll s) :=
  .ite (fun _ => .of_mix rfl) (fun _ => .of_mix rfl)

theorem vaultSettle_writes (cancelled : Bool) (c : VCounts) (s : State) : Writes [.vault] s (vaultSettle cancelled c s) :=
  .after (vaultWrite_writes _) (.of_mix rfl)

theorem vaultEvent_writes (period : Nat) (s : State) : Writes [.ev, .counters, .drip] s (vaultEvent period s) :=
  emit_writes ..

theorem vaultStatus_writes (b : Nat) (s : State) : Writes [.vault, .ev, .counters, .drip] s (vaultStatus b s) :=
  .ite (fun _ => .refl _ s) (fun _ => .after (vaultEvent_writes ..) (.of_mix rfl))

theorem vaultClose_writes (tag : Nat) (inconsistent recovered : Bool) (s : State) :
    Writes [.vault, .ev, .counters, .drip] s (vaultClose tag inconsistent recovered s) := by
  unfold vaultClose
  exact .after (vaultEvent_writes ..) (.after (vaultWriteAll_writes _) (.of_mix rfl))

theorem setSlot_writes (i : Nat) (x : Slot) (s : State) : Writes [.slots] s (setSlot i x s) := .of_mix rfl

theorem ctxMap_writes (i : Nat) (f : StepCtx → StepCtx) (s : State) : Writes [.slots] s (ctxMap i f s) := .of_mix rfl

theorem slotMove_writes (i : Nat) (st : SlotState) (s : State) : Writes [.slots, .drip] s (slotMove i st s) :=
  .after (dripSlot_writes ..) (.of_mix rfl)

theorem ctxSettle_writes (cancelled : Bool) (i : Nat) (s : State) : Writes [.slots, .vault] s (ctxSettle cancelled i s) := by
  unfold ctxSettle
  split
  · exact .refl _ s
  · exact .after (vaultSettle_writes ..) (.of_mix rfl)

theorem endOpen_writes (status : Nat) (o : OpenCmd) (s : State) : Writes [.latch, .drip] s (endOpen status o s) := by
  unfold endOpen
  split
  · exact finish_writes ..
  · exact finish_writes ..

theorem endHeld_writes (h : Held) (status : Nat) (s : State) : Writes [.latch, .drip] s (endHeld h status s) :=
  .ite (fun _ => .after (replyOne_writes ..) (.of_mix rfl))
    (fun _ => .ite (fun _ => .after (finish_writes ..) (.of_mix rfl)) fun _ => .after (finish_writes ..) (.of_mix rfl))

theorem endHeldAll_writes (p : Held → Bool) (status : Nat) (s : State) :
    Writes [.latch, .drip] s (endHeldAll p status s) :=
  .foldl (fun t h => endHeld_writes h status t) _ s

theorem settleAll_writes (s : State) : Writes [.slots, .duties, .vault] s (settleAll s) := by
  unfold settleAll
  extract_lets settled
  have hslot (t : State) (i : Nat) :
      Writes [.slots, .duties, .vault] t (if (slotAt t i).ctx.isSome then ctxSettle true i t else t) :=
    .ite (fun _ => (ctxSettle_writes true i t).mono) (fun _ => .refl _ t)
  have hsource (t : State) (x : DutySrc) :
      Writes [.slots, .duties, .vault] t (if x.held.isZero then t else vaultSettle true x.held t) :=
    .ite (fun _ => .refl _ t) (fun _ => (vaultSettle_writes true x.held t).mono)
  have hsettled : Writes [.slots, .duties, .vault] s settled := .foldl hslot _ s
  clear_value settled
  refine .trans ?_ (.foldl hsource _ _)
  exact hsettled.trans (.of_mix rfl)

theorem endWaits_writes (p : CellWait → Bool) (s : State) : Writes [.carafe, .counters] s (endWaits p s) := by
  unfold endWaits
  exact .trans (.of_mix rfl) (.foldl (fun t (w : CellWait) => (ctrAdd_writes (897 + 2 * w.owner) (t.kt - w.since) t).mono) _ _)

/-! ### The job fault -/

/-- What the end of a job by a fault writes. -/
def faultFields : List Fld :=
  [.latch, .drip, .slots, .duties, .vault, .carafe, .counters, .job, .ep, .tensors, .dump, .rlog, .rlogSeq, .rlogWait, .ev]

theorem enterFaulted_writes (supply : Bool) (e : Event) (s : State) : Writes faultFields s (enterFaulted supply e s) := by
  unfold enterFaulted
  extract_lets held ended waits
  have hheld : Writes faultFields s held :=
    .ite (fun _ => (endHeldAll_writes ..).mono) (fun _ => (endHeldAll_writes ..).mono)
  have hended : Writes faultFields held ended := .foldl (fun t c => (endOpen_writes 0x0401 c t).mono) _ held
  have hwaits : Writes faultFields ended waits := .after (endWaits_writes ..) (settleAll_writes _).mono
  clear_value waits
  exact ((hheld.trans hended).trans hwaits).trans (.of_mix rfl)

theorem secondary_writes (e : Event) (s : State) : Writes faultFields s (secondary e s) := by
  unfold secondary
  exact .after (logAdd_writes ..) (ctrInc_writes 19 s).mono

theorem jobFault_writes (unit status detail : Nat) (w : Where) (s : State) :
    Writes faultFields s (jobFault unit status detail w s) := by
  unfold jobFault
  extract_lets e
  split
  · exact .refl _ s
  · split_ifs
    · refine .trans ?_ (secondary_writes s.dump.fault _)
      exact .of_mix rfl
    · exact secondary_writes e s
  · refine .trans ?_ (enterFaulted_writes false e _)
    exact .after (logAdd_writes ..) (evSend_writes e s).mono

/-! ### Keyway -/

theorem xlate_writes (s : State) (ctx va : Nat) (write : Bool) : Writes [.keyway] s (xlate s ctx va write).1 := by
  unfold xlate
  extract_lets page fail
  have hfail (kind level : Nat) : Writes [.keyway] s (fail kind level).1 := .of_mix rfl
  split
  · exact hfail _ _
  · split
    · split_ifs
      · exact .refl _ s
      · exact hfail _ _
      · exact .refl _ s
      · exact hfail _ _
    · extract_lets walk
      clear_value walk
      cases walk with
      | page t up => exact .of_mix rfl
      | bad kind level => exact hfail kind level

theorem xlateRun_writes (fuel : Nat) (s : State) (ctx va len : Nat) (write : Bool) (acc : List Piece) :
    Writes [.keyway] s (xlateRun fuel s ctx va len write acc).1 := by
  induction fuel generalizing s va len acc with
  | zero => exact .refl _ s
  | succ fuel ih =>
    rw [xlateRun]
    split_ifs
    · exact .refl _ s
    · have hpage := xlate_writes s ctx va write
      split
      case h_1 hfailed => rwa [hfailed] at hpage
      case h_2 hmapped =>
        rw [hmapped] at hpage
        exact hpage.trans (ih ..)

theorem xlateRange_writes (s : State) (ctx va len : Nat) (write : Bool) :
    Writes [.keyway] s (xlateRange s ctx va len write).1 :=
  xlateRun_writes ..

theorem hostRead_writes (s : State) (ctx va n : Nat) : Writes [.keyway] s (hostRead s ctx va n).1 := by
  have hrange := xlateRange_writes s ctx va n false
  unfold hostRead
  split
  case h_1 hfailed => rwa [hfailed] at hrange
  case h_2 hok => rwa [hok] at hrange

theorem hostWrite_writes (s : State) (ctx va : Nat) (bs : List Byte) :
    Writes [.keyway, .hostMem] s (hostWrite s ctx va bs).1 := by
  have hrange := xlateRange_writes s ctx va bs.length true
  unfold hostWrite
  split
  case h_1 hfailed =>
    rw [hfailed] at hrange
    exact hrange.mono
  case h_2 hok =>
    rw [hok] at hrange
    exact .after (.of_mix (l := [.hostMem]) rfl) hrange.mono

theorem freePieces_writes (l : List Piece) (s : State) : Writes [.hostMem, .freeCtr] s (freePieces l s) :=
  .foldl (fun _ _ => .of_mix rfl) _ s

theorem errCount_writes (r : ReqErr) (s : State) : Writes [.counters, .mport] s (errCount r s) :=
  .ite (fun _ => .of_mix rfl) (fun _ => .of_mix rfl)

theorem readBroken_writes (l : List Piece) (e : IoErr) (s : State) : Writes [.counters, .mport] s (readBroken l e s) :=
  errCount_writes _ s

theorem writeBroken_writes (l : List Piece) (bs : List Byte) (e : IoErr) (s : State) :
    Writes [.counters, .mport, .hostMem, .freeCtr] s (writeBroken l bs e s) :=
  .after (freePieces_writes ..) (.after (errCount_writes ..) (.of_mix rfl))

theorem recordFault_writes (f : XFault) (s : State) : Writes [.keyway] s (recordFault f s) := .of_mix rfl

theorem walkBroken_writes (e : IoErr) (ctx level va : Nat) (s : State) :
    Writes [.keyway, .counters, .mport] s (walkBroken e ctx level va s) := by
  unfold walkBroken
  extract_lets pa
  exact .after (errCount_writes ..) (recordFault_writes _ s).mono

theorem mmuRetire_writes (s : State) : Writes [.keyway, .latch, .drip] s (mmuRetire s) := by
  unfold mmuRetire
  extract_lets waits
  exact .trans (.of_mix rfl) (.foldl (fun t (w : MmuWait) => (finish_writes w.cmd 0 0 0 0 0 t).mono) _ _)

theorem mmuEnd_writes (unmapJob : Bool) (c : OpenCmd) (s : State) :
    Writes [.keyway, .latch, .drip] s (mmuEnd unmapJob c s) :=
  .after (mmuRetire_writes _) (.of_mix rfl)

theorem checkRanges_writes (l : List (Nat × Nat × Nat × Bool)) (io : Io) (s : State) :
    Writes [.keyway, .counters, .mport] s (checkRanges l io s).1 := by
  induction l generalizing s with
  | nil => exact .refl _ s
  | cons r l ih =>
    obtain ⟨ctx, va, n, w⟩ := r
    unfold checkRanges
    split
    · exact walkBroken_writes ..
    · have hrange := xlateRange_writes s ctx va n w
      split
      case h_1 hfailed =>
        rw [hfailed] at hrange
        exact hrange.mono
      case h_2 hok =>
        rw [hok] at hrange
        exact hrange.mono.trans (ih _)

/-- Where the ranges translate, nothing but Keyway's cache was written. -/
theorem checkRanges_ok_writes {l : List (Nat × Nat × Nat × Bool)} {io : Io} {s u : State}
    (h : checkRanges l io s = (u, none)) : Writes [.keyway] s u := by
  induction l generalizing s with
  | nil =>
    cases h
    exact .refl ..
  | cons r l ih =>
    obtain ⟨ctx, va, n, w⟩ := r
    unfold checkRanges at h
    split at h
    · cases h
    · have hrange := xlateRange_writes s ctx va n w
      split at h
      case h_1 => cases h
      case h_2 hok =>
        rw [hok] at hrange
        exact hrange.trans (ih h)

end Sys2Proof.Machine
end

section
/-! PROOFS. The Latch port: every command that comes as a packet is taken, and then held or started (R31, R61, R68); what
taking and replying change (R64, R66). -/

namespace Sys2Proof.Machine

-- One declaration at a time: see the frames of the state's operations.
set_option Elab.async false

/-! ### Key lists and counters -/

theorem findD_insertKey_self (l : List (Nat × Nat)) (k v d : Nat) : findD (insertKey l k v) k d = v := by
  induction l with
  | nil => simp [insertKey, findD]
  | cons c r ih =>
    obtain ⟨a, x⟩ := c
    unfold insertKey
    split_ifs with hlt heq
    · simp [findD, hlt.ne, ih]
    · simp [findD]
    · simp [findD]

theorem findD_insertKey_ne {j k : Nat} (h : j ≠ k) (l : List (Nat × Nat)) (v d : Nat) :
    findD (insertKey l k v) j d = findD l j d := by
  induction l with
  | nil => simp [insertKey, findD, h.symm]
  | cons c r ih =>
    obtain ⟨a, x⟩ := c
    unfold insertKey
    split_ifs with hlt heq
    · simp [findD, ih]
    · simp [findD, heq, h.symm]
    · simp [findD, h.symm]

theorem ctr_ctrAdd_self (i n : Nat) (s : State) : ctr (ctrAdd i n s) i = (ctr s i + n) % 2 ^ 64 :=
  findD_insertKey_self ..

theorem ctr_ctrAdd_ne {i j : Nat} (h : j ≠ i) (n : Nat) (s : State) : ctr (ctrAdd i n s) j = ctr s j :=
  findD_insertKey_ne h ..

theorem ctr_ctrInc_self (i : Nat) (s : State) : ctr (ctrInc i s) i = (ctr s i + 1) % 2 ^ 64 := ctr_ctrAdd_self i 1 s

theorem ctr_ctrInc_ne {i j : Nat} (h : j ≠ i) (s : State) : ctr (ctrInc i s) j = ctr s j := ctr_ctrAdd_ne h 1 s

theorem getP_setP_self (s : State) (id v : Nat) : getP (setP s id v) id = v := findD_insertKey_self ..

theorem getP_setP_ne {id j : Nat} (h : j ≠ id) (s : State) (v : Nat) : getP (setP s id v) j = getP s j :=
  findD_insertKey_ne h ..

/-! ### What taking a packet and replying write -/

theorem takePacket_latch (p : Packet) (s : State) :
    (takePacket p s).latch = { s.latch with free := s.latch.free - 1, order := s.latch.order + 1 } := by
  simp [takePacket]

theorem ctr_takePacket {i : Nat} (h : i ≠ 41) (p : Packet) (s : State) : ctr (takePacket p s) i = ctr s i := by
  have hcounters : (takePacket p s).counters = (ctrInc 41 s).counters := by simp [takePacket, ctrInc, ctrAdd, ctr]
  rw [ctr, hcounters]
  exact ctr_ctrInc_ne h s

theorem reply_latch (r : Reply) (s : State) : (reply r s).latch = { s.latch with replies := s.latch.replies ++ [r] } := by
  simp [reply]

theorem reply_eq (r : Reply) (s : State) :
    reply r s = { s with drip := (reply r s).drip, latch := { s.latch with replies := s.latch.replies ++ [r] } } := by
  conv_lhs => rw [(reply_writes r s).eq_mix]
  rw [← reply_latch]
  rfl

theorem accept_eq (p : Packet) (n r0 : Nat) (s : State) :
    accept p n r0 s = { s with drip := (accept p n r0 s).drip, latch := { s.latch with
      completions := s.latch.completions + 1, opened := s.latch.opened ++ [openOf p n],
      replies := s.latch.replies ++
        [{ tag := p.tag.toNat, status := 0x0001, opcode := p.opcode.toNat, final := false, kt := s.kt, r0 := r0, r1 := 0,
           r2 := 0, r3 := 0, order := n, first := true, entry := false }] } } :=
  reply_eq _ _

/-- The one final reply that an open command can have. -/
theorem finish_of_open {o : OpenCmd} {s : State} (h : s.latch.opened.any (fun x => sameCmd x o) = true)
    (status r0 r1 r2 r3 : Nat) : finish o status r0 r1 r2 r3 s =
      { s with drip := (finish o status r0 r1 r2 r3 s).drip, latch := { s.latch with
        opened := s.latch.opened.filter (fun x => !sameCmd x o),
        replies := s.latch.replies ++
          [{ tag := o.tag, status := status, opcode := o.opcode, final := true, kt := s.kt, r0 := r0, r1 := r1, r2 := r2,
             r3 := r3, order := o.order, first := false, entry := true }] } } := by
  unfold finish
  rw [if_pos h]
  exact reply_eq _ _

theorem finish_of_ended {o : OpenCmd} {s : State} (h : s.latch.opened.any (fun x => sameCmd x o) = false)
    (status r0 r1 r2 r3 : Nat) : finish o status r0 r1 r2 r3 s = s := by
  unfold finish
  rw [if_neg (by simp [h])]

/-- Settles O10. -/
theorem takingAndReplyingFrame : Obligations.TakingAndReplyingFrame := by
  unfold Obligations.TakingAndReplyingFrame
  intro p s o n st r0 r1 r2 r3
  exact ⟨(takePacket_writes p s).eq_mix, takePacket_latch p s, fun i hi => ctr_takePacket hi p s, reply_eq _ s,
    accept_eq p n r0 s, fun h => finish_of_ended h st r0 r1 r2 r3, fun h => finish_of_open h st r0 r1 r2 r3⟩

/-! ### The command of a packet -/

/-- The command `c` is the packet `p` of opcode `op`, which `start` starts. -/
def PacketForm (c : Instr) (op : Nat) (p : Packet) (x : Ext) (start : Nat → State → State) : Prop :=
  ∀ s, exec c s = live (takeCmd op p x start) s

/-- Every command that comes as a packet is one (R31). -/
theorem packetForm_of_packetOf {c : Instr} {op : Nat} {p : Packet} (h : packetOf c = some (op, p)) :
    ∃ x start, PacketForm c op p x start := by
  have hset {q : Packet} (hq : (if namesKey (setEntries q) then none else some (0x04, q)) = some (op, p)) :
      ∃ x start, ∀ s, paramSetRow q s = live (takeCmd op p x start) s := by
    split_ifs at hq with hkey
    cases hq
    refine ⟨Ext.none, startParamSet p Ext.none, fun s => ?_⟩
    simp only [paramSetRow, live, if_neg hkey]
  unfold packetOf at h
  split at h
  case h_5 => exact hset h
  case h_6 => exact hset h
  case h_7 => exact hset h
  case h_8 => exact hset h
  case h_9 => exact hset h
  case h_44 => cases h
  all_goals
    cases h
    exact ⟨_, _, fun _ => rfl⟩

/-- A packet that must wait is held by `after` (R68). -/
theorem PacketForm.exec_held {c : Instr} {op : Nat} {p : Packet} {x : Ext} {start : Nat → State → State} {s : State}
    (h : PacketForm c op p x start) (hlock : s.rst.rootLost = false) (htake : canTake s = true) (hop : p.opcode.toNat = op)
    (hwait : mustWait p s.latch.order (takePacket p s) = true) :
    exec c s = .next (holdCmd .after p x s.latch.order (takePacket p s)) := by
  rw [h, live_next hlock, takeCmd, if_pos ⟨htake, .inl hop⟩]
  exact congrArg _ (if_pos hwait)

/-- Settles O8: taking the packet changes none of what it waits for. -/
theorem afterHoldsThePacket : Obligations.AfterHoldsThePacket := by
  unfold Obligations.AfterHoldsThePacket
  intro c op p s hpacket hlock htake hop hbehind
  obtain ⟨x, start, hform⟩ := packetForm_of_packetOf hpacket
  refine ⟨x, hform.exec_held hlock htake hop ?_⟩
  simp only [mustWait, takePacket_held, takePacket_opened, takePacket_replies, Bool.or_eq_true, Bool.and_eq_true,
    List.any_eq_true, decide_eq_true_eq]
  rcases hbehind with ⟨h, hh, hwhy, hafter, hlt⟩ | ⟨hafter, hearlier⟩
  · exact .inl (.inl ⟨h, hh, ⟨hwhy, hafter⟩, hlt⟩)
  · exact .inl (.inr ⟨hafter, or_assoc.2 hearlier⟩)

/-- A packet that runs starts on the state in which it is taken. -/
theorem PacketForm.exec_start {c : Instr} {op : Nat} {p : Packet} {x : Ext} {start : Nat → State → State} {s : State}
    (h : PacketForm c op p x start) (hruns : Runs op p s) :
    exec c s = .next (start s.latch.order (takePacket p s)) := by
  rw [h, live_next hruns.lock, takeCmd_start hruns]

/-- Checks 2 to 8 of R61 pass, and a completion entry is free: the command goes on from the state that the translation of its
ranges leaves. -/
theorem checked_runs {op : Nat} {async : Bool} {p : Packet} {order : Nat} {io : Io} {c : Checks} {ok : State → State}
    {s u : State} (h : Runs op p s) (hscope : jobScope op = false) (hshort : p.payloadLen.toNat ≤ 4096)
    (hlen : c.len p.payloadLen.toNat = true) (hrange : c.range = true) (hstate : c.state = none)
    (hranges : checkRanges c.ranges io (takePacket p s) = (u, none)) (hres : c.res = none)
    (hentry : async = true → entryFree s) : checked op async p order io c ok (takePacket p s) = ok u := by
  have hfields := checkFields_none h (c := c) (t := takePacket p s) hshort hlen (by simp [hscope]) hrange (by simp [hscope])
    hstate
  have hlatch : u.latch = (takePacket p s).latch := (checkRanges_ok_writes hranges).same .latch (by decide)
  exact checked_ranges hfields hranges hres fun hasync => by simpa [hlatch, entryFree] using hentry hasync

/-- The same for a job-scope command. -/
theorem checked_runsJob {op : Nat} {async : Bool} {p : Packet} {order : Nat} {io : Io} {c : Checks} {ok : State → State}
    {s u : State} (h : RunsJob op p s) (hshort : p.payloadLen.toNat ≤ 4096)
    (hlen : c.len p.payloadLen.toNat = true) (hrange : c.range = true) (hstate : c.state = none)
    (hranges : checkRanges c.ranges io (takePacket p s) = (u, none)) (hres : c.res = none)
    (hentry : async = true → entryFree s) : checked op async p order io c ok (takePacket p s) = ok u := by
  have hfields := (checkFields_eq_state_of_runsJob h (c := c) hshort hlen hrange).trans hstate
  have hlatch : u.latch = (takePacket p s).latch := (checkRanges_ok_writes hranges).same .latch (by decide)
  exact checked_ranges hfields hranges hres fun hasync => by simpa [hlatch, entryFree] using hentry hasync

/-- The first range that does not translate is the reply (R61, R501). -/
theorem checked_resource {op : Nat} {async : Bool} {p : Packet} {order : Nat} {io : Io} {c : Checks} {ok : State → State}
    {t : State} {st : Nat} (hfields : checkFields op p c t = none) (hranges : c.ranges = []) (hres : c.res = some st) :
    checked op async p order io c ok t = replyOne p order st 0 0 0 0 t := by
  simp [checked, hfields, hranges, checkRanges, hres]

@[simp] theorem keyNow_takePacket (p : Packet) (s : State) : keyNow (takePacket p s) = keyNow s := by
  rw [(takePacket_writes p s).eq_mix]
  rfl

@[simp] theorem Checks.plain_len (n : Nat) : Checks.plain.len n = decide (n = 0) := rfl

/-- Checks that name no field, state or range of their own pass where the packet has the right length. -/
theorem checked_runs_plain {op : Nat} {async : Bool} {p : Packet} {order : Nat} {io : Io} {len : Nat → Bool}
    {ok : State → State} {s : State} (h : Runs op p s) (hscope : jobScope op = false) (hshort : p.payloadLen.toNat ≤ 4096)
    (hlen : len p.payloadLen.toNat = true) (hentry : async = true → entryFree s) :
    checked op async p order io { Checks.plain with len := len } ok (takePacket p s) = ok (takePacket p s) :=
  checked_runs h hscope hshort hlen rfl rfl rfl rfl hentry

/-- Settles O9. -/
theorem echoAndIdentifyReply : Obligations.EchoAndIdentifyReply := by
  unfold Obligations.EchoAndIdentifyReply
  intro p s
  constructor
  · intro hruns hlen
    rw [PacketForm.exec_start (c := .echo p) (fun _ => rfl) hruns, startEcho, syncCmd,
      checked_runs_plain hruns (by decide) hlen (by simpa using hlen) (by simp)]
  · intro hruns hlen
    rw [PacketForm.exec_start (c := .identify p) (fun _ => rfl) hruns, startIdentify, syncCmd,
      checked_runs_plain hruns (by decide) (by omega) (by simpa using hlen) (by simp), keyNow_takePacket, releaseWord,
      releaseWord, takePacket_fuses, getP, getP, takePacket_params]

/-- Settles O29: the channel's state is the command's resource check, behind that for a Stopped channel. -/
theorem pourStartNeedsAnIdleChannel : Obligations.PourStartNeedsAnIdleChannel := by
  unfold Obligations.PourStartNeedsAnIdleChannel
  intro p s hruns hlen hva
  have hpour : (takePacket p s).pour = s.pour := takePacket_pour p s
  have hstarted {st : Nat} (hres : (if anyStopped s then some 0x0403
      else if (chAt s (p.p0.toNat % 32)).st = .idle then none else some 0x0304) = some st) :
      exec (.pourStart p) s = .next (replyOne p s.latch.order st 0 0 0 0 (takePacket p s)) := by
    rw [PacketForm.exec_start (c := .pourStart p) (fun _ => rfl) hruns, startPourStart, braceCmd]
    refine congrArg _ (checked_resource (checkFields_none hruns (by omega) ?len ?scope ?range ?admits rfl) rfl ?res)
    case len => simp [hlen]
    case scope => simp [jobScope]
    case range => simp [hva]
    case admits => simp [jobScope]
    case res => simpa [anyStopped, chAt] using hres
  constructor
  · intro hstopped hbusy
    exact hstarted (by simp [hstopped, hbusy])
  · intro hstopped
    exact hstarted (by simp [hstopped])

/-! ### The header checks and a load that a commit waits for -/

/-- A block that takes packets, whose pending commit waits for the load of place 0 in the order. -/
def commitWaiting : State :=
  { State.reset with
    rst := { State.reset.rst with ctlReady := true }
    latch := { Latch.reset with free := 1 }
    ep := { State.reset.ep with
      commit := some { step := 1, cmd := { tag := 0, opcode := 0x15, order := 1, jobScope := true }, loads := [0], bad := false,
                       ready := false } } }

/-- A LAYER_LOAD of a header version that is not 2. -/
def badVersionLoad : Packet :=
  { opcode := 0x14, cls := 0, after := false, tag := 0, jobTag := 0, hdrVersion := 0, payloadLen := 0, p0 := 0, p1 := 0, p2 := 0,
    p3 := 0, p4 := 0, payload := [] }

/-- Whether the pending commit of the state that a command leaves has seen a failed load. -/
def commitBad : Host.Outcome State Fault Refusal → Option Bool
  | .next t => t.ep.commit.map (·.bad)
  | _ => none

/-- The failed load is noted in the commit (R88), although its packet failed a header check. -/
theorem commitBad_badVersionLoad : commitBad (exec (.layerLoad badVersionLoad .ok) commitWaiting) = some true := by
  rfl

/-- Refutes O7: a LAYER_LOAD that fails a header check has an effect beside its reply. The pending commit that waits for it
notes that it failed (R88), so what it leaves is not the reply's state, whose commit is as it was. -/
theorem not_headerChecksInOrder : ¬ Obligations.HeaderChecksInOrder := by
  unfold Obligations.HeaderChecksInOrder
  intro h
  have hchecks := (h (.layerLoad badVersionLoad .ok) 0x14 badVersionLoad commitWaiting rfl rfl).2 rfl (.inl rfl) rfl
    (by simp [commitWaiting, Latch.reset]) rfl (by simp)
  have hreply := hchecks.1 (by decide)
  have hbad := commitBad_badVersionLoad
  rw [hreply] at hbad
  simp [commitBad, commitWaiting] at hbad

end Sys2Proof.Machine
end

section
/-! PROOFS. The frames of the two memories (R46, R309, R313, R333). -/

namespace Sys2Proof.Machine

-- One declaration at a time: see the frames of the state's operations.
set_option Elab.async false

/-- A byte outside every translated piece reads as before the write. -/
theorem memGet_writePieces_out (l : List Piece) (bs : List Byte) (m : Mem) {a : Nat}
    (h : ∀ q ∈ l, a < q.pa ∨ q.pa + q.len ≤ a) : memGet (writePieces l bs m) a = memGet m a := by
  induction l generalizing bs m with
  | nil => rfl
  | cons p r ih =>
    have hlen : (bs.take p.len).length ≤ p.len := List.length_take_le ..
    have hp := h p (by simp)
    rw [writePieces, ih _ _ fun q hq => h q (by simp [hq]), memGet_memWrite_out (by omega)]

/-- A write of host memory that translates writes its pieces; one that does not writes no byte. -/
theorem hostWrite_ok {s t : State} {ctx va : Nat} {bs : List Byte} (h : hostWrite s ctx va bs = (t, .ok ())) :
    ∃ u l, xlateRange s ctx va bs.length true = (u, .ok l) ∧ t = { u with hostMem := writePieces l bs s.hostMem } := by
  have hrange := xlateRange_writes s ctx va bs.length true
  unfold hostWrite at h
  split at h
  case h_1 => cases h
  case h_2 u l hok =>
    rw [hok] at hrange
    cases h
    have hmem : u.hostMem = s.hostMem := hrange.same .hostMem (by decide)
    exact ⟨u, l, hok, by rw [hmem]⟩

theorem hostWrite_error {s t : State} {ctx va : Nat} {bs : List Byte} {f : XFault}
    (h : hostWrite s ctx va bs = (t, .error f)) : Writes [.keyway] s t := by
  have hrange := xlateRange_writes s ctx va bs.length true
  unfold hostWrite at h
  split at h
  case h_1 hfailed =>
    rw [hfailed] at hrange
    cases h
    exact hrange
  case h_2 => cases h

theorem hostWrite_frame (s : State) (ctx va : Nat) (bs : List Byte) :
    (∀ t, hostWrite s ctx va bs = (t, .ok ()) →
      ∃ (u : State) (l : List Piece), xlateRange s ctx va bs.length true = (u, .ok l) ∧
        t.hostMem = writePieces l bs s.hostMem ∧
        (∀ a, (∀ q ∈ l, a < q.pa ∨ q.pa + q.len ≤ a) → memGet t.hostMem a = memGet s.hostMem a) ∧
        t = { s with hostMem := t.hostMem, keyway := t.keyway }) ∧
    (∀ t f, hostWrite s ctx va bs = (t, .error f) → t.hostMem = s.hostMem ∧ t = { s with keyway := t.keyway }) := by
  constructor
  · intro t h
    have hwrites := hostWrite_writes s ctx va bs
    rw [h] at hwrites
    obtain ⟨u, l, hl, rfl⟩ := hostWrite_ok h
    exact ⟨u, l, hl, rfl, fun a ha => memGet_writePieces_out l bs _ ha, hwrites.eq_mix⟩
  · intro t f h
    have hwrites := hostWrite_error h
    exact ⟨hwrites.same .hostMem (by decide), hwrites.eq_mix⟩

/-! ### The scratchpad -/

theorem spCount_of_inside {a n : Nat} (h : a + n ≤ spSize) (s : State) : spCount a n s = s := by
  unfold spCount
  rw [if_neg (by omega)]

theorem spCount_of_outside {a n : Nat} (h : spSize < a + n) (s : State) : spCount a n s = ctrInc 12 s := by
  unfold spCount
  rw [if_pos h]

theorem spWrite_sp (a : Nat) (bs : List Byte) (s : State) :
    (spWrite a bs s).sp = memWrite s.sp a (bs.take (spSize - a)) :=
  (spCount_writes ..).same .sp (by decide)

theorem spWrite_spPoison (a : Nat) (bs : List Byte) (s : State) :
    (spWrite a bs s).spPoison = s.spPoison.filter fun w => !wholeWord a (bs.take (spSize - a)).length w :=
  (spCount_writes ..).same .spPoison (by decide)

/-- A byte of the range reads as written. -/
theorem memGet_spWrite_in {a i : Nat} {bs : List Byte} (hi : i < bs.length) (ha : a + i < spSize) (s : State) :
    memGet (spWrite a bs s).sp (a + i) = bs.getD i 0 := by
  rw [spWrite_sp, memGet_memWrite_in (by rw [List.length_take]; omega)]
  simp [List.getD_eq_getElem?_getD, show i < spSize - a by omega]

/-- Every other byte reads as before. -/
theorem memGet_spWrite_out {a x : Nat} {bs : List Byte} (h : x < a ∨ a + bs.length ≤ x ∨ spSize ≤ x) (s : State) :
    memGet (spWrite a bs s).sp x = memGet s.sp x := by
  rw [spWrite_sp, memGet_memWrite_out]
  rw [List.length_take]
  omega

/-- A word wholly written loses its poison, and no other (R313). -/
theorem mem_spWrite_spPoison (a : Nat) (bs : List Byte) (s : State) (w : Nat) :
    w ∈ (spWrite a bs s).spPoison ↔
      w ∈ s.spPoison ∧ ¬ (a ≤ 8 * w ∧ 8 * w + 8 ≤ a + min bs.length (spSize - a)) := by
  rw [spWrite_spPoison, List.mem_filter, List.length_take, Nat.min_comm]
  simp only [wholeWord, Bool.not_eq_true', decide_eq_false_iff_not]

theorem ctr_spWrite_outside {a : Nat} {bs : List Byte} (h : spSize < a + bs.length) (s : State) :
    ctr (spWrite a bs s) 12 = (ctr s 12 + 1) % 2 ^ 64 := by
  unfold spWrite
  rw [spCount_of_outside h, ctr_ctrInc_self]
  rfl

theorem spWrite_counters_inside {a : Nat} {bs : List Byte} (h : a + bs.length ≤ spSize) (s : State) :
    (spWrite a bs s).counters = s.counters := by
  unfold spWrite
  rw [spCount_of_inside h]

/-- Settles O11. -/
theorem memoryWriteFrames : Obligations.MemoryWriteFrames := by
  unfold Obligations.MemoryWriteFrames
  refine ⟨hostWrite_frame, fun s a bs => ?_⟩
  exact ⟨fun i hi ha => memGet_spWrite_in hi ha s, fun x hx => memGet_spWrite_out hx s, mem_spWrite_spPoison a bs s,
    (spWrite_writes a bs s).eq_mix, fun h => ctr_spWrite_outside h s, fun h => spWrite_counters_inside h s⟩

end Sys2Proof.Machine
end

section
/-! PROOFS. PARAM_GET, SNAPSHOT and DUMP_READ (R71, R84, R86, R419). -/

namespace Sys2Proof.Machine

-- One declaration at a time: see the frames of the state's operations.
set_option Elab.async false

theorem getIds_length (p : Packet) : (getIds p).length = p.payloadLen.toNat / 2 := by
  simp [getIds]

/-- The check that R495 lists every ID passes. -/
theorem getIds_listed {p : Packet} (h : ∀ i ∈ getIds p, (paramInfo i).isSome = true) :
    (if (getIds p).all fun i => (paramInfo i).isSome then none else some (0x0107, 0, 0) : Option (Nat × Nat × Nat)) = none :=
  if_pos (List.all_eq_true.2 h)

/-- PARAM_GET of one or two IDs. -/
theorem exec_paramGet_short {p : Packet} {s : State} (h : Runs 0x03 p s)
    (hlen : p.payloadLen.toNat = 2 ∨ p.payloadLen.toNat = 4) (hids : ∀ i ∈ getIds p, (paramInfo i).isSome = true) (io : Io) :
    let v := fun i => ((getIds p).map (paramValue (takePacket p s))).getD i 0
    exec (.paramGet p io) s = .next
      (replyOne p s.latch.order 0 (v 0 % 2 ^ 32) (v 0 / 2 ^ 32) (v 1 % 2 ^ 32) (v 1 / 2 ^ 32) (takePacket p s)) := by
  have hfew : (getIds p).length ≤ 2 := by rw [getIds_length]; omega
  rw [PacketForm.exec_start (c := .paramGet p io) (fun _ => rfl) h, startParamGet, syncCmd,
    checked_runs (u := takePacket p s) h (by decide) (by omega) ?len rfl (getIds_listed hids) ?ranges rfl (by simp)]
  case len => rcases hlen with hlen | hlen <;> simp [hlen, inR]
  case ranges => simp [hfew, checkRanges]
  · dsimp only
    rw [if_pos hfew]

/-- PARAM_GET of more than two. -/
theorem exec_paramGet_long {p : Packet} {io : Io} {s u w : State} (h : Runs 0x03 p s) (heven : p.payloadLen.toNat % 2 = 0)
    (hmany : 4 < p.payloadLen.toNat) (hshort : p.payloadLen.toNat ≤ 4096)
    (hids : ∀ i ∈ getIds p, (paramInfo i).isSome = true)
    (hranges : checkRanges [(0, pVa p, 8 * (p.payloadLen.toNat / 2), true)] io (takePacket p s) = (u, none))
    (hwrite : ownWrite 0 (pVa p) (((getIds p).map (paramValue (takePacket p s))).flatMap (leBytes 8)) io u = (w, none)) :
    exec (.paramGet p io) s = .next (replyOne p s.latch.order 0 (p.payloadLen.toNat / 2) 0 0 0 w) := by
  have hn : ¬ (getIds p).length ≤ 2 := by rw [getIds_length]; omega
  rw [PacketForm.exec_start (c := .paramGet p io) (fun _ => rfl) h, startParamGet, syncCmd,
    checked_runs (u := u) h (by decide) hshort ?len rfl (getIds_listed hids) ?ranges rfl (by simp)]
  case len => simp [heven, inR, hshort]; omega
  case ranges =>
    rw [if_neg hn, getIds_length]
    exact hranges
  · dsimp only [Ext.ofIo]
    rw [if_neg hn, hwrite, getIds_length]

theorem exec_snapshot {p : Packet} {io : Io} {s u w : State} (h : Runs 0x05 p s) (hlen : p.payloadLen.toNat = 0)
    (hset : p.p0.toNat % 256 ≤ 4)
    (hranges : checkRanges [(0, pVa p, (snapBytes (takePacket p s) (p.p0.toNat % 256)).length, true)] io (takePacket p s) =
      (u, none))
    (hwrite : ownWrite 0 (pVa p) (snapBytes (takePacket p s) (p.p0.toNat % 256)) io u = (w, none)) :
    exec (.snapshot p io) s =
      .next (replyOne p s.latch.order 0 (snapBytes (takePacket p s) (p.p0.toNat % 256)).length 0 0 0 w) := by
  rw [PacketForm.exec_start (c := .snapshot p io) (fun _ => rfl) h, startSnapshot, if_pos hset, syncCmd,
    checked_runs (u := u) h (by decide) (by omega) (by simp [hlen]) (by simpa using hset) rfl hranges rfl (by simp)]
  dsimp only [Ext.ofIo]
  rw [hwrite]

theorem exec_dumpRead {p : Packet} {io : Io} {s u w : State} {out : List Byte} (h : Runs 0x71 p s)
    (hlen : p.payloadLen.toNat = 0) (hentry : entryFree s)
    (hout : out = if p.p0.toNat % 2 = 0 then logBytes (takePacket p s) else (takePacket p s).dump.header)
    (hranges : checkRanges [(0, pVa p, out.length, true)] io (takePacket p s) = (u, none))
    (hwrite : ownWrite 0 (pVa p) out io (accept p s.latch.order 0 u) = (w, none)) :
    exec (.dumpRead p io) s = .next
      (finish (openOf p s.latch.order) 0 out.length (if p.p0.toNat % 2 = 0 then w.rlog.length else 0) 0 0 w) := by
  rw [PacketForm.exec_start (c := .dumpRead p io) (fun _ => rfl) h, startDumpRead, ← hout, asyncCmd,
    checked_runs (u := u) h (by decide) (by omega) (by simp [hlen]) rfl rfl hranges rfl (fun _ => hentry)]
  dsimp only [Ext.ofIo]
  rw [hwrite]

/-- Settles O12. -/
theorem paramGetSnapshotAndDumpReadComplete : Obligations.ParamGetSnapshotAndDumpReadComplete := by
  unfold Obligations.ParamGetSnapshotAndDumpReadComplete
  intro p io s u w
  exact ⟨fun h hlen hids => exec_paramGet_short h hlen hids io,
    fun h heven hmany hshort hids hranges hwrite => exec_paramGet_long h heven hmany hshort hids hranges hwrite,
    fun h hlen hset hranges hwrite => exec_snapshot h hlen hset hranges hwrite,
    fun h hlen hentry hranges hwrite => exec_dumpRead h hlen hentry rfl hranges hwrite⟩

end Sys2Proof.Machine
end

section
/-! PROOFS. What links and the sending again of their chunks write (R252, R260), and a Hinge that goes Off. -/

namespace Sys2Proof.Machine

-- One declaration at a time: see the frames of the state's operations.
set_option Elab.async false

/-! ### Frames -/

theorem KftOnly.writes {s t : State} (h : KftOnly s t) : Writes [.kft, .counters] s t := by
  obtain ⟨kft, counters, rfl⟩ := h
  exact .of_mix rfl

/-- What sending writes where its chunks may have used up their retries, which ends the job. -/
def sendFields : List Fld := .kft :: faultFields

theorem pumpTx_writes (s : State) : Writes [.kft, .counters] s (pumpTx s) := (pumpTx_kftOnly s).writes

theorem requeue_writes (c : TxChunk) (s : State) : Writes sendFields s (requeue c s) :=
  .ite (fun _ => (jobFault_writes ..).mono) (fun _ => (putChunk_kftOnly _ s).writes.mono)

theorem resendAll_writes (l : List TxChunk) (s : State) : Writes sendFields s (resendAll l s) :=
  .ite (fun _ => .refl _ s) (fun _ => .after (pumpTx_writes _) (.foldl (fun t c => requeue_writes c t) _ s))

theorem unplace_writes (k : Nat) (s : State) : Writes [.kft] s (unplace k s) := .of_mix rfl

theorem resendLink_writes (k : Nat) (s : State) : Writes sendFields s (resendLink k s) := by
  unfold resendLink
  exact .after (pumpTx_writes _) ((unplace_writes k s).mono.trans (.foldl (fun t c => requeue_writes c t) _ _))

theorem bumpPaths_writes (k : Nat) (s : State) : Writes [.kft] s (bumpPaths k s) :=
  .ite (fun _ => .of_mix rfl) (fun _ => .refl _ s)

theorem leaveSpray_writes (k : Nat) (was : LinkState) (s : State) : Writes [.kft] s (leaveSpray k was s) :=
  .ite (fun _ => bumpPaths_writes k s) (fun _ => .refl _ s)

theorem setLink_writes (k : Nat) (l : Link) (s : State) : Writes [.links] s (setLink k l s) := .of_mix rfl

theorem linkEnter_writes (k : Nat) (st : LinkState) (s : State) :
    Writes [.links, .ev, .counters, .drip] s (linkEnter k st s) := by
  unfold linkEnter
  exact .after (emit_writes ..) (.after (dripAt_writes ..) (setLink_writes ..).mono)

theorem lanesMap_writes (l : List Nat) (f : Lane → Lane) (s : State) : Writes [.lanes] s (lanesMap l f s) :=
  .foldl (fun _ _ => .of_mix rfl) l s

/-- What a change of a link's state writes. -/
def linkFields : List Fld := .links :: .lanes :: .params :: sendFields

theorem linkOff_writes (k : Nat) (s : State) : Writes linkFields s (linkOff k s) :=
  .ite (fun _ => .refl _ s)
    (fun _ => .after (resendLink_writes ..) (.after (leaveSpray_writes ..) (linkEnter_writes k .off s).mono))

theorem linkDown_writes (k : Nat) (s : State) : Writes linkFields s (linkDown k s) := by
  unfold linkDown
  extract_lets l downs now
  exact .after (resendLink_writes ..) (.after (leaveSpray_writes ..)
    (.after (ctrInc_writes ..) (.after (linkEnter_writes ..) (setLink_writes ..).mono)))

theorem linkTrain_writes (k : Nat) (s : State) : Writes linkFields s (linkTrain k s) := by
  unfold linkTrain
  exact .after (linkEnter_writes ..) (lanesMap_writes ..).mono

theorem hingeOff_writes (p : Nat) (rates : Bool) (s : State) : Writes linkFields s (hingeOff p rates s) := by
  unfold hingeOff
  exact .after (lanesMap_writes ..) (.foldl (fun t i => linkOff_writes (4 * p + i) t) _ s)

theorem hingeStart_writes (p : Nat) (s : State) : Writes linkFields s (hingeStart p s) :=
  .ite (fun _ => .foldl (fun t k => .ite (fun _ => linkTrain_writes k t) fun _ => .refl _ t) _ s) (fun _ => .refl _ s)

/-! ### What a link is after a change -/

theorem linkAt_congr {s t : State} (h : t.links = s.links) (k : Nat) : linkAt t k = linkAt s k := by
  rw [linkAt, linkAt, h]

theorem linkAt_setLink_self {k : Nat} {s : State} (h : k < s.links.length) (l : Link) : linkAt (setLink k l s) k = l := by
  simp [linkAt, setLink, h]

theorem linkAt_setLink_ne {j k : Nat} (h : j ≠ k) (l : Link) (s : State) : linkAt (setLink k l s) j = linkAt s j := by
  simp [linkAt, setLink, List.getElem?_set_ne h.symm]

/-- A link past the last one is Off. -/
theorem lt_links_of_st_ne_off {k : Nat} {s : State} (h : (linkAt s k).st ≠ .off) : k < s.links.length := by
  by_contra hk
  exact h (by simp [linkAt, List.getElem?_eq_none (not_lt.1 hk), Link.reset])

theorem linkEnter_links (k : Nat) (st : LinkState) (s : State) :
    (linkEnter k st s).links = (setLink k { linkAt s k with st := st } s).links := by
  simp [linkEnter]

theorem linkOff_links {k : Nat} {s : State} (h : (linkAt s k).st ≠ .off) :
    (linkOff k s).links = (setLink k { linkAt s k with st := .off } s).links := by
  unfold linkOff
  rw [if_neg h, ← linkEnter_links]
  exact ((leaveSpray_writes ..).mono.trans (resendLink_writes ..)).same .links (by decide)

theorem linkOff_self (k : Nat) (s : State) : (linkAt (linkOff k s) k).st = .off := by
  by_cases h : (linkAt s k).st = .off
  · rwa [linkOff, if_pos h]
  · rw [linkAt_congr (linkOff_links h), linkAt_setLink_self (lt_links_of_st_ne_off h)]

/-- A link that is Off stays so as another goes Off. -/
theorem linkOff_keeps_off {j : Nat} {s : State} (hj : (linkAt s j).st = .off) (k : Nat) :
    (linkAt (linkOff k s) j).st = .off := by
  by_cases hjk : j = k
  · exact hjk ▸ linkOff_self j s
  by_cases h : (linkAt s k).st = .off
  · rwa [linkOff, if_pos h]
  · rwa [linkAt_congr (linkOff_links h), linkAt_setLink_ne hjk]

/-- Each of several links that go Off is Off. -/
theorem foldl_linkOff {f : Nat → Nat} {k : Nat} (l : List Nat) (s : State) (h : k ∈ l.map f ∨ (linkAt s k).st = .off) :
    (linkAt (l.foldl (fun t i => linkOff (f i) t) s) k).st = .off := by
  induction l generalizing s with
  | nil => simpa using h
  | cons i r ih =>
    refine ih _ ?_
    simp only [List.map_cons, List.mem_cons] at h
    rcases h with (rfl | hk) | hoff
    · exact .inr (linkOff_self ..)
    · exact .inl hk
    · exact .inr (linkOff_keeps_off hoff _)

/-- A Hinge that goes Off takes its four links Off (R252). -/
theorem hingeOff_off {p k : Nat} (hk : k / 4 = p) (rates : Bool) (s : State) :
    (linkAt (hingeOff p rates s) k).st = .off := by
  unfold hingeOff
  rw [linkAt_congr ((lanesMap_writes ..).same .links (by decide))]
  refine foldl_linkOff _ _ (.inl ?_)
  simp only [List.mem_map, List.mem_range]
  exact ⟨k % 4, by omega, by omega⟩

end Sys2Proof.Machine
end

section
/-! PROOFS. PARAM_SET and the rows it carries (R83 to R85, R252, R392, R473, R478, R494). -/

namespace Sys2Proof.Machine

-- One declaration at a time: see the frames of the state's operations.
set_option Elab.async false

/-! ### The command -/

/-- Only entries that name mgmt.key_install write an install record. -/
theorem keyRecord_of_not_namesKey {l : List (Nat × Nat)} (h : namesKey l = false) : keyRecord l = none := by
  have hentry : ¬ ((List.range 40).all fun i => l.any fun e => decide (e.1 = 0x0310 + i)) = true := by
    intro hall
    have hfirst := List.all_eq_true.1 hall 0 (by simp)
    obtain ⟨e, he, hid⟩ := List.any_eq_true.1 hfirst
    have hnot := List.any_eq_false.1 h e he
    simp only [decide_eq_true_eq] at hid hnot
    omega
  unfold keyRecord
  rw [if_neg hentry]

theorem applyEntries_of_not_namesKey {l : List (Nat × Nat)} (h : namesKey l = false) (at_ : Option Nat) (k : KeyVerdict)
    (s : State) : applyEntries at_ l k s = l.foldl (applyEntry at_) s := by
  simp [applyEntries, keyRecord_of_not_namesKey h]

theorem startParamSet_applies {p : Packet} {s : State} (h : Runs 0x04 p s) (h16 : p.payloadLen.toNat % 16 = 0)
    (hmin : 16 ≤ p.payloadLen.toNat) (hmax : p.payloadLen.toNat ≤ 4096)
    (hgood : entriesBad (takePacket p s) (setStep p) (setEntries p) 0 (setEntries p) = none) (x : Ext) (order : Nat) :
    startParamSet p x order (takePacket p s) =
      replyOne p order 0 (setEntries p).length 0 0 0 (applyEntries (setStep p) (setEntries p) x.key (takePacket p s)) := by
  rw [startParamSet, syncCmd, hgood]
  exact checked_runs h (by decide) hmax (by simp [h16, inR, hmin, hmax]) rfl rfl rfl rfl (by simp)

theorem startParamSet_refused {p : Packet} {s : State} (h : Runs 0x04 p s) (h16 : p.payloadLen.toNat % 16 = 0)
    (hmin : 16 ≤ p.payloadLen.toNat) (hmax : p.payloadLen.toNat ≤ 4096) {st i : Nat}
    (hbad : entriesBad (takePacket p s) (setStep p) (setEntries p) 0 (setEntries p) = some (st, i)) (x : Ext) (order : Nat) :
    startParamSet p x order (takePacket p s) = replyOne p order st 0 i 0 0 (takePacket p s) := by
  rw [startParamSet, syncCmd, hbad]
  exact checked_refused (checkFields_eq_state h hmax (by simp [h16, inR, hmin, hmax]) (by simp [jobScope]) rfl
    (by simp [jobScope]))

/-- The rows that carry a PARAM_SET without a key are one (R83). -/
theorem exec_paramSetRows {p : Packet} {s w : State} (h : Runs 0x04 p s) (hkey : namesKey (setEntries p) = false)
    (hw : startParamSet p Ext.none s.latch.order (takePacket p s) = w) :
    exec (.paramSet p) s = .next w ∧ exec (.rollbackCommit p) s = .next w ∧ exec (.hingeEnable p) s = .next w ∧
      exec (.laneModeWrite p) s = .next w ∧ exec (.recEnable p) s = .next w := by
  have hrow : paramSetRow p s = .next w := by
    rw [paramSetRow, live_next h.lock, hkey, ← hw, takeCmd_start h]
    rfl
  exact ⟨hrow, hrow, hrow, hrow, hrow⟩

theorem exec_keyInstall {p : Packet} {s : State} (h : Runs 0x04 p s) (k : KeyVerdict) :
    exec (.keyInstall p k) s = .next (startParamSet p { Ext.none with key := k } s.latch.order (takePacket p s)) :=
  PacketForm.exec_start (fun _ => rfl) h

/-! ### What one entry does -/

/-- A parameter that no rule gives an effect of its own. -/
theorem applyNow_plain {id : Nat} (hhinge : id < 0x0200 ∨ 0x0280 ≤ id) (hroll : id ≠ 0x002C) (hrec : id ≠ 0x0A02)
    (hkey : ¬ (0x0310 ≤ id ∧ id ≤ 0x0337)) (s : State) (v : Nat) : applyNow s id v = setP s id v := by
  unfold applyNow
  rw [if_neg hroll, if_neg hkey, if_neg (by omega), if_neg hrec]

theorem applyEntry_bound {id : Nat} (h : isBound id = true) (n : Nat) (s : State) (v : Nat) :
    applyEntry (some n) s (id, v) = { s with pendParams := s.pendParams ++ [{ id := id, step := n, value := v }] } :=
  if_pos h

/-- hinge{p}.enable = 0 takes the Hinge Off (R252). -/
theorem applyNow_hingeDisable {q : Nat} (hq : q < 8) (s : State) :
    applyNow s (0x0200 + 16 * q) 0 = setP (hingeOff q true s) (0x0200 + 16 * q) 0 := by
  unfold applyNow setHinge
  rw [if_neg (by omega), if_neg (by omega), if_pos (by omega), if_pos (by omega), if_pos rfl,
    show (0x0200 + 16 * q - 0x0200) / 16 = q by omega]

/-- A rising enable of rec.ctl restarts the record ring (R392). -/
theorem applyNow_recEnable {v : Nat} {s : State} (hnew : bit v 0 = true) (hold : bit (getP s 0x0A02) 0 = false) :
    (applyNow s 0x0A02 v).recRing = Rec.reset := by
  simp [applyNow, recCtl, hnew, hold]

/-- fw.rollback_commit never lowers the fuse counter (R473). -/
theorem le_rollbackRaise (s : State) : s.fuses.rollback ≤ (rollbackRaise s).fuses.rollback := by
  unfold rollbackRaise
  split
  · exact le_max_left ..
  · exact le_rfl

theorem applyNow_rollbackCommit (s : State) (v : Nat) : applyNow s 0x002C v = rollbackRaise s := rfl

theorem applyNow_key {id : Nat} (h : 0x0310 ≤ id ∧ id ≤ 0x0337) (s : State) (v : Nat) : applyNow s id v = s := by
  unfold applyNow
  rw [if_neg (by omega), if_pos h]

/-- Settles O13. -/
theorem paramSetAppliesAllOrNone : Obligations.ParamSetAppliesAllOrNone := by
  unfold Obligations.ParamSetAppliesAllOrNone
  refine ⟨fun p k s h h16 hmin hmax => ⟨fun hgood => ⟨fun hkey => ?_, ?_⟩, fun st i hbad => ⟨fun hkey => ?_, ?_⟩⟩,
    fun s id v => ⟨fun hhinge hroll hrec hkey => ?_, fun n hbound => applyEntry_bound hbound n s v,
      fun q hq _ j hj => ?_, fun hnew hold => applyNow_recEnable hnew hold, ?_, fun hkey => applyNow_key hkey s v⟩⟩
  · refine exec_paramSetRows h hkey ?_
    rw [startParamSet_applies h h16 hmin hmax hgood, applyEntries_of_not_namesKey hkey]
  · rw [exec_keyInstall h, startParamSet_applies h h16 hmin hmax hgood]
  · exact exec_paramSetRows h hkey (startParamSet_refused h h16 hmin hmax hbad ..)
  · rw [exec_keyInstall h, startParamSet_refused h h16 hmin hmax hbad]
  · exact ⟨applyNow_plain hhinge hroll hrec hkey s v, getP_setP_self s id v, fun j hj => getP_setP_ne hj s v⟩
  · rw [applyNow_hingeDisable hq, linkAt_congr (setP_links ..)]
    exact hingeOff_off hj true s
  · rw [applyNow_rollbackCommit]
    exact le_rollbackRaise s

end Sys2Proof.Machine
end

section
/-! PROOFS. MMU_MAP, MMU_UNMAP and MMU_INVAL (R337 to R339), and when an MMU command ends (R338). -/

namespace Sys2Proof.Machine

-- One declaration at a time: see the frames of the state's operations.
set_option Elab.async false

/-! ### The end of an MMU command -/

/-- The wait of an MMU command, for what is under way in `s`. -/
def mmuWaitOf (unmapJob : Bool) (c : OpenCmd) (s : State) : MmuWait :=
  { cmd := c, reqs := s.mport.out ++ s.mport.wait, pours := poursBusy s, tensors := tensorsOpen s, unmapJob := unmapJob }

/-- All that was under way is under way still. -/
theorem mmuWaitOf_left (unmapJob : Bool) (c : OpenCmd) (s : State) :
    (mmuWaitOf unmapJob c s).left s = mmuWaitOf unmapJob c s := by
  have hsame (m : MReq) : sameReq m m = true := decide_eq_true rfl
  have hreqs : (s.mport.out ++ s.mport.wait).filter
      (fun m => s.mport.out.any (sameReq m) || s.mport.wait.any (sameReq m)) = s.mport.out ++ s.mport.wait := by
    refine List.filter_eq_self.2 fun m hm => ?_
    rw [Bool.or_eq_true, List.any_eq_true, List.any_eq_true]
    exact (List.mem_append.1 hm).imp (fun h => ⟨m, h, hsame m⟩) fun h => ⟨m, h, hsame m⟩
  have hpours : (poursBusy s).filter (fun x => (poursBusy s).contains x) = poursBusy s :=
    List.filter_eq_self.2 fun x hx => by simpa using hx
  have htensors : (tensorsOpen s).filter (fun x => (tensorsOpen s).contains x) = tensorsOpen s :=
    List.filter_eq_self.2 fun x hx => by simpa using hx
  simp only [MmuWait.left, mmuWaitOf, hreqs, hpours, htensors]

/-- Nothing is under way that an MMU command waits for (R338). -/
def mmuIdle (unmapJob : Bool) (s : State) : Prop :=
  (s.mport.out = [] ∧ s.mport.wait = [] ∧ poursBusy s = [] ∧ tensorsOpen s = []) ∧
    (unmapJob = true → ∀ x ∈ s.pour.ch, x.ctx = 1 → x.st = .idle)

theorem mmuWaitOf_ended_iff (unmapJob : Bool) (c : OpenCmd) (s : State) :
    (mmuWaitOf unmapJob c s).ended s = true ↔ mmuIdle unmapJob s := by
  simp only [MmuWait.ended, mmuWaitOf, mmuIdle, Bool.and_eq_true, Bool.not_eq_true', Bool.and_eq_false_imp,
    List.isEmpty_iff, List.append_eq_nil_iff, List.any_eq_false, decide_eq_true_eq, not_and]
  constructor
  · rintro ⟨⟨⟨⟨hout, hwait⟩, hpours⟩, htensors⟩, hch⟩
    exact ⟨⟨hout, hwait, hpours, htensors⟩, fun hunmap x hx hctx => by_contra fun hst => hch hunmap x hx hst hctx⟩
  · rintro ⟨⟨hout, hwait, hpours, htensors⟩, hch⟩
    exact ⟨⟨⟨⟨hout, hwait⟩, hpours⟩, htensors⟩, fun hunmap x hx hst hctx => hst (hch hunmap x hx hctx)⟩

theorem mmuRetire_keyway (s : State) : (mmuRetire s).keyway =
    { s.keyway with retire := (s.keyway.retire.map (MmuWait.left s)).filter fun w => !w.ended s } := by
  unfold mmuRetire
  extract_lets waits
  exact (Writes.foldl (l := [.latch, .drip]) (fun t (w : MmuWait) => finish_writes w.cmd 0 0 0 0 0 t) _ _).same .keyway
    (by decide)

/-- The state in which an MMU command waits, before what has ended is answered. -/
def mmuPut (unmapJob : Bool) (c : OpenCmd) (s : State) : State :=
  { s with keyway := { s.keyway with retire := s.keyway.retire ++ [mmuWaitOf unmapJob c s] } }

theorem mmuEnd_eq (unmapJob : Bool) (c : OpenCmd) (s : State) : mmuEnd unmapJob c s = mmuRetire (mmuPut unmapJob c s) := rfl

theorem mmuEnd_keyway (unmapJob : Bool) (c : OpenCmd) (s : State) : ∃ l, (mmuEnd unmapJob c s).keyway = { s.keyway with retire := l } :=
  ⟨_, mmuRetire_keyway _⟩

/-- While something is under way the command waits for it (R338). -/
theorem mmuEnd_waits {unmapJob : Bool} {c : OpenCmd} {s : State} (h : ¬ mmuIdle unmapJob s) :
    mmuWaitOf unmapJob c s ∈ (mmuEnd unmapJob c s).keyway.retire := by
  rw [mmuEnd_eq, mmuRetire_keyway]
  have hleft : (mmuWaitOf unmapJob c s).left (mmuPut unmapJob c s) = mmuWaitOf unmapJob c s := mmuWaitOf_left ..
  refine List.mem_filter.2 ⟨List.mem_map.2 ⟨_, by simp [mmuPut], hleft⟩, ?_⟩
  rw [← mmuWaitOf_ended_iff unmapJob c, Bool.not_eq_true] at h
  have hwaits : (mmuWaitOf unmapJob c s).ended (mmuPut unmapJob c s) = false := h
  rw [hwaits, Bool.not_false]

/-- The final reply of another command leaves a command open. -/
theorem finish_keeps_open {c o : OpenCmd} {s : State} (hne : o.order ≠ c.order)
    (hopen : s.latch.opened.any (fun x => sameCmd x c) = true) (status r0 r1 r2 r3 : Nat) :
    (finish o status r0 r1 r2 r3 s).latch.opened.any (fun x => sameCmd x c) = true := by
  by_cases ho : s.latch.opened.any (fun x => sameCmd x o) = true
  · rw [finish_of_open ho]
    obtain ⟨x, hx, hxc⟩ := List.any_eq_true.1 hopen
    have horder : x.order = c.order := of_decide_eq_true hxc
    exact List.any_eq_true.2 ⟨x, List.mem_filter.2 ⟨hx, by simp [sameCmd, horder, hne.symm]⟩, hxc⟩
  · rwa [finish_of_ended (by simpa using ho)]

theorem foldl_finish_keeps_open {c : OpenCmd} (l : List MmuWait) (s : State) (hl : ∀ w ∈ l, w.cmd.order ≠ c.order)
    (hopen : s.latch.opened.any (fun x => sameCmd x c) = true) :
    (l.foldl (fun t w => finish w.cmd 0 0 0 0 0 t) s).latch.opened.any (fun x => sameCmd x c) = true := by
  induction l generalizing s with
  | nil => exact hopen
  | cons w l ih => exact ih _ (fun v hv => hl v (by simp [hv])) (finish_keeps_open (hl w (by simp)) hopen ..)

/-- Where nothing is under way the command ends at once, its reply the last (R338). -/
theorem mmuEnd_ends {unmapJob : Bool} {c : OpenCmd} {s : State} (hopen : s.latch.opened.any (fun x => sameCmd x c) = true)
    (hother : ∀ w ∈ s.keyway.retire, w.cmd.order ≠ c.order) (hidle : mmuIdle unmapJob s) :
    ∃ r, (mmuEnd unmapJob c s).latch.replies.getLast? = some r ∧ r.tag = c.tag ∧ r.status = 0 ∧ r.final = true := by
  have hleft : (mmuWaitOf unmapJob c s).left (mmuPut unmapJob c s) = mmuWaitOf unmapJob c s := mmuWaitOf_left ..
  have hended : (mmuWaitOf unmapJob c s).ended (mmuPut unmapJob c s) = true := (mmuWaitOf_ended_iff unmapJob c s).2 hidle
  have hlast : ((mmuPut unmapJob c s).keyway.retire.map (MmuWait.left (mmuPut unmapJob c s))).filter
      (MmuWait.ended (mmuPut unmapJob c s)) =
      (s.keyway.retire.map (MmuWait.left (mmuPut unmapJob c s))).filter (MmuWait.ended (mmuPut unmapJob c s)) ++
        [mmuWaitOf unmapJob c s] := by
    have hretire : (mmuPut unmapJob c s).keyway.retire = s.keyway.retire ++ [mmuWaitOf unmapJob c s] := rfl
    rw [hretire, List.map_append, List.filter_append, List.map_singleton, hleft, List.filter_singleton, hended]
    rfl
  rw [mmuEnd_eq]
  unfold mmuRetire
  extract_lets waits
  rw [hlast, List.foldl_append, List.foldl_cons, List.foldl_nil, finish_of_open]
  · exact ⟨_, List.getLast?_concat, rfl, rfl, rfl⟩
  · refine foldl_finish_keeps_open _ _ (fun w hw => ?_) hopen
    obtain ⟨v, hv, rfl⟩ := List.mem_map.1 (List.mem_filter.1 hw).1
    exact hother v hv

/-! ### The three commands -/

theorem mmuIdle_congr {unmapJob : Bool} {s t : State} (h : Writes [.latch, .keyway, .counters, .drip, .recRing] s t) :
    mmuIdle unmapJob t ↔ mmuIdle unmapJob s := by
  have hmport : t.mport = s.mport := h.same .mport (by decide)
  have hpour : t.pour = s.pour := h.same .pour (by decide)
  have htensors : t.tensors = s.tensors := h.same .tensors (by decide)
  simp only [mmuIdle, poursBusy, tensorsOpen, hmport, hpour, htensors]

theorem mmuWaitOf_congr {s t : State} (h : Writes [.latch, .keyway, .counters, .drip, .recRing] s t) (unmapJob : Bool)
    (c : OpenCmd) : mmuWaitOf unmapJob c t = mmuWaitOf unmapJob c s := by
  have hmport : t.mport = s.mport := h.same .mport (by decide)
  have hpour : t.pour = s.pour := h.same .pour (by decide)
  have htensors : t.tensors = s.tensors := h.same .tensors (by decide)
  simp only [mmuWaitOf, poursBusy, tensorsOpen, hmport, hpour, htensors]

theorem rootOf_takePacket (p : Packet) (s : State) (c : Nat) : rootOf (takePacket p s) c = rootOf s c := by
  simp [rootOf]

/-- The state check of MMU_MAP (R339). -/
theorem mmuMap_state (p : Packet) (s : State) (c : Nat) :
    (if (rootOf (takePacket p s) c).isSome || (decide (c = 1) && jobExists (takePacket p s)) then some (0x0201, 0, 0) else none :
      Option (Nat × Nat × Nat)) =
    if (rootOf s c).isSome || (decide (c = 1) && jobExists s) then some (0x0201, 0, 0) else none := by
  rw [rootOf_takePacket, jobExists_takePacket]

theorem exec_mmuMap_free {p : Packet} {s : State} (h : Runs 0x40 p s) (hlen : p.payloadLen.toNat = 0)
    (hroot : mmuRoot p % 4096 = 0) (hfree : rootOf s (p.p0.toNat % 2) = none)
    (hjob : p.p0.toNat % 2 = 1 → jobExists s = false) :
    exec (.mmuMap p) s = .next
      (replyOne p s.latch.order 0 0 0 0 0 (setRoot (p.p0.toNat % 2) (some (mmuRoot p)) (takePacket p s))) := by
  rw [PacketForm.exec_start (c := .mmuMap p) (fun _ => rfl) h, startMmuMap, syncCmd, mmuMap_state, mmuCtx]
  refine congrArg _ (checked_runs h (by decide) (by omega) (by simp [hlen]) (by simpa using hroot) (if_neg ?_) rfl rfl (by simp))
  rw [hfree]
  simpa using hjob

theorem exec_mmuMap_refused {p : Packet} {s : State} (h : Runs 0x40 p s) (hlen : p.payloadLen.toNat = 0)
    (hroot : mmuRoot p % 4096 = 0)
    (hbusy : rootOf s (p.p0.toNat % 2) ≠ none ∨ (p.p0.toNat % 2 = 1 ∧ jobExists s = true)) :
    exec (.mmuMap p) s = .next (replyOne p s.latch.order 0x0201 0 0 0 0 (takePacket p s)) := by
  rw [PacketForm.exec_start (c := .mmuMap p) (fun _ => rfl) h, startMmuMap, syncCmd, mmuMap_state, mmuCtx]
  refine congrArg _ (checked_refused ((checkFields_eq_state h (by omega) (by simp [hlen]) (by simp [jobScope])
    (by simpa using hroot) (by simp [jobScope])).trans (if_pos ?_)))
  rw [Bool.or_eq_true, Bool.and_eq_true, decide_eq_true_eq, Option.isSome_iff_ne_none]
  exact hbusy

/-- What an MMU command that is accepted leaves, when its cached translations are dropped in `d`: what each clause about its
end says. -/
structure MmuEnded (unmapJob : Bool) (p : Packet) (s d t : State) : Prop where
  keyway : ∃ l, t.keyway = { d.keyway with retire := l }
  ends : (∀ w ∈ s.keyway.retire, w.cmd.order ≠ s.latch.order) → mmuIdle unmapJob s →
    ∃ r, t.latch.replies.getLast? = some r ∧ r.tag = p.tag.toNat ∧ r.status = 0 ∧ r.final = true
  waits : ¬ mmuIdle unmapJob s → ∃ w ∈ t.keyway.retire, w.cmd = openOf p s.latch.order ∧
    w.reqs = s.mport.out ++ s.mport.wait ∧ w.pours = poursBusy s ∧ w.tensors = tensorsOpen s
  frame : Writes [.latch, .keyway, .counters, .drip, .recRing] s t

/-- An MMU command whose drop of translations writes the cache and roots alone. -/
theorem mmuEnd_ended {unmapJob : Bool} {p : Packet} {s d : State}
    (hdrop : Writes [.keyway] (accept p s.latch.order 0 (takePacket p s)) d) (hretire : d.keyway.retire = s.keyway.retire) :
    MmuEnded unmapJob p s d (mmuEnd unmapJob (openOf p s.latch.order) d) := by
  have haccept : Writes [.latch, .keyway, .counters, .drip, .recRing] s d :=
    .after hdrop (.after (accept_writes ..) (takePacket_writes p s).mono)
  have hlatch : d.latch = (accept p s.latch.order 0 (takePacket p s)).latch := hdrop.same .latch (by decide)
  have hopen : d.latch.opened.any (fun x => sameCmd x (openOf p s.latch.order)) = true := by
    rw [hlatch, accept_eq]
    simp [sameCmd]
  refine ⟨mmuEnd_keyway .., fun hother hidle => ?_, fun hbusy => ?_, haccept.andThen (mmuEnd_writes ..)⟩
  · exact mmuEnd_ends hopen (by rw [hretire]; exact hother) ((mmuIdle_congr haccept).2 hidle)
  · have hwait := mmuEnd_waits (c := openOf p s.latch.order) ((mmuIdle_congr (unmapJob := unmapJob) haccept).not.2 hbusy)
    rw [mmuWaitOf_congr haccept] at hwait
    exact ⟨_, hwait, rfl, rfl, rfl, rfl⟩

theorem exec_mmuUnmap {p : Packet} {s : State} (h : Runs 0x41 p s) (hlen : p.payloadLen.toNat = 0)
    (hjob : jobExists s = false) (hpool : p.p0.toNat % 2 = 0 → hostPool s = false) (hentry : entryFree s) :
    exec (.mmuUnmap p) s = .next (mmuEnd (decide (p.p0.toNat % 2 = 1)) (openOf p s.latch.order)
      (tlbDropCtx (p.p0.toNat % 2) (setRoot (p.p0.toNat % 2) none (accept p s.latch.order 0 (takePacket p s))))) := by
  have hpools : hostPool (takePacket p s) = hostPool s := by simp [hostPool, poolSize, poolAt]
  rw [PacketForm.exec_start (c := .mmuUnmap p) (fun _ => rfl) h, startMmuUnmap, asyncCmd, mmuCtx, hpools, jobExists_takePacket]
  refine congrArg _ (checked_runs h (by decide) (by omega) (by simp [hlen]) rfl (if_neg ?_) rfl rfl (fun _ => hentry))
  simpa [hjob] using hpool

/-- The drop of MMU_INVAL: the whole cache, or what translates a byte of the range (R338). -/
def invalDrop (p : Packet) (s : State) : State :=
  if p.p3.toNat = 0 then tlbClear s else tlbDrop (pVa p) (p.p3.toNat * 65536) s

theorem exec_mmuInval {p : Packet} {s : State} (h : Runs 0x42 p s) (hlen : p.payloadLen.toNat = 0) (hentry : entryFree s) :
    exec (.mmuInval p) s = .next (mmuEnd false (openOf p s.latch.order)
      (invalDrop p (accept p s.latch.order 0 (takePacket p s)))) := by
  rw [PacketForm.exec_start (c := .mmuInval p) (fun _ => rfl) h, startMmuInval, asyncCmd,
    checked_runs_plain h (by decide) (by omega) (by simp [hlen]) (fun _ => hentry), invalDrop]

/-- Dropping a context takes its root and its cached entries, and leaves the other context (R339). -/
theorem dropCtx_keyway (c : Nat) (s : State) : (tlbDropCtx c (setRoot c none s)).keyway =
    { s.keyway with
      root0 := if c = 0 then none else s.keyway.root0, root1 := if c = 0 then s.keyway.root1 else none,
      tlb := s.keyway.tlb.filter fun t => decide (t.ctx ≠ c), upper := s.keyway.upper.filter fun u => decide (u.ctx ≠ c) } := by
  unfold tlbDropCtx setRoot
  split_ifs <;> rfl

theorem rootOf_dropCtx {c : Nat} (hc : c < 2) {s t : State} {l : List MmuWait}
    (h : t.keyway = { (tlbDropCtx c (setRoot c none s)).keyway with retire := l }) :
    rootOf t c = none ∧ rootOf t (1 - c) = rootOf s (1 - c) := by
  rw [dropCtx_keyway] at h
  simp only [rootOf, h]
  obtain rfl | rfl : c = 0 ∨ c = 1 := by omega
  · simp
  · simp

theorem invalDrop_writes (p : Packet) (s : State) : Writes [.keyway] s (invalDrop p s) :=
  .ite (fun _ => .of_mix rfl) (fun _ => .of_mix rfl)

theorem mem_invalDrop_tlb (p : Packet) (s : State) (e : Tlb) : e ∈ (invalDrop p s).keyway.tlb ↔
    e ∈ s.keyway.tlb ∧ p.p3.toNat ≠ 0 ∧ ¬ (e.va < pVa p + p.p3.toNat * 65536 ∧ pVa p < e.va + e.bytes) := by
  unfold invalDrop
  split_ifs with hall
  · simp [tlbClear, hall]
  · simp [tlbDrop, covers, hall, imp_iff_not_or]

theorem invalDrop_upper {p : Packet} (h : p.p3.toNat = 0) (s : State) : (invalDrop p s).keyway.upper = [] := by
  rw [invalDrop, if_pos h]
  rfl

theorem invalDrop_roots (p : Packet) (s : State) : (invalDrop p s).keyway.root0 = s.keyway.root0 ∧
    (invalDrop p s).keyway.root1 = s.keyway.root1 ∧ (invalDrop p s).keyway.retire = s.keyway.retire := by
  unfold invalDrop
  split_ifs
  · exact ⟨rfl, rfl, rfl⟩
  · exact ⟨rfl, rfl, rfl⟩

/-- Settles O14: each of the two that drop translations writes Keyway's cache and roots, and then ends as every MMU command
does. -/
theorem mmuCommandsComplete : Obligations.MmuCommandsComplete := by
  unfold Obligations.MmuCommandsComplete
  intro p s
  extract_lets c n under ends waits
  have hc : c < 2 := Nat.mod_lt _ (by decide)
  refine ⟨fun h hlen hroot => ⟨exec_mmuMap_free h hlen hroot, exec_mmuMap_refused h hlen hroot⟩, fun h hlen hjob hpool hentry => ?_,
    fun h hlen hentry => ?_⟩
  · have hended : MmuEnded (decide (c = 1)) p s _ _ :=
      mmuEnd_ended (d := tlbDropCtx c (setRoot c none (accept p n 0 (takePacket p s)))) (.of_mix rfl) (by simp [dropCtx_keyway])
    obtain ⟨l, hkeyway⟩ := hended.keyway
    have hidle : mmuIdle (decide (c = 1)) s ↔ under ∧ (c = 1 → ∀ x ∈ s.pour.ch, x.ctx = 1 → x.st = .idle) := by
      simp only [mmuIdle, decide_eq_true_eq, under]
    refine ⟨_, exec_mmuUnmap h hlen hjob hpool hentry, ?_⟩
    have hroots := rootOf_dropCtx hc hkeyway
    refine ⟨hroots.1, ?_, fun e => ?_, fun e he => ?_, fun hother hunder hch => hended.ends hother (hidle.2 ⟨hunder, hch⟩),
      fun hbusy => hended.waits (hidle.not.2 hbusy), hended.frame.eq_mix⟩
    · rw [hroots.2]
      simp [rootOf]
    · rw [hkeyway, dropCtx_keyway]
      simp
    · rw [hkeyway, dropCtx_keyway] at he
      simpa using (List.mem_filter.1 he).2
  · obtain ⟨hroot0, hroot1, hretire⟩ := invalDrop_roots p (accept p n 0 (takePacket p s))
    rw [accept_keyway, takePacket_keyway] at hroot0 hroot1 hretire
    have hended : MmuEnded false p s _ _ := mmuEnd_ended (invalDrop_writes p (accept p n 0 (takePacket p s))) hretire
    obtain ⟨l, hkeyway⟩ := hended.keyway
    have hidle : mmuIdle false s ↔ under := by simp [mmuIdle, under]
    refine ⟨_, exec_mmuInval h hlen hentry, fun e => ?_, fun hall => ?_, ?_, ?_,
      fun hother hunder => hended.ends hother (hidle.2 hunder), fun hbusy => hended.waits (hidle.not.2 hbusy),
      hended.frame.eq_mix⟩
    · rw [hkeyway, mem_invalDrop_tlb, accept_keyway, takePacket_keyway]
    · exact (congrArg Keyway.upper hkeyway).trans (invalDrop_upper hall _)
    · exact (congrArg Keyway.root0 hkeyway).trans hroot0
    · exact (congrArg Keyway.root1 hkeyway).trans hroot1


end Sys2Proof.Machine
end

section
/-! PROOFS. TIME_CFG and TRACE_CFG (R278, R280, R482, R483). -/

namespace Sys2Proof.Machine

-- One declaration at a time: see the frames of the state's operations.
set_option Elab.async false

theorem exec_timeCfg {p : Packet} {s : State} (h : Runs 0x50 p s) (hlen : p.payloadLen.toNat = 64)
    (hrange : timeRange (pBody p) s = true)
    (hstep : bit (leAt (pBody p) 0 1) 3 = true → s.job.st ≠ .starting ∧ s.job.st ≠ .running) :
    exec (.timeCfg p) s = .next (replyOne p s.latch.order 0 0 0 0 0 (timeApply (pBody p) (takePacket p s))) := by
  rw [PacketForm.exec_start (c := .timeCfg p) (fun _ => rfl) h, startTimeCfg, syncCmd]
  refine congrArg _ (checked_runs h (by decide) (by omega) (by simp [hlen]) ?range (if_neg ?state) rfl rfl (by simp))
  case range => simpa [timeRange] using hrange
  case state =>
    rw [takePacket_job, Bool.and_eq_true, decide_eq_true_eq]
    rintro ⟨hbit, hbusy⟩
    exact hbusy.elim (hstep hbit).1 (hstep hbit).2

theorem timeApply_kt (p q : Packet) (s : State) :
    (timeApply (pBody p) (takePacket q s)).kt = if bit (leAt (pBody p) 0 1) 3 then leAt (pBody p) 8 8 else s.kt := by
  simp [timeApply]

/-! ### TRACE_CFG -/

/-- A record leaves Drip's configuration as it is. -/
theorem dripPut_config (r : DripRec) (s : State) : (dripPut r s).drip.enable = s.drip.enable ∧
    (dripPut r s).drip.base = s.drip.base ∧ (dripPut r s).drip.size = s.drip.size := by
  unfold dripPut dripLose
  extract_lets d more used
  split_ifs <;> exact ⟨rfl, rfl, rfl⟩

theorem takePacket_dripConfig (p : Packet) (s : State) : (takePacket p s).drip.enable = s.drip.enable ∧
    (takePacket p s).drip.base = s.drip.base ∧ (takePacket p s).drip.size = s.drip.size := by
  unfold takePacket
  simp only [recOriginal_drip]
  exact dripPut_config _ _

theorem traceFixed_takePacket (p : Packet) (s : State) (c : TraceCfg) :
    traceFixed (takePacket p s) c = traceFixed s c := by
  obtain ⟨henable, hbase, hsize⟩ := takePacket_dripConfig p s
  simp only [traceFixed, henable, hbase, hsize]

theorem exec_traceCfg_fixed {p : Packet} {s : State} (h : Runs 0x68 p s) (hlen : p.payloadLen.toNat = 64)
    (hrange : traceRange (traceOf (pBody p)) = true) (hfixed : traceFixed s (traceOf (pBody p)) = true) (io : Io) :
    exec (.traceCfg p io) s = .next (replyOne p s.latch.order 0x0205 0 0 0 0 (takePacket p s)) := by
  rw [PacketForm.exec_start (c := .traceCfg p io) (fun _ => rfl) h, startTraceCfg, syncCmd]
  exact congrArg _ (checked_refused ((checkFields_eq_state h (by omega) (by simp [hlen]) (by simp [jobScope]) hrange
    (by simp [jobScope])).trans (if_pos ((traceFixed_takePacket ..).trans hfixed))))

theorem exec_traceCfg {p : Packet} {io : Io} {s u : State} (h : Runs 0x68 p s) (hlen : p.payloadLen.toNat = 64)
    (hrange : traceRange (traceOf (pBody p)) = true) (hfree : traceFixed s (traceOf (pBody p)) = false)
    (hranges : checkRanges [(0, (traceOf (pBody p)).base, (traceOf (pBody p)).size * 65536, true)] io (takePacket p s) =
      (u, none)) :
    exec (.traceCfg p io) s = .next (replyOne p s.latch.order 0 0 0 0 0 (traceApply (traceOf (pBody p)) u)) := by
  rw [PacketForm.exec_start (c := .traceCfg p io) (fun _ => rfl) h, startTraceCfg, syncCmd]
  exact congrArg _ (checked_runs h (by decide) (by omega) (by simp [hlen]) hrange
    (if_neg (by rw [traceFixed_takePacket, hfree]; decide)) hranges rfl (by simp))

/-- A rising enable starts the ring anew (R483). -/
theorem traceApply_rising {c : TraceCfg} {s : State} (hc : c.enable = true) (hs : s.drip.enable = false) :
    traceApply c s = setP { s with drip := {
      enable := true, base := c.base, size := c.size, kindMask := c.kindMask, unitMask := c.unitMask,
      sampleUs := c.sampleUs, sel := c.sel, head := 0, lost := 0, status := 0, buf := [], lossCount := 0, lossFirst := 0,
      lossLast := 0 } } 0x0A09 0 :=
  if_pos ⟨hc, by simp [hs]⟩

theorem traceApply_not_rising {c : TraceCfg} {s : State} (h : ¬ (c.enable = true ∧ s.drip.enable = false)) :
    traceApply c s = { s with drip := { s.drip with
      enable := c.enable, kindMask := c.kindMask, unitMask := c.unitMask, sampleUs := c.sampleUs, sel := c.sel } } :=
  if_neg (by simpa using h)

/-- The fields that every TRACE_CFG takes over (R482). -/
theorem traceApply_fields (c : TraceCfg) (s : State) : (traceApply c s).drip.enable = c.enable ∧
    (traceApply c s).drip.kindMask = c.kindMask ∧ (traceApply c s).drip.sel = c.sel := by
  by_cases h : c.enable = true ∧ s.drip.enable = false
  · rw [traceApply_rising h.1 h.2]
    exact ⟨h.1.symm, rfl, rfl⟩
  · rw [traceApply_not_rising h]
    exact ⟨rfl, rfl, rfl⟩

/-- Settles O15: taking the packet and translating the ring's range change no configuration of Drip. -/
theorem timeAndTraceConfigComplete : Obligations.TimeAndTraceConfigComplete := by
  unfold Obligations.TimeAndTraceConfigComplete
  intro p io s u
  refine ⟨fun h hlen hrange hstep => ⟨exec_timeCfg h hlen hrange hstep, timeApply_kt p p s⟩,
    fun h hlen hrange => ⟨fun hfixed => exec_traceCfg_fixed h hlen hrange hfixed io, fun hfree hranges => ?_⟩⟩
  have hdrip : u.drip = (takePacket p s).drip := (checkRanges_ok_writes hranges).same .drip (by decide)
  obtain ⟨henable, hbase, hsize⟩ := takePacket_dripConfig p s
  rw [← hdrip] at henable hbase hsize
  obtain ⟨hen, hmask, hsel⟩ := traceApply_fields (traceOf (pBody p)) u
  refine ⟨exec_traceCfg h hlen hrange hfree hranges, hen, hmask, hsel, fun hc hs => ?_, fun hs => ?_⟩
  · rw [traceApply_rising hc (henable.trans hs)]
    exact ⟨rfl, rfl, rfl, rfl, getP_setP_self ..⟩
  · rw [traceApply_not_rising (by simp [henable, hs])]
    exact ⟨hbase, hsize⟩

end Sys2Proof.Machine
end

section
/-! PROOFS. FW_STAGE and FW_ACTIVATE (R470, R474, R475). -/

namespace Sys2Proof.Machine

-- One declaration at a time: see the frames of the state's operations.
set_option Elab.async false

theorem exec_fwStage {p : Packet} {io : Io} {v : Verdict} {s u w : State} {b : List Byte} (h : Runs 0x58 p s)
    (hlen : p.payloadLen.toNat = 0) (hentry : entryFree s) (hmax : p.p3.toNat ≤ bundleMax)
    (hranges : checkRanges [(0, pVa p, p.p3.toNat, false)] io (takePacket p s) = (u, none))
    (hread : ownRead 0 (pVa p) p.p3.toNat io (accept p s.latch.order 0 u) = (w, .ok b)) :
    exec (.fwStage p io v) s = .next
      (finish (openOf p s.latch.order) (stageBundle b v w).2 0 0 0 0 (stageBundle b v w).1) := by
  rw [PacketForm.exec_start (c := .fwStage p io v) (fun _ => rfl) h, startFwStage, asyncCmd,
    checked_runs h (by decide) (by omega) (by simp [hlen]) rfl rfl hranges rfl (fun _ => hentry)]
  dsimp only [Ext.ofVerdict]
  rw [if_neg (not_lt.2 hmax), hread]

theorem stageBundle_ok {b : List Byte} {v : Verdict} {s : State} {l : List Img} (h : verifyBundle s v b = .ok l) :
    stageBundle b v s = (stageSet l s, 0) := by
  simp [stageBundle, h]

theorem stageBundle_error {b : List Byte} {v : Verdict} {s : State} {e : Nat × Nat} (h : verifyBundle s v b = .error e) :
    stageBundle b v s = (stageSet [] s, e.1) := by
  simp [stageBundle, h]

/-! ### FW_ACTIVATE -/

/-- The checks of an image read the fuses alone. -/
theorem imgsBad_congr {s t : State} (h : t.fuses = s.fuses) (v : Verdict) (l : List Img) : imgsBad t v l = imgsBad s v l := by
  induction l with
  | nil => rfl
  | cons i r ih => simp only [imgsBad, imgBad, h, ih]

theorem stagedImgs_congr {s t : State} (h : t.fw = s.fw) : stagedImgs t = stagedImgs s := by
  rw [stagedImgs, stagedImgs, h]

/-- What FW_ACTIVATE does once it is accepted (R475). -/
def activate (v : Verdict) (c : OpenCmd) (s : State) : State :=
  match imgsBad s v (stagedImgs s) with
  | some e => finish c e.1 0 0 0 0 s
  | none => finish c 0 (ctlVersion (fwSwap s)) 0 0 0 (fwSwap s)

theorem exec_fwActivate {p : Packet} {s : State} (h : Runs 0x59 p s) (hlen : p.payloadLen.toNat = 0) (hentry : entryFree s)
    (hbrace : inBrace s = false) (hstaged : stagedImgs s ≠ []) (v : Verdict) :
    exec (.fwActivate p v) s = .next
      (activate v (openOf p s.latch.order) (accept p s.latch.order 0 (takePacket p s))) := by
  rw [PacketForm.exec_start (c := .fwActivate p v) (fun _ => rfl) h, startFwActivate, asyncCmd]
  refine congrArg _ (checked_runs h (by decide) (by omega) (by simp [hlen]) rfl ?_ rfl rfl (fun _ => hentry))
  have hbraced : inBrace (takePacket p s) = false := by simpa [inBrace] using hbrace
  rw [hbraced, stagedImgs_congr (takePacket_fw p s)]
  simpa using hstaged

theorem fwSwap_fw (s : State) :
    (s.fw.stagedCtl ≠ none → (fwSwap s).fw.ctl = s.fw.stagedCtl ∧ (fwSwap s).fw.stagedCtl = s.fw.ctl) ∧
    (s.fw.stagedCtl = none → (fwSwap s).fw.ctl = s.fw.ctl ∧ (fwSwap s).fw.stagedCtl = none) ∧
    (s.fw.stagedWard ≠ none → (fwSwap s).fw.ward = s.fw.stagedWard ∧ (fwSwap s).fw.stagedWard = s.fw.ward) ∧
    (s.fw.stagedWard = none → (fwSwap s).fw.ward = s.fw.ward ∧ (fwSwap s).fw.stagedWard = none) := by
  simp only [fwSwap, ← Option.isSome_iff_ne_none]
  refine ⟨fun h => ?_, fun h => ?_, fun h => ?_, fun h => ?_⟩ <;> simp [h]

/-- Settles O16. -/
theorem firmwareStageAndActivateComplete : Obligations.FirmwareStageAndActivateComplete := by
  unfold Obligations.FirmwareStageAndActivateComplete
  intro p io v s u w b
  extract_lets n o
  refine ⟨fun h hlen hentry hmax hranges hread => ⟨fun l hl => ?_, fun e he => ?_⟩,
    fun h hlen hentry hbrace hstaged => ?_⟩
  · rw [exec_fwStage h hlen hentry hmax hranges hread, stageBundle_ok hl]
    rfl
  · rw [exec_fwStage h hlen hentry hmax hranges hread, stageBundle_error he]
    rfl
  · have haccept : Writes [.latch, .counters, .drip, .recRing] s (accept p n 0 (takePacket p s)) :=
      .after (accept_writes ..) (takePacket_writes p s)
    have hfw : (accept p n 0 (takePacket p s)).fw = s.fw := haccept.same .fw (by decide)
    have hbad : imgsBad (accept p n 0 (takePacket p s)) v (stagedImgs (accept p n 0 (takePacket p s))) =
        imgsBad s v (stagedImgs s) := by
      rw [stagedImgs_congr hfw, imgsBad_congr (haccept.same .fuses (by decide))]
    have hexec := exec_fwActivate h hlen hentry hbrace hstaged v
    rw [activate, hbad] at hexec
    refine ⟨fun e he => by rw [hexec, he], fun hgood => ?_⟩
    rw [hgood] at hexec
    refine ⟨_, hexec, ?_⟩
    have hswap := fwSwap_fw (accept p n 0 (takePacket p s))
    rw [hfw] at hswap
    obtain ⟨hctl, hnoCtl, hward, hnoWard⟩ := hswap
    have hframe : Writes [.latch, .fw, .counters, .drip, .recRing] s (fwSwap (accept p n 0 (takePacket p s))) :=
      haccept.mono.trans (.of_mix rfl)
    refine ⟨?_, ?_, ?_, ?_, (hframe.andThen (finish_writes ..)).eq_mix⟩
    · simpa only [finish_fw] using hctl
    · simpa only [finish_fw] using hnoCtl
    · simpa only [finish_fw] using hward
    · simpa only [finish_fw] using hnoWard

end Sys2Proof.Machine
end

section
/-! PROOFS. VAULT_READ and VAULT_PERIOD_CLOSE (R456, R461 to R465). -/

namespace Sys2Proof.Machine

-- One declaration at a time: see the frames of the state's operations.
set_option Elab.async false

/-! ### A command's own accesses -/

/-- What a command's own write can write. -/
def ownWriteFields : List Fld := [.keyway, .hostMem, .counters, .mport, .freeCtr]

theorem ownWrite_writes (ctx va : Nat) (bs : List Byte) (io : Io) (s : State) :
    Writes ownWriteFields s (ownWrite ctx va bs io s).1 := by
  unfold ownWrite
  split
  · exact (walkBroken_writes ..).mono
  · have hwrite := hostWrite_writes s ctx va bs
    split
    case h_1 hfailed => rw [hfailed] at hwrite; exact hwrite.mono
    case h_2 hok => rw [hok] at hwrite; exact hwrite.mono
  · have hrange := xlateRange_writes s ctx va bs.length true
    split
    case h_1 hfailed => rw [hfailed] at hrange; exact hrange.mono
    case h_2 hok => rw [hok] at hrange; exact .after (writeBroken_writes ..) hrange.mono

/-- A write that fails has a status (R501). -/
theorem ownWrite_status {ctx va : Nat} {bs : List Byte} {io : Io} {s t : State} {st : Nat}
    (h : ownWrite ctx va bs io s = (t, some st)) : st = 0x0402 ∨ st = 0x0407 := by
  unfold ownWrite at h
  split at h
  · cases h
    exact .inr rfl
  · split at h <;> cases h
    exact .inl rfl
  · split at h <;> cases h
    · exact .inl rfl
    · exact .inr rfl

theorem ownRead_writes (ctx va n : Nat) (io : Io) (s : State) :
    Writes [.keyway, .counters, .mport] s (ownRead ctx va n io s).1 := by
  unfold ownRead
  split
  · exact walkBroken_writes ..
  · have hread := hostRead_writes s ctx va n
    split
    case h_1 hfailed => rw [hfailed] at hread; exact hread.mono
    case h_2 hok => rw [hok] at hread; exact hread.mono
  · have hrange := xlateRange_writes s ctx va n false
    split
    case h_1 hfailed => rw [hfailed] at hrange; exact hrange.mono
    case h_2 hok => rw [hok] at hrange; exact .after (readBroken_writes ..) hrange.mono

/-! ### Records -/

/-- A write of a copy changes no figure of the period or of the readings (R459). -/
theorem vaultWrite_figures (s : State) : (vaultWrite s).vault.cur = s.vault.cur ∧
    (vaultWrite s).vault.readingSeq = s.vault.readingSeq ∧ (vaultWrite s).vault.nonces = s.vault.nonces ∧
    (vaultWrite s).vault.closed = s.vault.closed := by
  unfold vaultWrite
  split_ifs <;> exact ⟨rfl, rfl, rfl, rfl⟩

theorem signReading_figures (p : VPeriod) (closed brace : Bool) (s : State) :
    (signReading p closed brace s).1.vault.cur = s.vault.cur ∧
    (signReading p closed brace s).1.vault.readingSeq = (s.vault.readingSeq + 1) % 2 ^ 64 ∧
    (signReading p closed brace s).1.vault.nonces = s.vault.nonces - 1 ∧
    (signReading p closed brace s).1.vault.closed = s.vault.closed :=
  vaultWrite_figures _

theorem signReading_writes (p : VPeriod) (closed brace : Bool) (s : State) :
    Writes [.vault] s (signReading p closed brace s).1 :=
  .after (vaultWrite_writes _) (.of_mix rfl)

theorem rawCopy_vault (i : Nat) (s : State) : (rawCopy i s).1.vault = s.vault := by
  unfold rawCopy freeBytes
  extract_lets
  split <;> rfl

/-- A record of a period takes one from reading_seq (R461). -/
theorem vaultRecord_readingSeq {sel p3 : Nat} {s : State} (hok : vaultSelOk s sel p3 = true) (hsel : sel ≤ 1) :
    (vaultRecord sel p3 s).1.vault.readingSeq = (s.vault.readingSeq + 1) % 2 ^ 64 := by
  obtain rfl | rfl : sel = 0 ∨ sel = 1 := by omega
  · exact (signReading_figures ..).2.1
  · obtain ⟨p, hp⟩ := Option.isSome_iff_exists.1 hok
    simp only [vaultRecord, hp]
    exact (signReading_figures ..).2.1

/-- A signed record takes a nonce pair (R465). -/
theorem vaultRecord_nonces {sel p3 : Nat} {s : State} (hok : vaultSelOk s sel p3 = true) (hsel : sel ≤ 2) :
    (vaultRecord sel p3 s).1.vault.nonces = s.vault.nonces - 1 := by
  obtain rfl | rfl | rfl : sel = 0 ∨ sel = 1 ∨ sel = 2 := by omega
  · exact (signReading_figures ..).2.2.1
  · obtain ⟨p, hp⟩ := Option.isSome_iff_exists.1 hok
    simp only [vaultRecord, hp]
    exact (signReading_figures ..).2.2.1
  · rfl

/-! ### VAULT_READ -/

theorem vaultSelOk_congr {s t : State} (h : t.vault = s.vault) (sel p3 : Nat) :
    vaultSelOk t sel p3 = vaultSelOk s sel p3 := by
  simp only [vaultSelOk, closedPeriod, h]

theorem nonceFree_congr {s t : State} (h : t.vault = s.vault) : nonceFree t = nonceFree s := by
  rw [nonceFree, nonceFree, h]

/-- A command that is accepted after the translation of its ranges has written these fields. -/
theorem accept_ranges_writes {l : List (Nat × Nat × Nat × Bool)} {io : Io} {p : Packet} {s u : State}
    (h : checkRanges l io (takePacket p s) = (u, none)) (n r0 : Nat) :
    Writes [.latch, .counters, .drip, .recRing, .keyway] s (accept p n r0 u) :=
  .after (accept_writes ..) (.after (checkRanges_ok_writes h) (takePacket_writes p s).mono)

theorem exec_vaultRead {p : Packet} {io : Io} {s u : State} (h : Runs 0x60 p s) (hlen : p.payloadLen.toNat = 0)
    (hentry : entryFree s) (hok : vaultSelOk s (p.p0.toNat % 4) p.p3.toNat = true)
    (hranges : checkRanges [(0, pVa p, vaultSelBytes (p.p0.toNat % 4), true)] io (takePacket p s) = (u, none)) :
    exec (.vaultRead p io) s = .next
      (if nonceFree s = true ∨ p.p0.toNat % 4 = 3 then
        runVaultRead p io (openOf p s.latch.order) (accept p s.latch.order 0 u)
       else vaultWait p (Ext.ofIo io) s.latch.order (accept p s.latch.order 0 u)) := by
  have hvault : (accept p s.latch.order 0 u).vault = s.vault := (accept_ranges_writes hranges ..).same .vault (by decide)
  rw [PacketForm.exec_start (c := .vaultRead p io) (fun _ => rfl) h, startVaultRead, asyncCmd,
    checked_runs (u := u) h (by decide) (by omega) (by simp [hlen]) ?range rfl hranges rfl (fun _ => hentry),
    nonceFree_congr hvault]
  · rfl
  case range => exact (vaultSelOk_congr (takePacket_vault p s) ..).trans hok

theorem runVaultRead_ok {p : Packet} {io : Io} {c : OpenCmd} {s w : State}
    (h : ownWrite 0 (pVa p) (vaultRecord (p.p0.toNat % 4) p.p3.toNat s).2 io
      (vaultRecord (p.p0.toNat % 4) p.p3.toNat s).1 = (w, none)) :
    runVaultRead p io c s = finish c 0 (vaultRecord (p.p0.toNat % 4) p.p3.toNat s).2.length 0 0 0 w := by
  simp only [runVaultRead, h]

/-! ### VAULT_PERIOD_CLOSE -/

/-- The record of a period that closes now (R457). -/
theorem vaultClose_figures (tag : Nat) (s : State) :
    (vaultClose tag false false s).vault.cur.num = (s.vault.cur.num + 1) % 2 ^ 32 ∧
    (vaultClose tag false false s).vault.cur.jobTag = tag ∧ (vaultClose tag false false s).vault.cur.ktOpen = s.kt ∧
    (vaultClose tag false false s).vault.cur.ord = VCounts.zero ∧
    (vaultClose tag false false s).vault.cur.canc = VCounts.zero ∧
    { s.vault.cur with ktClose := s.kt } ∈ (vaultClose tag false false s).vault.closed := by
  unfold vaultClose
  extract_lets v _ old _ new t
  have hcopies : (vaultWriteAll t).vault.cur = new ∧
      (vaultWriteAll t).vault.closed = (v.closed ++ [old]).drop (v.closed.length - 15) := by
    unfold vaultWriteAll
    split_ifs <;> exact ⟨rfl, rfl⟩
  obtain ⟨hcur, hclosed⟩ := hcopies
  have hold : old = { s.vault.cur with ktClose := s.kt } := by
    simp only [old, v, Bool.or_false]
    rfl
  rw [vaultEvent_vault, hcur, hclosed]
  refine ⟨rfl, rfl, rfl, rfl, rfl, ?_⟩
  rw [List.drop_append_of_le_length (by omega), ← hold]
  simp

/-- The reading of a closed period, if Vault still holds it. -/
def closingReading (n : Nat) (s : State) : State × List Byte :=
  match closedPeriod s n with
  | some q => signReading q true false s
  | none => (s, [])

theorem closingReading_writes (n : Nat) (s : State) : Writes [.vault] s (closingReading n s).1 := by
  unfold closingReading
  split
  · exact signReading_writes ..
  · exact .refl _ s

theorem closingReading_figures (n : Nat) (s : State) : (closingReading n s).1.vault.cur = s.vault.cur ∧
    (closingReading n s).1.vault.closed = s.vault.closed := by
  unfold closingReading
  split
  · exact ⟨(signReading_figures ..).1, (signReading_figures ..).2.2.2⟩
  · exact ⟨rfl, rfl⟩

theorem runPeriodClose_eq (p : Packet) (io : Io) (c : OpenCmd) (s : State) :
    runPeriodClose p io c s =
      let r := closingReading s.vault.cur.num (vaultClose s.vault.cur.jobTag false false s)
      match ownWrite 0 (pVa p) r.2 io r.1 with
      | (s, some st) => finish c st 0 0 0 0 s
      | (t, none) => finish c 0 s.vault.cur.num 0 0 0 t := by
  unfold runPeriodClose
  rfl

/-- The end of VAULT_PERIOD_CLOSE: the period is closed, whether the write of its reading fails or not (R464). -/
theorem runPeriodClose_result (p : Packet) (io : Io) (c : OpenCmd) (s : State) :
    ∃ w st r0, runPeriodClose p io c s = finish c st r0 0 0 0 w ∧ (st = 0 → r0 = s.vault.cur.num) ∧
      w.latch = s.latch ∧ w.vault.cur = (vaultClose s.vault.cur.jobTag false false s).vault.cur ∧
      w.vault.closed = (vaultClose s.vault.cur.jobTag false false s).vault.closed := by
  rw [runPeriodClose_eq]
  extract_lets r
  have hwrites : Writes (.vault :: .ev :: .drip :: ownWriteFields) s (ownWrite 0 (pVa p) r.2 io r.1).1 :=
    .after (ownWrite_writes ..) (.after (closingReading_writes ..) (vaultClose_writes ..).mono)
  have hvault : (ownWrite 0 (pVa p) r.2 io r.1).1.vault = r.1.vault := (ownWrite_writes ..).same .vault (by decide)
  obtain ⟨hcur, hclosed⟩ := closingReading_figures s.vault.cur.num (vaultClose s.vault.cur.jobTag false false s)
  have hlatch := hwrites.same .latch (by decide)
  split
  case h_1 w st hfailed =>
    rw [hfailed] at hvault hlatch
    refine ⟨w, st, 0, rfl, fun hst => ?_, hlatch, by rw [hvault, hcur], by rw [hvault, hclosed]⟩
    have hstatus := ownWrite_status hfailed
    omega
  case h_2 w hok =>
    rw [hok] at hvault hlatch
    exact ⟨w, 0, _, rfl, fun _ => rfl, hlatch, by rw [hvault, hcur], by rw [hvault, hclosed]⟩

theorem exec_vaultPeriodClose {p : Packet} {io : Io} {s u : State} (h : Runs 0x61 p s) (hlen : p.payloadLen.toNat = 0)
    (hentry : entryFree s) (hbrace : inBrace s = false)
    (hranges : checkRanges [(0, pVa p, 512, true)] io (takePacket p s) = (u, none)) :
    exec (.vaultPeriodClose p io) s = .next
      (if nonceFree s then runPeriodClose p io (openOf p s.latch.order) (accept p s.latch.order 0 u)
       else vaultWait p (Ext.ofIo io) s.latch.order (accept p s.latch.order 0 u)) := by
  have hvault : (accept p s.latch.order 0 u).vault = s.vault := (accept_ranges_writes hranges ..).same .vault (by decide)
  have hbraced : inBrace (takePacket p s) = false := by simpa [inBrace] using hbrace
  rw [PacketForm.exec_start (c := .vaultPeriodClose p io) (fun _ => rfl) h, startVaultPeriodClose, asyncCmd, hbraced,
    checked_runs (u := u) h (by decide) (by omega) (by simp [hlen]) rfl (by simp) hranges rfl (fun _ => hentry),
    nonceFree_congr hvault]
  rfl

theorem accept_opens (p : Packet) (n r0 : Nat) (s : State) :
    (accept p n r0 s).latch.opened.any (fun x => sameCmd x (openOf p n)) = true := by
  rw [accept_eq]
  simp [sameCmd]

/-- Settles O17. -/
theorem vaultCommandsComplete : Obligations.VaultCommandsComplete := by
  unfold Obligations.VaultCommandsComplete
  intro p io s u w
  extract_lets n o sel a r
  refine ⟨fun h hlen hentry hok hranges => ?_, fun h hlen hentry hbrace hranges => ?_⟩
  · have hvault : a.vault = s.vault := (accept_ranges_writes hranges ..).same .vault (by decide)
    have hoka : vaultSelOk a sel p.p3.toNat = true := (vaultSelOk_congr hvault ..).trans hok
    have hexec := exec_vaultRead h hlen hentry hok hranges
    refine ⟨fun hfree hwrite => ?_, fun hnone hsel => ?_, fun hsel => ?_, fun hsel => ?_, fun hsel => ?_⟩
    · rw [hexec, if_pos hfree, runVaultRead_ok hwrite]
    · rw [hexec, if_neg (by simp [hnone]; exact hsel)]
    · exact (vaultRecord_readingSeq hoka hsel).trans (by rw [hvault])
    · exact (vaultRecord_nonces hoka hsel).trans (by rw [hvault])
    · simp only [r, hsel, vaultRecord]
      exact (rawCopy_vault ..).trans hvault
  · have hwrites := accept_ranges_writes hranges n 0
    have hvault : a.vault = s.vault := hwrites.same .vault (by decide)
    have hkt : a.kt = s.kt := hwrites.same .kt (by decide)
    have hexec := exec_vaultPeriodClose h hlen hentry hbrace hranges
    refine ⟨fun hfree => ?_, fun hnone => ?_⟩
    · obtain ⟨v, st, r0, hrun, hst, hlatch, hcur, hclosed⟩ := runPeriodClose_result p io (openOf p n) a
      rw [if_pos hfree, hrun] at hexec
      refine ⟨_, hexec, ?_⟩
      have hopen : v.latch.opened.any (fun x => sameCmd x (openOf p n)) = true := by
        rw [hlatch]
        exact accept_opens p n 0 u
      obtain ⟨hnum, htag, hktOpen, hord, hcanc, hmem⟩ := vaultClose_figures a.vault.cur.jobTag a
      rw [hvault] at hnum htag
      rw [hvault, hkt] at hmem
      rw [hkt] at hktOpen
      simp only [finish_vault]
      rw [hcur, hclosed, hvault]
      rw [hvault] at hord hcanc hst hktOpen
      refine ⟨hnum, htag, hktOpen, hord, hcanc, ⟨_, hmem, rfl⟩, ?_⟩
      rw [finish_of_open hopen]
      refine ⟨_, List.getLast?_concat, rfl, rfl, hst⟩
    · rw [hexec, hnone]
      rfl

end Sys2Proof.Machine
end

section
/-! PROOFS. The seal check and the nonce refill (R451, R465), and management requests (R330, R476, R477, R480). -/

namespace Sys2Proof.Machine

-- One declaration at a time: see the frames of the state's operations.
set_option Elab.async false

/-! ### Events -/

theorem evQueue_seq (e : Event) (s : State) : (evQueue e s).ev.seq = s.ev.seq := by
  unfold evQueue
  extract_lets q
  split_ifs
  · rfl
  · rfl
  · rfl
  · split <;> rfl

theorem emit_seq (code unit detail : Nat) (s : State) : (emit code unit detail s).ev.seq = (s.ev.seq + 1) % 65536 := by
  rw [emit, evSend, evQueue_seq, dripAt_ev]

/-! ### The seal check and the refill -/

/-- A status bit of Vault that was set already changes nothing; another is set, with EV_VAULT (R452). -/
theorem vaultStatus_of_set {b : Nat} {s : State} (h : bit s.vault.status b = true) : vaultStatus b s = s := by
  rw [vaultStatus, if_pos h]

theorem vaultStatus_of_clear {b : Nat} {s : State} (h : bit s.vault.status b = false) :
    (vaultStatus b s).vault = { s.vault with status := s.vault.status ||| 2 ^ b } ∧
    (vaultStatus b s).ev.seq = (s.ev.seq + 1) % 65536 := by
  rw [vaultStatus, if_neg (by simp [h])]
  exact ⟨by rw [vaultEvent_vault], emit_seq ..⟩

theorem sealCheck_of_good {ok : Bool} {crc : Nat} {s : State} (hok : ok = true) (hcrc : crc % 2 ^ 32 = s.fuses.vaultChecksum) :
    sealCheck ok crc s = { s with vault := { s.vault with checksum := crc % 2 ^ 32 } } := by
  rw [sealCheck, if_pos ⟨hok, hcrc⟩]

theorem sealCheck_of_bad {ok : Bool} {crc : Nat} {s : State} (h : ok = false ∨ crc % 2 ^ 32 ≠ s.fuses.vaultChecksum) :
    sealCheck ok crc s = vaultStatus 0 { s with
      vault := { s.vault with checksum := crc % 2 ^ 32, sealBroken := true } } := by
  rw [sealCheck, if_neg]
  rintro ⟨hok, hcrc⟩
  exact h.elim (fun hbad => by simp [hok] at hbad) (fun hbad => hbad hcrc)

theorem bit_or_self (x b : Nat) : bit (x ||| 2 ^ b) b = true := by
  simp [bit, Nat.testBit_or, Nat.testBit_two_pow_self]

/-- Breaking the seal (R451): the ROM's CRC is reported, the seal is broken and its status bit set, with one event where it
was clear. -/
theorem sealCheck_breaks {ok : Bool} {crc : Nat} {s : State} (h : ok = false ∨ crc % 2 ^ 32 ≠ s.fuses.vaultChecksum) :
    (sealCheck ok crc s).vault.checksum = crc % 2 ^ 32 ∧ (sealCheck ok crc s).vault.sealBroken = true ∧
    bit (sealCheck ok crc s).vault.status 0 = true ∧
    (bit s.vault.status 0 = true → (sealCheck ok crc s).ev = s.ev) ∧
    (bit s.vault.status 0 = false → (sealCheck ok crc s).ev.seq = (s.ev.seq + 1) % 65536) := by
  rw [sealCheck_of_bad h]
  by_cases hset : bit s.vault.status 0 = true
  · rw [vaultStatus_of_set (by exact hset)]
    exact ⟨rfl, rfl, hset, fun _ => rfl, fun hclear => absurd hset (by simp [hclear])⟩
  · have hclear := Bool.eq_false_iff.2 hset
    obtain ⟨hvault, hseq⟩ := vaultStatus_of_clear (b := 0)
      (s := { s with vault := { s.vault with checksum := crc % 2 ^ 32, sealBroken := true } }) hclear
    rw [hvault]
    exact ⟨rfl, rfl, bit_or_self .., fun h => absurd h hset, fun _ => hseq⟩

theorem sealCheck_writes (ok : Bool) (crc : Nat) (s : State) : Writes [.vault, .ev, .counters, .drip] s (sealCheck ok crc s) := by
  unfold sealCheck
  exact .ite (fun _ => .of_mix rfl) fun _ => .after (vaultStatus_writes ..) (.of_mix rfl)

/-- Settles O18. -/
theorem vaultCheckAndRefillComplete : Obligations.VaultCheckAndRefillComplete := by
  unfold Obligations.VaultCheckAndRefillComplete
  intro ok crc s hlost
  refine ⟨⟨_, live_next hlost, ?_, fun hok hcrc => sealCheck_of_good hok hcrc, fun hbad => (sealCheck_breaks hbad).2,
    (sealCheck_writes ok crc s).eq_mix⟩, fun hfew hao => ?_, fun hmany => ?_⟩
  · by_cases hgood : ok = true ∧ crc % 2 ^ 32 = s.fuses.vaultChecksum
    · rw [sealCheck_of_good hgood.1 hgood.2]
    · exact (sealCheck_breaks (by simpa [imp_iff_or_not, or_comm] using hgood)).1
  · have hexec : exec .vaultNonceRefill s = .next (mgmtServe s.mgmt.waiting.length
        (vaultServe { s with vault := { s.vault with nonces := s.vault.nonces + 1 } })) := by
      rw [exec, execVaultNonceRefill, live_next hlost, if_pos ⟨hfew, by simp [hao]⟩]
    refine ⟨hexec, fun hvault hmgmt => ?_⟩
    have hserve : vaultServe { s with vault := { s.vault with nonces := s.vault.nonces + 1 } } =
        { s with vault := { s.vault with nonces := s.vault.nonces + 1 } } := by
      simp only [vaultServe, hvault]
    rw [hexec, hmgmt, hserve]
    rfl
  · rw [exec, execVaultNonceRefill, live_next hlost, if_neg (by omega)]

/-! ### Management responses -/

/-- The link VC0 is sent on depends on the links and on mgmt.link alone. -/
theorem mgmtLink_congr {s t : State} (hlinks : t.links = s.links) (hparam : getP t 0x0306 = getP s 0x0306) :
    mgmtLink t = mgmtLink s := by
  simp only [mgmtLink, upLinks, hlinks, hparam]

theorem Writes.mgmtLink_eq {l : List Fld} {s t : State} (h : Writes l s t) (hlinks : .links ∉ l := by decide)
    (hparams : .params ∉ l := by decide) : mgmtLink t = mgmtLink s := by
  have hp : t.params = s.params := h.same .params hparams
  exact mgmtLink_congr (h.same .links hlinks) (by simp only [getP, hp])

theorem pnUse_eq (n : Nat) (s : State) : (pnUse n s).mgmt.cache = s.mgmt.cache ∧ (pnUse n s).mgmt.sent = s.mgmt.sent := by
  unfold pnUse
  split <;> exact ⟨rfl, rfl⟩

theorem pnUse_writes (n : Nat) (s : State) : Writes [.mgmt] s (pnUse n s) := by
  unfold pnUse
  split
  · exact .refl _ s
  · exact .of_mix rfl

theorem mgmtOut_writes (r : MgmtResp) (s : State) : Writes [.mgmt] s (mgmtOut r s) := by
  unfold mgmtOut
  split
  · exact .refl _ s
  · exact .after (pnUse_writes ..) (.of_mix rfl)

theorem mgmtOut_of_noLink {s : State} (h : mgmtLink s = none) (r : MgmtResp) : mgmtOut r s = s := by
  simp only [mgmtOut, h]

theorem mgmtOut_sent {s : State} {k : Nat} (h : mgmtLink s = some k) (r : MgmtResp) :
    (mgmtOut r s).mgmt.sent.head? = some (k, r) := by
  simp only [mgmtOut, h, (pnUse_eq ..).2]
  rfl

theorem mgmtOut_cache (r : MgmtResp) (s : State) : (mgmtOut r s).mgmt.cache = s.mgmt.cache := by
  unfold mgmtOut
  split
  · rfl
  · exact (pnUse_eq ..).1

/-- A response is the newest of the cache, and the last sent where a link is Up (R477). -/
theorem mgmtAnswer_result (q : MgmtReq) (status : Nat) (body : List Byte) (s : State) :
    (mgmtAnswer q status body s).mgmt.cache.head? =
      some { seat := q.seat, reqId := q.reqId, kind := q.kind + 0x80, status := status, body := body } ∧
    ∀ k, mgmtLink s = some k → (mgmtAnswer q status body s).mgmt.sent.head? =
      some (k, { seat := q.seat, reqId := q.reqId, kind := q.kind + 0x80, status := status, body := body }) :=
  ⟨by rw [mgmtAnswer, mgmtOut_cache]; rfl, fun k hk => by rw [mgmtAnswer]; apply mgmtOut_sent; exact hk⟩

/-! ### What a request is answered with -/

theorem vaultRecord_writes (sel p3 : Nat) (s : State) : Writes [.vault, .freeCtr] s (vaultRecord sel p3 s).1 := by
  unfold vaultRecord
  split
  · exact (signReading_writes ..).mono
  · split
    · exact (signReading_writes ..).mono
    · exact .refl _ s
  · exact .of_mix rfl
  · unfold rawCopy freeBytes
    extract_lets
    split <;> exact .of_mix rfl

theorem stageBundle_writes (b : List Byte) (v : Verdict) (s : State) : Writes [.fw] s (stageBundle b v s).1 := by
  unfold stageBundle
  split <;> exact .of_mix rfl

theorem mgmtLink_traceApply (c : TraceCfg) (s : State) : mgmtLink (traceApply c s) = mgmtLink s := by
  by_cases h : c.enable = true ∧ s.drip.enable = false
  · rw [traceApply_rising h.1 h.2]
    exact mgmtLink_congr rfl (getP_setP_ne (by decide) ..)
  · rw [traceApply_not_rising h]
    rfl

/-- A request of a known kind is answered once, and the link its answer goes by is the one there was. -/
def Answers (q : MgmtReq) (s t : State) : Prop :=
  ∃ status body w, t = mgmtAnswer q status body w ∧ mgmtLink w = mgmtLink s

theorem mgmtRead_ok {q : MgmtReq} {s : State} (hlo : 1 ≤ q.arg0) (hhi : q.arg0 ≤ 512)
    (hids : ∀ i < q.arg0, (paramInfo (leAt q.body (2 * i) 2)).isSome = true) :
    mgmtRead q s = mgmtAnswer q 0
      ((List.range q.arg0).flatMap fun i => leBytes 8 (paramValue s (leAt q.body (2 * i) 2))) s := by
  rw [mgmtRead, if_pos (by simp [inR, hlo, hhi])]
  simp only
  rw [if_pos (by simpa using hids), List.flatMap_map]

theorem mgmtRead_answers (q : MgmtReq) (s : State) : Answers q s (mgmtRead q s) := by
  unfold mgmtRead
  extract_lets ids
  split_ifs <;> exact ⟨_, _, _, rfl, rfl⟩

theorem mgmtVault_answers (q : MgmtReq) (sel : Nat) (s : State) : Answers q s (mgmtVault q sel s) := by
  unfold mgmtVault
  split_ifs
  · exact ⟨_, _, _, rfl, (vaultRecord_writes ..).mgmtLink_eq⟩
  · exact ⟨_, _, _, rfl, rfl⟩

theorem mgmtChunk_answers (q : MgmtReq) (s : State) : Answers q s (mgmtChunk q s) := by
  unfold mgmtChunk
  split_ifs <;> exact ⟨_, _, _, rfl, rfl⟩

theorem mgmtCommit_answers (q : MgmtReq) (v : Verdict) (s : State) : Answers q s (mgmtCommit q v s) := by
  unfold mgmtCommit
  extract_lets r s₁ s₂
  have hstaged : Writes [.fw, .rst, .latch] s s₁ := (stageBundle_writes ..).mono
  have hbooted : Writes [.fw, .rst, .latch] s s₂ := .ite (fun _ =>
    .after (.of_mix (l := [.fw, .rst, .latch]) (s := s₁) rfl) hstaged) (fun _ => hstaged)
  exact ⟨_, _, _, rfl, hbooted.mgmtLink_eq⟩

theorem mgmtTrace_answers (q : MgmtReq) (s : State) : Answers q s (mgmtTrace q s) := by
  unfold mgmtTrace
  extract_lets c
  split_ifs
  · exact ⟨_, _, _, rfl, rfl⟩
  · exact ⟨_, _, _, rfl, rfl⟩
  · have hranges := checkRanges_writes [(0, c.base, c.size * 65536, true)] .ok s
    split
    case h_1 hfailed =>
      rw [hfailed] at hranges
      exact ⟨_, _, _, rfl, hranges.mgmtLink_eq⟩
    case h_2 hok =>
      rw [hok] at hranges
      exact ⟨_, _, _, rfl, (mgmtLink_traceApply ..).trans hranges.mgmtLink_eq⟩

theorem mgmtRun_answers {q : MgmtReq} (hlo : 1 ≤ q.kind) (hhi : q.kind ≤ 7) (v : Verdict) (s : State) :
    Answers q s (mgmtRun q v s) := by
  obtain h | h | h | h | h | h | h : q.kind = 1 ∨ q.kind = 2 ∨ q.kind = 3 ∨ q.kind = 4 ∨ q.kind = 5 ∨ q.kind = 6 ∨
      q.kind = 7 := by omega
  all_goals simp only [mgmtRun, h]
  · exact mgmtRead_answers ..
  · exact mgmtVault_answers ..
  · exact mgmtChunk_answers ..
  · exact mgmtCommit_answers ..
  · exact mgmtTrace_answers ..
  · exact ⟨_, _, _, rfl, rfl⟩
  · exact mgmtVault_answers ..

/-- Settles O19. -/
theorem managementRequestAnswers : Obligations.ManagementRequestAnswers := by
  unfold Obligations.ManagementRequestAnswers
  intro q v s hlost
  have hexec : execManagementRequest q v s = .next _ := live_next hlost
  change exec (.managementRequest q v) s = _ at hexec
  refine ⟨fun hp => by rw [hexec, if_pos hp], fun hp hserved => by rw [hexec, hp, hserved]; rfl, fun hp hserved => ?_⟩
  rw [hp, hserved] at hexec
  simp only [Bool.false_eq_true, if_false, if_true] at hexec
  refine ⟨fun r hr => ?_, fun hnew => ⟨fun hwaits => ?_, fun hruns hlo hhi => ?_⟩⟩
  · rw [hr] at hexec
    exact ⟨_, hexec, mgmtOut_cache .., fun k hk => mgmtOut_sent hk r, fun hnone => mgmtOut_of_noLink hnone r,
      (mgmtOut_writes r s).eq_mix⟩
  · rw [hexec, hnew, hwaits]
    rfl
  · rw [hnew, hruns] at hexec
    refine ⟨_, hexec, ?_⟩
    simp only [Bool.false_eq_true, if_false]
    by_cases hread : q.kind = 1 ∧ 1 ≤ q.arg0 ∧ q.arg0 ≤ 512 ∧ ∀ i < q.arg0, (paramInfo (leAt q.body (2 * i) 2)).isSome = true
    · obtain ⟨hkind, hmin, hmax, hids⟩ := hread
      have hrun : mgmtRun q v s = mgmtRead q s := by simp only [mgmtRun, hkind]
      rw [hrun, mgmtRead_ok hmin hmax hids]
      obtain ⟨hcache, hsent⟩ := mgmtAnswer_result q 0
        ((List.range q.arg0).flatMap fun i => leBytes 8 (paramValue s (leAt q.body (2 * i) 2))) s
      exact ⟨_, hcache, hsent, rfl, rfl, rfl, fun _ _ _ _ => ⟨rfl, rfl⟩, fun h6 => by omega⟩
    · by_cases hlog : q.kind = 6
      · have hrun : mgmtRun q v s = mgmtAnswer q 0 (logBytes s) s := by simp only [mgmtRun, hlog]
        rw [hrun]
        obtain ⟨hcache, hsent⟩ := mgmtAnswer_result q 0 (logBytes s) s
        exact ⟨_, hcache, hsent, rfl, rfl, rfl, fun h1 => by omega, fun _ => ⟨rfl, rfl⟩⟩
      · obtain ⟨status, body, w, hrun, hlink⟩ := mgmtRun_answers hlo hhi v s
        rw [hrun]
        obtain ⟨hcache, hsent⟩ := mgmtAnswer_result q status body w
        exact ⟨_, hcache, fun k hk => hsent k (hlink.trans hk), rfl, rfl, rfl,
          fun h1 hmin hmax hids => absurd ⟨h1, hmin, hmax, hids⟩ hread, fun h6 => absurd h6 hlog⟩

end Sys2Proof.Machine
end

section
/-! PROOFS. PTP's rows (R279 to R281). -/

namespace Sys2Proof.Machine

-- One declaration at a time: see the frames of the state's operations.
set_option Elab.async false

theorem emitTime_writes (s : State) : Writes [.ev, .counters, .drip] s (emitTime s) := emit_writes ..

theorem emitTime_ptp (s : State) : (emitTime s).ptp = s.ptp := (emitTime_writes s).same .ptp (by decide)

theorem ptpLock_ptp (v : Bool) (s : State) : (ptpLock v s).ptp = { s.ptp with locked := v } := by
  unfold ptpLock
  split_ifs with hsame
  · rw [← hsame]
  · exact emitTime_ptp _

theorem ptpLock_writes (v : Bool) (s : State) : Writes [.ptp, .ev, .counters, .drip] s (ptpLock v s) :=
  .ite (fun _ => .refl _ s) (fun _ => .after (emitTime_writes _) (.of_mix rfl))

theorem ptpOffset_writes (off : Int) (s : State) : Writes [.ptp, .ev, .counters, .drip] s (ptpOffset off s) := by
  unfold ptpOffset
  extract_lets q far s₁ s₂ loud s₃
  have hcounted : Writes [.ptp, .ev, .counters, .drip] s s₁ := .of_mix rfl
  have hlocked : Writes [.ptp, .ev, .counters, .drip] s s₂ :=
    .ite (fun _ => .after (ptpLock_writes ..) hcounted) (fun _ => .ite (fun _ => .after (ptpLock_writes ..) hcounted) (fun _ => hcounted))
  have halarm : Writes [.ptp, .ev, .counters, .drip] s s₃ :=
    .ite (fun _ => .after (emitTime_writes _) hlocked) (fun _ => hlocked)
  exact .after (.of_mix (l := [.ptp]) rfl) halarm

/-- The servo after an interval's offset, but for the alarm (R281): the counts of good and bad intervals, and the lock. -/
def ptpCounted (off : Int) (q : Ptp) : Ptp :=
  { q with offset := off, missed := 0,
           good := (if above off q.lockNs then 0 else min 16 (q.good + 1)),
           bad := (if above off q.lockNs then min 4 (q.bad + 1) else 0) }

/-- The lock after an interval's offset: the 16th good one in a row locks, the 4th bad one unlocks (R281). -/
def ptpLocked (q : Ptp) : Ptp := { q with locked := if q.good = 16 then true else if q.bad = 4 then false else q.locked }

theorem ptpOffset_ptp (off : Int) (s : State) :
    (ptpOffset off s).ptp = { ptpLocked (ptpCounted off s.ptp) with alarmed := above off s.ptp.alarmNs } := by
  unfold ptpOffset
  extract_lets q far s₁ s₂ loud s₃
  have hlocked : s₂.ptp = ptpLocked (ptpCounted off s.ptp) := by
    have hcounted : s₁.ptp = ptpCounted off s.ptp := rfl
    rw [← hcounted]
    unfold s₂ ptpLocked
    split_ifs
    · exact ptpLock_ptp ..
    · exact ptpLock_ptp ..
    · rfl
  have halarm : s₃.ptp = s₂.ptp := by
    unfold s₃
    split_ifs
    · exact emitTime_ptp _
    · rfl
  exact congrArg (fun q : Ptp => { q with alarmed := above off s.ptp.alarmNs }) (halarm.trans hlocked)

/-- A good interval (R281). -/
theorem ptpOffset_near {off : Int} {s : State} (h : above off s.ptp.lockNs = false) :
    (ptpOffset off s).ptp.bad = 0 ∧ (15 ≤ s.ptp.good → (ptpOffset off s).ptp.locked = true) ∧
    (s.ptp.good < 15 → (ptpOffset off s).ptp.locked = s.ptp.locked) := by
  simp only [ptpOffset_ptp, ptpLocked, ptpCounted, h, Bool.false_eq_true, if_false, true_and]
  exact ⟨fun hmany => by rw [if_pos (by omega)], fun hfew => by rw [if_neg (by omega), if_neg (by decide)]⟩

/-- A bad interval (R281). -/
theorem ptpOffset_far {off : Int} {s : State} (h : above off s.ptp.lockNs = true) :
    (ptpOffset off s).ptp.good = 0 ∧ (3 ≤ s.ptp.bad → (ptpOffset off s).ptp.locked = false) ∧
    (s.ptp.bad < 3 → (ptpOffset off s).ptp.locked = s.ptp.locked) := by
  simp only [ptpOffset_ptp, ptpLocked, ptpCounted, h, if_true, true_and]
  exact ⟨fun hmany => by rw [if_neg (by decide), if_pos (by omega)],
    fun hfew => by rw [if_neg (by decide), if_neg (by omega)]⟩

/-- The role's handover changes where the servo runs and no count of it (R281). -/
theorem ptpHandover_ptp (s : State) : ∃ hinge link, (ptpHandover s).ptp = { s.ptp with hinge := hinge, link := link } := by
  unfold ptpHandover
  extract_lets h order
  split
  · exact ⟨_, _, rfl⟩
  · exact ⟨_, _, emitTime_ptp _⟩

theorem ptpHandover_writes (s : State) : Writes [.ptp, .ev, .counters, .drip] s (ptpHandover s) := by
  unfold ptpHandover
  extract_lets h order
  split
  · exact .refl _ s
  · exact .after (emitTime_writes _) (.of_mix rfl)

section
variable {dom : Nat} {s : State} (hlost : s.rst.rootLost = false) (hrole : s.ptp.role = 1) (hdom : dom = s.ptp.domain)
include hlost hrole hdom

theorem exec_ptpSync (t1 t2 : Int) (k : Nat) : exec (.ptpEventMessage dom (.sync t1 t2 k)) s =
    .next (ptpOffset (rxStamp s t2 k - t1 - s.ptp.delay) s) := by
  rw [exec, execPtpEventMessage, live_next hlost, if_pos ⟨hrole, hdom⟩]

theorem exec_ptpAnnounce : exec (.ptpEventMessage dom .announce) s = .next s := by
  rw [exec, execPtpEventMessage, live_next hlost, if_pos ⟨hrole, hdom⟩]

theorem exec_ptpDelayResp_sent {t3 : Int} (hsent : sentStamp s 1 = some t3) (hmech : s.ptp.delayMech = false) (t4 : Int) :
    exec (.ptpEventMessage dom (.delayResp t4)) s =
      .next (ptpDelay ((s.ptp.offset + s.ptp.delay + (t4 - t3)) / 2) s) := by
  rw [exec, execPtpEventMessage, live_next hlost, if_pos ⟨hrole, hdom⟩]
  simp [hsent, hmech]

theorem exec_ptpDelayResp_other (h : sentStamp s 1 = none ∨ s.ptp.delayMech = true) (t4 : Int) :
    exec (.ptpEventMessage dom (.delayResp t4)) s = .next s := by
  rw [exec, execPtpEventMessage, live_next hlost, if_pos ⟨hrole, hdom⟩]
  obtain hnone | hmech := h
  · simp [hnone]
  · cases sentStamp s 1 <;> simp [hmech]

theorem exec_ptpPdelayResp_sent {t1 : Int} (hsent : sentStamp s 2 = some t1) (hmech : s.ptp.delayMech = true)
    (t2 t3 t4 : Int) (k : Nat) : exec (.ptpEventMessage dom (.pdelayResp t2 t3 t4 k)) s =
      .next (ptpDelay ((rxStamp s t4 k - t1 - (t3 - t2)) / 2) s) := by
  rw [exec, execPtpEventMessage, live_next hlost, if_pos ⟨hrole, hdom⟩]
  simp [hsent, hmech]

theorem exec_ptpPdelayResp_other (h : sentStamp s 2 = none ∨ s.ptp.delayMech = false) (t2 t3 t4 : Int) (k : Nat) :
    exec (.ptpEventMessage dom (.pdelayResp t2 t3 t4 k)) s = .next s := by
  rw [exec, execPtpEventMessage, live_next hlost, if_pos ⟨hrole, hdom⟩]
  obtain hnone | hmech := h
  · simp [hnone]
  · cases sentStamp s 2 <;> simp [hmech]

end

/-- Settles O20. -/
theorem ptpRowsComplete : Obligations.PtpRowsComplete := by
  unfold Obligations.PtpRowsComplete
  intro dom m s hlost
  refine ⟨fun hrole hdom => ?_, fun hother => ?_, fun hrole => ⟨fun hfew => ?_, fun hmany => ?_⟩, fun hrole => ?_,
    fun hrole hup => ?_, fun hrole hup => ?_, fun hnot => ?_, fun hnot => ?_⟩
  · exact ⟨fun t1 t2 k => ⟨_, exec_ptpSync hlost hrole hdom t1 t2 k, by rw [ptpOffset_ptp]; rfl, by rw [ptpOffset_ptp]; rfl,
        ptpOffset_near, ptpOffset_far, (ptpOffset_writes ..).eq_mix⟩,
      fun t3 t4 hsent hmech => exec_ptpDelayResp_sent hlost hrole hdom hsent hmech t4,
      fun t1 t2 t3 t4 k hsent hmech => exec_ptpPdelayResp_sent hlost hrole hdom hsent hmech t2 t3 t4 k,
      fun t4 h => exec_ptpDelayResp_other hlost hrole hdom h t4,
      fun t2 t3 t4 k h => exec_ptpPdelayResp_other hlost hrole hdom h t2 t3 t4 k, exec_ptpAnnounce hlost hrole hdom⟩
  · rw [exec, execPtpEventMessage, live_next hlost, if_neg (by tauto)]
  · rw [exec, execPtpSyncMissed, live_next hlost, if_pos hrole]
    simp only
    rw [if_pos (by omega)]
  · have hexec : exec .ptpSyncMissed s = .next (ptpHandover (ptpLock false
        { s with ptp := { s.ptp with missed := 0, good := 0, bad := 0 } })) := by
      rw [exec, execPtpSyncMissed, live_next hlost, if_pos hrole]
      simp only
      rw [if_neg (by omega)]
    obtain ⟨hinge, link, hptp⟩ := ptpHandover_ptp (ptpLock false { s with ptp := { s.ptp with missed := 0, good := 0, bad := 0 } })
    have hwrites : Writes [.ptp, .ev, .counters, .drip] s (ptpHandover (ptpLock false
        { s with ptp := { s.ptp with missed := 0, good := 0, bad := 0 } })) :=
      .after (ptpHandover_writes _) (.after (ptpLock_writes ..) (.of_mix rfl))
    refine ⟨_, hexec, ?_, ?_, ?_, ?_, hwrites.same .kt (by decide)⟩ <;> rw [hptp, ptpLock_ptp]
  · rw [exec, execPtpSyncMissed, live_next hlost, if_neg hrole]
  · have hexec : exec .delayRequestInterval s = .next (ptpSend [if s.ptp.delayMech then 2 else 1] s) := by
      rw [exec, execDelayRequestInterval, live_next hlost, if_pos ⟨hrole, hup⟩]
    exact ⟨_, hexec, _, rfl, rfl, rfl, rfl, rfl⟩
  · have hexec : exec .syncIntervalTransmit s = .next (ptpSend [0, 8] s) := by
      rw [exec, execSyncIntervalTransmit, live_next hlost, if_pos ⟨hrole, hup⟩]
    exact ⟨_, hexec, _, _, rfl, rfl, rfl, rfl, rfl⟩
  · rw [exec, execDelayRequestInterval, live_next hlost, if_neg]
    rintro ⟨hrole, hup⟩
    simp [hrole, hup] at hnot
  · rw [exec, execSyncIntervalTransmit, live_next hlost, if_neg]
    rintro ⟨hrole, hup⟩
    simp [hrole, hup] at hnot

end Sys2Proof.Machine
end

section
/-! PROOFS. A job faults once (R90, R407, R420, R454). -/

namespace Sys2Proof.Machine

-- One declaration at a time: see the frames of the state's operations.
set_option Elab.async false

/-! ### What the end of a job leaves open and held -/

/-- The open commands after a final reply: those of another order stay. -/
theorem finish_opened (o : OpenCmd) (status r0 r1 r2 r3 : Nat) (s : State) :
    (finish o status r0 r1 r2 r3 s).latch.opened = s.latch.opened.filter fun x => !sameCmd x o := by
  by_cases h : s.latch.opened.any (fun x => sameCmd x o) = true
  · rw [finish_of_open h]
  · rw [finish_of_ended (by simpa using h), List.filter_eq_self.2]
    intro x hx
    simpa using fun hxo => h (List.any_eq_true.2 ⟨x, hx, hxo⟩)

theorem finish_held (o : OpenCmd) (status r0 r1 r2 r3 : Nat) (s : State) :
    (finish o status r0 r1 r2 r3 s).latch.held = s.latch.held := by
  by_cases h : s.latch.opened.any (fun x => sameCmd x o) = true
  · rw [finish_of_open h]
  · rw [finish_of_ended (by simpa using h)]

theorem slotOfCmd_same {s : State} {o : OpenCmd} {i : Nat} {c : StepCtx} (h : slotOfCmd s o = some (i, c)) :
    sameCmd c.cmd o = true := by
  obtain ⟨j, -, hj⟩ := List.exists_of_findSome?_eq_some h
  split at hj
  · split_ifs at hj with hsame
    cases hj
    exact hsame
  · cases hj

theorem sameCmd_congr {a b : OpenCmd} (h : sameCmd a b = true) (x : OpenCmd) : sameCmd x a = sameCmd x b := by
  have horder : a.order = b.order := of_decide_eq_true h
  simp only [sameCmd, horder]

/-- The end of an open command takes it off the open ones, and no other. -/
theorem endOpen_opened (status : Nat) (o : OpenCmd) (s : State) :
    (endOpen status o s).latch.opened = s.latch.opened.filter fun x => !sameCmd x o := by
  unfold endOpen
  split
  case h_1 i c hslot =>
    rw [finishStep, finish_opened]
    simp only [sameCmd_congr (slotOfCmd_same hslot)]
  case h_2 => exact finish_opened ..

theorem endOpen_held (status : Nat) (o : OpenCmd) (s : State) : (endOpen status o s).latch.held = s.latch.held := by
  unfold endOpen
  split
  · exact finish_held ..
  · exact finish_held ..

theorem mem_opened_foldl_endOpen {status : Nat} {l : List OpenCmd} {s : State} {x : OpenCmd}
    (h : x ∈ (l.foldl (fun t c => endOpen status c t) s).latch.opened) : x ∈ s.latch.opened ∧ x ∉ l := by
  induction l generalizing s with
  | nil => exact ⟨h, by simp⟩
  | cons c l ih =>
    obtain ⟨hmem, hnot⟩ := ih h
    rw [endOpen_opened, List.mem_filter] at hmem
    obtain ⟨hs, hother⟩ := hmem
    refine ⟨hs, fun hx => ?_⟩
    obtain rfl | hl := List.mem_cons.1 hx
    · simp [sameCmd] at hother
    · exact hnot hl

theorem foldl_endOpen_held (status : Nat) (l : List OpenCmd) (s : State) :
    (l.foldl (fun t c => endOpen status c t) s).latch.held = s.latch.held := by
  induction l generalizing s with
  | nil => rfl
  | cons c l ih => exact (ih _).trans (endOpen_held ..)

theorem endHeld_held (h : Held) (status : Nat) (s : State) :
    (endHeld h status s).latch.held = s.latch.held.filter fun x => decide (x.order ≠ h.order) := by
  unfold endHeld
  extract_lets s₁
  split_ifs
  · rw [replyOne, reply_latch]
  · exact finish_held ..
  · exact finish_held ..

theorem mem_foldl_endHeld {status : Nat} {l : List Held} {s : State} {x : Held}
    (h : x ∈ (l.foldl (fun t c => endHeld c status t) s).latch.held) : x ∈ s.latch.held ∧ x ∉ l := by
  induction l generalizing s with
  | nil => exact ⟨h, by simp⟩
  | cons c l ih =>
    obtain ⟨hmem, hnot⟩ := ih h
    rw [endHeld_held, List.mem_filter] at hmem
    obtain ⟨hs, hother⟩ := hmem
    refine ⟨hs, fun hx => ?_⟩
    obtain rfl | hl := List.mem_cons.1 hx
    · simp at hother
    · exact hnot hl

/-- No held command of those named is left. -/
theorem mem_endHeldAll {p : Held → Bool} {status : Nat} {s : State} {x : Held}
    (h : x ∈ (endHeldAll p status s).latch.held) : x ∈ s.latch.held ∧ p x = false := by
  obtain ⟨hs, hnot⟩ := mem_foldl_endHeld h
  exact ⟨hs, by simpa [hs] using hnot⟩

theorem endWaits_carafe (p : CellWait → Bool) (s : State) :
    (endWaits p s).carafe = { s.carafe with waits := s.carafe.waits.filter fun w => !p w } := by
  have hcounted : Writes [.counters] { s with carafe := { s.carafe with waits := s.carafe.waits.filter fun w => !p w } }
      (endWaits p s) :=
    .foldl (fun t (w : CellWait) => ctrAdd_writes (897 + 2 * w.owner) (t.kt - w.since) t) _ _
  exact hcounted.same .carafe (by decide)

/-! ### Entering Faulted -/

/-- The job's held commands, then its open ones, are ended (R90, R407). -/
def cmdsEnded (s : State) : State :=
  let held := endHeldAll (fun h => decide (h.why ≠ .after) && jobScope h.cmd.opcode.toNat) 0x0401 s
  (held.latch.opened.filter (·.jobScope)).foldl (fun t c => endOpen 0x0401 c t) held

/-- And its counts are settled and its waits for a cell ended (R407, R454). -/
def jobEnded (s : State) : State := endWaits CellWait.ofJob (settleAll (cmdsEnded s))

/-- The job is Faulted by an event (R90, R420). -/
def faultedBy (e : Event) (s : State) : State :=
  { s with job := { s.job with st := .faulted, startCmd := none, closeCmd := none, faultKt := s.kt },
           slots := s.slots.map fun x => { x with ctx := x.ctx.map fun c => { c with preemptCmds := [] } },
           ep := { s.ep with commit := none }, tensors := [],
           dump := { s.dump with wanted := true, fault := e, kt := s.kt } }

theorem faultedBy_writes (e : Event) (s : State) : Writes [.job, .slots, .ep, .tensors, .dump] s (faultedBy e s) :=
  .of_mix rfl

theorem faultedBy_preempts {e : Event} {s : State} {x : Slot} (hx : x ∈ (faultedBy e s).slots) {c : StepCtx}
    (hc : x.ctx = some c) : c.preemptCmds = [] := by
  obtain ⟨y, -, rfl⟩ := List.mem_map.1 hx
  obtain ⟨z, -, rfl⟩ := Option.map_eq_some_iff.1 hc
  rfl

theorem enterFaulted_eq (e : Event) (s : State) : enterFaulted false e s = faultedBy e (jobEnded s) := by
  unfold enterFaulted jobEnded cmdsEnded
  simp only [Bool.false_eq_true, if_false]
  rfl

/-- What ending a job's commands writes. -/
def endFields : List Fld := [.latch, .drip, .slots, .duties, .vault, .carafe, .counters]

theorem cmdsEnded_writes (s : State) : Writes [.latch, .drip] s (cmdsEnded s) := by
  unfold cmdsEnded
  extract_lets held
  have hheld : Writes [.latch, .drip] s held := endHeldAll_writes ..
  exact hheld.trans (.foldl (fun t c => endOpen_writes 0x0401 c t) _ held)

theorem jobEnded_writes (s : State) : Writes endFields s (jobEnded s) :=
  .after (endWaits_writes ..) (.after (settleAll_writes _) (cmdsEnded_writes s).mono)

theorem cmdsEnded_latch (s : State) : (∀ c ∈ (cmdsEnded s).latch.opened, c.jobScope = false) ∧
    ∀ h ∈ (cmdsEnded s).latch.held, h.why = .after ∨ jobScope h.cmd.opcode.toNat = false := by
  unfold cmdsEnded
  extract_lets held
  refine ⟨fun c hc => ?_, fun h hh => ?_⟩
  · obtain ⟨hmem, hnot⟩ := mem_opened_foldl_endOpen hc
    simpa [hmem] using hnot
  · rw [foldl_endOpen_held] at hh
    obtain ⟨-, hp⟩ := mem_endHeldAll hh
    simpa [or_iff_not_imp_left] using hp

theorem jobEnded_latch (s : State) : (jobEnded s).latch = (cmdsEnded s).latch := by
  have hwrites : Writes [.slots, .duties, .vault, .carafe, .counters] (cmdsEnded s) (jobEnded s) :=
    .after (endWaits_writes ..) (settleAll_writes _).mono
  exact hwrites.same .latch (by decide)

theorem jobEnded_carafe (s : State) :
    (jobEnded s).carafe = { s.carafe with waits := s.carafe.waits.filter fun w => !w.ofJob } := by
  have hsettled : Writes [.latch, .drip, .slots, .duties, .vault] s (settleAll (cmdsEnded s)) :=
    .after (settleAll_writes _) (cmdsEnded_writes s).mono
  rw [jobEnded, endWaits_carafe, hsettled.same .carafe (by decide)]

/-- What the end of a job by a fault writes, but for its log and its event. -/
def enterFields : List Fld := endFields ++ [.job, .ep, .tensors, .dump]

theorem enterFaulted_fields (e : Event) (s : State) : Writes enterFields s (enterFaulted false e s) := by
  rw [enterFaulted_eq]
  exact .after (faultedBy_writes ..) (jobEnded_writes s).mono

/-- What a job's end by a fault leaves of its commands (R90, R407). -/
theorem enterFaulted_ends (e : Event) (s : State) :
    (∀ c ∈ (enterFaulted false e s).latch.opened, c.jobScope = false) ∧
    (∀ h ∈ (enterFaulted false e s).latch.held, h.why = .after ∨ jobScope h.cmd.opcode.toNat = false) ∧
    (∀ x, x ∈ (enterFaulted false e s).carafe.waits ↔ x ∈ s.carafe.waits ∧ x.ofJob = false) ∧
    (∀ x ∈ (enterFaulted false e s).slots, ∀ c, x.ctx = some c → c.preemptCmds = []) := by
  obtain ⟨hopened, hheld⟩ := cmdsEnded_latch s
  have hwrites := faultedBy_writes e (jobEnded s)
  rw [← jobEnded_latch, ← hwrites.same .latch (by decide)] at hopened hheld
  rw [enterFaulted_eq]
  refine ⟨hopened, hheld, fun x => ?_, fun x hx c hc => faultedBy_preempts hx hc⟩
  rw [hwrites.same .carafe (by decide), jobEnded_carafe]
  simp

/-- The job and the dump once a fault has ended it (R90, R420). -/
theorem enterFaulted_job (e : Event) (s : State) :
    (enterFaulted false e s).job = { s.job with st := .faulted, startCmd := none, closeCmd := none, faultKt := s.kt } ∧
    (enterFaulted false e s).ep.commit = none ∧ (enterFaulted false e s).tensors = [] ∧
    (enterFaulted false e s).dump.wanted = true ∧ (enterFaulted false e s).dump.fault = e := by
  have hjob : (jobEnded s).job = s.job := (jobEnded_writes s).same .job (by decide)
  have hkt : (jobEnded s).kt = s.kt := (jobEnded_writes s).same .kt (by decide)
  rw [enterFaulted_eq]
  exact ⟨by rw [faultedBy, hjob, hkt], rfl, rfl, rfl, rfl⟩

/-! ### The event and the log -/

/-- A fatal event joins the fatal ones, or waits behind them (R80). -/
theorem evSend_appends {e : Event} (hfatal : e.fatal = true) (s : State) :
    (evSend e s).ev.fatal = s.ev.fatal ++ [e] ∨ (evSend e s).ev.waitFatal = s.ev.waitFatal ++ [e] := by
  simp only [evSend, evQueue, hfatal, if_true, dripAt_ev]
  split_ifs
  · exact .inl rfl
  · exact .inr rfl

/-- While AO writes go on, an entry is the log's last (R418). -/
theorem logAdd_last {s : State} (h : s.rst.aoStopped = false) (kind body : Nat) :
    ∃ l, (logAdd kind body s).rlog.getLast? = some l ∧ l.kind = kind ∧ l.body = body := by
  simp only [logAdd, h, Bool.false_eq_true, if_false, logPut]
  rw [List.drop_append_of_le_length (by omega)]
  exact ⟨_, List.getLast?_concat, rfl, rfl⟩

/-- A later fault is counted (R407). -/
theorem secondary_counts (e : Event) (s : State) : Writes [.counters, .rlog, .rlogSeq, .rlogWait] s (secondary e s) ∧
    ctr (secondary e s) 19 = (ctr s 19 + 1) % 2 ^ 64 := by
  refine ⟨.after (logAdd_writes ..) (ctrInc_writes 19 s).mono, ?_⟩
  have hctr : ctr (secondary e s) 19 = ctr (ctrInc 19 s) 19 := by
    rw [ctr, ctr, secondary, (logAdd_writes ..).same .counters (by decide)]
  rw [hctr, ctr_ctrInc_self]

/-- Settles O24, by the state of the job: none, one that has faulted, or one that is open. -/
theorem jobFaultsOnce : Obligations.JobFaultsOnce := by
  unfold Obligations.JobFaultsOnce
  intro unit st d w s
  extract_lets t e
  refine ⟨fun hclosed => ?_, fun hfaulted => ?_, fun hopen hfirst => ?_⟩
  · simp only [t, jobFault, hclosed]
  · by_cases hname : renames e s = true
    · have ht : t = secondary s.dump.fault { s with
          ev := { s.ev with fatal := s.ev.fatal.map fun x =>
            if x = s.dump.fault then { e with seq := s.dump.fault.seq } else x },
          rlog := s.rlog.map fun l => if l.kind = 1 ∧ l.body = s.dump.fault.word then
            { l with body := Event.word { e with seq := s.dump.fault.seq } } else l,
          dump := { s.dump with fault := { e with seq := s.dump.fault.seq } } } := by
        unfold t jobFault
        simp only [hfaulted]
        rw [if_pos hname]
      obtain ⟨hwrites, hcounted⟩ := secondary_counts s.dump.fault { s with
          ev := { s.ev with fatal := s.ev.fatal.map fun x =>
            if x = s.dump.fault then { e with seq := s.dump.fault.seq } else x },
          rlog := s.rlog.map fun l => if l.kind = 1 ∧ l.body = s.dump.fault.word then
            { l with body := Event.word { e with seq := s.dump.fault.seq } } else l,
          dump := { s.dump with fault := { e with seq := s.dump.fault.seq } } }
      rw [← ht] at hwrites hcounted
      have hev := hwrites.same .ev (by decide)
      refine ⟨hwrites.same .job (by decide), hcounted, ?_, ?_, ?_, hwrites.same .latch (by decide),
        hwrites.same .slots (by decide), fun _ => ?_, fun h => absurd hname (by simp [h])⟩
      · rw [hev]
      · rw [hev]
        exact List.length_map ..
      · rw [hev]
      · rw [hwrites.same .dump (by decide)]
    · have ht : t = secondary e s := by
        unfold t jobFault
        simp only [hfaulted]
        rw [if_neg hname]
      obtain ⟨hwrites, hcounted⟩ := secondary_counts e s
      rw [← ht] at hwrites hcounted
      have hev := hwrites.same .ev (by decide)
      exact ⟨hwrites.same .job (by decide), hcounted, by rw [hev], by rw [hev], by rw [hev], hwrites.same .latch (by decide),
        hwrites.same .slots (by decide), fun h => absurd h hname, fun _ => hwrites.same .dump (by decide)⟩
  · have ht : t = enterFaulted false e (logAdd 0x0001 e.word (evSend e s)) := jobFault_first hopen hfirst unit st d w
    have hlogged : Writes [.ev, .counters, .drip, .rlog, .rlogSeq, .rlogWait] s (logAdd 0x0001 e.word (evSend e s)) :=
      .after (logAdd_writes ..) (evSend_writes e s).mono
    have hentered := enterFaulted_fields e (logAdd 0x0001 e.word (evSend e s))
    have hall : Writes faultFields s t := jobFault_writes ..
    obtain ⟨hopened, hheld, hwaits, hctx⟩ := enterFaulted_ends e (logAdd 0x0001 e.word (evSend e s))
    obtain ⟨hjob, hcommit, htensors, hwanted, hfault⟩ := enterFaulted_job e (logAdd 0x0001 e.word (evSend e s))
    rw [← ht] at hentered hopened hheld hwaits hctx hjob hcommit htensors hwanted hfault
    rw [hlogged.same .job (by decide), hlogged.same .kt (by decide)] at hjob
    rw [hlogged.same .carafe (by decide)] at hwaits
    refine ⟨hjob, ?_, rfl, rfl, rfl, fun hao => ?_, hopened, hheld, hwaits, hcommit, htensors, hctx, hwanted, hfault,
      hall.same .hostMem (by decide), hall.same .sp (by decide), hall.same .doms (by decide), hall.same .links (by decide)⟩
    · rw [hentered.same .ev (by decide), logAdd_ev]
      exact evSend_appends rfl s
    · rw [hentered.same .rlog (by decide)]
      exact logAdd_last (by rw [(evSend_writes e s).same .rst (by decide)]; exact hao) ..

end Sys2Proof.Machine
end

section
/-! PROOFS. Reset domains: how a reset begins (R95, R414, R416), DOMAIN_RESET, and the watchdogs (R404 to R410, R425). -/

namespace Sys2Proof.Machine

-- One declaration at a time: see the frames of the state's operations.
set_option Elab.async false

/-! ### Domains -/

theorem domAt_setDom_self {i : Nat} {s : State} (h : i < s.doms.length) (d : Dom) : domAt (setDom i d s) i = d := by
  simp [domAt, setDom, List.getD, h]

theorem domAt_setDom_ne {i j : Nat} (h : j ≠ i) (d : Dom) (s : State) : domAt (setDom i d s) j = domAt s j := by
  simp [domAt, setDom, List.getD, List.getElem?_set_ne (Ne.symm h)]

theorem domAt_congr {s t : State} (h : t.doms = s.doms) (i : Nat) : domAt t i = domAt s i := by
  rw [domAt, domAt, h]

theorem Writes.domAt_eq {l : List Fld} {s t : State} (h : Writes l s t) (i : Nat) (hdoms : .doms ∉ l := by decide) :
    domAt t i = domAt s i :=
  domAt_congr (h.same .doms hdoms) i

theorem domOf_lt {code i : Nat} (h : domOf code = some i) : i < 14 := by
  unfold domOf at h
  split_ifs at h <;> cases h <;> omega

theorem unitDom_lt {u i : Nat} (h : unitDom u = some i) : i < 14 := by
  unfold unitDom at h
  split_ifs at h <;> cases h <;> omega

theorem setDom_writes (i : Nat) (d : Dom) (s : State) : Writes [.doms] s (setDom i d s) := .of_mix rfl

theorem domPhase_writes (i phase : Nat) (s : State) :
    Writes [.ev, .counters, .drip, .rlog, .rlogSeq, .rlogWait] s (domPhase i phase s) := by
  unfold domPhase
  exact .after (logAdd_writes ..) (.after (emit_writes ..) (dripAt_writes ..).mono)

/-! ### The job, when a reset begins -/

theorem jobActive_open {s : State} (h : jobActive s = true) : s.job.st ≠ .closed ∧ s.job.st ≠ .faulted := by
  have hst : s.job.st = .starting ∨ s.job.st = .running ∨ s.job.st = .draining := of_decide_eq_true h
  obtain hst | hst | hst := hst <;> simp [hst]

theorem jobActive_congr {s t : State} (h : t.job = s.job) : jobActive t = jobActive s := by
  rw [jobActive, jobActive, h]

theorem jobActive_of_faulted {s : State} (h : s.job.st = .faulted) : jobActive s = false := by
  simp [jobActive, h]

theorem domJobFault_active {i : Nat} {s : State} (hi : i ≠ 0) (h : jobActive s = true) :
    (domJobFault i s).job.st = .faulted := by
  obtain ⟨hopen, hfirst⟩ := jobActive_open h
  rw [domJobFault, if_pos ⟨hi, h⟩]
  exact jobFault_first_faults hopen hfirst ..

theorem domJobFault_quiet {i : Nat} {s : State} (h : i = 0 ∨ jobActive s = false) : domJobFault i s = s := by
  rw [domJobFault, if_neg]
  rintro ⟨hi, hactive⟩
  exact h.elim hi (by simp [hactive])

theorem domJobFault_writes (i : Nat) (s : State) : Writes faultFields s (domJobFault i s) :=
  .ite (fun _ => jobFault_writes ..) (fun _ => .refl _ s)

/-! ### A reset begins, is joined, or is recorded -/

theorem domBegin_writes (i trig : Nat) (cmds : List OpenCmd) (s : State) :
    Writes (.doms :: faultFields) s (domBegin i trig cmds s) :=
  .after (domJobFault_writes ..) (setDom_writes ..).mono

/-- The domain of a reset that begins (R414). -/
def domBegun (i trig : Nat) (cmds : List OpenCmd) (s : State) : Dom :=
  { domAt s i with st := .fencing, trigger := trig, cmds := cmds, left := 0, kept := s.counters, keptKt := s.kt,
                   keptOrder := s.latch.order }

theorem domBegin_self {i : Nat} {s : State} (h : i < s.doms.length) (trig : Nat) (cmds : List OpenCmd) :
    domAt (domBegin i trig cmds s) i = domBegun i trig cmds s := by
  rw [domBegin, (domJobFault_writes ..).domAt_eq, domAt_setDom_self h]
  rfl

theorem domBegin_ne {i j : Nat} (h : j ≠ i) (trig : Nat) (cmds : List OpenCmd) (s : State) :
    domAt (domBegin i trig cmds s) j = domAt s j := by
  rw [domBegin, (domJobFault_writes ..).domAt_eq, domAt_setDom_ne h]

theorem domBegin_faults {i : Nat} {s : State} (hi : i ≠ 0) (h : jobActive s = true) (trig : Nat) (cmds : List OpenCmd) :
    (domBegin i trig cmds s).job.st = .faulted :=
  domJobFault_active (s := setDom i _ s) hi h

theorem domBegin_quiet {i : Nat} {s : State} (h : i = 0 ∨ jobActive s = false) (trig : Nat) (cmds : List OpenCmd) :
    domBegin i trig cmds s = setDom i (domBegun i trig cmds s) s :=
  domJobFault_quiet (s := setDom i _ s) h

section
variable {i : Nat} {s : State} (trig : Nat) (cmds : List OpenCmd)

theorem domTrigger_inService (h : domState s i = .inService) : domTrigger i trig cmds s = domBegin i trig cmds s := by
  have hst : (domAt s i).st = .inService := h
  simp only [domTrigger, hst]

theorem domTrigger_rejoining (h : domState s i = .rejoining) : domTrigger i trig cmds s =
    setDom i { domAt s i with again := some ((domAt s i).again.getD trig), againCmds := (domAt s i).againCmds ++ cmds } s := by
  have hst : (domAt s i).st = .rejoining := h
  simp only [domTrigger, hst]

theorem domTrigger_resetting (hserve : domState s i ≠ .inService) (hjoin : domState s i ≠ .rejoining) :
    domTrigger i trig cmds s = setDom i { domAt s i with cmds := (domAt s i).cmds ++ cmds } s := by
  unfold domTrigger
  extract_lets d
  split
  case h_1 hst => exact absurd hst hserve
  case h_2 hst => exact absurd hst hjoin
  case h_3 => rfl

/-- A trigger of a domain that is not in service changes the domains alone (R414). -/
theorem domTrigger_joins (h : domState s i ≠ .inService) : Writes [.doms] s (domTrigger i trig cmds s) := by
  by_cases hjoin : domState s i = .rejoining
  · rw [domTrigger_rejoining trig cmds hjoin]
    exact setDom_writes ..
  · rw [domTrigger_resetting trig cmds h hjoin]
    exact setDom_writes ..

theorem domTrigger_writes (i : Nat) (s : State) : Writes (.doms :: faultFields) s (domTrigger i trig cmds s) := by
  by_cases h : domState s i = .inService
  · rw [domTrigger_inService trig cmds h]
    exact domBegin_writes ..
  · exact (domTrigger_joins trig cmds h).mono

theorem domTrigger_ne {j : Nat} (h : j ≠ i) (s : State) : domAt (domTrigger i trig cmds s) j = domAt s j := by
  by_cases hserve : domState s i = .inService
  · rw [domTrigger_inService trig cmds hserve, domBegin_ne h]
  · by_cases hjoin : domState s i = .rejoining
    · rw [domTrigger_rejoining trig cmds hjoin, domAt_setDom_ne h]
    · rw [domTrigger_resetting trig cmds hserve hjoin, domAt_setDom_ne h]

/-- A reset of CTL, or of any domain while no job is active, faults no job (R416). -/
theorem domTrigger_quiet (h : i = 0 ∨ jobActive s = false) : Writes [.doms] s (domTrigger i trig cmds s) := by
  by_cases hserve : domState s i = .inService
  · rw [domTrigger_inService trig cmds hserve, domBegin_quiet h]
    exact setDom_writes ..
  · exact domTrigger_joins trig cmds hserve

end

/-- A domain in service begins the reset that is asked for (R414). -/
theorem domTrigger_begins {i : Nat} {s : State} (hi : i < s.doms.length) (h : domState s i = .inService) (trig : Nat)
    (cmds : List OpenCmd) : domAt (domTrigger i trig cmds s) i = domBegun i trig cmds s := by
  rw [domTrigger_inService trig cmds h, domBegin_self hi]

/-! ### DOMAIN_RESET -/

theorem exec_domainReset {p : Packet} {s : State} {i : Nat} (h : Runs 0x70 p s) (hlen : p.payloadLen.toNat = 0)
    (hentry : entryFree s) (hdom : domOf (p.p0.toNat % 256) = some i) : exec (.domainReset p) s =
      .next (domTrigger i 1 [openOf p s.latch.order] (accept p s.latch.order 0 (takePacket p s))) := by
  rw [PacketForm.exec_start (c := .domainReset p) (fun _ => rfl) h, startDomainReset, asyncCmd,
    checked_runs h (by decide) (by omega) (by simp [hlen]) (by simp [hdom]) rfl rfl rfl (fun _ => hentry)]
  simp only [hdom]

/-- Settles O21. -/
theorem domainResetCommandCompletes : Obligations.DomainResetCommandCompletes := by
  unfold Obligations.DomainResetCommandCompletes
  intro p s i hinv h hlen hentry hdom o
  have hbegun : Writes [.latch, .counters, .drip, .recRing] s (accept p s.latch.order 0 (takePacket p s)) :=
    .after (accept_writes ..) (takePacket_writes p s)
  have hexec := exec_domainReset h hlen hentry hdom
  generalize accept p s.latch.order 0 (takePacket p s) = a at hbegun hexec
  have hjob : a.job = s.job := hbegun.same .job (by decide)
  have hstate : domState a i = domState s i := congrArg Dom.st (hbegun.domAt_eq i)
  have hlt : i < a.doms.length := by
    rw [hbegun.same .doms (by decide), hinv.doms]
    exact domOf_lt hdom
  have hwrites : Writes (.doms :: .recRing :: faultFields) s (domTrigger i 1 [o] a) :=
    .after (domTrigger_writes ..) hbegun.mono
  refine ⟨_, hexec, fun hserve => ?_, fun hjoin => ?_, fun hserve hjoin => ?_,
    fun j hj => (domTrigger_ne _ _ hj a).trans (hbegun.domAt_eq j), hwrites.same .hostMem (by decide),
    hwrites.same .sp (by decide), hwrites.same .keyway (by decide), hwrites.same .links (by decide)⟩
  · rw [← hstate] at hserve
    rw [domTrigger_begins hlt hserve]
    refine ⟨rfl, rfl, rfl, fun hi hactive => ?_, fun hquiet => ?_⟩
    · rw [domTrigger_inService _ _ hserve]
      exact domBegin_faults hi ((jobActive_congr hjob).trans hactive) ..
    · rw [← jobActive_congr hjob] at hquiet
      exact ((domTrigger_quiet _ _ hquiet).same .job (by decide)).trans hjob
  · rw [← hstate] at hjoin
    rw [domTrigger_rejoining _ _ hjoin, domAt_setDom_self hlt, ← hbegun.domAt_eq i]
    exact ⟨hjoin, rfl, rfl, hjob⟩
  · rw [← hstate] at hserve hjoin
    rw [domTrigger_resetting _ _ hserve hjoin, domAt_setDom_self hlt, ← hbegun.domAt_eq i]
    exact ⟨rfl, hjob⟩

/-! ### The watchdogs -/

/-- The hang of a unit first faults an active job (R406, R410). -/
def hangFault (unit detail : Nat) (s : State) : State :=
  if jobActive s then jobFault unit 0x0405 detail Where.none s else s

theorem hangFault_writes (unit detail : Nat) (s : State) : Writes faultFields s (hangFault unit detail s) :=
  .ite (fun _ => jobFault_writes ..) (fun _ => .refl _ s)

theorem hangFault_quiet (unit detail : Nat) (s : State) : jobActive (hangFault unit detail s) = false := by
  unfold hangFault
  split_ifs with h
  · exact jobActive_of_faulted (jobFault_first_faults (jobActive_open h).1 (jobActive_open h).2 ..)
  · simpa using h

theorem hangFault_faults {s : State} (h : jobActive s = true) (unit detail : Nat) :
    (hangFault unit detail s).job.st = .faulted := by
  rw [hangFault, if_pos h]
  exact jobFault_first_faults (jobActive_open h).1 (jobActive_open h).2 ..

theorem exec_unitHang_some {unit i : Nat} {s : State} (hlost : s.rst.rootLost = false) (hdom : unitDom unit = some i)
    (index cls : Nat) : exec (.unitHang unit index cls) s =
      .next (domTrigger i 2 [] (hangFault unit (watchDetail 2 cls index) s)) := by
  rw [exec, execUnitHang, live_next hlost]
  simp only [hdom]
  rfl

theorem exec_unitHang_none {unit : Nat} {s : State} (hlost : s.rst.rootLost = false) (hdom : unitDom unit = none)
    (index cls : Nat) : exec (.unitHang unit index cls) s = .next (hangFault unit (watchDetail 2 cls index) s) := by
  rw [exec, execUnitHang, live_next hlost]
  simp only [hdom]
  rfl

/-- A reset that CTL's watchdogs ask for (R406, R409): the job goes on. -/
theorem ctlTrigger_result {s : State} (hinv : Inv s) (trig : Nat) :
    (domState s 0 = .inService →
      domState (domTrigger 0 trig [] s) 0 = .fencing ∧ (domAt (domTrigger 0 trig [] s) 0).trigger = trig) ∧
    domTrigger 0 trig [] s = { s with doms := (domTrigger 0 trig [] s).doms } ∧
    ∀ j, j ≠ 0 → domAt (domTrigger 0 trig [] s) j = domAt s j := by
  refine ⟨fun hserve => ?_, (domTrigger_quiet trig [] (.inl rfl)).eq_mix, fun j hj => domTrigger_ne trig [] hj s⟩
  have hbegun := domTrigger_begins (by rw [hinv.doms]; decide) hserve trig []
  exact ⟨congrArg Dom.st hbegun, by rw [hbegun]; rfl⟩

/-- Settles O23. -/
theorem watchdogsComplete : Obligations.WatchdogsComplete := by
  unfold Obligations.WatchdogsComplete
  intro unit index cls core code s hinv hlost
  refine ⟨?_, fun hport => ?_, fun hport => ?_, fun hcore => ?_, fun hcore => ?_, fun i hdom hi => ?_, fun hcore => ?_,
    fun hcore => ?_, fun hcore => ?_, fun hcore => ?_, ?_⟩
  · have hfaulted := hangFault_writes unit (watchDetail 2 cls index) s
    have hquiet := hangFault_quiet unit (watchDetail 2 cls index) s
    have hst := fun h => hangFault_faults (s := s) h unit (watchDetail 2 cls index)
    cases hdom : unitDom unit with
    | none =>
      exact ⟨_, exec_unitHang_none hlost hdom index cls, hst, by simp, fun j _ => hfaulted.domAt_eq j,
        hfaulted.same .hostMem (by decide), hfaulted.same .links (by decide)⟩
    | some i =>
      have hexec := exec_unitHang_some hlost hdom index cls
      generalize hangFault unit (watchDetail 2 cls index) s = a at hfaulted hquiet hst hexec
      have htrigger := domTrigger_quiet (i := i) 2 [] (.inr hquiet)
      have hstate : domState a i = domState s i := congrArg Dom.st (hfaulted.domAt_eq i)
      refine ⟨_, hexec, fun hactive => ?_, fun j hj hserve => ?_, fun j hj => ?_, ?_, ?_⟩
      · rw [htrigger.same .job (by decide)]
        exact hst hactive
      · cases hj
        have hbegun := domTrigger_begins (by rw [hfaulted.same .doms (by decide), hinv.doms]; exact unitDom_lt hdom)
          (hstate.trans hserve) 2 []
        exact ⟨congrArg Dom.st hbegun, by rw [hbegun]; rfl⟩
      · exact (domTrigger_ne 2 [] (fun h => hj (by rw [h])) a).trans (hfaulted.domAt_eq j)
      · exact (htrigger.same .hostMem (by decide)).trans (hfaulted.same .hostMem (by decide))
      · exact (htrigger.same .links (by decide)).trans (hfaulted.same .links (by decide))
  · rw [exec, execPortBackpressureExpiry, live_next hlost, if_pos hport]
  · rw [exec, execPortBackpressureExpiry, live_next hlost, if_neg hport]
  · have hexec : exec (.firmwareHeartbeatMiss core) s = .next (domTrigger 0 4 [] s) := by
      rw [exec, execFirmwareHeartbeatMiss, live_next hlost, if_pos hcore]
    exact ⟨_, hexec, ctlTrigger_result hinv 4⟩
  · rw [exec, execFirmwareHeartbeatMiss, live_next hlost, if_neg (by omega)]
  · have hexec : exec (.controlStateError code) s = .next (domTrigger i 3 [] s) := by
      obtain ⟨k, rfl⟩ := Nat.exists_eq_succ_of_ne_zero hi
      rw [exec, execControlStateError, live_next hlost, hdom]
      rfl
    refine ⟨_, hexec, fun hserve => ?_, fun hserve => (domTrigger_joins 3 [] hserve).eq_mix,
      fun j hj => domTrigger_ne 3 [] hj s⟩
    have hbegun := domTrigger_begins (by rw [hinv.doms]; exact domOf_lt hdom) hserve 3 []
    refine ⟨congrArg Dom.st hbegun, by rw [hbegun]; rfl, fun hactive => ?_⟩
    rw [domTrigger_inService 3 [] hserve]
    exact domBegin_faults hi hactive ..
  · rw [exec, execCoreMemoryUncorrectable, live_next hlost, if_pos rfl, if_pos hcore]
  · rw [exec, execCoreMemoryUncorrectable, live_next hlost, if_pos rfl, if_neg (by omega)]
  · have hexec : exec (.coreMemoryUncorrectable false core) s = .next (domTrigger 0 5 [] s) := by
      rw [exec, execCoreMemoryUncorrectable, live_next hlost, if_neg (by simp), if_pos hcore]
    obtain ⟨hbegins, hframe, -⟩ := ctlTrigger_result hinv 5
    exact ⟨_, hexec, hbegins, hframe⟩
  · rw [exec, execCoreMemoryUncorrectable, live_next hlost, if_neg (by simp), if_neg (by omega)]
  · have hexec : execEscalationWindowExpiry s = .next _ := live_next hlost
    exact ⟨_, hexec, fun r => by simp, rfl⟩

end Sys2Proof.Machine
end

section
/-! PROOFS. Frames of Carafe's cells and of Pour's channel machine, and which counters they count (R323, R345, R373). -/

namespace Sys2Proof.Machine

-- One declaration at a time: see the frames of the state's operations.
set_option Elab.async false

/-! ### Cells -/

theorem setPool_writes (c : Nat) (p : Pool) (s : State) : Writes [.carafe] s (setPool c p s) := .of_mix rfl

theorem linkCell_writes (a : Nat) (next : Option Nat) (s : State) :
    Writes [.sp, .spPoison, .counters] s (linkCell a next s) :=
  spWrite_writes ..

/-- What the giving back of cells writes. -/
def cellFields : List Fld := [.carafe, .sp, .spPoison, .counters]

theorem freeCell_writes (h : CellHeld) (s : State) : Writes cellFields s (freeCell h s) := by
  unfold freeCell
  extract_lets p _ s₁
  have hout : Writes cellFields s s₁ := .of_mix rfl
  exact .after (setPool_writes ..) (.after (linkCell_writes ..) hout)

theorem freeCells_writes (p : CellUse → Bool) (s : State) : Writes cellFields s (freeCells p s) := by
  unfold freeCells
  extract_lets s₁
  have hwaits : Writes cellFields s s₁ := (endWaits_writes ..).mono
  exact hwaits.trans (.foldl (fun t h => freeCell_writes h t) _ _)

theorem unstage_writes (c : Nat) (s : State) : Writes cellFields s (unstage c s) := freeCells_writes ..

theorem takeCell_writes (o c ref : Nat) (use : CellUse) (s : State) : Writes [.carafe] s (takeCell o c ref use s) := by
  unfold takeCell
  extract_lets p
  split
  · exact .refl _ s
  · exact .of_mix rfl

theorem carafeAsk_writes (o n cls ref : Nat) (use : CellUse) (s : State) :
    Writes [.carafe, .counters] s (carafeAsk o n cls ref use s) := by
  unfold carafeAsk
  split
  · exact (takeCell_writes ..).mono
  · exact .after (ctrInc_writes ..) (.of_mix rfl)

theorem pfcStep_writes (s : State) (hp : Nat × Nat) : Writes [.pfcSent, .counters] s (pfcStep s hp) := by
  unfold pfcStep
  extract_lets occ on xoff xon
  exact .ite (fun _ => .after (ctrAdd_writes ..) (.of_mix rfl)) (fun _ => .refl _ s)

theorem pfcCheck_writes (s : State) : Writes [.pfcSent, .counters] s (pfcCheck s) :=
  .foldl (fun t x => pfcStep_writes t x) _ s

/-! ### Pour's channels -/

theorem setCh_writes (c : Nat) (x : PourCh) (s : State) : Writes [.pour] s (setCh c x s) := .of_mix rfl

theorem chMap_writes (c : Nat) (f : PourCh → PourCh) (s : State) : Writes [.pour] s (chMap c f s) := setCh_writes ..

/-- What a channel's change of state writes. -/
def moveFields : List Fld := [.pour, .keyway, .latch, .drip]

theorem chMove_writes (c : Nat) (st : PourState) (s : State) : Writes moveFields s (chMove c st s) :=
  .after (dripAt_writes ..) (.after (mmuRetire_writes _) (chMap_writes ..).mono)

theorem chReady_writes (c : Nat) (s : State) : Writes [.pour] s (chReady c s) :=
  .after (chMap_writes ..) (.of_mix rfl)

theorem pourReply_writes (c status : Nat) (s : State) : Writes [.pour, .latch, .drip] s (pourReply c status s) := by
  unfold pourReply
  extract_lets x
  split
  · exact .refl _ s
  · exact .after (finish_writes ..) (chMap_writes ..).mono

theorem abortReplies_writes (c status : Nat) (s : State) : Writes [.pour, .latch, .drip] s (abortReplies c status s) := by
  unfold abortReplies
  refine .trans (chMap_writes ..).mono (.foldl (fun t o => ?_) _ _)
  exact (finish_writes ..).mono

/-- What the end of a channel writes, but for host memory. -/
def chEndFields : List Fld := moveFields ++ cellFields

theorem pourIdle_writes (c : Nat) (s : State) : Writes chEndFields s (pourIdle c s) :=
  .after (setCh_writes ..) (.after (chMove_writes ..) (unstage_writes ..).mono)

theorem pourDone_writes (c status : Nat) (s : State) : Writes chEndFields s (pourDone c status s) :=
  .after (chMove_writes ..) (.after (unstage_writes ..) (chMap_writes ..).mono)

theorem backPieces_writes (c : Nat) (s : State) : Writes [.keyway] s (backPieces c s).1 := by
  unfold backPieces
  extract_lets va
  have hfirst := xlateRange_writes s 0 (va + 8) 56 true
  split
  case h_1 hfailed =>
    rw [hfailed] at hfirst
    exact hfirst
  case h_2 t a hok =>
    rw [hok] at hfirst
    have hsecond := hfirst.trans (xlateRange_writes t 0 va 8 true)
    split
    case h_1 hfailed =>
      rw [hfailed] at hsecond
      exact hsecond
    case h_2 hok =>
      rw [hok] at hsecond
      exact hsecond

theorem writeBack_writes (c status : Nat) (s : State) : Writes [.keyway, .hostMem] s (writeBack c status s) := by
  unfold writeBack
  extract_lets d
  have hpieces := backPieces_writes c s
  split
  case h_1 hfailed =>
    rw [hfailed] at hpieces
    exact hpieces.mono
  case h_2 hok =>
    rw [hok] at hpieces
    exact .after (k := [.hostMem]) (.of_mix rfl) hpieces.mono

theorem pourStop_writes (c : Nat) (s : State) : Writes chEndFields s (pourStop c s) := by
  unfold pourStop
  extract_lets s₁
  have hreplied : Writes chEndFields s s₁ := .after (abortReplies_writes ..) (pourReply_writes ..).mono
  exact .ite (fun _ => .refl _ s) fun _ =>
    .after (chMove_writes ..) (.after (unstage_writes ..) (.after (chMap_writes ..) hreplied))

theorem pourMemDrained_writes (s : State) : Writes (.hostMem :: chEndFields) s (pourMemDrained s) := by
  unfold pourMemDrained
  refine .trans (.of_mix rfl) (.foldl (fun t c => ?_) _ _)
  exact .ite (fun _ => .refl _ t) fun _ => .after (unstage_writes ..) (.after (abortReplies_writes ..)
    (.after (pourReply_writes ..) (writeBack_writes ..).mono))

theorem pourRejoin_writes (s : State) : Writes chEndFields s (pourRejoin s) :=
  .foldl (fun t _ => .ite (fun _ => .refl _ t) fun _ => pourIdle_writes ..) _ s

/-! ### Which counters count -/

theorem Writes.ctr_eq {l : List Fld} {s t : State} (h : Writes l s t) (i : Nat) (hctr : .counters ∉ l := by decide) :
    ctr t i = ctr s i := by
  rw [ctr, ctr, h.same .counters hctr]

theorem ctr_foldl {α : Type} {f : State → α → State} {i : Nat} (hf : ∀ t x, ctr (f t x) i = ctr t i) (l : List α) (s : State) :
    ctr (l.foldl f s) i = ctr s i :=
  List.foldlRecOn (motive := fun t => ctr t i = ctr s i) _ _ rfl fun t ht x _ => (hf t x).trans ht

theorem ctr_spWrite_ne {i : Nat} (h : i ≠ 12) (a : Nat) (bs : List Byte) (s : State) : ctr (spWrite a bs s) i = ctr s i := by
  have hcount (t : State) : ctr (spCount a bs.length t) i = ctr t i := by
    unfold spCount
    split_ifs
    · exact ctr_ctrInc_ne h t
    · rfl
  exact hcount _

theorem ctr_endWaits_ne {i : Nat} (h : i < 896) (p : CellWait → Bool) (s : State) : ctr (endWaits p s) i = ctr s i := by
  unfold endWaits
  exact ctr_foldl (fun t (w : CellWait) => ctr_ctrAdd_ne (by omega) ..) _ _

theorem ctr_freeCell_ne {i : Nat} (h : i ≠ 12) (c : CellHeld) (s : State) : ctr (freeCell c s) i = ctr s i := by
  unfold freeCell
  extract_lets p _ s₁
  rw [(setPool_writes ..).ctr_eq]
  exact ctr_spWrite_ne h ..

/-- Giving back cells counts accesses outside the scratchpad, and the waits that end (R309, R324). -/
theorem ctr_freeCells_ne {i : Nat} (h : i ≠ 12) (hwait : i < 896) (p : CellUse → Bool) (s : State) :
    ctr (freeCells p s) i = ctr s i := by
  unfold freeCells
  extract_lets s₁
  exact (ctr_foldl (fun t c => ctr_freeCell_ne h c t) _ _).trans (ctr_endWaits_ne hwait ..)

theorem ctr_pfcCheck_ne {i : Nat} (h : i < 256) (s : State) : ctr (pfcCheck s) i = ctr s i := by
  refine ctr_foldl (fun t x => ?_) _ s
  unfold pfcStep
  extract_lets occ on xoff xon
  split
  · exact ctr_ctrAdd_ne (by unfold hingeCtr; omega) ..
  · rfl

theorem ctr_pourMemDrained_ne {i : Nat} (h : i ≠ 12) (hwait : i < 896) (s : State) : ctr (pourMemDrained s) i = ctr s i := by
  unfold pourMemDrained
  refine (ctr_foldl (fun t c => ?_) _ _).trans rfl
  extract_lets x
  split_ifs
  · rfl
  · have hreplied : Writes (.hostMem :: moveFields) t
        (abortReplies c 0x0240 (pourReply c 0x0240 (writeBack c 0x0240 t))) :=
      .after (abortReplies_writes ..) (.after (pourReply_writes ..) (writeBack_writes ..).mono)
    exact (ctr_freeCells_ne h hwait ..).trans (hreplied.ctr_eq i)

theorem ctr_evQueue_ne {i : Nat} (h : i ≠ 44) (e : Event) (s : State) : ctr (evQueue e s) i = ctr s i := by
  unfold evQueue
  extract_lets q
  split_ifs
  · rfl
  · rfl
  · rfl
  · split
    · rfl
    · exact ctr_ctrInc_ne h _

/-- An event counts itself only where it is merged into the summary (R80). -/
theorem ctr_emit_ne {i : Nat} (h : i ≠ 44) (code unit detail : Nat) (s : State) : ctr (emit code unit detail s) i = ctr s i := by
  rw [emit, evSend, ctr_evQueue_ne h, (dripAt_writes ..).ctr_eq]
  rfl

end Sys2Proof.Machine
end

section
/-! PROOFS. The phases of a domain reset (R414): frames of the planner, of Vault's waiting commands and of the rejoin, and what
only ends commands. -/

namespace Sys2Proof.Machine

-- One declaration at a time: see the frames of the state's operations.
set_option Elab.async false

/-! ### The planner -/

theorem ledgerAdd_writes (action cause value place : Nat) (s : State) :
    Writes [.drip, .aoWait, .plan] s (ledgerAdd action cause value place s) := by
  unfold ledgerAdd
  extract_lets rec_ s₁
  have hdrip : Writes [.drip, .aoWait, .plan] s s₁ := (dripAt_writes ..).mono
  exact .ite (fun _ => hdrip.trans (.of_mix rfl)) (fun _ => hdrip.trans (.of_mix rfl))

/-- What the planner writes. -/
def planFields : List Fld :=
  [.plan, .pwr, .drip, .aoWait, .ev, .counters, .rlog, .rlogSeq, .rlogWait, .links, .kft, .esc]

theorem phaseTo_writes (p : PlanPhase) (s : State) : Writes [.plan] s (phaseTo p s) := .of_mix rfl

theorem vddTo_writes (code : Nat) (s : State) : Writes planFields s (vddTo code s) := by
  unfold vddTo
  extract_lets c up s₁
  have hledger : Writes planFields s s₁ := (ledgerAdd_writes ..).mono
  exact hledger.trans (.of_mix rfl)

theorem skipSettle_writes (s : State) : Writes [.pwr] s (skipSettle s) := .of_mix rfl

theorem skipTo_writes (n : Nat) (s : State) : Writes planFields s (skipTo n s) := by
  unfold skipTo
  extract_lets s₁
  have hledger : Writes planFields s s₁ := (ledgerAdd_writes ..).mono
  exact .after (skipSettle_writes _) (hledger.trans (.of_mix rfl))

theorem emitExhausted_writes (s : State) : Writes planFields s (emitExhausted s) :=
  .after (emit_writes ..) (ledgerAdd_writes ..).mono

theorem planBaseline_writes (s : State) : Writes [.plan] s (planBaseline s) :=
  .ite (fun _ => .of_mix rfl) (fun _ => .refl _ s)

theorem planEnd_writes (s : State) : Writes planFields s (planEnd s) := by
  unfold planEnd
  extract_lets p short third s₁ _ s₂ tell s₃ s₄ _ s₅ s₆ n
  have h₁ : Writes planFields s s₁ := (planBaseline_writes s).mono
  have h₂ : Writes planFields s s₂ := h₁.trans (.of_mix rfl)
  have h₃ : Writes planFields s s₃ := .ite (fun _ => .after (emit_writes ..) h₂) (fun _ => h₂)
  have h₄ : Writes planFields s s₄ := .ite (fun _ => .after (logAdd_writes ..) h₃) (fun _ => h₃)
  have h₅ : Writes planFields s s₅ :=
    .ite (fun _ => .after (emitExhausted_writes _) (h₄.trans (.of_mix rfl))) (fun _ => h₄)
  have h₆ : Writes planFields s s₆ := .ite (fun _ => .after (ledgerAdd_writes ..) h₅) (fun _ => h₅)
  exact .ite (fun _ => .after (phaseTo_writes ..) (.ite (fun _ => .after (skipTo_writes ..) h₆) (fun _ => h₆))) (fun _ => h₆)

theorem planBegin_writes (cause : Nat) (s : State) : Writes [.plan] s (planBegin cause s) := .of_mix rfl

/-- A phase that acts, and may then go on to another. -/
theorem phaseTo_after {p : PlanPhase} {s t : State} (h : Writes planFields s t) : Writes planFields s (phaseTo p t) :=
  .after (phaseTo_writes ..) h

theorem planAct_writes (s : State) : Writes planFields s (planAct s).1 := by
  have hphase (p : PlanPhase) : Writes planFields s (phaseTo p s) := phaseTo_after (.refl _ s)
  unfold planAct
  extract_lets p
  split
  · split
    · exact .refl _ s
    · refine .trans ?_ (planBegin_writes ..).mono
      exact .of_mix rfl
  · split_ifs
    · exact vddTo_writes ..
    · exact vddTo_writes ..
    · exact phaseTo_after (vddTo_writes ..)
    · exact hphase _
  · split_ifs
    · exact skipTo_writes ..
    · exact hphase _
  · split_ifs
    · exact vddTo_writes ..
    · exact hphase _
  · split_ifs
    · exact phaseTo_after (vddTo_writes ..)
    · exact hphase _
  · split_ifs
    · exact phaseTo_after (vddTo_writes ..)
    · exact hphase _
  · split
    · exact hphase _
    case h_2 k _ =>
      split_ifs
      · have hquiesce : Writes planFields s (leaveSpray k .up (linkEnter k .quiescing s)) :=
          .after (leaveSpray_writes ..) (linkEnter_writes ..).mono
        exact phaseTo_after (hquiesce.trans (.of_mix rfl))
      · exact .refl _ s
  · have hnext : Writes planFields s { s with plan := { s.plan with linkAt := p.linkAt + 1 } } := .of_mix rfl
    split
    · exact phaseTo_after (.after (ledgerAdd_writes ..) hnext)
    · exact phaseTo_after hnext
    · exact phaseTo_after hnext
    · exact .refl _ s
  · split_ifs
    · exact skipTo_writes ..
    · exact planEnd_writes s
  · split_ifs
    · exact vddTo_writes ..
    · exact hphase _

theorem planRun_writes (n : Nat) (s : State) : Writes planFields s (planRun n s) := by
  induction n generalizing s with
  | zero => exact .refl _ s
  | succ n ih =>
    have hact := planAct_writes s
    rw [planRun]
    split
    case h_1 hgo =>
      rw [hgo] at hact
      exact hact.trans (ih _)
    case h_2 hwait =>
      rw [hwait] at hact
      exact hact

theorem planGo_writes (s : State) : Writes planFields s (planGo s) :=
  .ite (fun _ => .refl _ s) (fun _ => planRun_writes 64 s)

theorem planRequest_writes (cause : Nat) (s : State) : Writes planFields s (planRequest cause s) := by
  unfold planRequest
  extract_lets idle _ s₁
  have hpending : Writes planFields s s₁ := .of_mix rfl
  exact .ite (fun _ => .after (planGo_writes _) hpending) (fun _ => hpending)

theorem escalateNow_writes (s : State) : Writes planFields s (escalateNow s) := by
  unfold escalateNow
  refine .ite (fun _ => emitExhausted_writes s) (fun _ => ?_)
  extract_lets _ _ s₁
  have hstep : Writes planFields s s₁ := .of_mix rfl
  exact .after (planRequest_writes ..) (.after (ledgerAdd_writes ..) hstep)

theorem escalate_writes (s : State) : Writes planFields s (escalate s) :=
  .ite (fun _ => .of_mix rfl) (fun _ => escalateNow_writes s)

theorem escCount_writes (s : State) : Writes planFields s (escCount s) := by
  unfold escCount
  refine .ite (fun _ => .of_mix rfl) (fun _ => ?_)
  unfold escPut
  extract_lets w l s₁
  have hcounted : Writes planFields s s₁ := (ctrInc_writes ..).mono
  exact .ite (fun _ => .after (escalate_writes _) (hcounted.trans (.of_mix rfl))) (fun _ => hcounted.trans (.of_mix rfl))

/-! ### Vault's waiting commands -/

/-- What the end of a Vault command writes. -/
def vaultCmdFields : List Fld := [.vault, .ev, .latch, .drip] ++ ownWriteFields

/-- A command's own write, then its final reply (R66, R501). -/
theorem ownWrite_finish_writes {ctx va : Nat} {bs : List Byte} {io : Io} {s u : State} (hs : Writes vaultCmdFields u s)
    (c : OpenCmd) (n : Nat) : Writes vaultCmdFields u (match ownWrite ctx va bs io s with
      | (s, some st) => finish c st 0 0 0 0 s
      | (s, none) => finish c 0 n 0 0 0 s) := by
  have hwrite : Writes vaultCmdFields u (ownWrite ctx va bs io s).1 := .after (ownWrite_writes ..) hs
  split
  case h_1 hfailed =>
    rw [hfailed] at hwrite
    exact .after (finish_writes ..) hwrite
  case h_2 hok =>
    rw [hok] at hwrite
    exact .after (finish_writes ..) hwrite

theorem runVaultRead_writes (p : Packet) (io : Io) (c : OpenCmd) (s : State) :
    Writes vaultCmdFields s (runVaultRead p io c s) := by
  unfold runVaultRead
  exact ownWrite_finish_writes (vaultRecord_writes ..).mono c _

theorem runPeriodClose_writes (p : Packet) (io : Io) (c : OpenCmd) (s : State) :
    Writes vaultCmdFields s (runPeriodClose p io c s) := by
  rw [runPeriodClose_eq]
  exact ownWrite_finish_writes (.after (closingReading_writes ..) (vaultClose_writes ..).mono) c _

theorem vaultServe_writes (s : State) : Writes vaultCmdFields s (vaultServe s) := by
  unfold vaultServe
  split
  · exact .refl _ s
  · refine .ite (fun _ => ?_) (fun _ => .refl _ s)
    extract_lets _ s₁
    have htaken : Writes vaultCmdFields s s₁ := .of_mix rfl
    exact .ite (fun _ => htaken.trans (runVaultRead_writes ..)) (fun _ => htaken.trans (runPeriodClose_writes ..))

end Sys2Proof.Machine
end

section
/-! PROOFS. The phases of a domain reset, command by command (R59, R342, R414, R425). -/

namespace Sys2Proof.Machine

-- One declaration at a time: see the frames of the state's operations.
set_option Elab.async false

/-! ### What only ends commands -/

/-- No command is held that was not held before, and the command slots stand. -/
structure EndsOnly (s t : State) : Prop where
  held : ∀ h ∈ t.latch.held, h ∈ s.latch.held
  free : t.latch.free = s.latch.free

namespace EndsOnly

theorem of_latch {s t : State} (h : t.latch = s.latch) : EndsOnly s t := ⟨fun x hx => by rwa [h] at hx, by rw [h]⟩

theorem refl (s : State) : EndsOnly s s := of_latch rfl

theorem trans {s t u : State} (hst : EndsOnly s t) (htu : EndsOnly t u) : EndsOnly s u :=
  ⟨fun h hu => hst.held h (htu.held h hu), htu.free.trans hst.free⟩

theorem foldl {α : Type} {f : State → α → State} (hf : ∀ t x, EndsOnly t (f t x)) (l : List α) (s : State) :
    EndsOnly s (l.foldl f s) :=
  List.foldlRecOn (motive := EndsOnly s) _ _ (.refl s) fun t ht x _ => ht.trans (hf t x)

end EndsOnly

theorem Writes.endsOnly {l : List Fld} {s t : State} (h : Writes l s t) (hlatch : .latch ∉ l := by decide) : EndsOnly s t :=
  .of_latch (h.same .latch hlatch)

theorem finish_endsOnly (o : OpenCmd) (status r0 r1 r2 r3 : Nat) (s : State) : EndsOnly s (finish o status r0 r1 r2 r3 s) := by
  refine ⟨fun h hh => by rwa [finish_held] at hh, ?_⟩
  by_cases h : s.latch.opened.any (fun x => sameCmd x o) = true
  · rw [finish_of_open h]
  · rw [finish_of_ended (by simpa using h)]

theorem replyOne_endsOnly (p : Packet) (order status r0 r1 r2 r3 : Nat) (s : State) :
    EndsOnly s (replyOne p order status r0 r1 r2 r3 s) := by
  refine ⟨fun h hh => ?_, ?_⟩
  · rwa [replyOne, reply_latch] at hh
  · rw [replyOne, reply_latch]

theorem mmuRetire_endsOnly (s : State) : EndsOnly s (mmuRetire s) := by
  unfold mmuRetire
  refine .trans ?_ (.foldl (fun t w => finish_endsOnly ..) _ _)
  exact .of_latch rfl

theorem chMove_endsOnly (c : Nat) (st : PourState) (s : State) : EndsOnly s (chMove c st s) :=
  ((chMap_writes ..).endsOnly.trans (mmuRetire_endsOnly _)).trans (dripAt_writes ..).endsOnly

theorem pourIdle_endsOnly (c : Nat) (s : State) : EndsOnly s (pourIdle c s) :=
  ((unstage_writes c s).endsOnly.trans (chMove_endsOnly ..)).trans (setCh_writes ..).endsOnly

theorem pourRejoin_endsOnly (s : State) : EndsOnly s (pourRejoin s) := by
  refine .foldl (fun t c => ?_) _ s
  split_ifs
  · exact .refl t
  · exact pourIdle_endsOnly ..

theorem pourReply_endsOnly (c status : Nat) (s : State) : EndsOnly s (pourReply c status s) := by
  unfold pourReply
  extract_lets x
  split
  · exact .refl s
  · exact (chMap_writes ..).endsOnly.trans (finish_endsOnly ..)

theorem abortReplies_endsOnly (c status : Nat) (s : State) : EndsOnly s (abortReplies c status s) :=
  (chMap_writes ..).endsOnly.trans (.foldl (fun t o => finish_endsOnly o status 0 0 0 0 t) _ _)

theorem pourMemDrained_endsOnly (s : State) : EndsOnly s (pourMemDrained s) := by
  unfold pourMemDrained
  have hdrained : EndsOnly s { s with pour := { s.pour with drain := false } } := .of_latch rfl
  refine hdrained.trans (.foldl (fun t c => ?_) _ _)
  extract_lets x
  split_ifs
  · exact .refl t
  · exact ((writeBack_writes c 0x0240 t).endsOnly.trans (pourReply_endsOnly ..)).trans
      ((abortReplies_endsOnly ..).trans (unstage_writes ..).endsOnly)

theorem ownWrite_finish_endsOnly {ctx va : Nat} {bs : List Byte} {io : Io} {s u : State} (hs : EndsOnly u s) (c : OpenCmd)
    (n : Nat) : EndsOnly u (match ownWrite ctx va bs io s with
      | (s, some st) => finish c st 0 0 0 0 s
      | (s, none) => finish c 0 n 0 0 0 s) := by
  have hwrite : EndsOnly u (ownWrite ctx va bs io s).1 := hs.trans (ownWrite_writes ..).endsOnly
  split
  case h_1 hfailed =>
    rw [hfailed] at hwrite
    exact hwrite.trans (finish_endsOnly ..)
  case h_2 hok =>
    rw [hok] at hwrite
    exact hwrite.trans (finish_endsOnly ..)

theorem vaultServe_endsOnly (s : State) : EndsOnly s (vaultServe s) := by
  unfold vaultServe
  split
  · exact .refl s
  · split
    · extract_lets _ s₁
      have htaken : EndsOnly s s₁ := .of_latch rfl
      split
      · exact htaken.trans (ownWrite_finish_endsOnly (vaultRecord_writes ..).endsOnly _ _)
      · rw [runPeriodClose_eq]
        exact htaken.trans (ownWrite_finish_endsOnly
          ((vaultClose_writes ..).endsOnly.trans (closingReading_writes ..).endsOnly) _ _)
    · exact .refl s

theorem endOpen_endsOnly (status : Nat) (o : OpenCmd) (s : State) : EndsOnly s (endOpen status o s) := by
  unfold endOpen
  split
  · exact finish_endsOnly ..
  · exact finish_endsOnly ..

theorem endHeld_endsOnly (h : Held) (status : Nat) (s : State) : EndsOnly s (endHeld h status s) := by
  unfold endHeld
  extract_lets _ s₁
  have hdropped : EndsOnly s s₁ := ⟨fun x hx => (List.mem_filter.1 hx).1, rfl⟩
  split_ifs
  · exact hdropped.trans (replyOne_endsOnly ..)
  · exact hdropped.trans (finish_endsOnly ..)
  · exact hdropped.trans (finish_endsOnly ..)

theorem enterFaulted_endsOnly (e : Event) (s : State) : EndsOnly s (enterFaulted false e s) := by
  rw [enterFaulted_eq]
  refine .trans (.trans ?_ (.of_latch (jobEnded_latch s))) (faultedBy_writes ..).endsOnly
  unfold cmdsEnded
  extract_lets held
  have hheld : EndsOnly s held := .foldl (fun t h => endHeld_endsOnly ..) _ s
  exact hheld.trans (.foldl (fun t c => endOpen_endsOnly ..) _ _)

theorem jobFault_endsOnly (unit status detail : Nat) (w : Where) (s : State) : EndsOnly s (jobFault unit status detail w s) := by
  by_cases hopen : s.job.st = .closed
  · rw [jobFault, hopen]
    exact .refl s
  · by_cases hfirst : s.job.st = .faulted
    · simp only [jobFault, hfirst]
      split_ifs
      · refine .trans ?_ (secondary_counts ..).1.endsOnly
        exact .of_latch rfl
      · exact (secondary_counts ..).1.endsOnly
    · rw [jobFault_first hopen hfirst]
      refine .trans ?_ (enterFaulted_endsOnly ..)
      exact (evSend_writes ..).endsOnly.trans (logAdd_writes ..).endsOnly

theorem domJobFault_endsOnly (i : Nat) (s : State) : EndsOnly s (domJobFault i s) := by
  unfold domJobFault
  split_ifs
  · exact jobFault_endsOnly ..
  · exact .refl s

theorem domTrigger_endsOnly (i trig : Nat) (cmds : List OpenCmd) (s : State) : EndsOnly s (domTrigger i trig cmds s) := by
  by_cases h : domState s i = .inService
  · rw [domTrigger_inService trig cmds h]
    exact (setDom_writes ..).endsOnly.trans (domJobFault_endsOnly ..)
  · exact (domTrigger_joins trig cmds h).endsOnly

/-! ### The fence closes -/

theorem spoutPoison_writes (sl : Nat) (s : State) : Writes [.spout] s (spoutPoison sl s) := .of_mix rfl

theorem domFenced_writes (i : Nat) (s : State) : Writes (.spout :: .ptp :: linkFields) s (domFenced i s) := by
  unfold domFenced
  refine .ite (fun _ => .refl _ s) fun _ => .ite (fun _ => (spoutPoison_writes ..).mono) fun _ => ?_
  extract_lets s₁
  have hoff : Writes (.spout :: .ptp :: linkFields) s s₁ := (hingeOff_writes ..).mono
  exact .ite (fun _ => .after (ptpHandover_writes _) hoff) (fun _ => hoff)

/-- The open packets of a fenced slice's Spout go on poisoned (R59). -/
theorem domFenced_spout {i : Nat} (hlo : 1 ≤ i) (hhi : i ≤ 4) (s : State) :
    ∀ k ∈ (domFenced i s).spout, k.spout = i - 1 → k.poison = true := by
  rw [domFenced, if_neg (by omega), if_pos (by omega)]
  intro k hk hspout
  obtain ⟨x, -, rfl⟩ := List.mem_map.1 hk
  split_ifs at hspout ⊢ with h
  · rfl
  · exact absurd hspout h

/-- A fenced Hinge's links are Off (R252). -/
theorem domFenced_off {i k : Nat} (hlo : 5 ≤ i) (hhi : i ≤ 12) (hk : k / 4 = i - 5) (s : State) :
    (linkAt (domFenced i s) k).st = .off := by
  rw [domFenced, if_neg (by omega), if_neg (by omega)]
  have hoff := hingeOff_off hk false s
  extract_lets s₁
  split_ifs
  · rw [linkAt_congr ((ptpHandover_writes _).same .links (by decide))]
    exact hoff
  · exact hoff

/-! ### The drain ends -/

theorem ingressEmpty_writes (p : Nat) (s : State) :
    Writes (.kft :: .pfcSent :: cellFields) s (ingressEmpty p s) := by
  unfold ingressEmpty
  extract_lets l _ s₁
  have hleft : Writes (.kft :: .pfcSent :: cellFields) s s₁ := .after (ctrAdd_writes ..) (.of_mix rfl)
  exact .after (pfcCheck_writes _) (.after (freeCells_writes ..) hleft)

/-- What the emptying of a domain's queues writes. -/
def queueFields : List Fld :=
  [.mgmt, .mport, .keyway, .latch, .drip, .funnelHeld, .spout, .kft, .pfcSent] ++ cellFields

theorem domQueues_writes (i : Nat) (s : State) : Writes queueFields s (domQueues i s) := by
  unfold domQueues
  exact .ite (fun _ => .after (ctrAdd_writes ..) (.of_mix rfl)) fun _ =>
    .ite (fun _ => .after (mmuRetire_writes _) (.after (ctrAdd_writes ..) (.of_mix rfl))) fun _ =>
    .ite (fun _ => .after (ctrAdd_writes ..) (.of_mix rfl)) fun _ => (ingressEmpty_writes ..).mono

theorem domQueues_endsOnly (i : Nat) (s : State) : EndsOnly s (domQueues i s) := by
  unfold domQueues
  split_ifs
  · exact .of_latch rfl
  · refine .trans ?_ (mmuRetire_endsOnly _)
    exact .of_latch rfl
  · exact .of_latch rfl
  · exact (ingressEmpty_writes ..).endsOnly

theorem ctr_domQueues_ne {j : Nat} (h12 : j ≠ 12) (h15 : j ≠ 15) (h256 : j < 256) (i : Nat) (s : State) :
    ctr (domQueues i s) j = ctr s j := by
  unfold domQueues
  split_ifs
  · exact ctr_ctrAdd_ne h15 ..
  · rw [(mmuRetire_writes _).ctr_eq]
    exact ctr_ctrAdd_ne h15 ..
  · exact ctr_ctrAdd_ne h15 ..
  · unfold ingressEmpty
    extract_lets l _ s₁
    rw [ctr_pfcCheck_ne h256, ctr_freeCells_ne h12 (by omega)]
    exact ctr_ctrAdd_ne h15 ..

/-- MEM's requests that wait for the port go with its queues (R342). -/
theorem domQueues_mport (s : State) : (domQueues 13 s).mport = { s.mport with wait := [] } := by
  rw [domQueues, if_neg (by decide), if_pos rfl, (mmuRetire_writes _).same .mport (by decide)]
  rfl

theorem tlbClear_writes (s : State) : Writes [.keyway] s (tlbClear s) := .of_mix rfl

theorem domEnter_mem (s : State) : domEnter 13 s = tlbClear (pourMemDrained s) := by
  rw [domEnter, if_pos rfl]

theorem domEnter_other {i : Nat} (hmem : i ≠ 13) (hctl : i ≠ 0) (s : State) : domEnter i s = s := by
  rw [domEnter, if_neg hmem, if_neg hctl]

/-- CTL answers its DOMAIN_RESET commands, lowers kw_ctl_ready and takes the command slots (R59, R95). -/
def ctlDown (s : State) : State :=
  { s with rst := { s.rst with ctlReady := false },
           latch := { s.latch with free := 0, replies := s.latch.replies.map fun r => { r with first := false } } }

/-- CTL's DOMAIN_RESET commands have their final replies (R95). -/
def ctlAnswered (s : State) : State := (domAt s 0).cmds.foldl (fun t c => finish c 0 0 0 0 0 t) s

theorem ctlAnswered_writes (s : State) : Writes [.latch, .drip] s (ctlAnswered s) :=
  .foldl (fun t c => finish_writes c 0 0 0 0 0 t) _ s

theorem domEnter_ctl (s : State) :
    domEnter 0 s = ctlDown (setDom 0 { domAt (ctlAnswered s) 0 with cmds := [] } (ctlAnswered s)) := by
  rw [domEnter, if_neg (by decide), if_pos rfl]
  rfl

/-- What a domain other than CTL writes when its drain ends: MEM ends Pour's channels (R373). -/
theorem domEnter_writes {i : Nat} (hctl : i ≠ 0) (s : State) : Writes (.hostMem :: chEndFields) s (domEnter i s) := by
  by_cases hmem : i = 13
  · rw [hmem, domEnter_mem]
    exact .after (tlbClear_writes _) (pourMemDrained_writes s)
  · rw [domEnter_other hmem hctl]
    exact .refl _ s

theorem domEnter_hostMem {i : Nat} (hmem : i ≠ 13) (s : State) : (domEnter i s).hostMem = s.hostMem := by
  by_cases hctl : i = 0
  · rw [hctl, domEnter_ctl]
    exact (ctlAnswered_writes s).same .hostMem (by decide)
  · rw [domEnter_other hmem hctl]

theorem domEnter_held (i : Nat) (s : State) : ∀ h ∈ (domEnter i s).latch.held, h ∈ s.latch.held := by
  by_cases hctl : i = 0
  · rw [hctl, domEnter_ctl]
    exact (EndsOnly.foldl (fun t c => finish_endsOnly ..) _ s).held
  · by_cases hmem : i = 13
    · rw [hmem, domEnter_mem, (tlbClear_writes _).same .latch (by decide)]
      exact (pourMemDrained_endsOnly s).held
    · rw [domEnter_other hmem hctl]
      exact fun h hh => hh

theorem ctr_domEnter_ne {j : Nat} (h12 : j ≠ 12) (h896 : j < 896) (i : Nat) (s : State) : ctr (domEnter i s) j = ctr s j := by
  by_cases hctl : i = 0
  · rw [hctl, domEnter_ctl]
    exact (ctlAnswered_writes s).ctr_eq j
  · by_cases hmem : i = 13
    · rw [hmem, domEnter_mem, (tlbClear_writes _).ctr_eq, ctr_pourMemDrained_ne h12 h896]
    · rw [domEnter_other hmem hctl]

/-- The domain keeps its phase and what was left when its reset is entered; CTL's has no commands left (R95, R414). -/
theorem domEnter_doms {i : Nat} {s : State} (hi : i < s.doms.length) :
    (domAt (domEnter i s) i).st = (domAt s i).st ∧ (domAt (domEnter i s) i).left = (domAt s i).left ∧
    (i = 0 → (domAt (domEnter i s) i).cmds = []) ∧ ∀ j, j ≠ i → domAt (domEnter i s) j = domAt s j := by
  by_cases hctl : i = 0
  · subst hctl
    have hanswered := ctlAnswered_writes s
    have hdown (j : Nat) : domAt (domEnter 0 s) j =
        domAt (setDom 0 { domAt (ctlAnswered s) 0 with cmds := [] } (ctlAnswered s)) j := by
      rw [domEnter_ctl]
      exact domAt_congr rfl j
    have hself := (hdown 0).trans (domAt_setDom_self (by rwa [hanswered.same .doms (by decide)]) _)
    rw [hself, hanswered.domAt_eq]
    exact ⟨rfl, rfl, fun _ => rfl, fun j hj => by rw [hdown, domAt_setDom_ne hj, hanswered.domAt_eq]⟩
  · have hdoms := (domEnter_writes hctl s).domAt_eq
    rw [hdoms]
    exact ⟨rfl, rfl, fun h => absurd h hctl, fun j _ => hdoms j⟩

theorem ctlDown_lowers (s : State) : (domEnter 0 s).rst.ctlReady = false ∧ (domEnter 0 s).latch.free = 0 := by
  rw [domEnter_ctl]
  exact ⟨rfl, rfl⟩

theorem domEnter_memory (s : State) : (domEnter 13 s).keyway.tlb = [] ∧ (domEnter 13 s).keyway.upper = [] ∧
    (domEnter 13 s).mport = s.mport := by
  rw [domEnter_mem]
  refine ⟨rfl, rfl, ?_⟩
  rw [(tlbClear_writes _).same .mport (by decide), (pourMemDrained_writes s).same .mport (by decide)]

/-- What the end of a drain does to the domain, to the other domains, and to the count of what was left (R414). -/
theorem domToReset_result {i : Nat} {s : State} (hi : i < s.doms.length) (left : Nat) :
    domState (domToReset i left s) i = .inReset ∧ (domAt (domToReset i left s) i).left = left ∧
    (∀ j, j ≠ i → domAt (domToReset i left s) j = domAt s j) ∧ ctr (domToReset i left s) 20 = ctr s 20 ∧
    (i = 0 → (domToReset i left s).rst.ctlReady = false ∧ (domToReset i left s).latch.free = 0 ∧
      (domAt (domToReset i left s) 0).cmds = []) ∧
    (i = 13 → (domToReset i left s).keyway.tlb = [] ∧ (domToReset i left s).keyway.upper = [] ∧
      (domToReset i left s).mport = { s.mport with wait := [] }) ∧
    (i ≠ 13 → (domToReset i left s).hostMem = s.hostMem) ∧
    ∀ h ∈ (domToReset i left s).latch.held, h ∈ s.latch.held := by
  unfold domToReset
  extract_lets d s₁
  have hset : Writes [.doms] s s₁ := setDom_writes ..
  have hself : domAt s₁ i = { domAt s i with st := .inReset, left := left } := domAt_setDom_self hi _
  have hother (j : Nat) (hj : j ≠ i) : domAt s₁ j = domAt s j := domAt_setDom_ne hj _ s
  have hlength : s₁.doms.length = s.doms.length := List.length_set
  clear_value s₁
  have hqueues := domQueues_writes i s₁
  have hqueued (j : Nat) : domAt (domQueues i s₁) j = domAt s₁ j := hqueues.domAt_eq j
  obtain ⟨hst, hleft, hcmds, hne⟩ := domEnter_doms (i := i) (s := domQueues i s₁)
    (by rw [hqueues.same .doms (by decide), hlength]; exact hi)
  have hphase := domPhase_writes i 2 (domEnter i (domQueues i s₁))
  have hphased (j : Nat) := hphase.domAt_eq j
  rw [hqueued, hself] at hst hleft
  refine ⟨?_, ?_, fun j hj => ?_, ?_, fun h0 => ?_, fun h13 => ?_, fun h13 => ?_, fun h hh => ?_⟩
  · exact (congrArg Dom.st (hphased i)).trans hst
  · rw [hphased, hleft]
  · rw [hphased, hne j hj, hqueued, hother j hj]
  · have hemitted : ctr (domPhase i 2 (domEnter i (domQueues i s₁))) 20 = ctr (domEnter i (domQueues i s₁)) 20 := by
      unfold domPhase
      extract_lets e c
      rw [(logAdd_writes ..).ctr_eq, ctr_emit_ne (by decide), (dripAt_writes ..).ctr_eq]
    rw [hemitted, ctr_domEnter_ne (by decide) (by decide), ctr_domQueues_ne (by decide) (by decide) (by decide),
      hset.ctr_eq]
  · subst h0
    have hdown := ctlDown_lowers (domQueues 0 s₁)
    rw [hphase.same .rst (by decide), hphase.same .latch (by decide), hphased]
    exact ⟨hdown.1, hdown.2, hcmds rfl⟩
  · subst h13
    have hmem := domEnter_memory (domQueues 13 s₁)
    rw [hphase.same .keyway (by decide), hphase.same .mport (by decide)]
    refine ⟨hmem.1, hmem.2.1, hmem.2.2.trans ?_⟩
    rw [domQueues_mport, hset.same .mport (by decide)]
  · rw [hphase.same .hostMem (by decide), domEnter_hostMem h13, hqueues.same .hostMem (by decide),
      hset.same .hostMem (by decide)]
  · have hentered : h ∈ (domEnter i (domQueues i s₁)).latch.held := hphase.endsOnly.held h hh
    exact hset.endsOnly.held h ((domQueues_endsOnly i s₁).held h (domEnter_held i _ h hentered))

/-! ### What the deadline leaves -/

theorem domAnswer_writes (i : Nat) (s : State) : Writes [.latch, .drip, .mport, .keyway] s (domAnswer i s) := by
  unfold domAnswer
  refine .ite (fun _ => ?_) fun _ => .ite (fun _ => .after (mmuRetire_writes _) (.of_mix rfl)) fun _ => .refl _ s
  refine .trans ?_ (.foldl (fun t h => (replyOne_writes ..).mono) _ _)
  exact .of_mix rfl

/-- What CTL has not answered is answered, and held no more (R414). -/
theorem domAnswer_held (s : State) : ∀ h ∈ (domAnswer 0 s).latch.held, h.why ≠ .after := by
  intro h hh hwhy
  rw [domAnswer, if_pos rfl] at hh
  have hleft := (EndsOnly.foldl (fun t h => replyOne_endsOnly ..) _ _).held h hh
  simp [unanswered, hwhy] at hleft

theorem domAnswer_mport (s : State) : (domAnswer 13 s).mport =
    { s.mport with out := [], quar := s.mport.quar ++ s.mport.out.map fun m => (m.write, m.channel, m.id) } := by
  rw [domAnswer, if_neg (by decide), if_pos rfl, (mmuRetire_writes _).same .mport (by decide)]

/-! ### The rejoin -/

theorem hingeStart_fields (p : Nat) (s : State) : Writes [.lanes, .links, .ev, .counters, .drip] s (hingeStart p s) := by
  refine .ite (fun _ => .foldl (fun t k => .ite (fun _ => ?_) fun _ => .refl _ t) _ s) (fun _ => .refl _ s)
  unfold linkTrain
  exact .after (linkEnter_writes ..) (lanesMap_writes ..).mono

/-- CTL is ready again, with all its command slots (R59). -/
def ctlUp (s : State) : State :=
  { s with rst := { s.rst with ctlReady := true }, latch := { s.latch with free := 64 } }

theorem domBack_ctl (s : State) : domBack 0 s = vaultServe (vaultServe (vaultServe (ctlUp s))) := by
  rw [domBack, if_pos rfl]
  rfl

/-- What a rejoin restores writes. -/
def backFields : List Fld := [.lanes, .links, .rst] ++ chEndFields ++ vaultCmdFields

theorem domBack_writes (i : Nat) (s : State) : Writes backFields s (domBack i s) := by
  by_cases hctl : i = 0
  · rw [hctl, domBack_ctl]
    refine .after (vaultServe_writes _) (.after (vaultServe_writes _) (.after (vaultServe_writes _) ?_))
    exact .of_mix rfl
  · unfold domBack
    rw [if_neg hctl]
    exact .ite (fun _ => (pourRejoin_writes s).mono) fun _ =>
      .ite (fun _ => .refl _ s) fun _ => (hingeStart_fields ..).mono

theorem domBack_held (i : Nat) (s : State) : ∀ h ∈ (domBack i s).latch.held, h ∈ s.latch.held := by
  by_cases hctl : i = 0
  · rw [hctl, domBack_ctl]
    exact ((vaultServe_endsOnly _).trans ((vaultServe_endsOnly _).trans (vaultServe_endsOnly _))).held
  · unfold domBack
    rw [if_neg hctl]
    split_ifs
    · exact (pourRejoin_endsOnly s).held
    · exact fun h hh => hh
    · exact (hingeStart_fields ..).endsOnly.held

theorem domBack_ctlReady (s : State) : (domBack 0 s).rst.ctlReady = true ∧ (domBack 0 s).latch.free = 64 := by
  rw [domBack_ctl]
  have hwrites : Writes vaultCmdFields (ctlUp s) (vaultServe (vaultServe (vaultServe (ctlUp s)))) :=
    .after (vaultServe_writes _) (.after (vaultServe_writes _) (vaultServe_writes _))
  exact ⟨by rw [hwrites.same .rst (by decide)]; rfl,
    ((vaultServe_endsOnly _).trans ((vaultServe_endsOnly _).trans (vaultServe_endsOnly _))).free⟩

/-- The rejoin up to the trigger that was recorded: In service, phase 3, the count, and the final replies (R414, R425). -/
def domServed (i : Nat) (s : State) : State :=
  let d := domAt s i
  let s := domPhase i 3 (domBack i (setDom i { d with st := .inService, cmds := [], again := none, againCmds := [] } s))
  d.cmds.foldl (fun t c => finish c 0 0 0 0 0 t) (if 2 ≤ d.trigger then escCount s else s)

theorem domRejoin_none {i : Nat} {s : State} (h : (domAt s i).again = none) : domRejoin i s = domServed i s := by
  simp only [domRejoin, h]
  rfl

theorem domRejoin_again {i trig : Nat} {s : State} (h : (domAt s i).again = some trig) :
    domRejoin i s = domTrigger i trig (domAt s i).againCmds (domServed i s) := by
  simp only [domRejoin, h]
  rfl

/-- What a rejoin writes, once its domain is In service. -/
def servedFields : List Fld := backFields ++ planFields

/-- The domain as it stands In service. -/
def domClear (i : Nat) (s : State) : State :=
  setDom i { domAt s i with st := .inService, cmds := [], again := none, againCmds := [] } s

/-- The rejoin counted, where its trigger counts (R425). -/
def domCounted (i : Nat) (s : State) : State :=
  let t := domPhase i 3 (domBack i (domClear i s))
  if 2 ≤ (domAt s i).trigger then escCount t else t

theorem domServed_eq (i : Nat) (s : State) :
    domServed i s = (domAt s i).cmds.foldl (fun t c => finish c 0 0 0 0 0 t) (domCounted i s) := rfl

theorem domCounted_writes (i : Nat) (s : State) : Writes (.rlog :: .rlogSeq :: .rlogWait :: planFields)
    (domBack i (domClear i s)) (domCounted i s) := by
  unfold domCounted
  extract_lets t
  have hphase : Writes (.rlog :: .rlogSeq :: .rlogWait :: planFields) (domBack i (domClear i s)) t :=
    (domPhase_writes ..).mono
  exact .ite (fun _ => .after (escCount_writes _) hphase) (fun _ => hphase)

theorem domServed_writes (i : Nat) (s : State) : Writes servedFields (domClear i s) (domServed i s) := by
  rw [domServed_eq]
  exact .trans (.after (domCounted_writes ..) (domBack_writes ..).mono)
    (.foldl (fun t c => (finish_writes c 0 0 0 0 0 t).mono) _ _)

theorem domServed_doms {i : Nat} {s : State} (hi : i < s.doms.length) :
    domAt (domServed i s) i = { domAt s i with st := .inService, cmds := [], again := none, againCmds := [] } ∧
    (∀ j, j ≠ i → domAt (domServed i s) j = domAt s j) ∧ (domServed i s).doms.length = s.doms.length := by
  have hdoms := (domServed_writes i s).domAt_eq
  refine ⟨(hdoms i).trans (domAt_setDom_self hi _), fun j hj => (hdoms j).trans (domAt_setDom_ne hj _ s), ?_⟩
  rw [(domServed_writes i s).same .doms (by decide)]
  exact List.length_set

theorem domServed_endsOnly (i : Nat) (s : State) : EndsOnly (domBack i (domClear i s)) (domServed i s) := by
  rw [domServed_eq]
  exact (domCounted_writes i s).endsOnly.trans (.foldl (fun t c => finish_endsOnly c 0 0 0 0 0 t) _ _)

theorem domServed_held (i : Nat) (s : State) : ∀ h ∈ (domServed i s).latch.held, h ∈ s.latch.held := fun h hh =>
  domBack_held i (domClear i s) h ((domServed_endsOnly i s).held h hh)

theorem domServed_ctl (s : State) : (domServed 0 s).rst.ctlReady = true ∧ (domServed 0 s).latch.free = 64 := by
  obtain ⟨hready, hfree⟩ := domBack_ctlReady (domClear 0 s)
  have hended : Writes [.latch, .drip] (domCounted 0 s) (domServed 0 s) := by
    rw [domServed_eq]
    exact .foldl (fun t c => finish_writes c 0 0 0 0 0 t) _ _
  refine ⟨?_, (domServed_endsOnly 0 s).free.trans hfree⟩
  rw [hended.same .rst (by decide), (domCounted_writes 0 s).same .rst (by decide), hready]

/-- A rejoin ends with the domain In service, or in the reset of the trigger that was recorded (R414). -/
theorem domRejoin_result {i : Nat} {s : State} (hi : i < s.doms.length) :
    ((domAt s i).again = none → (domAt (domRejoin i s) i).st = .inService ∧ (domAt (domRejoin i s) i).cmds = []) ∧
    (∀ g, (domAt s i).again = some g → (domAt (domRejoin i s) i).st = .fencing ∧ (domAt (domRejoin i s) i).trigger = g ∧
      (domAt (domRejoin i s) i).cmds = (domAt s i).againCmds) ∧
    (i = 0 → (domRejoin i s).rst.ctlReady = true ∧ (domRejoin i s).latch.free = 64) ∧
    (∀ j, j ≠ i → domAt (domRejoin i s) j = domAt s j) ∧ ∀ h ∈ (domRejoin i s).latch.held, h ∈ s.latch.held := by
  obtain ⟨hself, hother, hlength⟩ := domServed_doms hi
  have hheld := domServed_held i s
  cases hagain : (domAt s i).again with
  | none =>
    rw [domRejoin_none hagain, hself]
    exact ⟨fun _ => ⟨rfl, rfl⟩, by simp, fun h0 => by subst h0; exact domServed_ctl s, hother, hheld⟩
  | some trig =>
    rw [domRejoin_again hagain]
    have hserve : domState (domServed i s) i = .inService := congrArg Dom.st hself
    have hbegun := domTrigger_begins (by rwa [hlength]) hserve trig (domAt s i).againCmds
    have hends := domTrigger_endsOnly i trig (domAt s i).againCmds (domServed i s)
    refine ⟨by simp, fun g hg => ?_, fun h0 => ?_, fun j hj => (domTrigger_ne _ _ hj _).trans (hother j hj),
      fun h hh => hheld h (hends.held h hh)⟩
    · cases hg
      rw [hbegun]
      exact ⟨rfl, rfl, rfl⟩
    · subst h0
      obtain ⟨hready, hfree⟩ := domServed_ctl s
      exact ⟨by rw [(domTrigger_writes ..).same .rst (by decide), hready], hends.free.trans hfree⟩

/-- Where no held command waits for `after`, none starts (R68). -/
theorem releaseAfter_idle {s : State} (h : ∀ x ∈ s.latch.held, x.why ≠ .after) (n : Nat) : releaseAfter n s = s := by
  have hnone : nextStart s = none := by
    have hempty : s.latch.held.filter (afterReady s) = [] := by
      rw [List.filter_eq_nil_iff]
      intro x hx
      simp [afterReady, h x hx]
    simp only [nextStart, hempty]
  cases n with
  | zero => rfl
  | succ n => simp only [releaseAfter, hnone]

/-! ### The five commands -/

/-- Settles O22, phase by phase. -/
theorem domainResetPhasesComplete : Obligations.DomainResetPhasesComplete := by
  unfold Obligations.DomainResetPhasesComplete
  intro code n i ok s hinv hlost hdom
  have hi : i < s.doms.length := by rw [hinv.doms]; exact domOf_lt hdom
  refine ⟨fun hst => ?_, fun hst => ?_, fun hst hdrained => ?_, fun hst => ?_, fun hst => ?_, fun hst => ?_, fun hst => ?_,
    fun hst => ?_, fun hst hok => ?_, fun hst hok => ?_, fun hst => ?_⟩
  · have hexec : exec (.domainFenceClosed code) s =
        .next (domPhase i 1 (domFenced i (setDom i { domAt s i with st := .draining } s))) := by
      rw [exec, execDomainFenceClosed, live_next hlost, hdom]
      simp only [hst, if_true]
    have hphase := domPhase_writes i 1 (domFenced i (setDom i { domAt s i with st := .draining } s))
    have hfenced := domFenced_writes i (setDom i { domAt s i with st := .draining } s)
    have hdoms (j : Nat) := (hphase.domAt_eq j).trans (hfenced.domAt_eq j)
    have hself := (hdoms i).trans (domAt_setDom_self hi _)
    refine ⟨_, hexec, congrArg Dom.st hself, by rw [hself], fun j hj => (hdoms j).trans (domAt_setDom_ne hj _ s),
      fun hlo hhi => ?_, fun hlo hhi k hk => ?_, ?_, ?_⟩
    · rw [hphase.same .spout (by decide)]
      exact domFenced_spout hlo hhi _
    · rw [linkAt_congr (hphase.same .links (by decide))]
      exact domFenced_off hlo hhi hk _
    · exact (hphase.same .hostMem (by decide)).trans (hfenced.same .hostMem (by decide))
    · exact (hphase.same .sp (by decide)).trans (hfenced.same .sp (by decide))
  · rw [exec, execDomainFenceClosed, live_next hlost, hdom]
    simp only [hst, if_false]
  · have hexec : exec (.domainDrainComplete code) s = .next (domToReset i 0 s) := by
      rw [exec, execDomainDrainComplete, live_next hlost, hdom]
      simp only [hst, hdrained, and_self, if_true]
    obtain ⟨hreset, hleft, hother, hctr, hctl, hmem, hhost, -⟩ := domToReset_result hi 0
    refine ⟨_, hexec, hreset, hleft, hother, hctr, hctl, fun h13 => ?_, hhost⟩
    obtain ⟨htlb, hupper, hmport⟩ := hmem h13
    exact ⟨htlb, hupper, by rw [hmport]⟩
  · rw [exec, execDomainDrainComplete, live_next hlost, hdom]
    simp only
    rw [if_neg (by simpa [imp_iff_not_or] using hst)]
  · have hexec : exec (.domainDrainDeadline code n) s =
        .next (domToReset i (domLeft i n s) (ctrAdd 20 (domLeft i n s) (domAnswer i s))) := by
      rw [exec, execDomainDrainDeadline, live_next hlost, hdom]
      simp only [hst, if_true]
    have hanswer := domAnswer_writes i s
    have hcount := ctrAdd_writes 20 (domLeft i n s) (domAnswer i s)
    have hdoms (j : Nat) := (hcount.domAt_eq j).trans (hanswer.domAt_eq j)
    have hctr : ctr (ctrAdd 20 (domLeft i n s) (domAnswer i s)) 20 = (ctr s 20 + domLeft i n s) % 2 ^ 64 := by
      rw [ctr_ctrAdd_self, hanswer.ctr_eq]
    have hlength : (ctrAdd 20 (domLeft i n s) (domAnswer i s)).doms.length = s.doms.length := by
      rw [hcount.same .doms (by decide), hanswer.same .doms (by decide)]
    obtain ⟨hreset, hleft, hother, hkept, -, hmem, hhost, hheld⟩ :=
      domToReset_result (s := ctrAdd 20 (domLeft i n s) (domAnswer i s)) (by rwa [hlength]) (domLeft i n s)
    refine ⟨_, hexec, hreset, hleft, hkept.trans hctr, fun j hj => (hother j hj).trans (hdoms j), fun h0 h hh => ?_,
      fun h13 => ?_, fun h13 => ?_⟩
    · subst h0
      exact domAnswer_held s h (hcount.endsOnly.held h (hheld h hh))
    · obtain ⟨-, -, hmport⟩ := hmem h13
      subst h13
      rw [hmport, hcount.same .mport (by decide), domAnswer_mport]
      exact ⟨rfl, fun m hm => List.mem_append_right _ (List.mem_map_of_mem hm)⟩
    · rw [hhost h13, hcount.same .hostMem (by decide), hanswer.same .hostMem (by decide)]
  · rw [exec, execDomainDrainDeadline, live_next hlost, hdom]
    simp only [hst, if_false]
  · rw [exec, execDomainResetElapsed, live_next hlost, hdom]
    simp only [hst, if_true]
  · rw [exec, execDomainResetElapsed, live_next hlost, hdom]
    simp only [hst, if_false]
  · have hexec : exec (.domainSelfCheck code ok) s =
        .next (domJobFault i (setDom i { domAt s i with st := .fencing, trigger := 3, left := 0 } s)) := by
      rw [exec, execDomainSelfCheck, live_next hlost, hdom]
      simp only [hst, hok, if_true, Bool.false_eq_true, if_false]
    have hdoms (j : Nat) := (domJobFault_writes i (setDom i { domAt s i with st := .fencing, trigger := 3, left := 0 } s)).domAt_eq j
    have hself := (hdoms i).trans (domAt_setDom_self hi _)
    exact ⟨_, hexec, congrArg Dom.st hself, by rw [hself], by rw [hself], fun j hj => (hdoms j).trans (domAt_setDom_ne hj _ s)⟩
  · obtain ⟨hserve, hagain, hctl, hother, hheld⟩ := domRejoin_result hi
    refine ⟨?_, fun hafter => releaseAfter_idle (fun x hx => hafter x (hheld x hx)) _, hserve, hagain, hctl, hother⟩
    rw [exec, execDomainSelfCheck, live_next hlost, hdom]
    simp only [hst, hok, if_true]
  · rw [exec, execDomainSelfCheck, live_next hlost, hdom]
    simp only [hst, if_false]

end Sys2Proof.Machine
end

section
/-! PROOFS. Pour's commands and its channel machine (R343 to R348, R361 to R371). -/

namespace Sys2Proof.Machine

-- One declaration at a time: see the frames of the state's operations.
set_option Elab.async false

/-! ### A change to one channel -/

theorem Writes.keepsPour {l : List Fld} {s t : State} (h : Writes l s t) (hpour : .pour ∉ l := by decide)
    (hhost : .hostMem ∉ l := by decide) : KeepsPour s t :=
  ⟨h.same .pour hpour, h.same .hostMem hhost⟩

theorem ChSet.refl (c : Nat) (s : State) : ChSet c (chAt s c) s s := ⟨rfl, fun _ _ => rfl, rfl, rfl⟩

theorem chReady_chSet {c : Nat} {s : State} (hc : c < s.pour.ch.length) :
    ChSet c { chAt s c with ready := s.pour.readySeq } s (chReady c s) := by
  have h := chMap_chSet (s := { s with pour := { s.pour with readySeq := s.pour.readySeq + 1 } }) hc
    (fun x => { x with ready := s.pour.readySeq })
  exact ⟨h.same, h.other, h.hostMem, h.length⟩

/-- The channel `x` back to Idle, its context gone. -/
def PourCh.cleared (x : PourCh) : PourCh :=
  { x with st := .idle, cmd := none, abortCmds := [], pc := 0, pos := 0, hit := false, loops := [], pending := none,
           read := false, hold := false, busy := false, waiting := false, waitFrom := none, wb := false }

theorem pourIdle_chSet {c : Nat} {s : State} (hc : c < s.pour.ch.length) :
    ChSet c (chAt s c).cleared s (pourIdle c s) := by
  have hunstaged := unstage_keepsPour c s
  have hmoved := hunstaged.trans_chSet (chMove_chSet (by rwa [hunstaged.pour]) .idle)
  exact hmoved.trans (setCh_chSet (by rwa [hmoved.length]) (chAt s c).cleared)

theorem pourReply_chSet {c : Nat} {s : State} (hc : c < s.pour.ch.length) (status : Nat) :
    ChSet c { chAt s c with cmd := none } s (pourReply c status s) := by
  unfold pourReply
  extract_lets x
  split
  case h_1 hnone =>
    have hsame : { chAt s c with cmd := none } = chAt s c := by rw [← hnone]
    rw [hsame]
    exact .refl c s
  case h_2 => exact (chMap_chSet hc fun x => { x with cmd := none }).trans_keepsPour (finish_writes ..).keepsPour

theorem abortReplies_chSet {c : Nat} {s : State} (hc : c < s.pour.ch.length) (status : Nat) :
    ChSet c { chAt s c with abortCmds := [] } s (abortReplies c status s) :=
  (chMap_chSet hc fun x => { x with abortCmds := [] }).trans_keepsPour
    (.foldl (fun t o => (finish_writes o status 0 0 0 0 t).keepsPour) _ _)

/-- A channel that stops: its pipe released, nothing in flight, its commands answered (R364). -/
def PourCh.stop (x : PourCh) : PourCh :=
  { x with cmd := none, abortCmds := [], hold := false, busy := false, waiting := false, pending := none, wb := false,
           st := .stopped }

theorem pourStop_chSet {c : Nat} {s : State} (hc : c < s.pour.ch.length) :
    ChSet c (if (chAt s c).st = .idle ∨ (chAt s c).st = .stopped then chAt s c else (chAt s c).stop) s (pourStop c s) := by
  unfold pourStop
  split_ifs
  · exact .refl c s
  · extract_lets s₁
    have hreply := pourReply_chSet hc 0x0403
    have habort := abortReplies_chSet (s := pourReply c 0x0403 s) (by rwa [hreply.length]) 0x0403
    rw [hreply.same] at habort
    have hanswered : ChSet c { chAt s c with cmd := none, abortCmds := [] } s s₁ := hreply.trans habort
    have hstopped := chMove_unstage_chMap_chSet (s := s₁) (by rwa [hanswered.length]) .stopped (fun x =>
      { x with hold := false, busy := false, waiting := false, pending := none, wb := false })
    rw [hanswered.same] at hstopped
    exact hanswered.trans hstopped

/-! ### A change to several channels -/

/-- In `t` each channel of `l` is what `g` makes of it, and every other channel and host memory are as in `s`. -/
structure ChsSet (l : List Nat) (g : PourCh → PourCh) (s t : State) : Prop where
  same : ∀ c ∈ l, chAt t c = g (chAt s c)
  other : ∀ c, c ∉ l → chAt t c = chAt s c
  hostMem : t.hostMem = s.hostMem
  length : t.pour.ch.length = s.pour.ch.length

/-- Changes to channels one after the other. -/
theorem foldl_chsSet {f : State → Nat → State} {g : PourCh → PourCh}
    (hf : ∀ t c, c < t.pour.ch.length → ChSet c (g (chAt t c)) t (f t c)) {l : List Nat} (hl : l.Nodup) {s : State}
    (hlt : ∀ c ∈ l, c < s.pour.ch.length) : ChsSet l g s (l.foldl f s) := by
  induction l generalizing s with
  | nil => exact ⟨by simp, fun _ _ => rfl, rfl, rfl⟩
  | cons c l ih =>
    obtain ⟨hc, hrest⟩ := List.nodup_cons.1 hl
    have hfirst := hf s c (hlt c (by simp))
    have hset := ih hrest (s := f s c) fun d hd => by
      rw [hfirst.length]
      exact hlt d (by simp [hd])
    refine ⟨fun d hd => ?_, fun d hd => ?_, hset.hostMem.trans hfirst.hostMem, hset.length.trans hfirst.length⟩
    · obtain rfl | hdl := List.mem_cons.1 hd
      · exact (hset.other d hc).trans hfirst.same
      · rw [List.foldl_cons, hset.same d hdl, hfirst.other d (by rintro rfl; exact hc hdl)]
    · rw [List.mem_cons, not_or] at hd
      exact (hset.other d hd.2).trans (hfirst.other d hd.1)

/-! ### The four commands -/

theorem chAt_congr {s t : State} (h : t.pour = s.pour) (c : Nat) : chAt t c = chAt s c := by
  rw [chAt, chAt, h]

theorem anyStopped_takePacket (p : Packet) (s : State) : anyStopped (takePacket p s) = anyStopped s := by
  rw [anyStopped, anyStopped, takePacket_pour]

theorem exec_pourStart {p : Packet} {s : State} (h : Runs 0x38 p s) (hlen : p.payloadLen.toNat = 0)
    (hdesc : pVa p % 64 = 0) (hstop : anyStopped s = false) (hidle : (chAt s (p.p0.toNat % 32)).st = .idle)
    (hentry : entryFree s) : exec (.pourStart p) s = .next
      (if inBrace s then holdCmd .brace p Ext.none s.latch.order (accept p s.latch.order 0 (takePacket p s))
       else runPourStart p (openOf p s.latch.order) (accept p s.latch.order 0 (takePacket p s))) := by
  have hch : chAt (takePacket p s) (p.p0.toNat % 32) = chAt s (p.p0.toNat % 32) := chAt_congr (takePacket_pour p s) _
  have hbrace : inBrace (accept p s.latch.order 0 (takePacket p s)) = inBrace s := by simp [inBrace]
  rw [PacketForm.exec_start (c := .pourStart p) (fun _ => rfl) h, startPourStart, braceCmd,
    checked_runs h (by decide) (by omega) (by simp [hlen]) (by simp [hdesc]) rfl rfl ?res (fun _ => hentry)]
  · simp only [hbrace]
  case res =>
    show (if anyStopped (takePacket p s) then _ else _) = none
    rw [anyStopped_takePacket, hstop, hch, if_neg (by simp), if_pos hidle]

/-- The prefetch buffer is asked for once (R375). -/
def prefetchAsked (s : State) : State :=
  if s.carafe.cells.any (fun h => decide (h.use = .prefetch)) || s.carafe.waits.any (fun w => decide (w.use = .prefetch))
  then s else carafeAsk 11 65536 2 1 .prefetch s

theorem prefetchAsked_writes (s : State) : Writes [.carafe, .counters] s (prefetchAsked s) :=
  .ite (fun _ => .refl _ s) (fun _ => carafeAsk_writes ..)

/-- The channel POUR_START arms (R347). -/
def armedBy (p : Packet) (o : OpenCmd) : PourCh :=
  { PourCh.idle with prio := bits p.p0.toNat 7 5, cmd := some o, descVa := pVa p }

theorem runPourStart_eq (p : Packet) (o : OpenCmd) (s : State) : runPourStart p o s =
    chMove (p.p0.toNat % 32) .armed (setCh (p.p0.toNat % 32) (armedBy p o) (prefetchAsked s)) := rfl

theorem runPourStart_chSet {p : Packet} {o : OpenCmd} {s : State} (hc : p.p0.toNat % 32 < s.pour.ch.length) :
    ChSet (p.p0.toNat % 32) { armedBy p o with st := .armed } s (runPourStart p o s) := by
  rw [runPourStart_eq]
  have hasked := (prefetchAsked_writes s).keepsPour
  have hset := hasked.trans_chSet (setCh_chSet (by rwa [hasked.pour]) (armedBy p o))
  have hmoved := chMove_chSet (s := setCh (p.p0.toNat % 32) (armedBy p o) (prefetchAsked s)) (by rwa [hset.length]) .armed
  rw [hset.same] at hmoved
  exact hset.trans hmoved

theorem runPourStart_writes (p : Packet) (o : OpenCmd) (s : State) :
    Writes (.carafe :: .counters :: moveFields) s (runPourStart p o s) := by
  rw [runPourStart_eq]
  exact .after (chMove_writes ..) (.after (setCh_writes ..) (prefetchAsked_writes s).mono)

theorem exec_pourAbort {p : Packet} {s : State} (h : Runs 0x39 p s) (hlen : p.payloadLen.toNat = 0) (hentry : entryFree s) :
    exec (.pourAbort p) s = .next (
      let c := p.p0.toNat % 32
      let o := openOf p s.latch.order
      let a := accept p s.latch.order 0 (takePacket p s)
      match (chAt s c).st with
      | .idle => finish o 0 0 0 0 0 a
      | .stopped => finish o 0x0403 0 0 0 0 a
      | .done => chMap c (fun x => { x with abortCmds := x.abortCmds ++ [o] }) a
      | .cancelling => chMap c (fun x => { x with abortCmds := x.abortCmds ++ [o] }) a
      | _ => chMove c .cancelling (chMap c (fun x =>
          { x with abortCmds := x.abortCmds ++ [o], hold := false, waiting := false, pending := none, status := 0x0404, wb := false }) a)) := by
  have hch : chAt (accept p s.latch.order 0 (takePacket p s)) (p.p0.toNat % 32) = chAt s (p.p0.toNat % 32) :=
    chAt_congr (by simp) _
  rw [PacketForm.exec_start (c := .pourAbort p) (fun _ => rfl) h, startPourAbort, asyncCmd,
    checked_runs h (by decide) (by omega) (by simp [hlen]) rfl rfl rfl rfl (fun _ => hentry)]
  simp only [hch] <;> rfl

/-- POUR_RESTART_ALL clears the channels that have stopped (R365). -/
def restartAll (s : State) : State :=
  (List.range 32).foldl (fun t c => if (chAt t c).st = .stopped then pourIdle c t else t) s

theorem restartAll_chsSet {s : State} (hlen : s.pour.ch.length = 32) :
    ChsSet (List.range 32) (fun x => if x.st = .stopped then x.cleared else x) s (restartAll s) := by
  refine foldl_chsSet (fun t c hc => ?_) List.nodup_range (fun c hc => by rw [hlen]; exact List.mem_range.1 hc)
  split_ifs
  · exact pourIdle_chSet hc
  · exact .refl c t

theorem exec_pourRestartAll {p : Packet} {s : State} (h : Runs 0x3A p s) (hlen : p.payloadLen.toNat = 0) :
    exec (.pourRestartAll p) s = .next (if s.pour.drain = true then replyOne p s.latch.order 0x0304 0 0 0 0 (takePacket p s)
      else replyOne p s.latch.order 0 0 0 0 0 (restartAll (takePacket p s))) := by
  have hpour : (takePacket p s).pour = s.pour := takePacket_pour p s
  rw [PacketForm.exec_start (c := .pourRestartAll p) (fun _ => rfl) h, startPourRestartAll, syncCmd]
  by_cases hdrain : s.pour.drain = true
  · rw [if_pos hdrain]
    refine congrArg _ (checked_resource (checkFields_none h (by omega) ?len ?scope rfl ?admits rfl) rfl ?res)
    case len => simp [hlen]
    case scope => simp [jobScope]
    case admits => simp [jobScope]
    case res => simp [hdrain]
  · rw [if_neg hdrain, checked_runs h (by decide) (by omega) (by simp [hlen]) rfl rfl rfl (by simp [hdrain])
      (by simp)]
    rfl

/-- POUR_RESUME arms a parked channel (R367). -/
def resumed (c : Nat) (s : State) : State := if (chAt s c).st = .parked then chReady c (chMove c .armed s) else s

theorem exec_pourResume {p : Packet} {s : State} (h : Runs 0x3B p s) (hlen : p.payloadLen.toNat = 0) :
    exec (.pourResume p) s = .next (replyOne p s.latch.order 0 (chAt s (p.p0.toNat % 32)).st.code 0 0 0
      (resumed (p.p0.toNat % 32) (takePacket p s))) := by
  have hch : chAt (takePacket p s) (p.p0.toNat % 32) = chAt s (p.p0.toNat % 32) := chAt_congr (takePacket_pour p s) _
  rw [PacketForm.exec_start (c := .pourResume p) (fun _ => rfl) h, startPourResume, syncCmd,
    checked_runs h (by decide) (by omega) (by simp [hlen]) rfl rfl rfl rfl (by simp)]
  simp only [hch, resumed]

theorem resumed_writes (c : Nat) (s : State) : Writes moveFields s (resumed c s) :=
  .ite (fun _ => .after (chReady_writes ..) (chMove_writes ..)) (fun _ => .refl _ s)

theorem resumed_parked {c : Nat} {s : State} (hc : c < s.pour.ch.length) (h : (chAt s c).st = .parked) :
    ∃ n, ChSet c { chAt s c with st := .armed, ready := n } s (resumed c s) := by
  rw [resumed, if_pos h]
  have hmoved := chMove_chSet hc .armed
  have hready := chReady_chSet (s := chMove c .armed s) (by rwa [hmoved.length])
  rw [hmoved.same] at hready
  exact ⟨_, hmoved.trans hready⟩

theorem resumed_other {c : Nat} {s : State} (h : (chAt s c).st ≠ .parked) : resumed c s = s := by
  rw [resumed, if_neg h]

/-- The one reply is the last (R66). -/
theorem replyOne_last (p : Packet) (order status r0 r1 r2 r3 : Nat) (s : State) :
    ∃ r, (replyOne p order status r0 r1 r2 r3 s).latch.replies.getLast? = some r ∧ r.tag = p.tag.toNat ∧ r.status = status ∧
      r.r0 = r0 := by
  rw [replyOne, reply_latch]
  exact ⟨_, List.getLast?_concat, rfl, rfl, rfl⟩

/-- Settles O28. -/
theorem pourCommandsComplete : Obligations.PourCommandsComplete := by
  unfold Obligations.PourCommandsComplete
  intro p s hinv n o c t0 a others
  have hc : c < 32 := Nat.mod_lt _ (by decide)
  have htaken : Writes [.latch, .counters, .drip, .recRing] s a := .after (accept_writes ..) (takePacket_writes p s)
  have hkept : KeepsPour s a := htaken.keepsPour
  have hca : c < a.pour.ch.length := by rw [hkept.pour, hinv.chans]; exact hc
  refine ⟨fun h hlen hdesc hstop hidle hentry => ?_, fun h hlen hentry => ?_, fun h hlen => ?_, fun h hlen => ?_⟩
  · have hexec := exec_pourStart h hlen hdesc hstop hidle hentry
    refine ⟨fun hbrace => ?_, fun hbrace => by rw [hexec, hbrace]; rfl⟩
    rw [hbrace, if_neg (by simp)] at hexec
    have hset := hkept.trans_chSet (runPourStart_chSet (o := o) hca)
    have hwrites : Writes (.carafe :: .recRing :: .counters :: moveFields) s (runPourStart p o a) :=
      .after (runPourStart_writes p o a) htaken.mono
    refine ⟨_, hexec, ?_⟩
    beta_reduce
    rw [hset.same]
    exact ⟨rfl, rfl, rfl, rfl, rfl, hset.other, hset.hostMem, hwrites.same .sp (by decide), hwrites.same .job (by decide)⟩
  · have hexec := exec_pourAbort h hlen hentry
    refine ⟨fun hst => ?_, fun hst => ?_, fun hst => ?_, fun hst => ?_⟩
    · rw [hexec]
      simp only [show (chAt s (p.p0.toNat % 32)).st = _ from hst]
      rfl
    · rw [hexec]
      simp only [show (chAt s (p.p0.toNat % 32)).st = _ from hst]
      rfl
    · have hwaits : setCh c { chAt s c with abortCmds := (chAt s c).abortCmds ++ [o] } a =
          chMap c (fun x => { x with abortCmds := x.abortCmds ++ [o] }) a := by
        rw [chMap, hkept.chAt_eq]
      rw [hexec, hwaits]
      obtain hst | hst := hst
      · simp only [show (chAt s (p.p0.toNat % 32)).st = _ from hst]
        rfl
      · simp only [show (chAt s (p.p0.toNat % 32)).st = _ from hst]
        rfl
    · have hrun : exec (.pourAbort p) s = .next (chMove c .cancelling (chMap c (fun x => { x with
          abortCmds := x.abortCmds ++ [o], hold := false, waiting := false, pending := none, status := 0x0404,
          wb := false }) a)) := by
        rw [hexec]
        simp only [List.mem_cons, List.not_mem_nil, or_false] at hst
        obtain hst | hst | hst | hst := hst
        all_goals
          simp only [show (chAt s (p.p0.toNat % 32)).st = _ from hst]
          rfl
      have hmapped := chMap_chSet hca (fun x => { x with
          abortCmds := x.abortCmds ++ [o], hold := false, waiting := false, pending := none, status := 0x0404, wb := false })
      have hmoved := chMove_chSet (by rwa [hmapped.length]) .cancelling
      rw [hmapped.same, hkept.chAt_eq] at hmoved
      have hset := hkept.trans_chSet (hmapped.trans hmoved)
      refine ⟨_, hrun, ?_⟩
      beta_reduce
      rw [hset.same]
      refine ⟨rfl, rfl, rfl, rfl, rfl, rfl, hset.other, hset.hostMem, ?_⟩
      rw [(chMove_writes ..).same .sp (by decide)]
      exact htaken.same .sp (by decide)
  · refine ⟨fun hdrain => ?_, fun hdrain => ?_⟩
    · rw [exec_pourRestartAll h hlen, if_pos hdrain]
    · have hexec := exec_pourRestartAll h hlen
      rw [hdrain, if_neg (by simp)] at hexec
      have hset := restartAll_chsSet (s := takePacket p s) (by rw [takePacket_pour]; exact hinv.chans)
      have htook := (takePacket_writes p s).keepsPour
      have hreply := (replyOne_writes p s.latch.order 0 0 0 0 0 (restartAll (takePacket p s))).keepsPour
      refine ⟨_, hexec, fun d hd hst => ?_, fun d hst => ?_, ?_⟩
      · rw [hreply.chAt_eq, hset.same d (List.mem_range.2 hd), htook.chAt_eq, if_pos hst]
        rfl
      · rw [hreply.chAt_eq]
        by_cases hd : d ∈ List.range 32
        · rw [hset.same d hd, htook.chAt_eq, if_neg hst]
        · rw [hset.other d hd, htook.chAt_eq]
      · exact hreply.hostMem.trans (hset.hostMem.trans htook.hostMem)
  · have hexec := exec_pourResume h hlen
    have htook := (takePacket_writes p s).keepsPour
    have hreply := replyOne_writes p s.latch.order 0 (chAt s (p.p0.toNat % 32)).st.code 0 0 0
      (resumed (p.p0.toNat % 32) (takePacket p s))
    have hresumed := resumed_writes c (takePacket p s)
    have hct : c < (takePacket p s).pour.ch.length := by rw [htook.pour, hinv.chans]; exact hc
    have hsame : ∀ d, d ≠ c → chAt (resumed c (takePacket p s)) d = chAt s d := fun d hd => by
      by_cases hst : (chAt (takePacket p s) c).st = .parked
      · obtain ⟨m, hset⟩ := resumed_parked hct hst
        rw [hset.other d hd, htook.chAt_eq]
      · rw [resumed_other hst, htook.chAt_eq]
    refine ⟨_, hexec, fun hst => ?_, fun hst => ?_, fun d hd => (hreply.keepsPour.chAt_eq d).trans (hsame d hd),
      replyOne_last .., ?_, ?_⟩
    · obtain ⟨m, hset⟩ := resumed_parked hct (by rw [htook.chAt_eq]; exact hst)
      rw [hreply.keepsPour.chAt_eq, hset.same, htook.chAt_eq]
      exact ⟨rfl, rfl, rfl⟩
    · rw [hreply.keepsPour.chAt_eq, resumed_other (by rw [htook.chAt_eq]; exact hst), htook.chAt_eq]
    · exact (hreply.same .hostMem (by decide)).trans ((hresumed.same .hostMem (by decide)).trans htook.hostMem)
    · exact (hreply.same .sp (by decide)).trans ((hresumed.same .sp (by decide)).trans (takePacket_sp p s))

end Sys2Proof.Machine
end

section
/-! PROOFS. Pour's channel machine from descriptor read to write-back (R343 to R346, R361 to R370). -/

namespace Sys2Proof.Machine

-- One declaration at a time: see the frames of the state's operations.
set_option Elab.async false

/-! ### Replies stay -/

/-- Every reply of `s` waits in `t` too. -/
def RepliesKept (s t : State) : Prop := ∀ r ∈ s.latch.replies, r ∈ t.latch.replies

namespace RepliesKept

theorem refl (s : State) : RepliesKept s s := fun _ h => h

theorem trans {s t u : State} (hst : RepliesKept s t) (htu : RepliesKept t u) : RepliesKept s u := fun r h => htu r (hst r h)

theorem foldl {α : Type} {f : State → α → State} (hf : ∀ t x, RepliesKept t (f t x)) (l : List α) (s : State) :
    RepliesKept s (l.foldl f s) :=
  List.foldlRecOn (motive := RepliesKept s) _ _ (.refl s) fun t ht x _ => ht.trans (hf t x)

end RepliesKept

theorem Writes.repliesKept {l : List Fld} {s t : State} (h : Writes l s t) (hlatch : .latch ∉ l := by decide) :
    RepliesKept s t := fun r hr => by rwa [h.same .latch hlatch]

theorem finish_repliesKept (o : OpenCmd) (status r0 r1 r2 r3 : Nat) (s : State) :
    RepliesKept s (finish o status r0 r1 r2 r3 s) := by
  intro r hr
  by_cases h : s.latch.opened.any (fun x => sameCmd x o) = true
  · rw [finish_of_open h]
    exact List.mem_append_left _ hr
  · rwa [finish_of_ended (by simpa using h)]

theorem mmuRetire_repliesKept (s : State) : RepliesKept s (mmuRetire s) := by
  unfold mmuRetire
  refine .trans ?_ (.foldl (fun t (w : MmuWait) => finish_repliesKept w.cmd 0 0 0 0 0 t) _ _)
  exact fun r hr => hr

theorem pourIdle_repliesKept (c : Nat) (s : State) : RepliesKept s (pourIdle c s) :=
  ((unstage_writes c s).repliesKept.trans (chMap_writes ..).repliesKept).trans
    ((mmuRetire_repliesKept _).trans ((dripAt_writes ..).repliesKept.trans (setCh_writes ..).repliesKept))

theorem abortReplies_repliesKept (c status : Nat) (s : State) : RepliesKept s (abortReplies c status s) :=
  (chMap_writes ..).repliesKept.trans (.foldl (fun t o => finish_repliesKept o status 0 0 0 0 t) _ _)

/-- POUR_START's command, still open, has its final reply (R348). -/
theorem pourReply_answers {c : Nat} {s : State} {o : OpenCmd} (hcmd : (chAt s c).cmd = some o)
    (hopen : s.latch.opened.any (fun x => sameCmd x o) = true) (status : Nat) :
    ∃ r ∈ (pourReply c status s).latch.replies, r.order = o.order ∧ r.final = true ∧ r.status = status ∧
      r.r0 = (chAt s c).pc % 2 ^ 32 ∧ r.r1 = (chAt s c).mismatches ∧ r.r2 = (chAt s c).bytes % 2 ^ 32 := by
  simp only [pourReply, hcmd]
  rw [finish_of_open (s := chMap c (fun x => { x with cmd := none }) s) hopen]
  exact ⟨_, List.mem_append_right _ (List.mem_singleton.2 rfl), rfl, rfl, rfl, rfl, rfl, rfl⟩

/-! ### Which channel runs -/

theorem mem_insertBy {α : Type} {lt : α → α → Bool} {a x : α} {l : List α} : x ∈ insertBy lt a l ↔ x = a ∨ x ∈ l := by
  induction l with
  | nil => simp [insertBy]
  | cons b l ih =>
    rw [insertBy]
    split_ifs
    · simp
    · simp only [List.mem_cons, ih]
      tauto

theorem mem_foldl_insertBy {α : Type} {lt : α → α → Bool} {x : α} (l acc : List α) :
    x ∈ l.foldl (fun acc a => insertBy lt a acc) acc ↔ x ∈ l ∨ x ∈ acc := by
  induction l generalizing acc with
  | nil => simp
  | cons a l ih =>
    rw [List.foldl_cons, ih, mem_insertBy, List.mem_cons]
    tauto

/-- Sorting keeps the members. -/
theorem mem_sortBy {α : Type} {lt : α → α → Bool} {x : α} {l : List α} : x ∈ sortBy lt l ↔ x ∈ l := by
  rw [sortBy, mem_foldl_insertBy]
  simp

theorem pipeNext_lt {s : State} {pipe c : Nat} (h : pipeNext s pipe = some c) : c < 32 := by
  have hmem := mem_sortBy.1 (List.mem_of_head? h)
  exact List.mem_range.1 (List.mem_filter.1 hmem).1

/-! ### The rows -/

/-- A descriptor that is valid makes its channel ready (R346, R347). -/
def chLoaded (b : List Byte) (x : PourCh) : PourCh :=
  { x with read := true, ctx := bits (leAt b 0 1) 1 1, cls := bits (leAt b 0 1) 3 2, progVa := leAt b 8 6 / 32 * 32 }

theorem exec_pourDescriptorRead {ch : Nat} {s u : State} {b : List Byte} (hlost : s.rst.rootLost = false) (hch : ch < 32)
    (hst : (chAt s ch).st = .armed) (hread : (chAt s ch).read = false) (hruns : pourRuns s = true)
    (hb : hostRead s 0 (chAt s ch).descVa 64 = (u, .ok b)) : exec (.pourDescriptorRead ch .ok) s = .next
      (if bit (leAt b 0 1) 0 then chReady ch (chMap ch (chLoaded b) u) else pourIdle ch (pourReply ch 0x0108 u)) := by
  obtain ⟨l, hl, rfl⟩ := hostRead_ok hb
  rw [exec, execPourDescriptorRead, live_next hlost]
  simp only [hst, hread, hruns, hch, and_self, if_true, hl, pourIo]
  rfl

theorem pourReply_cmd {c : Nat} {s : State} (hc : c < s.pour.ch.length) (status : Nat) :
    (chAt (pourReply c status s) c).cmd = none := by
  rw [(pourReply_chSet hc status).same]

/-- The frame of a row that moves a channel (R345, R488). -/
theorem moveFields_eq_mix {s t : State} (h : Writes moveFields s t) :
    t = { s with pour := t.pour, drip := t.drip, keyway := t.keyway, latch := t.latch } := h.eq_mix

/-- The grant of a pipe (R343, R370). -/
def granted (c : Nat) (s : State) : State :=
  if (chAt s c).st = .running then s else chMove c .running s

theorem granted_chSet {c : Nat} {s : State} (hc : c < s.pour.ch.length) :
    ChSet c { chAt s c with st := .running } s (granted c s) := by
  unfold granted
  split_ifs with h
  · have hsame : { chAt s c with st := .running } = chAt s c := by rw [← h]
    rw [hsame]
    exact .refl c s
  · exact chMove_chSet hc .running

theorem granted_writes (c : Nat) (s : State) : Writes moveFields s (granted c s) :=
  .ite (fun _ => .refl _ s) (fun _ => chMove_writes ..)

theorem exec_pourPipeGrant {pipe c : Nat} {s : State} (hlost : s.rst.rootLost = false) (hpipe : pipe < 8)
    (hfree : pipeHolder s pipe = none) (hruns : pourRuns s = true) (hnext : pipeNext s pipe = some c) :
    exec (.pourPipeGrant pipe) s = .next (granted c (chMap c (fun x => { x with hold := true, pending := none }) s)) := by
  rw [exec, execPourPipeGrant, live_next hlost]
  simp only [hpipe, hfree, hruns, hnext, and_self, if_true]
  rfl

theorem exec_pourPipeGrant_none {pipe : Nat} {s : State} (hlost : s.rst.rootLost = false)
    (h : 8 ≤ pipe ∨ pipeHolder s pipe ≠ none ∨ pipeNext s pipe = none) : exec (.pourPipeGrant pipe) s = .next s := by
  rw [exec, execPourPipeGrant, live_next hlost]
  split_ifs with hgo
  · obtain ⟨hpipe, hfree, -⟩ := hgo
    obtain h | h | h := h
    · omega
    · exact absurd hfree h
    · simp only [h]
  · rfl

theorem exec_pourGranuleYield {ch c : Nat} {s : State} (hlost : s.rst.rootLost = false) (hch : ch < 32)
    (hnext : pipeNext s (ch % 8) = some c) (hst : (chAt s ch).st = .running) (hhold : (chAt s ch).hold = true)
    (hruns : pourRuns s = true) : exec (.pourGranuleYield ch) s = .next
      (if (chAt s ch).prio < (chAt s c).prio then
        chReady ch (chMove ch .suspended (chMap ch (fun x => { x with hold := false }) s)) else s) := by
  rw [exec, execPourGranuleYield, live_next hlost]
  simp only [hnext, hch, hst, hhold, hruns, true_and, and_true]

theorem exec_pourInstructionComplete {ch : Nat} {s : State} (hlost : s.rst.rootLost = false) (hch : ch < 32)
    (hst : (chAt s ch).st = .running ∨ (chAt s ch).st = .suspended) (hbusy : (chAt s ch).busy = true) :
    exec (.pourInstructionComplete ch) s = .next (mmuRetire (unstage ch (setCh ch (advance (chAt s ch)) s))) := by
  rw [exec, execPourInstructionComplete, live_next hlost, if_pos ⟨hch, hst, hbusy⟩]

/-- A pending fault parks the channel (R366). -/
def chParked (va : Nat) (x : PourCh) : PourCh :=
  { x with hold := false, waiting := false, pending := none, faultVa := va % 2 ^ 48 }

theorem exec_pourPark {ch va : Nat} {s : State} (hlost : s.rst.rootLost = false) (hch : ch < 32)
    (hpending : (chAt s ch).pending = some va) (hst : (chAt s ch).st = .running) (hruns : pourRuns s = true) :
    exec (.pourPark ch) s = .next (emit 0x0008 unitPour (ch + (va % 2 ^ 48 / 2 ^ 8) * 2 ^ 8)
      (chMove ch .parked (chMap ch (chParked va) s))) := by
  rw [exec, execPourPark, live_next hlost]
  simp only [hpending]
  rw [if_pos ⟨hch, hst, hruns⟩]
  rfl

theorem exec_pourWritebackComplete {ch : Nat} {s : State} (hlost : s.rst.rootLost = false) (hch : ch < 32)
    (hst : (chAt s ch).st = .done ∨ (chAt s ch).st = .cancelling) (hwb : (chAt s ch).wb = true) (hruns : pourRuns s = true) :
    exec (.pourWritebackComplete ch .ok) s = .next (pourIdle ch (abortReplies ch 0
      (pourReply ch (chAt s ch).status (writeBack ch (chAt s ch).status s)))) := by
  rw [exec, execPourWritebackComplete, live_next hlost, if_pos ⟨hch, hst, hwb, hruns⟩]

theorem writeBack_pour (ch status : Nat) (s : State) : (writeBack ch status s).pour = s.pour :=
  (writeBack_writes ..).same .pour (by decide)

/-- Every channel that is not Idle stops (R364). -/
def allStopped (s : State) : State :=
  (List.range 32).foldl (fun t c => pourStop c t) { s with pour := { s.pour with drain := false } }

theorem allStopped_chsSet {s : State} (hlen : s.pour.ch.length = 32) : ChsSet (List.range 32)
    (fun x => if x.st = .idle ∨ x.st = .stopped then x else x.stop) { s with pour := { s.pour with drain := false } }
    (allStopped s) :=
  foldl_chsSet (fun t c hc => pourStop_chSet hc) List.nodup_range fun c hc => by
    rw [show ({ s with pour := { s.pour with drain := false } } : State).pour.ch = s.pour.ch from rfl, hlen]
    exact List.mem_range.1 hc

theorem chMap_drain (c : Nat) (f : PourCh → PourCh) (s : State) : (chMap c f s).pour.drain = s.pour.drain := rfl

theorem pourReply_drain (c status : Nat) (s : State) : (pourReply c status s).pour.drain = s.pour.drain := by
  unfold pourReply
  extract_lets x
  split
  · rfl
  · rw [finish_pour, chMap_drain]

theorem abortReplies_drain (c status : Nat) (s : State) : (abortReplies c status s).pour.drain = s.pour.drain := by
  have hkept : KeepsPour (chMap c (fun x => { x with abortCmds := [] }) s) (abortReplies c status s) :=
    .foldl (fun t o => (finish_writes o status 0 0 0 0 t).keepsPour) _ _
  rw [hkept.pour, chMap_drain]

theorem chMove_drain (c : Nat) (st : PourState) (s : State) : (chMove c st s).pour.drain = s.pour.drain := by
  rw [chMove, dripAt_pour, (mmuRetire_writes _).same .pour (by decide), chMap_drain]

theorem pourStop_drain (c : Nat) (s : State) : (pourStop c s).pour.drain = s.pour.drain := by
  unfold pourStop
  split_ifs
  · rfl
  · extract_lets s₁
    rw [chMove_drain, (unstage_keepsPour ..).pour, chMap_drain]
    exact (abortReplies_drain ..).trans (pourReply_drain ..)

theorem foldl_pourStop_drain (l : List Nat) (s : State) :
    (l.foldl (fun t c => pourStop c t) s).pour.drain = s.pour.drain := by
  induction l generalizing s with
  | nil => rfl
  | cons c l ih => exact (ih _).trans (pourStop_drain c s)

theorem allStopped_drain (s : State) : (allStopped s).pour.drain = false := by
  rw [allStopped, foldl_pourStop_drain]

theorem any_busy_iff {s : State} (hlen : s.pour.ch.length = 32) :
    (s.pour.ch.any fun x => decide (x.st ≠ .idle ∧ x.st ≠ .stopped)) = true ↔
      ∃ d < 32, (chAt s d).st ≠ .idle ∧ (chAt s d).st ≠ .stopped := by
  rw [List.any_eq_true]
  constructor
  · rintro ⟨x, hx, hbusy⟩
    obtain ⟨d, hd, rfl⟩ := List.mem_iff_getElem.1 hx
    refine ⟨d, by omega, ?_⟩
    rw [chAt, List.getD_eq_getElem _ _ hd]
    simpa using hbusy
  · rintro ⟨d, hd, hbusy⟩
    rw [chAt, List.getD_eq_getElem _ _ (by omega)] at hbusy
    exact ⟨_, List.getElem_mem _, by simpa using hbusy⟩

/-- Settles O30, row by row. -/
theorem pourChannelMachineCompletes : Obligations.PourChannelMachineCompletes := by
  unfold Obligations.PourChannelMachineCompletes
  intro ch pipe s u b hinv hlost hch x
  have hlen := hinv.chans
  have hcs : ch < s.pour.ch.length := by omega
  refine ⟨fun hst hread hruns hb => ?_, fun hpipe hfree hruns c hnext => ?_, fun h => exec_pourPipeGrant_none hlost h,
    fun c hnext hst hhold hruns => ?_, fun hst hbusy => ?_, fun va hpending hst hruns => ?_, fun hnone => ?_,
    fun hst => ?_, fun hst hwb hruns => ?_, fun hbusy => ?_, fun hquiet => ?_, fun hdrain => ?_, fun hdrain => ?_⟩
  · have hfetch : Writes [.keyway] s u := by
      have h := hostRead_writes s 0 x.descVa 64
      rwa [hb] at h
    have hkept := hfetch.keepsPour
    have hcu : ch < u.pour.ch.length := by rw [hkept.pour]; exact hcs
    have hexec := exec_pourDescriptorRead hlost hch hst hread hruns hb
    refine ⟨fun hvalid => ?_, fun hvalid => ?_⟩
    · rw [if_pos hvalid] at hexec
      have hmapped := chMap_chSet hcu (chLoaded b)
      have hready := chReady_chSet (s := chMap ch (chLoaded b) u) (by rwa [hmapped.length])
      rw [hmapped.same, hkept.chAt_eq] at hready
      have hset := hkept.trans_chSet (hmapped.trans hready)
      have hwrites : Writes [.keyway, .pour] s (chReady ch (chMap ch (chLoaded b) u)) :=
        .after (chReady_writes ..) (.after (chMap_writes ..) hfetch.mono)
      refine ⟨_, hexec, ?_⟩
      beta_reduce
      rw [hset.same]
      exact ⟨hst, rfl, rfl, rfl, rfl, hset.other, hwrites.eq_mix⟩
    · rw [if_neg (by simp [hvalid])] at hexec
      have hreply := pourReply_chSet hcu 0x0108
      have hidle := pourIdle_chSet (s := pourReply ch 0x0108 u) (by rwa [hreply.length])
      refine ⟨_, hexec, ?_, ?_, fun o hcmd hopen => ?_⟩
      · rw [hidle.same]
        rfl
      · rw [hidle.same]
        rfl
      · obtain ⟨r, hr, horder, hfinal, hstatus, -⟩ := pourReply_answers (c := ch) (s := u) (o := o)
          (by rw [hkept.chAt_eq]; exact hcmd) (by rw [hfetch.same .latch (by decide)]; exact hopen) 0x0108
        exact ⟨r, pourIdle_repliesKept _ _ r hr, horder, hfinal, hstatus⟩
  · have hc : c < s.pour.ch.length := by
      have := pipeNext_lt hnext
      omega
    have hmapped := chMap_chSet hc (fun x => { x with hold := true, pending := none })
    have hgranted := granted_chSet (s := chMap c (fun x => { x with hold := true, pending := none }) s)
      (by rwa [hmapped.length])
    rw [hmapped.same] at hgranted
    have hset := hmapped.trans hgranted
    have hwrites : Writes moveFields s (granted c (chMap c (fun x => { x with hold := true, pending := none }) s)) :=
      .after (granted_writes ..) (chMap_writes ..).mono
    refine ⟨_, exec_pourPipeGrant hlost hpipe hfree hruns hnext, ?_⟩
    beta_reduce
    rw [hset.same]
    exact ⟨rfl, rfl, rfl, rfl, hset.other, moveFields_eq_mix hwrites⟩
  · have hexec := exec_pourGranuleYield hlost hch hnext hst hhold hruns
    refine ⟨fun hlower => ?_, fun hhigher => by rw [hexec, if_neg (Nat.not_lt.2 hhigher)]⟩
    rw [if_pos hlower] at hexec
    have hmapped := chMap_chSet hcs (fun x => { x with hold := false })
    have hmoved := chMove_chSet (s := chMap ch (fun x => { x with hold := false }) s) (by rwa [hmapped.length]) .suspended
    rw [hmapped.same] at hmoved
    have hsuspended := hmapped.trans hmoved
    have hready := chReady_chSet (s := chMove ch .suspended (chMap ch (fun x => { x with hold := false }) s))
      (by rwa [hsuspended.length])
    rw [hsuspended.same] at hready
    have hset := hsuspended.trans hready
    have hwrites : Writes moveFields s (chReady ch (chMove ch .suspended (chMap ch (fun x => { x with hold := false }) s))) :=
      .after (chReady_writes ..) (.after (chMove_writes ..) (chMap_writes ..).mono)
    refine ⟨_, hexec, ?_⟩
    beta_reduce
    rw [hset.same]
    exact ⟨rfl, rfl, rfl, hset.other, moveFields_eq_mix hwrites⟩
  · have hset := (setCh_chSet hcs (advance x)).trans_keepsPour ((unstage_keepsPour ch _).trans (mmuRetire_keepsPour _))
    refine ⟨_, exec_pourInstructionComplete hlost hch hst hbusy, ?_⟩
    beta_reduce
    rw [hset.same]
    exact ⟨rfl, rfl, rfl, fun hloops => by simp [advance, hloops, loopEnd], hset.other, hset.hostMem⟩
  · have hmapped := chMap_chSet hcs (chParked va)
    have hmoved := chMove_chSet (s := chMap ch (chParked va) s) (by rwa [hmapped.length]) .parked
    rw [hmapped.same] at hmoved
    have hparked := hmapped.trans hmoved
    have hemitted := emit_writes 0x0008 unitPour (ch + (va % 2 ^ 48 / 2 ^ 8) * 2 ^ 8) (chMove ch .parked (chMap ch (chParked va) s))
    have hset := hparked.trans_keepsPour hemitted.keepsPour
    have hbefore : Writes moveFields s (chMove ch .parked (chMap ch (chParked va) s)) :=
      .after (chMove_writes ..) (chMap_writes ..).mono
    have hwrites : Writes (.ev :: .counters :: moveFields) s (emit 0x0008 unitPour (ch + (va % 2 ^ 48 / 2 ^ 8) * 2 ^ 8)
        (chMove ch .parked (chMap ch (chParked va) s))) := .after hemitted hbefore.mono
    refine ⟨_, exec_pourPark hlost hch hpending hst hruns, ?_⟩
    beta_reduce
    rw [hset.same]
    refine ⟨rfl, rfl, rfl, rfl, rfl, ?_, hset.other, hwrites.eq_mix⟩
    rw [emit_seq, hbefore.same .ev (by decide)]
  · rw [exec, execPourPark, live_next hlost]
    simp only [show (chAt s ch).pending = none from hnone]
  · have hexec : exec (.pourCancelDrained ch) s = .next (unstage ch (chMap ch (fun x => { x with busy := false, wb := true }) s)) := by
      rw [exec, execPourCancelDrained, live_next hlost, if_pos ⟨hch, hst⟩]
    have hset := (chMap_chSet hcs (fun x => { x with busy := false, wb := true })).trans_keepsPour (unstage_keepsPour ch _)
    refine ⟨_, hexec, ?_⟩
    beta_reduce
    rw [hset.same]
    exact ⟨hst, rfl, rfl, hset.hostMem⟩
  · have hback := writeBack_writes ch x.status s
    have hpour := writeBack_pour ch x.status s
    have hlatch : (writeBack ch x.status s).latch = s.latch := hback.same .latch (by decide)
    have hexec := exec_pourWritebackComplete hlost hch hst hwb hruns
    change exec (.pourWritebackComplete ch .ok) s = .next (pourIdle ch (abortReplies ch 0
      (pourReply ch x.status (writeBack ch x.status s)))) at hexec
    generalize writeBack ch x.status s = w at hback hpour hlatch hexec
    have hcw : ch < w.pour.ch.length := by rw [hpour]; exact hcs
    have hreply := pourReply_chSet hcw x.status
    have habort := abortReplies_chSet (s := pourReply ch x.status w) (by rwa [hreply.length]) 0
    have hanswered := hreply.trans habort
    have hidle := pourIdle_chSet (s := abortReplies ch 0 (pourReply ch x.status w)) (by rwa [hanswered.length])
    have hset := hanswered.trans hidle
    refine ⟨_, hexec, ?_, ?_, fun d hd => (hset.other d hd).trans (chAt_congr hpour d), hset.hostMem, fun o hcmd hopen => ?_⟩
    · rw [hset.same]
      rfl
    · rw [hset.same]
      rfl
    · have hxw : chAt w ch = x := chAt_congr hpour ch
      obtain ⟨r, hr, horder, hfinal, hstatus, h0, h1, h2⟩ := pourReply_answers (c := ch) (s := w) (o := o)
        (by rw [hxw]; exact hcmd) (by rw [hlatch]; exact hopen) x.status
      rw [hxw] at h0 h1 h2
      exact ⟨r, pourIdle_repliesKept _ _ r (abortReplies_repliesKept _ _ _ r hr), horder, hfinal, hstatus, h0, h1, h2⟩
  · rw [exec, execPourBusErrorStop, live_next hlost, if_pos ((any_busy_iff hlen).2 hbusy)]
    rfl
  · rw [exec, execPourBusErrorStop, live_next hlost, if_neg]
    intro hbusy
    obtain ⟨d, hd, hidle, hstopped⟩ := (any_busy_iff hlen).1 hbusy
    exact (hquiet d hd).elim hidle hstopped
  · have hexec : exec .pourStopDrained s = .next (allStopped s) := by
      rw [exec, execPourStopDrained, live_next hlost, if_pos hdrain]
      rfl
    have hset := allStopped_chsSet hlen
    have hch (d : Nat) : chAt ({ s with pour := { s.pour with drain := false } } : State) d = chAt s d := rfl
    refine ⟨_, hexec, allStopped_drain s, fun d hd hst => ?_, fun d hd hst => ?_, hset.hostMem⟩
    · rw [hset.same d (List.mem_range.2 hd), hch]
      split_ifs with h
      · exact h.resolve_left hst
      · rfl
    · rw [hset.same d (List.mem_range.2 hd), hch, if_pos (.inl hst), hst]
  · rw [exec, execPourStopDrained, live_next hlost, if_neg (by simp [hdrain])]

end Sys2Proof.Machine
end

section
/-! PROOFS. Pour's control instructions: LOOP, WAIT, END (R354 to R359). -/

namespace Sys2Proof.Machine

-- One declaration at a time: see the frames of the state's operations.
set_option Elab.async false

/-! ### The fetch -/

theorem PourAt.writes {ch op : Nat} {b : List Byte} {u s : State} (h : PourAt ch op b u s) : Writes [.keyway] s u := by
  have hread := hostRead_writes s (chAt s ch).ctx ((chAt s ch).progVa + 32 * (chAt s ch).pc) 32
  rwa [h.fetched] at hread

theorem PourAt.chAt_eq {ch op : Nat} {b : List Byte} {u s : State} (h : PourAt ch op b u s) (c : Nat) : chAt u c = chAt s c :=
  h.keepsPour.chAt_eq c

theorem PourAt.lt {ch op : Nat} {b : List Byte} {u s : State} (h : PourAt ch op b u s) : ch < u.pour.ch.length := by
  rw [h.keepsPour.pour, h.length]
  exact h.chan

/-- A run of translations that has begun leaves a piece. -/
theorem xlateRun_ne_nil {fuel : Nat} {s t : State} {ctx va len : Nat} {write : Bool} {acc l : List Piece}
    (hacc : acc ≠ []) (h : xlateRun fuel s ctx va len write acc = (t, .ok l)) : l ≠ [] := by
  induction fuel generalizing s va len acc with
  | zero =>
    cases h
    simpa using hacc
  | succ fuel ih =>
    rw [xlateRun] at h
    split_ifs at h
    · cases h
      simpa using hacc
    · split at h
      · cases h
      · exact ih (by simp) h

theorem xlateRange_ne_nil {s t : State} {ctx va len : Nat} {write : Bool} {l : List Piece} (hlen : len ≠ 0)
    (h : xlateRange s ctx va len write = (t, .ok l)) : l ≠ [] := by
  rw [xlateRange, xlateRun, if_neg hlen] at h
  split at h
  · cases h
  · exact xlateRun_ne_nil (by simp) h

/-- A row for the opcode of the instruction at pc runs, with the pieces of its fetch, from the state the fetch leaves. -/
theorem pourInsn_fetched {ch op : Nat} {ops : List Nat} {b : List Byte} {u s : State} (h : PourAt ch op b u s) (hop : op ∈ ops)
    (f : List Byte → List Piece → State → State) : ∃ l, l ≠ [] ∧ pourInsn ch ops f s = f b l u := by
  obtain ⟨l, hl, hb⟩ := hostRead_ok h.fetched
  refine ⟨l, xlateRange_ne_nil (by decide) hl, ?_⟩
  unfold pourInsn
  extract_lets x
  rw [if_pos ⟨h.chan, h.running, h.hold, h.busy, h.waiting, h.pending, h.runs⟩, hl]
  dsimp only
  rw [hb, h.code, if_pos hop]

/-- A fetch that fails: poison ends the channel, anything else stops Pour (R364, R372). -/
theorem pourIo_fetch_bad {c : Nat} {e : IoErr} {l : List Piece} (hl : l ≠ []) (ok : State → State) (s : State) :
    pourIo c (.bad e) l [] [] ok s =
      if e.err = 3 ∧ e.timeout = false then pourDone c 0x0406 (readBroken l { e with write := false } s)
      else pourBusError (readBroken l { e with write := false } s) := by
  have hl' : l.isEmpty = false := by simpa using hl
  simp only [pourIo, metWrite, isPoison, hl', List.isEmpty_nil, Bool.not_true, Bool.and_false, Bool.or_self,
    Bool.false_eq_true, false_and, if_false, Bool.not_false, Bool.and_true, Bool.and_eq_true, decide_eq_true_eq,
    Bool.not_eq_true']

/-! ### LOOP and END -/

/-- LOOP opens its body, skips it, or ends the channel (R354 to R356). -/
def loopGo (ch : Nat) (b : List Byte) (s : State) : State :=
  let x := chAt s ch
  let body := leAt b 1 1
  let count := leAt b 4 4
  if body = 0 ∨ bodyFits x body = false then pourDone ch 0x0108 s
  else if count = 0 then setCh ch (advance { x with pc := x.pc + body }) s
  else if 4 ≤ x.loops.length then pourDone ch 0x0108 s
  else setCh ch { x with pc := x.pc + 1,
                         loops := ⟨x.pc, body, count, 0, sext 32 (leAt b 8 4), sext 32 (leAt b 12 4)⟩ :: x.loops } s

theorem exec_loop {ch : Nat} {b : List Byte} {u s : State} (h : PourAt ch 4 b u s) (io : Io) :
    ∃ l, l ≠ [] ∧ exec (.loop ch io) s = .next (pourIo ch io l [] [] (loopGo ch b) u) := by
  obtain ⟨l, hl, hrun⟩ := pourInsn_fetched (ops := [4]) h (by simp) fun b l s => pourIo ch io l [] [] (loopGo ch b) s
  refine ⟨l, hl, ?_⟩
  rw [exec, execLoop, live_next h.lock, ← hrun]
  rfl

theorem exec_endProg {ch : Nat} {b : List Byte} {u s : State} (h : PourAt ch 7 b u s) (io : Io) :
    ∃ l, l ≠ [] ∧ exec (.endProg ch io) s = .next (pourIo ch io l [] [] (pourDone ch 0) u) := by
  obtain ⟨l, hl, hrun⟩ := pourInsn_fetched (ops := [7]) h (by simp) fun _ l s => pourIo ch io l [] [] (pourDone ch 0) s
  exact ⟨l, hl, by rw [exec, execEndProg, live_next h.lock, hrun]⟩

/-- A control instruction whose fetch is answered well runs. -/
theorem pourIo_ok (c : Nat) (rd wr : List Piece) (bs : List Byte) (f : State → State) (s : State) :
    pourIo c .ok rd wr bs f s = f s := rfl

/-! ### WAIT -/

theorem spBytes_inside {m : Mem} {a n : Nat} (h : a + n ≤ spReserve) : spBytes m a n = memRead m a n := by
  rw [spBytes, Nat.min_eq_left (by omega), Nat.sub_eq_zero_of_le (by omega), List.replicate_zero, List.append_nil]

theorem spBad_inside {s : State} {a n : Nat} (h : a + n ≤ spReserve) (hn : 0 < n) : spBad s a n = spPoisoned s a n := by
  rw [spBad, Nat.min_eq_left (by omega), decide_eq_true (by omega), Bool.true_and]

theorem spReserve_le : spReserve ≤ spSize := by decide

/-- A WAIT on the scratchpad whose word is read (R357, R358). -/
theorem waitGo_sp {c : Nat} {b : List Byte} {fetch : List Piece} {s : State} (hsp : bit (leAt b 0 1) 4 = true)
    (ha : leAt b 8 6 / 8 * 8 + 8 ≤ spReserve) (hclean : spPoisoned s (leAt b 8 6 / 8 * 8) 8 = false) :
    waitGo c b fetch .ok s = waitRead c b (memRead s.sp (leAt b 8 6 / 8 * 8) 8) s := by
  have hbad : spBad s (leAt b 8 6 / 8 * 8) 8 = false := (spBad_inside ha (by decide)).trans hclean
  have hcount : spCount (leAt b 8 6 / 8 * 8) 8 s = s := spCount_of_inside (ha.trans spReserve_le) s
  simp only [waitGo, hsp, hbad, Bool.and_false, Bool.false_eq_true, if_false, sidePieces, Bool.not_true, if_true, pourIo,
    hcount, spBytes_inside ha]

theorem spPoisoned_congr {s t : State} (h : t.spPoison = s.spPoison) (a n : Nat) : spPoisoned t a n = spPoisoned s a n := by
  rw [spPoisoned, spPoisoned, h]

theorem exec_wait {ch : Nat} {b : List Byte} {u s : State} (h : PourAt ch 5 b u s) (hsp : bit (leAt b 0 1) 4 = true)
    (ha : leAt b 8 6 / 8 * 8 + 8 ≤ spReserve) (hclean : spPoisoned s (leAt b 8 6 / 8 * 8) 8 = false) :
    exec (.wait ch .ok) s = .next (waitRead ch b (memRead s.sp (leAt b 8 6 / 8 * 8) 8) u) := by
  obtain ⟨l, -, hrun⟩ := pourInsn_fetched (ops := [5]) h (by simp) fun b l s => waitGo ch b l .ok s
  have hpoison := spPoisoned_congr (h.writes.same .spPoison (by decide)) (leAt b 8 6 / 8 * 8) 8
  rw [exec, execWait, live_next h.lock, hrun, waitGo_sp hsp ha (hpoison.trans hclean), h.writes.same .sp (by decide)]

theorem waitRead_holds {c : Nat} {b word : List Byte} {s : State} (h : waitHolds b (leNat word) = true) :
    waitRead c b word s = if (chAt s c).waiting then chReady c (setCh c (advance (chAt s c)) s)
      else setCh c (advance (chAt s c)) s := by
  simp only [waitRead, h, if_true]

theorem waitRead_waits {c : Nat} {b word : List Byte} {s : State} (h : waitHolds b (leNat word) = false) :
    waitRead c b word s = setCh c { chAt s c with
      hold := false, waiting := true, insn := b, waitFrom := some ((chAt s c).waitFrom.getD s.kt) } s := by
  simp only [waitRead, h, Bool.false_eq_true, if_false]

/-- Settles O33. -/
theorem pourControlInstructionsComplete : Obligations.PourControlInstructionsComplete := by
  unfold Obligations.PourControlInstructionsComplete
  intro ch b s u x body n a holds
  refine ⟨fun h => ?_, fun h hsp ha hclean => ?_, fun hlost hch hlen hst hwaiting hruns hinsn => ⟨?_, ?_, ?_⟩,
    fun h => ?_, fun e h c hc => ?_⟩
  · obtain ⟨l, -, hexec⟩ := exec_loop h .ok
    rw [pourIo_ok, loopGo, h.chAt_eq] at hexec
    refine ⟨fun hbad => ?_, fun hbody hfits hn => ?_, fun hbody hfits hn hdepth => ?_⟩
    · rw [hexec]
      by_cases hfit : body = 0 ∨ bodyFits x body = false
      · exact congrArg _ (if_pos hfit)
      · obtain ⟨hn, hdepth⟩ := (or_assoc.2 hbad).resolve_left hfit
        exact congrArg _ ((if_neg hfit).trans ((if_neg hn).trans (if_pos hdepth)))
    · have hfit : ¬ (body = 0 ∨ bodyFits x body = false) := by simp [hbody, hfits]
      rw [hexec]
      exact congrArg _ ((if_neg hfit).trans (if_pos hn))
    · have hfit : ¬ (body = 0 ∨ bodyFits x body = false) := by simp [hbody, hfits]
      rw [hexec]
      exact congrArg _ ((if_neg hfit).trans ((if_neg hn).trans (if_neg (Nat.not_le.2 hdepth))))
  · have hexec := exec_wait h hsp ha hclean
    refine ⟨fun hholds => ?_, fun hholds => ?_⟩
    · rw [hexec, waitRead_holds hholds, h.chAt_eq, h.waiting]
      rfl
    · rw [hexec, waitRead_waits hholds, h.chAt_eq, h.writes.same .kt (by decide)]
  · intro hpending hsp ha hclean
    have hexec : exec (.waitPoll ch .ok) s = .next (waitRead ch b (memRead s.sp (leAt b 8 6 / 8 * 8) 8) s) := by
      rw [exec, execWaitPoll, live_next hlost]
      simp only
      rw [if_pos ⟨hch, hst, hwaiting, hpending, hruns⟩, show (chAt s ch).insn = b from hinsn, waitGo_sp hsp ha hclean]
    refine ⟨fun hholds => ?_, fun hholds => ?_⟩
    · rw [hexec, waitRead_holds hholds, if_pos hwaiting]
    · rw [hexec, waitRead_waits hholds, ← hinsn]
  · intro htimeout
    have hexec : exec (.waitTimeout ch) s = .next (pourDone ch 0x0405 s) := by
      rw [exec, execWaitTimeout, live_next hlost]
      simp only
      rw [if_pos ⟨hch, hst, hwaiting, by rw [show (chAt s ch).insn = b from hinsn]; exact htimeout, hruns⟩]
    have hset := pourDone_chSet (s := s) (c := ch) (by omega) 0x0405
    refine ⟨_, hexec, ?_⟩
    beta_reduce
    rw [hset.same]
    exact ⟨rfl, rfl⟩
  · intro htimeout
    rw [exec, execWaitTimeout, live_next hlost]
    simp only
    rw [if_neg]
    rintro ⟨-, -, -, hne, -⟩
    rw [show (chAt s ch).insn = b from hinsn] at hne
    exact hne htimeout
  · obtain ⟨l, -, hexec⟩ := exec_endProg h .ok
    have hset := h.keepsPour.trans_chSet (pourDone_chSet h.lt 0)
    rw [h.chAt_eq] at hset
    refine ⟨_, hexec, ?_⟩
    beta_reduce
    rw [pourIo_ok, hset.same]
    exact ⟨rfl, rfl, rfl, rfl, rfl, hset.hostMem, hset.other⟩
  · have hrow : ∃ l ok, l ≠ [] ∧ exec c s = .next (pourIo ch (.bad e) l [] [] ok u) := by
      obtain h | h := h
      · obtain ⟨l, hl, hexec⟩ := exec_loop h (.bad e)
        exact ⟨l, _, hl, by rw [hc, if_pos h.code, hexec]⟩
      · obtain ⟨l, hl, hexec⟩ := exec_endProg h (.bad e)
        exact ⟨l, _, hl, by rw [hc, if_neg (by rw [h.code]; decide), hexec]⟩
    have hlt : ch < u.pour.ch.length := h.elim PourAt.lt PourAt.lt
    have hat : chAt u ch = x := h.elim (fun h => h.chAt_eq ch) (fun h => h.chAt_eq ch)
    obtain ⟨l, ok, hl, hexec⟩ := hrow
    rw [pourIo_fetch_bad hl] at hexec
    have hread := (readBroken_writes l { e with write := false } u).keepsPour
    refine ⟨fun herr htimeout => ?_, fun hother => ?_⟩
    · rw [if_pos ⟨herr, htimeout⟩] at hexec
      have hset := hread.trans_chSet (pourDone_chSet (by rwa [hread.pour]) 0x0406)
      refine ⟨_, hexec, ?_⟩
      beta_reduce
      rw [hset.same]
      exact ⟨rfl, rfl⟩
    · rw [if_neg (by rintro ⟨h3, ht⟩; exact hother.elim (fun h => h h3) (by simp [ht]))] at hexec
      exact ⟨_, hexec, rfl, (hread.chAt_eq ch).trans hat⟩

end Sys2Proof.Machine
end

section
/-! PROOFS. MOVE from host memory where the translation cache holds less than a page (R351, R363). -/

namespace Sys2Proof.Machine

-- One declaration at a time: see the frames of the state's operations.
set_option Elab.async false

/-- Host memory with one instruction at 0: a MOVE of 3 bytes from host address 64 to scratchpad offset 0. -/
def moveProgram : Mem := [(0, 0x21), (4, 3), (8, 64)]

/-- The bytes of that instruction. -/
def moveInsn : List Byte := memRead moveProgram 0 32

/-- A block whose channel 0 is at that instruction. The translation cache maps the program, and of the source its first two
bytes, each by an entry of one byte: a translation of 3 bytes takes two entries at most and comes back with two bytes. -/
def shortCache : State :=
  { State.reset with
    sp := [(2, 0xFF)]
    hostMem := moveProgram
    keyway := { State.reset.keyway with
      root0 := some 0
      tlb := [{ ctx := 0, va := 0, bytes := 64, pa := 0, read := true, write := true },
              { ctx := 0, va := 64, bytes := 1, pa := 64, read := true, write := true },
              { ctx := 0, va := 65, bytes := 1, pa := 65, read := true, write := true }] }
    pour := { State.reset.pour with
      ch := { PourCh.idle with st := .running, hold := true } :: List.replicate 31 PourCh.idle } }

theorem shortCache_at : PourAt 0 1 moveInsn shortCache shortCache :=
  ⟨rfl, by decide, rfl, rfl, rfl, rfl, rfl, rfl, rfl, rfl, rfl⟩

/-- The pieces of the 3 bytes hold two. -/
theorem shortCache_range :
    xlateRange shortCache 0 64 3 false = (shortCache, .ok [{ pa := 64, len := 1 }, { pa := 65, len := 1 }]) := rfl

/-- The scratchpad's byte 2 in the state a command leaves. -/
def thirdByte : Host.Outcome State Fault Refusal → Option Byte
  | .next t => some (memGet t.sp 2)
  | _ => none

/-- MOVE does not write the third byte. -/
theorem thirdByte_move : thirdByte (exec (.move 0 .ok 1) shortCache) = some 0xFF := by
  rfl

/-- Refutes O32: the state is any state, and in `shortCache` the translation of a MOVE's 3 source bytes succeeds with 2 of them,
so the third byte of the destination stays as it was, 0xFF, and is not the 0 that stands past the end of the bytes read. -/
theorem not_pourDataInstructionsInHostMemory : ¬ Obligations.PourDataInstructionsInHostMemory := by
  unfold Obligations.PourDataInstructionsInHostMemory
  intro h
  have hmove := (h 0 1 moveInsn shortCache shortCache shortCache shortCache [{ pa := 64, len := 1 }, { pa := 65, len := 1 }] []
    ⟨0, 0, 0, 0⟩ rfl (by decide) (by decide) (by decide)).2.1 shortCache_at rfl rfl (by decide)
  obtain ⟨t, hexec, -, -, hbytes, -⟩ := hmove.1 shortCache_range
  have hthird := thirdByte_move
  rw [hexec] at hthird
  have hzero : memGet t.sp 2 = 0 := hbytes 2 (by decide)
  rw [thirdByte, hzero] at hthird
  exact absurd hthird (by decide)

end Sys2Proof.Machine
end

section
/-! PROOFS. CMP in a scratchpad that is not in its canonical form (R352). -/

namespace Sys2Proof.Machine

-- One declaration at a time: see the frames of the state's operations.
set_option Elab.async false

/-- Host memory with one instruction at 0: a CMP of the 2 bytes at scratchpad offset 8 with those at 16. -/
def cmpProgram : Mem := [(0, 0x33), (4, 2), (8, 8), (16, 16)]

/-- The bytes of that instruction. -/
def cmpInsn : List Byte := memRead cmpProgram 0 32

/-- A block whose channel 0 is at that instruction. The scratchpad's four bytes are all 1, but its cells do not stand in
ascending order, so that a read of the range at 8, which goes through the cells once, misses byte 8. -/
def unsortedPad : State :=
  { State.reset with
    sp := [(9, 1), (8, 1), (16, 1), (17, 1)]
    hostMem := cmpProgram
    keyway := { State.reset.keyway with
      root0 := some 0
      tlb := [{ ctx := 0, va := 0, bytes := 65536, pa := 0, read := true, write := true }] }
    pour := { State.reset.pour with
      ch := { PourCh.idle with st := .running, hold := true } :: List.replicate 31 PourCh.idle } }

theorem unsortedPad_at : PourAt 0 3 cmpInsn unsortedPad unsortedPad :=
  ⟨rfl, by decide, rfl, rfl, rfl, rfl, rfl, rfl, rfl, rfl, rfl⟩

/-- The mismatches of channel 0 in the state a command leaves. -/
def mismatchesOf : Host.Outcome State Fault Refusal → Option Nat
  | .next t => some (chAt t 0).mismatches
  | _ => none

/-- CMP counts a mismatch. -/
theorem mismatchesOf_cmp : mismatchesOf (exec (.cmp 0 .ok 2) unsortedPad) = some 1 := by
  rfl

/-- Refutes O31: the state is any state, and in `unsortedPad`, whose scratchpad is not canonical, the two ranges are equal byte by
byte, yet CMP finds a difference. -/
theorem not_pourDataInstructionsInScratchpad : ¬ Obligations.PourDataInstructionsInScratchpad := by
  unfold Obligations.PourDataInstructionsInScratchpad
  intro h
  have hcmp := (h 0 2 cmpInsn unsortedPad unsortedPad rfl (by decide)).2.2.1 unsortedPad_at rfl rfl (by decide) (by decide)
    rfl rfl
  obtain ⟨t, hexec, -, hkept, -⟩ := hcmp.1 (by decide)
  have hcounted := mismatchesOf_cmp
  rw [hexec, mismatchesOf, hkept] at hcounted
  exact absurd hcounted (by decide)

end Sys2Proof.Machine
end

section
/-! PROOFS. The power-on resets and the root clock (R21, R25, R417, R428, R460, R471). -/

namespace Sys2Proof.Machine

-- One declaration at a time: see the frames of the state's operations.
set_option Elab.async false

/-! ### kw_por_n -/

theorem porJob_writes (s : State) : Writes [.slots, .duties, .vault, .ev, .counters, .drip] s (porJob s) :=
  .ite (fun _ => .after (vaultClose_writes ..) (settleAll_writes s).mono) (fun _ => .refl _ s)

theorem execPorAssert_eq (s : State) : exec .porAssert s = .next (skipSettle (porKeep (porJob s))) := rfl

/-- What kw_por_n leaves reads as the reset state, but for what it keeps (R417). -/
theorem porKeep_links {s : State} {k : Nat} (hk : k < 32) : (linkAt (skipSettle (porKeep s)) k).st = .off := by
  have hlinks : (skipSettle (porKeep s)).links = List.replicate 32 Link.reset := rfl
  rw [linkAt, hlinks, List.getD_eq_getElem _ _ (by simpa using hk), List.getElem_replicate]
  rfl

theorem porKeep_slots {s : State} {i : Nat} (hi : i < 64) : (slotAt (skipSettle (porKeep s)) i).st = .idle := by
  have hslots : (skipSettle (porKeep s)).slots = List.replicate 64 Slot.idle := rfl
  rw [slotAt, hslots, List.getD_eq_getElem _ _ (by simpa using hi), List.getElem_replicate]
  rfl

/-! ### AO writes resume -/

theorem logResume_writes (s : State) : Writes [.rlog, .rlogSeq, .rlogWait] s (logResume s) := by
  have hempty : Writes [.rlog, .rlogSeq, .rlogWait] s { s with rlogWait := [] } := .of_mix rfl
  exact hempty.trans (.foldl (fun t e => (logPut_writes e t).mono) _ _)

theorem escPut_writes (kt : Nat) (s : State) : Writes planFields s (escPut kt s) := by
  unfold escPut
  extract_lets w l s₁
  have hcounted : Writes planFields s s₁ := (ctrInc_writes ..).mono
  exact .ite (fun _ => .after (escalate_writes _) (hcounted.trans (.of_mix rfl))) (fun _ => hcounted.trans (.of_mix rfl))

theorem aoPut_writes (s : State) (w : AoWrite) : Writes (.dump :: planFields) s (aoPut s w) := by
  cases w with
  | ledger r => exact .of_mix rfl
  | step n => exact .of_mix rfl
  | advisory => exact .of_mix rfl
  | header h => exact .of_mix rfl
  | reset kt => exact (escPut_writes ..).mono

/-- AO writes are on again, with nothing of the log held (R55). -/
def aoOn (s : State) : State := { s with rst := { s.rst with aoStopped := false } }

/-- What waited for AO storage is written (R55). -/
def aoWritten (s : State) : State := (logResume s).aoWait.foldl aoPut { logResume s with aoWait := [] }

theorem aoResume_eq (s : State) : aoResume s =
    if (aoWritten (aoOn s)).vault.owed then vaultWriteAll (aoWritten (aoOn s)) else aoWritten (aoOn s) := rfl

/-- What the resumption of AO writes writes, but for the flag itself. -/
def aoFields : List Fld := .dump :: .vault :: planFields

theorem aoWritten_writes (s : State) : Writes aoFields s (aoWritten s) := by
  have hlog : Writes aoFields s { logResume s with aoWait := [] } := by
    have h := (logResume_writes s).mono (l := aoFields)
    generalize logResume s = t at h
    exact h.trans (.of_mix rfl)
  exact hlog.trans (.foldl (fun t w => (aoPut_writes t w).mono) _ _)

theorem aoResume_writes (s : State) : Writes aoFields (aoOn s) (aoResume s) := by
  rw [aoResume_eq]
  exact .ite (fun _ => .after (vaultWriteAll_writes _) (aoWritten_writes _)) (fun _ => aoWritten_writes _)

/-! ### The boot ROM -/

theorem verifyBundle_congr {s t : State} (h : t.fuses = s.fuses) (v : Verdict) (b : List Byte) :
    verifyBundle t v b = verifyBundle s v b := by
  simp only [verifyBundle, imgsBad_congr h]

theorem bootBundle_congr {s t : State} (hfuses : t.fuses = s.fuses) (hhost : t.hostMem = s.hostMem) :
    bootBundle t = bootBundle s := by
  simp only [bootBundle, hfuses, hhost]

/-- The bundle was read, verifies, and holds both images (R471). -/
def boots (io : Io) (v : Verdict) (s : State) : Prop :=
  (∀ e, io ≠ .bad e) ∧ ∃ l a b, verifyBundle s v (bootBundle s) = .ok l ∧ imgOfKind 0x4601 l = some a ∧
    imgOfKind 0x4602 l = some b

theorem boots_congr {s t : State} (hfuses : t.fuses = s.fuses) (hhost : t.hostMem = s.hostMem) (io : Io) (v : Verdict) :
    boots io v t ↔ boots io v s := by
  rw [boots, boots, verifyBundle_congr hfuses, bootBundle_congr hfuses hhost]

theorem bootBad_rst (st img : Nat) (s : State) :
    (bootBad st img s).rst = { s.rst with ctlReady := false, bootFail := true } :=
  (logAdd_writes ..).same .rst (by decide)

/-- What the boot writes. -/
def bootFields : List Fld := [.rst, .latch, .fw, .rlog, .rlogSeq, .rlogWait, .mport, .counters]

theorem bootBad_writes (st img : Nat) (s : State) : Writes bootFields s (bootBad st img s) := by
  have hfailed : Writes bootFields s { s with rst := { s.rst with ctlReady := false, bootFail := true } } := .of_mix rfl
  exact .after (logAdd_writes ..) hfailed

theorem bootGood_writes (ctl ward : Option FwImage) (s : State) : Writes bootFields s (bootGood ctl ward s) := .of_mix rfl

/-- The firmware is ready where the boot goes through, and the boot has failed where it does not (R471). -/
theorem boot_result (io : Io) (v : Verdict) (s : State) :
    (boots io v s → (boot io v s).rst = { s.rst with ctlReady := true, bootFail := false } ∧ (boot io v s).latch.free = 64) ∧
    (¬ boots io v s → (boot io v s).rst = { s.rst with ctlReady := false, bootFail := true }) ∧
    Writes bootFields s (boot io v s) := by
  unfold boot
  split
  case h_1 e =>
    have hread := readBroken_writes [{ pa := s.fuses.bootPa * 65536, len := (bootBundle s).length }] e s
    refine ⟨fun h => absurd rfl (h.1 e), fun _ => ?_, .trans hread.mono (bootBad_writes ..)⟩
    rw [bootBad_rst, hread.same .rst (by decide)]
  case h_2 hio =>
    split
    case h_1 e he =>
      refine ⟨fun ⟨_, l, _, _, hl, _⟩ => ?_, fun _ => bootBad_rst .., bootBad_writes ..⟩
      rw [he] at hl
      cases hl
    case h_2 l hl =>
      split
      case h_1 a b ha hb => exact ⟨fun _ => ⟨rfl, rfl⟩, fun h => absurd ⟨hio, l, a, b, hl, ha, hb⟩ h, bootGood_writes ..⟩
      case h_2 hb =>
        refine ⟨fun ⟨_, l', _, _, hl', _, hb'⟩ => ?_, fun _ => bootBad_rst .., bootBad_writes ..⟩
        rw [hl] at hl'
        cases hl'
        rw [hb] at hb'
        cases hb'
      case h_3 h₁ h₂ =>
        refine ⟨fun ⟨_, l', a, b, hl', ha, hb⟩ => ?_, fun _ => bootBad_rst .., bootBad_writes ..⟩
        rw [hl] at hl'
        cases hl'
        exact absurd hb (h₁ a b ha)

/-! ### kw_ao_por_n -/

theorem vaultStatus_vault (b : Nat) (s : State) : ∃ status, (vaultStatus b s).vault = { s.vault with status := status } := by
  by_cases hset : bit s.vault.status b = true
  · exact ⟨_, by rw [vaultStatus_of_set hset]⟩
  · exact ⟨_, (vaultStatus_of_clear (Bool.eq_false_iff.2 hset)).1⟩

/-- The seal checks change Vault's checksum and seal alone (R451). -/
theorem sealCheck_vault (ok : Bool) (crc : Nat) (s : State) : ∃ broken status, (sealCheck ok crc s).vault =
    { s.vault with checksum := crc % 2 ^ 32, sealBroken := broken, status := status } := by
  by_cases hgood : ok = true ∧ crc % 2 ^ 32 = s.fuses.vaultChecksum
  · exact ⟨_, _, by rw [sealCheck_of_good hgood.1 hgood.2]⟩
  · rw [sealCheck_of_bad (by simpa [imp_iff_or_not, or_comm] using hgood)]
    obtain ⟨status, hstatus⟩ := vaultStatus_vault 0
      { s with vault := { s.vault with checksum := crc % 2 ^ 32, sealBroken := true } }
    exact ⟨_, status, hstatus⟩

theorem vaultWriteAll_vault (s : State) : ∃ copies seq owed, (vaultWriteAll s).vault =
    { s.vault with copies := copies, writeSeq := seq, owed := owed } := by
  unfold vaultWriteAll
  split_ifs
  · exact ⟨_, _, _, rfl⟩
  · exact ⟨_, _, _, rfl⟩

/-- A period closed with its flags (R457): the next one opens. -/
theorem vaultClose_vault (tag : Nat) (bad recovered : Bool) (s : State) :
    (vaultClose tag bad recovered s).vault.cur.num = (s.vault.cur.num + 1) % 2 ^ 32 ∧
    (vaultClose tag bad recovered s).vault.cur.recovered = recovered ∧
    (vaultClose tag bad recovered s).vault.readingSeq = s.vault.readingSeq ∧
    (vaultClose tag bad recovered s).vault.nonces = s.vault.nonces ∧
    (vaultClose tag bad recovered s).vault.checksum = s.vault.checksum ∧
    (vaultClose tag bad recovered s).vault.waiting = s.vault.waiting := by
  unfold vaultClose
  extract_lets v _ old _ new t
  rw [vaultEvent_vault]
  obtain ⟨copies, seq, owed, hvault⟩ := vaultWriteAll_vault t
  rw [hvault]
  exact ⟨rfl, rfl, rfl, rfl, rfl, rfl⟩

/-- What Vault's recovery writes. -/
def recoverFields : List Fld := [.vault, .ev, .counters, .drip, .mgmt, .slots, .duties]

theorem vaultFresh_writes (s : State) : Writes recoverFields s (vaultFresh s) := by
  unfold vaultFresh
  extract_lets _ v _ _ s₁
  have hcleared : Writes recoverFields s s₁ := .of_mix rfl
  exact .after (vaultStatus_writes ..) (.after (vaultWriteAll_writes _) hcleared)

/-- A fresh start (R460, R479). -/
theorem vaultFresh_result (s : State) : (vaultFresh s).vault.cur.num = 1 ∧ (vaultFresh s).vault.cur.fresh = true ∧
    (vaultFresh s).mgmt.assocs = [] ∧ (vaultFresh s).vault.nonces = s.vault.nonces ∧
    (vaultFresh s).vault.checksum = s.vault.checksum ∧ (vaultFresh s).vault.waiting = s.vault.waiting := by
  unfold vaultFresh
  extract_lets _ v _ _ s₁
  obtain ⟨status, hstatus⟩ := vaultStatus_vault 3 (vaultWriteAll s₁)
  obtain ⟨copies, seq, owed, hvault⟩ := vaultWriteAll_vault s₁
  have hmgmt : (vaultStatus 3 (vaultWriteAll s₁)).mgmt = s₁.mgmt :=
    ((vaultStatus_writes ..).same .mgmt (by decide)).trans ((vaultWriteAll_writes _).same .mgmt (by decide))
  rw [hstatus, hvault, hmgmt]
  exact ⟨rfl, rfl, rfl, rfl, rfl, rfl⟩

/-- Vault with its best copy restored (R428). -/
def vaultRestored (c : VCopy) (s : State) : State :=
  { s with vault := { s.vault with cur := c.period, readingSeq := c.readingSeq, writeSeq := c.seq + 1 } }

theorem vaultRecover_none {s : State} (h : vaultBest s.vault = []) : vaultRecover s = vaultFresh s := by
  simp only [vaultRecover, h]

theorem vaultRecover_copy {s : State} {c : VCopy} {r : List VCopy} (h : vaultBest s.vault = c :: r) :
    vaultRecover s = vaultClose 0 (vaultDiffers (c :: r)) true
      (if vaultDiffers (c :: r) then vaultStatus 1 (vaultRestored c s) else vaultRestored c s) := by
  simp only [vaultRecover, h]
  rfl

/-- A restored copy: the period is closed as recovered (R457). -/
theorem vaultRecover_copy_result {s : State} {c : VCopy} {r : List VCopy} (h : vaultBest s.vault = c :: r) :
    (vaultRecover s).vault.cur.num = (c.period.num + 1) % 2 ^ 32 ∧ (vaultRecover s).vault.cur.recovered = true ∧
    (vaultRecover s).vault.readingSeq = c.readingSeq ∧ (vaultRecover s).vault.nonces = s.vault.nonces ∧
    (vaultRecover s).vault.checksum = s.vault.checksum ∧ (vaultRecover s).vault.waiting = s.vault.waiting := by
  rw [vaultRecover_copy h]
  obtain ⟨hnum, hrec, hseq, hnonces, hsum, hwait⟩ := vaultClose_vault 0 (vaultDiffers (c :: r)) true
    (if vaultDiffers (c :: r) then vaultStatus 1 (vaultRestored c s) else vaultRestored c s)
  have hvault : ∃ status, (if vaultDiffers (c :: r) then vaultStatus 1 (vaultRestored c s) else vaultRestored c s).vault =
      { (vaultRestored c s).vault with status := status } := by
    split_ifs
    · exact vaultStatus_vault ..
    · exact ⟨_, rfl⟩
  obtain ⟨status, hstatus⟩ := hvault
  rw [hstatus] at hnum hseq hnonces hsum hwait
  exact ⟨hnum, hrec, hseq, hnonces, hsum, hwait⟩

theorem vaultRecover_writes (s : State) : Writes recoverFields s (vaultRecover s) := by
  cases h : vaultBest s.vault with
  | nil =>
    rw [vaultRecover_none h]
    exact vaultFresh_writes s
  | cons c r =>
    rw [vaultRecover_copy h]
    have hrestored : Writes recoverFields s (vaultRestored c s) := .of_mix rfl
    exact .after (vaultClose_writes ..) (.ite (fun _ => .after (vaultStatus_writes ..) hrestored) (fun _ => hrestored))

theorem vaultRecover_figures (s : State) : (vaultRecover s).vault.nonces = s.vault.nonces ∧
    (vaultRecover s).vault.checksum = s.vault.checksum ∧ (vaultRecover s).vault.waiting = s.vault.waiting := by
  cases h : vaultBest s.vault with
  | nil =>
    rw [vaultRecover_none h]
    exact (vaultFresh_result s).2.2.2
  | cons c r => exact (vaultRecover_copy_result h).2.2.2

/-- Where brace holds no command none starts (R94). -/
theorem unbraceAll_none {s : State} (h : ∀ x ∈ s.latch.held, x.why ≠ .brace) : unbraceAll s = s := by
  have hempty : s.latch.held.filter (fun h => decide (h.why = .brace)) = [] := by
    rw [List.filter_eq_nil_iff]
    intro x hx
    simp [h x hx]
  rw [unbraceAll, hempty]
  rfl

theorem vaultServe_none {s : State} (h : s.vault.waiting = []) : vaultServe s = s := by
  simp only [vaultServe, h]

/-- kw_ao_por_n released, before Vault recovers. -/
def aoOpened (s : State) : State :=
  { s with rst := { s.rst with aoHeld := false }, kt := 0, vault := { s.vault with nonces := 4 } }

/-- kw_ao_por_n released: KT from 0, four nonce pairs, the seal checked (R278, R451, R465). -/
def aoReleased (ok : Bool) (crc : Nat) (s : State) : State := sealCheck ok crc (aoOpened s)

theorem aoReleased_writes (ok : Bool) (crc : Nat) (s : State) :
    Writes [.vault, .ev, .counters, .drip] (aoOpened s) (aoReleased ok crc s) := sealCheck_writes ok crc (aoOpened s)

theorem aoReleased_vault (ok : Bool) (crc : Nat) (s : State) : ∃ broken status, (aoReleased ok crc s).vault =
    { (aoOpened s).vault with checksum := crc % 2 ^ 32, sealBroken := broken, status := status } :=
  sealCheck_vault ok crc (aoOpened s)

theorem exec_aoPorRelease {ok : Bool} {crc : Nat} {s : State} (hlost : s.rst.rootLost = false) (hheld : s.rst.aoHeld = true)
    (hwait : s.vault.waiting = []) (hbrace : ∀ h ∈ s.latch.held, h.why ≠ .brace) :
    exec (.aoPorRelease ok crc) s = .next (vaultRecover (aoReleased ok crc s)) := by
  have hlatch : (vaultRecover (aoReleased ok crc s)).latch = s.latch :=
    ((vaultRecover_writes _).same .latch (by decide)).trans ((aoReleased_writes ok crc s).same .latch (by decide))
  obtain ⟨broken, status, hvault⟩ := aoReleased_vault ok crc s
  have hwaiting : (vaultRecover (aoReleased ok crc s)).vault.waiting = [] := by
    rw [(vaultRecover_figures _).2.2, hvault]
    exact hwait
  have hidle : vaultServe (unbraceAll (vaultRecover (aoReleased ok crc s))) = vaultRecover (aoReleased ok crc s) := by
    rw [unbraceAll_none (by rw [hlatch]; exact hbrace), vaultServe_none hwaiting]
  rw [exec, execAoPorRelease, live_next hlost, if_pos hheld]
  show Host.Outcome.next (if (vaultRecover (aoReleased ok crc s)).rst.porHeld then vaultRecover (aoReleased ok crc s)
    else vaultServe (unbraceAll (vaultRecover (aoReleased ok crc s)))) = _
  rw [hidle, ite_self]

/-- kw_por_n released: the scratchpad and the events are empty, and the release is counted (R24, R315). -/
def porReleased (s : State) : State :=
  { s with rst := { s.rst with porHeld := false, bootCount := (s.rst.bootCount + 1) % 65536 },
           sp := [], spPoison := [], ev := EvQueue.reset }

/-- Settles O25. -/
theorem resetRowsComplete : Obligations.ResetRowsComplete := by
  unfold Obligations.ResetRowsComplete
  intro io v ok crc s boots_
  refine ⟨?_, ?_, fun hlost => ⟨fun hpor hao => ?_, fun h => ?_, fun hfail hpor hao => ?_, fun h => ?_,
    fun hheld hwait hbrace => ?_, fun hheld => ?_, fun hheld => ?_, fun hheld => ?_⟩⟩
  · have hjob := porJob_writes s
    refine ⟨_, execPorAssert_eq s, ?_⟩
    beta_reduce
    generalize porJob s = w at hjob
    have hrst := hjob.same .rst (by decide)
    refine ⟨rfl, rfl, rfl, fun i hi => porKeep_slots hi, fun k hk => porKeep_links hk, rfl, rfl, rfl,
      hjob.same .kt (by decide), hjob.same .fuses (by decide), hjob.same .hostMem (by decide), hjob.same .rlog (by decide),
      hjob.same .esc (by decide), ?_, rfl, rfl, rfl, hjob.same .pending (by decide), ?_⟩
    · show w.plan.s = s.plan.s
      rw [hjob.same .plan (by decide)]
    · show (w.rst.rootLost && !w.rst.aoHeld) = _
      rw [hrst]
  · exact ⟨_, rfl, rfl, rfl, rfl, rfl, rfl, rfl, rfl, rfl, rfl⟩
  · have hresume := aoResume_writes (porReleased s)
    have hrst := hresume.same .rst (by decide)
    obtain ⟨hgood, hbad, hwrites⟩ := boot_result io v (aoResume (porReleased s))
    have hboots : boots io v (aoResume (porReleased s)) ↔ boots_ :=
      (boots_congr (hresume.same .fuses (by decide)) (hresume.same .hostMem (by decide)) io v).trans
        (boots_congr (s := s) (t := aoOn (porReleased s)) rfl rfl io v)
    have hexec : exec (.porReleaseBoot io v) s = .next (boot io v (aoResume (porReleased s))) := by
      rw [exec, execPorReleaseBoot, live_next hlost, if_pos ⟨hpor, hao⟩]
      rfl
    rw [hboots, hrst] at hgood hbad
    have hcase : (boot io v (aoResume (porReleased s))).rst.porHeld = false ∧
        (boot io v (aoResume (porReleased s))).rst.bootCount = (s.rst.bootCount + 1) % 65536 := by
      by_cases h : boots_
      · rw [(hgood h).1]
        exact ⟨rfl, rfl⟩
      · rw [hbad h]
        exact ⟨rfl, rfl⟩
    refine ⟨_, hexec, hcase.1, hcase.2, ?_, ?_, fun h => ?_, fun h => ?_, ?_, ?_⟩
    · exact (hwrites.same .sp (by decide)).trans (hresume.same .sp (by decide))
    · exact (hwrites.same .spPoison (by decide)).trans (hresume.same .spPoison (by decide))
    · rw [(hgood h).1]
      exact ⟨rfl, rfl, (hgood h).2⟩
    · rw [hbad h]
      exact ⟨rfl, rfl⟩
    · exact (hwrites.same .hostMem (by decide)).trans (hresume.same .hostMem (by decide))
    · exact (hwrites.same .job (by decide)).trans (hresume.same .job (by decide))
  · rw [exec, execPorReleaseBoot, live_next hlost, if_neg]
    rintro ⟨hpor, hao⟩
    exact h.elim (by simp [hpor]) (by simp [hao])
  · obtain ⟨hgood, hbad, hwrites⟩ := boot_result io v s
    have hexec : exec (.bootRetry io v) s = .next (boot io v s) := by
      rw [exec, execBootRetry, live_next hlost, if_pos ⟨hfail, by simp [hpor], by simp [hao]⟩]
    refine ⟨_, hexec, fun h => ?_, fun h => ?_, hwrites.eq_mix⟩
    · rw [(hgood h).1]
      exact ⟨rfl, rfl, (hgood h).2⟩
    · rw [hbad h]
      exact ⟨rfl, rfl⟩
  · rw [exec, execBootRetry, live_next hlost, if_neg]
    rintro ⟨hfail, hpor, hao⟩
    obtain h | h | h := h
    · simp [hfail] at h
    · exact hpor h
    · exact hao h
  · obtain ⟨broken, status, hvault⟩ := aoReleased_vault ok crc s
    have hrst : (vaultRecover (aoReleased ok crc s)).rst = { s.rst with aoHeld := false } :=
      ((vaultRecover_writes _).same .rst (by decide)).trans ((aoReleased_writes ok crc s).same .rst (by decide))
    have hkt : (vaultRecover (aoReleased ok crc s)).kt = 0 :=
      ((vaultRecover_writes _).same .kt (by decide)).trans ((aoReleased_writes ok crc s).same .kt (by decide))
    obtain ⟨hnonces, hsum, -⟩ := vaultRecover_figures (aoReleased ok crc s)
    have hbest : vaultBest (aoReleased ok crc s).vault = vaultBest s.vault := by
      rw [hvault]
      rfl
    refine ⟨_, exec_aoPorRelease hlost hheld hwait hbrace, ?_⟩
    beta_reduce
    rw [hrst, hkt, hnonces, hsum]
    rw [hvault]
    refine ⟨rfl, rfl, rfl, rfl, fun hnone => ?_, fun c r hcopies => ?_⟩
    · rw [vaultRecover_none (hbest.trans hnone)]
      obtain ⟨hnum, hfresh, hassocs, -⟩ := vaultFresh_result (aoReleased ok crc s)
      exact ⟨hnum, hfresh, hassocs⟩
    · obtain ⟨hnum, hrecovered, hseq, -⟩ := vaultRecover_copy_result (hbest.trans hcopies)
      exact ⟨hnum, hrecovered, hseq⟩
  · rw [exec, execAoPorRelease, live_next hlost, if_neg (by simp [hheld])]
  · rw [exec, execRootLockLoss, live_next hlost, if_neg (by simp [hheld])]
  · rw [exec, execRootLockLoss, live_next hlost, if_pos hheld]

end Sys2Proof.Machine
end

section
/-! PROOFS. Brace: the warning, sealing, the hold-off and the supply reset (R54, R55, R434 to R437, R466). -/

namespace Sys2Proof.Machine

-- One declaration at a time: see the frames of the state's operations.
set_option Elab.async false

/-! ### What the planner leaves of brace -/

/-- Of the power state only the skip count in force changes, and while AO writes are on no log entry waits that did not wait
before. -/
structure PlanKeeps (s t : State) : Prop where
  brace : t.pwr.brace = s.pwr.brace
  warn : t.pwr.warn = s.pwr.warn
  cleared : t.pwr.cleared = s.pwr.cleared
  resetPin : t.pwr.resetPin = s.pwr.resetPin
  rst : t.rst = s.rst
  waits : s.rst.aoStopped = false → t.rlogWait = s.rlogWait

namespace PlanKeeps

theorem refl (s : State) : PlanKeeps s s := ⟨rfl, rfl, rfl, rfl, rfl, fun _ => rfl⟩

theorem trans {s t u : State} (hst : PlanKeeps s t) (htu : PlanKeeps t u) : PlanKeeps s u :=
  ⟨htu.brace.trans hst.brace, htu.warn.trans hst.warn, htu.cleared.trans hst.cleared, htu.resetPin.trans hst.resetPin,
    htu.rst.trans hst.rst, fun h => (htu.waits (by rwa [hst.rst])).trans (hst.waits h)⟩

theorem ite {c : Prop} [Decidable c] {s t u : State} (ht : c → PlanKeeps s t) (hu : ¬ c → PlanKeeps s u) :
    PlanKeeps s (if c then t else u) := by
  split_ifs with h
  · exact ht h
  · exact hu h

theorem foldl {α : Type} {f : State → α → State} (hf : ∀ t x, PlanKeeps t (f t x)) (l : List α) (s : State) :
    PlanKeeps s (l.foldl f s) :=
  List.foldlRecOn (motive := PlanKeeps s) _ _ (.refl s) fun t ht x _ => ht.trans (hf t x)

end PlanKeeps

theorem Writes.planKeeps {l : List Fld} {s t : State} (h : Writes l s t)
    (hl : .pwr ∉ l ∧ .rst ∉ l ∧ .rlogWait ∉ l := by decide) : PlanKeeps s t := by
  obtain ⟨hpwr, hrst, hwait⟩ := hl
  have hsame := h.same .pwr hpwr
  exact ⟨by rw [hsame], by rw [hsame], by rw [hsame], by rw [hsame], h.same .rst hrst, fun _ => h.same .rlogWait hwait⟩

theorem logAdd_planKeeps (kind body : Nat) (s : State) : PlanKeeps s (logAdd kind body s) := by
  have hwrites := logAdd_writes kind body s
  have hpwr := hwrites.same .pwr (by decide)
  refine ⟨by rw [hpwr], by rw [hpwr], by rw [hpwr], by rw [hpwr], hwrites.same .rst (by decide), fun hon => ?_⟩
  rw [logAdd, if_neg (by simp [hon])]
  exact (logPut_writes ..).same .rlogWait (by decide)

theorem phaseTo_planKeeps (p : PlanPhase) (s : State) : PlanKeeps s (phaseTo p s) := (phaseTo_writes p s).planKeeps

theorem ledgerAdd_planKeeps (action cause value place : Nat) (s : State) : PlanKeeps s (ledgerAdd action cause value place s) :=
  (ledgerAdd_writes ..).planKeeps

theorem vddTo_planKeeps (code : Nat) (s : State) : PlanKeeps s (vddTo code s) := by
  unfold vddTo
  extract_lets c up s₁
  have hledger : PlanKeeps s s₁ := ledgerAdd_planKeeps ..
  exact hledger.trans ⟨rfl, rfl, rfl, rfl, rfl, fun _ => rfl⟩

theorem skipTo_planKeeps (n : Nat) (s : State) : PlanKeeps s (skipTo n s) := by
  unfold skipTo
  extract_lets s₁
  have hledger : PlanKeeps s s₁ := ledgerAdd_planKeeps ..
  exact hledger.trans ⟨rfl, rfl, rfl, rfl, rfl, fun _ => rfl⟩

theorem emitExhausted_planKeeps (s : State) : PlanKeeps s (emitExhausted s) :=
  (ledgerAdd_planKeeps ..).trans (emit_writes ..).planKeeps

theorem planEnd_planKeeps (s : State) : PlanKeeps s (planEnd s) := by
  unfold planEnd
  extract_lets p short third s₁ _ s₂ tell s₃ s₄ _ s₅ s₆ n
  have h₁ : PlanKeeps s s₁ := (planBaseline_writes s).planKeeps
  have hcounted : Writes [.plan] s₁ s₂ := .of_mix rfl
  have h₂ : PlanKeeps s s₂ := h₁.trans hcounted.planKeeps
  have h₃ : PlanKeeps s s₃ := .ite (fun _ => h₂.trans (emit_writes ..).planKeeps) (fun _ => h₂)
  have h₄ : PlanKeeps s s₄ := .ite (fun _ => h₃.trans (logAdd_planKeeps ..)) (fun _ => h₃)
  have hexhausted : Writes [.plan] s₄ { s₄ with plan := { s₄.plan with exhausted := true } } := .of_mix rfl
  have h₅ : PlanKeeps s s₅ :=
    .ite (fun _ => (h₄.trans hexhausted.planKeeps).trans (emitExhausted_planKeeps _)) (fun _ => h₄)
  have h₆ : PlanKeeps s s₆ := .ite (fun _ => h₅.trans (ledgerAdd_planKeeps ..)) (fun _ => h₅)
  exact .ite (fun _ => .trans (.ite (fun _ => h₆.trans (skipTo_planKeeps ..)) (fun _ => h₆)) (phaseTo_planKeeps ..))
    (fun _ => h₆)

theorem planAct_planKeeps (s : State) : PlanKeeps s (planAct s).1 := by
  have hphase (p : PlanPhase) : PlanKeeps s (phaseTo p s) := phaseTo_planKeeps ..
  have hvdd (p : PlanPhase) (code : Nat) : PlanKeeps s (phaseTo p (vddTo code s)) :=
    (vddTo_planKeeps ..).trans (phaseTo_planKeeps ..)
  unfold planAct
  extract_lets p
  split
  · split
    · exact .refl s
    · refine .trans ?_ (planBegin_writes ..).planKeeps
      exact ⟨rfl, rfl, rfl, rfl, rfl, fun _ => rfl⟩
  · split_ifs
    · exact vddTo_planKeeps ..
    · exact vddTo_planKeeps ..
    · exact hvdd ..
    · exact hphase _
  · split_ifs
    · exact skipTo_planKeeps ..
    · exact hphase _
  · split_ifs
    · exact vddTo_planKeeps ..
    · exact hphase _
  · split_ifs
    · exact hvdd ..
    · exact hphase _
  · split_ifs
    · exact hvdd ..
    · exact hphase _
  · split
    · exact hphase _
    case h_2 k _ =>
      split_ifs
      · have hquiesce : PlanKeeps s (leaveSpray k .up (linkEnter k .quiescing s)) :=
          (linkEnter_writes ..).planKeeps.trans (leaveSpray_writes ..).planKeeps
        generalize leaveSpray k .up (linkEnter k .quiescing s) = t at hquiesce
        have hretrained : Writes [.plan] t { t with plan := { t.plan with linkAt := k, retrained := true } } := .of_mix rfl
        exact (hquiesce.trans hretrained.planKeeps).trans (phaseTo_planKeeps ..)
      · exact .refl s
  · have hnext : PlanKeeps s { s with plan := { s.plan with linkAt := p.linkAt + 1 } } :=
      ⟨rfl, rfl, rfl, rfl, rfl, fun _ => rfl⟩
    split
    · exact (hnext.trans (ledgerAdd_planKeeps ..)).trans (phaseTo_planKeeps ..)
    · exact hnext.trans (phaseTo_planKeeps ..)
    · exact hnext.trans (phaseTo_planKeeps ..)
    · exact .refl s
  · split_ifs
    · exact skipTo_planKeeps ..
    · exact planEnd_planKeeps s
  · split_ifs
    · exact vddTo_planKeeps ..
    · exact hphase _

theorem planRun_planKeeps (n : Nat) (s : State) : PlanKeeps s (planRun n s) := by
  induction n generalizing s with
  | zero => exact .refl s
  | succ n ih =>
    have hact := planAct_planKeeps s
    rw [planRun]
    split
    case h_1 hgo =>
      rw [hgo] at hact
      exact hact.trans (ih _)
    case h_2 hwait =>
      rw [hwait] at hact
      exact hact

theorem planGo_planKeeps (s : State) : PlanKeeps s (planGo s) := .ite (fun _ => .refl s) (fun _ => planRun_planKeeps 64 s)

theorem planRequest_planKeeps (cause : Nat) (s : State) : PlanKeeps s (planRequest cause s) := by
  unfold planRequest
  extract_lets idle _ s₁
  have hpending : PlanKeeps s s₁ := ⟨rfl, rfl, rfl, rfl, rfl, fun _ => rfl⟩
  exact .ite (fun _ => hpending.trans (planGo_planKeeps _)) (fun _ => hpending)

theorem escalateNow_planKeeps (s : State) : PlanKeeps s (escalateNow s) := by
  unfold escalateNow
  refine .ite (fun _ => emitExhausted_planKeeps s) (fun _ => ?_)
  extract_lets _ _ s₁
  have hstep : PlanKeeps s s₁ := ⟨rfl, rfl, rfl, rfl, rfl, fun _ => rfl⟩
  exact (hstep.trans (ledgerAdd_planKeeps ..)).trans (planRequest_planKeeps ..)

theorem escalate_planKeeps (s : State) : PlanKeeps s (escalate s) :=
  .ite (fun _ => ⟨rfl, rfl, rfl, rfl, rfl, fun _ => rfl⟩) (fun _ => escalateNow_planKeeps s)

theorem planUnbrace_planKeeps (s : State) : PlanKeeps s (planUnbrace s) := by
  unfold planUnbrace
  extract_lets n _ s₁
  have hpending : PlanKeeps s s₁ := ⟨rfl, rfl, rfl, rfl, rfl, fun _ => rfl⟩
  exact (hpending.trans (.foldl (fun t _ => escalateNow_planKeeps t) _ _)).trans (planGo_planKeeps _)

theorem escPut_planKeeps (kt : Nat) (s : State) : PlanKeeps s (escPut kt s) := by
  unfold escPut
  extract_lets w l s₁
  have hcounted : PlanKeeps s s₁ := (ctrInc_writes ..).planKeeps
  have hresets (r : List Nat) : Writes [.esc] s₁ { s₁ with esc := { s₁.esc with resets := r } } := .of_mix rfl
  exact .ite (fun _ => (hcounted.trans (hresets []).planKeeps).trans (escalate_planKeeps _))
    (fun _ => hcounted.trans (hresets l).planKeeps)

theorem aoPut_planKeeps (s : State) (w : AoWrite) : PlanKeeps s (aoPut s w) := by
  cases w with
  | ledger r => exact ⟨rfl, rfl, rfl, rfl, rfl, fun _ => rfl⟩
  | step n => exact ⟨rfl, rfl, rfl, rfl, rfl, fun _ => rfl⟩
  | advisory => exact ⟨rfl, rfl, rfl, rfl, rfl, fun _ => rfl⟩
  | header h => exact ⟨rfl, rfl, rfl, rfl, rfl, fun _ => rfl⟩
  | reset kt => exact escPut_planKeeps ..

/-! ### AO writes resume -/

theorem logResume_empty (s : State) : (logResume s).rlogWait = [] := by
  have hput : Writes [.rlog, .rlogSeq] { s with rlogWait := [] } (logResume s) := by
    unfold logResume
    exact .foldl (fun t e => logPut_writes e t) _ _
  exact hput.same .rlogWait (by decide)

theorem aoWritten_planKeeps (s : State) : PlanKeeps (logResume s) (aoWritten s) := by
  unfold aoWritten
  generalize logResume s = t
  have hempty : Writes [.aoWait] t { t with aoWait := [] } := .of_mix rfl
  have hput (l : List AoWrite) (u : State) : PlanKeeps u (l.foldl aoPut u) := .foldl aoPut_planKeeps l u
  exact hempty.planKeeps.trans (hput ..)

/-- AO writes are on, and nothing is owed to them (R55). -/
theorem aoResume_result (s : State) : (aoResume s).pwr.brace = s.pwr.brace ∧ (aoResume s).pwr.warn = s.pwr.warn ∧
    (aoResume s).pwr.resetPin = s.pwr.resetPin ∧ (aoResume s).rst = { s.rst with aoStopped := false } ∧
    (aoResume s).rlogWait = [] ∧ (aoResume s).vault.owed = false := by
  have hkeeps := aoWritten_planKeeps (aoOn s)
  have hlog := logResume_writes (aoOn s)
  have hpwr : (logResume (aoOn s)).pwr = s.pwr := hlog.same .pwr (by decide)
  have hrst : (logResume (aoOn s)).rst = { s.rst with aoStopped := false } := hlog.same .rst (by decide)
  have hon : (logResume (aoOn s)).rst.aoStopped = false := by rw [hrst]
  have hstopped : (aoWritten (aoOn s)).rst = { s.rst with aoStopped := false } := hkeeps.rst.trans hrst
  have hbrace : (aoWritten (aoOn s)).pwr.brace = s.pwr.brace := hkeeps.brace.trans (by rw [← hpwr])
  have hwarn : (aoWritten (aoOn s)).pwr.warn = s.pwr.warn := hkeeps.warn.trans (by rw [← hpwr])
  have hpin : (aoWritten (aoOn s)).pwr.resetPin = s.pwr.resetPin := hkeeps.resetPin.trans (by rw [← hpwr])
  have hwaits : (aoWritten (aoOn s)).rlogWait = [] := (hkeeps.waits hon).trans (logResume_empty _)
  rw [aoResume_eq]
  split_ifs with howed
  · have hvault := vaultWriteAll_writes (aoWritten (aoOn s))
    have hdone : (vaultWriteAll (aoWritten (aoOn s))).vault.owed = false := by
      rw [vaultWriteAll, if_neg (by simp [hstopped])]
    have hsame := hvault.same .pwr (by decide)
    exact ⟨by rw [hsame, hbrace], by rw [hsame, hwarn], by rw [hsame, hpin], (hvault.same .rst (by decide)).trans hstopped,
      (hvault.same .rlogWait (by decide)).trans hwaits, hdone⟩
  · exact ⟨hbrace, hwarn, hpin, hstopped, hwaits, by simpa using howed⟩

/-! ### Vault's copies while AO writes are stopped -/

/-- While AO writes are stopped, no copy of Vault changes (R55). -/
structure CopiesStay (s t : State) : Prop where
  rst : t.rst = s.rst
  copies : s.rst.aoStopped = true → t.vault.copies = s.vault.copies

namespace CopiesStay

theorem refl (s : State) : CopiesStay s s := ⟨rfl, fun _ => rfl⟩

theorem trans {s t u : State} (hst : CopiesStay s t) (htu : CopiesStay t u) : CopiesStay s u :=
  ⟨htu.rst.trans hst.rst, fun h => (htu.copies (by rwa [hst.rst])).trans (hst.copies h)⟩

theorem foldl {α : Type} {f : State → α → State} (hf : ∀ t x, CopiesStay t (f t x)) (l : List α) (s : State) :
    CopiesStay s (l.foldl f s) :=
  List.foldlRecOn (motive := CopiesStay s) _ _ (.refl s) fun t ht x _ => ht.trans (hf t x)

end CopiesStay

theorem Writes.copiesStay {l : List Fld} {s t : State} (h : Writes l s t) (hl : .rst ∉ l ∧ .vault ∉ l := by decide) :
    CopiesStay s t := by
  obtain ⟨hrst, hvault⟩ := hl
  exact ⟨h.same .rst hrst, fun _ => by rw [h.same .vault hvault]⟩

theorem vaultWrite_copiesStay (s : State) : CopiesStay s (vaultWrite s) := by
  refine ⟨(vaultWrite_writes s).same .rst (by decide), fun h => ?_⟩
  rw [vaultWrite, if_pos h]

theorem vaultSettle_copiesStay (cancelled : Bool) (c : VCounts) (s : State) : CopiesStay s (vaultSettle cancelled c s) := by
  refine .trans ?_ (vaultWrite_copiesStay _)
  exact ⟨rfl, fun _ => rfl⟩

theorem ctxSettle_copiesStay (cancelled : Bool) (i : Nat) (s : State) : CopiesStay s (ctxSettle cancelled i s) := by
  unfold ctxSettle
  split
  · exact .refl s
  · refine .trans ?_ (vaultSettle_copiesStay ..)
    exact ⟨rfl, fun _ => rfl⟩

theorem settleAll_copiesStay (s : State) : CopiesStay s (settleAll s) := by
  unfold settleAll
  extract_lets settled
  have hsettled : CopiesStay s settled := .foldl (fun t i => by
    split_ifs
    · exact ctxSettle_copiesStay ..
    · exact .refl t) _ s
  clear_value settled
  refine .trans ?_ (.foldl (fun t x => ?_) _ _)
  · exact hsettled.trans ⟨rfl, fun _ => rfl⟩
  · split_ifs
    · exact .refl t
    · exact vaultSettle_copiesStay ..

/-! ### The supply fault -/

/-- The commands of a job that the supply reset faults have ended (R437). -/
def supplyEnded (s : State) : State :=
  let held := endHeldAll (fun h => decide (h.why ≠ .after)) 0x0602 s
  (held.latch.opened.filter (·.jobScope)).foldl (fun t c => endOpen 0x0401 c t) held

/-- And its counts are settled and its waits for a cell ended. -/
def supplySettled (s : State) : State := endWaits CellWait.ofJob (settleAll (supplyEnded s))

theorem enterFaulted_supply (e : Event) (s : State) : enterFaulted true e s = faultedBy e (supplySettled s) := by
  unfold enterFaulted supplySettled supplyEnded
  simp only [if_true]
  rfl

theorem supplyEnded_writes (s : State) : Writes [.latch, .drip] s (supplyEnded s) := by
  unfold supplyEnded
  extract_lets held
  have hheld : Writes [.latch, .drip] s held := endHeldAll_writes ..
  exact hheld.trans (.foldl (fun t c => endOpen_writes 0x0401 c t) _ held)

theorem supplyEnded_held {s : State} {h : Held} (hh : h ∈ (supplyEnded s).latch.held) : h.why = .after := by
  unfold supplyEnded at hh
  rw [foldl_endOpen_held] at hh
  simpa using (mem_endHeldAll hh).2

theorem supplySettled_writes (s : State) : Writes endFields s (supplySettled s) :=
  .after (endWaits_writes ..) (.after (settleAll_writes _) (supplyEnded_writes s).mono)

theorem supplySettled_latch (s : State) : (supplySettled s).latch = (supplyEnded s).latch := by
  have hwrites : Writes [.slots, .duties, .vault, .carafe, .counters] (supplyEnded s) (supplySettled s) :=
    .after (endWaits_writes ..) (settleAll_writes _).mono
  exact hwrites.same .latch (by decide)

theorem supplyFault_writes (e : Event) (s : State) : Writes enterFields s (supplyFault e s) := by
  unfold supplyFault
  split
  · exact (endHeldAll_writes ..).mono
  · exact .after (ctrInc_writes ..) (endHeldAll_writes ..).mono
  · rw [enterFaulted_supply]
    exact .after (faultedBy_writes ..) (supplySettled_writes s).mono

theorem supplyFault_copiesStay (e : Event) (s : State) : CopiesStay s (supplyFault e s) := by
  unfold supplyFault
  split
  · exact (endHeldAll_writes ..).copiesStay
  · exact (endHeldAll_writes ..).copiesStay.trans (ctrInc_writes ..).copiesStay
  · rw [enterFaulted_supply, supplySettled]
    exact (((supplyEnded_writes s).copiesStay.trans (settleAll_copiesStay _)).trans (endWaits_writes ..).copiesStay).trans
      (faultedBy_writes ..).copiesStay

/-- The supply reset faults a job, and ends every command but what waits for `after` (R437). -/
theorem supplyFault_result (e : Event) (s : State) : (s.job.st ≠ .closed → (supplyFault e s).job.st = .faulted) ∧
    (s.job.st = .closed → (supplyFault e s).job = s.job) ∧ ∀ h ∈ (supplyFault e s).latch.held, h.why = .after := by
  have hended {h : Held} (hh : h ∈ (endHeldAll (fun h => decide (h.why ≠ .after)) 0x0602 s).latch.held) : h.why = .after := by
    simpa using (mem_endHeldAll hh).2
  have hjob := (endHeldAll_writes (fun h => decide (h.why ≠ .after)) 0x0602 s).same .job (by decide)
  unfold supplyFault
  split
  case h_1 hclosed => exact ⟨fun h => absurd hclosed h, fun _ => hjob, fun h hh => hended hh⟩
  case h_2 hfaulted =>
    refine ⟨fun _ => ?_, fun h => absurd (h.symm.trans hfaulted) (by decide), fun h hh => hended hh⟩
    exact (congrArg Job.st hjob).trans hfaulted
  case h_3 hne _ =>
    refine ⟨fun _ => rfl, fun h => absurd h hne, fun h hh => supplyEnded_held (s := s) ?_⟩
    rw [enterFaulted_supply, (faultedBy_writes ..).same .latch (by decide), supplySettled_latch] at hh
    exact hh

/-! ### Brace is entered and left -/

theorem braceTo_writes (b : BraceState) (s : State) : Writes [.pwr, .drip] s (braceTo b s) :=
  .after (dripAt_writes ..) (.of_mix rfl)

theorem braceTo_pwr (b : BraceState) (s : State) : (braceTo b s).pwr = { s.pwr with brace := b } :=
  (dripAt_writes ..).same .pwr (by decide)

/-- Brace is left: the state before the planner goes on (R434). -/
def braceLeft (s : State) : State :=
  emit 0x0004 unitPower (min (2 ^ 32 - 1) (nsOf (s.kt - s.pwr.entryKt) / 1000))
    (braceTo .normal { s with pwr := { s.pwr with warn := false, holdoff := false, cleared := false } })

theorem braceLeft_result (s : State) :
    (braceLeft s).pwr = { s.pwr with brace := .normal, warn := false, holdoff := false, cleared := false } ∧
    (braceLeft s).latch = s.latch := by
  let t := { s with pwr := { s.pwr with warn := false, holdoff := false, cleared := false } }
  have hemit : Writes [.ev, .counters, .drip] (braceTo .normal t) (braceLeft s) := emit_writes ..
  refine ⟨(hemit.same .pwr (by decide)).trans (braceTo_pwr ..), ?_⟩
  exact (hemit.same .latch (by decide)).trans ((braceTo_writes .normal t).same .latch (by decide))

theorem braceLeave_eq (s : State) : braceLeave s = planUnbrace (unbraceAll (braceLeft s)) := rfl

/-- Where brace holds no command, leaving it leads to Normal (R434, R436). -/
theorem braceLeave_result {s : State} (h : ∀ x ∈ s.latch.held, x.why ≠ .brace) :
    (braceLeave s).pwr.brace = .normal ∧ (braceLeave s).pwr.warn = false ∧ (braceLeave s).pwr.cleared = false := by
  obtain ⟨hpwr, hlatch⟩ := braceLeft_result s
  rw [braceLeave_eq, unbraceAll_none (by rwa [hlatch])]
  have hkeeps := planUnbrace_planKeeps (braceLeft s)
  rw [hkeeps.brace, hkeeps.warn, hkeeps.cleared, hpwr]
  exact ⟨rfl, rfl, rfl⟩

theorem braceTry_stays {s : State} (h : ¬ (s.pwr.brace = .braced ∧ s.pwr.cleared = true ∧ s.pwr.warn = false)) :
    braceTry s = s := if_neg h

theorem braceTry_leaves {s : State} (h : s.pwr.brace = .braced ∧ s.pwr.cleared = true ∧ s.pwr.warn = false) :
    braceTry s = braceLeave s := if_pos h

/-! ### Sealing -/

theorem sealBroken_writes (va err : Nat) (s : State) :
    Writes [.keyway, .counters, .mport, .hostMem, .freeCtr] s (sealBroken va err s) := by
  have hrange := xlateRange_writes s 0 va 512 true
  unfold sealBroken
  split
  case h_1 hfailed =>
    rw [hfailed] at hrange
    exact hrange.mono
  case h_2 hok =>
    rw [hok] at hrange
    exact .after (writeBroken_writes ..) hrange.mono

/-- EV_BRACE: the reading is written (R434). -/
def braceTold (s : State) : State := emit 0x0003 unitPower s.pwr.entryVin (braceTo .braced s)

theorem braceTold_writes (s : State) : Writes [.pwr, .drip, .ev, .counters] s (braceTold s) :=
  .after (emit_writes ..) (braceTo_writes ..).mono

theorem braceTold_pwr (s : State) : (braceTold s).pwr = { s.pwr with brace := .braced } := by
  rw [← braceTo_pwr]
  exact (emit_writes ..).same .pwr (by decide)

theorem braceTold_seq (s : State) : (braceTold s).ev.seq = (s.ev.seq + 1) % 65536 := by
  rw [braceTold, emit_seq, (braceTo_writes ..).same .ev (by decide)]

/-- The reading's write was answered with an error (R466). -/
def braceFailed (e : Nat) (s : State) : State := vaultStatus 4 (braceTold (sealBroken (getP s 0x0023) e s))

/-- What the reading's response writes. -/
def sealedFields : List Fld := [.pwr, .drip, .ev, .counters, .keyway, .mport, .hostMem, .freeCtr, .vault]

theorem braceFailed_writes (e : Nat) (s : State) : Writes sealedFields s (braceFailed e s) :=
  .after (vaultStatus_writes ..) (.after (braceTold_writes _) (sealBroken_writes ..).mono)

theorem braceFailed_pwr (e : Nat) (s : State) : (braceFailed e s).pwr = { s.pwr with brace := .braced } := by
  rw [braceFailed, (vaultStatus_writes ..).same .pwr (by decide), braceTold_pwr, (sealBroken_writes ..).same .pwr (by decide)]

theorem vaultStatus_bit (b : Nat) (s : State) : bit (vaultStatus b s).vault.status b = true := by
  by_cases hset : bit s.vault.status b = true
  · rwa [vaultStatus_of_set hset]
  · rw [(vaultStatus_of_clear (Bool.eq_false_iff.2 hset)).1]
    exact bit_or_self ..

theorem exec_braceSealed {e : Nat} {s : State} (hlost : s.rst.rootLost = false) (hseal : s.pwr.brace = .sealing) :
    exec (.braceSealed e) s =
      .next (braceTry (if e ≠ 0 ∧ getP s 0x0023 ≠ 0 then braceFailed e s else braceTold s)) := by
  rw [exec, execBraceSealed, live_next hlost, if_pos hseal]
  by_cases hbad : e ≠ 0 ∧ getP s 0x0023 ≠ 0
  · simp only [hbad, ne_eq, not_false_eq_true, and_self, decide_true, if_true]
    rfl
  · simp only [hbad, decide_false, Bool.false_eq_true, if_false]
    rfl

/-! ### The supply reset -/

/-- kw_pwr_reset has risen with the block out of reset: AO writes stop, and brace is Reset-warned (R55, R437). -/
def supplyRisen (s : State) : State :=
  braceTo .resetWarned { s with
    rst := { s.rst with aoStopped := true }, pwr := { s.pwr with resetPin := true, holdoff := false, cleared := false } }

/-- Brace entered from Normal keeps its time and the sampled voltage. -/
def supplyOpened (s : State) : State :=
  let r := sampleVin (supplyRisen s)
  if s.pwr.brace = .normal then { r.1 with pwr := { r.1.pwr with entryKt := r.1.kt, entryVin := r.2 } } else r.1

/-- The event of the supply reset (R437). -/
def supplyEvent (s : State) : Event := faultEvent (supplyOpened s) 2 unitPower (sampleVin (supplyRisen s)).2 Where.none

/-- The event is out, and the job faulted by it. -/
def supplyDone (s : State) : State := supplyFault (supplyEvent s) (evSend (supplyEvent s) (supplyOpened s))

theorem supplyOpened_writes (s : State) : Writes [.freeCtr, .pwr] (supplyRisen s) (supplyOpened s) :=
  .ite (fun _ => .of_mix rfl) (fun _ => .of_mix rfl)

theorem supplyOpened_pwr (s : State) : (supplyOpened s).pwr.brace = .resetWarned ∧ (supplyOpened s).pwr.resetPin = true ∧
    (supplyOpened s).pwr.holdoff = false := by
  have hpwr : (supplyRisen s).pwr = { s.pwr with brace := .resetWarned, resetPin := true, holdoff := false, cleared := false } :=
    braceTo_pwr ..
  have hsample : (sampleVin (supplyRisen s)).1.pwr = (supplyRisen s).pwr := rfl
  unfold supplyOpened
  extract_lets r
  split_ifs
  · exact ⟨congrArg Power.brace (hsample.trans hpwr), congrArg Power.resetPin (hsample.trans hpwr),
      congrArg Power.holdoff (hsample.trans hpwr)⟩
  · exact ⟨congrArg Power.brace (hsample.trans hpwr), congrArg Power.resetPin (hsample.trans hpwr),
      congrArg Power.holdoff (hsample.trans hpwr)⟩

theorem exec_pwrResetRise {s : State} (hlost : s.rst.rootLost = false) (hpin : s.pwr.resetPin = false)
    (hao : s.rst.aoHeld = false) (hpor : s.rst.porHeld = false) :
    exec .pwrResetRise s = .next (logAdd 0x0006 (supplyEvent s).word (supplyDone s)) := by
  rw [exec, execPwrResetRise, live_next hlost, if_neg (by simp [hpin, hao])]
  exact congrArg Host.Outcome.next (if_neg (by simp [hpor]))

/-- What stands while the supply reset faults the job. -/
theorem supplyDone_writes (s : State) : Writes (.freeCtr :: .pwr :: .ev :: enterFields) (supplyRisen s) (supplyDone s) :=
  .after (supplyFault_writes ..) (.after (evSend_writes ..) (supplyOpened_writes s).mono)

theorem supplyRisen_rst (s : State) : (supplyRisen s).rst = { s.rst with aoStopped := true } :=
  (braceTo_writes ..).same .rst (by decide)

theorem supplyDone_copies (s : State) : (supplyDone s).vault.copies = s.vault.copies := by
  have hrisen : (supplyRisen s).vault = s.vault := (braceTo_writes ..).same .vault (by decide)
  have hstay : CopiesStay (supplyRisen s) (supplyDone s) :=
    ((supplyOpened_writes s).copiesStay.trans (evSend_writes ..).copiesStay).trans (supplyFault_copiesStay ..)
  rw [hstay.copies (by rw [supplyRisen_rst]), hrisen]

/-! ### The obligation -/

theorem holdoffStart_bracing {s : State} (h : s.pwr.brace = .bracing) :
    Writes [.pwr] s (holdoffStart s) ∧ (holdoffStart s).pwr.brace = .bracing ∧ (holdoffStart s).pwr.warn = false ∧
    (holdoffStart s).pwr.resetPin = s.pwr.resetPin := by
  have hstays : braceTry { s with pwr := { s.pwr with warn := false, holdoff := false, cleared := true } } =
      { s with pwr := { s.pwr with warn := false, holdoff := false, cleared := true } } :=
    braceTry_stays (by simp [h])
  rw [holdoffStart, hstays]
  split_ifs
  · exact ⟨.of_mix rfl, h, rfl, rfl⟩
  · exact ⟨.of_mix rfl, h, rfl, rfl⟩

/-- The reading that sealing signs (R435, R466). -/
def sealSigned (s : State) : State × List Byte :=
  let t := vaultWriteAll (braceTo .sealing s)
  signReading t.vault.cur false true t

/-- It goes to vault.brace_va, unless that is 0. -/
def sealWritten (s : State) : State :=
  match hostWrite (sealSigned s).1 0 (getP s 0x0023) (sealSigned s).2 with
  | (t, .error _) => vaultStatus 4 t
  | (t, .ok _) => t

theorem sealSigned_writes (s : State) : Writes [.pwr, .drip, .vault] s (sealSigned s).1 :=
  .after (signReading_writes ..) (.after (vaultWriteAll_writes _) (braceTo_writes ..).mono)

theorem sealSigned_result (s : State) : (sealSigned s).1.pwr.brace = .sealing ∧
    (sealSigned s).1.vault.readingSeq = (s.vault.readingSeq + 1) % 2 ^ 64 ∧
    (sealSigned s).1.vault.nonces = s.vault.nonces - 1 := by
  unfold sealSigned
  extract_lets t
  have ht : t = vaultWriteAll (braceTo .sealing s) := rfl
  clear_value t
  obtain ⟨copies, seq, owed, hvault⟩ := vaultWriteAll_vault (braceTo .sealing s)
  rw [(braceTo_writes ..).same .vault (by decide), ← ht] at hvault
  have hpwr : t.pwr = { s.pwr with brace := .sealing } := by
    rw [ht, (vaultWriteAll_writes _).same .pwr (by decide), braceTo_pwr]
  obtain ⟨-, hseq, hnonces, -⟩ := signReading_figures t.vault.cur false true t
  refine ⟨?_, by rw [hseq, hvault], by rw [hnonces, hvault]⟩
  rw [(signReading_writes ..).same .pwr (by decide), hpwr]

theorem sealWritten_result (s : State) : Writes [.keyway, .hostMem, .vault, .ev, .counters, .drip] (sealSigned s).1 (sealWritten s) ∧
    (sealWritten s).vault.readingSeq = (sealSigned s).1.vault.readingSeq ∧
    (sealWritten s).vault.nonces = (sealSigned s).1.vault.nonces := by
  have hwrite := hostWrite_writes (sealSigned s).1 0 (getP s 0x0023) (sealSigned s).2
  have hvault := hwrite.same .vault (by decide)
  unfold sealWritten
  split
  case h_1 t _ hfailed =>
    rw [hfailed] at hwrite hvault
    obtain ⟨status, hstatus⟩ := vaultStatus_vault 4 t
    rw [hstatus]
    exact ⟨.after (vaultStatus_writes ..) hwrite.mono, (congrArg Vault.readingSeq hvault : t.vault.readingSeq = _),
      (congrArg Vault.nonces hvault : t.vault.nonces = _)⟩
  case h_2 t _ hok =>
    rw [hok] at hwrite hvault
    exact ⟨hwrite.mono, congrArg Vault.readingSeq hvault, congrArg Vault.nonces hvault⟩

theorem exec_braceInflightDone {s : State} (hlost : s.rst.rootLost = false) (h : s.pwr.brace = .bracing) :
    exec .braceInflightDone s = .next (if getP s 0x0023 = 0 then (sealSigned s).1 else sealWritten s) := by
  have hva : getP (sealSigned s).1 0x0023 = getP s 0x0023 := by
    rw [getP, getP, (sealSigned_writes s).same .params (by decide)]
  rw [exec, execBraceInflightDone, live_next hlost, if_pos h, sealWritten, ← hva]
  rfl

/-- The warning enters brace (R434). -/
def warnEntered (s : State) : State :=
  let r := sampleVin { s with pwr := { s.pwr with warn := true, holdoff := false, cleared := false } }
  braceTo .bracing { r.1 with pwr := { r.1.pwr with entryKt := r.1.kt, entryVin := r.2 } }

theorem warnEntered_result (s : State) : Writes [.pwr, .drip, .freeCtr] s (warnEntered s) ∧
    (warnEntered s).pwr =
      { s.pwr with brace := .bracing, entryKt := s.kt, entryVin := Config.freeVin s.freeCtr % 1024, warn := true,
                   holdoff := false, cleared := false } := by
  unfold warnEntered
  extract_lets r
  refine ⟨.after (braceTo_writes ..) ?_, braceTo_pwr ..⟩
  exact .of_mix rfl

theorem exec_pwrWarnActed {s : State} (hlost : s.rst.rootLost = false) (hpow : powered s = true) :
    exec .pwrWarnActed s = .next (if s.pwr.brace = .normal then warnEntered s
      else { s with pwr := { s.pwr with warn := true, holdoff := false, cleared := false } }) := by
  rw [exec, execPwrWarnActed, live_next hlost, if_pos hpow]
  rfl

/-- The supply reset has fallen: brace goes on from Bracing, and AO writes resume (R55, R434). -/
def supplyFallen (s : State) : State :=
  aoResume (braceTo .bracing { s with pwr := { s.pwr with resetPin := false, warn := true } })

theorem supplyFallen_result (s : State) : Writes (.rst :: aoFields) s (supplyFallen s) ∧ (supplyFallen s).pwr.brace = .bracing ∧
    (supplyFallen s).pwr.resetPin = false ∧ (supplyFallen s).pwr.warn = true ∧ (supplyFallen s).rst.aoStopped = false ∧
    (supplyFallen s).rlogWait = [] ∧ (supplyFallen s).vault.owed = false := by
  let t := { s with pwr := { s.pwr with resetPin := false, warn := true } }
  have hbracing : Writes (.rst :: aoFields) s (braceTo .bracing t) := by
    refine .after (braceTo_writes ..) ?_
    exact .of_mix rfl
  have hpwr : (braceTo .bracing t).pwr = { t.pwr with brace := .bracing } := braceTo_pwr ..
  have hfallen : supplyFallen s = aoResume (braceTo .bracing t) := rfl
  rw [hfallen]
  generalize braceTo .bracing t = u at hbracing hpwr
  obtain ⟨hbrace, hwarn, hpin, hrst, hwaits, howed⟩ := aoResume_result u
  have hon : Writes [.rst] u (aoOn u) := .of_mix rfl
  exact ⟨.after (aoResume_writes u) (hon.after hbracing), by rw [hbrace, hpwr], by rw [hpin, hpwr], by rw [hwarn, hpwr],
    by rw [hrst], hwaits, howed⟩

theorem exec_pwrResetFall {warn : Bool} {s : State} (hlost : s.rst.rootLost = false) (hpin : s.pwr.resetPin = true)
    (hbrace : s.pwr.brace = .resetWarned) :
    exec (.pwrResetFall warn) s = .next (if warn then supplyFallen s else holdoffStart (supplyFallen s)) := by
  rw [exec, execPwrResetFall, live_next hlost, if_pos hpin]
  exact congrArg Host.Outcome.next (if_pos hbrace)

/-- Settles O26. -/
theorem braceRowsComplete : Obligations.BraceRowsComplete := by
  unfold Obligations.BraceRowsComplete
  intro e warn s hlost
  refine ⟨fun hpow => ?_, fun hpow => ?_, fun hbrace => ?_, fun hbrace => ?_, fun hseal hlater => ?_,
    fun hseal hcleared hwarn hheld => ?_, fun hseal => ?_, fun hwarn => ⟨fun h => ?_, fun hreset hnormal hhold => ?_⟩,
    fun hwarn => ?_, fun hhold hstay => ?_, fun hhold hbraced hwarn => ⟨?_, fun hheld => ?_⟩, fun hhold => ?_,
    fun hpin hao hpor => ?_, fun hpin hao hpor => ?_, fun h => ?_, fun hpin hbrace => ?_, fun hpin hbrace => ?_, fun hpin => ?_⟩
  · have hexec := exec_pwrWarnActed hlost hpow
    by_cases hnormal : s.pwr.brace = .normal
    · rw [if_pos hnormal] at hexec
      refine ⟨_, hexec, ?_⟩
      beta_reduce
      obtain ⟨hwrites, hpwr⟩ := warnEntered_result s
      rw [hpwr]
      exact ⟨rfl, rfl, rfl, fun _ => ⟨rfl, rfl⟩, fun h => absurd hnormal h, by rw [← hpwr]; exact hwrites.eq_mix⟩
    · rw [if_neg hnormal] at hexec
      exact ⟨_, hexec, rfl, rfl, rfl, fun h => absurd h hnormal, fun _ => ⟨rfl, rfl⟩, rfl⟩
  · rw [exec, execPwrWarnActed, live_next hlost, if_neg (by simp [hpow])]
  · refine ⟨_, exec_braceInflightDone hlost hbrace, ?_⟩
    beta_reduce
    obtain ⟨hsealing, hseq, hnonces⟩ := sealSigned_result s
    have hsigned := sealSigned_writes s
    split_ifs with hva
    · exact ⟨hsealing, hseq, hnonces, fun _ => hsigned.same .hostMem (by decide), hsigned.same .job (by decide),
        hsigned.same .slots (by decide), hsigned.same .sp (by decide)⟩
    · obtain ⟨hwrites, hseq', hnonces'⟩ := sealWritten_result s
      exact ⟨by rw [hwrites.same .pwr (by decide), hsealing], hseq'.trans hseq, hnonces'.trans hnonces, fun h => absurd h hva,
        (hwrites.same .job (by decide)).trans (hsigned.same .job (by decide)),
        (hwrites.same .slots (by decide)).trans (hsigned.same .slots (by decide)),
        (hwrites.same .sp (by decide)).trans (hsigned.same .sp (by decide))⟩
  · rw [exec, execBraceInflightDone, live_next hlost, if_neg hbrace]
  · refine ⟨_, exec_braceSealed hlost hseal, ?_⟩
    beta_reduce
    split_ifs with hbad
    · have hwrites := braceFailed_writes e s
      have hpwr := braceFailed_pwr e s
      rw [braceTry_stays (by rw [hpwr]; exact fun h => hlater h.2), hpwr]
      refine ⟨rfl, fun _ _ => vaultStatus_bit .., fun h => ?_, hwrites.same .job (by decide), hwrites.same .sp (by decide)⟩
      exact absurd hbad (by simpa [imp_iff_not_or] using h)
    · have hwrites := braceTold_writes s
      have hpwr := braceTold_pwr s
      rw [braceTry_stays (by rw [hpwr]; exact fun h => hlater h.2), hpwr]
      exact ⟨rfl, fun he hva => absurd ⟨he, hva⟩ hbad,
        fun _ => ⟨hwrites.same .vault (by decide), hwrites.same .hostMem (by decide), braceTold_seq s⟩,
        hwrites.same .job (by decide), hwrites.same .sp (by decide)⟩
  · refine ⟨_, exec_braceSealed hlost hseal, ?_⟩
    beta_reduce
    have hready : ∃ u, (if e ≠ 0 ∧ getP s 0x0023 ≠ 0 then braceFailed e s else braceTold s) = u ∧
        u.pwr = { s.pwr with brace := .braced } ∧ u.latch = s.latch := by
      refine ⟨_, rfl, ?_⟩
      split_ifs
      · exact ⟨braceFailed_pwr e s, (braceFailed_writes e s).same .latch (by decide)⟩
      · exact ⟨braceTold_pwr s, (braceTold_writes s).same .latch (by decide)⟩
    obtain ⟨u, hu, hpwr, hlatch⟩ := hready
    rw [hu, braceTry_leaves (by rw [hpwr]; exact ⟨rfl, hcleared, hwarn⟩)]
    obtain ⟨hnormal, -, hclear⟩ := braceLeave_result (s := u) (by rwa [hlatch])
    exact ⟨hnormal, hclear⟩
  · rw [exec, execBraceSealed, live_next hlost, if_neg hseal]
  · rw [exec, execPwrWarnClear, live_next hlost, if_pos hwarn, if_pos h]
  · rw [exec, execPwrWarnClear, live_next hlost, if_pos hwarn, if_neg (by simp [hreset, hnormal]), holdoffStart, if_neg hhold]
  · rw [exec, execPwrWarnClear, live_next hlost, if_neg (by simp [hwarn])]
  · rw [exec, execBraceHoldoffExpiry, live_next hlost, if_pos hhold, braceTry_stays]
    rintro ⟨hbraced, -, hwarn⟩
    exact hstay.elim (fun h => h hbraced) (fun h => by simp [h] at hwarn)
  · rw [exec, execBraceHoldoffExpiry, live_next hlost, if_pos hhold]
    exact congrArg Host.Outcome.next (braceTry_leaves ⟨hbraced, rfl, hwarn⟩)
  · obtain ⟨hnormal, hclear, -⟩ := braceLeave_result hheld
    exact ⟨hnormal, hclear⟩
  · rw [exec, execBraceHoldoffExpiry, live_next hlost, if_neg (by simp [hhold])]
  · refine ⟨_, exec_pwrResetRise hlost hpin hao hpor, ?_⟩
    beta_reduce
    have hrisen : Writes [.pwr, .drip, .rst] s (supplyRisen s) := by
      refine .trans ?_ (braceTo_writes ..).mono
      exact .of_mix rfl
    have hdone := supplyDone_writes s
    have hopened := supplyOpened_writes s
    have hsent := evSend_writes (supplyEvent s) (supplyOpened s)
    have hlog := logAdd_writes 0x0006 (supplyEvent s).word (supplyDone s)
    have hstopped : (supplyDone s).rst.aoStopped = true := by
      rw [hdone.same .rst (by decide), supplyRisen_rst]
    have hpwr : (supplyDone s).pwr = (supplyOpened s).pwr :=
      ((supplyFault_writes ..).same .pwr (by decide)).trans (hsent.same .pwr (by decide))
    have hjob : (evSend (supplyEvent s) (supplyOpened s)).job = s.job :=
      (hsent.same .job (by decide)).trans ((hopened.same .job (by decide)).trans (hrisen.same .job (by decide)))
    obtain ⟨hbrace, hrose, hhold⟩ := supplyOpened_pwr s
    obtain ⟨hfault, hclosed, hheld⟩ := supplyFault_result (supplyEvent s) (evSend (supplyEvent s) (supplyOpened s))
    rw [hjob] at hfault hclosed
    rw [hlog.same .pwr (by decide), hlog.same .rst (by decide), hlog.same .job (by decide), hlog.same .latch (by decide),
      hlog.same .hostMem (by decide), hlog.same .sp (by decide), hlog.same .vault (by decide), hpwr, supplyDone_copies,
      logAdd, if_pos hstopped]
    refine ⟨hbrace, hrose, hhold, hstopped, ?_, rfl, ⟨_, List.getLast?_concat, rfl⟩, hfault, hclosed, hheld, ?_, ?_⟩
    · exact (hdone.same .rlog (by decide)).trans (hrisen.same .rlog (by decide))
    · exact (hdone.same .hostMem (by decide)).trans (hrisen.same .hostMem (by decide))
    · exact (hdone.same .sp (by decide)).trans (hrisen.same .sp (by decide))
  · rw [exec, execPwrResetRise, live_next hlost, if_neg (by simp [hpin, hao])]
    exact congrArg Host.Outcome.next (if_pos hpor)
  · rw [exec, execPwrResetRise, live_next hlost, if_pos h]
  · have hexec := exec_pwrResetFall (warn := warn) hlost hpin hbrace
    obtain ⟨hwrites, hbracing, hpin, hwarn, hon, hwaits, howed⟩ := supplyFallen_result s
    cases warn with
    | true =>
      rw [if_pos rfl] at hexec
      exact ⟨_, hexec, hbracing, hpin, hwarn, hon, hwaits, howed, hwrites.same .job (by decide),
        hwrites.same .hostMem (by decide)⟩
    | false =>
      rw [if_neg (by decide)] at hexec
      obtain ⟨hhold, hbracing', hwarn', hpin'⟩ := holdoffStart_bracing hbracing
      refine ⟨_, hexec, ?_⟩
      beta_reduce
      rw [hhold.same .rst (by decide), hhold.same .rlogWait (by decide), hhold.same .vault (by decide),
        hhold.same .job (by decide), hhold.same .hostMem (by decide)]
      exact ⟨hbracing', hpin'.trans hpin, hwarn', hon, hwaits, howed, hwrites.same .job (by decide),
        hwrites.same .hostMem (by decide)⟩
  · rw [exec, execPwrResetFall, live_next hlost, if_pos hpin]
    exact congrArg Host.Outcome.next (if_neg hbrace)
  · rw [exec, execPwrResetFall, live_next hlost, if_neg (by simp [hpin])]

end Sys2Proof.Machine
end

section
/-! PROOFS. A job is opened (R90, R98 to R100, R317, R456). -/

namespace Sys2Proof.Machine

-- One declaration at a time: see the frames of the state's operations.
set_option Elab.async false

/-! ### Frames of the pools -/

theorem linkAll_writes (l : List Nat) (s : State) : Writes [.sp, .spPoison, .counters] s (linkAll l s) := by
  induction l generalizing s with
  | nil => exact .refl _ _
  | cons a r ih => exact (linkCell_writes ..).trans (ih _)

theorem poolRebuild_writes (c : Nat) (s : State) : Writes cellFields s (poolRebuild c s) := by
  unfold poolRebuild
  extract_lets p free
  exact .after (linkAll_writes ..) (setPool_writes ..).mono

theorem takeStaging_writes {pool n : Nat} {use : CellUse} {s t : State} (h : takeStaging pool use n s = some t) :
    Writes [.carafe] s t := by
  induction n generalizing s with
  | zero =>
    cases h
    exact .refl _ _
  | succ n ih =>
    rw [takeStaging] at h
    split_ifs at h
    exact (takeCell_writes ..).trans (ih h)

theorem installGroup_writes {g : Group} {s t : State} (h : installGroup g s = some t) : Writes (.coll :: cellFields) s t := by
  unfold installGroup at h
  extract_lets s₁ at h
  have hfreed : Writes (.coll :: cellFields) s s₁ := (freeCells_writes ..).mono
  split at h
  case h_1 => cases h
  case h_2 u hu =>
    have htaken : Writes (.coll :: cellFields) s u := (takeStaging_writes hu).after hfreed
    cases h
    exact htaken.trans (.of_mix rfl)

theorem writeHeaders_writes (old : List ((Nat × Nat) × Option Nat)) (l : List (Nat × Nat)) (s : State) :
    Writes [.keyway, .hostMem] s (writeHeaders old l s) := by
  induction l generalizing s with
  | nil => exact .refl _ s
  | cons r l ih =>
    obtain ⟨va, n⟩ := r
    exact .trans (.ite (fun _ => .refl _ s) (fun _ => hostWrite_writes ..)) (ih _)

/-- What a change of a host pool's runs writes. -/
def runFields : List Fld := [.carafe, .keyway, .hostMem]

theorem putRuns_writes (c : Nat) (old : List ((Nat × Nat) × Option Nat)) (l : List (Nat × Nat)) (s : State) :
    Writes runFields s (putRuns c old l s) := by
  refine .after (writeHeaders_writes ..) ?_
  exact .of_mix rfl

theorem setRuns_writes (c : Nat) (l : List (Nat × Nat)) (s : State) : Writes runFields s (setRuns c l s) := putRuns_writes ..

theorem takeRun_writes {c bytes va : Nat} {s t : State} (h : takeRun c bytes s = some (t, va)) : Writes runFields s t := by
  unfold takeRun at h
  extract_lets n at h
  split_ifs at h
  · cases h
    exact .refl _ s
  · split at h
    case h_1 => cases h
    case h_2 a rest _ =>
      extract_lets s₁ at h
      have hset : Writes runFields s s₁ := setRuns_writes ..
      cases h
      exact hset.trans (.of_mix rfl)

/-! ### JOB_OPEN -/

/-- The job's own record stands, with nothing else of a job (R90). -/
def jobOpened (tag : Nat) (j : JobDesc) (list : List Byte) (s : State) : State :=
  { jobClear (jobParamsReset s) with
    job := { Job.zero with st := .opened, tag := tag, desc := j, members := membersOf list, listCrc := crc32c list },
    coll := Coll.reset }

/-- What the pools and group 0 of a job write. -/
def openFields : List Fld := .coll :: .keyway :: .hostMem :: cellFields

theorem takeDump_writes {c va : Nat} {j : JobDesc} {s t : State}
    (h : (if j.dumpVa = 0 then takeRun c j.dumpBytes s else some (s, 0)) = some (t, va)) : Writes runFields s t := by
  split_ifs at h
  · exact takeRun_writes h
  · cases h
    exact .refl _ s

/-- The carve and the regions of the job's slots are named by parameters (R100, R317). -/
def regionsSet (j : JobDesc) (base rx dump : Nat) (s : State) : State :=
  setP (setP (setP (setP (setP s 0x0404 base) 0x0508 rx) 0x0509 (rx + (j.nMembers - 1) * rxSlots j * pitchOf j)) 0x050A
    (pitchOf j)) 0x050B dump

/-- A JOB_OPEN that passes its checks: the member list, the carve, and the state it leaves (R99). -/
theorem openTry_ok {tag : Nat} {j : JobDesc} {list : List Byte} {s v : State} (h : openTry tag j list s = .ok v) :
    distinct (membersOf list) = true ∧ (membersOf list).contains (ownSeat s) = true ∧
    ∃ base rx dump t, carveOf j = some base ∧ Writes openFields (jobOpened tag j list s) t ∧
      v = vaultClose tag false false (regionsSet j base rx dump t) := by
  unfold openTry at h
  extract_lets members _ _ opened rebuilt at h
  split at h
  · cases h
  rename_i hlist
  rw [not_or, Bool.not_eq_false, Bool.not_eq_false] at hlist
  refine ⟨hlist.1, hlist.2, ?_⟩
  split at h
  case h_1 => cases h
  case h_2 base hbase =>
    have hrebuilt : Writes openFields (jobOpened tag j list s) rebuilt :=
      .foldl (fun t c => (poolRebuild_writes c t).mono) _ _
    clear_value rebuilt
    split at h
    · cases h
    split at h
    · cases h
    split at h
    case h_1 => cases h
    case h_2 t₁ hgroup =>
      have h₁ : Writes openFields (jobOpened tag j list s) t₁ := (installGroup_writes hgroup).after hrebuilt
      split at h
      · cases h
      split at h
      case h_1 => cases h
      case h_2 t₂ rx hrx =>
        have h₂ : Writes openFields (jobOpened tag j list s) t₂ := (takeRun_writes hrx).after h₁
        split at h
        case h_1 => cases h
        case h_2 t₃ dump hdump =>
          cases h
          exact ⟨base, rx, dump, t₃, hbase, (takeDump_writes hdump).after h₂, rfl⟩

theorem regionsSet_writes (j : JobDesc) (base rx dump : Nat) (s : State) : Writes [.params] s (regionsSet j base rx dump s) :=
  .of_mix rfl

theorem getP_regionsSet (j : JobDesc) (base rx dump : Nat) (s : State) :
    getP (regionsSet j base rx dump s) 0x0404 = base ∧ getP (regionsSet j base rx dump s) 0x0508 = rx ∧
    getP (regionsSet j base rx dump s) 0x0509 = rx + (j.nMembers - 1) * rxSlots j * pitchOf j ∧
    getP (regionsSet j base rx dump s) 0x050A = pitchOf j := by
  refine ⟨?_, ?_, ?_, ?_⟩
  all_goals simp [regionsSet, getP_setP_self, getP_setP_ne]

theorem getP_congr {s t : State} (h : t.params = s.params) (id : Nat) : getP t id = getP s id := by
  rw [getP, getP, h]

/-- Settles O36. -/
theorem jobOpenCompletes : Obligations.JobOpenCompletes := by
  unfold Obligations.JobOpenCompletes
  intro p io s u w v list
  extract_lets n o j ranges
  intro hruns hlen hrange hjob hentry hranges hread
  have hstarted := accept_ranges_writes hranges n 0
  have hw : Writes [.latch, .counters, .drip, .recRing, .keyway, .mport] s w := by
    have hown := ownRead_writes 1 j.memberVa (2 * j.nMembers) io (accept p n 0 u)
    rw [hread] at hown
    exact .after hown hstarted.mono
  have hexec : exec (.jobOpen p io) s = .next (match openTry p.jobTag.toNat j list w with
      | .error st => finish o st 0 0 0 0 w
      | .ok v => finish o 0 (rxSlots j) (ceilDiv (slotBytes j) 1024) 0 0 v) := by
    have hnone : jobExists (takePacket p s) = false := by
      rwa [jobExists, takePacket_job]
    rw [PacketForm.exec_start (c := .jobOpen p io) (fun _ => rfl) hruns, startJobOpen, asyncCmd,
      checked_runs (u := u) hruns (by decide) (by omega) (by simp [hlen]) hrange (by simp [hnone]) hranges rfl (fun _ => hentry),
      show ownRead 1 (jobDescOf (pBody p)).memberVa _ (Ext.ofIo io).io (accept p s.latch.order 0 u) = (w, .ok list) from hread] <;> rfl
  have hseat : ownSeat w = ownSeat s := getP_congr (hw.same .params (by decide)) _
  refine ⟨fun st htry => ?_, fun htry => ?_⟩
  · rw [htry] at hexec
    have hend : Writes [.latch, .drip] w (finish o st 0 0 0 0 w) := finish_writes ..
    exact ⟨hexec, (hend.same .job (by decide)).trans (hw.same .job (by decide)),
      (hend.same .carafe (by decide)).trans (hw.same .carafe (by decide))⟩
  · rw [htry] at hexec
    obtain ⟨hdistinct, hown, base, rx, dump, t, hbase, hopen, hv⟩ := openTry_ok htry
    rw [hseat] at hown
    have hregions := regionsSet_writes j base rx dump t
    have hclose := vaultClose_writes p.jobTag.toNat false false (regionsSet j base rx dump t)
    obtain ⟨hnum, htag, -⟩ := vaultClose_figures p.jobTag.toNat (regionsSet j base rx dump t)
    rw [← hv] at hclose hnum htag
    have hset : Writes (.params :: .vault :: .ev :: .drip :: openFields) (jobOpened p.jobTag.toNat j list w) v :=
      hclose.after (hregions.after hopen.mono)
    obtain ⟨hcarve, hrx, hret, hpitch⟩ := getP_regionsSet j base rx dump t
    have hp (id : Nat) : getP v id = getP (regionsSet j base rx dump t) id := getP_congr (hclose.same .params (by decide)) id
    have hvault : (regionsSet j base rx dump t).vault = s.vault :=
      (hregions.same .vault (by decide)).trans ((hopen.same .vault (by decide)).trans (hw.same .vault (by decide)))
    have hkft := hset.same .kft (by decide)
    have hep := hset.same .ep (by decide)
    refine ⟨hexec, hset.same .job (by decide), hdistinct, hown, hset.same .slots (by decide), hset.same .keyring (by decide),
      by rw [hep]; rfl, by rw [hep]; rfl, by rw [hkft]; rfl, by rw [hkft]; rfl, by rw [hkft]; rfl,
      hset.same .duties (by decide), by rw [hbase, hp, hcarve], by rw [hp, hp, hrx, hret], by rw [hp, hpitch], htag,
      by rw [hnum, hvault], ?_⟩
    exact (hset.same .kt (by decide)).trans (hw.same .kt (by decide))

end Sys2Proof.Machine
end

section
/-! PROOFS. A job is started and closed, and its end (R90, R277, R384, R396, R424). -/

namespace Sys2Proof.Machine

-- One declaration at a time: see the frames of the state's operations.
set_option Elab.async false

/-! ### What is sent to a seat -/

theorem setTx_writes (x : TxSpace) (s : State) : Writes [.kft] s (setTx x s) := .of_mix rfl

theorem sendPart_writes (seat vc : Nat) (first : Option Nat) (h : KftHdr) (payload : List Byte) (s : State) :
    Writes [.kft, .counters] s (sendPart seat vc first h payload s).1 := by
  unfold sendPart
  extract_lets t seq hdr c s₁ _ s₂
  have htaken : Writes [.kft, .counters] s s₁ := (setTx_writes ..).mono
  have hqueued : Writes [.kft, .counters] s₁ s₂ := .of_mix rfl
  split_ifs
  · have happlied : Writes [.kft] s (setTx { t with next := seqAdd seq 1, ack := seq } s) := setTx_writes ..
    generalize setTx { t with next := seqAdd seq 1, ack := seq } s = u at happlied
    exact .after (ctrInc_writes 11 u) happlied.mono
  · have hsent : Writes [.kft, .counters] s s₂ := htaken.trans hqueued
    dsimp only
    exact .after (pumpTx_writes s₂) hsent

theorem sendMsg_writes (seat vc : Nat) (h : KftHdr) (off : Nat) (body : List Byte) (s : State) :
    Writes [.kft, .counters] s (sendMsg seat vc h off body s).1 :=
  List.foldlRecOn (motive := fun r : State × Nat => Writes [.kft, .counters] s r.1) _ _ (.refl _ s)
    fun _ hr _ _ => hr.trans (sendPart_writes ..)

theorem sendNotice_writes (seat cls : Nat) (body : List Byte) (s : State) :
    Writes [.kft, .counters] s (sendNotice seat cls body s).1 := sendMsg_writes ..

theorem noticeSend_writes (seat : Nat) (n : Notice) (s : State) : Writes [.kft, .counters] s (noticeSend seat n s) :=
  sendNotice_writes ..

/-! ### The start barrier -/

theorem sendGo_writes (s : State) : Writes [.kft, .counters] s (sendGo s) :=
  .foldl (fun _ _ => noticeSend_writes ..) _ s

/-- What the start barrier writes. -/
def barrierFields : List Fld := [.barrier, .kft, .counters]

theorem takeGo_writes (s : State) : Writes barrierFields s (takeGo s) := by
  refine .ite (fun _ => .refl _ s) (fun _ => .after (sendGo_writes _) ?_)
  exact .of_mix rfl

theorem takeGo_go (s : State) : (takeGo s).barrier.go = true := by
  unfold takeGo
  split_ifs with h
  · exact h
  · exact congrArg Barrier.go ((sendGo_writes { s with barrier := { s.barrier with go := true } }).same .barrier (by decide))

theorem barrierTry_writes (s : State) : Writes barrierFields s (barrierTry s) := by
  unfold barrierTry
  extract_lets i _ s₁
  have hreported : Writes barrierFields s s₁ := .of_mix rfl
  exact .ite (fun _ => .ite (fun _ => .after (takeGo_writes _) hreported) (fun _ => .after (noticeSend_writes ..) hreported))
    (fun _ => .refl _ s)

/-- The root with no child left to report starts go (R384). -/
theorem barrierTry_root {s : State} (hst : s.job.st = .starting) (hreported : s.barrier.reported = false)
    (hroot : ownIndex s = 0) (hchildren : childSeats s 0 = []) : (barrierTry s).barrier.go = true := by
  rw [barrierTry, hroot, if_pos ⟨hst, hreported, by simp [hchildren]⟩]
  exact takeGo_go _

theorem noticeTake_writes (n : Notice) (s : State) : Writes barrierFields s (noticeTake n s) := by
  unfold noticeTake
  refine .ite (fun _ => (ctrInc_writes ..).mono) (fun _ => .ite (fun _ => .ite (fun _ => ?_) (fun _ => .refl _ s))
    (fun _ => .ite (fun _ => takeGo_writes s) (fun _ => .refl _ s)))
  refine .after (barrierTry_writes _) ?_
  exact .of_mix rfl

/-- The job is Starting, its barrier fresh (R384). -/
def jobStarting (release cls : Nat) (c : OpenCmd) (s : State) : State :=
  { s with job := { s.job with st := .starting, startCmd := some c, release := release },
           barrier := { Barrier.reset with cls := cls } }

theorem jobStart_eq (release cls : Nat) (c : OpenCmd) (s : State) : jobStart release cls c s =
    if getP s 0x0520 = 1 then { jobStarting release cls c s with barrier := { Barrier.reset with cls := cls, go := true, reported := true } }
    else barrierTry (s.barrier.early.foldl (fun t n => noticeTake n t) (jobStarting release cls c s)) := rfl

theorem jobStart_writes (release cls : Nat) (c : OpenCmd) (s : State) :
    Writes barrierFields (jobStarting release cls c s) (jobStart release cls c s) := by
  rw [jobStart_eq]
  exact .ite (fun _ => .of_mix rfl) (fun _ => .after (barrierTry_writes _) (.foldl (fun t n => noticeTake_writes n t) _ _))

/-! ### JOB_CLOSE -/

theorem loseCells_writes (s : State) : Writes cellFields s (loseCells s) := by
  have hlost : Writes cellFields s { s with carafe := { s.carafe with lost := [] } } := .of_mix rfl
  refine hlost.trans (.foldl (fun t x => .ite (fun _ => .after (linkAll_writes ..) ?_) (fun _ => .refl _ t)) _ _)
  exact .of_mix rfl

/-- A step of the fences changes no field of the job but the close fence. -/
structure FencesOnly (s t : State) : Prop where
  writes : Writes [.job, .kft, .latch, .drip] s t
  job : t.job = { s.job with closeFence := t.job.closeFence }
  replies : RepliesKept s t
  ends : EndsOnly s t

namespace FencesOnly

theorem refl (s : State) : FencesOnly s s := ⟨.refl _ s, rfl, .refl s, .refl s⟩

theorem trans {s t u : State} (hst : FencesOnly s t) (htu : FencesOnly t u) : FencesOnly s u :=
  ⟨hst.writes.trans htu.writes, by rw [htu.job, hst.job], hst.replies.trans htu.replies, hst.ends.trans htu.ends⟩

end FencesOnly

theorem fenceCheck_fencesOnly (s : State) : FencesOnly s (fenceCheck s) := by
  refine List.foldlRecOn (motive := FencesOnly s) _ _ (.refl s) fun t ht f _ => ht.trans ?_
  split_ifs
  · extract_lets _ u
    have hdone : FencesOnly t u := ⟨.of_mix rfl, rfl, fun _ h => h, .of_latch rfl⟩
    refine hdone.trans ?_
    split
    · exact ⟨(finish_writes ..).mono, by rw [(finish_writes ..).same .job (by decide)], finish_repliesKept _ _ _ _ _ _ _, finish_endsOnly ..⟩
    · exact ⟨.of_mix rfl, rfl, fun _ h => h, .of_latch rfl⟩
  · exact .refl t

theorem fenceStart_fencesOnly (cmd : Option OpenCmd) (seats vcs : List Nat) (s : State) :
    FencesOnly s (fenceStart cmd seats vcs s) := by
  unfold fenceStart
  extract_lets pts
  refine .trans ?_ (fenceCheck_fencesOnly _)
  exact ⟨.of_mix rfl, rfl, fun _ h => h, .of_latch rfl⟩

theorem closeTry_fencesOnly (s : State) : FencesOnly s (closeTry s) := by
  unfold closeTry
  split_ifs
  · exact fenceStart_fencesOnly ..
  · exact .refl s

theorem endHeld_repliesKept (h : Held) (status : Nat) (s : State) : RepliesKept s (endHeld h status s) := by
  unfold endHeld
  extract_lets _ s₁
  have hout : RepliesKept s s₁ := fun _ h => h
  split_ifs
  · refine hout.trans fun r hr => ?_
    rw [replyOne, reply_latch]
    exact List.mem_append_left _ hr
  · exact hout.trans (finish_repliesKept _ _ _ _ _ _ _)
  · exact hout.trans (finish_repliesKept _ _ _ _ _ _ _)

theorem endHeldAll_repliesKept (p : Held → Bool) (status : Nat) (s : State) : RepliesKept s (endHeldAll p status s) :=
  .foldl (fun t h => endHeld_repliesKept h status t) _ s

theorem endHeldAll_endsOnly (p : Held → Bool) (status : Nat) (s : State) : EndsOnly s (endHeldAll p status s) :=
  .foldl (fun t h => endHeld_endsOnly h status t) _ s

theorem finishOpt_repliesKept (c : Option OpenCmd) (status r0 : Nat) (s : State) : RepliesKept s (finishOpt c status r0 s) := by
  cases c with
  | none => exact .refl s
  | some c => exact finish_repliesKept _ _ _ _ _ _ _

theorem finishOpt_endsOnly (c : Option OpenCmd) (status r0 : Nat) (s : State) : EndsOnly s (finishOpt c status r0 s) := by
  cases c with
  | none => exact .refl s
  | some c => exact finish_endsOnly ..

/-- The final reply of an open command is the last one made. -/
theorem finish_last {c : OpenCmd} {s : State} (h : s.latch.opened.any (fun x => sameCmd x c) = true) (status r0 : Nat) :
    ∃ r, (finish c status r0 0 0 0 s).latch.replies.getLast? = some r ∧ r.tag = c.tag ∧ r.order = c.order ∧ r.status = status ∧
      r.r0 = r0 ∧ r.final = true := by
  rw [finish_of_open h]
  exact ⟨_, List.getLast?_concat, rfl, rfl, rfl, rfl, rfl⟩

/-- JOB_CLOSE: the job drains (R90). -/
def jobDraining (abort : Bool) (c : OpenCmd) (s : State) : State :=
  { s with job := { s.job with st := .draining, startCmd := none, closeCmd := some c, closeAbort := abort, closeFence := false,
                               closeDrops := 0 },
           barrier := Barrier.reset, ptp := { s.ptp with slewHeld := false } }

/-- An outstanding JOB_START and what the release instant held have ended (R90). -/
def jobUnstarted (abort : Bool) (c : OpenCmd) (s : State) : State :=
  mmuRetire (loseCells (endHeldAll (fun h => decide (h.why = .release)) 0x0404
    (finishOpt s.job.startCmd 0x0404 0 (jobDraining abort c s))))

theorem jobClose_eq (abort : Bool) (c : OpenCmd) (s : State) : jobClose abort c s =
    if s.job.st = .faulted then closeFaulted (dumpSample (jobUnstarted abort c s))
    else closeTry (if abort then closeAbortAll (jobUnstarted abort c s) else jobUnstarted abort c s) := rfl

theorem jobUnstarted_writes (abort : Bool) (c : OpenCmd) (s : State) :
    Writes (.latch :: .drip :: .keyway :: cellFields) (jobDraining abort c s) (jobUnstarted abort c s) :=
  .after (mmuRetire_writes _) (.after (loseCells_writes _) (.after (endHeldAll_writes ..) (finishOpt_writes ..).mono))

theorem jobUnstarted_held {abort : Bool} {c : OpenCmd} {s : State} : ∀ h ∈ (jobUnstarted abort c s).latch.held, h.why ≠ .release := by
  intro h hh
  rw [jobUnstarted] at hh
  have hh := (mmuRetire_endsOnly _).held h hh
  rw [(loseCells_writes _).same .latch (by decide)] at hh
  simpa using (mem_endHeldAll hh).2

/-- JOB_START ends ST_CANCELLED (R90). -/
theorem jobUnstarted_reply {abort : Bool} {c o : OpenCmd} {s : State} (hstart : s.job.startCmd = some o)
    (hopen : s.latch.opened.any (fun x => sameCmd x o) = true) :
    ∃ r ∈ (jobUnstarted abort c s).latch.replies, r.tag = o.tag ∧ r.order = o.order ∧ r.status = 0x0404 ∧ r.final = true := by
  obtain ⟨r, hlast, htag, horder, hstatus, -, hfinal⟩ := finish_last (s := jobDraining abort c s) (c := o) hopen 0x0404 0
  have hkept : RepliesKept (finishOpt s.job.startCmd 0x0404 0 (jobDraining abort c s)) (jobUnstarted abort c s) :=
    ((endHeldAll_repliesKept _ _ _).trans (loseCells_writes _).repliesKept).trans (mmuRetire_repliesKept _)
  rw [hstart] at hkept
  exact ⟨r, hkept r (List.mem_of_getLast? hlast), htag, horder, hstatus, hfinal⟩

theorem tensorAbort_writes (s : State) : Writes [.tensors, .keyway, .latch, .drip] s (tensorAbort s) := by
  refine .after (mmuRetire_writes _) (.trans (t := { s with tensors := [] }) ?_ (.foldl (fun t r => (finish_writes ..).mono) _ _))
  exact .of_mix rfl

theorem tensorAbort_repliesKept (s : State) : RepliesKept s (tensorAbort s) := by
  refine .trans (.trans (t := { s with tensors := [] }) ?_ (.foldl (fun t r => finish_repliesKept _ _ _ _ _ _ _) _ _)) (mmuRetire_repliesKept _)
  exact fun _ h => h

theorem tensorAbort_endsOnly (s : State) : EndsOnly s (tensorAbort s) := by
  refine .trans (.trans (t := { s with tensors := [] }) ?_ (.foldl (fun t r => finish_endsOnly ..) _ _)) (mmuRetire_endsOnly _)
  exact .of_latch rfl

/-- Abort with no collective and no slot in flight. -/
theorem collAbort_writes {s : State} (h : s.coll.ops = []) : Writes (.coll :: cellFields) s (collAbort s) := by
  unfold collAbort
  rw [h]
  refine .after (freeCells_writes ..) ?_
  exact .of_mix rfl

theorem closeAbortAll_idle {s : State} (hops : s.coll.ops = []) (hslots : ∀ x ∈ s.slots, x.st = .idle ∨ x.st = .done) :
    closeAbortAll s = tensorAbort (endBraced (collAbort s)) := by
  have hsame : (tensorAbort (endBraced (collAbort s))).slots = s.slots :=
    ((tensorAbort_writes _).same .slots (by decide)).trans
      (((endHeldAll_writes ..).same .slots (by decide)).trans ((collAbort_writes hops).same .slots (by decide)))
  unfold closeAbortAll
  extract_lets t
  refine List.foldlRecOn (motive := fun u => u = t) _ _ rfl fun u hu i _ => ?_
  subst hu
  have hslot : (slotAt t i).st = .idle ∨ (slotAt t i).st = .done := by
    rw [slotAt, hsame, List.getD_eq_getElem?_getD]
    by_cases hi : i < s.slots.length
    · rw [List.getElem?_eq_getElem hi]
      exact hslots _ (List.getElem_mem hi)
    · rw [List.getElem?_eq_none (by omega)]
      exact .inl rfl
  rw [if_pos (by rcases hslot with h | h <;> simp [h])]

theorem closeAbortAll_frames {s : State} (hops : s.coll.ops = []) (hslots : ∀ x ∈ s.slots, x.st = .idle ∨ x.st = .done) :
    Writes (.coll :: .tensors :: .keyway :: .latch :: .drip :: cellFields) s (closeAbortAll s) ∧
    RepliesKept s (closeAbortAll s) ∧ EndsOnly s (closeAbortAll s) := by
  have hcoll := collAbort_writes hops
  rw [closeAbortAll_idle hops hslots]
  exact ⟨.after (tensorAbort_writes _) (.after (endHeldAll_writes ..) hcoll.mono),
    (hcoll.repliesKept.trans (endHeldAll_repliesKept _ _ _)).trans (tensorAbort_repliesKept _),
    (hcoll.endsOnly.trans (endHeldAll_endsOnly ..)).trans (tensorAbort_endsOnly _)⟩

theorem dumpSample_writes (s : State) : Writes [.dump, .freeCtr] s (dumpSample s) := by
  unfold dumpSample
  split_ifs
  · exact .of_mix rfl
  · exact .refl _ s

/-! ### The end of the drain -/

theorem setP_writes (s : State) (id v : Nat) : Writes [.params] s (setP s id v) := .of_mix rfl

theorem keepParams_writes (s : State) : Writes [.params, .pendParams] s (keepParams s) := by
  unfold keepParams
  extract_lets s₁ s₂
  have h₁ : Writes [.params, .pendParams] s s₁ := .foldl (fun _ _ => (setP_writes ..).mono) _ _
  have h₂ : Writes [.params, .pendParams] s₁ s₂ := .foldl (fun _ _ => (setP_writes ..).mono) _ _
  have h₃ : Writes [.params, .pendParams] s s₂ := h₁.trans h₂
  clear_value s₂
  exact h₃.trans (.of_mix rfl)

theorem freeCell_cells (h : CellHeld) (s : State) : (freeCell h s).carafe.cells =
    s.carafe.cells.filter fun x => decide (¬ (x.pool = h.pool ∧ x.addr = h.addr)) := by
  unfold freeCell
  extract_lets p _ s₁
  exact congrArg Carafe.cells ((linkCell_writes h.addr p.free.head? s₁).same .carafe (by decide))

theorem mem_foldl_freeCell {l : List CellHeld} {s : State} {x : CellHeld}
    (h : x ∈ (l.foldl (fun t c => freeCell c t) s).carafe.cells) : x ∈ s.carafe.cells ∧ x ∉ l := by
  induction l generalizing s with
  | nil => exact ⟨h, by simp⟩
  | cons c l ih =>
    obtain ⟨hmem, hnot⟩ := ih h
    rw [freeCell_cells, List.mem_filter, decide_eq_true_eq] at hmem
    refine ⟨hmem.1, fun hx => ?_⟩
    obtain rfl | hx := List.mem_cons.1 hx
    · exact hmem.2 ⟨rfl, rfl⟩
    · exact hnot hx

/-- No cell of a use given back is held (R323). -/
theorem freeCells_cells {p : CellUse → Bool} {s : State} : ∀ x ∈ (freeCells p s).carafe.cells, p x.use = false := by
  intro x hx
  unfold freeCells at hx
  extract_lets s₁ at hx
  obtain ⟨hmem, hnot⟩ := mem_foldl_freeCell hx
  simpa [hmem] using hnot

theorem putRuns_carafe (c : Nat) (old : List ((Nat × Nat) × Option Nat)) (l : List (Nat × Nat)) (s : State) :
    (putRuns c old l s).carafe.jobRuns = s.carafe.jobRuns ∧ (putRuns c old l s).carafe.cells = s.carafe.cells := by
  have hsame : (putRuns c old l s).carafe =
      { s.carafe with runs := s.carafe.runs.filter (fun r => decide (r.1 ≠ c)) ++ l.map fun r => (c, r) } :=
    (writeHeaders_writes ..).same .carafe (by decide)
  rw [hsame]
  exact ⟨rfl, rfl⟩

/-- The job's runs go back to their pools (R327). -/
def runsBack (s : State) : State :=
  s.carafe.jobRuns.foldl (fun t r => releaseRun r.1 r.2.1 r.2.2 t) { s with carafe := { s.carafe with jobRuns := [] } }

theorem runsBack_writes (s : State) : Writes runFields s (runsBack s) := by
  have hempty : Writes runFields s { s with carafe := { s.carafe with jobRuns := [] } } := .of_mix rfl
  exact hempty.trans (.foldl (fun t r => setRuns_writes ..) _ _)

theorem runsBack_carafe (s : State) : (runsBack s).carafe.jobRuns = [] ∧ (runsBack s).carafe.cells = s.carafe.cells :=
  List.foldlRecOn (motive := fun t : State => t.carafe.jobRuns = [] ∧ t.carafe.cells = s.carafe.cells) _ _ ⟨rfl, rfl⟩
    fun t ht r _ => by
      obtain ⟨hruns, hcells⟩ := putRuns_carafe r.1 (withNext (runsOf t r.1)) (mergeRuns (insertRun r.2.1 r.2.2 (runsOf t r.1))) t
      exact ⟨hruns.trans ht.1, hcells.trans ht.2⟩

/-- Every job-scope command but JOB_CLOSE has ended. -/
def scopeEnded (s : State) : State :=
  (s.latch.opened.filter fun c => c.jobScope && !(s.job.closeCmd.elim false (sameCmd c))).foldl
    (fun t c => endOpen 0x0404 c t) s

theorem scopeEnded_writes (s : State) : Writes [.latch, .drip] s (scopeEnded s) :=
  .foldl (fun t c => endOpen_writes 0x0404 c t) _ s

/-- JOB_CLOSE itself is still open. -/
theorem scopeEnded_close {s : State} {c : OpenCmd} (hcmd : s.job.closeCmd = some c)
    (hopen : s.latch.opened.any (fun x => sameCmd x c) = true) :
    (scopeEnded s).latch.opened.any (fun x => sameCmd x c) = true := by
  unfold scopeEnded
  rw [hcmd]
  refine List.foldlRecOn (motive := fun t : State => t.latch.opened.any (fun x => sameCmd x c) = true) _ _ hopen
    fun t ht o ho => ?_
  have hother : sameCmd o c = false := by
    have hkept := (List.mem_filter.1 ho).2
    rw [Bool.and_eq_true, Bool.not_eq_true'] at hkept
    exact hkept.2
  obtain ⟨x, hx, hsame⟩ := List.any_eq_true.1 ht
  rw [endOpen_opened, List.any_filter]
  refine List.any_eq_true.2 ⟨x, hx, ?_⟩
  rw [Bool.and_eq_true, Bool.not_eq_true']
  refine ⟨?_, hsame⟩
  simp only [sameCmd, decide_eq_false_iff_not, decide_eq_true_eq] at hother hsame ⊢
  omega

/-- The job's cells are given back. -/
def cellsBack (s : State) : State := freeCells jobUse (keepParams (scopeEnded s))

theorem cellsBack_writes (s : State) :
    Writes [.params, .pendParams, .carafe, .sp, .spPoison, .counters] (scopeEnded s) (cellsBack s) :=
  .after (freeCells_writes ..) (keepParams_writes _).mono

/-- The job's cells and runs are given back, and its period is closed. -/
def jobReturned (s : State) : State := vaultClose 0 false false (runsBack (cellsBack s))

/-- All state of the job is cleared (R90). -/
def jobGone (s : State) : State :=
  jobClear { jobReturned s with job := { Job.zero with lastDone := (jobReturned s).job.lastDone } }

theorem jobClosed_eq (s : State) : jobClosed s = finishOpt s.job.closeCmd 0 s.job.closeDrops (jobGone s) := rfl

/-- What the end of a job writes of what is not cleared with it. -/
def returnFields : List Fld :=
  [.latch, .drip, .params, .pendParams, .carafe, .sp, .spPoison, .counters, .keyway, .hostMem, .vault, .ev]

theorem jobReturned_writes (s : State) : Writes returnFields s (jobReturned s) :=
  .after (vaultClose_writes ..) (.after (runsBack_writes _) (.after (cellsBack_writes s) (scopeEnded_writes s).mono))

theorem jobReturned_result (s : State) : (jobReturned s).carafe.jobRuns = [] ∧
    (∀ h ∈ (jobReturned s).carafe.cells, jobUse h.use = false) ∧ (jobReturned s).vault.cur.jobTag = 0 ∧
    (jobReturned s).vault.cur.num = (s.vault.cur.num + 1) % 2 ^ 32 ∧
    (jobReturned s).latch = (scopeEnded s).latch := by
  have hfree := cellsBack_writes s
  have hcells : ∀ x ∈ (cellsBack s).carafe.cells, jobUse x.use = false := freeCells_cells
  unfold jobReturned
  generalize cellsBack s = u at hfree hcells
  have hback := runsBack_writes u
  have hclose := vaultClose_writes 0 false false (runsBack u)
  obtain ⟨hruns, hsame⟩ := runsBack_carafe u
  obtain ⟨hnum, htag, -⟩ := vaultClose_figures 0 (runsBack u)
  have hvault : (runsBack u).vault = s.vault :=
    (hback.same .vault (by decide)).trans ((hfree.same .vault (by decide)).trans ((scopeEnded_writes s).same .vault (by decide)))
  have hcarafe := hclose.same .carafe (by decide)
  refine ⟨by rw [hcarafe, hruns], fun h hh => ?_, htag, hnum.trans (by rw [hvault]), ?_⟩
  · rw [hcarafe, hsame] at hh
    exact hcells h hh
  · exact (hclose.same .latch (by decide)).trans ((hback.same .latch (by decide)).trans (hfree.same .latch (by decide)))

theorem jobGone_keeps (s : State) : (jobGone s).job = { Job.zero with lastDone := (jobReturned s).job.lastDone } ∧
    (jobGone s).latch = (jobReturned s).latch ∧ (jobGone s).carafe = (jobReturned s).carafe ∧
    (jobGone s).vault = (jobReturned s).vault ∧ (jobGone s).slots = List.replicate 64 Slot.idle ∧ (jobGone s).duties = [] ∧
    (jobGone s).kft.tx = [] ∧ (jobGone s).kft.rx = [] := by
  unfold jobGone
  generalize jobReturned s = u
  exact ⟨rfl, rfl, rfl, rfl, rfl, rfl, rfl, rfl⟩

/-- The job is Closed, and JOB_CLOSE answered (R90, R277, R327). -/
theorem jobClosed_result (s : State) : (jobClosed s).job = { Job.zero with lastDone := s.job.lastDone } ∧
    (jobClosed s).slots = List.replicate 64 Slot.idle ∧ (jobClosed s).duties = [] ∧ (jobClosed s).kft.tx = [] ∧
    (jobClosed s).kft.rx = [] ∧ (jobClosed s).carafe.jobRuns = [] ∧
    (∀ h ∈ (jobClosed s).carafe.cells, jobUse h.use = false) ∧ (jobClosed s).vault.cur.jobTag = 0 ∧
    (jobClosed s).vault.cur.num = (s.vault.cur.num + 1) % 2 ^ 32 ∧
    ∀ c, s.job.closeCmd = some c → s.latch.opened.any (fun x => sameCmd x c) = true →
      ∃ r, (jobClosed s).latch.replies.getLast? = some r ∧ r.tag = c.tag ∧ r.order = c.order ∧ r.status = 0 ∧
        r.r0 = s.job.closeDrops ∧ r.final = true := by
  obtain ⟨hruns, hcells, htag, hnum, hlatch⟩ := jobReturned_result s
  have hjob : (jobReturned s).job = s.job := (jobReturned_writes s).same .job (by decide)
  obtain ⟨hgoneJob, hgoneLatch, hgoneCarafe, hgoneVault, hgoneSlots, hgoneDuties, htx, hrx⟩ := jobGone_keeps s
  rw [hjob] at hgoneJob
  rw [hlatch] at hgoneLatch
  rw [jobClosed_eq]
  generalize jobGone s = u at *
  have hend := finishOpt_writes s.job.closeCmd 0 s.job.closeDrops u
  rw [hend.same .job (by decide), hend.same .slots (by decide), hend.same .duties (by decide), hend.same .kft (by decide),
    hend.same .carafe (by decide), hend.same .vault (by decide), hgoneCarafe, hgoneVault]
  refine ⟨hgoneJob, hgoneSlots, hgoneDuties, htx, hrx, hruns, hcells, htag, hnum, fun c hcmd hopen => ?_⟩
  obtain ⟨r, hr⟩ := finish_last (c := c) (s := u) (by rw [hgoneLatch]; exact scopeEnded_close hcmd hopen) 0 s.job.closeDrops
  rw [hcmd]
  exact ⟨r, hr⟩

/-! ### The obligation -/

theorem exec_jobStart {p : Packet} {s : State} (h : RunsJob 0x12 p s) (hlen : p.payloadLen.toNat = 0) (hkt : s.kt < pVal64 p)
    (hentry : entryFree s) : exec (.jobStart p) s = .next
      (jobStart (pVal64 p) p.cls.toNat (openOf p s.latch.order) (accept p s.latch.order 0 (takePacket p s))) := by
  rw [PacketForm.exec_start (c := .jobStart p) (fun _ => rfl) h.toRuns, startJobStart, asyncCmd,
    checked_runsJob (u := takePacket p s) h (by omega) (by simp [hlen]) (by simp [hkt]) rfl rfl rfl (fun _ => hentry)]

theorem exec_jobClose {p : Packet} {s : State} (h : RunsJob 0x11 p s) (hlen : p.payloadLen.toNat = 0) (hentry : entryFree s) :
    exec (.jobClose p) s = .next
      (jobClose (bit p.p0.toNat 0) (openOf p s.latch.order) (accept p s.latch.order 0 (takePacket p s))) := by
  rw [PacketForm.exec_start (c := .jobClose p) (fun _ => rfl) h.toRuns, startJobClose, asyncCmd,
    checked_runsJob (u := takePacket p s) h (by omega) (by simp [hlen]) rfl rfl rfl rfl (fun _ => hentry)]

theorem taken_writes (p : Packet) (n : Nat) (s : State) :
    Writes [.latch, .counters, .drip, .recRing] s (accept p n 0 (takePacket p s)) :=
  .after (accept_writes ..) (takePacket_writes p s).mono

/-- Settles O37. -/
theorem jobStartCloseAndDrainComplete : Obligations.JobStartCloseAndDrainComplete := by
  unfold Obligations.JobStartCloseAndDrainComplete
  intro p s _ o
  have htaken := taken_writes p s.latch.order s
  refine ⟨fun h hlen hkt hentry => ?_, fun h hlen hentry => ⟨exec_jobClose h hlen hentry, fun hst habort => ?_, fun hst => ?_⟩,
    fun hlost => ⟨fun hdone => ?_, fun hdone => ?_⟩⟩
  · have hadmits : s.job.st = .opened := by
      have hadm := h.admits
      have hexists := h.job
      cases hst : s.job.st <;> simp [jobAdmits, jobExists, hst] at hadm hexists ⊢
    refine ⟨_, exec_jobStart h hlen hkt hentry, ?_⟩
    beta_reduce
    generalize accept p s.latch.order 0 (takePacket p s) = a at htaken
    have hjob := htaken.same .job (by decide)
    have hparam : getP a 0x0520 = getP s 0x0520 := getP_congr (htaken.same .params (by decide)) _
    have hwrites := jobStart_writes (pVal64 p) p.cls.toNat o a
    refine ⟨?_, hadmits, fun hreplay => ?_, fun hreplay hearly hroot hchildren => ?_, ?_, ?_, ?_, ?_⟩
    · rw [hwrites.same .job (by decide), ← hjob]
      rfl
    · rw [jobStart_eq, if_pos (hparam.trans hreplay)]
      exact ⟨rfl, htaken.same .kft (by decide)⟩
    · have hindex : ownIndex a = ownIndex s := by rw [ownIndex, ownIndex, hjob, ownSeat, ownSeat, getP_congr (htaken.same .params (by decide))]
      have hseats : childSeats a 0 = childSeats s 0 := by rw [childSeats, childSeats, hjob]
      rw [jobStart_eq, if_neg (by rwa [hparam]), htaken.same .barrier (by decide), hearly]
      exact barrierTry_root rfl rfl (hindex.trans hroot) (hseats.trans hchildren)
    · exact (hwrites.same .slots (by decide)).trans (htaken.same .slots (by decide))
    · exact (hwrites.same .ep (by decide)).trans (htaken.same .ep (by decide))
    · exact (hwrites.same .hostMem (by decide)).trans (htaken.same .hostMem (by decide))
    · exact (hwrites.same .sp (by decide)).trans (htaken.same .sp (by decide))
  · refine ⟨_, exec_jobClose h hlen hentry, ?_⟩
    beta_reduce
    have hopened (c : OpenCmd) (hc : s.latch.opened.any (fun x => sameCmd x c) = true) :
        (accept p s.latch.order 0 (takePacket p s)).latch.opened.any (fun x => sameCmd x c) = true := by
      rw [accept_eq, takePacket_latch]
      simp only [List.any_append, hc, Bool.true_or]
    generalize accept p s.latch.order 0 (takePacket p s) = a at htaken hopened
    have hjob := htaken.same .job (by decide)
    have hwrites := jobUnstarted_writes (bit p.p0.toNat 0) o a
    have haborted : ∃ u, (if bit p.p0.toNat 0 then closeAbortAll (jobUnstarted (bit p.p0.toNat 0) o a)
          else jobUnstarted (bit p.p0.toNat 0) o a) = u ∧
        Writes (.coll :: .tensors :: .keyway :: .latch :: .drip :: cellFields) (jobUnstarted (bit p.p0.toNat 0) o a) u ∧
        RepliesKept (jobUnstarted (bit p.p0.toNat 0) o a) u ∧ EndsOnly (jobUnstarted (bit p.p0.toNat 0) o a) u := by
      refine ⟨_, rfl, ?_⟩
      split_ifs with hbit
      · obtain ⟨hops, hslots⟩ := habort hbit
        refine closeAbortAll_frames ?_ ?_
        · rw [hwrites.same .coll (by decide)]
          exact (congrArg Coll.ops (htaken.same .coll (by decide))).trans hops
        · rw [hwrites.same .slots (by decide)]
          have hsame : (jobDraining (bit p.p0.toNat 0) o a).slots = s.slots := htaken.same .slots (by decide)
          rwa [hsame]
      · exact ⟨.refl _ _, .refl _, .refl _⟩
    obtain ⟨u, hu, hframe, hreplies, hends⟩ := haborted
    rw [jobClose_eq, if_neg (by rwa [hjob]), hu]
    obtain ⟨hclose, hcloseJob, hcloseReplies, hcloseEnds⟩ := closeTry_fencesOnly u
    have hrecord : u.job = (jobDraining (bit p.p0.toNat 0) o a).job :=
      (hframe.same .job (by decide)).trans (hwrites.same .job (by decide))
    refine ⟨?_, fun c hc hopen => ?_, fun x hx => ?_, ?_, ?_⟩
    · rw [hcloseJob, hrecord, ← hjob]
      rfl
    · obtain ⟨r, hr, hreply⟩ := jobUnstarted_reply (abort := bit p.p0.toNat 0) (c := o) (hjob ▸ hc : a.job.startCmd = some c) (hopened c hopen)
      exact ⟨r, hcloseReplies r (hreplies r hr), hreply⟩
    · exact jobUnstarted_held x (hends.held x (hcloseEnds.held x hx))
    · exact (hclose.same .hostMem (by decide)).trans ((hframe.same .hostMem (by decide)).trans
        ((hwrites.same .hostMem (by decide)).trans (htaken.same .hostMem (by decide))))
    · exact (hclose.same .ep (by decide)).trans ((hframe.same .ep (by decide)).trans
        ((hwrites.same .ep (by decide)).trans (htaken.same .ep (by decide))))
  · refine ⟨_, exec_jobClose h hlen hentry, ?_⟩
    beta_reduce
    generalize accept p s.latch.order 0 (takePacket p s) = a at htaken
    have hjob := htaken.same .job (by decide)
    have hwrites := jobUnstarted_writes (bit p.p0.toNat 0) o a
    have hdump := dumpSample_writes (jobUnstarted (bit p.p0.toNat 0) o a)
    rw [jobClose_eq, if_pos (by rwa [hjob])]
    generalize dumpSample (jobUnstarted (bit p.p0.toNat 0) o a) = u at hdump
    have hrecord : u.job = (jobDraining (bit p.p0.toNat 0) o a).job :=
      (hdump.same .job (by decide)).trans (hwrites.same .job (by decide))
    have hkft : u.kft = s.kft :=
      (hdump.same .kft (by decide)).trans ((hwrites.same .kft (by decide)).trans (htaken.same .kft (by decide)))
    refine ⟨?_, fun x hx => ?_, rfl, rfl, ?_, ?_⟩
    · show { u.job with closeFence := true } = _
      rw [hrecord, ← hjob]
      rfl
    · obtain ⟨y, -, rfl⟩ := List.mem_map.1 hx
      exact ⟨rfl, rfl⟩
    · show { u.kft with fences := [] } = _
      rw [hkft]
    · exact (hdump.same .hostMem (by decide)).trans ((hwrites.same .hostMem (by decide)).trans (htaken.same .hostMem (by decide)))
  · have hexec : exec .jobDrainComplete s = .next (jobClosed s) := by
      rw [exec, execJobDrainComplete, live_next hlost, if_pos hdone]
    exact ⟨_, hexec, jobClosed_result s⟩
  · rw [exec, execJobDrainComplete, live_next hlost, if_neg (by simp [hdone])]

end Sys2Proof.Machine
end

section
/-! PROOFS. Layer images, tables and commits (R87, R88, R102, R104, R105, R125, R176 to R179). -/

namespace Sys2Proof.Machine

-- One declaration at a time: see the frames of the state's operations.
set_option Elab.async false

/-! ### The job fault, by its three outcomes -/

/-- A job fault changes nothing, is counted, or is the job's first (R406, R407). -/
theorem jobFault_cases {motive : State → Prop} {unit status detail : Nat} {w : Where} {s : State} (hnone : motive s)
    (hcount : ∀ e t, Writes [.ev, .rlog, .dump] s t → motive (secondary e t))
    (hfirst : ∀ e t, Writes [.ev, .counters, .drip, .rlog, .rlogSeq, .rlogWait] s t → motive (enterFaulted false e t)) :
    motive (jobFault unit status detail w s) := by
  by_cases hclosed : s.job.st = .closed
  · simpa only [jobFault, hclosed] using hnone
  · by_cases hfaulted : s.job.st = .faulted
    · simp only [jobFault, hfaulted]
      split_ifs
      · exact hcount _ _ (.of_mix rfl)
      · exact hcount _ _ (.refl _ s)
    · rw [jobFault_first hclosed hfaulted]
      exact hfirst _ _ (.after (logAdd_writes ..) (evSend_writes ..).mono)

/-- A job fault drops a pending commit, and no more of the epochs. -/
theorem jobFault_ep {unit status detail : Nat} {w : Where} {s : State} (h : s.ep.commit = none) :
    (jobFault unit status detail w s).ep = s.ep := by
  have hdrop : ({ s.ep with commit := none } : Epochs) = s.ep := by rw [← h]
  refine jobFault_cases (motive := fun t => t.ep = s.ep) rfl (fun e t ht => ?_) (fun e t ht => ?_)
  · exact ((secondary_counts e t).1.same .ep (by decide)).trans (ht.same .ep (by decide))
  · rw [enterFaulted_eq]
    have hsame : (jobEnded t).ep = s.ep := ((jobEnded_writes t).same .ep (by decide)).trans (ht.same .ep (by decide))
    show ({ (jobEnded t).ep with commit := none } : Epochs) = s.ep
    rw [hsame, hdrop]

theorem endOpen_repliesKept (status : Nat) (o : OpenCmd) (s : State) : RepliesKept s (endOpen status o s) := by
  unfold endOpen
  split
  · exact finish_repliesKept _ _ _ _ _ _ _
  · exact finish_repliesKept _ _ _ _ _ _ _

theorem jobEnded_repliesKept (s : State) : RepliesKept s (jobEnded s) := by
  have hended : RepliesKept s (cmdsEnded s) := by
    unfold cmdsEnded
    extract_lets held
    have hheld : RepliesKept s held := endHeldAll_repliesKept _ _ _
    exact hheld.trans (.foldl (fun t c => endOpen_repliesKept 0x0401 c t) _ _)
  intro r hr
  rw [jobEnded_latch]
  exact hended r hr

theorem jobFault_repliesKept (unit status detail : Nat) (w : Where) (s : State) :
    RepliesKept s (jobFault unit status detail w s) := by
  refine jobFault_cases (motive := RepliesKept s) (.refl s) (fun e t ht => ?_) (fun e t ht => ?_)
  · exact ht.repliesKept.trans (secondary_counts e t).1.repliesKept
  · rw [enterFaulted_eq]
    exact (ht.repliesKept.trans (jobEnded_repliesKept t)).trans (faultedBy_writes ..).repliesKept

/-! ### Slots -/

/-- A slot that holds a step is one of the block's. -/
theorem slotAt_mem {s : State} {i : Nat} {c : StepCtx} (h : (slotAt s i).ctx = some c) : slotAt s i ∈ s.slots := by
  rw [slotAt, List.getD_eq_getElem?_getD] at h ⊢
  by_cases hi : i < s.slots.length
  · rw [List.getElem?_eq_getElem hi]
    exact List.getElem_mem hi
  · rw [List.getElem?_eq_none (by omega)] at h
    cases h

theorem endAwait_ctx {f : StepCtx → StepCtx} {s : State} {x : Slot} (hx : x ∈ (endAwait f s).slots) :
    ∃ y ∈ s.slots, x.ctx = y.ctx.map fun c => if c.awaitCommit then f { c with awaitCommit := false } else c := by
  obtain ⟨y, hy, rfl⟩ := List.mem_map.1 hx
  exact ⟨y, hy, rfl⟩

theorem endAwait_writes (f : StepCtx → StepCtx) (s : State) : Writes [.slots] s (endAwait f s) := .of_mix rfl

/-- With no step that waited for the commit, only the duties are tidied. -/
theorem reachAwaited_none {was : State} (h : ∀ x ∈ was.slots, ∀ k, x.ctx = some k → k.awaitCommit = false) (t : State) :
    reachAwaited was t = dutyTidy t := by
  unfold reachAwaited
  refine congrArg dutyTidy (List.foldlRecOn (motive := fun u => u = t) _ _ rfl fun u hu i _ => ?_)
  subst hu
  split
  case h_1 a c ha hc => rw [if_neg (by simp [h _ (slotAt_mem ha) a ha])]
  case h_2 => rfl

/-! ### A commit is refused -/

/-- The commit is gone, its command answered, and the steps it held go on (R88). -/
def commitDropped (status : Nat) (c : Commit) (s : State) : State :=
  endAwait (fun x => x) (finish c.cmd status 0 0 0 0 { s with ep := { s.ep with commit := none } })

theorem commitRefused_eq (status : Nat) (c : Commit) (s : State) :
    commitRefused status c s = (List.range 64).foldl (fun t i => endUnloaded i t) (commitDropped status c s) := rfl

theorem commitDropped_writes (status : Nat) (c : Commit) (s : State) :
    Writes [.ep, .latch, .drip, .slots] s (commitDropped status c s) := by
  refine .after (endAwait_writes ..) (.after (finish_writes ..) ?_)
  exact .of_mix rfl

theorem commitDropped_ep (status : Nat) (c : Commit) (s : State) :
    (commitDropped status c s).ep = { s.ep with commit := none } :=
  ((endAwait_writes ..).same .ep (by decide)).trans ((finish_writes ..).same .ep (by decide))

theorem commitDropped_ctx {status : Nat} {c : Commit} {s : State} {x : Slot} {k : StepCtx}
    (hx : x ∈ (commitDropped status c s).slots) (hk : x.ctx = some k) :
    ∃ y ∈ s.slots, ∃ j, y.ctx = some j ∧ k.epoch = j.epoch ∧ k.layer = j.layer := by
  obtain ⟨y, hy, hctx⟩ := endAwait_ctx hx
  rw [(finish_writes ..).same .slots (by decide)] at hy
  obtain ⟨j, hj, hsame⟩ := Option.map_eq_some_iff.1 (hctx.symm.trans hk)
  refine ⟨y, hy, j, hj, ?_⟩
  rw [← hsame]
  split_ifs
  · exact ⟨rfl, rfl⟩
  · exact ⟨rfl, rfl⟩

theorem layerIn_congr {s t : State} (h : t.ep.epochs = s.ep.epochs) (num layer : Nat) : layerIn t num layer = layerIn s num layer := by
  rw [layerIn, layerIn, epochAt, epochAt, h]

theorem endUnloaded_writes (i : Nat) (s : State) : Writes faultFields s (endUnloaded i s) := by
  unfold endUnloaded
  split
  · exact .ite (fun _ => jobFault_writes ..) (fun _ => .refl _ s)
  · exact .refl _ s

theorem endUnloaded_ep {i : Nat} {s : State} (h : s.ep.commit = none) : (endUnloaded i s).ep = s.ep := by
  unfold endUnloaded
  split
  · split_ifs
    · exact jobFault_ep h
    · rfl
  · rfl

theorem endUnloaded_repliesKept (i : Nat) (s : State) : RepliesKept s (endUnloaded i s) := by
  unfold endUnloaded
  split
  · split_ifs
    · exact jobFault_repliesKept _ _ _ _ _
    · exact .refl s
  · exact .refl s

/-- A step whose layer its epoch loaded goes on. -/
theorem endUnloaded_loaded {i : Nat} {s : State}
    (h : ∀ x ∈ s.slots, ∀ k, x.ctx = some k → (layerIn s k.epoch k.layer).isSome = true) : endUnloaded i s = s := by
  unfold endUnloaded
  split
  case h_1 k hk =>
    have hloaded := h _ (slotAt_mem hk) k hk
    rw [if_neg]
    rintro ⟨-, hnone, -⟩
    rw [Option.isNone_iff_eq_none] at hnone
    rw [hnone] at hloaded
    cases hloaded
  case h_2 => rfl

/-- A refused commit keeps the staging area and the Keyring, and answers its command (R88). -/
theorem commitRefused_result (status : Nat) (c : Commit) (s : State) :
    (commitRefused status c s).ep = { s.ep with commit := none } ∧ (commitRefused status c s).keyring = s.keyring ∧
    ((∀ x ∈ s.slots, ∀ k, x.ctx = some k → (layerIn s k.epoch k.layer).isSome = true) →
      (commitRefused status c s).job = s.job) ∧
    (s.latch.opened.any (fun x => sameCmd x c.cmd) = true →
      ∃ r ∈ (commitRefused status c s).latch.replies, r.tag = c.cmd.tag ∧ r.order = c.cmd.order ∧ r.status = status ∧
        r.final = true) := by
  have hdropped := commitDropped_writes status c s
  have hep := commitDropped_ep status c s
  have hloop : Writes faultFields (commitDropped status c s) (commitRefused status c s) :=
    .foldl (fun t i => endUnloaded_writes i t) _ _
  refine ⟨?_, (hloop.same .keyring (by decide)).trans (hdropped.same .keyring (by decide)), fun hloaded => ?_, fun hopen => ?_⟩
  · rw [commitRefused_eq]
    refine List.foldlRecOn (motive := fun t : State => t.ep = { s.ep with commit := none }) _ _ hep fun t ht i _ => ?_
    exact (endUnloaded_ep (by rw [ht])).trans ht
  · have hstays : commitRefused status c s = commitDropped status c s := by
      rw [commitRefused_eq]
      refine List.foldlRecOn (motive := fun t => t = commitDropped status c s) _ _ rfl fun t ht i _ => ?_
      subst ht
      refine endUnloaded_loaded fun x hx k hk => ?_
      obtain ⟨y, hy, j, hj, hepoch, hlayer⟩ := commitDropped_ctx hx hk
      rw [hepoch, hlayer, layerIn_congr (s := s) (by rw [hep])]
      exact hloaded y hy j hj
    rw [hstays, hdropped.same .job (by decide)]
  · obtain ⟨r, hlast, htag, horder, hstatus, -, hfinal⟩ :=
      finish_last (c := c.cmd) (s := { s with ep := { s.ep with commit := none } }) hopen status 0
    have hkept : RepliesKept (commitDropped status c s) (commitRefused status c s) :=
      .foldl (fun t i => endUnloaded_repliesKept i t) _ _
    exact ⟨r, hkept r (List.mem_of_getLast? hlast), htag, horder, hstatus, hfinal⟩

/-! ### The switch -/

/-- The new epoch stands, and the steps that waited run under it (R87, R105). -/
def epochMade (c : Commit) (s : State) : State :=
  let n := s.ep.num + 1
  let new := s.ep.staged.map fun x => let l := switchEntries s x
    ({ epoch := n, layer := x.img.layer, entries := l, digest := krDigest l } : KrArray)
  let e : Epoch := { num := n, first := c.step, layers := layersNext s, tables := tablesNext s }
  let wins := s.bias.wins.map fun x => { x with
    dropped := x.dropped || winDrops s c.step x,
    epoch := if c.step ≤ winStart s x.w then n else x.epoch }
  endAwait (fun x => { x with epoch := n }) { s with
    keyring := s.keyring.map fun cp => cp ++ new,
    bias := { s.bias with wins := wins },
    ep := { num := n, epochs := e :: s.ep.epochs, staged := [], stagedTables := [], commit := none } }

/-- Epochs and arrays that nothing needs are dropped, and the updates lost are counted. -/
def epochPruned (c : Commit) (s : State) : State :=
  krPrune (ctrAdd 3 (s.bias.wins.filter (winDrops s c.step)).length (epochMade c s))

/-- EV_EPOCH is out. -/
def epochTold (c : Commit) (s : State) : State :=
  let t := epochPruned c s
  dripAt 13 0 (s.ep.num + 1) (evSend { evMake t 0x000C false 0x0000 (s.ep.num + 1) with step := c.step } t)

theorem epochSwitch_some {c : Commit} {s : State} {k : Nat}
    (h : krReadBad s.ep.num ((s.ep.staged.filter (·.img.keepBias)).map (·.img.layer)) s = some k) :
    epochSwitch c s = jobFault (0x10 + k) 0x0406 0 Where.none s := by
  simp only [epochSwitch, h]

theorem epochSwitch_none {c : Commit} {s : State}
    (h : krReadBad s.ep.num ((s.ep.staged.filter (·.img.keepBias)).map (·.img.layer)) s = none) :
    epochSwitch c s = finish c.cmd 0 (s.ep.num + 1) 0 0 0 (epochTold c s) := by
  simp only [epochSwitch, h]
  rfl

theorem epochMade_writes (c : Commit) (s : State) : Writes [.keyring, .bias, .ep, .slots] s (epochMade c s) := by
  unfold epochMade
  extract_lets n new e wins
  refine .after (endAwait_writes ..) ?_
  exact .of_mix rfl

theorem krPrune_writes (s : State) : Writes [.keyring, .ep] s (krPrune s) := .of_mix rfl

theorem foldl_min_le {α : Type} (f : Nat → α → Nat) (hf : ∀ a x, f a x ≤ a) (l : List α) (n : Nat) : l.foldl f n ≤ n :=
  List.foldlRecOn (motive := fun m => m ≤ n) _ _ le_rfl fun m hm x _ => (hf m x).trans hm

/-- The newest epoch is kept, and leads the list. -/
theorem krPrune_ep {s : State} {e : Epoch} {r : List Epoch} (h : s.ep.epochs = e :: r) (hnum : e.num = s.ep.num) :
    (krPrune s).ep.num = s.ep.num ∧ (krPrune s).ep.staged = s.ep.staged ∧ (krPrune s).ep.stagedTables = s.ep.stagedTables ∧
    (krPrune s).ep.commit = s.ep.commit ∧ (krPrune s).ep.epochs.head? = some e := by
  refine ⟨rfl, rfl, rfl, rfl, ?_⟩
  have hold : epochOldest s ≤ s.ep.num := foldl_min_le _ (fun a b => Nat.min_le_left a b) _ _
  have holdest : (s.bias.wins.filter (winNeeds s)).foldl (fun a x => min a x.epoch) (epochOldest s) ≤ e.num :=
    (foldl_min_le _ (fun a _ => Nat.min_le_left ..) _ _).trans (hnum ▸ hold)
  show (s.ep.epochs.filter fun x => decide ((s.bias.wins.filter (winNeeds s)).foldl (fun a x => min a x.epoch) (epochOldest s) ≤ x.num)).head? =
    some e
  rw [h, List.filter_cons_of_pos (by simpa using holdest)]
  rfl

theorem epochPruned_writes (c : Commit) (s : State) :
    Writes [.keyring, .bias, .ep, .slots, .counters] s (epochPruned c s) :=
  .after (krPrune_writes _) (.after (ctrAdd_writes ..) (epochMade_writes c s).mono)

theorem epochTold_writes (c : Commit) (s : State) : Writes [.ev, .counters, .drip] (epochPruned c s) (epochTold c s) :=
  .after (dripAt_writes ..) (evSend_writes ..)

/-- What the switch leaves of the epochs (R87, R105). -/
theorem epochTold_ep (c : Commit) (s : State) : (epochTold c s).ep.num = s.ep.num + 1 ∧ (epochTold c s).ep.staged = [] ∧
    (epochTold c s).ep.stagedTables = [] ∧ (epochTold c s).ep.commit = none ∧
    (epochTold c s).ep.epochs.head? =
      some { num := s.ep.num + 1, first := c.step, layers := layersNext s, tables := tablesNext s } := by
  have hmade : (epochMade c s).ep =
      { num := s.ep.num + 1,
        epochs := { num := s.ep.num + 1, first := c.step, layers := layersNext s, tables := tablesNext s } :: s.ep.epochs,
        staged := [], stagedTables := [], commit := none } := rfl
  have hpruned : epochPruned c s = krPrune (ctrAdd 3 (s.bias.wins.filter (winDrops s c.step)).length (epochMade c s)) := rfl
  rw [(epochTold_writes c s).same .ep (by decide), hpruned]
  generalize epochMade c s = u at hmade
  have hcounted (n : Nat) : (ctrAdd 3 n u).ep = u.ep := rfl
  have hep := krPrune_ep (s := ctrAdd 3 (s.bias.wins.filter (winDrops s c.step)).length u)
    (e := { num := s.ep.num + 1, first := c.step, layers := layersNext s, tables := tablesNext s }) (r := s.ep.epochs)
    (by rw [hcounted, hmade]) (by rw [hcounted, hmade])
  rw [hcounted, hmade] at hep
  exact hep

theorem evSend_seq (e : Event) (s : State) : (evSend e s).ev.seq = (s.ev.seq + 1) % 65536 := by
  rw [evSend, evQueue_seq, dripAt_ev]

theorem epochTold_seq (c : Commit) (s : State) : (epochTold c s).ev.seq = (s.ev.seq + 1) % 65536 := by
  have hpruned : (epochPruned c s).ev = s.ev := (epochPruned_writes c s).same .ev (by decide)
  unfold epochTold
  extract_lets t
  rw [(dripAt_writes ..).same .ev (by decide), evSend_seq]
  exact congrArg (fun e : EvQueue => (e.seq + 1) % 65536) hpruned

theorem epochTold_slots {c : Commit} {s : State} {x : Slot} {k : StepCtx} (hx : x ∈ (epochTold c s).slots)
    (hk : x.ctx = some k) : k.awaitCommit = false := by
  have hsame : (epochTold c s).slots = (epochMade c s).slots :=
    ((epochTold_writes c s).same .slots (by decide)).trans ((krPrune_writes _).same .slots (by decide))
  rw [hsame] at hx
  obtain ⟨y, -, hctx⟩ := endAwait_ctx hx
  obtain ⟨j, -, hj⟩ := Option.map_eq_some_iff.1 (hctx.symm.trans hk)
  rw [← hj]
  split_ifs with h
  · rfl
  · exact Bool.eq_false_iff.2 h

/-! ### The commands -/

/-- With no commit pending a load has no commit to note (R88). -/
theorem noteLoad_none {s : State} (h : s.ep.commit = none) : noteLoad s = s := by
  unfold noteLoad
  extract_lets failed
  have hsame : ({ s.ep with commit := s.ep.commit.map fun c => ({ c with bad := c.bad || failed c } : Commit) } : Epochs) = s.ep := by
    rw [h, Option.map_none, ← h]
  rw [hsame]

theorem commitState_pending {c : Commit} {s : State} {n : Nat} (h : s.ep.commit = some c) (hn : n ∉ c.loads) :
    commitState n s = some (0x0208, 0, 0) := by
  rw [commitState, h]
  simp [hn]

theorem commitState_none {s : State} {n : Nat} (h : s.ep.commit = none) : commitState n s = none := by
  rw [commitState, h]
  rfl

theorem commitState_takePacket (n : Nat) (p : Packet) (s : State) : commitState n (takePacket p s) = commitState n s := by
  rw [commitState, commitState, takePacket_ep]

theorem exec_layerLoad_pending {p : Packet} {io : Io} {s : State} {c : Commit} (h : RunsJob 0x14 p s)
    (hlen : p.payloadLen.toNat = 0) (hlayer : p.p0.toNat % 512 < s.job.desc.nLayers) (hcommit : s.ep.commit = some c)
    (hload : s.latch.order ∉ c.loads) : exec (.layerLoad p io) s =
      .next (noteLoad (replyOne p s.latch.order 0x0208 0 0 0 0 (takePacket p s))) := by
  rw [PacketForm.exec_start (c := .layerLoad p io) (fun _ => rfl) h.toRuns, startLayerLoad, asyncCmd, checked_refused]
  rw [checkFields_eq_state_of_runsJob h (by omega) (by simp [hlen]) (by simpa using hlayer)]
  simp only [commitState_takePacket, commitState_pending hcommit hload]

theorem exec_tableLoad_pending {p : Packet} {io : Io} {s : State} {c : Commit} (h : RunsJob 0x16 p s)
    (hlen : p.payloadLen.toNat = 0) (hidx : p.p0.toNat % 4 = 0) (hcommit : s.ep.commit = some c)
    (hload : s.latch.order ∉ c.loads) : exec (.tableLoad p io) s =
      .next (noteLoad (replyOne p s.latch.order 0x0208 0 0 0 0 (takePacket p s))) := by
  rw [PacketForm.exec_start (c := .tableLoad p io) (fun _ => rfl) h.toRuns, startTableLoad, asyncCmd, checked_refused]
  rw [checkFields_eq_state_of_runsJob h (by omega) (by simp [hlen]) (by simpa using hidx)]
  simp only [commitState_takePacket, commitState_pending hcommit hload]

/-- LAYER_LOAD with its image read (R87, R102, R104). -/
theorem exec_layerLoad {p : Packet} {io : Io} {s u w : State} {b : List Byte} (h : RunsJob 0x14 p s)
    (hlen : p.payloadLen.toNat = 0) (hlayer : p.p0.toNat % 512 < s.job.desc.nLayers) (hentry : entryFree s)
    (hcommit : s.ep.commit = none) (hranges : checkRanges [(1, pVa p, p.p3.toNat, false)] io (takePacket p s) = (u, none))
    (hread : ownRead 1 (pVa p) p.p3.toNat io (accept p s.latch.order 0 u) = (w, .ok b)) :
    exec (.layerLoad p io) s = .next (noteLoad (match layerBad w b (p.p0.toNat % 512) with
      | some st => finish (openOf p s.latch.order) st 0 0 0 0 w
      | none => finish (openOf p s.latch.order) 0 (w.ep.num + 1) 0 0 0
          (stageLayer (layerOf b) (entriesOf b (layerOf b).nExperts) w))) := by
  rw [PacketForm.exec_start (c := .layerLoad p io) (fun _ => rfl) h.toRuns, startLayerLoad, asyncCmd,
    checked_runsJob (u := u) h (by omega) (by simp [hlen]) (by simpa using hlayer)
      ((commitState_takePacket ..).trans (commitState_none hcommit)) hranges rfl (fun _ => hentry),
    show ownRead 1 (pVa p) p.p3.toNat (Ext.ofIo io).io (accept p s.latch.order 0 u) = (w, .ok b) from hread] <;> rfl

/-- Stage a table image. -/
def stageTable (i : Table) (s : State) : State :=
  { s with ep := { s.ep with stagedTables := s.ep.stagedTables.filter (fun y => decide (y.index ≠ i.index)) ++ [i] } }

/-- TABLE_LOAD with its image read (R176 to R179). -/
theorem exec_tableLoad {p : Packet} {io : Io} {s u w : State} {b : List Byte} (h : RunsJob 0x16 p s)
    (hlen : p.payloadLen.toNat = 0) (hidx : p.p0.toNat % 4 = 0) (hentry : entryFree s)
    (hcommit : s.ep.commit = none) (hranges : checkRanges [(1, pVa p, p.p3.toNat, false)] io (takePacket p s) = (u, none))
    (hread : ownRead 1 (pVa p) p.p3.toNat io (accept p s.latch.order 0 u) = (w, .ok b)) :
    exec (.tableLoad p io) s = .next (noteLoad (match tableBad b (bits p.p0.toNat 10 8) with
      | some (st, rej) => finish (openOf p s.latch.order) st 0 0 0 0 (if rej = 0 then w else setP w 0x0018 rej)
      | none => finish (openOf p s.latch.order) 0 (w.ep.num + 1) 0 0 0 (stageTable (tableImage b) w))) := by
  rw [PacketForm.exec_start (c := .tableLoad p io) (fun _ => rfl) h.toRuns, startTableLoad, asyncCmd,
    checked_runsJob (u := u) h (by omega) (by simp [hlen]) (by simpa using hidx)
      ((commitState_takePacket ..).trans (commitState_none hcommit)) hranges rfl (fun _ => hentry),
    show ownRead 1 (pVa p) p.p3.toNat (Ext.ofIo io).io (accept p s.latch.order 0 u) = (w, .ok b) from hread] <;> rfl

/-- A command's own read leaves the epochs. -/
theorem read_ep {p : Packet} {io : Io} {s u w : State} {b : List Byte} {n : Nat}
    (hranges : checkRanges [(1, pVa p, p.p3.toNat, false)] io (takePacket p s) = (u, none))
    (hread : ownRead 1 (pVa p) p.p3.toNat io (accept p n 0 u) = (w, .ok b)) : w.ep = s.ep := by
  have hown := ownRead_writes 1 (pVa p) p.p3.toNat io (accept p n 0 u)
  rw [hread] at hown
  exact (hown.same .ep (by decide)).trans ((accept_ranges_writes hranges n 0).same .ep (by decide))

/-- Acceptance makes no final reply, so no load's. -/
theorem loadsOut_accept (p : Packet) (n : Nat) (s : State) : loadsOut (accept p n 0 (takePacket p s)) = loadsOut s := by
  rw [accept_eq, takePacket_latch]
  simp [loadsOut]

theorem finish_noteLoad {s : State} (o : OpenCmd) (status r0 : Nat) (h : s.ep.commit = none) :
    noteLoad (finish o status r0 0 0 0 s) = finish o status r0 0 0 0 s :=
  noteLoad_none (by rw [(finish_writes ..).same .ep (by decide), h])

theorem exec_epochTakesEffect {s : State} {c : Commit} (hlost : s.rst.rootLost = false) (hcommit : s.ep.commit = some c) :
    exec .epochTakesEffect s = .next
      (if c.ready ∧ jobGoes s ∧ stepTaken s c.step ∧ biasDone s c.step then reachAwaited s (epochSwitch c s) else s) := by
  rw [exec, execEpochTakesEffect, live_next hlost, hcommit]

theorem exec_commitLoadsDone {s : State} {c : Commit} (hlost : s.rst.rootLost = false) (hcommit : s.ep.commit = some c) :
    exec .commitLoadsDone s = .next
      (if c.ready ∨ jobGoes s = false ∨ (c.loads.any fun o => (loadsOut s).contains o) = true then s
       else if c.bad then reachAwaited s (commitRefused 0x0108 c s)
       else if (layersNext s).all fun l => ownGroup s l.biasGroup then
         { s with ep := { s.ep with commit := some { c with ready := true } } }
       else reachAwaited s (commitRefused 0x0106 c s)) := by
  rw [exec, execCommitLoadsDone, live_next hlost, hcommit]

/-- Settles O38. -/
theorem loadsAndCommitComplete : Obligations.LoadsAndCommitComplete := by
  unfold Obligations.LoadsAndCommitComplete
  intro p io s u w b _ n o t0 read
  refine ⟨fun h hlen hlayer hentry => ⟨fun c hcommit hload => exec_layerLoad_pending h hlen hlayer hcommit hload, fun hcommit hread => ?_⟩,
    fun h hlen hidx hentry => ⟨fun c hcommit hload => exec_tableLoad_pending h hlen hidx hcommit hload, fun hcommit hread => ?_⟩,
    fun h hlen hentry => ?_, fun hlost c hcommit => ?_, fun hlost hcommit => ?_⟩
  · obtain ⟨hranges, hread⟩ := hread
    have hexec := exec_layerLoad h hlen hlayer hentry hcommit hranges hread
    have hep := read_ep hranges hread
    have hnone : w.ep.commit = none := by rw [hep, hcommit]
    refine ⟨fun st hbad => ?_, fun hgood => ?_⟩
    · rw [hexec, hbad]
      exact congrArg Host.Outcome.next (finish_noteLoad _ _ _ hnone)
    · rw [hgood] at hexec
      simp only at hexec
      rw [finish_noteLoad (s := stageLayer (layerOf b) (entriesOf b (layerOf b).nExperts) w) _ _ _ hnone, hep] at hexec
      refine ⟨_, hexec, ?_⟩
      beta_reduce
      have hstaged := (finish_writes (openOf p s.latch.order) 0 (s.ep.num + 1) 0 0 0
        (stageLayer (layerOf b) (entriesOf b (layerOf b).nExperts) w)).same .ep (by decide)
      rw [hstaged, stageLayer, hep]
      refine ⟨fun x => ?_, rfl⟩
      simp
  · obtain ⟨hranges, hread⟩ := hread
    have hexec := exec_tableLoad h hlen hidx hentry hcommit hranges hread
    have hep := read_ep hranges hread
    have hnone : w.ep.commit = none := by rw [hep, hcommit]
    refine ⟨fun st hbad => ?_, fun st rej hrej hbad => ?_, fun hgood => ?_⟩
    · rw [hexec, hbad]
      exact congrArg Host.Outcome.next (finish_noteLoad _ _ _ hnone)
    · rw [hexec, hbad]
      simp only [hrej, if_false]
      exact congrArg Host.Outcome.next (finish_noteLoad _ _ _ hnone)
    · rw [hgood] at hexec
      simp only at hexec
      rw [finish_noteLoad (s := stageTable (tableImage b) w) _ _ _ hnone, hep] at hexec
      refine ⟨_, hexec, ?_⟩
      beta_reduce
      have hstaged := (finish_writes (openOf p s.latch.order) 0 (s.ep.num + 1) 0 0 0 (stageTable (tableImage b) w)).same .ep (by decide)
      rw [hstaged, stageTable, hep]
      refine ⟨fun x => ?_, rfl⟩
      simp
  · have hrefused {st : Nat} (hst : (if stepTaken s (pVa p) then some (0x0206, 0, 0)
        else if s.ep.commit.isSome then some (0x0208, 0, 0) else none) = some (st, 0, 0)) :
        exec (.keyringCommit p) s = .next (replyOne p n st 0 0 0 0 t0) := by
      rw [PacketForm.exec_start (c := .keyringCommit p) (fun _ => rfl) h.toRuns, startKeyringCommit, asyncCmd, checked_refused]
      rw [checkFields_eq_state_of_runsJob h (by omega) (by simp [hlen]) rfl, stepTaken_takePacket, takePacket_ep]
      exact hst
    refine ⟨fun htaken => hrefused (by rw [if_pos htaken]), fun htaken hpending => hrefused ?_, fun htaken hnone => ?_⟩
    · rw [if_neg (by simp [htaken]), if_pos hpending]
    · rw [PacketForm.exec_start (c := .keyringCommit p) (fun _ => rfl) h.toRuns, startKeyringCommit, asyncCmd,
        checked_runsJob (u := t0) h (by omega) (by simp [hlen]) rfl (by simp [stepTaken_takePacket, htaken, hnone]) rfl rfl
          (fun _ => hentry)]
      have hep : (accept p s.latch.order 0 t0).ep = s.ep := (taken_writes p s.latch.order s).same .ep (by decide)
      simp only [loadsOut_accept, hep, t0, n, o]
  · intro out goes poison
    have hswitch := exec_epochTakesEffect hlost hcommit
    have hloads := exec_commitLoadsDone hlost hcommit
    have hgo : goes → ¬ (c.ready = true ∨ jobGoes s = false ∨ (c.loads.any fun q => (loadsOut s).contains q) = true) := by
      rintro ⟨hready, hgoes, hout⟩
      rw [hready, hgoes, show (c.loads.any fun q => (loadsOut s).contains q) = false from hout]
      decide
    refine ⟨fun hgoes hbad hgroups => ?_, fun hgoes hbad => ?_,
      fun hgoes hbad ⟨l, hl, hgroup⟩ => ?_, fun st => commitRefused_result st c s, fun hstays => ?_,
      fun t h => reachAwaited_none h t, fun hready hgoes htaken hdone => ⟨?_, fun k hk => epochSwitch_some hk, fun hnone => ?_⟩, fun h => ?_⟩
    · rw [hloads, if_neg (hgo hgoes), if_neg (by simp [hbad]), if_pos (List.all_eq_true.2 hgroups)]
    · rw [hloads, if_neg (hgo hgoes), if_pos hbad]
    · rw [hloads, if_neg (hgo hgoes), if_neg (by simp [hbad]), if_neg]
      exact fun hall => by simp [List.all_eq_true.1 hall l hl] at hgroup
    · rw [hloads, if_pos]
      by_contra hnot
      rw [not_or, not_or, Bool.not_eq_true, Bool.not_eq_false, Bool.not_eq_true] at hnot
      exact hstays hnot
    · rw [hswitch, if_pos ⟨hready, hgoes, htaken, hdone⟩]
    · obtain ⟨hnum, hstaged, htables, hcom, hhead⟩ := epochTold_ep c s
      have hpruned := epochPruned_writes c s
      have htold := epochTold_writes c s
      have hslots : ∀ x ∈ (epochTold c s).slots, ∀ k, x.ctx = some k → k.awaitCommit = false :=
        fun _ hx _ hk => epochTold_slots hx hk
      have hseq := epochTold_seq c s
      have hopened : (epochTold c s).latch = s.latch := (htold.same .latch (by decide)).trans (hpruned.same .latch (by decide))
      have hend := finish_writes c.cmd 0 (s.ep.num + 1) 0 0 0 (epochTold c s)
      rw [epochSwitch_none hnone, hend.same .ep (by decide), hend.same .ev (by decide), hend.same .slots (by decide),
        hend.same .job (by decide), hend.same .hostMem (by decide), hend.same .sp (by decide)]
      refine ⟨hnum, hstaged, htables, hcom, hhead, fun hopen => ?_, hseq, hslots, ?_, ?_, ?_⟩
      · obtain ⟨r, hlast, htag, -, hstatus, hr0, hfinal⟩ := finish_last (s := epochTold c s) (c := c.cmd) (by rwa [hopened]) 0 (s.ep.num + 1)
        exact ⟨r, hlast, htag, hstatus, hr0, hfinal⟩
      · exact (htold.same .job (by decide)).trans (hpruned.same .job (by decide))
      · exact (htold.same .hostMem (by decide)).trans (hpruned.same .hostMem (by decide))
      · exact (htold.same .sp (by decide)).trans (hpruned.same .sp (by decide))
    · rw [hswitch, if_neg]
      rintro ⟨hready, hgoes, htaken, hdone⟩
      simp [hready, hgoes, htaken, hdone] at h
  · exact ⟨by rw [exec, execCommitLoadsDone, live_next hlost, hcommit], by rw [exec, execEpochTakesEffect, live_next hlost, hcommit]⟩

end Sys2Proof.Machine
end

section
/-! PROOFS. STEP_RUN (R72, R73, R90, R94, R96, R120, R121). -/

namespace Sys2Proof.Machine

-- One declaration at a time: see the frames of the state's operations.
set_option Elab.async false

/-! ### What the start of a step writes -/

/-- What the start of a step writes. -/
def stepFields : List Fld := .freeCtr :: .keyway :: .mport :: .funnelHeld :: .sp :: .spPoison :: faultFields

/-- The start of a step leaves the bound on step numbers. -/
structure StepFrame (s t : State) : Prop where
  writes : Writes stepFields s t
  top : t.job.topStep = s.job.topStep

namespace StepFrame

theorem refl (s : State) : StepFrame s s := ⟨.refl _ s, rfl⟩

theorem trans {s t u : State} (hst : StepFrame s t) (htu : StepFrame t u) : StepFrame s u :=
  ⟨hst.writes.trans htu.writes, htu.top.trans hst.top⟩

theorem ite {c : Prop} [Decidable c] {s t u : State} (ht : c → StepFrame s t) (hu : ¬ c → StepFrame s u) :
    StepFrame s (if c then t else u) := by
  split_ifs with h
  · exact ht h
  · exact hu h

theorem foldl {α : Type} {f : State → α → State} (hf : ∀ t x, StepFrame t (f t x)) (l : List α) (s : State) :
    StepFrame s (l.foldl f s) :=
  List.foldlRecOn (motive := StepFrame s) _ _ (.refl s) fun t ht x _ => ht.trans (hf t x)

end StepFrame

theorem Writes.stepFrame {l : List Fld} {s t : State} (h : Writes l s t) (hl : l ⊆ stepFields := by decide)
    (hjob : .job ∉ l := by decide) : StepFrame s t := ⟨h.mono hl, by rw [h.same .job hjob]⟩

/-- A job fault leaves the job's record but for its state, its commands and the tick. -/
theorem jobFault_record (unit status detail : Nat) (w : Where) (s : State) :
    (jobFault unit status detail w s).job.topStep = s.job.topStep ∧ (jobFault unit status detail w s).job.desc = s.job.desc := by
  refine jobFault_cases (motive := fun t => t.job.topStep = s.job.topStep ∧ t.job.desc = s.job.desc) ⟨rfl, rfl⟩
    (fun e t ht => ?_) (fun e t ht => ?_)
  · rw [(secondary_counts e t).1.same .job (by decide), ht.same .job (by decide)]
    exact ⟨rfl, rfl⟩
  · rw [(enterFaulted_job e t).1, ht.same .job (by decide)]
    exact ⟨rfl, rfl⟩

theorem jobFault_stepFrame (unit status detail : Nat) (w : Where) (s : State) :
    StepFrame s (jobFault unit status detail w s) := ⟨(jobFault_writes ..).mono, (jobFault_record ..).1⟩

theorem xlateFault_stepFrame (f : XFault) (w : Where) (s : State) : StepFrame s (xlateFault f w s) := jobFault_stepFrame ..

/-! ### A tensor's rows -/

theorem tRun_read_writes (t : TRun) (va n : Nat) : Writes [.keyway] t.s (t.read va n).1.s := by
  unfold TRun.read
  split_ifs
  · exact .refl _ t.s
  · have hrange := xlateRange_writes t.s 1 va n false
    split
    case h_1 h =>
      rw [h] at hrange
      exact hrange
    case h_2 h =>
      rw [h] at hrange
      exact hrange

theorem elemRead_writes (d : Desc) (o : List Nat) (i : Nat) (t : TRun) : Writes [.keyway] t.s (elemRead d o i t).1.s := by
  unfold elemRead
  extract_lets e pl u r code q
  split_ifs
  · exact (tRun_read_writes ..).trans (tRun_read_writes ..)
  · exact tRun_read_writes ..

theorem rowRead_writes (d : Desc) (o : List Nat) (n : Nat) (t : TRun) : Writes [.keyway] t.s (rowRead d o n t).1.s := by
  unfold rowRead
  split_ifs
  · exact .refl _ t.s
  · extract_lets o r
    exact List.foldlRecOn (motive := fun a : TRun × List Elem => Writes [.keyway] t.s a.1.s) _ _ (.refl _ t.s)
      fun a ha i _ => ha.trans (elemRead_writes ..)

theorem inRow_writes (c : StepCtx) (d t : Nat) (r : TRun) : Writes [.keyway] r.s (inRow c d t r).1.s := rowRead_writes ..

theorem mportIssue_writes (m : MReq) (s : State) : Writes [.mport] s (mportIssue m s) := by
  unfold mportIssue
  split
  · exact .of_mix rfl
  · exact .of_mix rfl

theorem mportAsk_writes (write : Bool) (cls : Nat) (who : Requester) (l : List Piece) (s : State) :
    Writes [.mport] s (mportAsk write cls who l s) := .foldl (fun _ _ => mportIssue_writes ..) _ s

theorem rowPut_writes (i t : Nat) (v : List Num) (s : State) : Writes [.slots] s (rowPut i t v s) := ctxMap_writes ..

theorem readRows_stepFrame (i : Nat) (c : StepCtx) (s : State) : StepFrame s (readRows i c s) := by
  refine .foldl (fun t k => .ite (fun _ => .refl t) fun _ => .ite (fun _ => (rowPut_writes ..).stepFrame) fun _ => ?_) _ s
  extract_lets r
  have hrow : StepFrame t r.1.s := (inRow_writes c t.job.desc.d k (TRun.start t)).stepFrame
  split
  · exact hrow.trans (xlateFault_stepFrame ..)
  · exact hrow.trans (mportAsk_writes ..).stepFrame

/-! ### The packets that waited -/

theorem bodyFill_writes (n : Nat) (body : List Byte) (s : State) : Writes [.freeCtr] s (bodyFill n body s).1 := .of_mix rfl

theorem takeRows_stepFrame (kind : Nat) (f : FunnelPkt) (i : Nat) (l : Layer) (s : State) :
    StepFrame s (takeRows kind f i l s) := by
  unfold takeRows
  extract_lets d b
  have hbody : StepFrame s b.1 := (bodyFill_writes ..).stepFrame
  refine hbody.trans (.foldl (fun t r => ?_) _ _)
  split
  · exact .refl t
  · extract_lets k got v
    refine .ite (fun _ => .refl t) fun _ => .ite (fun _ => jobFault_stepFrame ..) fun _ => .ite (fun _ => ?_) fun _ => ?_
    · exact (rowPut_writes ..).stepFrame
    · exact (ctxMap_writes ..).stepFrame.trans (carafeAsk_writes ..).stepFrame

theorem holdPacket_stepFrame (kind : Nat) (f : FunnelPkt) (s : State) : StepFrame s (holdPacket kind f s) := by
  have hheld : Writes [.funnelHeld] s { s with funnelHeld := s.funnelHeld ++ [(kind, f)] } := .of_mix rfl
  exact hheld.stepFrame.trans (carafeAsk_writes ..).stepFrame

theorem assignPacket_stepFrame (kind : Nat) (f : FunnelPkt) (s : State) : StepFrame s (assignPacket kind f s) := by
  have hcount : StepFrame s (ctrInc 0 s) := (ctrInc_writes ..).stepFrame
  unfold assignPacket
  extract_lets x newer
  split
  · refine .ite (fun _ => .ite (fun _ => holdPacket_stepFrame ..) fun _ => ?_)
      fun _ => .ite (fun _ => holdPacket_stepFrame ..) fun _ => hcount
    split
    · exact .refl s
    · exact .ite (fun _ => jobFault_stepFrame ..) fun _ => takeRows_stepFrame ..
  · exact .ite (fun _ => holdPacket_stepFrame ..) fun _ => hcount

theorem flushHeld_stepFrame (i : Nat) (s : State) : StepFrame s (flushHeld i s) := by
  unfold flushHeld
  split
  · exact .refl s
  · refine .ite (fun _ => .refl s) fun _ => ?_
    extract_lets mine s₁ s₂
    have hout : Writes [.funnelHeld] s s₁ := .of_mix rfl
    have hfreed : StepFrame s s₂ := hout.stepFrame.trans (freeCells_writes ..).stepFrame
    exact hfreed.trans (.foldl (fun t f => assignPacket_stepFrame ..) _ _)

/-- With no packet held for the step, only the cells of those before it are given back. -/
theorem flushHeld_none {i : Nat} {s : State} {c : StepCtx} (hctx : (slotAt s i).ctx = some c)
    (h : ∀ f ∈ s.funnelHeld, f.2.slot ≠ i ∨ c.step < f.2.step) : Writes (.funnelHeld :: cellFields) s (flushHeld i s) := by
  have hmine : s.funnelHeld.filter (fun f => decide (f.2.slot = i ∧ f.2.step ≤ c.step)) = [] := by
    rw [List.filter_eq_nil_iff]
    intro f hf hmine
    obtain ⟨hslot, hstep⟩ := of_decide_eq_true hmine
    exact (h f hf).elim (fun hne => hne hslot) (fun hlt => by omega)
  unfold flushHeld
  rw [hctx]
  refine .ite (fun _ => .refl _ s) fun _ => ?_
  extract_lets mine s₁ s₂
  have hout : Writes (.funnelHeld :: cellFields) s s₁ := .of_mix rfl
  have hempty : mine = [] := hmine
  have hfreed : Writes (.funnelHeld :: cellFields) s s₂ := .after (freeCells_writes ..) hout
  rw [hempty]
  exact hfreed

/-! ### The duty that the step reaches -/

theorem dutyMap_writes (step : Nat) (f : Duty → Duty) (s : State) : Writes [.duties] s (dutyMap step f s) :=
  .ite (fun _ => .of_mix rfl) fun _ => .of_mix rfl

theorem countCheck_stepFrame (d : Duty) (m : CountMsg) (s : State) : StepFrame s (countCheck d m s) :=
  .ite (fun _ => jobFault_stepFrame ..) fun _ => .ite (fun _ => jobFault_stepFrame ..) fun _ => .refl s

theorem dutyReach_stepFrame (i : Nat) (s : State) : StepFrame s (dutyReach i s) := by
  unfold dutyReach
  split
  · exact .refl s
  · extract_lets s₁ s₂
    have h₁ : StepFrame s s₁ := (dutyMap_writes ..).stepFrame
    have h₂ : StepFrame s s₂ := h₁.trans (freeCells_writes ..).stepFrame
    split
    · exact h₂
    · exact h₂.trans (.foldl (fun t m => countCheck_stepFrame ..) _ _)

/-- A duty with no message begins with the step, and nothing is checked (R222). -/
theorem dutyReach_fresh {i : Nat} {s : State} {c : StepCtx} (hctx : (slotAt s i).ctx = some c) (hduty : dutyAt s c.step = none) :
    Writes (.duties :: cellFields) s (dutyReach i s) := by
  unfold dutyReach
  rw [hctx]
  dsimp -zeta only
  extract_lets s₁ s₂
  have h₁ : Writes (.duties :: cellFields) s s₁ := (dutyMap_writes ..).mono
  have h₂ : Writes (.duties :: cellFields) s s₂ := .after (freeCells_writes ..) h₁
  have hblank : s₂.duties = s.duties ++
      [{ Duty.blank c.step with reached := true, layer := c.layer, epoch := c.epoch }] := by
    have hfreed : s₂.duties = s₁.duties := (freeCells_writes ..).same .duties (by decide)
    rw [hfreed]
    simp only [s₁, dutyMap, hduty, Option.isSome_none, Bool.false_eq_true, if_false]
  have hfound : dutyAt s₂ c.step = some { Duty.blank c.step with reached := true, layer := c.layer, epoch := c.epoch } := by
    rw [dutyAt, hblank, List.find?_append, ← dutyAt, hduty, Option.none_or]
    simp [Duty.blank]
  rw [hfound]
  exact h₂

/-! ### The start of a step -/

theorem krPoisoned_congr {s t : State} (hkeys : t.keyring = s.keyring) (hbad : t.keyringBad = s.keyringBad) (e layer : Nat) :
    krPoisoned t e layer = krPoisoned s e layer := by
  simp only [krPoisoned, krCopy, hkeys, hbad]

theorem krDigests_congr {s t : State} (hkeys : t.keyring = s.keyring) (e layer : Nat) :
    krDigests t e layer = krDigests s e layer := by
  simp only [krDigests, krCopy, hkeys]

theorem krCheck_stepFrame (i : Nat) (c : StepCtx) (s : State) : StepFrame s (krCheck i c s) := by
  unfold krCheck
  split
  · exact jobFault_stepFrame ..
  · split
    · exact jobFault_stepFrame ..
    · exact .refl s

theorem reachStep_stepFrame (i : Nat) (c : StepCtx) (s : State) : StepFrame s (reachStep i c s) := by
  unfold reachStep
  extract_lets s₁ s₂
  have h₁ : StepFrame s s₁ := krCheck_stepFrame ..
  have h₂ : StepFrame s s₂ := h₁.trans (dutyReach_stepFrame ..)
  exact .ite (fun _ => h₁) fun _ => .trans (.ite (fun _ => h₂.trans (readRows_stepFrame ..)) fun _ => h₂) (flushHeld_stepFrame ..)

theorem slotAt_setSlot_self {i : Nat} {s : State} (h : i < s.slots.length) (x : Slot) : slotAt (setSlot i x s) i = x := by
  rw [slotAt, setSlot, List.getD_eq_getElem?_getD, List.getElem?_set_self h]
  rfl

theorem slotAt_setSlot_ne {i j : Nat} (h : j ≠ i) (x : Slot) (s : State) : slotAt (setSlot i x s) j = slotAt s j := by
  rw [slotAt, slotAt, setSlot, List.getD_eq_getElem?_getD, List.getD_eq_getElem?_getD, List.getElem?_set_ne h.symm]

theorem slotAt_congr {s t : State} (h : t.slots = s.slots) (i : Nat) : slotAt t i = slotAt s i := by
  rw [slotAt, slotAt, h]

theorem slotAt_slotMove_self {i : Nat} {s : State} (h : i < s.slots.length) (st : SlotState) :
    slotAt (slotMove i st s) i = { slotAt s i with st := st } := by
  have hslots : (slotMove i st s).slots = (setSlot i { slotAt s i with st := st } s).slots :=
    (dripSlot_writes ..).same .slots (by decide)
  rw [slotAt_congr hslots, slotAt_setSlot_self h]

theorem slotAt_slotMove_ne {i j : Nat} (h : j ≠ i) (st : SlotState) (s : State) : slotAt (slotMove i st s) j = slotAt s j := by
  have hslots : (slotMove i st s).slots = (setSlot i { slotAt s i with st := st } s).slots :=
    (dripSlot_writes ..).same .slots (by decide)
  rw [slotAt_congr hslots, slotAt_setSlot_ne h]

/-- The slot of a step that begins: Scored, in stage 1 (R91, R96). -/
def slotBegun (p : Packet) (c : OpenCmd) (s : State) : Slot :=
  let a := runArgs p
  let x := slotAt s a.slot
  let clear := match x.prevLayer with
    | some l => decide (a.layer ≤ l)
    | none => true
  { x with exits := if clear then [] else x.exits, prevLayer := some a.layer, lastStep := a.step,
           stage := 1, ctx := some (runCtx p c s), st := .scored }

/-- The step stands in its slot. -/
def stepBegun (p : Packet) (c : OpenCmd) (s : State) : State :=
  let a := runArgs p
  let k := runCtx p c s
  dripStageAll a.slot k.gen k.step 1 0 k.cls (slotMove a.slot .scored
    (setSlot a.slot { slotBegun p c s with st := (slotAt s a.slot).st } s))

theorem beginStep_eq (p : Packet) (c : OpenCmd) (s : State) : beginStep p c s =
    if (runCtx p c s).awaitCommit then stepBegun p c s else reachStep (runArgs p).slot (runCtx p c s) (stepBegun p c s) := rfl

theorem stepBegun_writes (p : Packet) (c : OpenCmd) (s : State) : Writes [.slots, .drip] s (stepBegun p c s) := by
  unfold stepBegun
  extract_lets a k
  exact .after (dripStageAll_writes ..) (.after (slotMove_writes ..) (setSlot_writes ..).mono)

theorem stepBegun_slot {p : Packet} {s : State} (h : (runArgs p).slot < s.slots.length) (c : OpenCmd) :
    slotAt (stepBegun p c s) (runArgs p).slot = slotBegun p c s ∧
    ∀ i, i ≠ (runArgs p).slot → slotAt (stepBegun p c s) i = slotAt s i := by
  unfold stepBegun
  extract_lets a k
  have hlen : a.slot < (setSlot a.slot { slotBegun p c s with st := (slotAt s a.slot).st } s).slots.length := by
    rw [setSlot, List.length_set]
    exact h
  have hdrip (u : State) (i : Nat) : slotAt (dripStageAll a.slot k.gen k.step 1 0 k.cls u) i = slotAt u i :=
    slotAt_congr ((dripStageAll_writes ..).same .slots (by decide)) i
  refine ⟨?_, fun i hi => ?_⟩
  · rw [hdrip, slotAt_slotMove_self hlen, slotAt_setSlot_self h]
    rfl
  · rw [hdrip, slotAt_slotMove_ne hi, slotAt_setSlot_ne hi]

/-- A step that reaches nothing that waited leaves its slot, and every other (R109, R222). -/
theorem reachStep_quiet {i : Nat} {c : StepCtx} {s : State} (hctx : (slotAt s i).ctx = some c) (hkr : krCheck i c s = s)
    (hst : s.job.st ≠ .faulted) (hsrc : c.inSrc = false) (hduty : dutyAt s c.step = none)
    (hheld : ∀ f ∈ s.funnelHeld, f.2.slot ≠ i ∨ c.step < f.2.step) :
    Writes (.duties :: .funnelHeld :: cellFields) s (reachStep i c s) := by
  have hduties := dutyReach_fresh hctx hduty
  have hctx' : (slotAt (dutyReach i s) i).ctx = some c := by rw [slotAt_congr (hduties.same .slots (by decide)), hctx]
  have hheld' : ∀ f ∈ (dutyReach i s).funnelHeld, f.2.slot ≠ i ∨ c.step < f.2.step := by
    rw [hduties.same .funnelHeld (by decide)]
    exact hheld
  unfold reachStep
  extract_lets s₁ s₂
  have h₁ : s₁ = s := hkr
  have h₂ : s₂ = dutyReach i s := by simp only [s₂, h₁]
  rw [h₁, if_neg hst, hsrc, if_neg (by decide), h₂]
  exact (flushHeld_none hctx' hheld').after hduties.mono

/-! ### The obligation -/

theorem winTake_writes (step cls : Nat) (s : State) : Writes [.bias] s (winTake step cls s) := .of_mix rfl

theorem runTaken_writes (a : RunArgs) (cls : Nat) (s : State) : Writes [.bias, .counters, .job] s (runTaken a cls s) := by
  unfold runTaken
  extract_lets _ s₁
  have htop : Writes [.bias, .counters, .job] s s₁ := by
    refine .after (winTake_writes ..) ?_
    exact .of_mix rfl
  exact .ite (fun _ => .after (ctrInc_writes ..) htop) fun _ => htop

theorem runTaken_job (a : RunArgs) (cls : Nat) (s : State) : (runTaken a cls s).job = { s.job with topStep := some a.step } := by
  unfold runTaken
  extract_lets _ s₁
  split_ifs
  · rfl
  · rfl

theorem exec_stepRun_taken {p : Packet} {s : State} (h : RunsJob 0x20 p s)
    (hlen : p.payloadLen.toNat = if (runArgs p).inSrc then 128 else 64)
    (hrange : (runArgs p).nTok ≤ 4096 ∧ (runArgs p).nTok ≤ s.job.desc.bMax ∧ (runArgs p).layer < s.job.desc.nLayers)
    (hloaded : layerLoaded s (runArgs p).step (runArgs p).layer = true) (hstate : runState s (runArgs p) = none)
    (hentry : entryFree s) :
    let t := runTaken (runArgs p) p.cls.toNat (accept p s.latch.order 0 (takePacket p s))
    exec (.stepRun p) s = .next (if t.job.st = .starting then holdCmd .release p Ext.none s.latch.order t
      else if inBrace t then holdCmd .brace p Ext.none s.latch.order t else beginStep p (openOf p s.latch.order) t) := by
  have hshort : p.payloadLen.toNat ≤ 4096 := by
    rw [hlen]
    split <;> decide
  have hstate' : runState (takePacket p s) (runArgs p) = none := by
    simp only [runState, slotHeld, slotAt_takePacket, stepTaken_takePacket, takePacket_held] at hstate ⊢
    exact hstate
  rw [exec_stepRun h.toRuns, startStepRun,
    checked_runsJob (u := takePacket p s) h hshort (by simpa using hlen) (by simpa [hloaded] using hrange) hstate' rfl rfl (fun _ => hentry)]

theorem runState_none_gen {s : State} {a : RunArgs} (h : runState s a = none) : (slotAt s a.slot).gen = a.gen := by
  by_contra hne
  simp only [runState, hne, ne_eq, not_false_eq_true, if_true] at h
  split_ifs at h

theorem holdCmd_stepFrame (why : HoldWhy) (p : Packet) (x : Ext) (n : Nat) (s : State) : StepFrame s (holdCmd why p x n s) :=
  (holdCmd_writes ..).stepFrame

theorem beginStep_stepFrame (p : Packet) (c : OpenCmd) (s : State) : StepFrame s (beginStep p c s) := by
  rw [beginStep_eq]
  exact .ite (fun _ => (stepBegun_writes ..).stepFrame)
    fun _ => (stepBegun_writes ..).stepFrame.trans (reachStep_stepFrame ..)

/-- The first fault of a running job: its event names the unit and the detail (R407). -/
theorem jobFault_running {s : State} (h : s.job.st = .running) (unit status detail : Nat) (w : Where) :
    (jobFault unit status detail w s).job.st = .faulted ∧ (jobFault unit status detail w s).dump.fault.unit = unit ∧
    (jobFault unit status detail w s).dump.fault.detail = status + detail * 2 ^ 16 := by
  rw [jobFault_first (by simp [h]) (by simp [h])]
  obtain ⟨hjob, -, -, -, hfault⟩ := enterFaulted_job (faultEvent s 1 unit (status + detail * 2 ^ 16) w)
    (logAdd 0x0001 (faultEvent s 1 unit (status + detail * 2 ^ 16) w).word (evSend (faultEvent s 1 unit (status + detail * 2 ^ 16) w) s))
  rw [hjob, hfault]
  exact ⟨rfl, rfl, rfl⟩

/-- A step whose Keyring check fails ends the job at once (R120, R121). -/
theorem reachStep_faulted {i : Nat} {c : StepCtx} {s : State} (h : (krCheck i c s).job.st = .faulted) :
    reachStep i c s = krCheck i c s := if_pos h

/-- Settles O39. -/
theorem stepRunCompletes : Obligations.StepRunCompletes := by
  unfold Obligations.StepRunCompletes
  intro p s hinv hruns n a hlen hmax hbatch hlayer hloaded hstate hentry t0 e bad
  have hexec : exec (.stepRun p) s = .next (if t0.job.st = .starting then holdCmd .release p Ext.none n t0
      else if inBrace t0 then holdCmd .brace p Ext.none n t0 else beginStep p (openOf p n) t0) :=
    exec_stepRun_taken hruns hlen ⟨hmax, hbatch, hlayer⟩ hloaded hstate hentry
  have htaken := taken_writes p n s
  have hrun : Writes [.latch, .counters, .drip, .recRing, .bias, .job] s t0 := .after (runTaken_writes ..) htaken.mono
  have hjob : t0.job = { s.job with topStep := some a.step } := by
    rw [show t0.job = _ from runTaken_job a p.cls.toNat _, htaken.same .job (by decide)]
  clear_value t0
  have hbrace : inBrace t0 = inBrace s := by rw [inBrace, inBrace, hrun.same .pwr (by decide)]
  have hst : t0.job.st = s.job.st := by rw [hjob]
  rw [hst, hbrace] at hexec
  have hrunning (hstart : s.job.st ≠ .starting) : t0.job.st = .running := by
    rw [hst]
    have hadm := hruns.admits
    have hexists := hruns.job
    cases h : s.job.st <;> simp [jobAdmits, jobExists, h] at hadm hexists hstart ⊢
  have hep : t0.ep = s.ep := hrun.same .ep (by decide)
  have hbegun := stepBegun_writes p (openOf p n) t0
  have hepoch : (runCtx p (openOf p n) t0).epoch = e := by
    simp only [runCtx, epochFor, hep, e, a]
  have hawait : (runCtx p (openOf p n) t0).awaitCommit = underCommit s a.step := by
    simp only [runCtx, underCommit, hep, a]
  have hkeys : (stepBegun p (openOf p n) t0).keyring = s.keyring :=
    (hbegun.same .keyring (by decide)).trans (hrun.same .keyring (by decide))
  have hkeysBad : (stepBegun p (openOf p n) t0).keyringBad = s.keyringBad :=
    (hbegun.same .keyringBad (by decide)).trans (hrun.same .keyringBad (by decide))
  have hcheck : krPoisoned (stepBegun p (openOf p n) t0) (runCtx p (openOf p n) t0).epoch (runCtx p (openOf p n) t0).layer = bad := by
    rw [hepoch]
    exact krPoisoned_congr hkeys hkeysBad e a.layer
  have hdigests : krDigests (stepBegun p (openOf p n) t0) (runCtx p (openOf p n) t0).epoch (runCtx p (openOf p n) t0).layer =
      krDigests s e a.layer := by
    rw [hepoch]
    exact krDigests_congr hkeys e a.layer
  refine ⟨fun hstart => ?_, fun hstart hin => ?_, fun hstart hout => ?_, ?_, fun hstart hout hfree => ?_,
    fun hstart hout hsrc hduty hkr hheld => ?_⟩
  · rw [hexec, if_pos hstart]
  · rw [hexec, if_neg hstart, if_pos hin]
  · rw [hexec, if_neg hstart, if_neg (by simp [hout])]
  · refine ⟨_, hexec, ?_⟩
    beta_reduce
    have hframe : StepFrame t0 (if s.job.st = .starting then holdCmd .release p Ext.none n t0
        else if inBrace s then holdCmd .brace p Ext.none n t0 else beginStep p (openOf p n) t0) :=
      .ite (fun _ => holdCmd_stepFrame ..) fun _ => .ite (fun _ => holdCmd_stepFrame ..) fun _ => beginStep_stepFrame ..
    exact ⟨by rw [hframe.top, hjob], (hframe.writes.same .kt (by decide)).trans (hrun.same .kt (by decide)),
      (hframe.writes.same .hostMem (by decide)).trans (hrun.same .hostMem (by decide))⟩
  · rw [if_neg hstart, if_neg (by simp [hout]), beginStep_eq, hawait, hfree, if_neg (by decide)] at hexec
    have hrun' : (stepBegun p (openOf p n) t0).job.st = .running := by
      rw [hbegun.same .job (by decide)]
      exact hrunning hstart
    refine ⟨fun k hk => ?_, fun hgood m hm => ?_⟩
    · have hkr : krCheck (runArgs p).slot (runCtx p (openOf p n) t0) (stepBegun p (openOf p n) t0) =
          jobFault (0x10 + k) 0x0406 0 (whereSlot (stepBegun p (openOf p n) t0) (runArgs p).slot) (stepBegun p (openOf p n) t0) := by
        simp only [krCheck, hcheck, hk]
      obtain ⟨hfaulted, hunit, -⟩ := jobFault_running hrun' (0x10 + k) 0x0406 0
        (whereSlot (stepBegun p (openOf p n) t0) (runArgs p).slot)
      rw [reachStep_faulted (by rw [hkr, hfaulted]), hkr] at hexec
      exact ⟨_, hexec, hfaulted, hunit⟩
    · have hkr : krCheck (runArgs p).slot (runCtx p (openOf p n) t0) (stepBegun p (openOf p n) t0) =
          jobFault (0x10 + lowSlice m) 0x0401 m (whereSlot (stepBegun p (openOf p n) t0) (runArgs p).slot)
            (stepBegun p (openOf p n) t0) := by
        simp only [krCheck, hcheck, hgood, hdigests, hm]
      obtain ⟨hfaulted, hunit, hdetail⟩ := jobFault_running hrun' (0x10 + lowSlice m) 0x0401 m
        (whereSlot (stepBegun p (openOf p n) t0) (runArgs p).slot)
      rw [reachStep_faulted (by rw [hkr, hfaulted]), hkr] at hexec
      exact ⟨_, hexec, hfaulted, hunit, hdetail⟩
  · have hindex : (runArgs p).slot < t0.slots.length := by
      rw [hrun.same .slots (by decide), hinv.slots]
      exact Nat.mod_lt _ (by decide)
    obtain ⟨hself, hothers⟩ := stepBegun_slot hindex (openOf p n)
    have hgen : (slotAt t0 a.slot).gen = a.gen := by
      rw [slotAt_congr (hrun.same .slots (by decide))]
      exact runState_none_gen hstate
    rw [if_neg hstart, if_neg (by simp [hout]), beginStep_eq, hawait] at hexec
    have hquiet : Writes (.duties :: .funnelHeld :: cellFields) (stepBegun p (openOf p n) t0)
        (if underCommit s a.step then stepBegun p (openOf p n) t0
          else reachStep (runArgs p).slot (runCtx p (openOf p n) t0) (stepBegun p (openOf p n) t0)) := by
      refine .ite (fun _ => .refl _ _) fun hfree => ?_
      obtain ⟨hgood, hsame⟩ := hkr.resolve_left hfree
      refine reachStep_quiet (by rw [hself]; rfl) ?_ ?_ hsrc ?_ ?_
      · simp only [krCheck, hcheck, hgood, hdigests, hsame]
      · rw [hbegun.same .job (by decide), hrunning hstart]
        decide
      · rw [dutyAt, hbegun.same .duties (by decide), hrun.same .duties (by decide)]
        exact hduty
      · rw [hbegun.same .funnelHeld (by decide), hrun.same .funnelHeld (by decide)]
        exact hheld
    refine ⟨_, hexec, ?_⟩
    beta_reduce
    have hslot (i : Nat) := slotAt_congr (hquiet.same .slots (by decide)) i
    rw [hslot, hself, hquiet.same .job (by decide), hbegun.same .job (by decide), hjob]
    refine ⟨rfl, rfl, hgen, rfl, ⟨_, rfl, rfl, rfl, rfl, rfl, hgen, ?_, rfl, rfl, rfl⟩, fun i hi => ?_, rfl⟩
    · exact hrun.same .kt (by decide)
    · rw [hslot, hothers i hi, slotAt_congr (hrun.same .slots (by decide))]

end Sys2Proof.Machine
end

section
/-! PROOFS. Cancel, pre-empt, resume and the switch of class (R91, R93, R94, R117, R131, R151, R240, R241). -/

namespace Sys2Proof.Machine

-- One declaration at a time: see the frames of the state's operations.
set_option Elab.async false

/-! ### Slots and duties -/

theorem slotAt_lt {s : State} {i : Nat} {c : StepCtx} (h : (slotAt s i).ctx = some c) : i < s.slots.length := by
  by_contra hi
  rw [slotAt, List.getD_eq_getElem?_getD, List.getElem?_eq_none (by omega)] at h
  cases h

theorem slotAt_ctxMap_self {s : State} {i : Nat} {c : StepCtx} (h : (slotAt s i).ctx = some c) (f : StepCtx → StepCtx) :
    slotAt (ctxMap i f s) i = { slotAt s i with ctx := some (f c) } := by
  rw [ctxMap, slotAt_setSlot_self (slotAt_lt h), h]
  rfl

theorem slotAt_ctxMap_ne {i j : Nat} (h : j ≠ i) (f : StepCtx → StepCtx) (s : State) : slotAt (ctxMap i f s) j = slotAt s j :=
  slotAt_setSlot_ne h ..

theorem Slot.eq_of_ctx {x : Slot} {o : Option StepCtx} (h : x.ctx = o) : x = { x with ctx := o } := by
  rw [← h]

theorem dutySettle_writes (s : State) : Writes [.duties, .vault] s (dutySettle s) := by
  refine .foldl (fun t d => .foldl (fun t x => ?_) _ _) _ _
  extract_lets l
  exact .ite (fun _ => .after (vaultSettle_writes ..) (dutyMap_writes ..).mono) fun _ => .refl _ t

theorem dutyTidy_writes (s : State) : Writes [.duties, .vault] s (dutyTidy s) := by
  unfold dutyTidy
  extract_lets s₁
  have hsettled : Writes [.duties, .vault] s s₁ := dutySettle_writes s
  clear_value s₁
  exact hsettled.trans (.of_mix rfl)

/-! ### Final replies of several commands -/

/-- A command stays open while others end. -/
theorem finish_stillOpen {o c : OpenCmd} {s : State} (hne : o.order ≠ c.order)
    (hopen : s.latch.opened.any (fun x => sameCmd x c) = true) (status r0 r1 r2 r3 : Nat) :
    (finish o status r0 r1 r2 r3 s).latch.opened.any (fun x => sameCmd x c) = true := by
  obtain ⟨x, hx, hsame⟩ := List.any_eq_true.1 hopen
  rw [finish_opened, List.any_filter]
  refine List.any_eq_true.2 ⟨x, hx, ?_⟩
  simp only [sameCmd, decide_eq_true_eq, Bool.and_eq_true, Bool.not_eq_true', decide_eq_false_iff_not] at hsame ⊢
  omega

theorem finish_answers {o : OpenCmd} {s : State} (hopen : s.latch.opened.any (fun x => sameCmd x o) = true)
    (status r0 r1 r2 r3 : Nat) : ∃ r ∈ (finish o status r0 r1 r2 r3 s).latch.replies, r.tag = o.tag ∧ r.order = o.order ∧
      r.status = status ∧ r.final = true := by
  rw [finish_of_open hopen]
  exact ⟨_, List.mem_append_right _ (List.mem_singleton_self _), rfl, rfl, rfl, rfl⟩

/-- Of several commands that end, each that is open has its final reply. -/
theorem foldl_finish_answers {l : List OpenCmd} {s : State} {o : OpenCmd} {status : Nat} (ho : o ∈ l)
    (hopen : s.latch.opened.any (fun x => sameCmd x o) = true) (hone : ∀ x ∈ l, x.order = o.order → x = o) :
    ∃ r ∈ (l.foldl (fun t c => finish c status 0 0 0 0 t) s).latch.replies, r.tag = o.tag ∧ r.order = o.order ∧
      r.status = status ∧ r.final = true := by
  induction l generalizing s with
  | nil => cases ho
  | cons a l ih =>
    by_cases ha : a.order = o.order
    · obtain rfl := hone a (List.mem_cons_self ..) ha
      obtain ⟨r, hr, hreply⟩ := finish_answers hopen status 0 0 0 0
      have hkept : RepliesKept (finish a status 0 0 0 0 s) (l.foldl (fun t c => finish c status 0 0 0 0 t) (finish a status 0 0 0 0 s)) :=
        .foldl (fun t c => finish_repliesKept _ _ _ _ _ _ _) _ _
      exact ⟨r, hkept r hr, hreply⟩
    · have hin : o ∈ l := (List.mem_cons.1 ho).resolve_left fun h => ha (h ▸ rfl)
      exact ih hin (finish_stillOpen ha hopen ..) fun x hx => hone x (List.mem_cons_of_mem _ hx)

theorem foldl_finish_writes (status : Nat) (l : List OpenCmd) (s : State) :
    Writes [.latch, .drip] s (l.foldl (fun t c => finish c status 0 0 0 0 t) s) :=
  .foldl (fun _ _ => finish_writes ..) _ _

theorem foldl_finish_stillOpen {l : List OpenCmd} {s : State} {c : OpenCmd} {status : Nat}
    (hopen : s.latch.opened.any (fun x => sameCmd x c) = true) (hne : ∀ x ∈ l, x.order ≠ c.order) :
    (l.foldl (fun t o => finish o status 0 0 0 0 t) s).latch.opened.any (fun x => sameCmd x c) = true :=
  List.foldlRecOn (motive := fun t : State => t.latch.opened.any (fun x => sameCmd x c) = true) _ _ hopen
    fun _ ht o ho => finish_stillOpen (hne o ho) ht ..

/-! ### A step is cancelled -/

/-- The counts of a step go to the other seats, and its slot remembers it (R221, R241). -/
theorem sendCounts_writes (i : Nat) (cancelled : Bool) (s : State) : Writes [.kft, .counters, .slots] s (sendCounts i cancelled s) := by
  unfold sendCounts
  split
  · exact .refl _ s
  · extract_lets s₁
    have hsent : Writes [.kft, .counters, .slots] s s₁ := (Writes.foldl (fun _ _ => sendNotice_writes ..) _ _).mono
    exact .after (ctxMap_writes ..) hsent

theorem sendCounts_slots {i : Nat} {s : State} {c : StepCtx} (hctx : (slotAt s i).ctx = some c) (cancelled : Bool) :
    slotAt (sendCounts i cancelled s) i = { slotAt s i with ctx := some { c with countsSent := true } } ∧
    ∀ j, j ≠ i → slotAt (sendCounts i cancelled s) j = slotAt s j := by
  unfold sendCounts
  rw [hctx]
  dsimp -zeta only
  extract_lets s₁
  have hsent : Writes [.kft, .counters] s s₁ := .foldl (fun _ _ => sendNotice_writes ..) _ _
  have hslot (j : Nat) : slotAt s₁ j = slotAt s j := slotAt_congr (hsent.same .slots (by decide)) j
  refine ⟨?_, fun j hj => ?_⟩
  · rw [slotAt_ctxMap_self (c := c) (by rw [hslot, hctx]), hslot]
  · rw [slotAt_ctxMap_ne hj, hslot]

theorem dropRows_writes (i step : Nat) (s : State) : Writes cellFields s (dropRows i step s) := freeCells_writes ..

theorem dropTiles_writes (i : Nat) (c : StepCtx) (s : State) : Writes cellFields s (dropTiles i c false s) := by
  unfold dropTiles
  extract_lets s₁
  rw [if_neg (by decide)]
  have h : Writes cellFields s s₁ := freeCells_writes ..
  exact h

theorem spoutDrop_writes (i step : Nat) (s : State) : Writes [.spout, .duties] s (spoutDrop i step s) := .of_mix rfl

/-- What the cancelling of a step before its dispatch writes. -/
def cancelFields : List Fld := [.latch, .drip, .slots, .kft, .counters, .carafe, .sp, .spPoison, .spout, .duties, .vault]

/-- A step in Scored is cancelled before its dispatch (R91, R93, R241). -/
theorem cancelStep_scored {i : Nat} {cmd : Option OpenCmd} {scrub : Nat → State → State} {s : State} {c : StepCtx}
    (hctx : (slotAt s i).ctx = some c) (hst : (slotAt s i).st = .scored) (hstage : (slotAt s i).stage < 13) :
    Writes cancelFields s (cancelStep i cmd scrub s) ∧
    (slotAt (cancelStep i cmd scrub s) i).st = .cancelled ∧
    (slotAt (cancelStep i cmd scrub s) i).gen = ((slotAt s i).gen + 1) % 256 ∧
    (slotAt (cancelStep i cmd scrub s) i).exits = [] ∧
    (∃ c', (slotAt (cancelStep i cmd scrub s) i).ctx = some c' ∧ c'.cancelled = true ∧ c'.cancelCmd = cmd ∧ c'.step = c.step) ∧
    (∀ j, j ≠ i → slotAt (cancelStep i cmd scrub s) j = slotAt s j) ∧
    (s.latch.opened.any (fun y => sameCmd y c.cmd) = true → (∀ y ∈ c.preemptCmds, y.order ≠ c.cmd.order) →
      ∃ r ∈ (cancelStep i cmd scrub s).latch.replies, r.tag = c.cmd.tag ∧ r.order = c.cmd.order ∧ r.status = 0x0404 ∧
        r.final = true) := by
  have hlate : ¬ (13 ≤ (slotAt s i).stage) := by omega
  unfold cancelStep
  rw [hctx]
  dsimp -zeta only
  extract_lets x st s₁ s₂ dests s₃ s₄ s₅ s₆ s₇ s₈
  have hx : x = slotAt s i := rfl
  have h₁ : Writes [.latch, .drip] s s₁ := foldl_finish_writes ..
  have h₂ : s₂ = s₁ := by
    refine if_neg fun h => ?_
    have hscored : st = .scored := by
      simp only [st, x, hst, reduceCtorEq, if_false]
    rw [hscored] at h
    cases h.1
  have hslot₂ (j : Nat) : slotAt s₂ j = slotAt s j := by rw [h₂, slotAt_congr (h₁.same .slots (by decide))]
  have h₃ : Writes [.kft, .counters, .slots] s₂ s₃ := .ite (fun _ => .refl _ s₂) fun _ => sendCounts_writes ..
  have hslot₃ : ∃ c₃, slotAt s₃ i = { slotAt s i with ctx := some c₃ } ∧ c₃.step = c.step ∧ ∀ j, j ≠ i → slotAt s₃ j = slotAt s j := by
    simp only [s₃]
    split_ifs
    · exact ⟨c, (hslot₂ i).trans (Slot.eq_of_ctx hctx), rfl, fun j _ => hslot₂ j⟩
    · obtain ⟨hself, hother⟩ := sendCounts_slots (s := s₂) (i := i) (c := c) (by rw [hslot₂, hctx]) true
      exact ⟨{ c with countsSent := true }, hself.trans (by rw [hslot₂]), rfl, fun j hj => (hother j hj).trans (hslot₂ j)⟩
  have h₄ : Writes [.kft, .counters] s₃ s₄ := .foldl (fun _ _ => sendNotice_writes ..) _ _
  have h₅ : Writes (.spout :: .duties :: cellFields) s₄ s₅ := by
    refine .after (spoutDrop_writes ..) (.after (dropRows_writes ..) ?_)
    rw [hx, decide_eq_false hlate]
    exact (dropTiles_writes ..).mono
  have h₄₅ : Writes (.kft :: .counters :: .spout :: .duties :: cellFields) s₃ s₅ := h₄.mono.trans h₅.mono
  have hslot₅ (j : Nat) : slotAt s₅ j = slotAt s₃ j := slotAt_congr (h₄₅.same .slots (by decide)) j
  have h₆ : Writes [.latch, .drip, .counters] s₅ s₆ := .after (finish_writes ..) (ctrInc_writes ..).mono
  have hslot₆ (j : Nat) : slotAt s₆ j = slotAt s₃ j := (slotAt_congr (h₆.same .slots (by decide)) j).trans (hslot₅ j)
  have h₇ : Writes [.slots] s₆ s₇ := ctxMap_writes ..
  have hlatch : s₅.latch = s₁.latch := by
    rw [h₄₅.same .latch (by decide), h₃.same .latch (by decide), h₂]
  obtain ⟨c₃, hself₃, hstep₃, hother₃⟩ := hslot₃
  have hctx₆ : (slotAt s₆ i).ctx = some c₃ := by rw [hslot₆, hself₃]
  have hself₇ := slotAt_ctxMap_self hctx₆ fun y : StepCtx =>
    { y with cancelled := true, cancelCmd := cmd, preemptCmds := [],
             dests := dests.map fun m => { seat := m, acked := false, retSeq := 0 } }
  have hlen : i < s₇.slots.length := slotAt_lt (congrArg Slot.ctx hself₇)
  have hother₇ (j : Nat) (hj : j ≠ i) : slotAt s₇ j = slotAt s j := by
    rw [show slotAt s₇ j = slotAt s₆ j from slotAt_ctxMap_ne hj .., hslot₆, hother₃ j hj]
  have h₈ : Writes [.slots, .drip, .duties, .vault] s₇
      (dutyTidy (slotMove i .cancelled (setSlot i { s₈ with gen := (x.gen + 1) % 256, exits := [] } s₇))) :=
    .after (dutyTidy_writes ..) (.after (slotMove_writes ..) (setSlot_writes ..).mono)
  have hslot₈ (j : Nat) : slotAt (dutyTidy (slotMove i .cancelled (setSlot i { s₈ with gen := (x.gen + 1) % 256, exits := [] } s₇))) j =
      slotAt (slotMove i .cancelled (setSlot i { s₈ with gen := (x.gen + 1) % 256, exits := [] } s₇)) j :=
    slotAt_congr ((dutyTidy_writes ..).same .slots (by decide)) j
  have hself₈ := slotAt_slotMove_self (s := setSlot i { s₈ with gen := (x.gen + 1) % 256, exits := [] } s₇) (i := i)
    (by simpa [setSlot] using hlen) .cancelled
  rw [slotAt_setSlot_self hlen] at hself₈
  refine ⟨?_, ?_, ?_, ?_, ?_, ?_, ?_⟩
  · rw [h₂] at h₃
    exact ((h₁.mono.trans h₃.mono).trans h₄₅.mono).trans ((h₆.mono.trans h₇.mono).trans h₈.mono)
  · rw [hslot₈, hself₈]
  · rw [hslot₈, hself₈]
  · rw [hslot₈, hself₈]
  · exact ⟨{ c₃ with cancelled := true, cancelCmd := cmd, preemptCmds := [],
                       dests := dests.map fun m => { seat := m, acked := false, retSeq := 0 } },
      by rw [hslot₈, hself₈]; exact congrArg Slot.ctx hself₇, rfl, rfl, hstep₃⟩
  · intro j hj
    rw [hslot₈, slotAt_slotMove_ne hj, slotAt_setSlot_ne hj, hother₇ j hj]
  · intro hopen hother
    have hopen₅ : (ctrInc 46 s₅).latch.opened.any (fun y => sameCmd y c.cmd) = true := by
      rw [(ctrInc_writes ..).same .latch (by decide), hlatch]
      exact foldl_finish_stillOpen hopen hother
    obtain ⟨r, hr, hreply⟩ := finish_answers hopen₅ 0x0404 _ _ _ _
    refine ⟨r, ?_, hreply⟩
    rw [h₈.same .latch (by decide), h₇.same .latch (by decide)]
    exact hr

/-! ### The commands -/

theorem batchState_takePacket (p : Packet) (s : State) (ok : List SlotState) :
    batchState (takePacket p s) p ok = batchState s p ok := by
  rw [batchState, batchState, slotAt_congr ((takePacket_writes p s).same .slots (by decide))]

theorem batchState_none {p : Packet} {s : State} {ok : List SlotState} (hgen : (slotAt s (batchSlot p)).gen = batchGen p)
    (hst : (slotAt s (batchSlot p)).st ∈ ok) : batchState (takePacket p s) p ok = none := by
  rw [batchState_takePacket]
  simp [batchState, hgen, hst]

theorem slotAt_taken (p : Packet) (n r0 : Nat) (s : State) (i : Nat) : slotAt (accept p n r0 (takePacket p s)) i = slotAt s i := by
  rw [slotAt_congr ((accept_writes ..).same .slots (by decide)), slotAt_congr ((takePacket_writes ..).same .slots (by decide))]

theorem exec_batchCancel {p : Packet} {s : State} (h : RunsJob 0x21 p s) (hlen : p.payloadLen.toNat = 0) (hentry : entryFree s)
    (hgen : (slotAt s (batchSlot p)).gen = batchGen p)
    (hst : (slotAt s (batchSlot p)).st ∈ [SlotState.idle, .done, .preempted] ++ flightStates) :
    exec (.batchCancel p) s = .next
      (if (slotAt s (batchSlot p)).st = .idle ∨ (slotAt s (batchSlot p)).st = .done then
        setSlot (batchSlot p) { slotAt s (batchSlot p) with exits := [] }
          (finish (openOf p s.latch.order) 0 0 0 0 0 (accept p s.latch.order (slotAt s (batchSlot p)).gen (takePacket p s)))
      else cancelStep (batchSlot p) (some (openOf p s.latch.order)) outScrub
        (accept p s.latch.order (((slotAt s (batchSlot p)).gen + 1) % 256) (takePacket p s))) := by
  rw [PacketForm.exec_start (c := .batchCancel p) (fun _ => rfl) h.toRuns, startBatchCancel]
  dsimp only
  rw [checked_runsJob (u := takePacket p s) h (by omega) (by simp [hlen]) rfl (batchState_none hgen hst) rfl rfl (fun _ => hentry),
    slotAt_congr ((takePacket_writes ..).same .slots (by decide))]

theorem exec_batchPreempt {p : Packet} {s : State} (h : RunsJob 0x22 p s) (hlen : p.payloadLen.toNat = 0) (hentry : entryFree s)
    (hgen : (slotAt s (batchSlot p)).gen = batchGen p) (hst : (slotAt s (batchSlot p)).st ∈ flightStates) :
    exec (.batchPreempt p) s = .next (ctxMap (batchSlot p) (fun y => { y with preemptCmds := y.preemptCmds ++ [openOf p s.latch.order] })
      (accept p s.latch.order 0 (takePacket p s))) := by
  rw [PacketForm.exec_start (c := .batchPreempt p) (fun _ => rfl) h.toRuns, startBatchPreempt, asyncCmd,
    checked_runsJob (u := takePacket p s) h (by omega) (by simp [hlen]) rfl (batchState_none hgen hst) rfl rfl (fun _ => hentry)]

/-- The boundary takes the slot to Pre-empted and ends every BATCH_PREEMPT that waited for it (R91). -/
theorem exec_preemptBoundary {i : Nat} {s : State} {c : StepCtx} (hlost : s.rst.rootLost = false) (hctx : (slotAt s i).ctx = some c) :
    exec (.preemptBoundary i) s = .next
      (if (slotAt s i).st ∈ flightStates ∧ c.preemptCmds ≠ [] ∧ applied s then
        c.preemptCmds.foldl (fun t p => finish p 0 0 0 0 0 t)
          (slotMove i .preempted (ctxMap i (fun y => { y with resume := (slotAt s i).st, preemptCmds := [] }) s))
      else s) := by
  rw [exec, execPreemptBoundary, live_next hlost]
  dsimp only
  rw [hctx]

theorem exec_preemptBoundary_rest {i : Nat} {s : State} (hlost : s.rst.rootLost = false) (hst : (slotAt s i).st ∉ flightStates) :
    exec (.preemptBoundary i) s = .next s := by
  rw [exec, execPreemptBoundary, live_next hlost]
  dsimp only
  split
  · rfl
  · rw [if_neg fun h => hst h.1]

theorem resumeSlot_scored {i : Nat} {s : State} {c : StepCtx} (hctx : (slotAt s i).ctx = some c) (hres : c.resume = .scored) :
    resumeSlot i s = slotMove i .scored s := by
  have hself := slotAt_slotMove_self (slotAt_lt hctx) .scored
  have hpump : dispatchPump i (slotMove i .scored s) = slotMove i .scored s := by
    unfold dispatchPump
    rw [hself, hctx]
    exact if_neg fun h => by cases h.1
  have hready : combineReady (slotMove i .scored s) i = false := by
    unfold combineReady
    rw [hself, hctx]
    rfl
  simp [resumeSlot, hctx, hres, hpump, hself, hready]

theorem exec_batchResume {p : Packet} {s : State} (h : RunsJob 0x23 p s) (hlen : p.payloadLen.toNat = 0) (hbrace : inBrace s = false)
    (hgen : (slotAt s (batchSlot p)).gen = batchGen p) (hst : (slotAt s (batchSlot p)).st = .preempted) :
    exec (.batchResume p) s =
      .next (replyOne p s.latch.order 0 0 0 0 0 (resumeSlot (batchSlot p) (takePacket p s))) := by
  rw [PacketForm.exec_start (c := .batchResume p) (fun _ => rfl) h.toRuns, startBatchResume,
    if_neg (by rw [inBrace, takePacket_pwr, ← inBrace, hbrace]; decide), syncCmd,
    checked_runsJob (u := takePacket p s) h (by omega) (by simp [hlen]) rfl (batchState_none hgen (by simp [hst])) rfl rfl
      (by simp)]

theorem exec_batchResume_held {p : Packet} {s : State} (h : RunsJob 0x23 p s) (hbrace : inBrace s = true) :
    exec (.batchResume p) s = .next (holdCmd .brace p Ext.none s.latch.order (takePacket p s)) := by
  rw [PacketForm.exec_start (c := .batchResume p) (fun _ => rfl) h.toRuns, startBatchResume,
    if_pos (by rw [inBrace, takePacket_pwr, ← inBrace, hbrace])]

/-! ### The switch of class -/

theorem exec_classSwitch_idle {k i q : Nat} {u : WorkUnit} {s : State} (hlost : s.rst.rootLost = false)
    (h : 4 ≤ k ∨ 4 ≤ q ∨ applied s = false) : exec (.classSwitch k i q u) s = .next s := by
  rw [exec, execClassSwitch, live_next hlost, if_neg]
  rintro ⟨hk, hq, happ⟩
  rcases h with h | h | h
  · omega
  · omega
  · rw [h] at happ
    cases happ

/-- A switch on work of a step: it goes on in its own class, and is set aside for a higher one (R130, R131). -/
theorem exec_classSwitch {k i q : Nat} {u : WorkUnit} {s : State} {c : StepCtx} {l : Layer} (hlost : s.rst.rootLost = false)
    (hk : k < 4) (hq : q < 4) (happ : applied s = true) (hu : ∀ m g, u ≠ .tensor m g) (hctx : (slotAt s i).ctx = some c)
    (hlayer : layerIn s c.epoch c.layer = some l) : exec (.classSwitch k i q u) s = .next
      (if classGroup q = classGroup c.cls then asideBack i k u s
       else if classGroup q < classGroup c.cls ∧ unitWorks s i k c l u ∧
           setAside s i (fun a => decide (a.slice = k) && sameUnit a.unit u) = false then engineAside i k c l u s
       else s) := by
  rw [exec, execClassSwitch, live_next hlost, if_pos ⟨hk, hq, happ⟩]
  split
  · exact absurd rfl (hu _ _)
  · simp only [hctx, hlayer]

theorem setAside_none {s : State} {i : Nat} {c : StepCtx} (hctx : (slotAt s i).ctx = some c) (hback : ∀ a ∈ c.aside, a.back = true)
    (f : Aside → Bool) : setAside s i f = false := by
  rw [setAside, hctx]
  simp only [Option.any_some, List.any_eq_false]
  intro a ha
  simp [hback a ha]

theorem engineAside_of_not_engine {i k : Nat} {c : StepCtx} {l : Layer} {u : WorkUnit} {s : State}
    (hu : ∀ e v w y z, u ≠ .engine e v w y z) :
    engineAside i k c l u s = asidePut i { slice := k, unit := u, bank := [], back := false } s := by
  unfold engineAside
  split
  · exact absurd rfl (hu _ _ _ _ _)
  · rfl

/-- Settles O41. -/
theorem batchCommandsComplete : Obligations.BatchCommandsComplete := by
  unfold Obligations.BatchCommandsComplete
  intro p i k q u s _ n o b x
  refine ⟨fun hruns hlen hentry hgen => ⟨?_, ?_, ?_⟩, ?_, ?_, ?_, ?_, ?_⟩
  · intro hst
    rw [exec_batchCancel hruns hlen hentry hgen (by rcases hst with h | h <;> rw [show (slotAt s (batchSlot p)).st = _ from h] <;> decide),
      if_pos hst]
  · intro hst
    have hmem : x.st ∈ [SlotState.preempted] ++ flightStates := by simpa using hst
    rw [exec_batchCancel hruns hlen hentry hgen (List.mem_append_right [SlotState.idle, .done] hmem), if_neg]
    rintro (h | h) <;> rw [show x.st = _ from h] at hmem <;> revert hmem <;> decide
  · intro c hst hstage hctx
    have hmem : (slotAt s (batchSlot p)).st ∈ [SlotState.idle, .done, .preempted] ++ flightStates := by
      rw [show (slotAt s (batchSlot p)).st = _ from hst]
      decide
    have hexec := exec_batchCancel hruns hlen hentry hgen hmem
    rw [if_neg (by rw [show (slotAt s (batchSlot p)).st = _ from hst]; decide)] at hexec
    refine ⟨_, hexec, ?_⟩
    beta_reduce
    have htake : Writes [.latch, .drip, .counters, .recRing] s (accept p n ((x.gen + 1) % 256) (takePacket p s)) :=
      .after (accept_writes ..) (takePacket_writes ..).mono
    have hslot (j : Nat) := slotAt_taken p n ((x.gen + 1) % 256) s j
    have hopened : (accept p n ((x.gen + 1) % 256) (takePacket p s)).latch.opened = s.latch.opened ++ [o] := by
      rw [accept_eq, ← takePacket_opened p s]
    have hstep := cancelStep_scored (i := b) (cmd := some o) (scrub := outScrub) (by rw [hslot]; exact hctx) (by rw [hslot]; exact hst)
      (by rw [hslot]; exact hstage)
    rw [hslot, hopened] at hstep
    obtain ⟨hwrites, hstate, hgen', hexits, hctx', hother, hreply⟩ := hstep
    refine ⟨hstate, hgen', hexits, hctx', ?_, fun d hd => (hother d hd).trans (hslot d), ?_, ?_⟩
    · intro hopen hpre _
      obtain ⟨r, hr, htag, horder, hstatus, hfinal⟩ := hreply (by rw [List.any_append, hopen, Bool.true_or]) hpre
      exact ⟨r, hr, horder, htag, hstatus, hfinal⟩
    · rw [hwrites.same .job (by decide), htake.same .job (by decide)]
    · rw [hwrites.same .hostMem (by decide), htake.same .hostMem (by decide)]
  · intro hruns hlen hentry hgen hst
    exact exec_batchPreempt hruns hlen hentry hgen hst
  · intro c hlost hctx hst hpre
    rw [exec_preemptBoundary hlost hctx]
    refine ⟨fun happ => by rw [if_neg (by simp [happ])], fun happ => ?_⟩
    refine ⟨_, (exec_preemptBoundary hlost hctx).trans (congrArg Host.Outcome.next (if_pos ⟨hst, hpre, happ⟩)), ?_⟩
    beta_reduce
    have hself := slotAt_ctxMap_self hctx fun y => { y with resume := (slotAt s i).st, preemptCmds := [] }
    have hlen := slotAt_lt (congrArg Slot.ctx hself)
    have hmove : Writes [.slots, .drip] s (slotMove i .preempted (ctxMap i (fun y => { y with resume := (slotAt s i).st, preemptCmds := [] }) s)) :=
      .after (slotMove_writes ..) (ctxMap_writes ..).mono
    have hslotSelf := slotAt_slotMove_self hlen .preempted
    have hslotOther (d : Nat) (hd : d ≠ i) := (slotAt_slotMove_ne hd .preempted (ctxMap i (fun y => { y with resume := (slotAt s i).st, preemptCmds := [] }) s)).trans
      (slotAt_ctxMap_ne hd _ s)
    rw [hself] at hslotSelf
    generalize slotMove i .preempted (ctxMap i (fun y => { y with resume := (slotAt s i).st, preemptCmds := [] }) s) = t₁ at *
    have hends := foldl_finish_writes 0 c.preemptCmds t₁
    have hslot (d : Nat) := slotAt_congr (hends.same .slots (by decide)) d
    refine ⟨by rw [hslot, hslotSelf], ?_, fun d hd => by rw [hslot, hslotOther d hd], ?_⟩
    · intro y hy hopen hone
      exact foldl_finish_answers hy (by rw [hmove.same .latch (by decide)]; exact hopen) hone
    · exact (hmove.mono.trans hends.mono : Writes [.slots, .latch, .drip] _ _).eq_mix
  · exact exec_preemptBoundary_rest
  · intro hruns hlen
    refine ⟨exec_batchResume_held hruns, fun hbrace hgen hst => ?_⟩
    have hexec := exec_batchResume hruns hlen hbrace hgen hst
    refine ⟨hexec, fun c hctx hres => ⟨_, hexec, ?_⟩⟩
    beta_reduce
    have htake := takePacket_writes p s
    have hslot (j : Nat) : slotAt (takePacket p s) j = slotAt s j := slotAt_congr (htake.same .slots (by decide)) j
    have hctx' : (slotAt (takePacket p s) (batchSlot p)).ctx = some c := by rw [hslot]; exact hctx
    rw [resumeSlot_scored hctx' hres]
    have hreply (t : State) (j : Nat) : slotAt (replyOne p s.latch.order 0 0 0 0 0 t) j = slotAt t j :=
      slotAt_congr ((replyOne_writes ..).same .slots (by decide)) j
    refine ⟨?_, fun d hd => ?_, ?_⟩
    · rw [hreply, show b = batchSlot p from rfl, slotAt_slotMove_self (slotAt_lt hctx'), hslot]
    · rw [hreply, slotAt_slotMove_ne hd, hslot]
    · rw [(replyOne_writes ..).same .job (by decide), slotMove_job, htake.same .job (by decide)]
  · intro hlost
    refine ⟨exec_classSwitch_idle hlost, fun hk hq happ => ⟨fun m g => ?_, fun c l hu hctx hlayer => ?_⟩⟩
    · rw [exec, execClassSwitch, live_next hlost, if_pos ⟨hk, hq, happ⟩]
    have hexec := exec_classSwitch hlost hk hq happ hu hctx hlayer
    refine ⟨fun h => by rw [hexec, if_pos h], fun h => ?_, fun h hworks hback => ?_⟩
    · rw [hexec, if_neg (by omega), if_neg (by omega)]
    · rw [if_neg (by omega), if_pos ⟨h, hworks, setAside_none hctx hback _⟩] at hexec
      refine ⟨hexec, fun hengine => ⟨_, hexec, ?_⟩⟩
      beta_reduce
      rw [engineAside_of_not_engine hengine, asidePut]
      dsimp only
      refine ⟨?_, ?_, ?_⟩
      · rw [ctr_ctrInc_self, (ctxMap_writes ..).ctr_eq _]
      · rw [slotAt_congr ((ctrInc_writes ..).same .slots (by decide)), slotAt_ctxMap_self hctx]
      · exact (Writes.after (l := [.slots, .counters]) (ctrInc_writes ..) (ctxMap_writes ..).mono).eq_mix

end Sys2Proof.Machine
end

section
/-! PROOFS. The Drip ring and the record ring (R392 to R395, R484 to R488). -/

namespace Sys2Proof.Machine

-- One declaration at a time: see the frames of the state's operations.
set_option Elab.async false

/-! ### The bytes that the requests of some pieces cover -/

/-- Some piece holds the byte at `a`. -/
def Covers (l : List Piece) (a : Nat) : Prop := ∃ p ∈ l, p.pa ≤ a ∧ a < p.pa + p.len

theorem not_covers_iff {l : List Piece} {a : Nat} : ¬ Covers l a ↔ ∀ p ∈ l, a < p.pa ∨ p.pa + p.len ≤ a := by
  simp only [Covers, not_exists, not_and]
  refine forall₂_congr fun p _ => ?_
  omega

theorem Covers.of_subset {k l : List Piece} {a : Nat} (h : Covers k a) (hkl : k ⊆ l) : Covers l a := by
  obtain ⟨p, hp, hin⟩ := h
  exact ⟨p, hkl hp, hin⟩

theorem Covers.of_mergePieces {l : List Piece} {a : Nat} (h : Covers (mergePieces l) a) : Covers l a := by
  induction l with
  | nil => exact h
  | cons p r ih =>
    have hrest (h : Covers (mergePieces r) a) : Covers (p :: r) a := (ih h).of_subset (List.subset_cons_self ..)
    rw [mergePieces] at h
    split at h
    · obtain ⟨x, hx, hin⟩ := h
      exact ⟨x, List.mem_cons.2 (.inl (List.mem_singleton.1 hx)), hin⟩
    · next q m hm =>
      rw [hm] at hrest
      split_ifs at h with hjoin
      · obtain ⟨x, hx, hlo, hhi⟩ := h
        rcases List.mem_cons.1 hx with rfl | hx
        · by_cases hp : a < p.pa + p.len
          · exact ⟨p, List.mem_cons_self .., hlo, hp⟩
          · have hlo' : p.pa ≤ a := hlo
            have hhi' : a < p.pa + max p.len (q.pa + q.len - p.pa) := hhi
            exact hrest ⟨q, List.mem_cons_self .., by omega, by omega⟩
        · exact hrest ⟨x, List.mem_cons_of_mem _ hx, hlo, hhi⟩
      · obtain ⟨x, hx, hin⟩ := h
        rcases List.mem_cons.1 hx with rfl | hx
        · exact ⟨x, List.mem_cons_self .., hin⟩
        · exact hrest ⟨x, hx, hin⟩

theorem mem_cutPiece {g n : Nat} {p x : Piece} {a : Nat} (hx : x ∈ cutPiece g n p) (hlo : x.pa ≤ a) (hhi : a < x.pa + x.len) :
    p.pa ≤ a ∧ a < p.pa + p.len := by
  induction n generalizing p with
  | zero => cases hx
  | succ n ih =>
    rw [cutPiece] at hx
    split_ifs at hx with hlen
    · rw [List.mem_singleton.1 hx] at hlo hhi
      exact ⟨hlo, hhi⟩
    · rcases List.mem_cons.1 hx with rfl | hx
      · dsimp only at hlo hhi
        omega
      · obtain ⟨hlo', hhi'⟩ := ih hx
        dsimp only at hlo' hhi'
        omega

/-- The requests of an access cover no byte outside its pieces (R44). -/
theorem Covers.of_requestsOf {l : List Piece} {s : State} {a : Nat} (h : Covers (requestsOf s l) a) : Covers l a := by
  obtain ⟨x, hx, hlo, hhi⟩ := h
  obtain ⟨p, hp, hx⟩ := List.mem_flatMap.1 hx
  exact Covers.of_mergePieces ⟨p, hp, mem_cutPiece hx hlo hhi⟩

theorem Covers.of_reqsTo {l : List Piece} {e : IoErr} {s : State} {a : Nat} (h : Covers (reqsTo l e s) a) : Covers l a :=
  (h.of_subset (List.take_subset ..)).of_requestsOf

theorem memGet_freePieces_out {l : List Piece} {a : Nat} (h : ¬ Covers l a) (s : State) :
    memGet (freePieces l s).hostMem a = memGet s.hostMem a := by
  rw [not_covers_iff] at h
  refine List.foldlRecOn (motive := fun t : State => memGet t.hostMem a = memGet s.hostMem a) _ _ rfl fun t ht p hp => ?_
  have hlen : (freeBytes t p.len).2.length = p.len := by simp [freeBytes]
  have hmem : (freeBytes t p.len).1.hostMem = t.hostMem := rfl
  dsimp only
  rw [memGet_memWrite_out (by rw [hlen]; exact h p hp), hmem, ht]

/-- A write that fails leaves the bytes outside its pieces (R47). -/
theorem memGet_writeBroken_out {l : List Piece} {a : Nat} (h : ∀ p ∈ l, a < p.pa ∨ p.pa + p.len ≤ a) (bs : List Byte) (e : IoErr)
    (s : State) : memGet (writeBroken l bs e s).hostMem a = memGet s.hostMem a := by
  have hreqs : ¬ Covers (reqsTo l e s) a := fun hc => not_covers_iff.2 h hc.of_reqsTo
  rw [writeBroken, memGet_freePieces_out fun hc => hreqs (hc.of_subset (List.drop_subset ..)), (errCount_writes ..).same .hostMem (by decide)]
  exact memGet_writePieces_out _ _ _ (not_covers_iff.1 fun hc => hreqs (hc.of_subset (List.dropLast_subset _)))

/-! ### A unit's own write -/

theorem ownWrite_of_ok {s w : State} {ctx va : Nat} {bs : List Byte} (h : hostWrite s ctx va bs = (w, .ok ())) :
    ownWrite ctx va bs .ok s = (w, none) := by
  simp only [ownWrite, h]

theorem ownWrite_of_error {s w : State} {ctx va : Nat} {bs : List Byte} {f : XFault} (h : hostWrite s ctx va bs = (w, .error f)) :
    ownWrite ctx va bs .ok s = (w, some 0x0402) := by
  simp only [ownWrite, h]

theorem ownWrite_of_bad {s v : State} {ctx va : Nat} {bs : List Byte} {l : List Piece}
    (h : xlateRange s ctx va bs.length true = (v, .ok l)) (e : IoErr) :
    ownWrite ctx va bs (.bad e) s = (writeBroken l bs e v, some 0x0407) := by
  simp only [ownWrite, h]

theorem ownWrite_bad_status (s : State) (ctx va : Nat) (bs : List Byte) (e : IoErr) :
    ∃ t st, ownWrite ctx va bs (.bad e) s = (t, some st) := by
  unfold ownWrite
  dsimp only
  split
  · exact ⟨_, _, rfl⟩
  · exact ⟨_, _, rfl⟩

/-! ### Drip -/

/-- A counter record that fits goes to the end of the buffer (R484). -/
theorem dripAt_fits {kind payload : Nat} {s : State} (hon : s.drip.enable = true) (hkind : bit s.drip.kindMask kind = true)
    (hunit : bit s.drip.unitMask 0 = true) (hloss : s.drip.lossCount = 0) (hbuf : 32 * (s.drip.buf.length + 1) ≤ 262144)
    (hring : 32 * (s.drip.buf.length + 1) ≤ ringFree (s.drip.size * 65536) s.drip.head (getP s 0x0A09)) :
    dripAt kind 0 payload s = { s with drip := { s.drip with
      buf := s.drip.buf ++ [{ kind := kind, slot := 0, slotValid := false, unit := 0, kt := s.kt, step := 0, generation := 0,
                              payload := payload }] } } := by
  have hfenced : unitFenced s 0 = false := rfl
  simp [dripAt, dripPut, dripLoss, hon, hkind, hunit, hloss, hfenced, hring]
  omega

theorem foldl_dripAt_buf {kind : Nat} {vals : List Nat} {s : State} (hon : s.drip.enable = true)
    (hkind : bit s.drip.kindMask kind = true) (hunit : bit s.drip.unitMask 0 = true) (hloss : s.drip.lossCount = 0)
    (hbuf : 32 * (s.drip.buf.length + vals.length) ≤ 262144)
    (hring : 32 * (s.drip.buf.length + vals.length) ≤ ringFree (s.drip.size * 65536) s.drip.head (getP s 0x0A09)) :
    (vals.foldl (fun t v => dripAt kind 0 v t) s).drip.buf = s.drip.buf ++ vals.map fun v =>
      { kind := kind, slot := 0, slotValid := false, unit := 0, kt := s.kt, step := 0, generation := 0, payload := v } := by
  induction vals generalizing s with
  | nil => simp
  | cons v vals ih =>
    rw [List.length_cons] at hbuf hring
    rw [List.foldl_cons, dripAt_fits hon hkind hunit hloss (by omega) (by omega), ih]
    · simp
    · exact hon
    · exact hkind
    · exact hunit
    · exact hloss
    · simp only [List.length_append, List.length_singleton]
      omega
    · simp only [List.length_append, List.length_singleton]
      exact le_trans (by omega) hring

theorem exec_dripSample {s : State} (hlost : s.rst.rootLost = false) : exec .dripSample s = .next
    (if s.drip.enable ∧ s.drip.sampleUs ≠ 0 then
      ((s.drip.sel.filter fun v => bit v 15).map fun v => v % 1024 + ctrRead s (v % 1024) * 2 ^ 32).foldl
        (fun t v => dripAt 12 0 v t) s
     else s) := by
  rw [exec, execDripSample, live_next hlost, List.foldl_map]
  simp only [List.foldl_map]

/-! ### A record written -/

theorem Writes.of_hostWrite {s w : State} {ctx va : Nat} {bs : List Byte} {r : Except XFault Unit} (h : hostWrite s ctx va bs = (w, r)) :
    Writes [.keyway, .hostMem] s w := by
  have hwrites := hostWrite_writes s ctx va bs
  rwa [h] at hwrites

theorem Writes.of_xlateRange {s v : State} {ctx va n : Nat} {write : Bool} {r : Except XFault (List Piece)}
    (h : xlateRange s ctx va n write = (v, r)) : Writes [.keyway] s v := by
  have hwrites := xlateRange_writes s ctx va n write
  rwa [h] at hwrites

/-- Drip after the write of its oldest record. -/
def dripWritten (rest : List DripRec) : State × Option Nat → State
  | (t, some st) => dripStop (ringCode st) t
  | (t, none) => { t with drip := { t.drip with buf := rest, head := (t.drip.head + 32) % (t.drip.size * 65536) } }

/-- The record ring after the write of its oldest record at offset `at_`. -/
def recWritten (rest : List RecEnt) (at_ n size : Nat) : State × Option Nat → State
  | (t, some st) => recStop (ringCode st) t
  | (t, none) => { t with recRing := { t.recRing with buf := rest, head := (at_ + n) % size } }

theorem exec_dripRecordWritten {s : State} {r : DripRec} {rest : List DripRec} (hlost : s.rst.rootLost = false)
    (hbuf : s.drip.buf = r :: rest) (hstatus : s.drip.status = 0) (hready : domState s 13 = .inService) (io : Io) :
    exec (.dripRecordWritten io) s = .next (dripWritten rest (ownWrite 0 (s.drip.base + s.drip.head) r.bytes io s)) := by
  rw [exec, execDripRecordWritten, live_next hlost, hbuf]
  dsimp only
  rw [if_pos ⟨hstatus, hready⟩]
  rcases ownWrite 0 (s.drip.base + s.drip.head) r.bytes io s with ⟨t, _ | st⟩
  · rfl
  · rfl

theorem exec_dripRecordWritten_rest {io : Io} {s : State} (hlost : s.rst.rootLost = false)
    (h : s.drip.buf = [] ∨ s.drip.status ≠ 0 ∨ domState s 13 ≠ .inService) : exec (.dripRecordWritten io) s = .next s := by
  rw [exec, execDripRecordWritten, live_next hlost]
  split
  · rfl
  · next hbuf =>
    rw [if_neg]
    rintro ⟨hstatus, hready⟩
    rcases h with h | h | h
    · rw [h] at hbuf
      cases hbuf
    · exact h hstatus
    · exact h hready

/-- The record fits before the end of the ring. -/
theorem exec_recordWritten {s : State} {r : RecEnt} {rest : List RecEnt} (hlost : s.rst.rootLost = false)
    (hbuf : s.recRing.buf = r :: rest) (hstatus : s.recRing.status = 0) (hready : domState s 13 = .inService)
    (hfits : s.recRing.head + r.bytes.length ≤ getP s 0x0A01) (io : Io) :
    exec (.recordWritten io) s = .next (recWritten rest s.recRing.head r.bytes.length (getP s 0x0A01)
      (ownWrite 0 (getP s 0x0A00 + s.recRing.head) r.bytes io s)) := by
  have hwrap : decide (getP s 0x0A01 < s.recRing.head + r.bytes.length) = false := decide_eq_false (by omega)
  rw [exec, execRecordWritten, live_next hlost, hbuf]
  dsimp only
  rw [if_pos ⟨hstatus, hready⟩, hwrap]
  simp only [Bool.false_eq_true, if_false]
  rcases ownWrite 0 (getP s 0x0A00 + s.recRing.head) r.bytes io s with ⟨t, _ | st⟩
  · rfl
  · rfl

/-- A pad record fills the ring to its end, and the record goes to offset 0 (R395). -/
theorem exec_recordWritten_wraps {s v : State} {r : RecEnt} {rest : List RecEnt} {io io₁ io₂ : Io} (hlost : s.rst.rootLost = false)
    (hbuf : s.recRing.buf = r :: rest) (hstatus : s.recRing.status = 0) (hready : domState s 13 = .inService)
    (hwraps : getP s 0x0A01 < s.recRing.head + r.bytes.length)
    (hio : ioSplit (reqCount s 0 (getP s 0x0A00 + s.recRing.head) (getP s 0x0A01 - s.recRing.head) true) io = (io₁, io₂))
    (hpad : ownWrite 0 (getP s 0x0A00 + s.recRing.head) (padRecord r.kt (getP s 0x0A01 - s.recRing.head)) io₁ s = (v, none)) :
    exec (.recordWritten io) s = .next (recWritten rest 0 r.bytes.length (getP s 0x0A01)
      (ownWrite 0 (getP s 0x0A00) r.bytes io₂ v)) := by
  have hwrap : decide (getP s 0x0A01 < s.recRing.head + r.bytes.length) = true := decide_eq_true hwraps
  rw [exec, execRecordWritten, live_next hlost, hbuf]
  dsimp only
  rw [if_pos ⟨hstatus, hready⟩, hwrap]
  simp only [if_true, hio, hpad, Nat.add_zero]
  rcases ownWrite 0 (getP s 0x0A00) r.bytes io₂ v with ⟨t, _ | st⟩
  · rfl
  · rfl

theorem exec_recordWritten_rest {io : Io} {s : State} (hlost : s.rst.rootLost = false)
    (h : s.recRing.buf = [] ∨ s.recRing.status ≠ 0 ∨ domState s 13 ≠ .inService) : exec (.recordWritten io) s = .next s := by
  rw [exec, execRecordWritten, live_next hlost]
  split
  · rfl
  · next hbuf =>
    rw [if_neg]
    rintro ⟨hstatus, hready⟩
    rcases h with h | h | h
    · rw [h] at hbuf
      cases hbuf
    · exact h hstatus
    · exact h hready

theorem exec_dripRingFault {code : Nat} {s : State} (hlost : s.rst.rootLost = false) : exec (.dripRingFault code) s =
    .next (if code = 1 ∨ code = 2 then { s with drip := { s.drip with status := code } } else s) := by
  rw [exec, execDripRingFault, live_next hlost]
  rfl

theorem exec_recordRingFault {code : Nat} {s : State} (hlost : s.rst.rootLost = false) : exec (.recordRingFault code) s =
    .next (if code = 1 ∨ code = 2 then { s with recRing := { s.recRing with status := code } } else s) := by
  rw [exec, execRecordRingFault, live_next hlost]
  rfl

/-- Settles O60. -/
theorem ringRowsComplete : Obligations.RingRowsComplete := by
  unfold Obligations.RingRowsComplete
  intro io code s w hlost d sel room ready
  refine ⟨?_, ?_, ?_, exec_dripRecordWritten_rest hlost, ?_, ?_, ?_, exec_recordWritten_rest hlost⟩
  · intro h
    rw [exec_dripSample hlost, if_neg]
    rintro ⟨hon, hus⟩
    rcases h with h | h
    · rw [show s.drip.enable = false from h] at hon
      cases hon
    · exact hus h
  · intro hon hus
    refine ⟨_, (exec_dripSample hlost).trans (congrArg Host.Outcome.next (if_pos ⟨hon, hus⟩)), ?_⟩
    beta_reduce
    refine ⟨(Writes.foldl (l := [.drip]) (fun _ _ => dripAt_writes ..) _ _).eq_mix, fun hkind hunit hloss hbuf hring => ?_⟩
    rw [foldl_dripAt_buf hon hkind hunit hloss (by rw [List.length_map]; exact hbuf) (by rw [List.length_map]; exact hring),
      List.map_map]
    rfl
  · intro r rest hbuf hstatus hready
    have hexec := exec_dripRecordWritten hlost hbuf hstatus hready
    refine ⟨fun hw => ?_, fun f hw => ?_, fun e c l a => ?_, fun e v l hv => ?_⟩
    · refine ⟨_, hexec .ok, ?_⟩
      beta_reduce
      have hwrites := Writes.of_hostWrite hw
      have hdrip : w.drip = s.drip := hwrites.same .drip (by decide)
      rw [ownWrite_of_ok hw, dripWritten, hdrip]
      exact ⟨rfl, rfl, (Writes.after (l := [.hostMem, .keyway, .drip]) (k := [.drip]) (.of_mix rfl) hwrites.mono).eq_mix⟩
    · refine ⟨_, hexec .ok, ?_⟩
      beta_reduce
      have hwrites := hostWrite_error hw
      have hdrip : w.drip = s.drip := hwrites.same .drip (by decide)
      rw [ownWrite_of_error hw, dripWritten, dripStop, hdrip]
      exact ⟨hwrites.same .hostMem (by decide), rfl⟩
    · refine ⟨_, hexec (.walk e c l a), ?_⟩
      have hwrites := walkBroken_writes e c l a s
      have hdrip : (walkBroken e c l a s).drip = s.drip := hwrites.same .drip (by decide)
      rw [ownWrite, dripWritten, dripStop, hdrip]
      exact ⟨rfl, hwrites.same .job (by decide), hwrites.same .hostMem (by decide)⟩
    · refine ⟨_, hexec (.bad e), ?_⟩
      have hxlate := Writes.of_xlateRange hv
      have hwrites := writeBroken_writes l r.bytes e v
      have hdrip : (writeBroken l r.bytes e v).drip = s.drip := (hwrites.same .drip (by decide)).trans (hxlate.same .drip (by decide))
      rw [ownWrite_of_bad hv, dripWritten, dripStop, hdrip]
      refine ⟨rfl, (hwrites.same .job (by decide)).trans (hxlate.same .job (by decide)), fun a ha => ?_⟩
      exact (memGet_writeBroken_out ha ..).trans (congrArg (memGet · a) (hxlate.same .hostMem (by decide)))
  · intro hcode
    rw [exec_dripRingFault hlost, exec_recordRingFault hlost, if_pos hcode, if_pos hcode]
    exact ⟨rfl, rfl⟩
  · intro h1 h2
    rw [exec_dripRingFault hlost, exec_recordRingFault hlost, if_neg (by omega), if_neg (by omega)]
    exact ⟨rfl, rfl⟩
  · intro r rest hbuf hstatus hready size head
    have hexec (hfits : head + r.bytes.length ≤ size) := exec_recordWritten hlost hbuf hstatus hready hfits
    refine ⟨fun hfits hw => ?_, fun v hwraps hv hw => ?_, fun e c l a hfits => ?_, fun e v hwraps hlate hv => ?_, fun e v l hfits hv => ?_⟩
    · refine ⟨_, hexec hfits .ok, ?_⟩
      beta_reduce
      have hwrites := Writes.of_hostWrite hw
      have hring : w.recRing = s.recRing := hwrites.same .recRing (by decide)
      rw [ownWrite_of_ok hw, recWritten, hring]
      exact ⟨rfl, rfl, (Writes.after (l := [.hostMem, .keyway, .recRing]) (k := [.recRing]) (.of_mix rfl) hwrites.mono).eq_mix⟩
    · refine ⟨_, exec_recordWritten_wraps (io := .ok) hlost hbuf hstatus hready hwraps rfl (ownWrite_of_ok hv), ?_⟩
      beta_reduce
      have hring : w.recRing = s.recRing :=
        ((Writes.of_hostWrite hw).same .recRing (by decide)).trans ((Writes.of_hostWrite hv).same .recRing (by decide))
      rw [ownWrite_of_ok hw, recWritten, hring, Nat.zero_add]
      exact ⟨rfl, rfl⟩
    · refine ⟨_, hexec hfits (.walk e c l a), ?_⟩
      have hwrites := walkBroken_writes e c l a s
      have hring : (walkBroken e c l a s).recRing = s.recRing := hwrites.same .recRing (by decide)
      rw [ownWrite, recWritten, recStop, hring]
      exact ⟨rfl, hwrites.same .job (by decide), hwrites.same .hostMem (by decide)⟩
    · refine ⟨_, exec_recordWritten_wraps (io := .bad e) hlost hbuf hstatus hready hwraps (if_neg (Nat.not_lt.2 hlate))
        (ownWrite_of_ok hv), ?_⟩
      beta_reduce
      generalize { e with at_ := e.at_ - reqCount s 0 (getP s 0x0A00 + s.recRing.head) (getP s 0x0A01 - s.recRing.head) true } = e'
      obtain ⟨t, st, ht⟩ := ownWrite_bad_status v 0 (getP s 0x0A00) r.bytes e'
      have hwrites := ownWrite_writes 0 (getP s 0x0A00) r.bytes (.bad e') v
      rw [ht] at hwrites
      have hpad := Writes.of_hostWrite hv
      have hring : t.recRing = s.recRing := (hwrites.same .recRing (by decide)).trans (hpad.same .recRing (by decide))
      rw [ht, recWritten, recStop, hring]
      refine ⟨?_, hbuf, rfl, (hwrites.same .job (by decide)).trans (hpad.same .job (by decide))⟩
      dsimp only [ringCode]
      split_ifs <;> decide
    · refine ⟨_, hexec hfits (.bad e), ?_⟩
      have hxlate := Writes.of_xlateRange hv
      have hwrites := writeBroken_writes l r.bytes e v
      have hring : (writeBroken l r.bytes e v).recRing = s.recRing :=
        (hwrites.same .recRing (by decide)).trans (hxlate.same .recRing (by decide))
      rw [ownWrite_of_bad hv, recWritten, recStop, hring]
      refine ⟨rfl, (hwrites.same .job (by decide)).trans (hxlate.same .job (by decide)), fun a ha => ?_⟩
      exact (memGet_writeBroken_out ha ..).trans (congrArg (memGet · a) (hxlate.same .hostMem (by decide)))

end Sys2Proof.Machine
end

section
/-! PROOFS. Broken packets and the reply stream (R31, R33 to R35, R37, R80 to R82). -/

namespace Sys2Proof.Machine

-- One declaration at a time: see the frames of the state's operations.
set_option Elab.async false

/-! ### Little-endian fields -/

theorem leNat_lt (l : List Byte) : leNat l < 2 ^ (8 * l.length) := by
  induction l with
  | nil => decide
  | cons b r ih =>
    have hb := b.isLt
    rw [leNat, List.length_cons, show 8 * (r.length + 1) = 8 + 8 * r.length by omega, Nat.pow_add]
    generalize 2 ^ (8 * r.length) = m at *
    omega

theorem leAt_lt (l : List Byte) (o n : Nat) : leAt l o n < 2 ^ (8 * n) :=
  (leNat_lt _).trans_le (Nat.pow_le_pow_right (by decide) (Nat.mul_le_mul_left 8 (List.length_take_le ..)))

theorem padTo_of_length {n : Nat} {l : List Byte} (h : l.length = n) : padTo n l = l := by
  rw [padTo, ← h, List.take_length, Nat.sub_self, List.replicate_zero, List.append_nil]

/-! ### Broken packets -/

theorem free_takePacket {s : State} (h : canTake s = true) (p : Packet) : (takePacket p s).latch.free + 1 = s.latch.free := by
  have hfree : 0 < s.latch.free := by
    simp only [canTake, Bool.and_eq_true, decide_eq_true_eq] at h
    exact h.2
  rw [takePacket_latch]
  exact Nat.sub_add_cancel hfree

theorem exec_latchFramingError {p : Packet} {s : State} (hlost : s.rst.rootLost = false) : exec (.latchFramingError p) s = .next
    (if canTake s then replyOne p s.latch.order 0x0101 0 0 0 0 (takePacket p s) else s) := by
  rw [exec, execLatchFramingError, live_next hlost]

theorem exec_latchParityError_idle {hdr : List Byte} {good : Bool} {s : State} (hlost : s.rst.rootLost = false)
    (h : canTake s = false) : exec (.latchParityError hdr good) s = .next s := by
  rw [exec, execLatchParityError, live_next hlost, if_neg (by rw [h]; decide)]

/-- A parity error behind a good header is answered under the tag received (R34). -/
theorem exec_latchParityError_good {hdr : List Byte} {s : State} (hlost : s.rst.rootLost = false) (h : canTake s = true)
    (hlen : hdr.length = 32) : ∃ p : Packet, p.tag.toNat = leAt hdr 2 2 ∧
      exec (.latchParityError hdr true) s = .next (replyOne p s.latch.order 0x0102 0 0 0 0 (takePacket p s)) := by
  rw [exec, execLatchParityError, live_next hlost, if_pos h]
  extract_lets b p n t e d
  refine ⟨p, ?_, rfl⟩
  have htag : p.tag.toNat = leAt (padTo 32 hdr) 2 2 % 2 ^ 16 := BitVec.toNat_ofNat ..
  rw [htag, padTo_of_length hlen, Nat.mod_eq_of_lt (leAt_lt hdr 2 2)]

/-- One behind a bad header is an event that keeps the packet's slot (R34, R80). -/
theorem exec_latchParityError_bad {hdr : List Byte} {s : State} (hlost : s.rst.rootLost = false) (h : canTake s = true)
    (hlen : hdr.length = 32) : ∃ (p : Packet) (t : State), Writes [.drip, .ev] (takePacket p s) t ∧
      t.ev.seq = (s.ev.seq + 1) % 65536 ∧ exec (.latchParityError hdr false) s = .next { t with latch := { t.latch with
        parity := t.latch.parity ++ [(evMake (takePacket p s) 0x0002 false 0x0001 0, hdr)] } } := by
  rw [exec, execLatchParityError, live_next hlost, if_pos h]
  extract_lets b p n t e _ d
  have hb : b = hdr := padTo_of_length hlen
  have hdrip : Writes [.drip] { t with ev := { t.ev with seq := (t.ev.seq + 1) % 65536 } } d := dripAt_writes ..
  have hev : d.ev = { t.ev with seq := (t.ev.seq + 1) % 65536 } := hdrip.same .ev (by decide)
  refine ⟨p, d, .after hdrip (.of_mix rfl), ?_, ?_⟩
  · rw [hev, show t.ev = s.ev from (takePacket_writes p s).same .ev (by decide)]
  · rw [hb]
    rfl

/-! ### The reply stream -/

theorem takeRecord_of_none {s : State} (howed : s.latch.owed = none) (h : sources s = []) : takeRecord s = s := by
  rw [takeRecord, howed]
  dsimp only
  rw [h]
  rfl

/-- One source comes first, and the beat takes its record. -/
theorem takeRecord_of_first {s t : State} {x : Source} {r : Record} (howed : s.latch.owed = none)
    (h : firstSources (sources s) = [x]) (ht : takeSource x s = (t, r)) :
    takeRecord s = { t with latch := { t.latch with beat := t.latch.beat ++ [r] } } := by
  rw [takeRecord, howed]
  dsimp only
  rw [h, pickSource]
  dsimp only
  rw [ht]

theorem takeRecord_of_owed {s : State} {x : Event × List Byte} (howed : s.latch.owed = some x) : takeRecord s =
    let t := ctrInc 43 (slotFree { s with latch := { s.latch with parity := s.latch.parity.erase x, owed := none } })
    { t with latch := { t.latch with beat := t.latch.beat ++ [.header x.2] } } := by
  rw [takeRecord, howed]

/-- The first record of a beat. -/
def firstRecord (s : State) : State := takeRecord { s with latch := { s.latch with beat := [] } }

theorem exec_replyBeatTaken_off {two bad : Bool} {s : State} (hlost : s.rst.rootLost = false) (hoff : streamOn s = false) :
    exec (.replyBeatTaken two bad) s = .next s := by
  rw [exec, execReplyBeatTaken, live_next hlost, if_neg (by rw [hoff]; decide)]

/-- The beat's records, and the mark of bad words, where no command waits behind a reply. -/
theorem exec_replyBeatTaken {two bad : Bool} {s t : State} (hlost : s.rst.rootLost = false) (hon : streamOn s = true)
    (ht : (if two then takeRecord (firstRecord s) else firstRecord s) = t) (hheld : t.latch.held = []) :
    exec (.replyBeatTaken two bad) s =
      .next { t with latch := { t.latch with beatPoison := bad && !t.latch.beat.isEmpty } } := by
  rw [exec, execReplyBeatTaken, live_next hlost, if_pos hon, ← firstRecord]
  extract_lets u v _ w
  have hv : v = t := ht
  have hw : w = { t with latch := { t.latch with beatPoison := bad && !t.latch.beat.isEmpty } } := by rw [← hv]
  have hdone : w.latch.held.length = 0 := by
    rw [hw]
    exact congrArg List.length hheld
  rw [hdone, releaseAfter, hw]

/-- What waits for the stream besides replies. -/
def eventSources (s : State) : List Source :=
  (s.ev.fatal.take 1).map Source.fatal ++
  (match s.ev.summary with
    | some m => [.summary m]
    | none => (s.ev.other.take 1).map Source.event) ++
  (s.latch.parity.take 1).map (fun x => .parity x.1 x.2)

theorem sources_eq (s : State) : sources s = eventSources s ++ (s.latch.replies.filter (replyFree s)).map Source.reply := rfl

theorem reply_notMem_eventSources (r : Reply) (s : State) : Source.reply r ∉ eventSources s := by
  unfold eventSources
  cases s.ev.summary with
  | none => simp [-List.map_take]
  | some m => simp [-List.map_take]

/-- Once the one reply that waited alone has gone, nothing waits. -/
theorem sources_after_reply {s t : State} {r : Reply} (h : sources s = [.reply r]) (hev : t.ev = s.ev)
    (hparity : t.latch.parity = s.latch.parity) (hreplies : t.latch.replies = []) : sources t = [] := by
  have hsame : eventSources t = eventSources s := by rw [eventSources, hev, hparity]; rfl
  have hnone : eventSources s = [] := by
    rw [sources_eq] at h
    refine List.eq_nil_iff_forall_not_mem.2 fun x hx => ?_
    have hone : x = .reply r := List.mem_singleton.1 (h ▸ List.mem_append_left _ hx)
    exact reply_notMem_eventSources r s (hone ▸ hx)
  rw [sources_eq, hsame, hnone, hreplies]
  rfl

theorem firstSources_single (x : Source) : firstSources [x] = [x] := by
  simp [firstSources, keyLt]

/-- A fatal event comes before a reply that is not older (R82). -/
theorem firstSources_fatal {e : Event} {r : Reply} (h : e.kt ≤ r.kt) : firstSources [.fatal e, .reply r] = [.fatal e] := by
  have hreply : ¬ r.kt < e.kt := by omega
  have hfatal : e.kt < r.kt ∨ e.kt = r.kt := by omega
  rcases hfatal with hlt | heq
  · simp [firstSources, keyLt, Source.key, hreply, hlt]
  · simp [firstSources, keyLt, Source.key, heq]

/-- The beat that takes the one fatal event (R81, R82). -/
theorem firstRecord_fatal {s : State} {e : Event} {l : List Source} (howed : s.latch.owed = none) (h : sources s = l)
    (hfirst : firstSources l = [.fatal e]) : firstRecord s = ctrInc 43 { s with
      ev := { s.ev with fatal := s.ev.fatal.drop 1 ++ s.ev.waitFatal.take 1, waitFatal := s.ev.waitFatal.drop 1 }
      latch := { s.latch with beat := [.event e] } } := by
  have hpick : firstSources (sources { s with latch := { s.latch with beat := [] } }) = [.fatal e] :=
    (congrArg firstSources h).trans hfirst
  rw [firstRecord, takeRecord_of_first (by exact howed) hpick rfl, fatalNext]
  rfl

/-- The beat that takes the header after its event (R34, R80). -/
theorem firstRecord_header {s : State} {x : Event × List Byte} (howed : s.latch.owed = some x) : firstRecord s =
    ctrInc 43 { s with latch := { s.latch with owed := none, beat := [.header x.2], free := min 64 (s.latch.free + 1)
                                               parity := s.latch.parity.erase x } } := by
  rw [firstRecord, takeRecord_of_owed (by exact howed), slotFree]
  rfl

/-- The beat that takes the one reply (R31, R35). -/
theorem firstRecord_reply {s : State} {r : Reply} (howed : s.latch.owed = none) (hreplies : s.latch.replies = [r])
    (h : sources s = [.reply r]) : firstRecord s = ctrInc 42 { s with latch := { s.latch with
      replies := [], beat := [.reply r],
      completions := (if r.entry then s.latch.completions - 1 else s.latch.completions),
      free := (if r.first then min 64 (s.latch.free + 1) else s.latch.free) } } := by
  have hfirst : firstSources (sources { s with latch := { s.latch with beat := [] } }) = [.reply r] :=
    (congrArg firstSources h).trans (firstSources_single _)
  rw [firstRecord, takeRecord_of_first (by exact howed) hfirst rfl, takeReply]
  simp only [hreplies]
  split_ifs <;> simp [slotFree, ctrInc, ctrAdd, ctr]

/-- Settles O58. -/
theorem latchRowsComplete : Obligations.LatchRowsComplete := by
  unfold Obligations.LatchRowsComplete
  intro p hdr good two bad s hlost n only
  refine ⟨?_, fun hidle => ⟨?_, exec_latchParityError_idle hlost hidle⟩, fun htake => ⟨?_, fun hlen => ?_, fun hlen => ?_⟩,
    exec_replyBeatTaken_off hlost, ?_, ?_, ?_, ?_⟩
  · rw [exec, execLatchStrayBeat, live_next hlost]
  · rw [exec_latchFramingError hlost, if_neg (by rw [hidle]; decide)]
  · rw [exec_latchFramingError hlost, if_pos htake]
  · obtain ⟨q, htag, hexec⟩ := exec_latchParityError_good hlost htake hlen
    refine ⟨_, hexec, ?_⟩
    have hreply : (replyOne q s.latch.order 0x0102 0 0 0 0 (takePacket q s)).latch = _ := reply_latch ..
    have hwrites : Writes [.latch, .counters, .drip, .recRing] s (replyOne q s.latch.order 0x0102 0 0 0 0 (takePacket q s)) :=
      .after (replyOne_writes ..) (takePacket_writes ..)
    have hfree := free_takePacket htake q
    rw [← takePacket_replies q s]
    exact ⟨by rw [hreply]; exact hfree, hwrites.same .job (by decide), hwrites.same .ev (by decide), _,
      congrArg Latch.replies hreply, rfl, htag, rfl, rfl⟩
  · obtain ⟨q, t, hwrites, hseq, hexec⟩ := exec_latchParityError_bad hlost htake hlen
    refine ⟨_, hexec, ?_⟩
    have htaken := takePacket_writes q s
    have hlatch : t.latch = (takePacket q s).latch := hwrites.same .latch (by decide)
    have hparity : t.latch.parity = s.latch.parity := by rw [hlatch, takePacket_latch]
    have hev : (takePacket q s).ev.seq = s.ev.seq := by rw [show (takePacket q s).ev = s.ev from htaken.same .ev (by decide)]
    refine ⟨?_, ?_, ?_, hseq, evMake (takePacket q s) 0x0002 false 0x0001 0, ?_, rfl, rfl, rfl, hev⟩
    · dsimp only
      rw [hlatch]
      exact free_takePacket htake q
    · exact (hwrites.same .job (by decide)).trans (htaken.same .job (by decide))
    · dsimp only
      rw [hlatch, takePacket_replies]
    · dsimp only
      rw [hparity]
  · rintro ⟨hsources, howed, hheld, hon⟩
    have hfirst : firstRecord s = { s with latch := { s.latch with beat := [] } } := takeRecord_of_none howed hsources
    have hsecond : takeRecord (firstRecord s) = firstRecord s := by
      rw [hfirst]
      exact takeRecord_of_none howed hsources
    rw [exec_replyBeatTaken hlost hon (t := firstRecord s) (by rw [hsecond, ite_self]) (by rw [hfirst]; exact hheld), hfirst]
    simp
  · rintro r hreplies ⟨hsources, howed, hheld, hon⟩
    have hfirst := firstRecord_reply howed hreplies hsources
    have hsecond : takeRecord (firstRecord s) = firstRecord s := by
      rw [hfirst]
      exact takeRecord_of_none howed (sources_after_reply hsources rfl rfl rfl)
    refine ⟨_, exec_replyBeatTaken hlost hon (t := firstRecord s) (by rw [hsecond, ite_self]) (by rw [hfirst]; exact hheld), ?_⟩
    rw [hfirst]
    refine ⟨?_, ?_, ctr_ctrInc_self 42 s, fun i hi => ctr_ctrInc_ne hi s⟩
    · simp [ctrInc, ctrAdd]
    · rfl
  · rintro e r hfatal hwait ⟨hsources, howed, hheld, hon⟩ hkt
    have hfirst := firstRecord_fatal howed hsources (firstSources_fatal hkt)
    refine ⟨_, exec_replyBeatTaken (two := false) (t := firstRecord s) hlost hon rfl (by rw [hfirst]; exact hheld), ?_⟩
    rw [hfirst, hfatal, hwait]
    refine ⟨rfl, ?_, rfl, rfl, rfl, ctr_ctrInc_self 43 s⟩
    simp [ctrInc, ctrAdd]
  · intro e h howed hheld hon
    have hfirst := firstRecord_header howed
    refine ⟨_, exec_replyBeatTaken (two := false) (t := firstRecord s) hlost hon rfl (by rw [hfirst]; exact hheld), ?_⟩
    rw [hfirst]
    refine ⟨?_, rfl, ctr_ctrInc_self 43 s⟩
    simp [ctrInc, ctrAdd]

end Sys2Proof.Machine
end

section
/-! PROOFS. Fences, invalidations, and Carafe's pools, grants and list errors (R267, R268, R274, R320 to R327). -/

namespace Sys2Proof.Machine

-- One declaration at a time: see the frames of the state's operations.
set_option Elab.async false

/-! ### Sorted lists -/

theorem pairwise_insertBy {α : Type} {lt : α → α → Bool} (hasymm : ∀ a b, lt a b = true → lt b a = false)
    (htrans : ∀ a b c, lt b a = false → lt c b = false → lt c a = false) {a : α} {l : List α}
    (h : l.Pairwise fun x y => lt y x = false) : (insertBy lt a l).Pairwise fun x y => lt y x = false := by
  induction l with
  | nil => exact List.pairwise_singleton ..
  | cons b l ih =>
    obtain ⟨hb, hl⟩ := List.pairwise_cons.1 h
    rw [insertBy]
    split_ifs with hlt
    · refine List.pairwise_cons.2 ⟨fun y hy => ?_, h⟩
      rcases List.mem_cons.1 hy with rfl | hy
      · exact hasymm _ _ hlt
      · exact htrans _ _ _ (hasymm _ _ hlt) (hb y hy)
    · refine List.pairwise_cons.2 ⟨fun y hy => ?_, ih hl⟩
      rcases mem_insertBy.1 hy with rfl | hy
      · simpa using hlt
      · exact hb y hy

theorem pairwise_sortBy {α : Type} {lt : α → α → Bool} (hasymm : ∀ a b, lt a b = true → lt b a = false)
    (htrans : ∀ a b c, lt b a = false → lt c b = false → lt c a = false) (l : List α) :
    (sortBy lt l).Pairwise fun x y => lt y x = false :=
  List.foldlRecOn (motive := fun acc : List α => acc.Pairwise fun x y => lt y x = false) _ _ .nil
    fun _ h _ _ => pairwise_insertBy hasymm htrans h

/-- In a sorted list no later member that passes is before the first that does. -/
theorem find?_first {α : Type} {lt : α → α → Bool} {f : α → Bool} {l : List α} {x y : α} (hirr : ∀ a, lt a a = false)
    (hl : l.Pairwise fun x y => lt y x = false) (hx : l.find? f = some x) (hy : y ∈ l) (hf : f y = true) : lt y x = false := by
  induction l with
  | nil => cases hy
  | cons a l ih =>
    obtain ⟨ha, hl⟩ := List.pairwise_cons.1 hl
    by_cases hfa : f a = true
    · rw [List.find?_cons_of_pos hfa, Option.some.injEq] at hx
      subst hx
      rcases List.mem_cons.1 hy with rfl | hy
      · exact hirr _
      · exact ha y hy
    · rw [List.find?_cons_of_neg hfa] at hx
      rcases List.mem_cons.1 hy with rfl | hy
      · exact absurd hf hfa
      · exact ih hl hx hy

theorem mem_dedup {α : Type} [DecidableEq α] {l : List α} {x : α} : x ∈ dedup l ↔ x ∈ l := by
  have hfold (acc : List α) : x ∈ l.foldl (fun acc a => if acc.contains a then acc else a :: acc) acc ↔ x ∈ l ∨ x ∈ acc := by
    induction l generalizing acc with
    | nil => simp
    | cons a l ih =>
      rw [List.foldl_cons, ih, List.mem_cons]
      split_ifs with ha
      · have hmem : a ∈ acc := by simpa using ha
        exact ⟨fun h => h.imp .inr id, fun h => h.elim (fun h => h.elim (fun h => .inr (h ▸ hmem)) .inl) .inr⟩
      · rw [List.mem_cons]
        tauto
  rw [dedup, List.mem_reverse, hfold]
  simp

/-! ### A job fault and the state it leaves -/

/-- A job fault drops waits of Carafe, and no more of it (R326). -/
theorem jobFault_carafe (unit status detail : Nat) (w : Where) (s : State) :
    ∃ waits, (jobFault unit status detail w s).carafe = { s.carafe with waits := waits } := by
  refine jobFault_cases (motive := fun t => ∃ waits, t.carafe = { s.carafe with waits := waits }) ⟨_, rfl⟩ (fun e t ht => ?_)
    (fun e t ht => ?_)
  · exact ⟨s.carafe.waits, ((secondary_counts e t).1.same .carafe (by decide)).trans (ht.same .carafe (by decide))⟩
  · refine ⟨t.carafe.waits.filter fun w => !w.ofJob, ?_⟩
    have hsame : t.carafe = s.carafe := ht.same .carafe (by decide)
    rw [enterFaulted_eq, (faultedBy_writes ..).same .carafe (by decide), jobEnded_carafe, hsame]

theorem jobFault_job (unit status detail : Nat) (w : Where) (s : State) :
    (s.job.st ≠ .closed → (jobFault unit status detail w s).job.st = .faulted) ∧
    (s.job.st = .closed → (jobFault unit status detail w s).job = s.job) := by
  refine ⟨fun hopen => ?_, fun hclosed => by rw [jobFault, hclosed]⟩
  by_cases hfaulted : s.job.st = .faulted
  · have hcount (e : Event) (t : State) (h : t.job = s.job) : (secondary e t).job.st = .faulted := by
      rw [show (secondary e t).job = t.job from (secondary_counts e t).1.same .job (by decide), h, hfaulted]
    rw [jobFault, hfaulted]
    dsimp only
    split_ifs
    · exact hcount _ _ rfl
    · exact hcount _ _ rfl
  · exact jobFault_first_faults hopen hfaulted ..

/-- A job fault counts itself, what it ends, and an event that finds no place. -/
theorem ctr_jobFault_ne {i : Nat} (h19 : i ≠ 19) (h44 : i ≠ 44) (h896 : i < 896) (unit status detail : Nat) (w : Where) (s : State) :
    ctr (jobFault unit status detail w s) i = ctr s i := by
  have hcount (e : Event) (t : State) : ctr (secondary e t) i = ctr t i := by
    rw [secondary, (logAdd_writes ..).ctr_eq, ctr_ctrInc_ne h19]
  by_cases hclosed : s.job.st = .closed
  · simp only [jobFault, hclosed]
  · by_cases hfaulted : s.job.st = .faulted
    · rw [jobFault, hfaulted]
      dsimp only
      split_ifs
      · exact hcount _ _
      · exact hcount _ _
    · have hended (t : State) : Writes [.latch, .drip, .slots, .duties, .vault] t (settleAll (cmdsEnded t)) :=
        .after (settleAll_writes _) (cmdsEnded_writes t).mono
      rw [jobFault_first hclosed hfaulted, enterFaulted_eq, (faultedBy_writes ..).ctr_eq, jobEnded, ctr_endWaits_ne h896,
        (hended _).ctr_eq, (logAdd_writes ..).ctr_eq, evSend, ctr_evQueue_ne h44, (dripAt_writes ..).ctr_eq]
      rfl

/-! ### Pools -/

theorem poolAt_congr {s t : State} (h : t.carafe.pools = s.carafe.pools) (c : Nat) : poolAt t c = poolAt s c := by
  rw [poolAt, poolAt, h]

theorem runsOf_congr {s t : State} (h : t.carafe.runs = s.carafe.runs) (c : Nat) : runsOf t c = runsOf s c := by
  rw [runsOf, runsOf, h]

theorem poolAt_setPool_self {c : Nat} {s : State} (h : c < s.carafe.pools.length) (p : Pool) : poolAt (setPool c p s) c = p := by
  rw [poolAt, setPool, List.getD_eq_getElem?_getD, List.getElem?_set_self h]
  rfl

theorem poolAt_setPool_ne {c d : Nat} (h : d ≠ c) (p : Pool) (s : State) : poolAt (setPool c p s) d = poolAt s d := by
  rw [poolAt, poolAt, setPool, List.getD_eq_getElem?_getD, List.getD_eq_getElem?_getD, List.getElem?_set_ne h.symm]

/-- A pool that has cells is one of the block's. -/
theorem pool_lt {c : Nat} {s : State} (h : (poolAt s c).cells ≠ 0) : c < s.carafe.pools.length := by
  by_contra hc
  rw [poolAt, List.getD_eq_getElem?_getD, List.getElem?_eq_none (by omega)] at h
  exact h rfl

/-- A rebuilt list holds every cell that is not held, ascending (R323, R326). -/
theorem poolRebuild_carafe (c : Nat) (s : State) : (poolRebuild c s).carafe = (setPool c { poolAt s c with
    free := (poolCells (poolAt s c) c).filter fun a => !cellHeld s c a } s).carafe :=
  (linkAll_writes ..).same .carafe (by decide)

theorem ctr_linkAll_ne {i : Nat} (h : i ≠ 12) (l : List Nat) (s : State) : ctr (linkAll l s) i = ctr s i := by
  induction l generalizing s with
  | nil => rfl
  | cons a l ih => rw [linkAll, ih, linkCell, ctr_spWrite_ne h]

theorem ctr_poolRebuild_ne {i : Nat} (h : i ≠ 12) (c : Nat) (s : State) : ctr (poolRebuild c s) i = ctr s i := by
  rw [poolRebuild, ctr_linkAll_ne h]
  rfl

theorem newRuns_carafe (c : Nat) (l : List (Nat × Nat)) (s : State) : (newRuns c l s).carafe =
    { s.carafe with runs := s.carafe.runs.filter (fun r => decide (r.1 ≠ c)) ++ l.map fun r => (c, r) } :=
  (writeHeaders_writes ..).same .carafe (by decide)

theorem runsOf_newRuns (c : Nat) (l : List (Nat × Nat)) (s : State) : runsOf (newRuns c l s) c = l := by
  have hold : (s.carafe.runs.filter fun r => decide (r.1 ≠ c)).filter (fun r => decide (r.1 = c)) = [] := by
    rw [List.filter_filter, List.filter_eq_nil_iff]
    intro r _ h
    simp at h
  have hnew : (l.map fun r => (c, r)).filter (fun r => decide (r.1 = c)) = l.map fun r => (c, r) :=
    List.filter_eq_self.2 fun r hr => by
      obtain ⟨x, _, rfl⟩ := List.mem_map.1 hr
      simp
  rw [runsOf, newRuns_carafe, List.filter_append, hold, hnew, List.nil_append, List.map_map]
  exact List.map_id _

theorem newRuns_writes (c : Nat) (l : List (Nat × Nat)) (s : State) : Writes runFields s (newRuns c l s) := putRuns_writes ..

/-! ### List errors (R326) -/

theorem exec_carafeListError_list {pool : Nat} {s : State} (hlost : s.rst.rootLost = false) (hpool : pool < 8)
    (hcells : (poolAt s pool).cells ≠ 0) : exec (.carafeListError pool none) s = .next
      (jobFault unitCarafe 0x0406 0 Where.none (ctrInc 18 (if pool < 4 then poolRebuild pool s else runsRebuild pool s))) := by
  rw [exec, execCarafeListError, live_next hlost, if_pos ⟨hpool, hcells⟩]

theorem exec_carafeListError_entry {pool a : Nat} {s : State} (hlost : s.rst.rootLost = false) (hpool : pool < 4)
    (ha : a ∈ poolCells (poolAt s pool) pool) (hjob : jobExists s = true) (hcells : (poolAt s pool).cells ≠ 0) :
    exec (.carafeListError pool (some a)) s = .next (jobFault unitCarafe 0x0406 0 Where.none
      { s with carafe := { s.carafe with lost := dedup (s.carafe.lost ++ [(pool, a)]) } }) := by
  rw [exec, execCarafeListError, live_next hlost, if_pos ⟨by omega, hcells⟩]
  dsimp only
  rw [if_pos ⟨hpool, ha, hjob⟩]

theorem exec_carafeListError_rest {pool : Nat} {entry : Option Nat} {s : State} (hlost : s.rst.rootLost = false)
    (h : ¬ (pool < 8 ∧ (poolAt s pool).cells ≠ 0)) : exec (.carafeListError pool entry) s = .next s := by
  rw [exec, execCarafeListError, live_next hlost, if_neg h]

theorem exec_carafeListError_entry_rest {pool a : Nat} {s : State} (hlost : s.rst.rootLost = false)
    (h : ¬ (pool < 4 ∧ a ∈ poolCells (poolAt s pool) pool ∧ jobExists s = true)) :
    exec (.carafeListError pool (some a)) s = .next s := by
  by_cases hin : pool < 8 ∧ (poolAt s pool).cells ≠ 0
  · rw [exec, execCarafeListError, live_next hlost, if_pos hin]
    dsimp only
    rw [if_neg h]
  · exact exec_carafeListError_rest hlost hin

/-- What a fault leaves of the job, from the job before the repair. -/
theorem jobFault_job_of {s u : State} (h : u.job = s.job) (unit status detail : Nat) (w : Where) :
    (s.job.st ≠ .closed → (jobFault unit status detail w u).job.st = .faulted) ∧
    (s.job.st = .closed → (jobFault unit status detail w u).job = s.job) := by
  rw [← h]
  exact jobFault_job ..

/-! ### Grants (R324) -/

/-- The request that a grant serves. -/
def grantNext (s : State) : Option CellWait :=
  (sortBy (fun (a b : CellWait) => decide (a.cls < b.cls)) s.carafe.waits).find? (waitReady s)

theorem grantNext_eq_some {s : State} {w : CellWait} (h : grantNext s = some w) :
    w ∈ s.carafe.waits ∧ waitReady s w = true ∧ ∀ v ∈ s.carafe.waits, waitReady s v = true → w.cls ≤ v.cls := by
  refine ⟨mem_sortBy.1 (List.mem_of_find?_eq_some h), List.find?_some h, fun v hv hready => ?_⟩
  have hsorted := pairwise_sortBy (lt := fun (a b : CellWait) => decide (a.cls < b.cls))
    (fun a b h => by simp only [decide_eq_true_eq, decide_eq_false_iff_not] at h ⊢; omega)
    (fun a b c hab hbc => by simp only [decide_eq_false_iff_not] at hab hbc ⊢; omega) s.carafe.waits
  have hfirst := find?_first (fun a => by simp) hsorted h (mem_sortBy.2 hv) hready
  simpa using hfirst

theorem grantNext_eq_none {s : State} (h : ∀ w ∈ s.carafe.waits, waitReady s w = false) : grantNext s = none :=
  List.find?_eq_none.2 fun w hw => by simp [h w (mem_sortBy.1 hw)]

/-- A pool that a request may take from has a free cell (R324). -/
theorem poolFor_free {s : State} {o n c : Nat} (h : poolFor s o n = some c) : ∃ a rest, (poolAt s c).free = a :: rest := by
  have hmay := List.find?_some h
  simp only [mayTake, Bool.and_eq_true, decide_eq_true_eq] at hmay
  exact List.exists_cons_of_length_pos hmay.2.1

theorem poolFor_lt {s : State} {o n c : Nat} (h : poolFor s o n = some c) : c < 4 :=
  List.mem_range.1 (List.mem_of_find?_eq_some h)

/-- Nothing of a collective operation waits to leave. -/
theorem chunkPump_idle {s : State} (hwait : s.coll.waiting = []) (hbusy : s.coll.busy = []) : chunkPump s = s := by
  have hcoll : ({ s.coll with waiting := [], busy := [] } : Coll) = s.coll := by rw [← hwait, ← hbusy]
  rw [chunkPump, hwait, bufPump]
  dsimp only
  rw [hbusy]
  exact congrArg (fun c => { s with coll := c }) hcoll

theorem takeCell_carafe {o c ref a : Nat} {rest : List Nat} {use : CellUse} {s : State} (h : (poolAt s c).free = a :: rest) :
    (takeCell o c ref use s).carafe = { s.carafe with
      pools := s.carafe.pools.set c { poolAt s c with free := rest },
      cells := s.carafe.cells ++ [{ pool := c, addr := a, owner := o, ref := ref, use := use }] } := by
  rw [takeCell]
  dsimp only
  rw [h]
  rfl

/-- The grant: the request leaves the waits and takes its cell. -/
def grantTo (w : CellWait) (c : Nat) (s : State) : State :=
  let t : State := { s with carafe := { s.carafe with waits := s.carafe.waits.erase w } }
  pfcCheck (ctrAdd (897 + 2 * w.owner) (t.kt - w.since) (takeCell w.owner c w.ref w.use t))

theorem grantTo_writes (w : CellWait) (c : Nat) (s : State) : Writes [.carafe, .counters, .pfcSent] s (grantTo w c s) := by
  unfold grantTo
  extract_lets _ t
  exact .after (pfcCheck_writes _) (.after (ctrAdd_writes ..) (.after (takeCell_writes ..) (.of_mix rfl)))

theorem grantTo_carafe {w : CellWait} {c a : Nat} {rest : List Nat} {s : State} (h : (poolAt s c).free = a :: rest) :
    (grantTo w c s).carafe = { s.carafe with
      waits := s.carafe.waits.erase w, pools := s.carafe.pools.set c { poolAt s c with free := rest },
      cells := s.carafe.cells ++ [{ pool := c, addr := a, owner := w.owner, ref := w.ref, use := w.use }] } := by
  unfold grantTo
  extract_lets _ t
  have hfree : (poolAt t c).free = a :: rest := h
  have htake : (pfcCheck (ctrAdd (897 + 2 * w.owner) (t.kt - w.since) (takeCell w.owner c w.ref w.use t))).carafe =
      (takeCell w.owner c w.ref w.use t).carafe :=
    (Writes.after (l := [.counters, .pfcSent]) (pfcCheck_writes _) (ctrAdd_writes ..).mono).same .carafe (by decide)
  rw [htake, takeCell_carafe hfree]
  rfl

theorem exec_carafeGrant {s : State} {w : CellWait} {c : Nat} (hlost : s.rst.rootLost = false) (hw : grantNext s = some w)
    (hc : poolFor s w.owner w.bytes = some c) : exec .carafeGrant s = .next (chunkPump (grantTo w c s)) := by
  rw [exec, execCarafeGrant, live_next hlost, ← grantNext, hw]
  dsimp only
  rw [hc]
  rfl

theorem exec_carafeGrant_none {s : State} (hlost : s.rst.rootLost = false) (h : grantNext s = none) :
    exec .carafeGrant s = .next s := by
  rw [exec, execCarafeGrant, live_next hlost, ← grantNext, h]

/-! ### POOL_CONFIG (R320, R327) -/

theorem poolRange_takePacket (p : Packet) (s : State) (c base n : Nat) :
    poolRange (takePacket p s) c base n = poolRange s c base n := by
  have hpools : (takePacket p s).carafe.pools = s.carafe.pools := by rw [takePacket_carafe]
  simp only [poolRange, hitsPool, poolAt_congr hpools]

theorem exec_poolConfig_refused {p : Packet} {io : Io} {s : State} (h : Runs 0x44 p s) (hlen : p.payloadLen.toNat = 0)
    (hrange : poolRange s (p.p0.toNat % 16) (pVa p) p.p3.toNat = true) (hjob : jobExists s = true) :
    exec (.poolConfig p io) s = .next (replyOne p s.latch.order 0x0201 0 0 0 0 (takePacket p s)) := by
  have hjob' : jobExists (takePacket p s) = true := by simpa [jobExists] using hjob
  rw [PacketForm.exec_start (c := .poolConfig p io) (fun _ => rfl) h, startPoolConfig, asyncCmd]
  refine congrArg _ (checked_refused ((checkFields_eq_state h (by omega) (by simp [hlen]) (by simp [jobScope])
    ((poolRange_takePacket p ..).trans hrange) (by simp [jobScope])).trans (if_pos hjob')))

theorem exec_poolConfig {p : Packet} {io : Io} {s u : State} (h : Runs 0x44 p s) (hlen : p.payloadLen.toNat = 0)
    (hentry : entryFree s) (hrange : poolRange s (p.p0.toNat % 16) (pVa p) p.p3.toNat = true) (hjob : jobExists s = false)
    (hu : checkRanges (if 4 ≤ p.p0.toNat % 16 ∧ p.p3.toNat ≠ 0 then [(0, pVa p, p.p3.toNat * 65536, true)] else []) io
      (takePacket p s) = (u, none)) :
    exec (.poolConfig p io) s = .next (finish (openOf p s.latch.order) 0 0 0 0 0
      (poolApply (p.p0.toNat % 16) (pVa p) p.p3.toNat (accept p s.latch.order 0 u))) := by
  have hjob' : jobExists (takePacket p s) = false := by simpa [jobExists] using hjob
  rw [PacketForm.exec_start (c := .poolConfig p io) (fun _ => rfl) h, startPoolConfig, asyncCmd]
  exact congrArg _ (checked_runs h (by decide) (by omega) (by simp [hlen]) ((poolRange_takePacket p ..).trans hrange)
    (if_neg (by rw [hjob']; decide)) hu rfl (fun _ => hentry))

/-- A pool is laid out anew, with none of its cells held (R320, R323, R327). -/
theorem poolApply_lays {c base n : Nat} {s : State} (hc : c < s.carafe.pools.length) :
    Writes (.keyway :: .hostMem :: cellFields) s (poolApply c base n s) ∧
    (∀ d, d ≠ c → poolAt (poolApply c base n s) d = poolAt s d) ∧
    (∀ h ∈ (poolApply c base n s).carafe.cells, h.pool ≠ c) ∧
    (n = 0 → poolAt (poolApply c base n s) c = Pool.none ∧ runsOf (poolApply c base n s) c = [] ∧ (poolApply c base n s).sp = s.sp) ∧
    (n ≠ 0 → c < 4 → poolAt (poolApply c base n s) c =
      { base := base, cells := n, free := (List.range n).map fun i => base + i * cellBytes c }) ∧
    (n ≠ 0 → 4 ≤ c → runsOf (poolApply c base n s) c = [(base, n)] ∧ (poolApply c base n s).sp = s.sp) := by
  unfold poolApply
  extract_lets _ t
  have ht : Writes [.carafe] s t := .of_mix rfl
  have hfree : ∀ h ∈ t.carafe.cells, h.pool ≠ c := fun h hh => by simpa using (List.mem_filter.1 hh).2
  have hset (p : Pool) : Writes [.carafe] s (setPool c p t) := .after (setPool_writes ..) ht
  have hself (p : Pool) : poolAt (setPool c p t) c = p := poolAt_setPool_self hc p
  have hother (p : Pool) (d : Nat) (hd : d ≠ c) : poolAt (setPool c p t) d = poolAt s d := poolAt_setPool_ne hd p t
  have hruns (l : List (Nat × Nat)) (p : Pool) (d : Nat) : poolAt (newRuns c l (setPool c p t)) d = poolAt (setPool c p t) d :=
    poolAt_congr (by rw [newRuns_carafe]) d
  have hcells (l : List (Nat × Nat)) (p : Pool) : (newRuns c l (setPool c p t)).carafe.cells = t.carafe.cells := by
    rw [newRuns_carafe]
    rfl
  have hsp (l : List (Nat × Nat)) (p : Pool) : (newRuns c l (setPool c p t)).sp = s.sp :=
    ((newRuns_writes ..).same .sp (by decide)).trans ((hset p).same .sp (by decide))
  have hwrites (l : List (Nat × Nat)) (p : Pool) : Writes (.keyway :: .hostMem :: cellFields) s (newRuns c l (setPool c p t)) :=
    .after (newRuns_writes ..) (hset p).mono
  split_ifs with hn hc4
  · exact ⟨hwrites .., fun d hd => (hruns ..).trans (hother _ d hd), by rw [hcells]; exact hfree,
      fun _ => ⟨(hruns ..).trans (hself _), runsOf_newRuns .., hsp ..⟩, fun h => absurd hn h, fun h => absurd hn h⟩
  · have hnone (a : Nat) : cellHeld (setPool c { base := base, cells := n, free := [] } t) c a = false := by
      refine List.any_eq_false.2 fun h hh => ?_
      have hp : h.pool ≠ c := hfree h hh
      simp [hp]
    have hbuilt := poolRebuild_carafe c (setPool c { base := base, cells := n, free := [] } t)
    have hcell (d : Nat) := poolAt_congr (congrArg Carafe.pools hbuilt) d
    rw [hself] at hbuilt hcell
    refine ⟨.after (poolRebuild_writes ..) (hset _).mono, fun d hd => ?_, ?_, fun h => absurd h hn, fun _ _ => ?_, fun _ h => by omega⟩
    · rw [hcell, poolAt_setPool_ne hd, hother _ d hd]
    · rw [hbuilt]
      exact hfree
    · rw [hcell, poolAt_setPool_self (by simpa [setPool] using hc), List.filter_eq_self.2 fun a _ => by simp [hnone]]
      rfl
  · exact ⟨hwrites .., fun d hd => (hruns ..).trans (hother _ d hd), by rw [hcells]; exact hfree,
      fun h => absurd h hn, fun _ h => absurd h hc4, fun _ _ => ⟨runsOf_newRuns .., hsp ..⟩⟩

/-! ### Fences (R268) -/

/-- One fence is looked at. -/
def fenceStep (t : State) (f : Fence) : State :=
  if (fenceOpen t f).isEmpty then
    let t := { t with kft := { t.kft with fences := t.kft.fences.filter fun g => decide (g ≠ f) } }
    match f.cmd with
    | some c => finish c 0x0000 0 0 0 0 t
    | none => { t with job := { t.job with closeFence := true } }
  else t

theorem fenceCheck_eq (s : State) : fenceCheck s = s.kft.fences.foldl fenceStep s := rfl

theorem fenceStep_kft (t : State) (f : Fence) :
    (fenceStep t f).kft = { t.kft with fences := (fenceStep t f).kft.fences } := by
  unfold fenceStep
  split_ifs
  · extract_lets _ u
    have hu : u.kft = { t.kft with fences := u.kft.fences } := rfl
    split
    · rw [(finish_writes ..).same .kft (by decide)]
    · exact hu
  · rfl

/-- The look at another fence leaves a fence of another command, and the command itself. -/
theorem fenceStep_other {t : State} {f g : Fence} {o : OpenCmd} (hg : g.cmd = some o) (hne : ∀ c, f.cmd = some c → c.order ≠ o.order)
    (hmem : g ∈ t.kft.fences) (hopen : t.latch.opened.any (fun x => sameCmd x o) = true) :
    g ∈ (fenceStep t f).kft.fences ∧ (fenceStep t f).latch.opened.any (fun x => sameCmd x o) = true := by
  have hother : g ≠ f := fun h => hne o (h ▸ hg) rfl
  unfold fenceStep
  split_ifs
  · have hleft : g ∈ t.kft.fences.filter fun g => decide (g ≠ f) := List.mem_filter.2 ⟨hmem, decide_eq_true hother⟩
    dsimp only
    split
    · next c hc =>
      refine ⟨?_, finish_stillOpen (hne c hc) (by exact hopen) ..⟩
      rw [(finish_writes ..).same .kft (by decide)]
      exact hleft
    · exact ⟨hleft, hopen⟩
  · exact ⟨hmem, hopen⟩

theorem foldl_fenceStep_kft (l : List Fence) (s : State) :
    (l.foldl fenceStep s).kft = { s.kft with fences := (l.foldl fenceStep s).kft.fences } := by
  refine List.foldlRecOn (motive := fun t : State => t.kft = { s.kft with fences := t.kft.fences }) _ _ rfl fun t ht f _ => ?_
  rw [fenceStep_kft, ht]

theorem txSpace_congr {s t : State} (h : t.kft.tx = s.kft.tx) (seat vc : Nat) : txSpace t seat vc = txSpace s seat vc := by
  rw [txSpace, txSpace, h]

/-- What a fence waits for at one seat and channel. -/
def fenceReached (s : State) (d v : Nat) : Prop :=
  (txSpace s d v).next = 1 ∧ (txSpace s d v).ack = 0 ∨ serialLe 32 (((txSpace s d v).next + 2 ^ 32 - 1) % 2 ^ 32) (txSpace s d v).ack = true

/-- The points of a new fence. -/
def fencePoints (s : State) (seats vcs : List Nat) : List (Nat × Nat × Nat) :=
  seats.flatMap fun d => vcs.filterMap fun v =>
    let t := txSpace s d v
    if t.next = 1 ∧ t.ack = 0 then none else some (d, v, (t.next + 2 ^ 32 - 1) % 2 ^ 32)

theorem mem_fencePoints {s : State} {seats vcs : List Nat} {x : Nat × Nat × Nat} : x ∈ fencePoints s seats vcs ↔
    ∃ d ∈ seats, ∃ v ∈ vcs, ¬ ((txSpace s d v).next = 1 ∧ (txSpace s d v).ack = 0) ∧
      x = (d, v, ((txSpace s d v).next + 2 ^ 32 - 1) % 2 ^ 32) := by
  simp only [fencePoints, List.mem_flatMap, List.mem_filterMap]
  refine exists_congr fun d => and_congr_right fun _ => exists_congr fun v => and_congr_right fun _ => ?_
  split_ifs with h
  · simp [h]
  · rw [Option.some.injEq]
    exact ⟨fun hx => ⟨h, hx.symm⟩, fun hx => hx.2.symm⟩

theorem fenceOpen_isEmpty {s t : State} {cmd : Option OpenCmd} {seats vcs : List Nat} (htx : t.kft.tx = s.kft.tx) :
    (fenceOpen t { cmd := cmd, points := fencePoints s seats vcs }).isEmpty = true ↔ ∀ d ∈ seats, ∀ v ∈ vcs, fenceReached s d v := by
  simp only [fenceOpen, List.isEmpty_iff, List.filter_eq_nil_iff, Bool.not_eq_true', Bool.not_eq_false, txSpace_congr htx]
  constructor
  · intro h d hd v hv
    by_cases hnone : (txSpace s d v).next = 1 ∧ (txSpace s d v).ack = 0
    · exact .inl hnone
    · have hpoint := h _ (mem_fencePoints.2 ⟨d, hd, v, hv, hnone, rfl⟩)
      dsimp only at hpoint
      exact .inr hpoint
  · intro h x hx
    obtain ⟨d, hd, v, hv, hsome, rfl⟩ := mem_fencePoints.1 hx
    exact (h d hd v hv).resolve_left hsome

/-- A command's fence ends at once where every destination has reached its point, and is kept otherwise. -/
theorem fenceStart_ends {o : OpenCmd} {seats vcs : List Nat} {s : State}
    (hopen : s.latch.opened.any (fun x => sameCmd x o) = true) (hnew : ∀ f ∈ s.kft.fences, ∀ c, f.cmd = some c → c.order ≠ o.order) :
    ((∀ d ∈ seats, ∀ v ∈ vcs, fenceReached s d v) →
      ∃ r, (fenceStart (some o) seats vcs s).latch.replies.getLast? = some r ∧ r.tag = o.tag ∧ r.status = 0 ∧ r.final = true) ∧
    ((¬ ∀ d ∈ seats, ∀ v ∈ vcs, fenceReached s d v) → ∃ f ∈ (fenceStart (some o) seats vcs s).kft.fences, f.cmd = some o) ∧
    (fenceStart (some o) seats vcs s).kft.tx = s.kft.tx ∧ (fenceStart (some o) seats vcs s).kft.unacked = s.kft.unacked := by
  have hstart : fenceStart (some o) seats vcs s = fenceCheck { s with kft := { s.kft with
    fences := s.kft.fences ++ [{ cmd := some o, points := fencePoints s seats vcs }] } } := rfl
  rw [hstart, fenceCheck_eq]
  generalize hg : ({ cmd := some o, points := fencePoints s seats vcs } : Fence) = g
  have hcmd : g.cmd = some o := by rw [← hg]
  generalize hs' : ({ s with kft := { s.kft with fences := s.kft.fences ++ [g] } } : State) = s'
  have hkft : s'.kft = { s.kft with fences := s.kft.fences ++ [g] } := by rw [← hs']
  have hlatch : s'.latch = s.latch := by rw [← hs']
  have hkept := foldl_fenceStep_kft s'.kft.fences s'
  rw [hkft] at hkept ⊢
  refine ⟨?_, ?_, by rw [hkept], by rw [hkept]⟩
  all_goals
    dsimp only
    rw [List.foldl_append, List.foldl_cons, List.foldl_nil]
    have hbefore := foldl_fenceStep_kft s.kft.fences s'
    obtain ⟨hmem, hopen'⟩ : g ∈ (s.kft.fences.foldl fenceStep s').kft.fences ∧
        (s.kft.fences.foldl fenceStep s').latch.opened.any (fun x => sameCmd x o) = true :=
      List.foldlRecOn (motive := fun t : State => g ∈ t.kft.fences ∧ t.latch.opened.any (fun x => sameCmd x o) = true) _ _
        ⟨by rw [hkft]; exact List.mem_append_right _ (List.mem_singleton_self _), by rw [hlatch]; exact hopen⟩
        fun t ht f hf => fenceStep_other hcmd (hnew f hf) ht.1 ht.2
    have htx : (s.kft.fences.foldl fenceStep s').kft.tx = s.kft.tx := by rw [hbefore, hkft]
    have hdone := fenceOpen_isEmpty (cmd := some o) (seats := seats) (vcs := vcs) htx
    rw [hg] at hdone
    generalize s.kft.fences.foldl fenceStep s' = t at *
    intro hreach
    unfold fenceStep
  · rw [if_pos (hdone.2 hreach), hcmd]
    obtain ⟨r, hr, htag, _, hstatus, _, hfinal⟩ := finish_last (c := o)
      (s := { t with kft := { t.kft with fences := t.kft.fences.filter fun x => decide (x ≠ g) } }) hopen' 0 0
    exact ⟨r, hr, htag, hstatus, hfinal⟩
  · rw [if_neg fun h => hreach (hdone.1 h)]
    exact ⟨g, hmem, hcmd⟩

/-- Values out of range are answered ST_RANGE (R61). -/
theorem checkFields_range {op : Nat} {p : Packet} {s : State} (h : RunsJob op p s) {c : Checks} (hl : p.payloadLen.toNat ≤ 4096)
    (hlen : c.len p.payloadLen.toNat = true) (hr : c.range = false) :
    checkFields op p c (takePacket p s) = some (0x0106, 0, 0) := by
  unfold checkFields
  rw [if_neg (by simp [h.ver]), if_neg (by simp [h.code]), if_neg (by simp [hl, hlen]), if_neg (by simp [h.job, h.tag]), if_pos hr]

theorem fenceSeats_takePacket (p : Packet) (s : State) : fenceSeats (takePacket p s) p = fenceSeats s p := by
  simp only [fenceSeats, others, ownSeat, groupAt, getP, takePacket_params, takePacket_job, takePacket_coll]
  rfl

theorem exec_fence_refused {p : Packet} {s : State} (h : RunsJob 0x32 p s) (hlen : p.payloadLen.toNat = 0)
    (hseats : fenceSeats s p = none) : exec (.fence p) s = .next (replyOne p s.latch.order 0x0106 0 0 0 0 (takePacket p s)) := by
  rw [PacketForm.exec_start (c := .fence p) (fun _ => rfl) h.toRuns, startFence, asyncCmd, fenceSeats_takePacket, hseats]
  exact congrArg _ (checked_refused (checkFields_range h (by omega) (by simp [hlen]) rfl))

theorem exec_fence {p : Packet} {s : State} {seats : List Nat} (h : RunsJob 0x32 p s) (hlen : p.payloadLen.toNat = 0)
    (hentry : entryFree s) (hseats : fenceSeats s p = some seats) : exec (.fence p) s = .next
      (fenceStart (some (openOf p s.latch.order)) seats (fenceVcs p) (accept p s.latch.order 0 (takePacket p s))) := by
  rw [PacketForm.exec_start (c := .fence p) (fun _ => rfl) h.toRuns, startFence, asyncCmd,
    checked_runsJob (u := takePacket p s) h (by omega) (by simp [hlen]) (by rw [fenceSeats_takePacket, hseats]; rfl) rfl rfl rfl
      (fun _ => hentry)]
  have hsame : fenceSeats (accept p s.latch.order 0 (takePacket p s)) p = some seats := by
    rw [← hseats, ← fenceSeats_takePacket p s, accept_eq]
    rfl
  rw [hsame]
  rfl

/-! ### Invalidations (R274) -/

theorem mem_cacheInval {all : Bool} {seat off len : Nat} {s : State} {l : RLine} :
    l ∈ (cacheInval all seat off len s).kft.rcache ↔ l ∈ s.kft.rcache ∧
      ¬ ((all = true ∨ l.seat = seat) ∧ l.off < (if len = 0 then 0 else off) + (if len = 0 then winBytes else min len (winBytes - off)) ∧
        (if len = 0 then 0 else off) < l.off + 256) := by
  rw [cacheInval]
  dsimp only
  rw [List.mem_filter, Bool.not_eq_true', Bool.and_eq_false_iff, Bool.or_eq_false_iff]
  simp only [decide_eq_false_iff_not]
  cases all
  · simp
    tauto
  · simp

theorem exec_remoteInval {p : Packet} {s : State} (h : Runs 0x48 p s) (hlen : p.payloadLen.toNat = 0) :
    exec (.remoteInval p) s = .next (replyOne p s.latch.order 0 0 0 0 0
      (cacheInval (bit p.p0.toNat 16) (p.p0.toNat % 65536) p.p1.toNat p.p3.toNat (takePacket p s))) := by
  rw [PacketForm.exec_start (c := .remoteInval p) (fun _ => rfl) h, startRemoteInval, syncCmd]
  exact congrArg _ (checked_runs h (by decide) (by omega) (by simp [hlen]) rfl rfl rfl rfl (by simp))

/-- Settles O57. -/
theorem fenceInvalAndPoolsComplete : Obligations.FenceInvalAndPoolsComplete := by
  unfold Obligations.FenceInvalAndPoolsComplete
  intro p io pool a s u hinv n o last
  refine ⟨fun hruns hlen hentry hnew => ⟨exec_fence_refused hruns hlen, fun seats hseats => ?_⟩, fun hruns hlen => ?_,
    fun hruns hlen hentry hrange => ⟨exec_poolConfig_refused hruns hlen hrange, fun hjob hu => ?_⟩, fun hlost => ⟨?_, ?_, ?_, ?_, ?_⟩⟩
  · refine ⟨_, exec_fence hruns hlen hentry hseats, ?_⟩
    beta_reduce
    have htake : Writes [.latch, .drip, .counters, .recRing] s (accept p s.latch.order 0 (takePacket p s)) :=
      .after (accept_writes ..) (takePacket_writes ..).mono
    have hkft : (accept p s.latch.order 0 (takePacket p s)).kft = s.kft := htake.same .kft (by decide)
    have htx (d v : Nat) := txSpace_congr (congrArg Kft.tx hkft) d v
    have hfences := (fenceStart_fencesOnly (some (openOf p s.latch.order)) seats (fenceVcs p)
      (accept p s.latch.order 0 (takePacket p s))).writes
    obtain ⟨hdone, hkept, htx', hunacked⟩ := fenceStart_ends (seats := seats) (vcs := fenceVcs p)
      (accept_opens p s.latch.order 0 (takePacket p s)) (by rw [hkft]; exact hnew)
    refine ⟨fun hreach => hdone ?_, fun ⟨d, hd, v, hv, hne, hbehind⟩ => hkept fun hreach => ?_, ?_, ?_, ?_, ?_, ?_⟩
    · intro d hd v hv
      rw [fenceReached, htx]
      exact hreach d hd v hv
    · have h := hreach d hd v hv
      rw [fenceReached, htx] at h
      rcases h with h | h
      · exact hne h
      · rw [hbehind] at h
        cases h
    · rw [htx', hkft]
    · rw [hunacked, hkft]
    · rw [hfences.same .slots (by decide), htake.same .slots (by decide)]
    · rw [hfences.same .hostMem (by decide), htake.same .hostMem (by decide)]
    · rw [hfences.same .sp (by decide), htake.same .sp (by decide)]
  · refine ⟨_, exec_remoteInval hruns hlen, ?_⟩
    beta_reduce
    have hwrites : Writes [.kft, .latch, .drip, .counters, .recRing] s (replyOne p s.latch.order 0 0 0 0 0
        (cacheInval (bit p.p0.toNat 16) (p.p0.toNat % 65536) p.p1.toNat p.p3.toNat (takePacket p s))) :=
      .after (replyOne_writes ..) (.after (Writes.of_mix (l := [.kft]) rfl) (takePacket_writes ..).mono)
    have hkft := (replyOne_writes p s.latch.order 0 0 0 0 0
      (cacheInval (bit p.p0.toNat 16) (p.p0.toNat % 65536) p.p1.toNat p.p3.toNat (takePacket p s))).same .kft (by decide)
    refine ⟨⟨_, by rw [replyOne, reply_latch]; exact List.getLast?_concat, rfl, rfl, rfl⟩, fun l => ?_, ?_, hwrites.same .job (by decide), hwrites.same .sp (by decide), hwrites.same .hostMem (by decide)⟩
    · rw [hkft, mem_cacheInval, takePacket_kft]
    · rw [hkft]
      rw [cacheInval, takePacket_kft]
  · refine ⟨_, exec_poolConfig hruns hlen hentry hrange hjob hu, ?_⟩
    beta_reduce
    have hc : p.p0.toNat % 16 < 8 := by
      simp only [poolRange, Bool.and_eq_true, decide_eq_true_eq] at hrange
      exact hrange.1
    have hranges := checkRanges_ok_writes hu
    have htake : Writes [.latch, .drip, .counters, .recRing, .keyway, .mport] s (accept p s.latch.order 0 u) :=
      .after (accept_writes ..) (.after hranges (takePacket_writes ..).mono)
    have hcarafe : (accept p s.latch.order 0 u).carafe = s.carafe := htake.same .carafe (by decide)
    have hpools := congrArg Carafe.pools hcarafe
    have hsp : (accept p s.latch.order 0 u).sp = s.sp := htake.same .sp (by decide)
    obtain ⟨hwrites, hother, hcells, hoff, hsmall, hlarge⟩ := poolApply_lays (base := pVa p) (n := p.p3.toNat)
      (s := accept p s.latch.order 0 u) (c := p.p0.toNat % 16) (by rw [hcarafe, hinv.pools]; exact hc)
    rw [hsp] at hoff hlarge
    have hopen : (poolApply (p.p0.toNat % 16) (pVa p) p.p3.toNat (accept p s.latch.order 0 u)).latch.opened.any
        (fun x => sameCmd x (openOf p s.latch.order)) = true := by
      rw [hwrites.same .latch (by decide)]
      exact accept_opens ..
    have hfinish := finish_writes (openOf p s.latch.order) 0 0 0 0 0
      (poolApply (p.p0.toNat % 16) (pVa p) p.p3.toNat (accept p s.latch.order 0 u))
    obtain ⟨r, hr, htag, _, hstatus, _, hfinal⟩ := finish_last hopen 0 0
    have hcar := hfinish.same .carafe (by decide)
    have hpool (d : Nat) := poolAt_congr (congrArg Carafe.pools hcar) d
    have hruns' (d : Nat) := runsOf_congr (congrArg Carafe.runs hcar) d
    have hsp' := hfinish.same .sp (by decide)
    refine ⟨⟨r, hr, htag, hstatus, hfinal⟩, fun q hq => ?_, ?_, ?_, ?_, ?_⟩
    · rw [hpool, hother q hq, poolAt_congr hpools]
    · rw [hcar]
      exact hcells
    · rw [hpool, hruns', hsp']
      exact hoff
    · rw [hpool]
      exact hsmall
    · rw [hruns', hsp']
      exact hlarge
  · intro hnone
    exact exec_carafeGrant_none hlost (grantNext_eq_none hnone)
  · rintro ⟨v, hv, hready⟩ hwait hbusy
    obtain ⟨w, hw⟩ : ∃ w, grantNext s = some w := by
      rw [← Option.isSome_iff_exists]
      exact List.find?_isSome.2 ⟨v, mem_sortBy.2 hv, hready⟩
    obtain ⟨hmem, hwready, hfirst⟩ := grantNext_eq_some hw
    obtain ⟨c, hc⟩ := Option.isSome_iff_exists.1 hwready
    obtain ⟨b, rest, hfree⟩ := poolFor_free hc
    have hwrites := grantTo_writes w c s
    have hcoll := hwrites.same .coll (by decide)
    refine ⟨_, exec_carafeGrant hlost hw hc, ?_⟩
    rw [chunkPump_idle (hcoll ▸ hwait) (hcoll ▸ hbusy)]
    have hcar := grantTo_carafe (w := w) hfree
    refine ⟨w, c, b, hmem, hc, by rw [hfree]; rfl, hfirst, by rw [hcar], by rw [hcar], ?_, hwrites.same .sp (by decide),
      hwrites.same .job (by decide)⟩
    have hpool := poolAt_setPool_self (s := s) (c := c) (by rw [hinv.pools]; have := poolFor_lt hc; omega)
      { poolAt s c with free := rest }
    rw [poolAt_congr (t := grantTo w c s) (s := setPool c { poolAt s c with free := rest } s) (by rw [hcar]; rfl), hpool, hfree]
    rfl
  · intro hcells
    refine ⟨fun hpool => ?_, fun hlo hhi => ?_, fun hpool ha hjob => ?_⟩
    · refine ⟨_, exec_carafeListError_list hlost (by omega) hcells, ?_⟩
      rw [if_pos hpool]
      obtain ⟨waits, hcar⟩ := jobFault_carafe unitCarafe 0x0406 0 Where.none (ctrInc 18 (poolRebuild pool s))
      have hbuilt : (ctrInc 18 (poolRebuild pool s)).carafe = _ := poolRebuild_carafe pool s
      have hjob : (ctrInc 18 (poolRebuild pool s)).job = s.job := (poolRebuild_writes pool s).same .job (by decide)
      have hlt := pool_lt hcells
      refine ⟨?_, ?_, ?_, jobFault_job_of hjob ..⟩
      · rw [poolAt_congr (s := poolRebuild pool s) (by rw [hcar]; rfl), poolAt_congr (congrArg Carafe.pools (poolRebuild_carafe ..)),
          poolAt_setPool_self hlt]
      · rw [ctr_jobFault_ne (by decide) (by decide) (by decide), ctr_ctrInc_self]
        rw [ctr_poolRebuild_ne (by decide)]
      · rw [hcar, hbuilt]
        rfl
    · refine ⟨_, exec_carafeListError_list hlost hhi hcells, ?_⟩
      rw [if_neg (by omega)]
      obtain ⟨waits, hcar⟩ := jobFault_carafe unitCarafe 0x0406 0 Where.none (ctrInc 18 (runsRebuild pool s))
      have hbuilt : (ctrInc 18 (runsRebuild pool s)).carafe = _ := newRuns_carafe pool (runsOf s pool) s
      have hrunsW : Writes runFields s (runsRebuild pool s) := newRuns_writes ..
      have hjob : (ctrInc 18 (runsRebuild pool s)).job = s.job := hrunsW.same .job (by decide)
      refine ⟨?_, ?_, ?_, jobFault_job_of hjob ..⟩
      · rw [runsOf_congr (s := runsRebuild pool s) (by rw [hcar]; rfl)]
        exact runsOf_newRuns ..
      · rw [hcar, hbuilt]
      · rw [(jobFault_writes ..).same .sp (by decide), (ctrInc_writes ..).same .sp (by decide), hrunsW.same .sp (by decide)]
    · refine ⟨_, exec_carafeListError_entry hlost hpool ha hjob hcells, ?_⟩
      beta_reduce
      obtain ⟨waits, hcar⟩ := jobFault_carafe unitCarafe 0x0406 0 Where.none
        { s with carafe := { s.carafe with lost := dedup (s.carafe.lost ++ [(pool, a)]) } }
      refine ⟨fun x => ?_, by rw [hcar], (jobFault_writes ..).same .sp (by decide), jobFault_job_of (s := s) (by rfl) ..⟩
      rw [hcar, mem_dedup, List.mem_append, List.mem_singleton]
  · intro h
    refine exec_carafeListError_rest hlost ?_
    rintro ⟨hlt, hne⟩
    rcases h with h | h
    · omega
    · exact hne h
  · intro h
    refine exec_carafeListError_entry_rest hlost ?_
    rintro ⟨hlt, ha, hjob⟩
    rcases h with h | h | h
    · omega
    · exact h ha
    · rw [h] at hjob
      cases hjob

end Sys2Proof.Machine
end

section
/-! PROOFS. GROUP_DEFINE and COLL_POST (R286 to R293, R306). -/

namespace Sys2Proof.Machine

-- One declaration at a time: see the frames of the state's operations.
set_option Elab.async false

/-! ### Groups -/

theorem groupAt_congr {s t : State} (h : t.coll.groups = s.coll.groups) (g : Nat) : groupAt t g = groupAt s g := by
  rw [groupAt, groupAt, h]

/-- A list in which a group takes the place of those of its number. -/
theorem find?_filter_append {l : List Group} {g : Group} (k : Nat) :
    (l.filter (fun x => decide (x.num ≠ g.num)) ++ [g]).find? (fun x => decide (x.num = k)) =
      if k = g.num then some g else l.find? fun x => decide (x.num = k) := by
  rw [List.find?_append, List.find?_filter]
  split_ifs with hk
  · have hnone : l.find? (fun a => decide (decide (a.num ≠ g.num) = true ∧ decide (a.num = k) = true)) = none :=
      List.find?_eq_none.2 fun x _ h => by simp [hk] at h
    rw [hnone]
    simp [hk]
  · have hsame : (fun a : Group => decide (decide (a.num ≠ g.num) = true ∧ decide (a.num = k) = true)) = fun a => decide (a.num = k) := by
      funext a
      by_cases ha : a.num = k
      · simp [ha, hk]
      · simp [ha]
    rw [hsame]
    simp [Ne.symm hk]

/-- A group is installed in place of the one of its number, with fresh edges (R286, R290). -/
theorem installGroup_coll {g : Group} {s t : State} (h : installGroup g s = some t) :
    t.coll.groups = s.coll.groups.filter (fun x => decide (x.num ≠ g.num)) ++ [g] ∧
    t.coll.sent = s.coll.sent.filter (fun e => decide (e.edge.group ≠ g.num)) ∧
    t.coll.credits = s.coll.credits.filter (fun e => decide (e.edge.group ≠ g.num)) ∧ t.coll.ops = s.coll.ops := by
  unfold installGroup at h
  extract_lets s₁ at h
  have hfreed : Writes cellFields s s₁ := freeCells_writes ..
  split at h
  case h_1 => cases h
  case h_2 u hu =>
    have hcoll : u.coll = s.coll := ((takeStaging_writes hu).same .coll (by decide)).trans (hfreed.same .coll (by decide))
    cases h
    dsimp only
    rw [hcoll]
    exact ⟨rfl, rfl, rfl, rfl⟩

/-- An image that passes names its own group. -/
theorem groupBad_num {s : State} {b : List Byte} {g size : Nat} (h : groupBad s b g size = none) : (groupOf b).num = g := by
  have hnum : bits (leAt b 0 64) 23 16 = g := by
    by_contra hne
    rw [groupBad] at h
    dsimp only at h
    rw [if_pos (.inr (.inr (.inl hne)))] at h
    cases h
  exact hnum

theorem exec_groupDefine {p : Packet} {io : Io} {s u w : State} {b : List Byte} (h : RunsJob 0x30 p s)
    (hlen : p.payloadLen.toNat = 0) (hg : p.p0.toNat % 256 ≠ 0) (hentry : entryFree s)
    (hranges : checkRanges [(1, pVa p, p.p3.toNat, false)] io (takePacket p s) = (u, none))
    (hread : ownRead 1 (pVa p) p.p3.toNat io (accept p s.latch.order 0 u) = (w, .ok b)) :
    exec (.groupDefine p io) s = .next (match groupBad w b (p.p0.toNat % 256) p.p3.toNat with
      | some st => finish (openOf p s.latch.order) st 0 0 0 0 w
      | none => match installGroup (groupOf b) w with
        | none => finish (openOf p s.latch.order) 0x0302 0 0 0 0 w
        | some v => finish (openOf p s.latch.order) 0 (groupOf b).members.length 0 0 0 v) := by
  rw [PacketForm.exec_start (c := .groupDefine p io) (fun _ => rfl) h.toRuns, startGroupDefine, asyncCmd,
    checked_runsJob (u := u) h (by omega) (by simp [hlen]) (by simpa using hg) rfl hranges rfl (fun _ => hentry),
    show ownRead 1 (pVa p) p.p3.toNat (Ext.ofIo io).io (accept p s.latch.order 0 u) = (w, .ok b) from hread] <;> rfl

/-! ### COLL_POST -/

theorem nextArrived_congr {s t : State} (h : t.coll.staged = s.coll.staged) (g : Group) : nextArrived t g = nextArrived s g := by
  rw [nextArrived, nextArrived, h]

theorem ownGroup_takePacket (p : Packet) (s : State) (g : Nat) : ownGroup (takePacket p s) g = ownGroup s g := by
  rw [ownGroup, ownGroup, getP_congr (takePacket_params p s), takePacket_coll]

/-- A group that the job's drain still serves: a member's chunk of its next operation has come. -/
theorem collPost_state (p : Packet) (s : State) (g : Nat) :
    (if (takePacket p s).job.st = .draining ∧ (groupAt (takePacket p s) g).elim false (nextArrived (takePacket p s)) = false
      then some (0x0201, 0, 0) else (none : Option (Nat × Nat × Nat))) =
    if s.job.st = .draining ∧ (groupAt s g).elim false (nextArrived s) = false then some (0x0201, 0, 0) else none := by
  have hnext : nextArrived (takePacket p s) = nextArrived s := funext fun g => nextArrived_congr (by rw [takePacket_coll]) g
  rw [takePacket_job, groupAt_congr (t := takePacket p s) (s := s) (by rw [takePacket_coll]), hnext]

theorem exec_collPost_refused {p : Packet} {io : Io} {s : State} (h : RunsJob 0x31 p s) (hlen : p.payloadLen.toNat = 64)
    (hown : ownGroup s (p.p0.toNat % 256) = true) (hst : s.job.st = .draining)
    (hnext : (groupAt s (p.p0.toNat % 256)).elim false (nextArrived s) = false) :
    exec (.collPost p io) s = .next (replyOne p s.latch.order 0x0201 0 0 0 0 (takePacket p s)) := by
  rw [PacketForm.exec_start (c := .collPost p io) (fun _ => rfl) h.toRuns, startCollPost]
  refine congrArg _ (checked_refused ((checkFields_eq_state_of_runsJob h (by omega) (by simp [hlen])
    ((ownGroup_takePacket ..).trans hown)).trans ?_))
  dsimp only
  rw [collPost_state, if_pos ⟨hst, hnext⟩]

theorem exec_collPost {p : Packet} {io : Io} {s : State} (h : RunsJob 0x31 p s) (hlen : p.payloadLen.toNat = 64)
    (hown : ownGroup s (p.p0.toNat % 256) = true) (hentry : entryFree s) (hst : s.job.st ≠ .draining) :
    exec (.collPost p io) s = .next
      (if s.job.st = .starting then
        holdCmd .release p (Ext.ofIo io) s.latch.order (accept p s.latch.order 0 (takePacket p s))
       else if inBrace s then holdCmd .brace p (Ext.ofIo io) s.latch.order (accept p s.latch.order 0 (takePacket p s))
       else collBegin p io (openOf p s.latch.order) (accept p s.latch.order 0 (takePacket p s))) := by
  have hstate : (if (takePacket p s).job.st = .draining ∧
      (groupAt (takePacket p s) (p.p0.toNat % 256)).elim false (nextArrived (takePacket p s)) = false
      then some (0x0201, 0, 0) else (none : Option (Nat × Nat × Nat))) = none := by
    rw [collPost_state, if_neg fun hd => hst hd.1]
  have hjob : (accept p s.latch.order 0 (takePacket p s)).job = s.job := by simp
  have hpwr : (accept p s.latch.order 0 (takePacket p s)).pwr = s.pwr := by simp
  rw [PacketForm.exec_start (c := .collPost p io) (fun _ => rfl) h.toRuns, startCollPost]
  dsimp only
  rw [checked_runsJob (u := takePacket p s) h (by omega) (by simp [hlen]) ((ownGroup_takePacket ..).trans hown) hstate rfl rfl
    (fun _ => hentry), hjob, inBrace, hpwr]
  rfl

/-- An operation behind one that runs in its queue does not start (R291). -/
theorem opReady_behind {s : State} {o x : CollOp} {l : List CollOp} (hops : s.coll.ops = l ++ [o])
    (hx : (l.find? fun y => decide (y.group = o.group ∧ y.loopQ = o.loopQ)) = some x) (hrun : x.running = true) :
    opReady s o = false := by
  have hhead : opHead s o.group o.loopQ = none := by
    rw [opHead, hops, List.find?_append, hx]
    simp [hrun]
  simp [opReady, hhead]

/-- The operation that a COLL_POST makes, in the group `gr` (R291). -/
def postedOp (p : Packet) (io : Io) (c : OpenCmd) (gr : Group) (s : State) : CollOp :=
  let w := p.p0.toNat
  let d := descOf (pBody p) 0
  let wide := bit w 8 || (decide (d.fmt = 1 ∨ d.fmt = 2) && decide (getP s 0x0510 = 1))
  { group := w % 256, loopQ := false, seq := seqAdd gr.hostSeq 1, cmd := some c, cls := p.cls.toNat,
    desc := leAt (pBody p) 0 64, io := io, wide := wide, crc := bit w 9, residue := bit w 10, dynamic := bit w 11,
    fmt := postFmt d.fmt wide, own := [], running := false, agreed := none, parts := [], charges := [],
    thresh := ticksOf (getP s 0x0511), counts := [] }

/-- The group counts the post. -/
def countPost (g seq : Nat) (s : State) : State :=
  { s with coll := { s.coll with groups := s.coll.groups.map fun x => if x.num = g then { x with hostSeq := seq } else x } }

theorem collBegin_posts {p : Packet} {io : Io} {c : OpenCmd} {s : State} {gr : Group}
    (hgr : groupAt s (p.p0.toNat % 256) = some gr) (hmember : gr.members.contains (getP s 0x0001) = true) :
    collBegin p io c s = opPost (postedOp p io c gr s) (countPost (p.p0.toNat % 256) (seqAdd gr.hostSeq 1) s) := by
  rw [collBegin]
  dsimp only
  rw [hgr]
  dsimp only
  rw [if_pos hmember]
  rfl

theorem groupAt_countPost {g seq : Nat} {s : State} {gr : Group} (hgr : groupAt s g = some gr) :
    groupAt (countPost g seq s) g = some { gr with hostSeq := seq } := by
  have hnum : gr.num = g := by simpa using List.find?_some hgr
  have hsame : (fun x : Group => decide (x.num = g)) ∘ (fun x => if x.num = g then { x with hostSeq := seq } else x) =
      fun x => decide (x.num = g) := by
    funext x
    dsimp only [Function.comp]
    split_ifs <;> rfl
  rw [groupAt, countPost, List.find?_map, hsame, show s.coll.groups.find? (fun x => decide (x.num = g)) = some gr from hgr,
    Option.map_some, if_pos hnum]

/-- A post behind an operation that runs waits in its queue. -/
theorem collBegin_waits {p : Packet} {io : Io} {c : OpenCmd} {s : State} {gr : Group} {x : CollOp}
    (hgr : groupAt s (p.p0.toNat % 256) = some gr) (hmember : gr.members.contains (getP s 0x0001) = true)
    (hx : (s.coll.ops.find? fun x => decide (x.group = p.p0.toNat % 256 ∧ x.loopQ = false)) = some x) (hrun : x.running = true) :
    ∃ t, collBegin p io c s = t ∧ Writes [.coll] s t ∧ t.coll.ops = s.coll.ops ++ [postedOp p io c gr s] ∧
      groupAt t (p.p0.toNat % 256) = some { gr with hostSeq := seqAdd gr.hostSeq 1 } := by
  have hbehind := opReady_behind (s := { countPost (p.p0.toNat % 256) (seqAdd gr.hostSeq 1) s with
    coll := { (countPost (p.p0.toNat % 256) (seqAdd gr.hostSeq 1) s).coll with ops := s.coll.ops ++ [postedOp p io c gr s] } })
    (o := postedOp p io c gr s) rfl hx hrun
  refine ⟨_, (collBegin_posts hgr hmember).trans (if_neg (ne_true_of_eq_false hbehind)), .of_mix rfl, rfl, ?_⟩
  exact groupAt_countPost hgr

/-- Settles O50. -/
theorem collectiveCommandsComplete : Obligations.CollectiveCommandsComplete := by
  unfold Obligations.CollectiveCommandsComplete
  intro p io s u w v b n o g a
  refine ⟨fun hruns hlen hg hentry hranges hread => ?_, fun hruns hlen hown hentry => ⟨?_, fun hst => ?_, fun hst hbrace => ?_, fun hst hbrace gr hgr hmember => ?_⟩⟩
  · have hexec := exec_groupDefine hruns hlen hg hentry hranges hread
    refine ⟨fun st hbad => ?_, fun hgood hnone => ?_, fun hgood hsome => ?_⟩
    · rw [hexec, hbad]
    · rw [hexec, hgood]
      dsimp only
      rw [hnone]
    · rw [hexec, hgood]
      dsimp only
      rw [hsome]
      have hreadW := ownRead_writes 1 (pVa p) p.p3.toNat io (accept p s.latch.order 0 u)
      rw [hread] at hreadW
      have hw : Writes [.keyway, .counters, .mport, .latch, .drip, .recRing] s w :=
        .after hreadW (.after (accept_writes ..) (.after (checkRanges_ok_writes hranges) (takePacket_writes ..).mono))
      have hcoll : w.coll = s.coll := hw.same .coll (by decide)
      obtain ⟨hgroups, hsent, hcredits, hops⟩ := installGroup_coll hsome
      have hinstall := installGroup_writes hsome
      rw [groupBad_num hgood] at hgroups hsent hcredits
      have hat (k : Nat) : groupAt v k = if k = g then some (groupOf b) else groupAt s k := by
        have hfind := find?_filter_append (l := w.coll.groups) (g := groupOf b) k
        rw [groupBad_num hgood] at hfind
        rw [groupAt, hgroups, hfind, hcoll]
        rfl
      refine ⟨rfl, by rw [hat, if_pos rfl], fun k hk => by rw [hat, if_neg hk], fun e he => ?_, fun e he => ?_, by rw [hops, hcoll], ?_, ?_⟩
      · rw [hsent] at he
        simpa using (List.mem_filter.1 he).2
      · rw [hcredits] at he
        simpa using (List.mem_filter.1 he).2
      · exact (hinstall.same .job (by decide)).trans (hw.same .job (by decide))
      · exact (hinstall.same .hostMem (by decide)).trans (hw.same .hostMem (by decide))
  · exact exec_collPost_refused hruns hlen hown
  · rw [exec_collPost hruns hlen hown hentry (by rw [hst]; decide), if_pos hst]
  · rw [exec_collPost hruns hlen hown hentry (by rw [hst]; decide), if_neg (by rw [hst]; decide), if_pos hbrace]
  · have hexec : exec (.collPost p io) s = .next (collBegin p io o a) := by
      rw [exec_collPost hruns hlen hown hentry (by rw [hst]; decide), if_neg (by rw [hst]; decide), if_neg (by rw [hbrace]; decide)]
    refine ⟨hexec, fun x hx hrun => ?_⟩
    have ha : Writes [.latch, .drip, .counters, .recRing] s a := .after (accept_writes ..) (takePacket_writes ..).mono
    have hcoll : a.coll = s.coll := ha.same .coll (by decide)
    have hseat : getP a 0x0001 = ownSeat s := getP_congr (ha.same .params (by decide)) 0x0001
    obtain ⟨t, ht, hwrites, hops, hgroup⟩ := collBegin_waits (io := io) (c := o) (s := a)
      ((groupAt_congr (by rw [hcoll]) _).trans hgr) (by rw [hseat]; exact hmember) (by rw [hcoll]; exact hx) hrun
    refine ⟨t, by rw [hexec, ht], ⟨_, by rw [hops, hcoll], rfl, rfl, rfl, rfl, rfl, rfl⟩, hgroup,
      (hwrites.same .job (by decide)).trans (ha.same .job (by decide)),
      (hwrites.same .hostMem (by decide)).trans (ha.same .hostMem (by decide))⟩

end Sys2Proof.Machine
end

section
/-! PROOFS. The crash dump (R55, R419 to R423, R437). -/

namespace Sys2Proof.Machine

-- One declaration at a time: see the frames of the state's operations.
set_option Elab.async false

/-! ### Little-endian bytes -/

theorem length_leBytes (n v : Nat) : (leBytes n v).length = n := by
  induction n generalizing v with
  | zero => rfl
  | succ n ih => rw [leBytes, List.length_cons, ih]

theorem take_leBytes {k n : Nat} (h : k ≤ n) (v : Nat) : (leBytes n v).take k = leBytes k v := by
  induction k generalizing n v with
  | zero => rfl
  | succ k ih =>
    obtain ⟨n, rfl⟩ : ∃ m, n = m + 1 := ⟨n - 1, by omega⟩
    rw [leBytes, List.take_succ_cons, ih (by omega), leBytes]

theorem leNat_leBytes (n v : Nat) : leNat (leBytes n v) = v % 2 ^ (8 * n) := by
  induction n generalizing v with
  | zero => simp [leBytes, leNat, Nat.mod_one]
  | succ n ih =>
    rw [leBytes, leNat, ih, BitVec.toNat_ofNat, show 8 * (n + 1) = 8 + 8 * n by omega, Nat.pow_add, Nat.mod_mul]

theorem leAt_leBytes_zero {k n : Nat} (h : k ≤ n) (v : Nat) : leAt (leBytes n v) 0 k = v % 2 ^ (8 * k) := by
  rw [leAt, List.drop_zero, take_leBytes h, leNat_leBytes]

/-! ### The sample -/

/-- What the dump of the state writes. -/
def dumpFields : List Fld := [.dump, .freeCtr, .keyway, .hostMem, .counters, .mport]

/-- A job's fault has the state sampled (R420, R422). -/
theorem dumpSample_wanted {s : State} (h : s.dump.wanted = true) : ∃ ctx key secs, secs.length = 6 ∧
    (dumpSample s).dump = { s.dump with
      wanted := false, active := true, region := if s.job.desc.dumpVa = 0 then getP s 0x050B else s.job.desc.dumpVa,
      ctx := ctx, bytes := s.job.desc.dumpBytes, sections := secs, key := key, written := 0, status := 0 } := by
  rw [dumpSample, if_pos h]
  dsimp only
  refine ⟨if s.job.desc.dumpVa = 0 then 0 else 1, keyNow s, [(1, padTo 640 (snapBytes s 1)), (2, snapBytes s 0), (3, dumpLog s),
    (4, dumpWork s), (5, dumpBias s), (6, (dumpSpaces s).2)], rfl, ?_⟩
  simp only [decide_eq_true_eq]

/-! ### The sections -/

theorem dumpWrite_writes (io : Io) (l : List (Nat × Nat × List Byte)) (s : State) : Writes dumpFields s (dumpWrite io l s) := by
  induction l generalizing io s with
  | nil => exact .refl _ s
  | cons x l ih =>
    obtain ⟨id, off, b⟩ := x
    rw [dumpWrite]
    generalize s.dump.region + off = va
    generalize hq : (if l.isEmpty = true then (io, Io.ok) else ioSplit (reqCount s s.dump.ctx va b.length true) io) = q
    have hwrite := ownWrite_writes s.dump.ctx va b q.1 s
    split
    · next hfailed =>
      rw [hfailed] at hwrite
      exact .after (Writes.of_mix (l := [.dump]) rfl) hwrite.mono
    · next hok =>
      rw [hok] at hwrite
      exact .trans (.after (Writes.of_mix (l := [.dump]) rfl) hwrite.mono) (ih ..)

/-- The writes of the sections change no more of the dump than its count and status. -/
theorem dumpWrite_dump (io : Io) (l : List (Nat × Nat × List Byte)) (s : State) : ∃ written status,
    (dumpWrite io l s).dump = { s.dump with written := written, status := status } := by
  induction l generalizing io s with
  | nil => exact ⟨_, _, rfl⟩
  | cons x l ih =>
    obtain ⟨id, off, b⟩ := x
    rw [dumpWrite]
    generalize s.dump.region + off = va
    generalize hq : (if l.isEmpty = true then (io, Io.ok) else ioSplit (reqCount s s.dump.ctx va b.length true) io) = q
    have hwrite := ownWrite_writes s.dump.ctx va b q.1 s
    split
    · next t _ hfailed =>
      rw [hfailed] at hwrite
      have hdump : t.dump = s.dump := hwrite.same .dump (by decide)
      exact ⟨s.dump.written, 2, by dsimp only; rw [hdump]⟩
    · next t hok =>
      rw [hok] at hwrite
      have hdump : t.dump = s.dump := hwrite.same .dump (by decide)
      obtain ⟨n, st, h⟩ := ih q.2 { t with dump := { t.dump with written := t.dump.written + b.length } }
      exact ⟨n, st, by rw [h, hdump]⟩

theorem ownWrite_fails {ctx va : Nat} {bs : List Byte} {io : Io} {s t : State} (h : ownWrite ctx va bs io s = (t, none)) : io = .ok := by
  cases io with
  | ok => rfl
  | bad e =>
    obtain ⟨u, st, hu⟩ := ownWrite_bad_status s ctx va bs e
    rw [hu] at h
    cases h
  | walk e c l a => cases h

/-- Of an answer that is not good, a part that is leaves the rest not good. -/
theorem ioSplit_ok {n : Nat} {io : Io} (h : io ≠ .ok) (hfirst : (ioSplit n io).1 = .ok) : (ioSplit n io).2 ≠ .ok := by
  cases io with
  | ok => exact absurd rfl h
  | walk e c l a => cases hfirst
  | bad e =>
    rw [ioSplit] at hfirst ⊢
    split_ifs at hfirst ⊢
    intro hsecond
    cases hsecond

/-- Where the memory port fails one of the requests, the dump is incomplete (R423). -/
theorem dumpWrite_fails {io : Io} {l : List (Nat × Nat × List Byte)} (hio : io ≠ .ok) (hl : l ≠ []) (s : State) :
    (dumpWrite io l s).dump.status = 2 := by
  induction l generalizing io s with
  | nil => exact absurd rfl hl
  | cons x l ih =>
    obtain ⟨id, off, b⟩ := x
    rw [dumpWrite]
    generalize s.dump.region + off = va
    generalize hq : (if l.isEmpty = true then (io, Io.ok) else ioSplit (reqCount s s.dump.ctx va b.length true) io) = q
    split
    · rfl
    · next t hok =>
      have hgood := ownWrite_fails hok
      by_cases hlast : l = []
      · rw [if_pos (by rw [hlast]; rfl)] at hq
        rw [← hq] at hgood
        exact absurd hgood hio
      · rw [if_neg (by simpa using hlast)] at hq
        rw [← hq] at hgood ⊢
        exact ih (ioSplit_ok hio hgood) hlast _

theorem exec_crashDump {io : Io} {s : State} (hlost : s.rst.rootLost = false) (hwanted : s.dump.wanted = true)
    (hmem : domState s 13 = .inService) : ∃ u : State, Writes [.keyway, .latch, .drip, .dump, .freeCtr] s u ∧
      (∃ ctx key secs st, secs.length = 6 ∧ u.dump = { s.dump with
        wanted := false, active := true, region := if s.job.desc.dumpVa = 0 then getP s 0x050B else s.job.desc.dumpVa,
        ctx := ctx, bytes := s.job.desc.dumpBytes, sections := secs, key := key, written := 0, status := st }) ∧
      exec (.crashDump io) s = .next (dumpWrite io (dumpFit u.dump.bytes 256 u.dump.sections).1 u) := by
  have hruns : (s.dump.wanted = true ∨ (s.dump.active = true ∧ s.dump.written = 0 ∧ s.dump.status = 0)) ∧ domState s 13 = .inService :=
    ⟨.inl hwanted, hmem⟩
  rw [exec, execCrashDump, live_next hlost, if_pos hruns]
  extract_lets _ v q _ u
  have hretire := mmuRetire_writes s
  have hdump : (mmuRetire s).dump = s.dump := hretire.same .dump (by decide)
  have hjob : (mmuRetire s).job = s.job := hretire.same .job (by decide)
  have hv : Writes [.keyway, .latch, .drip, .dump, .freeCtr] s v := .after (dumpSample_writes _) hretire.mono
  obtain ⟨ctx, key, secs, hlen, hsample⟩ := dumpSample_wanted (s := mmuRetire s) (by rw [hdump]; exact hwanted)
  rw [hdump, hjob, getP_congr (hretire.same .params (by decide))] at hsample
  have hv' : v.dump = _ := hsample
  refine ⟨u, .after (Writes.of_mix (l := [.dump]) rfl) hv.mono, ⟨ctx, key, secs, if q.2 then 1 else 0, hlen, ?_⟩, rfl⟩
  show ({ v.dump with status := if q.2 then 1 else 0 } : Dump) = _
  rw [hv']

theorem exec_crashDump_idle {io : Io} {s : State} (hlost : s.rst.rootLost = false)
    (h : (s.dump.wanted = false ∧ s.dump.active = false) ∨ domState s 13 ≠ .inService) : exec (.crashDump io) s = .next s := by
  rw [exec, execCrashDump, live_next hlost, if_neg]
  rintro ⟨hdump, hmem⟩
  rcases h with ⟨hw, ha⟩ | h
  · rw [hw, ha] at hdump
    simp at hdump
  · exact h hmem

/-! ### The end of the dump -/

theorem dumpHeader_length (s : State) (status n bytes : Nat) : (dumpHeader s status n bytes).length = 128 := length_leBytes ..

/-- The header begins with its type word (R421). -/
theorem dumpHeader_type (s : State) (status n bytes : Nat) : leAt (dumpHeader s status n bytes) 0 2 = 0x4401 := by
  rw [dumpHeader, leAt_leBytes_zero (by decide)]
  omega

theorem dumpEnd_writes (status n bytes : Nat) (s : State) :
    Writes [.dump, .aoWait, .rlog, .rlogSeq, .rlogWait] s (dumpEnd status n bytes s) := by
  unfold dumpEnd
  extract_lets h _ t
  have ht : Writes [.dump] s t := .of_mix rfl
  exact .after (logAdd_writes ..) (.ite (fun _ => .after (Writes.of_mix (l := [.aoWait]) rfl) ht.mono)
    fun _ => .after (Writes.of_mix (l := [.dump]) rfl) ht.mono)

/-- The end of a dump: its header and its log entry, or both held while AO is stopped (R55, R419, R423). -/
theorem dumpEnd_ends (status n bytes : Nat) (s : State) :
    (dumpEnd status n bytes s).dump.active = false ∧ (dumpEnd status n bytes s).dump.status = status ∧
    (dumpEnd status n bytes s).dump.seq = s.dump.seq ∧
    (s.rst.aoStopped = false → (dumpEnd status n bytes s).dump.header.length = 128 ∧
      leAt (dumpEnd status n bytes s).dump.header 0 2 = 0x4401 ∧ (dumpEnd status n bytes s).aoWait = s.aoWait ∧
      ∃ l, (dumpEnd status n bytes s).rlog.getLast? = some l ∧ l.kind = 8) ∧
    (s.rst.aoStopped = true → (dumpEnd status n bytes s).dump.header = s.dump.header ∧ (dumpEnd status n bytes s).rlog = s.rlog ∧
      ∃ h, (dumpEnd status n bytes s).aoWait = s.aoWait ++ [.header h] ∧ h.length = 128 ∧ leAt h 0 2 = 0x4401) := by
  unfold dumpEnd
  extract_lets h _ t
  have hlen : h.length = 128 := dumpHeader_length ..
  have htype : leAt h 0 2 = 0x4401 := dumpHeader_type ..
  clear_value h
  cases hao : s.rst.aoStopped with
  | false =>
    have ht : t.rst.aoStopped = false := hao
    rw [if_neg (by decide)]
    have hlog := logAdd_writes 0x0008 (status + bytes * 2 ^ 32 + s.dump.fault.jobTag * 2 ^ 64) (dumpHeaderPut h t)
    obtain ⟨l, hl, hkind, _⟩ := logAdd_last (s := dumpHeaderPut h t) ht 0x0008
      (status + bytes * 2 ^ 32 + s.dump.fault.jobTag * 2 ^ 64)
    rw [hlog.same .dump (by decide), hlog.same .aoWait (by decide)]
    exact ⟨rfl, rfl, rfl, fun _ => ⟨hlen, htype, rfl, l, hl, hkind⟩, fun hf => (by cases hf)⟩
  | true =>
    have ht : t.rst.aoStopped = true := hao
    rw [if_pos rfl, logAdd, if_pos (by exact ht)]
    exact ⟨rfl, rfl, rfl, fun hf => (by cases hf), fun _ => ⟨rfl, rfl, h, rfl, hlen, htype⟩⟩

/-- The end of a dump from a state that its last writes leave. -/
theorem exec_crashDumpComplete {io : Io} {s : State} (hlost : s.rst.rootLost = false) (hactive : s.dump.active = true) :
    ∃ (u : State) (st n bytes : Nat), exec (.crashDumpComplete io) s = .next (dumpEnd st n bytes u) ∧
      Writes dumpFields s u ∧ u.dump = { s.dump with seq := (s.dump.seq + 1) % 2 ^ 32 } ∧
      (s.dump.status = 2 → st = 2 ∧ u.hostMem = s.hostMem) ∧ (io ≠ .ok → 256 ≤ s.dump.bytes → st = 2) := by
  rw [exec, execCrashDumpComplete, live_next hlost, if_pos hactive]
  extract_lets q _ t n w st h a
  have ht : Writes [.dump] s t := .of_mix rfl
  have hdump : t.dump = { s.dump with seq := (s.dump.seq + 1) % 2 ^ 32 } := rfl
  have hstatus : t.dump.status = s.dump.status := rfl
  have hbytes : t.dump.bytes = s.dump.bytes := rfl
  clear_value t
  split_ifs with h2 h256
  · exact ⟨_, _, _, _, rfl, ht.mono, hdump, fun _ => ⟨rfl, ht.same .hostMem (by decide)⟩, fun _ _ => rfl⟩
  · exact ⟨_, _, _, _, rfl, ht.mono, hdump, fun h => absurd (hstatus.trans h) h2, fun _ h => by omega⟩
  · have hdir := ownWrite_writes t.dump.ctx (t.dump.region + 128) (dumpDir q) a.1 t
    split
    · next v _ hfailed =>
      rw [hfailed] at hdir
      exact ⟨_, _, _, _, rfl, .after hdir ht.mono, (hdir.same .dump (by decide)).trans hdump, fun h => absurd (hstatus.trans h) h2, fun _ _ => rfl⟩
    · next v hok =>
      rw [hok] at hdir
      have hvdump : v.dump = _ := (hdir.same .dump (by decide)).trans hdump
      have hhead := ownWrite_writes v.dump.ctx v.dump.region h a.2 v
      split
      · next x _ hfailed =>
        rw [hfailed] at hhead
        exact ⟨_, _, _, _, rfl, .after hhead (.after hdir ht.mono), (hhead.same .dump (by decide)).trans hvdump,
          fun h => absurd (hstatus.trans h) h2, fun _ _ => rfl⟩
      · next x hok₂ =>
        rw [hok₂] at hhead
        refine ⟨_, _, _, _, rfl, .after hhead (.after hdir ht.mono), (hhead.same .dump (by decide)).trans hvdump,
          fun h => absurd (hstatus.trans h) h2, fun hio _ => ?_⟩
        exact absurd (ownWrite_fails hok₂) (ioSplit_ok hio (ownWrite_fails hok))

/-- Settles O45. -/
theorem crashDumpRowsComplete : Obligations.CrashDumpRowsComplete := by
  unfold Obligations.CrashDumpRowsComplete
  intro io s hlost
  refine ⟨fun hwanted hmem => ?_, exec_crashDump_idle hlost, fun hactive => ?_, fun hidle => ?_⟩
  · obtain ⟨u, hu, ⟨ctx, key, secs, st, hlen, hdump⟩, hexec⟩ := exec_crashDump (io := io) hlost hwanted hmem
    refine ⟨_, hexec, ?_⟩
    beta_reduce
    have hwrites := dumpWrite_writes io (dumpFit u.dump.bytes 256 u.dump.sections).1 u
    have hfails (hio : io ≠ .ok) (hl : (dumpFit u.dump.bytes 256 u.dump.sections).1 ≠ []) := dumpWrite_fails hio hl u
    obtain ⟨written, status, hend⟩ := dumpWrite_dump io (dumpFit u.dump.bytes 256 u.dump.sections).1 u
    generalize dumpWrite io (dumpFit u.dump.bytes 256 u.dump.sections).1 u = t at *
    have hbytes : t.dump.bytes = u.dump.bytes := by rw [hend]
    have hsecs : t.dump.sections = u.dump.sections := by rw [hend]
    refine ⟨?_, ?_, ?_, ?_, ?_, ?_, fun hio hl => hfails hio (by rw [← hbytes, ← hsecs]; exact hl), ?_⟩
    · rw [hend, hdump]
    · rw [hend, hdump]
    · rw [hend, hdump]
    · rw [hend, hdump]
    · rw [hend, hdump]
    · rw [hend, hdump]
      exact hlen
    · exact (Writes.after (l := [.hostMem, .keyway, .dump, .freeCtr, .latch, .drip, .counters, .mport]) hwrites hu.mono).eq_mix
  · obtain ⟨u, st, n, bytes, hexec, hu, hdump, hbad, hio⟩ := exec_crashDumpComplete (io := io) hlost hactive
    refine ⟨_, hexec, ?_⟩
    beta_reduce
    obtain ⟨hoff, hst, hseq, hruns, hstopped⟩ := dumpEnd_ends st n bytes u
    have hend := dumpEnd_writes st n bytes u
    rw [show u.rst = s.rst from hu.same .rst (by decide), show u.aoWait = s.aoWait from hu.same .aoWait (by decide)] at hruns hstopped
    rw [show u.rlog = s.rlog from hu.same .rlog (by decide)] at hstopped
    have hheader : u.dump.header = s.dump.header := by rw [hdump]
    rw [hheader] at hstopped
    refine ⟨hoff, by rw [hseq, hdump], hruns, hstopped, fun h => ⟨hst.trans (hbad h).1, ?_⟩, fun h hb => hst.trans (hio h hb), ?_⟩
    · rw [hend.same .hostMem (by decide), (hbad h).2]
    · exact (Writes.after (l := [.hostMem, .keyway, .dump, .freeCtr, .rlog, .rlogSeq, .rlogWait, .aoWait, .counters, .mport])
        hend hu.mono).eq_mix
  · rw [exec, execCrashDumpComplete, live_next hlost, if_neg (by rw [hidle]; decide)]

end Sys2Proof.Machine
end

section
/-! PROOFS. A notice that the resending of an older chunk replaces (R255, R260, R387). -/

namespace Sys2Proof.Machine

-- One declaration at a time: see the frames of the state's operations.
set_option Elab.async false

/-- A calibration request of seat 1 for the start in progress. -/
def seatRequest : Notice :=
  { kind := 0x53, listCrc := 0, release := 0, sender := 1, subtree := 0, t1 := 0, t2 := 0, t3 := 0 }

/-- A group of the block alone, at a switch of level 1. -/
def leafAlone : Group :=
  { num := 1, nLevels := 1, extents := [1], sw := [1], chunk := 0, bufs := 2, planeMask := 0xFF, members := [0], defCrc := 0,
    hostSeq := 0 }

/-- A chunk to seat 1 of region 1 on VC5 that stands on link 0's egress queue, under the next sequence number of its space. -/
def staleChunk : TxChunk :=
  { hdr := { KftHdr.blank with region := 1, dstSeat := 1, vc := 5, seq := 1 }, payload := [], tries := 0, link := 0, lastKt := 0,
    timeout := 0, crcNacks := 0, again := false, queued := true, placed := true, seen := [] }

/-- A member that is Starting, the reference of its leaf group, with that chunk unacknowledged and no link Up. -/
def startingWithStale : State :=
  { State.reset with
    params := [(0x0522, 1)]
    job := { State.reset.job with st := .starting }
    coll := { State.reset.coll with groups := [leafAlone] }
    kft := { State.reset.kft with unacked := [staleChunk] } }

/-- The regions of the unacknowledged chunks in the state a command leaves. -/
def unackedRegions : Host.Outcome State Fault Refusal → Option (List Nat)
  | .next t => some (t.kft.unacked.map (·.hdr.region))
  | _ => none

theorem startingWithStale_leaf : leafGroup startingWithStale = some (leafAlone, 0) := rfl

/-- Sending the older chunk puts it in the place of the reply. -/
theorem unackedRegions_request :
    unackedRegions (exec (.calibrationRequest 0 0 seatRequest 0 0) startingWithStale) = some [1, 1] := by
  decide +kernel

/-- Refutes O52: the state is any state, and `startingWithStale` holds an unacknowledged chunk under the sequence number that the
calibration reply takes. The reply finds no link, the older chunk goes out, and what is kept of both is the older chunk: no chunk
of region 4 is left. -/
theorem not_barrierRowsComplete : ¬ Obligations.BarrierRowsComplete := by
  unfold Obligations.BarrierRowsComplete
  intro h
  obtain ⟨_, _, _, _, _, _, _, hcal, _⟩ := h seatRequest 0 0 0 0 startingWithStale rfl
  obtain ⟨hrequest, _⟩ := hcal rfl ⟨rfl, rfl⟩
  obtain ⟨_, t, hexec, _, _, hkept⟩ := hrequest leafAlone 0 startingWithStale_leaf rfl
  obtain ⟨y, hy, _, hregion, _⟩ := hkept rfl (by decide)
  have hregions := unackedRegions_request
  rw [hexec, unackedRegions, Option.some.injEq] at hregions
  have hmem : y.hdr.region ∈ t.kft.unacked.map (·.hdr.region) := List.mem_map_of_mem hy
  rw [hregions, hregion] at hmem
  exact absurd hmem (by decide)

end Sys2Proof.Machine
end

section
/-! PROOFS. A remote load whose response the resending of an older chunk replaces (R258, R260, R271). -/

namespace Sys2Proof.Machine

-- One declaration at a time: see the frames of the state's operations.
set_option Elab.async false

/-- An older chunk to seat 1 on VC4, of region 2, that stands on link 0's egress queue under the next sequence number of its
space. -/
def staleRequest : TxChunk := { staleChunk with hdr := { staleChunk.hdr with region := 2, vc := 4 } }

/-- A running member with seat 1 beside it, that chunk unacknowledged, and no link Up. -/
def runningWithStale : State :=
  { State.reset with
    job := { State.reset.job with st := .running, members := [0, 1] }
    kft := { State.reset.kft with unacked := [staleRequest] } }

theorem runningWithStale_takes : homeTakes runningWithStale 1 1 = true := rfl

/-- Sending the older chunk puts it in the place of the response. -/
theorem unackedRegions_load :
    unackedRegions (exec (.remoteLoad 1 1 0 0 0) runningWithStale) = some [2, 2] := by
  decide +kernel

/-- Refutes O56: the state is any state, and `runningWithStale` holds an unacknowledged chunk under the sequence number that the
response to the load takes. The response finds no link, the older chunk goes out, and what is kept of both is the older chunk:
no chunk of region 5 is left. -/
theorem not_wardAndRemoteRowsComplete : ¬ Obligations.WardAndRemoteRowsComplete := by
  unfold Obligations.WardAndRemoteRowsComplete
  intro h
  obtain ⟨_, hhome, _⟩ := h 1 1 0 0 0 0 0 0 [] runningWithStale rfl
  have hcells : ∀ c ∈ runningWithStale.carafe.cells, c.use ≠ .arrival 1 4 1 := fun c hc => nomatch hc
  obtain ⟨hload, _⟩ := hhome runningWithStale_takes ⟨rfl, rfl, hcells⟩
  obtain ⟨hanswered, _⟩ := hload (Nat.zero_le _)
  obtain ⟨t, hexec, _, _, hkept⟩ := hanswered rfl
  obtain ⟨y, hy, _, _, hregion, _⟩ := hkept rfl
  have hregions := unackedRegions_load
  rw [hexec, unackedRegions, Option.some.injEq] at hregions
  have hmem : y.hdr.region ∈ t.kft.unacked.map (·.hdr.region) := List.mem_map_of_mem hy
  rw [hregions, hregion] at hmem
  exact absurd hmem (by decide)

end Sys2Proof.Machine
end

section
/-! PROOFS. A credit message that the resending of an older chunk replaces (R255, R260, R299). -/

namespace Sys2Proof.Machine

-- One declaration at a time: see the frames of the state's operations.
set_option Elab.async false

/-- A ring of the block and seat 1. -/
def pairRing : Group := { leafAlone with extents := [2], members := [0, 1] }

/-- An edge of that ring. -/
def pairEdge : Edge := { group := 1, loopQ := false, level := 0, distribute := false }

/-- A chunk's header with every field 0: the clauses about chunks are not used. -/
def blankCollHdr : CollHdr :=
  { lengthRound := false, group := 0, loopQ := false, level := 0, distribute := false, buffer := 0, wide := false, crcEn := false,
    dynamic := false, opSeq := 0, chunk := 0, length := 0, srcSeat := 0, nElem := 0, defCrc := 0, dataCrc := 0, upWait := 0,
    fmt := 0 }

/-- A running member that has freed one buffer of the edge, with the chunk of region 1 unacknowledged and no link Up. -/
def freedWithStale : State :=
  { State.reset with
    job := { State.reset.job with st := .running }
    coll := { State.reset.coll with groups := [pairRing], freed := [{ edge := pairEdge, count := 1 }] }
    kft := { State.reset.kft with unacked := [staleChunk] } }

/-- Sending the older chunk puts it in the place of the credit message. -/
theorem unackedRegions_credit :
    unackedRegions (exec (.creditCoalesceExpiry pairEdge) freedWithStale) = some [1, 1] := by
  decide +kernel

/-- Refutes O51: the state is any state, and `freedWithStale` holds an unacknowledged chunk under the sequence number that the
credit message takes. The message finds no link, the older chunk goes out, and what is kept of both is the older chunk: no chunk
of region 4 is left. -/
theorem not_collectiveRowsComplete : ¬ Obligations.CollectiveRowsComplete := by
  unfold Obligations.CollectiveRowsComplete
  intro h
  obtain ⟨_, hlives, _⟩ := h blankCollHdr [] false pairEdge 0 0 false freedWithStale rfl
  obtain ⟨_, _, _, hcredit, _⟩ := hlives rfl
  obtain ⟨t, hexec, _, _, _, hkept⟩ := hcredit pairRing 0 rfl rfl (by decide)
  obtain ⟨y, hy, _, hregion, _⟩ := hkept rfl (by decide)
  have hregions := unackedRegions_credit
  rw [hexec, unackedRegions, Option.some.injEq] at hregions
  have hmem : y.hdr.region ∈ t.kft.unacked.map (·.hdr.region) := List.mem_map_of_mem hy
  rw [hregions, hregion] at hmem
  exact absurd hmem (by decide)

end Sys2Proof.Machine
end

section
/-! PROOFS. An answer that the resending of an older chunk replaces (R233, R258, R260). -/

namespace Sys2Proof.Machine

-- One declaration at a time: see the frames of the state's operations.
set_option Elab.async false

/-- Host memory with the tile header of a copy of seat 1 at 0. -/
def copyMemory : Mem := [(0, 0x21), (12, 1)]

/-- That header. -/
def copyTile : TileHdr := tileHdrOf (memRead copyMemory 0 64)

/-- The duty of step 0, in whose receive slot 0 that copy has landed. -/
def landedDuty : Duty :=
  { Duty.blank 0 with landed := [{ hdr := copyTile, slotIndex := 0, listed := true, answered := false }] }

/-- An answer-ready packet of Funnel 0 with one entry, for receive slot 0. -/
def readyPacket : FunnelPkt :=
  { funnel := 0, slot := 0, generation := 0, step := 0, firstToken := 0, nRows := 1, cls := 0, body := [] }

/-- A running member with that duty; an older chunk to seat 1 on VC2, of region 2, stands on link 0's egress queue under the next
sequence number of its space, and no link is Up. -/
def answeringWithStale : State :=
  { State.reset with
    job := { State.reset.job with st := .running }
    hostMem := copyMemory
    keyway := { State.reset.keyway with
      root0 := some 0
      tlb := [{ ctx := 0, va := 0, bytes := 65536, pa := 0, read := true, write := true }] }
    duties := [landedDuty]
    kft := { State.reset.kft with
      unacked := [{ staleChunk with hdr := { staleChunk.hdr with region := 2, vc := 2 } }] } }

/-- Sending the older chunk puts it in the place of the answer. -/
theorem unackedRegions_answer :
    unackedRegions (exec (.answerReadyReceive readyPacket .ok) answeringWithStale) = some [2, 2] := by
  decide +kernel

theorem answeringWithStale_reads :
    ∃ u v l, hostRead (funnelSeen 3 readyPacket answeringWithStale) 0 (rxVa answeringWithStale 0) 64 =
        (u, .ok (memRead copyMemory 0 64)) ∧
      xlateRange u 0 (rxVa answeringWithStale 0) (pitchOf answeringWithStale.job.desc) false = (v, .ok l) :=
  ⟨_, _, _, rfl, rfl⟩

theorem answeringWithStale_sends : entryWay answeringWithStale 0 copyTile = .send := rfl

/-- Refutes O48: the state is any state, and `answeringWithStale` holds an unacknowledged chunk under the sequence number that the
answer takes. The answer finds no link, the older chunk goes out, and what is kept of both is the older chunk: no chunk of region
1 is left. -/
theorem not_funnelRowsComplete : ¬ Obligations.FunnelRowsComplete := by
  unfold Obligations.FunnelRowsComplete
  intro h
  obtain ⟨_, hopen, _⟩ := h readyPacket KftHdr.blank 0 0 0 answeringWithStale rfl
  obtain ⟨_, _, _, _, _, hreceive, _⟩ := hopen rfl
  obtain ⟨u, v, l, hread, hxlate⟩ := answeringWithStale_reads
  obtain ⟨_, _, hsend⟩ := hreceive rfl rfl (memRead copyMemory 0 64) u v l hread hxlate
  obtain ⟨_, t, hexec, _, _, _, hkept⟩ := hsend answeringWithStale_sends
  obtain ⟨y, hy, _, _, hregion, _⟩ := hkept rfl (by decide)
  have hregions := unackedRegions_answer
  rw [hexec, unackedRegions, Option.some.injEq] at hregions
  have hmem : y.hdr.region ∈ t.kft.unacked.map (·.hdr.region) := List.mem_map_of_mem hy
  rw [hregions, hregion] at hmem
  exact absurd hmem (by decide)

end Sys2Proof.Machine
end

section
/-! PROOFS. A cancel acknowledgement that the resending of an older chunk replaces (R243, R255, R260). -/

namespace Sys2Proof.Machine

-- One declaration at a time: see the frames of the state's operations.
set_option Elab.async false

/-- The notice by which seat 1 cancelled step 0. -/
def seatCancel : CancelMsg := { srcSlot := 0, generation := 0, step := 0, sender := 1, retSeq := 0, cls := 0 }

/-- That notice, in time and not acknowledged. -/
def openCancel : CancelSrc := { msg := seatCancel, early := false, acked := false }

/-- The duty of step 0, reached, with nothing landed. -/
def cancelledDuty : Duty := { Duty.blank 0 with reached := true, cancels := [openCancel] }

/-- A running member with that duty, the chunk of region 1 unacknowledged, and no link Up. -/
def cancelledWithStale : State :=
  { State.reset with
    job := { State.reset.job with st := .running }
    duties := [cancelledDuty]
    kft := { State.reset.kft with unacked := [staleChunk] } }

/-- The invariant speaks of none of what differs from the reset state. -/
theorem cancelledWithStale_inv : Inv cancelledWithStale :=
  let h : Inv State.reset := invHoldsAtReset
  ⟨h.sp, h.spIn, h.host, h.slots, h.links, h.lanes, h.doms, h.chans, h.pools, h.keyring, h.fatal, h.other, h.rlog, h.closed,
    h.tlb, h.upper, h.completions, h.drip, h.recs, h.free⟩

/-- Sending the older chunk puts it in the place of the acknowledgement. -/
theorem unackedRegions_cancelAck :
    unackedRegions (exec (.cancelAckSend 1 0) cancelledWithStale) = some [1, 1] := by
  decide +kernel

/-- A count message with every field 0: the clauses about count messages are not used. -/
def blankCount : CountMsg := { cancelled := false, step := 0, layer := 0, epoch := 0, srcSeat := 0, counts := [] }

/-- Refutes O49: `cancelledWithStale` meets the invariant and holds an unacknowledged chunk under the sequence number that the
acknowledgement takes. The acknowledgement finds no link, the older chunk goes out, and what is kept of both is the older chunk:
no chunk of region 4 is left. -/
theorem not_exchangeRowsComplete : ¬ Obligations.ExchangeRowsComplete := by
  unfold Obligations.ExchangeRowsComplete
  intro h
  obtain ⟨_, _, hack, _⟩ := h 0 blankCount seatCancel copyTile [] 1 0 0 cancelledWithStale cancelledWithStale_inv rfl
  obtain ⟨hsend, _⟩ := hack cancelledDuty openCancel rfl rfl
  obtain ⟨t, hexec, _, _, _, _, hkept⟩ := hsend rfl rfl rfl (.inl rfl)
  obtain ⟨y, hy, _, _, hregion⟩ := hkept rfl (by decide)
  have hregions := unackedRegions_cancelAck
  rw [hexec, unackedRegions, Option.some.injEq] at hregions
  have hmem : y.hdr.region ∈ t.kft.unacked.map (·.hdr.region) := List.mem_map_of_mem hy
  rw [hregions, hregion] at hmem
  exact absurd hmem (by decide)

end Sys2Proof.Machine
end

section
/-! PROOFS. Step deadlines, poisoned words and the patrol scrubber (R121, R223, R313, R330, R409). -/

namespace Sys2Proof.Machine

-- One declaration at a time: see the frames of the state's operations.
set_option Elab.async false

/-! ### The first fault of a job -/

/-- The job has faulted, the crash dump is wanted, and what it names is the unit and the detail; the memories stay. -/
def FaultNamed (unit detail : Nat) (s t : State) : Prop :=
  t.job.st = .faulted ∧ t.dump.wanted = true ∧ t.dump.fault.unit = unit ∧ t.dump.fault.detail = detail ∧ t.hostMem = s.hostMem ∧
    t.sp = s.sp

theorem jobFault_names {s : State} (hopen : s.job.st ≠ .closed) (hfirst : s.job.st ≠ .faulted) (unit status detail : Nat)
    (w : Where) : FaultNamed unit (status + detail * 2 ^ 16) s (jobFault unit status detail w s) := by
  have hwrites := jobFault_writes unit status detail w s
  refine ⟨jobFault_first_faults hopen hfirst .., ?_, ?_, ?_, hwrites.same .hostMem (by decide), hwrites.same .sp (by decide)⟩
  all_goals
    rw [jobFault_first hopen hfirst]
    obtain ⟨-, -, -, hwanted, hfault⟩ := enterFaulted_job (faultEvent s 1 unit (status + detail * 2 ^ 16) w)
      (logAdd 0x0001 (faultEvent s 1 unit (status + detail * 2 ^ 16) w).word
        (evSend (faultEvent s 1 unit (status + detail * 2 ^ 16) w) s))
  · exact hwanted
  · rw [hfault]
    rfl
  · rw [hfault]
    rfl

theorem jobGoes_iff (s : State) : jobGoes s = true ↔ s.job.st ≠ .closed ∧ s.job.st ≠ .faulted := by
  simp [jobGoes, jobExists]

theorem applied_lives {s : State} (h : applied s = true) : s.job.st ≠ .closed ∧ s.job.st ≠ .faulted := by
  constructor <;> intro hst <;> simp [applied, hst] at h

theorem closeTry_of_ne_draining {s : State} (h : s.job.st ≠ .draining) : closeTry s = s := by
  rw [closeTry, if_neg fun hc => h hc.1]

/-! ### Poison -/

theorem spoutMark_writes (unit : Nat) (s : State) : Writes [.spout] s (spoutMark unit s) := by
  unfold spoutMark
  dsimp only
  split
  · exact .refl _ s
  · exact .of_mix rfl

theorem spoutMark_head {s : State} {unit : Nat} {k : SpoutPkt} {r : List SpoutPkt} (hspout : s.spout = k :: r)
    (hunit : k.spout + 0x1C = unit) : (spoutMark unit s).spout = { k with poison := true } :: r := by
  simp [spoutMark, hspout, hunit]

theorem tensorPump_idle {s : State} (h : ∀ x ∈ s.tensors, x.queued = none) (cls n : Nat) : tensorPump cls n s = s := by
  cases n with
  | zero => rfl
  | succ n =>
    have hnext : tensorNext s cls = none := by
      unfold tensorNext
      split
      · next r hr => rw [h r (List.mem_of_find?_eq_some hr)]; rfl
      · rfl
    rw [tensorPump, hnext]

/-- A tensor command that meets a poisoned write ends with what it has written; with no other waiting none starts (R212). -/
theorem tensorPoison_ends {s : State} {cls : Nat} {r : TensorRun}
    (hr : (s.tensors.find? fun x => decide (x.cls = cls) && x.queued.isNone) = some r) (hnone : ∀ x ∈ s.tensors, x.queued = none) :
    tensorPoison cls s = mmuRetire (finish r.cmd 0x0406 r.done 0 0 0
      { s with tensors := s.tensors.filter fun y => !sameCmd y.cmd r.cmd }) := by
  unfold tensorPoison
  rw [hr]
  dsimp only
  refine tensorPump_idle (fun x hx => ?_) ..
  rw [(mmuRetire_writes _).same .tensors (by decide), (finish_writes ..).same .tensors (by decide)] at hx
  exact hnone x (List.mem_filter.1 hx).1

/-! ### O44 -/

theorem exec_stepDeadlineExpiry {s : State} (hlost : s.rst.rootLost = false) {i : Nat} {c : StepCtx} (hctx : (slotAt s i).ctx = some c) :
    exec (.stepDeadlineExpiry i) s = .next (if (slotAt s i).st ∈ flightStates ∧ jobGoes s then
      jobFault (stepWaits s i c).1 0x0405 (watchDetail 1 c.cls (stepWaits s i c).2) (whereSlot s i) s else s) := by
  rw [exec, execStepDeadlineExpiry, live_next hlost, hctx]

/-- A poisoned write of a tensor command set aside, outside a drain (R212). -/
theorem queuePoison_tensor {s : State} (hlost : s.rst.rootLost = false) (unit k : Nat) (hdrain : s.job.st ≠ .draining)
    (hjob : (tensorPoison k s).job = s.job) :
    exec (.queuePoisonConsume (.mportWrite unit (some k))) s = .next (tensorPoison k s) := by
  rw [exec, execQueuePoisonConsume, live_next hlost]
  dsimp only
  rw [closeTry_of_ne_draining (by rwa [hjob])]

/-- What an uncorrectable word of the scratchpad poisons: the word, and the Keyring entry that lies in it (R121, R313). -/
def scrubbed (off : Nat) (s : State) : State :=
  { s with
    spPoison := if s.spPoison.contains (off / 8) then s.spPoison else s.spPoison ++ [off / 8]
    keyringBad := match krAt s off with
      | some (i, y) => s.keyringBad ++ [(i, y.layer, y.epoch)]
      | none => s.keyringBad }

theorem exec_patrolScrub_uncorrectable {s : State} (hlost : s.rst.rootLost = false) {off : Nat} (hoff : off < spSize) :
    exec (.patrolScrub off .uncorrectable) s = .next (logAdd 0x0003 (off / 8 * 8) (ctrInc 14 (scrubbed off s))) := by
  rw [exec, execPatrolScrub, live_next hlost, if_pos hoff]
  dsimp only
  have hat (l : List Nat) : krAt { s with spPoison := l } off = krAt s off := rfl
  rw [hat]
  unfold scrubbed
  cases hkr : krAt s off with
  | none => rfl
  | some p => rfl

theorem mem_scrubbed_spPoison (off : Nat) (s : State) (w : Nat) :
    w ∈ (scrubbed off s).spPoison ↔ w ∈ s.spPoison ∨ w = off / 8 := by
  unfold scrubbed
  dsimp only
  split_ifs with hin
  · refine ⟨.inl, fun h => h.elim id fun he => ?_⟩
    rw [he]
    exact List.contains_iff_mem.1 hin
  · simp

theorem scrubbed_keyringBad {off k : Nat} {y : KrArray} {s : State} (h : krAt s off = some (k, y)) :
    (k, y.layer, y.epoch) ∈ (scrubbed off s).keyringBad := by
  simp [scrubbed, h]

/-- Settles O44, command by command: each fault is the first of the job, and the scrubber's finds are written one field at a time. -/
theorem deadlinePoisonAndScrubComplete : Obligations.DeadlinePoisonAndScrubComplete := by
  unfold Obligations.DeadlinePoisonAndScrubComplete
  intro i n unit off c s hlost faults lives
  refine ⟨fun hctx => ⟨fun hflight ⟨hopen, hfirst⟩ => ?_, fun hout => ?_⟩, fun d m r hduty hmiss hreached hended hown happ => ?_,
    fun hout => ?_, fun ⟨hopen, hfirst⟩ => ⟨?_, ?_, ?_⟩, fun k hnone hdrain => ?_, fun k r hr hqueued hlive hdrain => ?_, ?_,
    fun d v q k hk => ?_, fun d v q hnone => ?_, ?_, fun hoff => ?_, fun hoff => ?_⟩
  · have hexec := exec_stepDeadlineExpiry hlost hctx
    rw [if_pos ⟨hflight, (jobGoes_iff s).2 ⟨hopen, hfirst⟩⟩] at hexec
    exact ⟨_, hexec, jobFault_names hopen hfirst ..⟩
  · rw [exec_stepDeadlineExpiry hlost hctx, if_neg]
    rintro ⟨hflight, hgoes⟩
    exact hout.elim (· hflight) (by simp [hgoes])
  · obtain ⟨hopen, hfirst⟩ := applied_lives happ
    refine ⟨_, ?_, jobFault_names hopen hfirst 0x60 0x0405 m (whereStep s n)⟩
    rw [exec, execCountExchangeTimeout, live_next hlost, hduty]
    dsimp only
    rw [hmiss]
    dsimp only
    rw [if_pos ⟨happ, hreached, hended, hown⟩]
  · rw [exec, execCountExchangeTimeout, live_next hlost]
    rcases hout with hnone | happ
    · rw [hnone]
    · split
      · rfl
      · split
        · rw [if_neg (by simp [happ])]
        · rfl
  · have hmark := spoutMark_writes unit s
    have hjob : (spoutMark unit s).job = s.job := hmark.same .job (by decide)
    refine ⟨_, by rw [exec, execQueuePoisonConsume, live_next hlost], ?_⟩
    obtain ⟨hst, hwanted, hunit, hdetail, hmem, hsp⟩ :=
      jobFault_names (s := spoutMark unit s) (by rwa [hjob]) (by rwa [hjob]) unit 0x0406 0 Where.none
    exact ⟨hst, hwanted, hunit, hdetail, hmem.trans (hmark.same .hostMem (by decide)), hsp.trans (hmark.same .sp (by decide))⟩
  · exact ⟨_, by rw [exec, execQueuePoisonConsume, live_next hlost], jobFault_names hopen hfirst unit 0x0406 0 Where.none⟩
  · refine ⟨_, by rw [exec, execQueuePoisonConsume, live_next hlost], ?_⟩
    have hspout : (jobFault unit 0x0406 0 Where.none (spoutMark unit s)).spout = (spoutMark unit s).spout :=
      (jobFault_writes ..).same .spout (by decide)
    exact ⟨hspout, fun k r hk hunit => hspout.trans (spoutMark_head hk hunit)⟩
  · have hsame : tensorPoison k s = s := by rw [tensorPoison, hnone]
    rw [queuePoison_tensor hlost unit k hdrain (by rw [hsame]), hsame]
  · have hends := tensorPoison_ends hr hqueued
    have hwrites : Writes [.tensors, .keyway, .latch, .drip] s (tensorPoison k s) := by
      rw [hends]
      exact .after (mmuRetire_writes _) (.after (finish_writes ..) (.of_mix rfl))
    refine ⟨_, queuePoison_tensor hlost unit k hdrain (hwrites.same .job (by decide)), ?_, ?_, hwrites.same .hostMem (by decide),
      hwrites.same .job (by decide)⟩
    · rw [hends]
      obtain ⟨a, hlast, htag, horder, hstatus, hr0, hfinal⟩ := finish_last (c := r.cmd)
        (s := { s with tensors := s.tensors.filter fun y => !sameCmd y.cmd r.cmd }) hlive 0x0406 r.done
      exact ⟨a, mmuRetire_repliesKept _ _ (List.mem_of_getLast? hlast), htag, horder, hstatus, hfinal, hr0⟩
    · rw [hends, (mmuRetire_writes _).same .tensors (by decide), (finish_writes ..).same .tensors (by decide)]
  · rw [exec, execQueuePoisonConsume, live_next hlost]
  · rw [chunkAt] at hk
    rw [exec, execQueuePoisonConsume, live_next hlost]
    dsimp only
    rw [hk]
  · rw [chunkAt] at hnone
    rw [exec, execQueuePoisonConsume, live_next hlost]
    dsimp only
    rw [hnone]
  · rw [exec, execPatrolScrub, live_next hlost, ite_self]
  · rw [exec, execPatrolScrub, live_next hlost, if_pos hoff]
  · refine ⟨_, exec_patrolScrub_uncorrectable hlost hoff, ?_⟩
    have hlog := logAdd_writes 0x0003 (off / 8 * 8) (ctrInc 14 (scrubbed off s))
    have hctr := ctrInc_writes 14 (scrubbed off s)
    have hbad : Writes [.spPoison, .keyringBad] s (scrubbed off s) := .of_mix rfl
    have hall : Writes [.spPoison, .keyringBad, .counters, .rlog, .rlogSeq, .rlogWait] s
        (logAdd 0x0003 (off / 8 * 8) (ctrInc 14 (scrubbed off s))) := .after hlog (.after hctr hbad.mono)
    refine ⟨fun w => ?_, ?_, fun k y hkr => ?_, fun hao => ?_, hall.eq_mix⟩
    · rw [hlog.same .spPoison (by decide), hctr.same .spPoison (by decide)]
      exact mem_scrubbed_spPoison off s w
    · rw [hlog.ctr_eq, ctr_ctrInc_self]
      rfl
    · rw [hlog.same .keyringBad (by decide), hctr.same .keyringBad (by decide)]
      exact scrubbed_keyringBad hkr
    · exact logAdd_last ((congrArg Rst.aoStopped ((hctr.same .rst (by decide)).trans rfl)).trans hao) ..

end Sys2Proof.Machine
end

section
/-! PROOFS. The memory port's answers (R43 to R48). -/

namespace Sys2Proof.Machine

-- One declaration at a time: see the frames of the state's operations.
set_option Elab.async false

/-! ### A request that ends -/

theorem mportPump_writes (s : State) : Writes [.mport] s (mportPump s) :=
  .trans (.of_mix rfl) (.foldl (fun _ _ => mportIssue_writes ..) _ _)

theorem mportDone_writes (m : MReq) (s : State) : Writes [.mport, .keyway, .latch, .drip] s (mportDone m s) :=
  .after (mportPump_writes _) (.after (mmuRetire_writes _) (.of_mix rfl))

theorem mportIssue_quar (m : MReq) (s : State) : (mportIssue m s).mport.quar = s.mport.quar := by
  unfold mportIssue
  split <;> rfl

theorem mportPump_quar (s : State) : (mportPump s).mport.quar = s.mport.quar :=
  List.foldlRecOn (motive := fun t : State => t.mport.quar = s.mport.quar) _ _ rfl
    fun t ht m _ => (mportIssue_quar m t).trans ht

theorem mportDone_quar (m : MReq) (s : State) : (mportDone m s).mport.quar = s.mport.quar := by
  rw [mportDone, mportPump_quar, (mmuRetire_writes _).same .mport (by decide)]

theorem mmuRetire_idle {s : State} (h : s.keyway.retire = []) : mmuRetire s = s := by
  have hkeyway : { s.keyway with retire := [] } = s.keyway := by rw [← h]
  simp only [mmuRetire, h, List.map_nil, List.filter_nil, List.foldl_nil, hkeyway]

theorem mportPump_idle {s : State} (h : s.mport.wait = []) : mportPump s = s := by
  have hmport : { s.mport with wait := [] } = s.mport := by rw [← h]
  have hnone : byClass MReq.cls ([] : List MReq) = [] := rfl
  simp only [mportPump, h, hnone, List.foldl_nil, hmport]

/-- With no request that waits and no MMU command to end, a request's end only takes it off the list. -/
theorem mportDone_eq {s : State} (hwait : s.mport.wait = []) (hretire : s.keyway.retire = []) (m : MReq) :
    mportDone m s = { s with mport := { s.mport with out := s.mport.out.erase m } } := by
  rw [mportDone, mmuRetire_idle, mportPump_idle]
  · exact hwait
  · exact hretire

/-! ### What an answer means to a job that has faulted -/

/-- A later fault that no lower unit code names is only counted and logged (R407). -/
theorem jobFault_later {s : State} {unit : Nat} (hst : s.job.st = .faulted) (hunit : s.dump.fault.unit ≤ unit) (status detail : Nat)
    (w : Where) : ∃ e, jobFault unit status detail w s = secondary e s := by
  have hname : renames (faultEvent s 1 unit (status + detail * 2 ^ 16) w) s = false := by
    have hle : ¬ unit < s.dump.fault.unit := by omega
    simp [renames, faultEvent, evMake, hle]
  exact ⟨_, by rw [jobFault, hst]; simp only [hname, Bool.false_eq_true, if_false]; rfl⟩

/-- What counting a later fault, and reading a row, write. -/
def laterFields : List Fld := [.slots, .keyway, .counters, .rlog, .rlogSeq, .rlogWait]

theorem rowReady_later {s : State} (hst : s.job.st = .faulted) (hunit : s.dump.fault.unit ≤ 0x40) (i step t : Nat) :
    Writes laterFields s (rowReady i step t s) ∧ ∀ k, k ≠ 19 → ctr (rowReady i step t s) k = ctr s k := by
  unfold rowReady
  split
  · exact ⟨.refl _ s, fun _ _ => rfl⟩
  · next c hctx =>
    split_ifs
    · extract_lets r
      have hrow : Writes [.keyway] s r.1.s := inRow_writes c s.job.desc.d t (TRun.start s)
      split
      · have hjob : r.1.s.job = s.job := hrow.same .job (by decide)
        have hdump : r.1.s.dump = s.dump := hrow.same .dump (by decide)
        obtain ⟨e, he⟩ := jobFault_later (s := r.1.s) (unit := 0x40) (by rwa [hjob]) (by rwa [hdump]) 0x0402 _ (whereSlot r.1.s i)
        rw [xlateFault, he]
        obtain ⟨hwrites, -⟩ := secondary_counts e r.1.s
        refine ⟨.after hwrites hrow.mono, fun k hk => ?_⟩
        rw [secondary, (logAdd_writes ..).ctr_eq, ctr_ctrInc_ne hk, hrow.ctr_eq]
      · exact ⟨.after (rowPut_writes ..) hrow.mono, fun k _ => by rw [(rowPut_writes ..).ctr_eq, hrow.ctr_eq]⟩
    · exact ⟨.refl _ s, fun _ _ => rfl⟩

theorem reqAnswered_later {s : State} (hst : s.job.st = .faulted) (hunit : s.dump.fault.unit ≤ 0x40) (m : MReq) :
    Writes laterFields s (reqAnswered m s) ∧ ∀ k, k ≠ 19 → ctr (reqAnswered m s) k = ctr s k := by
  unfold reqAnswered
  split
  · split_ifs
    · exact ⟨.refl _ s, fun _ _ => rfl⟩
    · exact rowReady_later hst hunit ..
  · exact ⟨.refl _ s, fun _ _ => rfl⟩

/-! ### Errors (R47, R48) -/

theorem reqScrub_writes (m : MReq) (s : State) : Writes [.hostMem, .freeCtr] s (reqScrub m s) :=
  .ite (fun _ => freePieces_writes ..) (fun _ => .refl _ s)

/-- Only a write's own bytes are open after it failed. -/
theorem memGet_reqScrub_out {m : MReq} {x : Nat} (h : m.write = true → x < m.pa ∨ m.pa + m.len ≤ x) (s : State) :
    memGet (reqScrub m s).hostMem x = memGet s.hostMem x := by
  unfold reqScrub
  split_ifs with hw
  · refine memGet_freePieces_out ?_ s
    rw [not_covers_iff]
    simpa using h hw
  · rfl

/-- The counter of a failed request (R491). -/
def errCtr (r : ReqErr) : Nat := 640 + 8 * r.channel + (if r.timeout then 5 else if r.err = 3 ∧ r.write = false then 6 else 4)

theorem ctr_errCount (r : ReqErr) (s : State) : ctr (errCount r s) (errCtr r) = (ctr s (errCtr r) + 1) % 2 ^ 64 := by
  unfold errCount errCtr
  by_cases h : r.timeout = true
  · simp only [h, if_true]
    rw [ctr_ctrInc_self]
    rfl
  · simp only [h, Bool.false_eq_true, if_false]
    exact ctr_ctrInc_self ..

theorem errCtr_bounds {r : ReqErr} (h : r.channel < 32) : errCtr r ≠ 19 ∧ errCtr r ≠ 44 ∧ errCtr r < 896 := by
  unfold errCtr
  split_ifs <;> omega

/-- A failed request's fault: the job has faulted, naming the memory port and the request, and its channel has counted it. -/
def ReqFailed (r : ReqErr) (s t : State) : Prop :=
  t.job.st = .faulted ∧ t.dump.fault.unit = 0x30 ∧ t.dump.fault.detail = ioStatus r + ioDetail r * 2 ^ 16 ∧
    ctr t (errCtr r) = (ctr s (errCtr r) + 1) % 2 ^ 64

theorem reqFault_fails {s u : State} {r : ReqErr} (hopen : s.job.st ≠ .closed) (hfirst : s.job.st ≠ .faulted)
    (hch : r.channel < 32) (hjob : u.job = s.job) (hctr : ctr u (errCtr r) = (ctr s (errCtr r) + 1) % 2 ^ 64) (w : Where) :
    ReqFailed r s (reqFault r w u) := by
  obtain ⟨h19, h44, h896⟩ := errCtr_bounds hch
  obtain ⟨hst, -, hunit, hdetail, -⟩ :=
    jobFault_names (s := u) (by rwa [hjob]) (by rwa [hjob]) 0x30 (ioStatus r) (ioDetail r) w
  exact ⟨hst, hunit, hdetail, by rw [reqFault, ctr_jobFault_ne h19 h44 h896, hctr]⟩

/-- The end of a request that has failed, and its row, change nothing of that. -/
theorem ReqFailed.answered {r : ReqErr} {s t : State} (h : ReqFailed r s t) (hch : r.channel < 32) (m : MReq) :
    ReqFailed r s (reqAnswered m (mportDone m t)) ∧ (reqAnswered m (mportDone m t)).hostMem = t.hostMem := by
  obtain ⟨hst, hunit, hdetail, hctr⟩ := h
  have hdone := mportDone_writes m t
  have hjob : (mportDone m t).job = t.job := hdone.same .job (by decide)
  have hdump : (mportDone m t).dump = t.dump := hdone.same .dump (by decide)
  obtain ⟨hlater, hctrs⟩ := reqAnswered_later (s := mportDone m t) (by rwa [hjob]) (by rw [hdump, hunit]; decide) m
  have hjob' : (reqAnswered m (mportDone m t)).job = t.job := (hlater.same .job (by decide)).trans hjob
  have hdump' : (reqAnswered m (mportDone m t)).dump = t.dump := (hlater.same .dump (by decide)).trans hdump
  refine ⟨⟨by rwa [hjob'], by rwa [hdump'], by rwa [hdump'], ?_⟩,
    (hlater.same .hostMem (by decide)).trans (hdone.same .hostMem (by decide))⟩
  rw [hctrs _ (errCtr_bounds hch).1, hdone.ctr_eq, hctr]

/-! ### O47 -/

theorem exec_mportReadData {s : State} (hlost : s.rst.rootLost = false) {ch id : Nat} {m : MReq}
    (hfind : mportFind s false ch id = some m) (err : Nat) (last par : Bool) :
    exec (.mportReadData ch id err last par) s =
      let e : ReqErr := { channel := ch, id := id, write := false, timeout := false, err := if par then 3 else err }
      let u := if e.err = 0 then s else reqFault e (reqWhere s m.who) (errCount e s)
      .next (if last then reqAnswered m (mportDone m u) else u) := by
  rw [exec, execMportReadData, live_next hlost, hfind]

theorem exec_mportReadData_last {s : State} (hlost : s.rst.rootLost = false) {ch id : Nat} {m : MReq}
    (hfind : mportFind s false ch id = some m) :
    exec (.mportReadData ch id 0 true false) s = .next (reqAnswered m (mportDone m s)) :=
  exec_mportReadData hlost hfind 0 true false

theorem exec_mportWriteResponse {s : State} (hlost : s.rst.rootLost = false) {ch id : Nat} {m : MReq}
    (hfind : mportFind s true ch id = some m) (err : Nat) :
    exec (.mportWriteResponse ch id err) s =
      let e : ReqErr := { channel := ch, id := id, write := true, timeout := false, err := err }
      let u := if err = 0 then s else reqFault e (reqWhere s m.who) (reqScrub m (errCount e s))
      .next (reqAnswered m (mportDone m u)) := by
  rw [exec, execMportWriteResponse, live_next hlost, hfind]

/-- A read that fails (R47): the request, and a row it belongs to, end in a job that has faulted. -/
theorem mportReadData_fails {s : State} (hlost : s.rst.rootLost = false) {ch id : Nat} {m : MReq}
    (hfind : mportFind s false ch id = some m) (hopen : s.job.st ≠ .closed) (hfirst : s.job.st ≠ .faulted) (hch : ch < 32)
    {r : ReqErr} {err : Nat} {par : Bool}
    (hr : r = { channel := ch, id := id, write := false, timeout := false, err := if par then 3 else err }) (herr : r.err ≠ 0)
    (last : Bool) : Completes (.mportReadData ch id err last par) s fun t => ReqFailed r s t ∧ t.hostMem = s.hostMem := by
  have hchannel : r.channel < 32 := by rw [hr]; exact hch
  have hcount := errCount_writes r s
  have hfails : ReqFailed r s (reqFault r (reqWhere s m.who) (errCount r s)) :=
    reqFault_fails hopen hfirst hchannel (hcount.same .job (by decide)) (ctr_errCount r s) _
  have hmem : (reqFault r (reqWhere s m.who) (errCount r s)).hostMem = s.hostMem :=
    ((jobFault_writes ..).same .hostMem (by decide)).trans (hcount.same .hostMem (by decide))
  refine ⟨_, exec_mportReadData hlost hfind err last par, ?_⟩
  rw [← hr]
  dsimp only
  rw [if_neg herr]
  cases last with
  | false => exact ⟨hfails, hmem⟩
  | true => exact ⟨(hfails.answered hchannel m).1, (hfails.answered hchannel m).2.trans hmem⟩

/-- The row whose last read a request was joins its step (R108, R109). -/
theorem rowReady_takes {s : State} {i k : Nat} {c : StepCtx} (hctx : (slotAt s i).ctx = some c) (hcancelled : c.cancelled = false)
    (hnew : ∀ r ∈ c.rows, r.1 ≠ k) (hbad : (inRow c s.job.desc.d k (TRun.start s)).1.bad = none) :
    slotAt (rowReady i c.step k s) i =
        { slotAt s i with ctx := some { c with rows := c.rows ++ [(k, (inRow c s.job.desc.d k (TRun.start s)).2)] } } ∧
      Writes [.slots, .keyway] s (rowReady i c.step k s) := by
  have hrows : (c.rows.any fun r => decide (r.1 = k)) = false := by simpa using hnew
  have hrow : Writes [.keyway] s (inRow c s.job.desc.d k (TRun.start s)).1.s :=
    inRow_writes c s.job.desc.d k (TRun.start s)
  have heq : rowReady i c.step k s =
      rowPut i k (inRow c s.job.desc.d k (TRun.start s)).2 (inRow c s.job.desc.d k (TRun.start s)).1.s := by
    unfold rowReady
    rw [hctx]
    dsimp only
    rw [if_pos ⟨rfl, hcancelled, hrows⟩, hbad]
  rw [heq]
  refine ⟨?_, .after (rowPut_writes ..) hrow.mono⟩
  have hat : slotAt (inRow c s.job.desc.d k (TRun.start s)).1.s i = slotAt s i :=
    slotAt_congr (hrow.same .slots (by decide)) i
  rw [rowPut, slotAt_ctxMap_self (hat ▸ hctx), hat]

/-- The last answer of a row's reads has come: with no other request of the row open it joins its step. -/
theorem reqAnswered_row {s : State} {m : MReq} {i k : Nat} {c : StepCtx} (hwait : s.mport.wait = [])
    (hlast : m.who ∉ s.mport.out.map (·.who)) (hwho : m.who = .stepRow i c.step k) :
    reqAnswered m s = rowReady i c.step k s := by
  have hopen : reqOpen s m.who = false := by
    simp only [reqOpen, hwait, List.any_nil, Bool.or_false, List.any_eq_false, decide_eq_true_eq]
    exact fun x hx he => hlast (List.mem_map.2 ⟨x, hx, he⟩)
  rw [reqAnswered, hwho]
  dsimp only
  rw [hwho] at hopen
  rw [hopen, if_neg Bool.false_ne_true]

theorem reqAnswered_open {s : State} {m : MReq} (hmore : m.who ∈ s.mport.out.map (·.who)) : reqAnswered m s = s := by
  obtain ⟨x, hx, he⟩ := List.mem_map.1 hmore
  have hopen : reqOpen s m.who = true := by
    simp only [reqOpen, Bool.or_eq_true, List.any_eq_true, decide_eq_true_eq]
    exact .inl ⟨x, hx, he⟩
  unfold reqAnswered
  split
  · rw [hopen, if_pos rfl]
  · rfl

theorem exec_mportReadData_stray {s : State} (hlost : s.rst.rootLost = false) {ch id : Nat} (hnone : mportFind s false ch id = none)
    (err : Nat) (last par : Bool) : exec (.mportReadData ch id err last par) s = .next (mportStray false ch id last s) := by
  rw [exec, execMportReadData, live_next hlost, hnone]

/-- The last beat of a late response frees its identifier, and is counted (R48). -/
theorem mportStray_frees (write : Bool) (ch id : Nat) (s : State) : (write, ch, id) ∉ (mportStray write ch id true s).mport.quar ∧
    ctr (mportStray write ch id true s) 24 = (ctr s 24 + 1) % 2 ^ 64 := by
  unfold mportStray
  rw [ctr_ctrInc_self, (ctrInc_writes ..).same .mport (by decide)]
  exact ⟨by simp, rfl⟩

/-- A write that fails, or a request that times out, leaves only a write's own bytes open (R47, R48). -/
theorem reqFault_scrubbed {s u : State} {r : ReqErr} {m : MReq} (hopen : s.job.st ≠ .closed) (hfirst : s.job.st ≠ .faulted)
    (hch : r.channel < 32) (hu : Writes [.mport, .keyway, .latch, .drip] (reqScrub m (errCount r s)) u) (w : Where) :
    ReqFailed r s (reqFault r w u) ∧
      ∀ x, (m.write = true → x < m.pa ∨ m.pa + m.len ≤ x) → memGet (reqFault r w u).hostMem x = memGet s.hostMem x := by
  have hcount := errCount_writes r s
  have hscrub := reqScrub_writes m (errCount r s)
  have hall : Writes [.mport, .keyway, .latch, .drip, .hostMem, .freeCtr, .counters] s u :=
    .after hu (.after hscrub hcount.mono)
  refine ⟨reqFault_fails hopen hfirst hch (hall.same .job (by decide)) ?_ w, fun x hx => ?_⟩
  · rw [hu.ctr_eq, hscrub.ctr_eq, ctr_errCount]
  · have hmem : (reqFault r w u).hostMem = (reqScrub m (errCount r s)).hostMem :=
      ((jobFault_writes ..).same .hostMem (by decide)).trans (hu.same .hostMem (by decide))
    rw [hmem, memGet_reqScrub_out hx, hcount.same .hostMem (by decide)]

/-- Settles O47, answer by answer: one without error ends its request, one with an error is the job's first fault. -/
theorem memoryPortRowsComplete : Obligations.MemoryPortRowsComplete := by
  unfold Obligations.MemoryPortRowsComplete
  intro ch id e last par w m s hlost hch lives detail faulted
  refine ⟨fun hnone => ?_, fun hnone => ?_, fun x => ?_, fun hnone => ?_, fun hfind => ⟨?_, fun hwait hretire => ⟨fun hmore => ?_,
    fun i c k hwho hlast hctx hcancelled hnew => ?_⟩, fun ⟨hopen, hfirst⟩ he he3 => ?_, fun ⟨hopen, hfirst⟩ => ?_⟩,
    fun hfind hwho hwrite => ⟨?_, fun hwait hretire => mportDone_eq hwait hretire m, fun ⟨hopen, hfirst⟩ he => ?_⟩,
    fun hfind hwrite ⟨hopen, hfirst⟩ => ?_⟩
  · exact exec_mportReadData_stray hlost hnone e last par
  · rw [exec, execMportWriteResponse, live_next hlost, hnone]
  · refine ⟨_, exec_mportReadData_stray ?_ ?_ e true par, ?_⟩
    · exact hlost
    · rfl
    · exact mportStray_frees ..
  · rw [exec, execMportTimeout, live_next hlost, hnone]
  · exact exec_mportReadData hlost hfind 0 false false
  · rw [exec_mportReadData_last hlost hfind, mportDone_eq hwait hretire, reqAnswered_open]
    exact hmore
  · intro u r hlen hbad
    have hexec := exec_mportReadData_last hlost hfind
    rw [mportDone_eq hwait hretire, reqAnswered_row (s := u) hwait hlast hwho] at hexec
    obtain ⟨hslot, hwrites⟩ := rowReady_takes (s := u) (i := i) (k := k) hctx hcancelled hnew hbad
    refine ⟨_, hexec, hslot, ?_⟩
    have hall : Writes [.slots, .keyway, .mport] s (rowReady i c.step k u) := .after hwrites (.of_mix rfl)
    exact hall.eq_mix
  · obtain ⟨t, hexec, ⟨hst, hunit, hdetail, hctr⟩, hmem⟩ := mportReadData_fails hlost hfind hopen hfirst hch
      (r := { channel := ch, id := id, write := false, timeout := false, err := e }) (par := false) rfl he last
    refine ⟨t, hexec, ⟨hst, hunit, ?_⟩, ?_, hmem⟩
    · rw [hdetail]
      simp [ioStatus, he3, detail]
    · simpa [errCtr, he3] using hctr
  · obtain ⟨t, hexec, ⟨hst, hunit, hdetail, hctr⟩, hmem⟩ := mportReadData_fails hlost hfind hopen hfirst hch
      (r := { channel := ch, id := id, write := false, timeout := false, err := 3 }) (err := e) (par := true) rfl (Nat.succ_ne_zero 2) last
    exact ⟨t, hexec, ⟨hst, hunit, hdetail⟩, hctr, hmem⟩
  · rw [exec_mportWriteResponse hlost hfind 0]
    dsimp only
    obtain ⟨i, k, hk⟩ := hwho
    rw [if_pos rfl, reqAnswered, hk]
  · have hexec := exec_mportWriteResponse hlost hfind e
    dsimp only at hexec
    rw [if_neg he] at hexec
    obtain ⟨hfails, hmem⟩ := reqFault_scrubbed (m := m) hopen hfirst
      (r := { channel := ch, id := id, write := true, timeout := false, err := e }) hch (.refl _ _) (reqWhere s m.who)
    obtain ⟨⟨hst, hunit, hdetail, hctr⟩, hkept⟩ := hfails.answered hch m
    refine ⟨_, hexec, ⟨hst, hunit, ?_⟩, ?_, fun x hx => ?_⟩
    · rw [hdetail]
      simp [ioStatus, detail]
    · simpa [errCtr] using hctr
    · rw [hkept]
      exact hmem x fun _ => hx
  · have hexec : exec (.mportTimeout w ch id) s =
        let r : ReqErr := { channel := ch, id := id, write := w, timeout := true, err := 0 }
        .next (reqFault r (reqWhere s m.who) (mportDone m (reqScrub m (errCount r s)))) := by
      rw [exec, execMportTimeout, live_next hlost, hfind]
    obtain ⟨⟨hst, hunit, hdetail, hctr⟩, hmem⟩ := reqFault_scrubbed (m := m) hopen hfirst
      (r := { channel := ch, id := id, write := w, timeout := true, err := 0 }) hch (mportDone_writes m _) (reqWhere s m.who)
    refine ⟨_, hexec, ⟨hst, hunit, ?_⟩, ?_, ?_, fun x hx => hmem x (hwrite ▸ hx)⟩
    · rw [hdetail]
      simp [ioStatus, detail]
    · rw [reqFault, (jobFault_writes ..).same .mport (by decide), mportDone_quar, (reqScrub_writes ..).same .mport (by decide)]
      simp [errCount, ctrInc, ctrAdd]
    · simpa [errCtr] using hctr

end Sys2Proof.Machine
end

section
/-! PROOFS. The rules of KFT's pumps: what they change of the transport, and what becomes of a chunk (R257 to R267). -/

namespace Sys2Proof.Machine

-- One declaration at a time: see the frames of the state's operations.
set_option Elab.async false

/-! ### Paths -/

theorem pathOf_dst (s : State) (d : Nat) : (pathOf s d).dst = d := by
  unfold pathOf
  split
  · next p hp => simpa using List.find?_some hp
  · rfl

theorem pathOf_setPath_self (p : Path) (s : State) : pathOf (setPath p s) p.dst = p := by
  simp [pathOf, setPath]

theorem pathOf_setPath_ne {p : Path} {d : Nat} (h : d ≠ p.dst) (s : State) : pathOf (setPath p s) d = pathOf s d := by
  unfold pathOf setPath
  dsimp only
  rw [List.find?_cons_of_neg (by simpa using fun he => h he.symm), List.find?_filter]
  refine congrArg (fun o : Option Path => match o with
    | some q => q
    | none => { dst := d, epoch := 0, last := 31 }) (List.find?_congr fun q _ => ?_)
  by_cases hq : q.dst = d
  · simp [hq, h]
  · simp [hq]

/-- Only the link last taken moves with a rotation, not the epoch (R262, R264). -/
theorem epoch_setPath_last (d last : Nat) (s : State) (e : Nat) :
    (pathOf (setPath { pathOf s d with last := last } s) e).epoch = (pathOf s e).epoch := by
  by_cases h : e = d
  · have hself := pathOf_setPath_self { pathOf s d with last := last } s
    rw [show ({ pathOf s d with last := last } : Path).dst = d from pathOf_dst s d] at hself
    rw [h, hself]
  · rw [pathOf_setPath_ne (by rwa [show ({ pathOf s d with last := last } : Path).dst = d from pathOf_dst s d])]

theorem pathOf_congr {s t : State} (h : t.kft.paths = s.kft.paths) (d : Nat) : pathOf t d = pathOf s d := by
  rw [pathOf, pathOf, h]

/-! ### Acknowledgement frames -/

/-- `t` is `s` but for ack and nack frames, what has gone out, the rotations and the counters. -/
def CtlOnly (s t : State) : Prop :=
  (∃ paths ctl ctlWait wire counters, t =
    { s with kft := { s.kft with paths := paths, ctl := ctl, ctlWait := ctlWait, wire := wire }, counters := counters }) ∧
  ∀ d, (pathOf t d).epoch = (pathOf s d).epoch

theorem CtlOnly.refl (s : State) : CtlOnly s s := ⟨⟨_, _, _, _, _, rfl⟩, fun _ => rfl⟩

theorem CtlOnly.trans {s t u : State} (hst : CtlOnly s t) (htu : CtlOnly t u) : CtlOnly s u := by
  obtain ⟨⟨_, _, _, _, _, rfl⟩, h₁⟩ := hst
  obtain ⟨⟨_, _, _, _, _, rfl⟩, h₂⟩ := htu
  exact ⟨⟨_, _, _, _, _, rfl⟩, fun d => (h₂ d).trans (h₁ d)⟩

theorem CtlOnly.foldl {α : Type} {f : State → α → State} (hf : ∀ t x, CtlOnly t (f t x)) (l : List α) (s : State) :
    CtlOnly s (l.foldl f s) :=
  List.foldlRecOn (motive := CtlOnly s) _ _ (.refl s) fun t ht x _ => ht.trans (hf t x)

theorem placeCtl_ctlOnly (s : State) (w : CtlWait) : CtlOnly s (placeCtl s w).1 := by
  unfold placeCtl
  split
  · exact .refl s
  · extract_lets p
    split
    · exact .refl s
    · exact ⟨⟨_, _, _, _, _, rfl⟩, fun d => epoch_setPath_last w.hdr.dstSeat _ s d⟩

theorem pumpCtl_ctlOnly (s : State) : CtlOnly s (pumpCtl s) := by
  refine .trans ⟨⟨_, _, _, _, _, rfl⟩, fun d => rfl⟩ (.foldl (fun t w => (placeCtl_ctlOnly t w).trans ?_) _ _)
  dsimp only
  split
  · split_ifs <;> exact ⟨⟨_, _, _, _, _, rfl⟩, fun _ => rfl⟩
  · exact ⟨⟨_, _, _, _, _, rfl⟩, fun _ => rfl⟩

theorem sendCtl_ctlOnly (h : KftHdr) (s : State) : CtlOnly s (sendCtl h s) := by
  unfold sendCtl
  split_ifs
  · exact .refl s
  · exact .trans ⟨⟨_, _, _, _, _, rfl⟩, fun _ => rfl⟩ (pumpCtl_ctlOnly _)

/-! ### The keys of unacknowledged chunks -/

/-- Destination, channel and sequence number. -/
def TxChunk.key (c : TxChunk) : Nat × Nat × Nat := (c.hdr.dstSeat, c.hdr.vc, c.hdr.seq)

theorem key_eq_iff {c : TxChunk} {d v q : Nat} : c.key = (d, v, q) ↔ c.hdr.dstSeat = d ∧ c.hdr.vc = v ∧ c.hdr.seq = q := by
  simp [TxChunk.key]

theorem putChunk_unacked (c : TxChunk) (s : State) :
    (putChunk c s).kft.unacked = s.kft.unacked.map fun x => if x.key = c.key then c else x := by
  simp [putChunk, TxChunk.key]

theorem putChunk_keys (c : TxChunk) (s : State) : (putChunk c s).kft.unacked.map (·.key) = s.kft.unacked.map (·.key) := by
  rw [putChunk_unacked, List.map_map]
  refine List.map_congr_left fun x _ => ?_
  by_cases h : x.key = c.key <;> simp [h]

/-- `t` is `s` but for the sending of chunks and frames: the chunks keep their keys, and the paths their epochs. -/
def Pumped (s t : State) : Prop :=
  (∃ unacked rx paths ctl ctlWait wire counters, t = { s with
    kft := { s.kft with unacked := unacked, rx := rx, paths := paths, ctl := ctl, ctlWait := ctlWait, wire := wire }
    counters := counters }) ∧
  t.kft.unacked.map (·.key) = s.kft.unacked.map (·.key) ∧ ∀ d, (pathOf t d).epoch = (pathOf s d).epoch

theorem Pumped.refl (s : State) : Pumped s s := ⟨⟨_, _, _, _, _, _, _, rfl⟩, rfl, fun _ => rfl⟩

theorem Pumped.trans {s t u : State} (hst : Pumped s t) (htu : Pumped t u) : Pumped s u := by
  obtain ⟨⟨_, _, _, _, _, _, _, rfl⟩, hk₁, he₁⟩ := hst
  obtain ⟨⟨_, _, _, _, _, _, _, rfl⟩, hk₂, he₂⟩ := htu
  exact ⟨⟨_, _, _, _, _, _, _, rfl⟩, hk₂.trans hk₁, fun d => (he₂ d).trans (he₁ d)⟩

theorem Pumped.foldl {α : Type} {f : State → α → State} (hf : ∀ t x, Pumped t (f t x)) (l : List α) (s : State) :
    Pumped s (l.foldl f s) :=
  List.foldlRecOn (motive := Pumped s) _ _ (.refl s) fun t ht x _ => ht.trans (hf t x)

theorem CtlOnly.pumped {s t : State} (h : CtlOnly s t) : Pumped s t := by
  obtain ⟨⟨_, _, _, _, _, rfl⟩, he⟩ := h
  exact ⟨⟨_, _, _, _, _, _, _, rfl⟩, rfl, he⟩

theorem putChunk_pumped (c : TxChunk) (s : State) : Pumped s (putChunk c s) :=
  ⟨⟨_, _, _, _, _, _, _, rfl⟩, putChunk_keys c s, fun _ => rfl⟩

theorem carryAck_pumped (seat : Nat) (h : KftHdr) (s : State) : Pumped s (carryAck seat h s).1 := by
  unfold carryAck
  split
  · exact ⟨⟨_, _, _, _, _, _, _, rfl⟩, rfl, fun _ => rfl⟩
  · exact .refl s

theorem transmit_pumped (c : TxChunk) (s : State) : Pumped s (transmit c s) := by
  unfold transmit
  extract_lets dst _ r rto framed counted
  have hframed : Pumped s framed := (carryAck_pumped _ _ s).trans ⟨⟨_, _, _, _, _, _, _, rfl⟩, rfl, fun _ => rfl⟩
  have hcounted : Pumped framed counted := by
    unfold counted
    split_ifs
    · exact .refl framed
    · exact ⟨⟨_, _, _, _, _, _, _, rfl⟩, rfl, fun _ => rfl⟩
  exact (hframed.trans hcounted).trans (putChunk_pumped ..)

theorem placeChunk_pumped (s : State) (c : TxChunk) : Pumped s (placeChunk s c) := by
  unfold placeChunk
  split
  · extract_lets p
    split
    · exact .refl s
    · next k _ =>
      refine (putChunk_pumped _ s).trans ⟨⟨_, _, _, _, _, _, _, rfl⟩, rfl, fun d => ?_⟩
      exact epoch_setPath_last c.hdr.dstSeat k (putChunk { c with link := k, placed := true } s) d
  · exact .refl s

/-- Ack and nack frames have gone out, and what waits is placed. -/
def chunksPlaced (s : State) : State := (s.kft.unacked.filter fun c => c.queued && !c.placed).foldl placeChunk (pumpCtl s)

/-- What is placed goes out, Hinge by Hinge. -/
def chunksSent (s : State) : State :=
  (List.range 8).foldl (fun t p => (egressOrder (getP t 0x0302) (egressReady t p)).foldl (fun u c => transmit c u) t) s

theorem pumpTx_eq (s : State) : pumpTx s = chunksSent (chunksPlaced s) := rfl

theorem chunksPlaced_pumped (s : State) : Pumped s (chunksPlaced s) :=
  (pumpCtl_ctlOnly s).pumped.trans (.foldl placeChunk_pumped _ _)

theorem chunksSent_pumped (s : State) : Pumped s (chunksSent s) :=
  .foldl (fun _ _ => .foldl (fun u c => transmit_pumped c u) _ _) _ s

theorem pumpTx_pumped (s : State) : Pumped s (pumpTx s) := (chunksPlaced_pumped s).trans (chunksSent_pumped _)

/-! ### What a Hinge sends waits on its queue -/

theorem mem_drrTake {d : Nat} {l : List TxChunk} {c : TxChunk} (h : c ∈ (drrTake d l).1 ∨ c ∈ (drrTake d l).2.1) : c ∈ l := by
  induction l generalizing d with
  | nil => simp [drrTake] at h
  | cons x r ih =>
    rw [drrTake] at h
    split_ifs at h
    · dsimp only at h
      rcases h with h | h
      · rcases List.mem_cons.1 h with rfl | h
        · exact List.mem_cons_self
        · exact List.mem_cons_of_mem _ (ih (.inl h))
      · exact List.mem_cons_of_mem _ (ih (.inr h))
    · simpa using h

theorem mem_drrGo {n : Nat} {qs : List (Nat × Nat × List TxChunk)} {c : TxChunk} (h : c ∈ drrGo n qs) : ∃ q ∈ qs, c ∈ q.2.2 := by
  induction n generalizing qs with
  | zero => exact List.mem_flatMap.1 h
  | succ n ih =>
    rw [drrGo] at h
    split_ifs at h
    · cases h
    · dsimp only at h
      rw [List.mem_append, List.flatMap_map] at h
      rcases h with h | h
      · obtain ⟨q, hq, hc⟩ := List.mem_flatMap.1 h
        exact ⟨q, hq, mem_drrTake (.inl hc)⟩
      · obtain ⟨r, hr, hc⟩ := ih h
        rw [List.map_map] at hr
        obtain ⟨q, hq, he⟩ := List.mem_map.1 hr
        rw [← he] at hc
        exact ⟨q, hq, mem_drrTake (.inr hc)⟩

theorem mem_egressOrder {w : Nat} {l : List TxChunk} {c : TxChunk} (h : c ∈ egressOrder w l) : c ∈ l := by
  obtain ⟨_, hq, hc⟩ := mem_drrGo h
  obtain ⟨vc, -, rfl⟩ := List.mem_map.1 hq
  obtain ⟨k, -, hc⟩ := List.mem_flatMap.1 hc
  exact (List.mem_filter.1 hc).1

theorem mem_egressReady {s : State} {p : Nat} {c : TxChunk} (h : c ∈ egressReady s p) :
    c ∈ s.kft.unacked ∧ c.queued = true ∧ c.placed = true := by
  unfold egressReady at h
  split_ifs at h
  · obtain ⟨hc, hq⟩ := List.mem_filter.1 h
    simp only [Bool.and_eq_true] at hq
    exact ⟨hc, hq.1.1.1, hq.1.1.2⟩
  · cases h

/-! ### What holds of every chunk -/

/-- A property of chunks that an operation keeps for those of one state, if what it puts has it. -/
theorem putChunk_forall {Q : TxChunk → Prop} {s : State} {c : TxChunk} (h : ∀ x ∈ s.kft.unacked, Q x) (hc : Q c) :
    ∀ x ∈ (putChunk c s).kft.unacked, Q x := by
  intro x hx
  rw [putChunk_unacked] at hx
  obtain ⟨y, hy, rfl⟩ := List.mem_map.1 hx
  split_ifs
  · exact hc
  · exact h y hy

/-- A chunk that has gone out with header `h`, at a tick, under a timeout (R260). -/
def TxChunk.wentOut (c : TxChunk) (h : KftHdr) (kt rto : Nat) : TxChunk :=
  { c with hdr := h, tries := c.tries + 1, lastKt := kt, again := false, queued := false, placed := false, seen := [],
           timeout := (if c.tries = 0 then rto else min (2 * c.timeout) (8 * rto)) }

theorem carryAck_keeps (seat : Nat) (h : KftHdr) (s : State) :
    ((carryAck seat h s).2.dstSeat = h.dstSeat ∧ (carryAck seat h s).2.vc = h.vc ∧ (carryAck seat h s).2.seq = h.seq) ∧
      (carryAck seat h s).1.kft.unacked = s.kft.unacked ∧ (carryAck seat h s).1.kt = s.kt := by
  unfold carryAck
  split <;> exact ⟨⟨rfl, rfl, rfl⟩, rfl, rfl⟩

/-- Sending puts the chunk as it went out, under its key, in the place of those of its key. -/
theorem transmit_unacked (c : TxChunk) (s : State) : ∃ h : KftHdr, (c.wentOut h s.kt (ticksOf (curP s 0x0345))).key = c.key ∧
    (transmit c s).kft.unacked = (putChunk (c.wentOut h s.kt (ticksOf (curP s 0x0345))) s).kft.unacked := by
  unfold transmit
  extract_lets dst h₀ r rto framed counted
  have hr : (r.2.dstSeat, r.2.vc, r.2.seq) = c.key ∧ r.1.kft.unacked = s.kft.unacked ∧ r.1.kt = s.kt := by
    obtain ⟨⟨hdst, hvc, hseq⟩, hkept⟩ := carryAck_keeps dst _ s
    exact ⟨by rw [hdst, hvc, hseq]; rfl, hkept⟩
  have hcounted : counted.kft.unacked = r.1.kft.unacked ∧ counted.kt = r.1.kt := by
    unfold counted
    split_ifs <;> exact ⟨rfl, rfl⟩
  refine ⟨r.2, hr.1, ?_⟩
  rw [putChunk_unacked, putChunk_unacked, hcounted.1, hcounted.2, hr.2.1, hr.2.2]
  rfl

theorem transmit_forall {Q : TxChunk → Prop} {s : State} {c : TxChunk} (h : ∀ x ∈ s.kft.unacked, Q x)
    (hc : ∀ k, (c.wentOut k s.kt (ticksOf (curP s 0x0345))).key = c.key → Q (c.wentOut k s.kt (ticksOf (curP s 0x0345)))) :
    ∀ x ∈ (transmit c s).kft.unacked, Q x := by
  obtain ⟨k, hkey, heq⟩ := transmit_unacked c s
  rw [heq]
  exact putChunk_forall h (hc k hkey)

/-- Placing puts the chunk on one of the links it may take, or leaves all as it is. -/
theorem placeChunk_unacked (s : State) (c : TxChunk) : (placeChunk s c).kft.unacked = s.kft.unacked ∨
    ∃ k, nextLink (chunkLinks s c) (pathOf s c.hdr.dstSeat).last (if c.tries = 0 then none else some c.link) = some k ∧
      (placeChunk s c).kft.unacked = (putChunk { c with link := k, placed := true } s).kft.unacked := by
  unfold placeChunk
  split
  · extract_lets p
    split
    · exact .inl rfl
    · next k hk => exact .inr ⟨k, hk, rfl⟩
  · exact .inl rfl

theorem nextLink_nil (last : Nat) (avoid : Option Nat) : nextLink [] last avoid = none := rfl

/-- What the links of a chunk rest on: the links, the groups, and the seats' marks. -/
theorem chunkLinks_pumped {s t : State} (h : Pumped s t) (c : TxChunk) : chunkLinks t c = chunkLinks s c := by
  obtain ⟨⟨_, _, _, _, _, _, _, rfl⟩, -⟩ := h
  rfl

theorem curP_pumped {s t : State} (h : Pumped s t) (id : Nat) : curP t id = curP s id := by
  obtain ⟨⟨_, _, _, _, _, _, _, rfl⟩, -⟩ := h
  rfl

theorem Pumped.kt {s t : State} (h : Pumped s t) : t.kt = s.kt := by
  obtain ⟨⟨_, _, _, _, _, _, _, rfl⟩, -⟩ := h
  rfl

/-- A property of the chunks that placing one on a link keeps. -/
theorem chunksPlaced_forall {Q : TxChunk → Prop} {s : State} (h : ∀ x ∈ s.kft.unacked, Q x)
    (hplace : ∀ x k, Q x → x.queued = true → chunkLinks s x ≠ [] → Q { x with link := k, placed := true }) :
    ∀ x ∈ (chunksPlaced s).kft.unacked, Q x := by
  have hctl := pumpCtl_ctlOnly s
  have hunacked : (pumpCtl s).kft.unacked = s.kft.unacked := by
    obtain ⟨⟨_, _, _, _, _, heq⟩, -⟩ := hctl
    rw [heq]
  refine (List.foldlRecOn (motive := fun t : State => Pumped s t ∧ ∀ x ∈ t.kft.unacked, Q x) _ _
    ⟨hctl.pumped, by rwa [hunacked]⟩ fun t ht c hc => ⟨ht.1.trans (placeChunk_pumped t c), ?_⟩).2
  obtain ⟨hc, hq⟩ := List.mem_filter.1 hc
  rw [Bool.and_eq_true] at hq
  rcases placeChunk_unacked t c with heq | ⟨k, hk, heq⟩
  · rw [heq]
    exact ht.2
  · rw [heq]
    refine putChunk_forall ht.2 (hplace c k (h c hc) hq.1 fun hnone => ?_)
    rw [chunkLinks_pumped ht.1, hnone, nextLink_nil] at hk
    cases hk

/-- A property of the chunks that the going out of a placed one keeps. -/
theorem chunksSent_forall {Q : TxChunk → Prop} {s : State} (h : ∀ x ∈ s.kft.unacked, Q x)
    (hsend : ∀ x k, Q x → x.queued = true → x.placed = true → (x.wentOut k s.kt (ticksOf (curP s 0x0345))).key = x.key →
      Q (x.wentOut k s.kt (ticksOf (curP s 0x0345)))) :
    ∀ x ∈ (chunksSent s).kft.unacked, Q x := by
  unfold chunksSent
  refine (List.foldlRecOn (motive := fun t : State => Pumped s t ∧ ∀ x ∈ t.kft.unacked, Q x) _ _ ⟨.refl s, h⟩
    fun t ht p _ => ?_).2
  refine List.foldlRecOn (motive := fun u : State => Pumped s u ∧ ∀ x ∈ u.kft.unacked, Q x) _ _ ht fun u hu c hc =>
    ⟨hu.1.trans (transmit_pumped c u), ?_⟩
  obtain ⟨hmem, hqueued, hplaced⟩ := mem_egressReady (mem_egressOrder hc)
  refine transmit_forall hu.2 fun k hkey => ?_
  rw [hu.1.kt, curP_pumped hu.1] at hkey ⊢
  exact hsend c k (ht.2 c hmem) hqueued hplaced hkey

end Sys2Proof.Machine
end

section
/-! PROOFS. Frames at ingress, and the application of an admitted chunk (R245, R255 to R258, R277). -/

namespace Sys2Proof.Machine

-- One declaration at a time: see the frames of the state's operations.
set_option Elab.async false

/-! ### Receive spaces -/

theorem rxSpace_space (s : State) (seat vc : Nat) : (rxSpace s seat vc).seat = seat ∧ (rxSpace s seat vc).vc = vc := by
  unfold rxSpace
  split
  · next t ht => simpa using List.find?_some ht
  · exact ⟨rfl, rfl⟩

theorem rxSpace_setRx {t : RxSpace} {seat vc : Nat} (hseat : t.seat = seat) (hvc : t.vc = vc) (s : State) :
    rxSpace (setRx t s) seat vc = t := by
  simp [rxSpace, setRx, hseat, hvc]

theorem rxSpace_congr {s t : State} (h : t.kft.rx = s.kft.rx) (seat vc : Nat) : rxSpace t seat vc = rxSpace s seat vc := by
  rw [rxSpace, rxSpace, h]

theorem CtlOnly.rx {s t : State} (h : CtlOnly s t) : t.kft.rx = s.kft.rx := by
  obtain ⟨⟨_, _, _, _, _, rfl⟩, -⟩ := h
  rfl

/-- An ack frame moves no cumulative point. -/
theorem sendAck_cum (seat vc epoch : Nat) (s : State) :
    (rxSpace (sendAck seat vc epoch s) seat vc).cum = (rxSpace s seat vc).cum := by
  unfold sendAck
  extract_lets t b
  obtain ⟨hseat, hvc⟩ := rxSpace_space s seat vc
  rw [rxSpace_congr (sendCtl_ctlOnly ..).rx]
  refine (congrArg RxSpace.cum (rxSpace_setRx ?_ ?_ s)).trans rfl
  · exact hseat
  · exact hvc

/-- `t` is `s` but for receive spaces, ack frames and the counters. -/
def AckOnly (s t : State) : Prop := ∃ rx paths ctl ctlWait wire counters, t =
  { s with kft := { s.kft with rx := rx, paths := paths, ctl := ctl, ctlWait := ctlWait, wire := wire }, counters := counters }

theorem CtlOnly.ackOnly {s t : State} (h : CtlOnly s t) : AckOnly s t := by
  obtain ⟨⟨_, _, _, _, _, rfl⟩, -⟩ := h
  exact ⟨_, _, _, _, _, _, rfl⟩

theorem AckOnly.trans {s t u : State} (hst : AckOnly s t) (htu : AckOnly t u) : AckOnly s u := by
  obtain ⟨_, _, _, _, _, _, rfl⟩ := hst
  obtain ⟨_, _, _, _, _, _, rfl⟩ := htu
  exact ⟨_, _, _, _, _, _, rfl⟩

theorem AckOnly.writes {s t : State} (h : AckOnly s t) : Writes [.kft, .counters] s t := by
  obtain ⟨_, _, _, _, _, _, rfl⟩ := h
  exact .of_mix rfl

theorem sendAck_ackOnly (seat vc epoch : Nat) (s : State) : AckOnly s (sendAck seat vc epoch s) :=
  .trans ⟨_, _, _, _, _, _, rfl⟩ (sendCtl_ctlOnly ..).ackOnly

theorem markApplied_ackOnly (seat vc seq epoch : Nat) (s : State) : AckOnly s (markApplied seat vc seq epoch s) := by
  unfold markApplied
  extract_lets t r t' s'
  have hset : AckOnly s s' := ⟨_, _, _, _, _, _, rfl⟩
  split_ifs
  · exact hset.trans (sendAck_ackOnly ..)
  · exact hset

/-- Applied in order, a chunk moves the cumulative point to itself (R258). -/
theorem markApplied_cum {s : State} {seat vc seq : Nat} (hsacks : (rxSpace s seat vc).sacks = [])
    (hnext : seq = (rxSpace s seat vc).cum + 1) (hseq : seq < 2 ^ 32) (epoch : Nat) :
    (rxSpace (markApplied seat vc seq epoch s) seat vc).cum = seq := by
  unfold markApplied
  extract_lets t r t' s'
  have hr : r.1 = seq := by
    have hadd : seqAdd t.cum 1 = seq := by rw [hnext] at hseq ⊢; exact Nat.mod_eq_of_lt hseq
    simp [r, show t.sacks = [] from hsacks, advanceCum, hadd]
  have hself : (rxSpace s' seat vc).cum = seq := by
    obtain ⟨hseat, hvc⟩ := rxSpace_space s seat vc
    exact (congrArg RxSpace.cum (rxSpace_setRx (t := t') hseat hvc s)).trans hr
  split_ifs
  · rw [sendAck_cum, hself]
  · exact hself

/-! ### Ingress -/

theorem carafeAsk_asks (o n cls ref : Nat) (use : CellUse) (s : State) :
    (∃ y ∈ (carafeAsk o n cls ref use s).carafe.cells, y.use = use) ∨
      ∃ w ∈ (carafeAsk o n cls ref use s).carafe.waits, w.use = use := by
  unfold carafeAsk
  split
  · next c hc =>
    left
    have hmay : mayTake s o c = true := by
      have := List.find?_some hc
      rw [Bool.and_eq_true] at this
      exact this.2
    have hfree : 0 < (poolAt s c).free.length := by
      unfold mayTake at hmay
      simp only [Bool.and_eq_true, decide_eq_true_eq] at hmay
      exact hmay.1
    obtain ⟨a, r, hcons⟩ := List.exists_cons_of_length_pos hfree
    rw [takeCell_carafe hcons]
    exact ⟨_, List.mem_append_right _ (List.mem_singleton_self _), rfl⟩
  · right
    exact ⟨_, List.mem_append_right _ (List.mem_singleton_self _), rfl⟩

/-- A chunk joins ingress, and holds its cell or waits for it (R245, R283). -/
theorem ingressAdd_joins (c : RxChunk) (s : State) :
    Writes [.kft, .carafe, .counters, .pfcSent] s (ingressAdd c s) ∧
    (ingressAdd c s).kft = { s.kft with ingress := s.kft.ingress ++ [c] } ∧
    ((∃ y ∈ (ingressAdd c s).carafe.cells, y.use = .arrival c.hdr.srcSeat c.hdr.vc c.hdr.seq) ∨
      cellWaits (ingressAdd c s) c = true) := by
  unfold ingressAdd
  have hask := carafeAsk_writes (1 + c.hinge) (64 + c.payload.length) c.hdr.cls 1 (.arrival c.hdr.srcSeat c.hdr.vc c.hdr.seq)
    { s with kft := { s.kft with ingress := s.kft.ingress ++ [c] } }
  have hasked := carafeAsk_asks (1 + c.hinge) (64 + c.payload.length) c.hdr.cls 1 (.arrival c.hdr.srcSeat c.hdr.vc c.hdr.seq)
    { s with kft := { s.kft with ingress := s.kft.ingress ++ [c] } }
  generalize carafeAsk (1 + c.hinge) (64 + c.payload.length) c.hdr.cls 1 (.arrival c.hdr.srcSeat c.hdr.vc c.hdr.seq)
    { s with kft := { s.kft with ingress := s.kft.ingress ++ [c] } } = t at hask hasked
  have hpfc := pfcCheck_writes t
  refine ⟨.after hpfc (.after hask (.of_mix rfl)), ?_, ?_⟩
  · rw [hpfc.same .kft (by decide), hask.same .kft (by decide)]
  · unfold cellWaits
    rw [hpfc.same .carafe (by decide)]
    refine hasked.imp id ?_
    rintro ⟨w, hw, huse⟩
    exact List.any_eq_true.2 ⟨w, hw, by simpa using huse⟩

/-- A chunk that leaves ingress is in it no longer. -/
theorem ingressLeave_gone (src vc seq : Nat) (s : State) : ∀ y ∈ (ingressLeave src vc seq s).kft.ingress, y.is src vc seq = false := by
  intro y hy
  simpa using (List.mem_filter.1 hy).2

theorem ingressDrop_writes (src vc seq : Nat) (s : State) :
    Writes (.pfcSent :: cellFields) (ingressLeave src vc seq s) (ingressDrop src vc seq s) :=
  .after (pfcCheck_writes _) (freeCells_writes ..).mono

theorem recArrival_writes (src vc seq : Nat) (s : State) : Writes [.recRing, .counters] s (recArrival src vc seq s) := by
  unfold recArrival
  split
  · exact (recOriginal_writes ..).mono
  · exact .refl _ s

/-- What the application of a chunk outside VC4 writes, once its bytes are where they belong. -/
def applyFields : List Fld := .recRing :: .kft :: .pfcSent :: cellFields

/-- A chunk outside VC4 that has been applied is out of ingress, and moves its cumulative point where it is the next (R258). -/
theorem applyWith_applied {drop : Nat → Nat → Nat → State → State} {src vc seq : Nat}
    (hdrop : ∀ t, Writes (.pfcSent :: cellFields) (ingressLeave src vc seq t) (drop src vc seq t)) (hvc : vc ≠ 4) (s : State) :
    Writes applyFields s (applyWith drop src vc seq s) ∧
    (∀ y ∈ (applyWith drop src vc seq s).kft.ingress, y.is src vc seq = false) ∧
    (applyWith drop src vc seq s).kft.inbox = s.kft.inbox ∧
    ((rxSpace s src vc).sacks = [] → seq = (rxSpace s src vc).cum + 1 → seq < 2 ^ 32 →
      (rxSpace (applyWith drop src vc seq s) src vc).cum = seq) := by
  unfold applyWith
  extract_lets e t
  rw [if_neg hvc]
  have hrec := recArrival_writes src vc seq s
  have hleft := hdrop (recArrival src vc seq s)
  have hleave : Writes [.kft] (recArrival src vc seq s) (ingressLeave src vc seq (recArrival src vc seq s)) := .of_mix rfl
  have hkft : (drop src vc seq (recArrival src vc seq s)).kft = (ingressLeave src vc seq (recArrival src vc seq s)).kft :=
    hleft.same .kft (by decide)
  have hkept : (recArrival src vc seq s).kft = s.kft := hrec.same .kft (by decide)
  have hrx : (drop src vc seq (recArrival src vc seq s)).kft.rx = s.kft.rx := by
    rw [hkft]
    show (recArrival src vc seq s).kft.rx = _
    rw [hkept]
  have hinbox : (drop src vc seq (recArrival src vc seq s)).kft.inbox = s.kft.inbox := by
    rw [hkft]
    show (recArrival src vc seq s).kft.inbox = _
    rw [hkept]
  have hgone := ingressLeave_gone src vc seq (recArrival src vc seq s)
  rw [← hkft] at hgone
  have hwrites : Writes applyFields s (drop src vc seq (recArrival src vc seq s)) :=
    .after hleft (.after hleave hrec.mono)
  have hmark : AckOnly (drop src vc seq (recArrival src vc seq s)) t := markApplied_ackOnly ..
  have hcum : (rxSpace s src vc).sacks = [] → seq = (rxSpace s src vc).cum + 1 → seq < 2 ^ 32 → (rxSpace t src vc).cum = seq :=
    fun hsacks hnext hseq => by
      rw [← rxSpace_congr hrx] at hsacks hnext
      exact markApplied_cum hsacks hnext hseq e
  refine ⟨.after hmark.writes hwrites, ?_, ?_, hcum⟩
  · obtain ⟨_, _, _, _, _, _, heq⟩ := hmark
    rw [heq]
    exact hgone
  · obtain ⟨_, _, _, _, _, _, heq⟩ := hmark
    rw [heq]
    exact hinbox

/-! ### The bytes of a chunk, and a message (R255, R258) -/

theorem chunkWrite_ok {s w : State} {va : Nat} {b : List Byte} (h : hostWrite s 0 va b = (w, .ok ())) (go : State → State) :
    chunkWrite va b .ok go s = go w := by
  obtain ⟨u, l, hrange, rfl⟩ := hostWrite_ok h
  have hmem : u.hostMem = s.hostMem := by
    have hwrites := xlateRange_writes s 0 va b.length true
    rw [hrange] at hwrites
    exact hwrites.same .hostMem (by decide)
  rw [chunkWrite, hrange]
  dsimp only [jobIo]
  rw [hmem]

/-- A chunk of a receive region is written to host memory. -/
theorem chunkApply_tile {c : RxChunk} (hregion : c.hdr.region = 0) (io : Io) (s : State) : chunkApply c io s =
    chunkWrite (getP s 0x0508 + c.hdr.offset) c.payload io (applyDone c.hdr.srcSeat c.hdr.vc c.hdr.seq) s := by
  unfold chunkApply
  simp only [hregion]

/-- A chunk of a message keeps its cell for the message's row. -/
theorem chunkApply_message {c : RxChunk} (hregion : c.hdr.region = 4) (io : Io) (s : State) : chunkApply c io s =
    applyWith ingressLeave c.hdr.srcSeat c.hdr.vc c.hdr.seq (messageTake c s) := by
  unfold chunkApply
  simp only [hregion]

theorem messageTake_whole {s : State} {c : RxChunk} (hone : c.hdr.msgChunks ≤ 1)
    (hnone : ∀ y ∈ s.kft.msgs, y.hdr.srcSeat ≠ c.hdr.srcSeat ∨ y.hdr.vc ≠ c.hdr.vc ∨ y.hdr.msgSeq ≠ c.hdr.msgSeq) :
    Writes [.kft] s (messageTake c s) ∧ (messageTake c s).kft.inbox =
      s.kft.inbox ++ [{ src := c.hdr.srcSeat, vc := c.hdr.vc, seqs := [c.hdr.seq], bytes := c.payload }] := by
  unfold messageTake
  extract_lets same l m
  have hothers : s.kft.msgs.filter same = [] := by
    rw [List.filter_eq_nil_iff]
    intro y hy hsame
    have := hnone y hy
    simp only [same, decide_eq_true_eq] at hsame
    omega
  have hm : m = [c] := by
    have hself : same c = true := by simp [same]
    simp [m, l, List.filter_append, hothers, hself]
  rw [if_neg (by rw [hm]; exact Nat.not_lt.2 hone), hm]
  refine ⟨.of_mix rfl, ?_⟩
  simp [messageBytes, sortBy, insertBy]

/-! ### O53 -/

/-- What every frame that a Hinge in service takes is counted as (R251, R491). -/
def frameCounted (hinge link : Nat) (f : Frame) (s : State) : State :=
  ctrInc (hingeCtr hinge 14) (ctrAdd (hingeCtr hinge 16) f.bytes (fecCount (4 * hinge + link) f s))

theorem frameCounted_writes (hinge link : Nat) (f : Frame) (s : State) : Writes [.counters] s (frameCounted hinge link f s) := by
  have hfec : Writes [.counters] s (fecCount (4 * hinge + link) f s) :=
    .foldl (fun _ _ => (ctrAdd_writes ..).trans (ctrAdd_writes ..)) _ s
  exact .after (ctrInc_writes ..) (.after (ctrAdd_writes ..) hfec)

/-- The checks of R256 in order. -/
theorem exec_kftFrameReceive {s : State} (hlost : s.rst.rootLost = false) {hinge link : Nat} (hhinge : hinge < 8) (hlink : link < 4)
    (hdom : domState s (5 + hinge) = .inService) (f : Frame) : exec (.kftFrameReceive hinge link f) s =
      let u := frameCounted hinge link f s
      .next (if isPause f then ctrInc (hingeCtr hinge 12) u
        else match frameBad u hinge f with
        | some k => ctrInc (hingeCtr hinge k) u
        | none =>
          if f.ethertype = 0x88F7 then u
          else if f.hdr.vc = 0 then pnSeen f u
          else match jobBad u f with
            | some k => ctrInc (hingeCtr hinge k) (if k = 8 then stateDrop f u else u)
            | none => if isCtl f.hdr then u else frameAdmit hinge (4 * hinge + link) f u) := by
  rw [exec, execKftFrameReceive, live_next hlost, if_pos ⟨hhinge, hlink, hdom⟩]
  rfl

/-- A chunk of a frame that carries no acknowledgement (R256 to R258). -/
theorem frameAdmit_plain {h : KftHdr} {f : Frame} (hh : f.hdr = h) (hack : h.ackValid = false) (hinge link : Nat) (u : State) :
    frameAdmit hinge link f u =
      if alreadyApplied u h.srcSeat h.vc h.seq then (if acksSent u then sendAck h.srcSeat h.vc h.pathEpoch u else u)
      else if inWindow u h.srcSeat h.vc h.seq = false then sendNack h 5 hinge (ctrInc (hingeCtr hinge 10) u)
      else if rxFull u hinge f then ctrInc (hingeCtr hinge 11) u
      else if u.kft.ingress.any (RxChunk.is h.srcSeat h.vc h.seq) ||
        u.kft.flags.any (fun g => decide (h.vc = 4 ∧ g.src = h.srcSeat ∧ g.seq = h.seq)) then u
      else if h.chunkCrc ≠ crc32c f.payload then sendNack h 1 hinge u
      else if regionHolds u h f.payload.length = false then sendNack h 2 hinge u
      else ingressAdd { hinge := hinge, link := link, pcp := f.pcp % 8, hdr := h, payload := f.payload } u := by
  subst hh
  simp only [frameAdmit, hack, Bool.false_eq_true, if_false]

/-- A chunk of region 0 or of a message, where nothing has applied it before. -/
theorem exec_kftChunkApply {s : State} (hlost : s.rst.rootLost = false) {src vc seq : Nat} {x : RxChunk}
    (hfind : s.kft.ingress.find? (RxChunk.is src vc seq) = some x) (io : Io) :
    exec (.kftChunkApply src vc seq io) s = .next (if alreadyApplied s src vc seq then ingressDrop src vc seq s
      else if appliesNow s x then chunkApply x io s else s) := by
  rw [exec, execKftChunkApply, live_next hlost, hfind]

theorem RxChunk.is_iff {src vc seq : Nat} {x : RxChunk} :
    x.is src vc seq = true ↔ x.hdr.srcSeat = src ∧ x.hdr.vc = vc ∧ x.hdr.seq = seq := by
  simp [RxChunk.is]

/-- Settles O53: a frame check by check, and a chunk by its region. -/
theorem frameReceiveAndApplyComplete : Obligations.FrameReceiveAndApplyComplete := by
  unfold Obligations.FrameReceiveAndApplyComplete
  intro hinge link f src vc seq io s hlost h u got c
  refine ⟨fun hout => ?_, fun hhinge hlink hdom => ?_, fun hnone => ?_, fun x hfind => ⟨fun happ => ?_, fun hnew => ?_⟩⟩
  · show exec _ s = .next s
    rw [exec, execKftFrameReceive, live_next hlost, if_neg]
    rintro ⟨hhinge, hlink, hdom⟩
    obtain h8 | h4 | hserv := hout
    · omega
    · omega
    · exact hserv hdom
  · have hu : Writes [.counters] s u := frameCounted_writes hinge link f s
    have hkft : u.kft = s.kft := hu.same .kft (by decide)
    have hexec := exec_kftFrameReceive hlost hhinge hlink hdom f
    have hadmit := fun hack => frameAdmit_plain (f := f) (h := h) rfl hack hinge (4 * hinge + link) u
    replace hexec : exec (.kftFrameReceive hinge link f) s = .next
      (if isPause f then ctrInc (hingeCtr hinge 12) u
        else match frameBad u hinge f with
        | some k => ctrInc (hingeCtr hinge k) u
        | none =>
          if f.ethertype = 0x88F7 then u
          else if h.vc = 0 then pnSeen f u
          else match jobBad u f with
            | some k => ctrInc (hingeCtr hinge k) (if k = 8 then stateDrop f u else u)
            | none => if isCtl h then u else frameAdmit hinge (4 * hinge + link) f u) := hexec
    refine ⟨fun hpause => ?_, fun k hpause hbad => ?_, fun hpause hbad => ?_⟩
    · rw [if_pos hpause] at hexec
      exact hexec
    · simp only [hpause, hbad, Bool.false_eq_true, if_false] at hexec
      exact hexec
    · simp only [hpause, hbad, Bool.false_eq_true, if_false] at hexec
      refine ⟨fun hptp => ?_, fun hptp hmgmt => ?_, fun hptp hmgmt => ?_⟩
      · rw [if_pos hptp] at hexec
        exact hexec
      · rw [if_neg hptp, if_pos hmgmt] at hexec
        exact hexec
      rw [if_neg hptp, if_neg hmgmt] at hexec
      refine ⟨fun k hjob h8 => ?_, fun hjob => ?_, fun hjob hctl => ?_, fun hjob hctl hack => ?_⟩
      · simp only [hjob, h8, if_false] at hexec
        exact hexec
      · simp only [hjob, if_true] at hexec
        exact hexec
      · simp only [hjob, hctl, if_true] at hexec
        exact hexec
      simp only [hjob, hctl, Bool.false_eq_true, if_false, hadmit hack] at hexec
      refine ⟨fun hdup => ⟨fun hacks => ?_, fun hacks => ?_⟩, fun hnew => ⟨fun hwin => ?_, fun hwin => ⟨fun hfull => ?_, fun hfull hin hflags => ?_⟩⟩⟩
      · rw [if_pos hdup, if_pos hacks] at hexec
        exact hexec
      · rw [if_pos hdup, if_neg (by simp [hacks])] at hexec
        exact hexec
      · rw [if_neg (by simp [hnew]), if_pos hwin] at hexec
        exact hexec
      · rw [if_neg (by simp [hnew]), if_neg (by simp [hwin]), if_pos hfull] at hexec
        exact hexec
      have hnot : ¬ (u.kft.ingress.any (RxChunk.is h.srcSeat h.vc h.seq) ||
          u.kft.flags.any (fun g => decide (h.vc = 4 ∧ g.src = h.srcSeat ∧ g.seq = h.seq))) = true := by
        rw [hkft, hflags]
        simpa using hin
      rw [if_neg (by simp [hnew]), if_neg (by simp [hwin]), if_neg (by simp [hfull]), if_neg hnot] at hexec
      refine ⟨fun hcrc => ?_, fun hcrc hregion => ?_, fun hcrc hregion => ?_⟩
      · rw [if_pos hcrc] at hexec
        exact hexec
      · rw [if_neg (not_not.2 hcrc), if_pos hregion] at hexec
        exact hexec
      · rw [if_neg (not_not.2 hcrc), if_neg (by simp [hregion])] at hexec
        obtain ⟨hw, hjoined, hcell⟩ := ingressAdd_joins c u
        have hall : Writes [.kft, .carafe, .counters, .pfcSent] s (ingressAdd c u) := .after hw hu.mono
        refine ⟨_, hexec, ?_, ?_, hcell, hall.same .job (by decide), hall.same .slots (by decide),
          hall.same .hostMem (by decide), hall.same .sp (by decide)⟩
        · rw [hjoined, hkft]
        · rw [hjoined, hkft]
  · rw [exec, execKftChunkApply, live_next hlost, hnone]
  · rw [exec_kftChunkApply hlost hfind, if_pos happ]
  · have hexec := exec_kftChunkApply hlost hfind
    have hx : x.hdr.srcSeat = src ∧ x.hdr.vc = vc ∧ x.hdr.seq = seq := RxChunk.is_iff.1 (List.find?_some hfind)
    obtain ⟨rfl, rfl, rfl⟩ := hx
    simp only [hnew, Bool.false_eq_true, if_false] at hexec
    refine ⟨fun hnow => by rw [hexec, if_neg (by simp [hnow])], fun hnow => by rw [hexec, if_pos hnow],
      fun w hnow hvc hregion hwrite => ?_, fun hnow hvc hregion hone hmsgs => ?_⟩
    · replace hexec := hexec .ok
      rw [if_pos hnow, chunkApply_tile hregion, chunkWrite_ok hwrite] at hexec
      obtain ⟨_, _, _, _, _, hframe⟩ := (hostWrite_frame ..).1 _ hwrite
      obtain ⟨hdone, hgone, -, hcum⟩ := applyWith_applied (drop := ingressDrop) (seq := x.hdr.seq)
        (ingressDrop_writes x.hdr.srcSeat x.hdr.vc x.hdr.seq) (by omega) w
      have hrx : w.kft.rx = s.kft.rx := by rw [hframe]
      rw [rxSpace_congr hrx] at hcum
      refine ⟨_, hexec, hdone.same .hostMem (by decide), hgone, ?_, ?_, hcum⟩
      · exact (hdone.same .job (by decide)).trans (by rw [hframe])
      · exact (hdone.same .slots (by decide)).trans (by rw [hframe])
    · replace hexec := hexec io
      rw [if_pos hnow, chunkApply_message hregion] at hexec
      obtain ⟨htake, hinbox⟩ := messageTake_whole (s := s) hone (fun y hy => hvc ▸ hmsgs y hy)
      obtain ⟨hdone, hgone, hkept, -⟩ := applyWith_applied (drop := ingressLeave) (src := x.hdr.srcSeat) (seq := x.hdr.seq)
        (vc := x.hdr.vc) (fun _ => .refl _ _) (by omega) (messageTake x s)
      have hall : Writes applyFields s _ := .after hdone htake.mono
      refine ⟨_, hexec, hgone, hall.same .hostMem (by decide), hall.same .job (by decide), hall.same .slots (by decide), ?_⟩
      rw [hkept, hinbox, hvc]

end Sys2Proof.Machine
end

section
/-! PROOFS. Acknowledgements, nacks, retransmission and path timers (R258 to R264). -/

namespace Sys2Proof.Machine

-- One declaration at a time: see the frames of the state's operations.
set_option Elab.async false

/-! ### Coverage of a transmit space (R260) -/

theorem serialLt_asymm {a b : Nat} (h : serialLt 32 a b = true) : serialLt 32 b a = false := by
  simp only [serialLt, decide_eq_true_eq, decide_eq_false_iff_not] at h ⊢
  omega

theorem txSpace_space (s : State) (seat vc : Nat) : (txSpace s seat vc).seat = seat ∧ (txSpace s seat vc).vc = vc := by
  unfold txSpace
  split
  · next t ht => simpa using List.find?_some ht
  · exact ⟨rfl, rfl⟩

theorem txSpace_setTx {t : TxSpace} {seat vc : Nat} (hseat : t.seat = seat) (hvc : t.vc = vc) (s : State) :
    txSpace (setTx t s) seat vc = t := by
  simp [txSpace, setTx, hseat, hvc]

theorem covered_congr {s t : State} (h : t.kft.tx = s.kft.tx) (seat vc seq : Nat) : covered t seat vc seq = covered s seat vc seq := by
  rw [covered, covered, txSpace_congr h]

/-- The step of the fences leaves the transmit spaces and the chunks. -/
theorem fenceCheck_kft (s : State) : (fenceCheck s).kft.tx = s.kft.tx ∧ (fenceCheck s).kft.unacked = s.kft.unacked := by
  rw [fenceCheck_eq, foldl_fenceStep_kft]
  exact ⟨rfl, rfl⟩

theorem Pumped.tx {s t : State} (h : Pumped s t) : t.kft.tx = s.kft.tx := by
  obtain ⟨⟨_, _, _, _, _, _, _, rfl⟩, -⟩ := h
  rfl

/-- The cumulative point moves on within what was sent, and no chunk that is covered stays. -/
theorem takeCoverage_covers (seat vc cum : Nat) (sacks : List Nat) (s : State) :
    (txSpace (takeCoverage seat vc cum sacks s) seat vc).ack =
      (if serialLt 32 (txSpace s seat vc).ack cum && serialLt 32 cum (txSpace s seat vc).next then cum else (txSpace s seat vc).ack) ∧
    (∀ y ∈ (takeCoverage seat vc cum sacks s).kft.unacked, y.hdr.dstSeat = seat → y.hdr.vc = vc →
      covered (takeCoverage seat vc cum sacks s) seat vc y.hdr.seq = false) := by
  unfold takeCoverage
  extract_lets t ack sk new s₁ left _ s₂
  obtain ⟨htx, hunacked⟩ := fenceCheck_kft (pumpTx s₂)
  have hpump := pumpTx_pumped s₂
  replace htx : (fenceCheck (pumpTx s₂)).kft.tx = s₁.kft.tx := htx.trans hpump.tx
  refine ⟨?_, fun y hy hseat hvc => ?_⟩
  · obtain ⟨hspace, hchannel⟩ := txSpace_space s seat vc
    rw [txSpace_congr htx]
    exact congrArg TxSpace.ack (txSpace_setTx (t := { t with ack := ack, sacks := sk }) hspace hchannel s)
  · have hkey : y.key ∈ s₂.kft.unacked.map (·.key) := by
      rw [← hpump.2.1, ← hunacked]
      exact List.mem_map_of_mem hy
    obtain ⟨z, hz, hzy⟩ := List.mem_map.1 hkey
    obtain ⟨x, hx, hxz⟩ := List.mem_map.1 hz
    have hxy : x.key = y.key := by
      rw [← hzy, ← hxz]
      split_ifs <;> rfl
    rw [key_eq_iff.2 ⟨hseat, hvc, rfl⟩, key_eq_iff] at hxy
    obtain ⟨hxs, hxv, hxq⟩ := hxy
    have hleft := (List.mem_filter.1 hx).2
    simp only [hxs, hxv, hxq, and_self, decide_true, Bool.true_and, Bool.not_eq_eq_eq_not, Bool.not_true] at hleft
    rw [covered_congr htx, hleft]

theorem takeCoverage_writes (seat vc cum : Nat) (sacks : List Nat) (s : State) :
    Writes [.job, .kft, .latch, .drip, .counters] s (takeCoverage seat vc cum sacks s) := by
  unfold takeCoverage
  extract_lets t ack sk new s₁ left _ s₂
  have hset : Writes [.kft] s s₂ := .of_mix rfl
  exact .after (fenceCheck_fencesOnly _).writes (.after (pumpTx_writes s₂) hset.mono)

/-! ### Acknowledgement frames (R259) -/

theorem placeCtl_hdr (s : State) (w : CtlWait) : (placeCtl s w).2.hdr = w.hdr := by
  unfold placeCtl
  split
  · rfl
  · extract_lets p
    split <;> rfl

/-- The last frame that waits goes out, or waits on. -/
theorem pumpCtl_last {l : List CtlWait} {w : CtlWait} {s : State} (h : s.kft.ctlWait = l ++ [w]) :
    (∃ k n, { w.hdr with pathId := k, ktLo := n } ∈ (pumpCtl s).kft.ctl) ∨ ∃ v ∈ (pumpCtl s).kft.ctlWait, v.hdr = w.hdr := by
  unfold pumpCtl
  rw [h, List.foldl_append, List.foldl_cons, List.foldl_nil]
  dsimp only
  have hwaits (x : State) : ∃ v ∈ x.kft.ctlWait ++ [(placeCtl x w).2], v.hdr = w.hdr :=
    ⟨_, List.mem_append_right _ (List.mem_singleton_self _), placeCtl_hdr ..⟩
  split
  · split_ifs
    · exact .inl ⟨_, _, List.mem_append_right _ (List.mem_singleton_self _)⟩
    · exact .inr ⟨_, List.mem_append_right _ (List.mem_singleton_self _), placeCtl_hdr ..⟩
  · exact .inr ⟨_, List.mem_append_right _ (List.mem_singleton_self _), placeCtl_hdr ..⟩

/-- What a space owes after its ack frame: what the frame cannot report. -/
def acked (t : RxSpace) : RxSpace :=
  { t with owed := (owedAfter t).filter fun q => decide (128 < (q + 2 ^ 32 - t.cum) % 2 ^ 32) }

theorem rxSpace_sendAck (seat vc epoch : Nat) (s : State) : rxSpace (sendAck seat vc epoch s) seat vc = acked (rxSpace s seat vc) := by
  unfold sendAck
  extract_lets t b
  obtain ⟨hseat, hvc⟩ := rxSpace_space s seat vc
  rw [rxSpace_congr (sendCtl_ctlOnly ..).rx]
  exact rxSpace_setRx (t := acked t) hseat hvc s

/-- The header of an ack or nack frame as it goes out. -/
def ctlHdr (h : KftHdr) (s : State) : KftHdr :=
  { h with vc := 5, region := 0, jobTag := s.job.tag, partKey := getP s 0x0340, srcSeat := getP s 0x0001 }

/-- Outside replay, an ack or nack frame goes out, or waits for a link. -/
theorem sendCtl_frame {s : State} (hreplay : replayOn s = false) (h : KftHdr) :
    (∃ k n, { ctlHdr h s with pathId := k, ktLo := n } ∈ (sendCtl h s).kft.ctl) ∨
      ∃ w ∈ (sendCtl h s).kft.ctlWait, w.hdr = ctlHdr h s := by
  rw [sendCtl, if_neg (by rw [hreplay]; exact Bool.false_ne_true)]
  exact pumpCtl_last (l := s.kft.ctlWait) (w := { hdr := ctlHdr h s, placed := none }) rfl

/-- Outside replay, an ack frame of the space's cumulative point goes out, or waits for a link. -/
theorem sendAck_frame {s : State} (hreplay : replayOn s = false) (seat vc epoch : Nat) :
    ∃ a, (a ∈ (sendAck seat vc epoch s).kft.ctl ∨ ∃ w ∈ (sendAck seat vc epoch s).kft.ctlWait, w.hdr = a) ∧ a.op = 3 ∧
      a.dstSeat = seat ∧ a.ackVc = vc ∧ a.ackSeq = (rxSpace s seat vc).cum := by
  unfold sendAck
  extract_lets t b
  obtain ⟨k, n, hmem⟩ | ⟨v, hmem, hhdr⟩ := sendCtl_frame (s := setRx (acked t) s) hreplay
    { KftHdr.blank with op := 3, dstSeat := seat, ackSeq := t.cum, ackVc := vc, ackValid := true, operand0 := b % 2 ^ 64,
                        operand1 := b / 2 ^ 64, pathEpoch := epoch }
  · exact ⟨_, .inl hmem, rfl, rfl, rfl, rfl⟩
  · exact ⟨_, .inr ⟨v, hmem, hhdr⟩, rfl, rfl, rfl, rfl⟩

/-! ### A chunk by its key -/

theorem chunkAt_some {s : State} {d v q : Nat} {c : TxChunk} (h : chunkAt s d v q = some c) :
    c ∈ s.kft.unacked ∧ c.key = (d, v, q) :=
  ⟨List.mem_of_find?_eq_some h, key_eq_iff.2 (by simpa using List.find?_some h)⟩

theorem chunkAt_of_key {s : State} {d v q : Nat} (h : (d, v, q) ∈ s.kft.unacked.map (·.key)) :
    ∃ y, chunkAt s d v q = some y := by
  obtain ⟨x, hx, hkey⟩ := List.mem_map.1 h
  exact Option.isSome_iff_exists.1 (List.find?_isSome.2 ⟨x, hx, decide_eq_true (key_eq_iff.1 hkey)⟩)

theorem Pumped.chunkAt {s t : State} (h : Pumped s t) {d v q : Nat} {c : TxChunk} (hc : chunkAt s d v q = some c) :
    ∃ y, Machine.chunkAt t d v q = some y := by
  obtain ⟨hmem, hkey⟩ := chunkAt_some hc
  refine chunkAt_of_key ?_
  rw [h.2.1, ← hkey]
  exact List.mem_map_of_mem hmem

theorem chunkAt_putChunk {s : State} {d v q : Nat} {x y : TxChunk} (hx : chunkAt s d v q = some x) (hy : y.key = (d, v, q)) :
    chunkAt (putChunk y s) d v q = some y := by
  obtain ⟨z, hz⟩ := (putChunk_pumped y s).chunkAt hx
  obtain ⟨hmem, hkey⟩ := chunkAt_some hz
  rw [putChunk_unacked] at hmem
  obtain ⟨w, -, hw⟩ := List.mem_map.1 hmem
  split_ifs at hw with hsame
  · rw [hz, ← hw]
  · rw [← hw, ← hy] at hkey
    exact absurd hkey hsame

/-! ### Retransmission (R260 to R263) -/

theorem missCount_frame (link dst : Nat) (s : State) : ∃ misses unusable paths,
    missCount link dst s = { s with kft := { s.kft with misses := misses, unusable := unusable, paths := paths } } := by
  unfold missCount spraySet
  extract_lets old times rest
  split_ifs <;> exact ⟨_, _, _, rfl⟩

/-- The chunk `c` waits to be sent again, or has been, at `kt` and under `wait`. -/
def Resent (c : TxChunk) (kt wait : Nat) (y : TxChunk) : Prop :=
  y.payload = c.payload ∧ ((y.queued = true ∧ y.hdr = c.hdr ∧ y.tries = c.tries ∧ y.timeout = c.timeout) ∨
    (y.queued = false ∧ y.tries = c.tries + 1 ∧ y.lastKt = kt ∧ y.timeout = wait))

/-- The pump sends a waiting chunk once, with twice its timeout (R260, R261). -/
theorem pumpTx_resent {c : TxChunk} {s : State} (htries : 0 < c.tries)
    (h : ∀ x ∈ s.kft.unacked, x.key = c.key → Resent c s.kt (min (2 * c.timeout) (8 * ticksOf (curP s 0x0345))) x) :
    ∀ x ∈ (pumpTx s).kft.unacked, x.key = c.key → Resent c s.kt (min (2 * c.timeout) (8 * ticksOf (curP s 0x0345))) x := by
  have hpumped := chunksPlaced_pumped s
  rw [pumpTx_eq]
  refine chunksSent_forall (chunksPlaced_forall h fun x k hx hqueued _ hkey => ?_) fun x k hx hqueued _ hsame hkey => ?_
  · obtain ⟨hpayload, ⟨-, hkept⟩ | ⟨hsent, -⟩⟩ := hx hkey
    · exact ⟨hpayload, .inl ⟨hqueued, hkept⟩⟩
    · rw [hsent] at hqueued
      cases hqueued
  · obtain ⟨hpayload, ⟨-, -, ht, hw⟩ | ⟨hsent, -⟩⟩ := hx (hsame ▸ hkey)
    · refine ⟨hpayload, .inr ⟨rfl, congrArg (· + 1) ht, hpumped.kt, ?_⟩⟩
      rw [TxChunk.wentOut, if_neg (by omega), hw, curP_pumped hpumped]
    · rw [hsent] at hqueued
      cases hqueued

/-- A chunk with no link to take stays where it waits (R261, R283). -/
theorem pumpTx_waits {c : TxChunk} {s : State}
    (h : ∀ x ∈ s.kft.unacked, x.key = c.key → x.queued = true ∧ x.placed = false ∧ chunkLinks s x = []) :
    ∀ x ∈ (pumpTx s).kft.unacked, x.key = c.key → x.queued = true := by
  rw [pumpTx_eq]
  have hplaced := chunksPlaced_forall h fun x k hx _ hlinks hkey => absurd (hx hkey).2.2 hlinks
  exact fun x hx hkey => (chunksSent_forall hplaced (fun y k hy hqueued hout hsame hkey => by
    rw [(hy (hsame ▸ hkey)).2.1] at hout
    cases hout) x hx hkey).1

theorem placeChunk_takes {s : State} {c : TxChunk} {k : Nat} (hsent : 0 < c.tries)
    (hk : nextLink (chunkLinks s c) (pathOf s c.hdr.dstSeat).last (some c.link) = some k) :
    (placeChunk s c).kft.unacked = (putChunk { c with link := k, placed := true } s).kft.unacked := by
  have hnext : nextLink (chunkLinks s c) (pathOf s c.hdr.dstSeat).last (if c.tries = 0 then none else some c.link) = some k := by
    rw [if_neg (by omega), hk]
  rw [placeChunk, if_pos (by simp [windowAdmits, hsent])]
  dsimp only
  rw [hnext]
  rfl

/-- The one chunk that waits, with nothing ahead of it, takes the next link of its rotation (R260, R262). -/
theorem pumpTx_takes {s : State} {c : TxChunk} {k : Nat} (hctl : s.kft.ctlWait = [])
    (hone : s.kft.unacked.filter (fun x => x.queued && !x.placed) = [c]) (hsent : 0 < c.tries)
    (hk : nextLink (chunkLinks s c) (pathOf s c.hdr.dstSeat).last (some c.link) = some k) :
    ∀ x ∈ (pumpTx s).kft.unacked, x.key = c.key → x.link = k := by
  have hstill : pumpCtl s = s := by
    have hsame : pumpCtl s = { s with kft := { s.kft with ctlWait := [] } } := by rw [pumpCtl, hctl]; rfl
    rw [hsame, ← hctl]
  have hplaced : ∀ x ∈ (chunksPlaced s).kft.unacked, x.key = c.key → x.link = k := by
    rw [chunksPlaced, hone, hstill, List.foldl_cons, List.foldl_nil, placeChunk_takes hsent hk, putChunk_unacked]
    intro x hx hkey
    obtain ⟨y, -, rfl⟩ := List.mem_map.1 hx
    split_ifs at hkey ⊢ with hsame
    · rfl
    · exact absurd hkey hsame
  rw [pumpTx_eq]
  exact chunksSent_forall hplaced fun x n hx _ _ hsame hkey => hx (hsame ▸ hkey)

theorem noLinkTry_pumped (dst vc seq : Nat) (s : State) : Pumped s (noLinkTry dst vc seq s) := by
  unfold noLinkTry
  split
  · split_ifs
    · exact putChunk_pumped ..
    · exact .refl s
  · exact .refl s

/-- A chunk that has no link counts a transmission; another stays as it is (R261, R283). -/
theorem noLinkTry_at {s : State} {d v q : Nat} {y : TxChunk} (hy : chunkAt s d v q = some y) :
    ∃ z, chunkAt (noLinkTry d v q s) d v q = some z ∧ z.payload = y.payload ∧ z.link = y.link ∧ z.queued = y.queued ∧
      (y.queued = false → z = y) ∧
      (y.queued = true → chunkLinks s y = [] →
        z.tries = y.tries + 1 ∧ z.timeout = min (2 * y.timeout) (8 * ticksOf (curP s 0x0345))) := by
  unfold noLinkTry
  rw [hy]
  dsimp only
  split_ifs with hnone
  · exact ⟨_, chunkAt_putChunk hy (chunkAt_some hy).2, rfl, rfl, rfl, fun hq => by simp [hq] at hnone, fun _ _ => ⟨rfl, rfl⟩⟩
  · exact ⟨y, hy, rfl, rfl, rfl, fun _ => rfl, fun hq hl => absurd ⟨hq, hl⟩ hnone⟩

/-- A chunk that is to be sent again (R260). -/
def TxChunk.requeued (c : TxChunk) : TxChunk := { c with queued := true, placed := false, again := false }

theorem resend_requeues {s : State} {c : TxChunk} (hmore : exhausted s c = false) : resend c s = pumpTx (putChunk c.requeued s) := by
  have hone : resend c s = pumpTx (requeue c s) := rfl
  rw [hone, requeue, if_neg (by rw [hmore]; exact Bool.false_ne_true)]
  rfl

/-- What is put is all that its key has. -/
theorem putChunk_only (c : TxChunk) (s : State) : ∀ x ∈ (putChunk c s).kft.unacked, x.key = c.key → x = c := by
  intro x hx hkey
  rw [putChunk_unacked] at hx
  obtain ⟨y, -, rfl⟩ := List.mem_map.1 hx
  split_ifs at hkey ⊢ with hsame
  · rfl
  · exact absurd hkey hsame

/-- Of chunks none of which waited, the one put back waits alone. -/
theorem putChunk_waits_alone {s : State} {c : TxChunk} (hnot : ∀ x ∈ s.kft.unacked, x.queued = false)
    (hone : s.kft.unacked.filter (fun x => decide (x.key = c.key)) = [c]) :
    (putChunk c.requeued s).kft.unacked.filter (fun x => x.queued && !x.placed) = [c.requeued] := by
  have hsame : c.requeued.key = c.key := rfl
  rw [putChunk_unacked, hsame, List.filter_map, List.filter_congr (q := fun x => decide (x.key = c.key)), hone]
  · simp
  · intro x hx
    dsimp only [Function.comp]
    split_ifs with hkey
    · simp [TxChunk.requeued, hkey]
    · simp [hnot x hx, hkey]

/-- The links of a chunk rest on its header and its kind byte. -/
theorem chunkLinks_congr {c y : TxChunk} (hhdr : y.hdr = c.hdr) (hpayload : y.payload = c.payload) (s : State) :
    chunkLinks s y = chunkLinks s c := by
  obtain ⟨⟩ := c
  obtain ⟨⟩ := y
  cases hhdr
  cases hpayload
  rfl

/-- A change of the spray set moves the destination's epoch where the link is Up (R264). -/
theorem spraySet_frame (link dst : Nat) (s : State) : (spraySet link dst s).kft.unusable = s.kft.unusable ∧
    (spraySet link dst s).links = s.links ∧ (spraySet link dst s).job = s.job ∧ (pathOf (spraySet link dst s) dst).epoch =
      (if link ∈ upLinks s then ((pathOf s dst).epoch + 1) % 256 else (pathOf s dst).epoch) := by
  have hself := pathOf_setPath_self { pathOf s dst with epoch := ((pathOf s dst).epoch + 1) % 256 } s
  rw [show ({ pathOf s dst with epoch := ((pathOf s dst).epoch + 1) % 256 } : Path).dst = dst from pathOf_dst s dst] at hself
  unfold spraySet
  by_cases hup : link ∈ upLinks s
  · rw [if_pos (by simpa using hup), if_pos hup]
    exact ⟨rfl, rfl, rfl, congrArg Path.epoch hself⟩
  · rw [if_neg (by simpa using hup), if_neg hup]
    exact ⟨rfl, rfl, rfl, rfl⟩

/-! ### O54 -/

theorem acksSent_job {s : State} (h : acksSent s = true) : s.job.st ≠ .closed ∧ s.job.st ≠ .faulted := by
  constructor <;> intro hst <;> simp [acksSent, hst] at h

/-- What a nack does at its chunk (R258). -/
theorem exec_kftNackReceive {s : State} (hlost : s.rst.rootLost = false) (hsent : acksSent s = true) {h : KftHdr}
    (hseat : (others s).contains h.srcSeat = true) (hack : h.ackValid = false) :
    exec (.kftNackReceive h) s = .next (match chunkAt s h.srcSeat h.ackVc (h.operand0 % 2 ^ 32) with
      | none => ctrInc (hingeCtr (bits h.pathId 4 2) 19) s
      | some c => nackAct c h.nackCode (ctrInc (hingeCtr (bits h.pathId 4 2) 19) s)) := by
  rw [exec, execKftNackReceive, live_next hlost, if_pos ⟨hsent, hseat⟩]
  dsimp only
  rw [if_neg (by rw [hack]; exact Bool.false_ne_true)]
  rfl

theorem exec_kftRetransmitTimeout {s : State} (hlost : s.rst.rootLost = false) {dst vc seq : Nat} {c : TxChunk}
    (hc : chunkAt s dst vc seq = some c) (hfaulted : s.job.st ≠ .faulted) (hclosed : s.job.st ≠ .closed) (hsent : 0 < c.tries)
    (hmore : exhausted s c = false) : exec (.kftRetransmitTimeout dst vc seq) s =
      .next (noLinkTry dst vc seq (if c.queued then s else resend c (missCount c.link dst s))) := by
  rw [exec, execKftRetransmitTimeout, live_next hlost, hc]
  dsimp only
  rw [if_pos ⟨hfaulted, by simpa [jobExists] using hclosed, hsent⟩, if_neg (by rw [hmore]; exact Bool.false_ne_true)]

/-- A timeout queues its chunk for another link (R260, R261, R263). -/
theorem retransmit_queues {s : State} {dst vc seq : Nat} {c : TxChunk} (hc : chunkAt s dst vc seq = some c) (hsent : 0 < c.tries)
    (hmore : exhausted s c = false) :
    let u := missCount c.link dst s
    let t := noLinkTry dst vc seq (resend c u)
    let wait := min (2 * c.timeout) (8 * ticksOf (curP s 0x0345))
    Pumped u t ∧ ∃ y, chunkAt t dst vc seq = some y ∧ y.payload = c.payload ∧
      (y.queued = false → y.tries = c.tries + 1 ∧ y.lastKt = s.kt ∧ y.timeout = wait) ∧
      (chunkLinks u c = [] → y.queued = true ∧ y.tries = c.tries + 1 ∧ y.timeout = wait) ∧
      (∀ k, nextLink (chunkLinks u c) (pathOf u dst).last (some c.link) = some k → s.kft.ctlWait = [] →
        (∀ x ∈ s.kft.unacked, x.queued = false) →
        (s.kft.unacked.filter fun x => decide (x.hdr.dstSeat = dst ∧ x.hdr.vc = vc ∧ x.hdr.seq = seq)) = [c] → y.link = k) := by
  obtain ⟨misses, unusable, paths, hu⟩ := missCount_frame c.link dst s
  intro u t wait
  have hmore' : exhausted u c = false := by rw [show u = _ from hu]; exact hmore
  have hcu : chunkAt u dst vc seq = some c := by rw [show u = _ from hu]; exact hc
  obtain ⟨-, hkey⟩ := chunkAt_some hc
  have hkt : u.kt = s.kt := by rw [show u = _ from hu]
  have hcur : curP u 0x0345 = curP s 0x0345 := by rw [show u = _ from hu]; rfl
  have hrequeued := resend_requeues hmore'
  have hput := putChunk_only c.requeued u
  have hsame : c.requeued.key = c.key := rfl
  rw [hsame] at hput
  generalize hv : putChunk c.requeued u = v at hrequeued hput
  have huv : Pumped u v := hv ▸ putChunk_pumped ..
  have huw : Pumped u (resend c u) := hrequeued ▸ huv.trans (pumpTx_pumped v)
  obtain ⟨y, hy⟩ := huw.chunkAt hcu
  obtain ⟨hymem, hykey⟩ := chunkAt_some hy
  rw [hrequeued] at hymem
  rw [← hkey] at hykey
  obtain ⟨hpayload, hstate⟩ := pumpTx_resent hsent (fun x hx hk => by rw [hput x hx hk]; exact ⟨rfl, .inl ⟨rfl, rfl, rfl, rfl⟩⟩)
    y hymem hykey
  rw [huv.kt, hkt, curP_pumped huv, hcur] at hstate
  obtain ⟨z, hz, hzpayload, hzlink, hzqueued, hzkept, hztried⟩ := noLinkTry_at hy
  refine ⟨huw.trans (noLinkTry_pumped ..), z, hz, hzpayload.trans hpayload, fun hout => ?_, fun hnone => ?_, fun k hk hctl hnot hone => ?_⟩
  · rw [hzqueued] at hout
    rw [hzkept hout]
    obtain ⟨hq, -⟩ | ⟨-, hdone⟩ := hstate
    · rw [hq] at hout
      cases hout
    · exact hdone
  · have hqueued : y.queued = true := pumpTx_waits (fun x hx hk => by
      rw [hput x hx hk]
      exact ⟨rfl, rfl, (chunkLinks_pumped huv _).trans hnone⟩) y hymem hykey
    obtain ⟨-, hhdr, htries, htimeout⟩ | ⟨hq, -⟩ := hstate
    · have hlinks : chunkLinks (resend c u) y = [] := by
        rw [chunkLinks_pumped huw, chunkLinks_congr hhdr hpayload, hnone]
      obtain ⟨htz, hwz⟩ := hztried hqueued hlinks
      rw [curP_pumped huw, hcur, htimeout] at hwz
      exact ⟨hzqueued.trans hqueued, by rw [htz, htries], hwz⟩
    · rw [hq] at hqueued
      cases hqueued
  · have hdst : c.hdr.dstSeat = dst := (key_eq_iff.1 hkey).1
    have hwaiting : v.kft.unacked.filter (fun x => x.queued && !x.placed) = [c.requeued] := by
      have hunacked : u.kft.unacked = s.kft.unacked := by rw [show u = _ from hu]
      rw [← hunacked] at hnot hone
      rw [← hv]
      refine putChunk_waits_alone hnot ((List.filter_congr fun x _ => ?_).trans hone)
      rw [hkey, decide_eq_decide, key_eq_iff]
    have hctlv : v.kft.ctlWait = [] := by
      have : v.kft.ctlWait = u.kft.ctlWait := by rw [← hv]; rfl
      rw [this, show u = _ from hu]
      exact hctl
    have hpath : pathOf v dst = pathOf u dst := by rw [← hv]; rfl
    rw [hzlink]
    refine pumpTx_takes (c := c.requeued) hctlv hwaiting hsent ?_ y hymem hykey
    rw [chunkLinks_pumped huv, show c.requeued.hdr = c.hdr from rfl, hdst, hpath]
    exact hk

/-- Settles O54: an acknowledgement through its coverage, a nack by its code, and a timeout through the pump. -/
theorem acksNacksAndTimersComplete : Obligations.AcksNacksAndTimersComplete := by
  unfold Obligations.AcksNacksAndTimersComplete
  intro h dst vc seq link s hlost faults in_ n
  refine ⟨fun hno => ?_, fun hsent hseat => ⟨fun hack => ?_, fun hack => ?_, fun hack => ⟨fun hnone => ?_, fun c hc => ?_⟩⟩,
    fun hsent howed => ?_, fun hno => ?_, fun hnone => ?_, fun c hc hfaulted hclosed hsent hmore => ?_, fun hmarked => ?_, fun hnot => ?_⟩
  · have hnever : ¬ (acksSent s = true ∧ (others s).contains h.srcSeat = true) := by
      rintro ⟨hsent, hseat⟩
      rw [hsent, hseat] at hno
      simp at hno
    constructor
    · rw [exec, execKftAckReceive, live_next hlost, if_neg (fun hall => hnever ⟨hall.1, hall.2.1⟩)]
    · rw [exec, execKftNackReceive, live_next hlost, if_neg hnever]
  · rw [exec, execKftAckReceive, live_next hlost, if_neg (by simp [hack])]
  · intro v u
    have hv : Writes [.kft] s v := .ite (fun _ => .of_mix rfl) (fun _ => .refl _ s)
    have htx : v.kft.tx = s.kft.tx := by
      unfold v
      split_ifs <;> rfl
    have hexec : exec (.kftAckReceive h) s = .next (ackFollow h.srcSeat (fastResend h.srcSeat h.ackVc u)) := by
      rw [exec, execKftAckReceive, live_next hlost, if_pos ⟨hsent, hseat, hack⟩]
    have hu : u = takeCoverage h.srcSeat h.ackVc h.ackSeq (sackSeqs h.ackSeq h.operand0 h.operand1) v := rfl
    clear_value u v
    obtain ⟨hpoint, hleft⟩ := takeCoverage_covers h.srcSeat h.ackVc h.ackSeq (sackSeqs h.ackSeq h.operand0 h.operand1) v
    have hw := takeCoverage_writes h.srcSeat h.ackVc h.ackSeq (sackSeqs h.ackSeq h.operand0 h.operand1) v
    rw [← hu] at hpoint hleft hw
    rw [txSpace_congr htx] at hpoint
    replace hw : Writes [.job, .kft, .latch, .drip, .counters] s u := .after hw hv.mono
    refine ⟨hexec, fun hlow hhigh => ?_, fun hold => ?_, hleft, hw.same .slots (by decide), hw.same .hostMem (by decide),
      hw.same .sp (by decide)⟩
    · rw [hpoint, hlow, hhigh]
      rfl
    · rw [hpoint, serialLt_asymm hold]
      rfl
  · rw [exec_kftNackReceive hlost hsent hseat hack, hnone]
  · have hexec : exec (.kftNackReceive h) s = .next (nackAct c h.nackCode n) := by
      rw [exec_kftNackReceive hlost hsent hseat hack, hc]
    obtain ⟨hclosed, hfaulted⟩ := acksSent_job hsent
    refine ⟨fun hcode hmore => ?_, fun hcode hmost => ?_, fun hcode => ?_, fun hcode => ?_, fun hcode => ?_⟩
    · rw [hexec, nackAct, if_pos hcode]
      dsimp only
      rw [if_neg (by exact Nat.not_le.2 hmore)]
    · obtain ⟨hst, -, hunit, hdetail, -⟩ := jobFault_names (s := putChunk { c with crcNacks := c.crcNacks + 1 } n) hclosed hfaulted
        (0x20 + c.link / 4) 0x0406 0 Where.none
      refine ⟨_, ?_, hst, hunit, hdetail⟩
      rw [hexec, nackAct, if_pos hcode]
      dsimp only
      rw [if_pos (by exact hmost)]
    · obtain ⟨hst, -, hunit, hdetail, -⟩ := jobFault_names (s := n) hclosed hfaulted
        (0x20 + c.link / 4) 0x0401 (c.hdr.dstSeat % 65536) Where.none
      refine ⟨_, ?_, hst, hunit, hdetail⟩
      rw [hexec, nackAct, if_neg (by omega), if_pos hcode]
    · rw [hexec, nackAct, if_neg (by omega), if_neg (by omega), if_pos hcode]
    · rw [hexec, nackAct, if_neg (by omega), if_neg (by omega), if_neg (by omega)]
  · have hexec : exec (.kftAckDelayExpiry dst vc) s = .next (sendAck dst vc (rxSpace s dst vc).epoch s) := by
      rw [exec, execKftAckDelayExpiry, live_next hlost, if_pos ⟨hsent, howed⟩]
    have hspace := rxSpace_sendAck dst vc (rxSpace s dst vc).epoch s
    have hw := (sendAck_ackOnly dst vc (rxSpace s dst vc).epoch s).writes
    exact ⟨_, hexec, congrArg RxSpace.owed hspace, (congrArg RxSpace.cum hspace :), hw.same .job (by decide),
      hw.same .slots (by decide), hw.same .hostMem (by decide), fun hreplay => sendAck_frame hreplay ..⟩
  · rw [exec, execKftAckDelayExpiry, live_next hlost, if_neg]
    rintro ⟨hsent, howed⟩
    obtain hoff | hnone := hno
    · rw [hsent] at hoff
      cases hoff
    · exact howed hnone
  · rw [exec, execKftRetransmitTimeout, live_next hlost, hnone]
  · intro u wait
    have hexec := exec_kftRetransmitTimeout hlost hc hfaulted hclosed hsent hmore
    cases hqueued : c.queued
    · rw [hqueued, if_neg (by exact Bool.false_ne_true)] at hexec
      obtain ⟨hpumped, y, hy, hpayload, hout, hwaits, htakes⟩ := retransmit_queues hc hsent hmore
      have hframe : (missCount c.link dst s).job = s.job ∧ (missCount c.link dst s).slots = s.slots ∧
          (missCount c.link dst s).hostMem = s.hostMem := by
        obtain ⟨_, _, _, hu⟩ := missCount_frame c.link dst s
        rw [hu]
        exact ⟨rfl, rfl, rfl⟩
      obtain ⟨⟨_, _, _, _, _, _, _, heq⟩, -⟩ := hpumped
      refine ⟨_, hexec, ?_, ?_, ?_, y, hy, hpayload, fun _ => ⟨hout, hwaits, htakes⟩⟩
      · rw [heq]
        exact hframe.1
      · rw [heq]
        exact hframe.2.1
      · rw [heq]
        exact hframe.2.2
    · rw [hqueued, if_pos rfl] at hexec
      obtain ⟨y, hy, hpayload, -⟩ := noLinkTry_at hc
      obtain ⟨⟨_, _, _, _, _, _, _, heq⟩, -⟩ := noLinkTry_pumped dst vc seq s
      refine ⟨_, hexec, ?_, ?_, ?_, y, hy, hpayload, fun hq => (by cases hq)⟩
      all_goals rw [heq]
  · have hexec : exec (.pathHoldoffExpiry link dst) s = .next (pumpTx (spraySet link dst
        { s with kft := { s.kft with unusable := s.kft.unusable.filter fun x => decide (x ≠ (link, dst)) } })) := by
      rw [exec, execPathHoldoffExpiry, live_next hlost, if_pos hmarked]
    have hpumped := pumpTx_pumped (spraySet link dst
      { s with kft := { s.kft with unusable := s.kft.unusable.filter fun x => decide (x ≠ (link, dst)) } })
    obtain ⟨hmarks, hlinks, hjob, hepoch⟩ := spraySet_frame link dst
      { s with kft := { s.kft with unusable := s.kft.unusable.filter fun x => decide (x ≠ (link, dst)) } }
    refine ⟨_, hexec, fun x => ?_, (hpumped.2.2 dst).trans hepoch, ?_, ?_⟩
    all_goals obtain ⟨⟨_, _, _, _, _, _, _, heq⟩, -⟩ := hpumped
    · rw [heq]
      dsimp only
      rw [hmarks, List.mem_filter, decide_eq_true_eq]
    · rw [heq]
      exact hjob
    · rw [heq]
      exact hlinks
  · rw [exec, execPathHoldoffExpiry, live_next hlost, if_neg (by rw [hnot]; exact Bool.false_ne_true)]

end Sys2Proof.Machine
end

section
/-! PROOFS. Links and lanes (R49 to R53, R248, R252, R263, R264, R267). -/

namespace Sys2Proof.Machine

-- One declaration at a time: see the frames of the state's operations.
set_option Elab.async false

/-! ### What sending counts (R491) -/

/-- A counter that no frame's going out counts on. -/
def NotSent (i : Nat) : Prop := ∀ p, i ≠ hingeCtr p 13 ∧ i ≠ hingeCtr p 15 ∧ i ≠ hingeCtr p 17

theorem notSent_downs (p : Nat) : NotSent (hingeCtr p 21) := by
  intro q
  unfold hingeCtr
  omega

theorem ctr_frameOut_ne {i : Nat} (h : NotSent i) (k : Nat) (f : KftHdr) (n : Nat) (s : State) : ctr (frameOut k f n s) i = ctr s i := by
  obtain ⟨h13, h15, -⟩ := h (k / 4)
  unfold frameOut
  rw [ctr_ctrInc_ne h13, ctr_ctrAdd_ne h15]
  rfl

theorem ctr_pumpCtl_ne {i : Nat} (h : NotSent i) (s : State) : ctr (pumpCtl s) i = ctr s i := by
  have hplace (t : State) (w : CtlWait) : ctr (placeCtl t w).1 i = ctr t i := by
    unfold placeCtl
    split
    · rfl
    · extract_lets p
      split <;> rfl
  refine ctr_foldl (fun t w => ?_) _ _
  refine Eq.trans ?_ (hplace t w)
  dsimp only
  split
  · split_ifs
    · exact (ctr_frameOut_ne h ..).trans rfl
    · rfl
  · rfl

theorem ctr_transmit_ne {i : Nat} (h : NotSent i) (c : TxChunk) (s : State) : ctr (transmit c s) i = ctr s i := by
  unfold transmit
  extract_lets dst _ r rto framed counted
  have hcarried : ctr r.1 i = ctr s i := by
    unfold r carryAck
    split <;> rfl
  have hframed : ctr framed i = ctr s i := (ctr_frameOut_ne h ..).trans hcarried
  have hcounted : ctr counted i = ctr framed i := by
    unfold counted
    split_ifs
    · rfl
    · exact ctr_ctrInc_ne (h _).2.2 _
  exact hcounted.trans hframed

theorem ctr_pumpTx_ne {i : Nat} (h : NotSent i) (s : State) : ctr (pumpTx s) i = ctr s i := by
  have hplace (t : State) (c : TxChunk) : ctr (placeChunk t c) i = ctr t i := by
    unfold placeChunk
    split
    · extract_lets p
      split <;> rfl
    · rfl
  rw [pumpTx_eq, chunksSent, ctr_foldl (fun t p => ctr_foldl (fun u c => ctr_transmit_ne h c u) _ t), chunksPlaced,
    ctr_foldl hplace, ctr_pumpCtl_ne h]

theorem ctr_resendLink_ne {i : Nat} (h : NotSent i) (h19 : i ≠ 19) (h44 : i ≠ 44) (h896 : i < 896) (k : Nat) (s : State) :
    ctr (resendLink k s) i = ctr s i := by
  unfold resendLink
  rw [ctr_pumpTx_ne h, ctr_foldl (fun t c => ?_)]
  · rfl
  · unfold requeue
    split_ifs
    · exact ctr_jobFault_ne h19 h44 h896 ..
    · rfl

/-! ### The events that are not fatal (R77 to R82) -/

/-- A fatal event leaves the others. -/
theorem evSend_other {e : Event} (hfatal : e.fatal = true) (s : State) : (evSend e s).ev.other = s.ev.other := by
  simp only [evSend, evQueue, hfatal, if_true, dripAt_ev]
  split_ifs <;> rfl

theorem jobFault_other (unit status detail : Nat) (w : Where) (s : State) :
    (jobFault unit status detail w s).ev.other = s.ev.other := by
  have hsecond (e : Event) (t : State) : (secondary e t).ev = t.ev := (secondary_counts e t).1.same .ev (by decide)
  have hlog (k b : Nat) (t : State) : (logAdd k b t).ev = t.ev := (logAdd_writes k b t).same .ev (by decide)
  by_cases hclosed : s.job.st = .closed
  · simp only [jobFault, hclosed]
  by_cases hfaulted : s.job.st = .faulted
  · rw [jobFault, hfaulted]
    dsimp only
    split_ifs
    · rw [hsecond]
    · rw [hsecond]
  · rw [jobFault_first hclosed hfaulted]
    dsimp only
    rw [enterFaulted_ev, hlog]
    exact evSend_other rfl s

theorem requeue_other (c : TxChunk) (s : State) : (requeue c s).ev.other = s.ev.other := by
  unfold requeue
  split_ifs
  · exact jobFault_other ..
  · rfl

theorem foldl_requeue_other (l : List TxChunk) (s : State) : (l.foldl (fun t c => requeue c t) s).ev.other = s.ev.other := by
  induction l generalizing s with
  | nil => rfl
  | cons c l ih => rw [List.foldl_cons, ih, requeue_other]

theorem resendLink_other (k : Nat) (s : State) : (resendLink k s).ev.other = s.ev.other := by
  unfold resendLink
  rw [(pumpTx_writes _).same .ev (by decide), foldl_requeue_other]
  rfl

/-- An event that is not fatal is the last of the others. -/
theorem emit_other (code unit detail : Nat) (s : State) : evMake s code false unit detail ∈ (emit code unit detail s).ev.other := by
  have hlast (l : List Event) : evMake s code false unit detail ∈ l ++ [evMake s code false unit detail] :=
    List.mem_append_right _ (List.mem_singleton_self _)
  simp only [emit, evSend, evQueue, show (evMake s code false unit detail).fatal = false from rfl, Bool.false_eq_true, if_false]
  split_ifs
  · exact hlast _
  · split
    · exact List.mem_singleton_self _
    · exact hlast _

/-! ### A link goes Down (R252) -/

theorem linkAt_linkEnter_self {k : Nat} {s : State} (h : k < s.links.length) (st : LinkState) :
    linkAt (linkEnter k st s) k = { linkAt s k with st := st } := by
  rw [linkAt_congr (linkEnter_links ..), linkAt_setLink_self h]

theorem linkAt_linkEnter_ne {j k : Nat} (h : j ≠ k) (st : LinkState) (s : State) : linkAt (linkEnter k st s) j = linkAt s j := by
  rw [linkAt_congr (linkEnter_links ..), linkAt_setLink_ne h]

/-- A change of one link leaves the others and the memories. -/
def LinkOnly (k : Nat) (s t : State) : Prop := (∀ a, a ≠ k → linkAt t a = linkAt s a) ∧ t.hostMem = s.hostMem ∧ t.sp = s.sp

/-- The link is Down, counted and reported, and no other link changes. -/
def WentDown (k : Nat) (s t : State) : Prop :=
  (linkAt t k).st = .down ∧ s.kt ∈ (linkAt t k).downs ∧
  ctr t (hingeCtr (k / 4) 21) = (ctr s (hingeCtr (k / 4) 21) + 1) % 2 ^ 64 ∧ LinkOnly k s t ∧
  ∃ e ∈ t.ev.other, e.code = 0x000A ∧ e.unit = 0x20 + k / 4 ∧ e.kt = s.kt ∧ e.seq = s.ev.seq

/-- What a link that goes Down writes. -/
theorem linkDown_frame (k : Nat) (s : State) : Writes (.links :: sendFields) s (linkDown k s) := by
  unfold linkDown
  extract_lets l downs now
  exact .after (resendLink_writes ..) (.after (leaveSpray_writes ..)
    (.after (ctrInc_writes ..) (.after (linkEnter_writes ..) (setLink_writes ..).mono)))

/-- The record of a link that goes Down, with its state still to change. -/
def downNoted (k : Nat) (s : State) : Link :=
  let l := linkAt s k
  let downs := (l.downs ++ [s.kt]).filter fun t => decide (s.kt < t + minuteTicks)
  let now := if l.holdoff = 0 then getP s 0x0303 else l.holdoff
  { l with downs := downs, holdoff := if 9 ≤ downs.length then min (2 * now) 1000000000 else l.holdoff }

theorem linkDown_eq (k : Nat) (s : State) : linkDown k s = resendLink k (leaveSpray k (linkAt s k).st
    (ctrInc (hingeCtr (k / 4) 21) (linkEnter k .down (setLink k (downNoted k s) s)))) := rfl

theorem linkDown_goes {k : Nat} {s : State} (hk : k < s.links.length) (h32 : k < 32) : WentDown k s (linkDown k s) := by
  have hframe := linkDown_frame k s
  rw [linkDown_eq] at hframe ⊢
  have hspray := leaveSpray_writes k (linkAt s k).st (ctrInc (hingeCtr (k / 4) 21) (linkEnter k .down (setLink k (downNoted k s) s)))
  have hresend := resendLink_writes k (leaveSpray k (linkAt s k).st
    (ctrInc (hingeCtr (k / 4) 21) (linkEnter k .down (setLink k (downNoted k s) s))))
  have hentered := linkAt_linkEnter_self (s := setLink k (downNoted k s) s) (by simpa [setLink] using hk) .down
  rw [linkAt_setLink_self hk] at hentered
  have hat (a : Nat) := linkAt_congr ((hresend.same .links (by decide)).trans (hspray.same .links (by decide))) a
  refine ⟨?_, ?_, ?_, ⟨fun a ha => ?_, hframe.same .hostMem (by decide), hframe.same .sp (by decide)⟩, ?_⟩
  · rw [hat]
    exact congrArg Link.st hentered
  · have hin : s.kt ∈ (downNoted k s).downs :=
      List.mem_filter.2 ⟨List.mem_append_right _ (List.mem_singleton_self _), decide_eq_true (by unfold minuteTicks; omega)⟩
    rw [hat, show linkAt (ctrInc _ _) k = _ from hentered]
    exact hin
  · have hlt : hingeCtr (k / 4) 21 < 896 := by unfold hingeCtr; omega
    rw [ctr_resendLink_ne (notSent_downs _) (by unfold hingeCtr; omega) (by unfold hingeCtr; omega) hlt, hspray.ctr_eq, ctr_ctrInc_self,
      linkEnter, ctr_emit_ne (by unfold hingeCtr; omega), (dripAt_writes ..).ctr_eq]
    rfl
  · rw [hat]
    exact (linkAt_linkEnter_ne ha ..).trans (linkAt_setLink_ne ha ..)
  · rw [resendLink_other, hspray.same .ev (by decide)]
    refine ⟨_, emit_other .., rfl, rfl, ?_, ?_⟩
    · exact (dripAt_writes ..).same .kt (by decide)
    · exact congrArg EvQueue.seq ((dripAt_writes ..).same .ev (by decide))

/-! ### Sending again without a fault (R260, R261) -/

/-- With no chunk's retries used up, the sending again of a link's chunks ends no job. -/
theorem resendLink_kept {s : State} (h : ∀ c ∈ s.kft.unacked, exhausted s c = false) (k : Nat) :
    Writes [.kft, .counters] s (resendLink k s) := by
  unfold resendLink
  refine .after (pumpTx_writes _) ?_
  have hunplaced : ∀ c ∈ (unplace k s).kft.unacked, exhausted s c = false := by
    intro c hc
    obtain ⟨y, hy, rfl⟩ := List.mem_map.1 hc
    split_ifs
    · exact h y hy
    · exact h y hy
  have hset : Writes [.kft] s (unplace k s) := unplace_writes k s
  refine (List.foldlRecOn (motive := fun t : State => Writes [.kft] s t) _ _ hset fun t ht c hc => ?_).mono
  have hmore : exhausted t c = false := by
    rw [exhausted, getP_congr (ht.same .params (by decide))]
    exact hunplaced c (List.mem_of_mem_filter hc)
  rw [requeue, if_neg (by rw [hmore]; exact Bool.false_ne_true)]
  exact ht.trans (.of_mix rfl)

theorem linkDown_job {s : State} (h : ∀ c ∈ s.kft.unacked, exhausted s c = false) (k : Nat) : (linkDown k s).job = s.job := by
  rw [linkDown_eq]
  have hset : Writes [.links, .ev, .counters, .drip] s (ctrInc (hingeCtr (k / 4) 21) (linkEnter k .down (setLink k (downNoted k s) s))) :=
    .after (ctrInc_writes ..) (.after (linkEnter_writes ..) (setLink_writes ..).mono)
  generalize ctrInc (hingeCtr (k / 4) 21) (linkEnter k .down (setLink k (downNoted k s) s)) = u at hset ⊢
  have hspray := leaveSpray_writes k (linkAt s k).st u
  have hunacked : (leaveSpray k (linkAt s k).st u).kft.unacked = s.kft.unacked := by
    rw [← hset.same .kft (by decide)]
    unfold leaveSpray bumpPaths
    split_ifs <;> rfl
  have hsame : Writes [.links, .ev, .counters, .drip, .kft] s (leaveSpray k (linkAt s k).st u) := .after hspray hset.mono
  refine ((resendLink_kept (fun c hc => ?_) k).same .job (by decide)).trans (hsame.same .job (by decide))
  rw [hunacked] at hc
  rw [exhausted, getP_congr (hsame.same .params (by decide))]
  exact h c hc

/-! ### Lanes -/

theorem laneAt_congr {s t : State} (h : t.lanes = s.lanes) (i : Nat) : laneAt t i = laneAt s i := by
  rw [laneAt, laneAt, h]

theorem laneAt_laneMap_self {i : Nat} {s : State} (h : i < s.lanes.length) (f : Lane → Lane) :
    laneAt (laneMap i f s) i = f (laneAt s i) := by
  simp [laneAt, laneMap, h]

theorem laneAt_laneMap_ne {i j : Nat} (h : j ≠ i) (f : Lane → Lane) (s : State) : laneAt (laneMap i f s) j = laneAt s j := by
  simp [laneAt, laneMap, List.getElem?_set_ne h.symm]

/-- A change that a second time does nothing more reaches each of several lanes. -/
theorem laneAt_lanesMap {f : Lane → Lane} (hf : ∀ x, f (f x) = f x) {j : Nat} (l : List Nat) {s : State} (hj : j < s.lanes.length)
    (hmem : j ∈ l ∨ laneAt s j = f (laneAt s j)) : laneAt (lanesMap l f s) j = f (laneAt s j) := by
  induction l generalizing s with
  | nil => exact hmem.resolve_left (List.not_mem_nil)
  | cons i l ih =>
    have hlen : j < (laneMap i f s).lanes.length := by simpa [laneMap] using hj
    by_cases hji : j = i
    · subst hji
      have hself := laneAt_laneMap_self hj f
      rw [lanesMap, List.foldl_cons]
      exact (ih hlen (.inr (by rw [hself, hf]))).trans (by rw [hself, hf])
    · have hsame := laneAt_laneMap_ne hji f s
      rw [lanesMap, List.foldl_cons]
      refine (ih hlen ?_).trans (by rw [hsame])
      rw [hsame]
      refine hmem.imp (fun h => ?_) id
      exact (List.mem_cons.1 h).resolve_left hji

/-! ### Training, alignment and Up (R252) -/

theorem LinkOnly.of_links {k : Nat} {s t u : State} {l : List Fld} (h : LinkOnly k s t) (hw : Writes l t u)
    (hlinks : .links ∉ l := by decide) (hhost : .hostMem ∉ l := by decide) (hsp : .sp ∉ l := by decide) : LinkOnly k s u := by
  obtain ⟨hothers, hmem, hscratch⟩ := h
  exact ⟨fun a ha => (linkAt_congr (hw.same .links hlinks) a).trans (hothers a ha), (hw.same .hostMem hhost).trans hmem,
    (hw.same .sp hsp).trans hscratch⟩

theorem LinkOnly.refl (k : Nat) (s : State) : LinkOnly k s s := ⟨fun _ _ => rfl, rfl, rfl⟩

theorem linkEnter_linkOnly (k : Nat) (st : LinkState) (s : State) : LinkOnly k s (linkEnter k st s) := by
  have hw := linkEnter_writes k st s
  exact ⟨fun a ha => linkAt_linkEnter_ne ha .., hw.same .hostMem (by decide), hw.same .sp (by decide)⟩

theorem LinkOnly.trans {k : Nat} {s t u : State} (hst : LinkOnly k s t) (htu : LinkOnly k t u) : LinkOnly k s u := by
  obtain ⟨h₁, h₂, h₃⟩ := hst
  obtain ⟨g₁, g₂, g₃⟩ := htu
  exact ⟨fun a ha => (g₁ a ha).trans (h₁ a ha), g₂.trans h₂, g₃.trans h₃⟩

theorem setLink_linkOnly (k : Nat) (l : Link) (s : State) : LinkOnly k s (setLink k l s) :=
  ⟨fun _ ha => linkAt_setLink_ne ha .., rfl, rfl⟩

theorem tryUp_linkOnly (k : Nat) (s : State) : LinkOnly k s (tryUp k s) := by
  unfold tryUp
  extract_lets l
  split_ifs
  · exact ((linkEnter_linkOnly k .up s).of_links (bumpPaths_writes ..)).of_links (pumpTx_writes _)
  · exact .refl k s

theorem tryUp_lanes (k : Nat) (s : State) : (tryUp k s).lanes = s.lanes := by
  have hw : Writes [.links, .ev, .counters, .drip, .kft] s (tryUp k s) :=
    .ite (fun _ => .after (pumpTx_writes _) (.after (bumpPaths_writes ..) (linkEnter_writes ..).mono)) (fun _ => .refl _ s)
  exact hw.same .lanes (by decide)

/-- An Aligning link with its markers found, its lanes locked and no remote fault goes Up. -/
theorem tryUp_up {k : Nat} {s : State} (haligning : (linkAt s k).st = .aligning) (hmarkers : (linkAt s k).markers = true)
    (hfault : (linkAt s k).fault = false) (hlocked : allLocked s k = true) : (linkAt (tryUp k s) k).st = .up := by
  unfold tryUp
  extract_lets l
  rw [if_pos ⟨haligning, hmarkers, hfault, hlocked⟩]
  rw [linkAt_congr ((pumpTx_writes _).same .links (by decide)), linkAt_congr ((bumpPaths_writes ..).same .links (by decide)),
    linkAt_linkEnter_self (lt_links_of_st_ne_off (by rw [haligning]; decide))]

theorem tryUp_unlocked {k : Nat} {s : State} (h : allLocked s k = false) : tryUp k s = s := by
  unfold tryUp
  extract_lets l
  rw [if_neg (by simp [h])]

/-- Training begins on a link: the others stay, and its lanes ask for their rate (R53, R252). -/
theorem linkTrain_trains {k : Nat} {s : State} (hk : k < s.links.length) : (linkAt (linkTrain k s) k).st = .training ∧
    LinkOnly k s (linkTrain k s) ∧ (linkTrain k s).job = s.job ∧
    ∀ j ∈ linkLanes s k, j < s.lanes.length → (laneAt (linkTrain k s) j).trainReq = true ∧
      (laneAt (linkTrain k s) j).trained = false ∧ (laneAt (linkTrain k s) j).rate = hingeRate s (k / 4) := by
  unfold linkTrain
  extract_lets rate
  have hlanes := lanesMap_writes (linkLanes s k) (fun l => { l with rate := rate, trainReq := true, trained := false }) s
  have hset (j : Nat) (hj : j ∈ linkLanes s k) (hlt : j < s.lanes.length) := laneAt_lanesMap (s := s)
    (f := fun l => { l with rate := rate, trainReq := true, trained := false }) (fun _ => rfl) (linkLanes s k) hlt (.inl hj)
  generalize lanesMap (linkLanes s k) (fun l => { l with rate := rate, trainReq := true, trained := false }) s = u at hlanes hset ⊢
  have hlinks : u.links = s.links := hlanes.same .links (by decide)
  have henter := linkEnter_writes k .training u
  refine ⟨?_, ((LinkOnly.refl k s).of_links hlanes).trans (linkEnter_linkOnly ..), ?_, fun j hj hlt => ?_⟩
  · rw [linkAt_linkEnter_self (by rwa [hlinks])]
  · exact (henter.same .job (by decide)).trans (hlanes.same .job (by decide))
  · rw [laneAt_congr (henter.same .lanes (by decide)), hset j hj hlt]
    exact ⟨rfl, rfl, rfl⟩

/-! ### A lane that fails to train (R53) -/

/-- A record of the ledger moves its head, or waits while AO is stopped (R447). -/
theorem ledgerAdd_head (action cause value place : Nat) (s : State) :
    (s.rst.aoStopped = false → (ledgerAdd action cause value place s).plan.historyHead = (s.plan.historyHead + 1) % 63) ∧
    (s.rst.aoStopped = true → (ledgerAdd action cause value place s).plan.historyHead = s.plan.historyHead ∧
      ∃ h, (ledgerAdd action cause value place s).aoWait = s.aoWait ++ [h]) := by
  unfold ledgerAdd
  extract_lets rec_ u
  have hdrip : Writes [.drip] s u := dripAt_writes ..
  have hplan : u.plan = s.plan := hdrip.same .plan (by decide)
  have hwait : u.aoWait = s.aoWait := hdrip.same .aoWait (by decide)
  have hrst : u.rst = s.rst := hdrip.same .rst (by decide)
  clear_value u
  rw [hrst]
  refine ⟨fun hgoes => ?_, fun hstop => ?_⟩
  · rw [hgoes, if_neg Bool.false_ne_true, ledgerPut]
    dsimp only
    rw [hplan]
  · rw [hstop, if_pos rfl, aoHold]
    dsimp only
    rw [hplan, hwait]
    exact ⟨rfl, _, rfl⟩

/-- A failed lane is recorded, and its link goes Down where it was training. -/
theorem trainFailed_fails {hinge lane : Nat} {s : State} (hlen : s.links.length = 32) :
    let k := linkOfLane s hinge lane
    let t := trainFailed hinge lane s
    ((linkAt s k).st = .training → (linkAt t k).st = .down) ∧ LinkOnly k s t ∧ t.lanes = s.lanes ∧
    (s.rst.aoStopped = false → t.plan.historyHead = (s.plan.historyHead + 1) % 63) ∧
    (s.rst.aoStopped = true → t.plan.historyHead = s.plan.historyHead ∧ ∃ h, t.aoWait = s.aoWait ++ [h]) := by
  unfold trainFailed
  extract_lets k u t
  have hledger : Writes [.drip, .aoWait, .plan] s u := ledgerAdd_writes ..
  have hhead := ledgerAdd_head 5 s.plan.cause lane k s
  change (_ → u.plan.historyHead = _) ∧ (_ → u.plan.historyHead = _ ∧ ∃ h, u.aoWait = _) at hhead
  clear_value k u
  have hlinks : u.links = s.links := hledger.same .links (by decide)
  have hsame := (LinkOnly.refl k s).of_links hledger
  unfold t
  rw [linkAt_congr hlinks]
  split_ifs with htraining
  · have hlt : k < u.links.length := by
      rw [hlinks]
      exact lt_links_of_st_ne_off (by rw [htraining]; decide)
    obtain ⟨hst, -, -, hothers, -⟩ := linkDown_goes hlt (by rw [hlinks, hlen] at hlt; exact hlt)
    have hframe := linkDown_frame k u
    rw [hframe.same .plan (by decide), hframe.same .aoWait (by decide), hframe.same .lanes (by decide)]
    exact ⟨fun _ => hst, hsame.trans hothers, hledger.same .lanes (by decide), hhead⟩
  · exact ⟨fun h => absurd h htraining, hsame, hledger.same .lanes (by decide), hhead⟩

/-! ### O59 -/

/-- A link that is not Off is one of the thirty-two. -/
theorem Inv.link_lt {s : State} (hinv : Inv s) {k : Nat} (h : (linkAt s k).st ≠ .off) : k < s.links.length ∧ k < 32 := by
  have hlt := lt_links_of_st_ne_off h
  exact ⟨hlt, hinv.links ▸ hlt⟩

theorem pumped_pfc {s t : State} {l : List (Nat × Nat)} (h : Pumped { s with pfcPaused := l } t) :
    t.pfcPaused = l ∧ t = { s with pfcPaused := t.pfcPaused, kft := t.kft, counters := t.counters } := by
  obtain ⟨⟨_, _, _, _, _, _, _, rfl⟩, -⟩ := h
  exact ⟨rfl, rfl⟩

/-- The pauses after a partner's PFC frame (R267). -/
def pausedAfter (hinge : Nat) (pause resume : List Nat) (l : List (Nat × Nat)) : List (Nat × Nat) :=
  l.filter (fun x => !decide (x.1 = hinge ∧ (x.2 ∈ resume ∨ x.2 ∈ pause))) ++
    (dedup (pause.filter fun q => decide (q < 8))).map fun q => (hinge, q)

theorem mem_pausedAfter {hinge : Nat} {pause resume : List Nat} {l : List (Nat × Nat)} {x : Nat × Nat} :
    x ∈ pausedAfter hinge pause resume l ↔
      (x ∈ l ∧ ¬ (x.1 = hinge ∧ (x.2 ∈ resume ∨ x.2 ∈ pause))) ∨ (x.1 = hinge ∧ x.2 < 8 ∧ x.2 ∈ pause) := by
  rw [pausedAfter, List.mem_append, List.mem_filter, List.mem_map]
  simp only [mem_dedup, List.mem_filter, decide_eq_true_eq, Bool.not_eq_eq_eq_not, Bool.not_true, decide_eq_false_iff_not]
  refine or_congr Iff.rfl ⟨?_, ?_⟩
  · rintro ⟨p, ⟨hp, h8⟩, rfl⟩
    exact ⟨rfl, h8, hp⟩
  · rintro ⟨hh, h8, hp⟩
    exact ⟨x.2, ⟨hp, h8⟩, by rw [← hh]⟩

/-- A lane whose training has ended (R53). -/
def Lane.ended (ok : Bool) (eye : Nat) (l : Lane) : Lane :=
  { l with trainReq := false, trained := ok, eye := eye % 256, eyeTrained := (if ok then eye % 256 else l.eyeTrained) }

/-- The lane's end of training is noted, and its eye kept for the plan. -/
def laneEnded (i : Nat) (ok : Bool) (eye : Nat) (s : State) : State :=
  { laneMap i (Lane.ended ok eye) s with
    plan := { s.plan with eyes := (s.plan.eyes ++ List.replicate (64 - s.plan.eyes.length) 0).set i (eye % 256) } }

/-- A training link whose lanes are all trained goes to Aligning (R252). -/
def linkTrained (k : Nat) (s : State) : State :=
  if (linkAt s k).st = .training ∧ allTrained s k then
    linkEnter k .aligning (setLink k { linkAt s k with markers := false, fault := false } s)
  else s

theorem exec_laneTrainDone {s : State} (hlost : s.rst.rootLost = false) {hinge lane : Nat} (hhinge : hinge < 8) (hlane : lane < 8)
    (hreq : (laneAt s (8 * hinge + lane)).trainReq = true) (ok : Bool) (eye : Nat) : exec (.laneTrainDone hinge lane ok eye) s =
      .next (if ok then linkTrained (linkOfLane s hinge lane) (laneEnded (8 * hinge + lane) ok eye s)
        else trainFailed hinge lane (laneEnded (8 * hinge + lane) ok eye s)) := by
  rw [exec, execLaneTrainDone, live_next hlost, if_pos ⟨hhinge, hlane, hreq⟩]
  rfl

theorem linkTrained_writes (k : Nat) (s : State) : Writes [.links, .ev, .counters, .drip] s (linkTrained k s) :=
  .ite (fun _ => .after (linkEnter_writes ..) (setLink_writes ..).mono) (fun _ => .refl _ s)

theorem linkTrained_linkOnly (k : Nat) (s : State) : LinkOnly k s (linkTrained k s) := by
  unfold linkTrained
  split_ifs
  · exact (setLink_linkOnly ..).trans (linkEnter_linkOnly ..)
  · exact .refl k s

theorem linkTrained_aligns {k : Nat} {s : State} (htraining : (linkAt s k).st = .training) (hall : allTrained s k = true) :
    (linkAt (linkTrained k s) k).st = .aligning ∧ (linkAt (linkTrained k s) k).markers = false := by
  have hlt := lt_links_of_st_ne_off (k := k) (s := s) (by rw [htraining]; decide)
  rw [linkTrained, if_pos ⟨htraining, hall⟩, linkAt_linkEnter_self (by simpa [setLink] using hlt), linkAt_setLink_self hlt]
  exact ⟨rfl, rfl⟩

theorem linkTrained_waits {k : Nat} {s : State} (hall : allTrained s k = false) : linkTrained k s = s := by
  rw [linkTrained, if_neg (by simp [hall])]

theorem laneEnded_linkOnly (k i : Nat) (ok : Bool) (eye : Nat) (s : State) : LinkOnly k s (laneEnded i ok eye s) :=
  ⟨fun _ _ => rfl, rfl, rfl⟩

theorem laneMap_linkOnly (k i : Nat) (f : Lane → Lane) (s : State) : LinkOnly k s (laneMap i f s) := ⟨fun _ _ => rfl, rfl, rfl⟩

theorem laneAt_laneEnded_self {i : Nat} {s : State} (h : i < s.lanes.length) (ok : Bool) (eye : Nat) :
    laneAt (laneEnded i ok eye s) i = (laneAt s i).ended ok eye :=
  laneAt_laneMap_self h _

theorem laneAt_laneEnded_ne {i j : Nat} (h : j ≠ i) (ok : Bool) (eye : Nat) (s : State) :
    laneAt (laneEnded i ok eye s) j = laneAt s j :=
  laneAt_laneMap_ne h _ s

/-- Every lane of a link is trained once one of them is and the others were. -/
theorem allTrained_laneEnded {s : State} {k i : Nat} (hi : i < s.lanes.length) (eye : Nat) :
    allTrained (laneEnded i true eye s) k = true ↔ ∀ j ∈ linkLanes s k, j = i ∨ (laneAt s j).trained = true := by
  rw [allTrained, List.all_eq_true]
  refine forall₂_congr fun j _ => ?_
  by_cases hj : j = i
  · rw [hj, laneAt_laneEnded_self hi]
    simp [Lane.ended]
  · rw [laneAt_laneEnded_ne hj]
    simp [hj]

/-- Settles O59, row by row: a link's change, and what its lanes and its pauses say of it. -/
theorem linkRowsComplete : Obligations.LinkRowsComplete := by
  unfold Obligations.LinkRowsComplete
  intro hinge lane k eye q pause resume s hinv hlost i l others_ down willNotFault
  have hgoes (j : Nat) (cmd : Instr) (hst : (linkAt s j).st ≠ .off) (hexec : exec cmd s = .next (linkDown j s)) : down cmd j := by
    obtain ⟨hlt, h32⟩ := hinv.link_lt hst
    exact ⟨_, hexec, linkDown_goes hlt h32⟩
  have hupOff (j : Nat) (hup : (linkAt s j).st = .up) : (linkAt s j).st ≠ .off := by rw [hup]; decide
  refine ⟨fun hhinge hlane hgroup => ⟨fun hreq => ⟨?_, ?_, ?_⟩, fun hreq => ⟨?_, ?_⟩, fun hup => ?_, ?_⟩,
    fun hup => ⟨?_, ?_, fun hlane hin => ?_⟩, fun hup hmore => ?_, fun hup => ⟨?_, ?_, fun haligning => ?_⟩, fun haligning => ?_,
    fun haligning => ⟨?_, ?_⟩, fun haligning => ⟨?_, ?_⟩, fun hdown hon => ?_, fun hnot => ?_, fun hk => ?_, fun hquiet => ?_,
    fun hquiet => ?_, fun hhinge hpfc => ?_, fun hpfc => ?_, ?_⟩
  · have hlt : i < s.lanes.length := by rw [hinv.lanes]; omega
    have hw := linkTrained_writes l (laneEnded i true eye s)
    have hall := allTrained_laneEnded (k := l) hlt eye
    have hexec := exec_laneTrainDone hlost hhinge hlane hreq true eye
    refine ⟨_, hexec.trans (congrArg _ (if_pos rfl)), ?_, fun htraining hdone => ?_, fun j hj hne hnot => ?_,
      (laneEnded_linkOnly ..).trans (linkTrained_linkOnly ..), hw.same .job (by decide)⟩
    · rw [laneAt_congr (hw.same .lanes (by decide)), laneAt_laneEnded_self hlt]
      rfl
    · exact linkTrained_aligns htraining (hall.2 hdone)
    · have hwaits : linkTrained l (laneEnded i true eye s) = laneEnded i true eye s :=
        linkTrained_waits (Bool.eq_false_iff.2 fun hdone => by
          have := (hall.1 hdone j hj).resolve_left hne
          rw [hnot] at this
          cases this)
      exact (congrArg (linkAt · l) hwaits :).trans rfl
  · obtain ⟨hst, hothers, hlanes, -⟩ := trainFailed_fails (hinge := hinge) (lane := lane) (s := laneEnded i false eye s) hinv.links
    have hself := laneAt_laneEnded_self (s := s) (i := i) (by rw [hinv.lanes]; omega) false eye
    refine ⟨_, exec_laneTrainDone hlost hhinge hlane hreq false eye, ?_, ?_, hst, (laneEnded_linkOnly ..).trans hothers⟩
    · rw [if_neg (by exact Bool.false_ne_true), laneAt_congr hlanes, hself]
      rfl
    · rw [if_neg (by exact Bool.false_ne_true), laneAt_congr hlanes, hself]
      rfl
  · obtain ⟨hst, hothers, hlanes, hgo, hstop⟩ := trainFailed_fails (hinge := hinge) (lane := lane)
      (s := laneMap i (fun l => { l with trainReq := false, trained := false }) s) (by simpa [laneMap] using hinv.links)
    have hself := laneAt_laneMap_self (s := s) (i := i) (by rw [hinv.lanes]; omega) fun l => { l with trainReq := false, trained := false }
    have hexec : exec (.laneTrainTimeout hinge lane) s =
        .next (trainFailed hinge lane (laneMap i (fun l => { l with trainReq := false, trained := false }) s)) := by
      rw [exec, execLaneTrainTimeout, live_next hlost, if_pos ⟨hhinge, hlane, hreq⟩]
    exact ⟨_, hexec, (laneAt_congr hlanes i).trans hself, hst, (laneMap_linkOnly ..).trans hothers, hgo, hstop⟩
  · rw [exec, execLaneTrainDone, live_next hlost, if_neg (fun h => by rw [show laneAt s _ = laneAt s i from rfl, hreq] at h; simp at h)]
  · rw [exec, execLaneTrainTimeout, live_next hlost, if_neg (fun h => by rw [show laneAt s _ = laneAt s i from rfl, hreq] at h; simp at h)]
  · obtain ⟨hlt, h32⟩ := hinv.link_lt (hupOff l hup)
    have hexec : exec (.laneLockChange hinge lane false) s = .next (linkDown l (laneMap i (fun x => { x with lock := false }) s)) := by
      rw [exec, execLaneLockChange, live_next hlost, if_pos ⟨hhinge, hlane⟩]
      exact congrArg Host.Outcome.next (if_pos hup)
    exact ⟨_, hexec, linkDown_goes (s := laneMap i (fun x => { x with lock := false }) s) hlt h32⟩
  · have hexec : exec (.laneLockChange hinge lane true) s = .next (tryUp l (laneMap i (fun x => { x with lock := true }) s)) := by
      rw [exec, execLaneLockChange, live_next hlost, if_pos ⟨hhinge, hlane⟩]
      rfl
    have hself := laneAt_laneMap_self (s := s) (i := i) (by rw [hinv.lanes]; omega) fun x => { x with lock := true }
    refine ⟨_, hexec, ?_, (laneMap_linkOnly ..).trans (tryUp_linkOnly ..), fun haligning hmarkers hfault hall => ?_⟩
    · rw [laneAt_congr (tryUp_lanes ..), hself]
    · refine tryUp_up haligning hmarkers hfault (List.all_eq_true.2 fun j hj => ?_)
      by_cases hji : j = i
      · rw [hji, hself]
      · rw [laneAt_laneMap_ne hji]
        exact (hall j hj).resolve_left hji
  · exact hgoes k _ (hupOff k hup) (by rw [exec, execFecFailLimit, live_next hlost, if_pos hup])
  · exact hgoes k _ (hupOff k hup) (by rw [exec, execRemoteFaultReceive, live_next hlost, if_pos hup])
  · exact hgoes k _ (hupOff k hup) (by
      rw [exec, execLaneAlignmentLoss, live_next hlost, if_pos ⟨hup, List.contains_iff_mem.2 hin⟩])
  · exact ⟨_, by rw [exec, execFecFailLimit, live_next hlost, if_pos hup], linkDown_job hmore k⟩
  · rw [exec, execFecFailLimit, live_next hlost, if_neg hup]
  · rw [exec, execLaneAlignmentLoss, live_next hlost, if_neg fun h => hup h.1]
  · rw [exec, execRemoteFaultReceive, live_next hlost, if_neg hup, if_neg haligning]
  · have hexec : exec (.remoteFaultReceive k) s = .next (setLink k { linkAt s k with fault := true } s) := by
      rw [exec, execRemoteFaultReceive, live_next hlost, if_neg (by rw [haligning]; decide), if_pos haligning]
    exact ⟨_, hexec, linkAt_setLink_self (hinv.link_lt (by rw [haligning]; decide)).1 _, setLink_linkOnly .., rfl⟩
  · exact hgoes k _ (by rw [haligning]; decide) (by rw [exec, execLinkAlignTimeout, live_next hlost, if_pos haligning])
  · have hexec : exec (.alignmentMarkersFound k) s =
        .next (tryUp k (setLink k { linkAt s k with markers := true, fault := false } s)) := by
      rw [exec, execAlignmentMarkersFound, live_next hlost, if_pos haligning]
    have hat := linkAt_setLink_self (hinv.link_lt (k := k) (by rw [haligning]; decide)).1
      { linkAt s k with markers := true, fault := false }
    refine ⟨_, hexec, (setLink_linkOnly ..).trans (tryUp_linkOnly ..), fun hlocked => ?_, fun hlocked => ?_⟩
    · exact tryUp_up (by rw [hat]; exact haligning) (by rw [hat]) (by rw [hat]) hlocked
    · rw [tryUp_unlocked (s := setLink k { linkAt s k with markers := true, fault := false } s) hlocked, hat]
  · rw [exec, execLinkAlignTimeout, live_next hlost, if_neg haligning]
  · rw [exec, execAlignmentMarkersFound, live_next hlost, if_neg haligning]
  · have hexec : exec (.relinkHoldoffExpiry k) s = .next (linkTrain k s) := by
      rw [exec, execRelinkHoldoffExpiry, live_next hlost, if_pos ⟨hdown, hon⟩]
    obtain ⟨hst, hothers, hjob, hlanes⟩ := linkTrain_trains (hinv.link_lt (k := k) (by rw [hdown]; decide)).1
    exact ⟨_, hexec, hst, hothers, hjob, fun j hj h64 => hlanes j hj (by rw [hinv.lanes]; exact h64)⟩
  · rw [exec, execRelinkHoldoffExpiry, live_next hlost, if_neg]
    rintro ⟨hdown, hon⟩
    obtain hnd | hoff := hnot
    · exact hnd hdown
    · rw [hoff] at hon
      cases hon
  · rw [exec, execRelinkHoldoffRestore, live_next hlost, if_pos hk]
  · have hexec : exec (.quiesceComplete k) s = .next (linkTrain k (resendLink k s)) := by
      rw [exec, execQuiesceComplete, live_next hlost, if_pos hquiet]
    have hresend := resendLink_writes k s
    have hlt : k < (resendLink k s).links.length := by
      rw [hresend.same .links (by decide)]
      exact (hinv.link_lt (k := k) (by rw [hquiet]; decide)).1
    obtain ⟨hst, hothers, -⟩ := linkTrain_trains hlt
    exact ⟨_, hexec, hst, ((LinkOnly.refl k s).of_links hresend).trans hothers⟩
  · rw [exec, execQuiesceComplete, live_next hlost, if_neg hquiet]
  · have hexec : exec (.pfcFrameReceive hinge pause resume) s =
        .next (pumpTx { s with pfcPaused := pausedAfter hinge pause resume s.pfcPaused }) := by
      rw [exec, execPfcFrameReceive, live_next hlost, if_pos ⟨hhinge, hpfc⟩]
      rfl
    obtain ⟨hlist, hframe⟩ := pumped_pfc (pumpTx_pumped { s with pfcPaused := pausedAfter hinge pause resume s.pfcPaused })
    exact ⟨_, hexec, fun x => by rw [hlist, mem_pausedAfter], hframe⟩
  · rw [exec, execPfcFrameReceive, live_next hlost, if_neg fun h => hpfc h.2]
  · have hexec : exec (.pfcPauseExpiry hinge q) s =
        .next (pumpTx { s with pfcPaused := s.pfcPaused.filter fun x => decide (x ≠ (hinge, q)) }) := by
      rw [exec, execPfcPauseExpiry, live_next hlost]
    obtain ⟨hlist, hframe⟩ := pumped_pfc (pumpTx_pumped { s with pfcPaused := s.pfcPaused.filter fun x => decide (x ≠ (hinge, q)) })
    refine ⟨_, hexec, fun x => ?_, hframe⟩
    rw [hlist, List.mem_filter, decide_eq_true_eq]

end Sys2Proof.Machine
end

section
/-! PROOFS. A run of accesses: what it writes, and that it lists every byte of it (R190, R201, R211). -/

namespace Sys2Proof.Machine

-- One declaration at a time: see the frames of the state's operations.
set_option Elab.async false

/-- A run goes on: it changes host memory in the pieces it lists as written, and each of its writes lies in them. -/
structure TRun.Grows (t u : TRun) : Prop where
  writes : Writes [.keyway, .hostMem] t.s u.s
  wr : t.wr ⊆ u.wr
  mem : ∀ a, ¬ Covers u.wr a → memGet u.s.hostMem a = memGet t.s.hostMem a
  log : ∀ e ∈ u.log, e ∈ t.log ∨ e.runs ⊆ u.wr

namespace TRun.Grows

theorem refl (t : TRun) : TRun.Grows t t := ⟨.refl _ t.s, fun _ h => h, fun _ _ => rfl, fun _ h => .inl h⟩

theorem trans {t u v : TRun} (htu : TRun.Grows t u) (huv : TRun.Grows u v) : TRun.Grows t v := by
  refine ⟨htu.writes.trans huv.writes, fun _ h => huv.wr (htu.wr h), fun a ha => ?_, fun e he => ?_⟩
  · exact (huv.mem a ha).trans (htu.mem a fun h => ha (h.of_subset huv.wr))
  · rcases huv.log e he with he | he
    · exact (htu.log e he).imp id fun h _ hp => huv.wr (h hp)
    · exact .inr he

theorem foldl {α : Type} {f : TRun → α → TRun} (hf : ∀ t x, TRun.Grows t (f t x)) (l : List α) (t : TRun) :
    TRun.Grows t (l.foldl f t) :=
  List.foldlRecOn (motive := TRun.Grows t) _ _ (.refl t) fun u hu x _ => hu.trans (hf u x)

theorem foldlFst {α β : Type} {f : TRun × β → α → TRun × β} (hf : ∀ r x, TRun.Grows r.1 (f r x).1) (l : List α) (r : TRun × β) :
    TRun.Grows r.1 (l.foldl f r).1 :=
  List.foldlRecOn (motive := fun u : TRun × β => TRun.Grows r.1 u.1) _ _ (.refl r.1) fun u hu x _ => hu.trans (hf u x)

theorem ite {c : Prop} [Decidable c] {t u v : TRun} (hu : c → TRun.Grows t u) (hv : ¬ c → TRun.Grows t v) :
    TRun.Grows t (if c then u else v) := by
  split_ifs with h
  · exact hu h
  · exact hv h

/-- From the start, all that a run changes and lists lies in its pieces. -/
theorem of_start {s : State} {t : TRun} (h : TRun.Grows (TRun.start s) t) : Writes [.keyway, .hostMem] s t.s ∧
    (∀ a, ¬ Covers t.wr a → memGet t.s.hostMem a = memGet s.hostMem a) ∧ ∀ e ∈ t.log, e.runs ⊆ t.wr :=
  ⟨h.writes, h.mem, fun e he => (h.log e he).resolve_left (List.not_mem_nil)⟩

end TRun.Grows

theorem tRun_read_grows (t : TRun) (va n : Nat) : TRun.Grows t (t.read va n).1 := by
  have hw := tRun_read_writes t va n
  have hkept : (t.read va n).1.wr = t.wr ∧ (t.read va n).1.log = t.log := by
    unfold TRun.read
    split_ifs
    · exact ⟨rfl, rfl⟩
    · split <;> exact ⟨rfl, rfl⟩
  obtain ⟨hwr, hlog⟩ := hkept
  refine ⟨hw.mono, by rw [hwr]; exact fun _ h => h, fun a _ => ?_, fun e he => .inl (hlog ▸ he)⟩
  rw [hw.same .hostMem (by decide)]

theorem tRun_put_grows (t : TRun) (l : List Piece) (bs : List Byte) : TRun.Grows t (t.put l bs) := by
  refine ⟨.of_mix rfl, List.subset_append_left .., fun a ha => ?_, fun e he => ?_⟩
  · refine memGet_writePieces_out l bs t.s.hostMem (not_covers_iff.1 fun h => ha (h.of_subset ?_))
    exact List.subset_append_right ..
  · rcases List.mem_cons.1 he with rfl | he
    · exact .inr (List.subset_append_right ..)
    · exact .inl he

/-- A change of the state outside the memory the run writes. -/
theorem TRun.Grows.of_state {t : TRun} {s : State} (h : Writes [.keyway] t.s s) (bad : Option XFault) :
    TRun.Grows t { t with s := s, bad := bad } :=
  ⟨h.mono, fun _ h => h, fun _ _ => by rw [h.same .hostMem (by decide)], fun _ h => .inl h⟩

theorem tRun_write_grows (t : TRun) (va : Nat) (bs : List Byte) : TRun.Grows t (t.write va bs) := by
  unfold TRun.write
  split_ifs
  · exact .refl t
  · have hrange := xlateRange_writes t.s 1 va bs.length true
    split
    case h_1 h =>
      rw [h] at hrange
      exact .of_state hrange _
    case h_2 h =>
      rw [h] at hrange
      exact (TRun.Grows.of_state hrange t.bad).trans (tRun_put_grows ..)

theorem tRun_joined_grows {f : TRun → TRun} (hf : ∀ t, TRun.Grows t (f t)) (t : TRun) : TRun.Grows t (t.joined f) := by
  have hgrows := hf { t with log := [] }
  unfold TRun.joined
  extract_lets r l
  refine ⟨hgrows.writes, hgrows.wr, hgrows.mem, fun e he => ?_⟩
  have hruns : ∀ x ∈ l, x.runs ⊆ r.wr := fun x hx => (hgrows.log x (List.mem_reverse.1 hx)).resolve_left (List.not_mem_nil)
  dsimp only at he ⊢
  split_ifs at he
  · exact .inl he
  · rcases List.mem_cons.1 he with rfl | he
    · exact .inr fun p hp => (by
        obtain ⟨x, hx, hp⟩ := List.mem_flatMap.1 hp
        exact hruns x hx hp)
    · exact .inl he

theorem tRun_now_grows {α : Type} {f : TRun → TRun × α} (hf : ∀ t, TRun.Grows t (f t).1) (t : TRun) : TRun.Grows t (t.now f).1 := by
  obtain ⟨hwrites, hwr, hmem, hlog⟩ := hf { t with base := t.s.hostMem }
  exact ⟨hwrites, hwr, hmem, hlog⟩

theorem elemRead_grows (d : Desc) (o : List Nat) (i : Nat) (t : TRun) : TRun.Grows t (elemRead d o i t).1 := by
  unfold elemRead
  extract_lets e pl u r code q
  split_ifs
  · exact (tRun_read_grows ..).trans (tRun_read_grows ..)
  · exact tRun_read_grows ..

theorem rowRead_grows (d : Desc) (o : List Nat) (n : Nat) (t : TRun) : TRun.Grows t (rowRead d o n t).1 := by
  unfold rowRead
  split_ifs
  · exact .refl t
  · extract_lets o r
    exact TRun.Grows.foldlFst (fun (a : TRun × List Elem) i => elemRead_grows d o i a.1) _ (t, ([] : List Elem))

theorem unitWrite_grows (d : Desc) (o : List Nat) (lines : List (List Nat × List Nat)) (t : TRun) :
    TRun.Grows t (unitWrite d o lines t) := by
  refine tRun_joined_grows (fun u => ?_) t
  extract_lets v
  exact .ite (fun _ => (tRun_write_grows ..).trans (tRun_write_grows ..)) fun _ => tRun_write_grows ..

/-! ### What overlaps lies in what was written -/

theorem Covers.of_pieceMeet {p q : Piece} {a : Nat} (h : Covers (pieceMeet p q) a) :
    (p.pa ≤ a ∧ a < p.pa + p.len) ∧ (q.pa ≤ a ∧ a < q.pa + q.len) := by
  obtain ⟨x, hx, hlo, hhi⟩ := h
  unfold pieceMeet at hx
  extract_lets lo hi at hx
  split_ifs at hx with hlt
  · rw [List.mem_singleton.1 hx] at hlo hhi
    dsimp only [lo, hi] at hlo hhi hlt
    omega
  · cases hx

theorem Covers.of_flatMap {α : Type} {f : α → List Piece} {l : List α} {a : Nat} (h : Covers (l.flatMap f) a) :
    ∃ x ∈ l, Covers (f x) a := by
  obtain ⟨p, hp, hin⟩ := h
  obtain ⟨x, hx, hp⟩ := List.mem_flatMap.1 hp
  exact ⟨x, hx, p, hp, hin⟩

theorem Covers.of_shared {t : TRun} {a : Nat} (h : Covers t.shared a) : Covers t.wr a := by
  obtain ⟨w, hw, h⟩ := h.of_flatMap
  obtain ⟨q, -, h⟩ := h.of_flatMap
  exact ⟨w, hw, h.of_pieceMeet.1⟩

theorem Covers.of_selfMeets {l : List Piece} {a : Nat} (h : Covers (selfMeets l) a) : Covers l a := by
  induction l with
  | nil => exact h
  | cons p r ih =>
    obtain ⟨x, hx, hin⟩ := h
    rw [selfMeets] at hx
    rcases List.mem_append.1 hx with hx | hx
    · obtain ⟨q, -, hmeet⟩ := Covers.of_flatMap ⟨x, hx, hin⟩
      exact ⟨p, List.mem_cons_self .., hmeet.of_pieceMeet.1⟩
    · exact (ih ⟨x, hx, hin⟩).of_subset (List.subset_cons_self ..)

theorem Covers.of_unionFrom {cur : Piece} {l : List Piece} {a : Nat} (h : Covers (unionFrom cur l) a) : Covers (cur :: l) a := by
  induction l generalizing cur with
  | nil => exact h
  | cons q r ih =>
    rw [unionFrom] at h
    split_ifs at h with hjoin
    · obtain ⟨x, hx, hlo, hhi⟩ := ih h
      rcases List.mem_cons.1 hx with rfl | hx
      · by_cases hcur : a < cur.pa + cur.len
        · exact ⟨cur, List.mem_cons_self .., hlo, hcur⟩
        · dsimp only at hlo hhi
          exact ⟨q, List.mem_cons_of_mem _ (List.mem_cons_self ..), by omega, by omega⟩
      · exact ⟨x, List.mem_cons_of_mem _ (List.mem_cons_of_mem _ hx), hlo, hhi⟩
    · obtain ⟨x, hx, hin⟩ := h
      rcases List.mem_cons.1 hx with rfl | hx
      · exact ⟨x, List.mem_cons_self .., hin⟩
      · exact (ih ⟨x, hx, hin⟩).of_subset (List.subset_cons_self ..)

theorem Covers.of_unionPieces {l : List Piece} {a : Nat} (h : Covers (unionPieces l) a) : Covers l a := by
  unfold unionPieces at h
  split at h
  · next hnil => exact absurd h (by rintro ⟨_, hx, -⟩; cases hx)
  · next p r hsort =>
    refine h.of_unionFrom.of_subset fun x hx => ?_
    rw [← hsort] at hx
    exact mem_sortBy.1 hx

theorem mem_addrsOf {l : List Piece} {a : Nat} (h : a ∈ addrsOf l) : Covers l a := by
  obtain ⟨p, hp, ha⟩ := List.mem_flatMap.1 h
  obtain ⟨i, hi, rfl⟩ := List.mem_map.1 ha
  have := List.mem_range.1 hi
  exact ⟨p, hp, by omega, by omega⟩

theorem settleTwice_writes (l : List TEnt) (s : State) : Writes [.hostMem, .freeCtr] s (settleTwice l s) :=
  .foldl (fun _ _ => .of_mix rfl) _ s

/-- What several elements were written to lies in the writes. -/
theorem memGet_settleTwice_out {l : List TEnt} {a : Nat} (h : ¬ Covers (l.flatMap (·.runs)) a) (s : State) :
    memGet (settleTwice l s).hostMem a = memGet s.hostMem a := by
  refine List.foldlRecOn (motive := fun t : State => memGet t.hostMem a = memGet s.hostMem a) _ _ rfl fun t ht b hb => ?_
  have hne : a ≠ b := fun hab => h (hab ▸ (mem_addrsOf hb)).of_unionPieces.of_selfMeets
  rw [← ht]
  exact memGet_memWrite_out (by simp; omega)

/-- Writes of a run, by their log, lie in its pieces. -/
theorem Covers.of_runs {l : List TEnt} {w : List Piece} {a : Nat} (hl : ∀ e ∈ l, e.runs ⊆ w) (h : Covers (l.flatMap (·.runs)) a) :
    Covers w a := by
  obtain ⟨e, he, h⟩ := h.of_flatMap
  exact h.of_subset (hl e he)

end Sys2Proof.Machine
end

section
/-! PROOFS. Collective operations leave the Keyring, the epochs and what the windows have posted (R291, R296, R305). -/

namespace Sys2Proof.Machine

-- One declaration at a time: see the frames of the state's operations.
set_option Elab.async false

/-- The windows by their number, and what each has posted. -/
def winPosts (s : State) : List (Nat × List Nat) := s.bias.wins.map fun y => (y.w, y.posted)

/-- What the collectives leave: the Keyring, the number of slots, the epochs, and what the windows have posted. -/
structure LoopKept (s t : State) : Prop where
  keyring : t.keyring = s.keyring
  slots : t.slots.length = s.slots.length
  num : t.ep.num = s.ep.num
  epochs : t.ep.epochs = s.ep.epochs
  posts : winPosts t = winPosts s

namespace LoopKept

theorem refl (s : State) : LoopKept s s := ⟨rfl, rfl, rfl, rfl, rfl⟩

theorem trans {s t u : State} (hst : LoopKept s t) (htu : LoopKept t u) : LoopKept s u :=
  ⟨htu.keyring.trans hst.keyring, htu.slots.trans hst.slots, htu.num.trans hst.num, htu.epochs.trans hst.epochs,
    htu.posts.trans hst.posts⟩

theorem foldl {α : Type} {f : State → α → State} (hf : ∀ t x, LoopKept t (f t x)) (l : List α) (s : State) :
    LoopKept s (l.foldl f s) :=
  List.foldlRecOn (motive := LoopKept s) _ _ (.refl s) fun t ht x _ => ht.trans (hf t x)

theorem ite {c : Prop} [Decidable c] {s t u : State} (ht : c → LoopKept s t) (hu : ¬ c → LoopKept s u) :
    LoopKept s (if c then t else u) := by
  split_ifs with h
  · exact ht h
  · exact hu h

end LoopKept

theorem Writes.loopKept {l : List Fld} {s t : State} (h : Writes l s t) (hkeyring : .keyring ∉ l := by decide)
    (hslots : .slots ∉ l := by decide) (hep : .ep ∉ l := by decide) (hbias : .bias ∉ l := by decide) : LoopKept s t := by
  have hposts : t.bias = s.bias := h.same .bias hbias
  have hepochs : t.ep = s.ep := h.same .ep hep
  have hlist : t.slots = s.slots := h.same .slots hslots
  exact ⟨h.same .keyring hkeyring, by rw [hlist], by rw [hepochs], by rw [hepochs], by rw [winPosts, winPosts, hposts]⟩

/-! ### A job fault -/

theorem settleAll_slots_length (s : State) : (settleAll s).slots.length = s.slots.length := by
  have hsettle (i : Nat) (t : State) : (ctxSettle true i t).slots.length = t.slots.length := by
    unfold ctxSettle
    split
    · rfl
    · rw [(vaultSettle_writes ..).same .slots (by decide)]
      simp [ctxMap, setSlot]
  unfold settleAll
  extract_lets settled
  have hslots : settled.slots.length = s.slots.length :=
    List.foldlRecOn (motive := fun t : State => t.slots.length = s.slots.length) _ _ rfl fun t ht i _ => by
      split_ifs
      · exact (hsettle i t).trans ht
      · exact ht
  refine Eq.trans ?_ hslots
  have hvault (t : State) (x : DutySrc) : Writes [.vault] t (if x.held.isZero then t else vaultSettle true x.held t) :=
    .ite (fun _ => .refl _ t) (fun _ => vaultSettle_writes ..)
  rw [(Writes.foldl hvault _ _).same .slots (by decide)]

theorem faultedBy_loopKept (e : Event) (s : State) : LoopKept s (faultedBy e s) := by
  have hw := faultedBy_writes e s
  exact ⟨hw.same .keyring (by decide), List.length_map _, rfl, rfl, by rw [winPosts, winPosts, hw.same .bias (by decide)]⟩

theorem enterFaulted_loopKept (e : Event) (s : State) : LoopKept s (enterFaulted false e s) := by
  have hended : LoopKept s (jobEnded s) := by
    have hcmds := (cmdsEnded_writes s).loopKept
    have hset := settleAll_writes (cmdsEnded s)
    have hsettled : LoopKept (cmdsEnded s) (settleAll (cmdsEnded s)) :=
      ⟨hset.same .keyring (by decide), settleAll_slots_length _, by rw [hset.same .ep (by decide)],
        by rw [hset.same .ep (by decide)], by rw [winPosts, winPosts, hset.same .bias (by decide)]⟩
    exact (hcmds.trans hsettled).trans (endWaits_writes ..).loopKept
  rw [enterFaulted_eq]
  exact hended.trans (faultedBy_loopKept e _)

theorem jobFault_loopKept (unit status detail : Nat) (w : Where) (s : State) : LoopKept s (jobFault unit status detail w s) := by
  refine jobFault_cases (motive := LoopKept s) (.refl s) (fun e t ht => ?_) fun e t ht => ?_
  · exact ht.loopKept.trans (secondary_counts e t).1.loopKept
  · exact ht.loopKept.trans (enterFaulted_loopKept e t)

theorem xlateFault_loopKept (f : XFault) (w : Where) (s : State) : LoopKept s (xlateFault f w s) := jobFault_loopKept ..

theorem collFault_loopKept (h : CollHdr) (s : State) : LoopKept s (collFault h s) := jobFault_loopKept ..

/-- The requests of a unit, and what follows them. -/
theorem jobIo_loopKept {go : State → State} {s : State} (hgo : LoopKept s (go s)) (io : Io) (rd wr : List Piece) (bs : List Byte)
    (w : Where) : LoopKept s (jobIo io rd wr bs w go s) := by
  unfold jobIo
  split
  · exact hgo
  · exact (walkBroken_writes ..).loopKept.trans (jobFault_loopKept ..)
  · refine .ite (fun _ => hgo) fun _ => .ite (fun _ => ?_) fun _ => ?_
    · exact (writeBroken_writes ..).loopKept.trans (jobFault_loopKept ..)
    · exact (readBroken_writes ..).loopKept.trans (jobFault_loopKept ..)

/-! ### The chunks of a ring (R296, R299) -/

theorem opMap_writes (o : CollOp) (f : CollOp → CollOp) (s : State) : Writes [.coll] s (opMap o f s) := .of_mix rfl

theorem partAdd_writes (o : CollOp) (p : CollPart) (s : State) : Writes [.coll] s (partAdd o p s) := opMap_writes ..

theorem bufPump_writes (s : State) : Writes [.coll] s (bufPump s) := by
  unfold bufPump
  extract_lets waits l
  refine .trans ?_ (.foldl (fun _ _ => .of_mix rfl) _ _)
  exact .of_mix rfl

theorem bufDone_writes (h : CollHdr) (num : Nat) (s : State) : Writes [.coll] s (bufDone h num s) := by
  unfold bufDone
  refine .trans ?_ (bufPump_writes _)
  exact .of_mix rfl

/-- What the sending of a chunk writes. -/
def chunkFields : List Fld := .coll :: .kft :: .drip :: cellFields

theorem chunkLeave_writes (x : Outgoing) (s : State) : Writes chunkFields s (chunkLeave x s) := by
  unfold chunkLeave
  extract_lets e k _ h cls first _ s₁ cells _ s₂ _ s₃
  have h₁ : Writes chunkFields s s₁ := .of_mix rfl
  have h₂ : Writes chunkFields s₁ s₂ := .of_mix rfl
  have h₃ : Writes chunkFields s₂ s₃ := (sendMsg_writes ..).mono
  exact .after (freeCells_writes ..) (.after (dripAt_writes ..) ((h₁.trans h₂).trans h₃))

theorem chunkPump_writes (s : State) : Writes chunkFields s (chunkPump s) := by
  have hout : Writes [.coll] s { s with coll := { s.coll with waiting := [] } } := .of_mix rfl
  refine .trans (hout.trans (bufPump_writes _)).mono (.foldl (fun t x => .ite (fun _ => chunkLeave_writes x t) fun _ => ?_) _ _)
  exact .of_mix rfl

theorem chunkSend_writes (g : Group) (o : CollOp) (m key level : Nat) (dist : Bool) (vals : List Nat) (wait : Nat) (s : State) :
    Writes chunkFields s (chunkSend g o m key level dist vals wait s) := by
  unfold chunkSend
  extract_lets num data h x _ s₁
  have h₁ : Writes chunkFields s s₁ := .of_mix rfl
  exact .trans (.after (carafeAsk_writes ..) h₁) (chunkPump_writes _)

theorem forwardTotal_writes (g : Group) (o : CollOp) (m key from_ : Nat) (vals : List Nat) (wait : Nat) (s : State) :
    Writes chunkFields s (forwardTotal g o m key from_ vals wait s) :=
  .foldl (fun t _ => .ite (fun _ => .refl _ t) fun _ => chunkSend_writes ..) _ s

/-- A sum climbs its rings; what is kept is kept by what takes the total. -/
theorem climb_loopKept {total : Nat → List Nat → Nat → State → State} (htotal : ∀ l v w t, LoopKept t (total l v w t)) (g : Group)
    (o : CollOp) (m key fuel level : Nat) (vals : List Nat) (wait : Nat) (s : State) :
    LoopKept s (climb g o m key total fuel level vals wait s) := by
  induction fuel generalizing level s with
  | zero => exact (partAdd_writes ..).loopKept.trans (htotal ..)
  | succ n ih =>
    rw [climb]
    exact (partAdd_writes o ⟨key, level, vals, s.kt⟩ s).loopKept.trans (.ite (fun _ => ih ..) fun _ =>
      .ite (fun _ => (chunkSend_writes ..).loopKept) fun _ => .refl _)

/-! ### The totals (R292, R296, R297) -/

theorem writeTotal_grows (o : CollOp) (e c : Nat) (t : TRun) : TRun.Grows t (writeTotal o e c t) := by
  have hblock (d : Desc) (row : List Nat) (i : Nat) (l : List Nat) (t : TRun) : TRun.Grows t (writeBlock o d row i l t) := by
    unfold writeBlock
    extract_lets line pl u t₁ t₂ n t₃
    have h₁ : TRun.Grows t t₁ := tRun_write_grows ..
    have h₂ : TRun.Grows t₁ t₂ := .ite (fun _ => tRun_write_grows ..) fun _ => .refl _
    exact .ite (fun _ => ((h₁.trans h₂).trans (tRun_write_grows ..)).trans (tRun_write_grows ..)) fun _ => h₁.trans h₂
  unfold writeTotal
  extract_lets d n lo hi
  refine .ite (fun _ => .refl t) fun _ => .ite (fun _ => ?_) fun _ => .foldl (fun t b => ?_) _ t
  · split
    · exact .refl t
    · exact .foldl (fun t k => tRun_write_grows ..) _ t
  · extract_lets i
    split
    · exact .refl t
    · exact hblock ..

theorem TRun.Grows.loopKept {s : State} {t : TRun} (h : TRun.Grows (TRun.start s) t) : LoopKept s t.s := h.writes.loopKept

theorem dataTotal_loopKept (g : Group) (o : CollOp) (m key from_ : Nat) (vals : List Nat) (wait : Nat) (s : State) :
    LoopKept s (dataTotal g o m key from_ vals wait s) := by
  unfold dataTotal
  extract_lets s₁ s₂
  have hsent : LoopKept s s₂ := (partAdd_writes ..).loopKept.trans (forwardTotal_writes ..).loopKept
  split
  · exact hsent
  · next y _ =>
    refine .ite (fun _ => hsent) fun _ => ?_
    extract_lets t
    have hwritten : LoopKept s t.s := hsent.trans (writeTotal_grows ..).loopKept
    split
    · exact hwritten.trans (xlateFault_loopKept ..)
    · exact hwritten

/-! ### The end of an operation -/

theorem slowReport_writes (o : CollOp) (s : State) : Writes [.coll, .ev, .counters, .drip] s (slowReport o s) := by
  refine .foldl (fun t c => ?_) _ s
  extract_lets _ u
  have hu : Writes [.coll, .ev, .counters, .drip] t u := .ite (fun _ => .of_mix rfl) fun _ => .refl _ t
  exact .ite (fun _ => .after (emit_writes ..) hu) fun _ => hu

theorem opEnd_loopKept (o : CollOp) (status r0 : Nat) (sums : List Nat) (s : State) : LoopKept s (opEnd o status r0 sums s) := by
  unfold opEnd
  extract_lets o' _ s₁ _ s₂
  have hout : Writes [.coll] s { s with coll := { s.coll with
    ops := s.coll.ops.filter fun x => !sameOp x o',
    retired := (o'.group, o'.loopQ, o'.seq) :: s.coll.retired.filter fun r => !decide (r.1 = o'.group ∧ r.2.1 = o'.loopQ) } } := .of_mix rfl
  have h₁ : LoopKept s s₁ := hout.loopKept.trans (slowReport_writes ..).loopKept
  have h₂ : LoopKept s₁ s₂ := by
    unfold s₂
    split
    · exact (finish_writes ..).loopKept
    · refine ⟨rfl, rfl, rfl, rfl, ?_⟩
      rw [winPosts, winPosts, List.map_map]
      refine List.map_congr_left fun x _ => ?_
      dsimp only [Function.comp]
      split_ifs <;> rfl
  exact (h₁.trans h₂).trans (closeTry_fencesOnly _).writes.loopKept

/-! ### Lengths and contributions (R292, R294, R295) -/

theorem startData_loopKept (g : Group) (o : CollOp) (m n : Nat) (s : State) : LoopKept s (startData g o m n s) := by
  unfold startData
  extract_lets e s₁ o'
  refine (opMap_writes ..).loopKept.trans (.foldl (fun t c => .ite (fun _ => ?_) fun _ => .refl t) _ _)
  exact climb_loopKept (fun l v w t => dataTotal_loopKept ..) ..

theorem agreeLength_loopKept (g : Group) (o : CollOp) (m n : Nat) (s : State) : LoopKept s (agreeLength g o m n s) :=
  .ite (fun _ => opEnd_loopKept ..) fun _ => .ite (fun _ => opEnd_loopKept ..) fun _ => startData_loopKept ..

theorem lengthTotal_loopKept (g : Group) (o : CollOp) (m from_ : Nat) (vals : List Nat) (wait : Nat) (s : State) :
    LoopKept s (lengthTotal g o m from_ vals wait s) := by
  unfold lengthTotal
  extract_lets s₁
  exact ((partAdd_writes ..).loopKept.trans (forwardTotal_writes ..).loopKept).trans (agreeLength_loopKept ..)

theorem totalStep_loopKept (g : Group) (o : CollOp) (m key from_ : Nat) (vals : List Nat) (wait : Nat) (s : State) :
    LoopKept s (totalStep g o m key from_ vals wait s) := by
  unfold totalStep
  split_ifs
  · exact lengthTotal_loopKept ..
  · exact dataTotal_loopKept ..

/-! ### Staged chunks (R294, R299) -/

theorem chunkTake_loopKept (x : Staged) (s : State) : LoopKept s (chunkTake x s) := by
  unfold chunkTake
  extract_lets h _ u
  have hu : LoopKept s u := Writes.loopKept (l := [.coll]) (.of_mix rfl)
  clear_value u
  split
  · split
    · exact hu
    · extract_lets own v
      refine .ite (fun _ => hu.trans (collFault_loopKept ..)) fun _ => .ite (fun _ => hu.trans (jobFault_loopKept ..)) fun _ => ?_
      have hv : LoopKept s v := hu.trans (opMap_writes ..).loopKept
      refine .ite (fun _ => (hv.trans (totalStep_loopKept ..)).trans (bufDone_writes ..).loopKept) fun _ => ?_
      split
      · exact hv
      · refine .ite (fun _ => hv.trans (jobFault_loopKept ..)) fun _ => ?_
        extract_lets r
        refine .trans (hv.trans (.ite (fun _ => ?_) fun _ => (chunkSend_writes ..).loopKept)) (bufDone_writes ..).loopKept
        exact climb_loopKept (fun l v w t => totalStep_loopKept ..) ..
  · exact hu

theorem collDrain_loopKept (n : Nat) (s : State) : LoopKept s (collDrain n s) := by
  induction n generalizing s with
  | zero => exact .refl s
  | succ n ih =>
    rw [collDrain]
    refine .ite (fun _ => ?_) fun _ => .refl s
    split
    · exact .refl s
    · exact (chunkTake_loopKept ..).trans (ih _)

theorem collRun_loopKept (s : State) : LoopKept s (collRun s) := collDrain_loopKept ..

/-! ### An operation starts (R291, R292) -/

theorem readOwn_grows (o : CollOp) (t : TRun) : TRun.Grows t (readOwn o t).1 := by
  unfold readOwn
  extract_lets d r
  exact TRun.Grows.foldlFst (fun (a : TRun × List Nat) i => elemRead_grows d (d.outer (i / d.size 0)) (i % d.size 0) a.1) _
    (t, ([] : List Nat))

theorem opGo_loopKept (g : Group) (o : CollOp) (own : List Nat) (n : Nat) (s : State) : LoopKept s (opGo g o own n s) := by
  unfold opGo
  split
  · exact .refl s
  · extract_lets o' u v
    have hu : LoopKept s u := (opMap_writes ..).loopKept
    refine .trans (.trans hu (.ite (fun _ => ?_) fun _ => agreeLength_loopKept ..)) (collRun_loopKept _)
    exact climb_loopKept (fun l v w t => lengthTotal_loopKept ..) ..

theorem opStart_loopKept (o : CollOp) (s : State) : LoopKept s (opStart o s) := by
  unfold opStart
  split
  · exact .refl s
  · refine .ite (fun _ => opGo_loopKept ..) fun _ => .ite (fun _ => opEnd_loopKept ..) fun _ => .ite (fun _ => opGo_loopKept ..) fun _ => ?_
    extract_lets r
    have hread : LoopKept s r.1.s := (readOwn_grows ..).loopKept
    split
    · exact hread.trans (xlateFault_loopKept ..)
    · exact hread.trans (jobIo_loopKept (opGo_loopKept ..) ..)

theorem opPost_loopKept (o : CollOp) (s : State) : LoopKept s (opPost o s) := by
  unfold opPost
  extract_lets _ u
  have hu : LoopKept s u := Writes.loopKept (l := [.coll]) (.of_mix rfl)
  exact .ite (fun _ => hu.trans (opStart_loopKept ..)) fun _ => hu

theorem postLoop_loopKept (x : BiasWin) (g : Nat) (s : State) : LoopKept s (postLoop x g s) := opPost_loopKept ..

end Sys2Proof.Machine
end

section
/-! PROOFS. The bias loop: the sums of a window, and its update (R121, R124 to R127, R291, R305). -/

namespace Sys2Proof.Machine

-- One declaration at a time: see the frames of the state's operations.
set_option Elab.async false

/-! ### The Keyring under a rewrite (R126) -/

theorem insertBy_map {α : Type} {lt : α → α → Bool} {g : α → α} (hg : ∀ a b, lt (g a) (g b) = lt a b) (x : α) (l : List α) :
    insertBy lt (g x) (l.map g) = (insertBy lt x l).map g := by
  induction l with
  | nil => rfl
  | cons y l ih =>
    rw [List.map_cons, insertBy, insertBy, hg]
    split_ifs
    · rfl
    · rw [List.map_cons, ih]

theorem sortBy_map {α : Type} {lt : α → α → Bool} {g : α → α} (hg : ∀ a b, lt (g a) (g b) = lt a b) (l : List α) :
    sortBy lt (l.map g) = (sortBy lt l).map g := by
  have hfold (acc : List α) : (l.map g).foldl (fun acc a => insertBy lt a acc) (acc.map g) =
      (l.foldl (fun acc a => insertBy lt a acc) acc).map g := by
    induction l generalizing acc with
    | nil => rfl
    | cons a l ih => rw [List.map_cons, List.foldl_cons, List.foldl_cons, insertBy_map hg, ih]
  exact hfold []

/-- A change of arrays that keeps their epoch and layer changes what is found alike. -/
theorem krFind_map {g : KrArray → KrArray} (hepoch : ∀ y, (g y).epoch = y.epoch) (hlayer : ∀ y, (g y).layer = y.layer)
    (cp : List KrArray) (e l : Nat) : krFind (cp.map g) e l = (krFind cp e l).map g := by
  have hsame : (fun a : KrArray => decide (a.layer = l ∧ a.epoch ≤ e)) ∘ g = fun a => decide (a.layer = l ∧ a.epoch ≤ e) := by
    funext a
    simp only [Function.comp, hepoch, hlayer]
  rw [krFind, krFind, List.filter_map, hsame, sortBy_map fun a b => by simp only [hepoch], List.head?_map]

theorem krFind_layer {cp : List KrArray} {e l : Nat} {a : KrArray} (h : krFind cp e l = some a) : a.layer = l := by
  have hmem := mem_sortBy.1 (List.mem_of_mem_head? h)
  exact (of_decide_eq_true (List.mem_filter.1 hmem).2).1

/-- The entries of one array, rewritten. -/
def rewrittenAs (a : KrArray) (f : List DWord → List DWord) (y : KrArray) : KrArray :=
  if y.epoch = a.epoch ∧ y.layer = a.layer then { y with entries := f y.entries, digest := krDigest (f y.entries) } else y

/-- One copy with the array in force rewritten. -/
def copyRewritten (epoch layer : Nat) (f : List DWord → List DWord) (cp : List KrArray) : List KrArray :=
  match krFind cp epoch layer with
  | none => cp
  | some a => cp.map (rewrittenAs a f)

theorem krRewrite_keyring (epoch layer : Nat) (f : List DWord → List DWord) (s : State) :
    (krRewrite epoch layer f s).keyring = s.keyring.map (copyRewritten epoch layer f) := rfl

theorem krCopy_krRewrite (epoch layer : Nat) (f : List DWord → List DWord) (s : State) (k : Nat) :
    krCopy (krRewrite epoch layer f s) k = copyRewritten epoch layer f (krCopy s k) := by
  have hnone : copyRewritten epoch layer f [] = [] := rfl
  rw [krCopy, krRewrite_keyring, ← hnone, List.getD_map, krCopy]

theorem rewrittenAs_epoch (a : KrArray) (f : List DWord → List DWord) (y : KrArray) :
    (rewrittenAs a f y).epoch = y.epoch ∧ (rewrittenAs a f y).layer = y.layer := by
  unfold rewrittenAs
  split_ifs <;> exact ⟨rfl, rfl⟩

theorem krFind_copyRewritten_ne {layer l : Nat} (h : layer ≠ l) (epoch e : Nat) (f : List DWord → List DWord) (cp : List KrArray) :
    krFind (copyRewritten epoch layer f cp) e l = krFind cp e l := by
  unfold copyRewritten
  split
  · rfl
  · next a ha =>
    rw [krFind_map (fun y => (rewrittenAs_epoch a f y).1) (fun y => (rewrittenAs_epoch a f y).2)]
    cases hb : krFind cp e l with
    | none => rfl
    | some b =>
      have hne : ¬ (b.epoch = a.epoch ∧ b.layer = a.layer) := fun hsame =>
        h ((krFind_layer ha).symm.trans (hsame.2.symm.trans (krFind_layer hb)))
      rw [Option.map_some, rewrittenAs, if_neg hne]

theorem krFind_copyRewritten_self {cp : List KrArray} {epoch layer : Nat} {a : KrArray} (h : krFind cp epoch layer = some a)
    (f : List DWord → List DWord) : krFind (copyRewritten epoch layer f cp) epoch layer =
      some { a with entries := f a.entries, digest := krDigest (f a.entries) } := by
  rw [copyRewritten, h]
  dsimp only
  rw [krFind_map (fun y => (rewrittenAs_epoch a f y).1) (fun y => (rewrittenAs_epoch a f y).2), h, Option.map_some,
    rewrittenAs, if_pos ⟨rfl, rfl⟩]

/-! ### A window's update (R126, R128) -/

/-- The update of one layer of a window. -/
def layerUpdated (x : BiasWin) (n : Nat) (t : State) (l : Layer) : State :=
  match x.sums.find? fun q => decide (q.1 = l.layer) with
  | some q => krRewrite x.epoch l.layer (biasLayer (stepP t 0x0501 n) (stepP t 0x0502 n) q.2) t
  | none => t

theorem biasApply_eq (x : BiasWin) (s : State) : biasApply x s = winMap x.w (fun y => { y with applied := true })
    (if stepP s 0x0503 (winStart s (x.w + 2)) = 1 then s
      else (winLayers s x).foldl (layerUpdated x (winStart s (x.w + 2))) s) := rfl

theorem layerUpdated_writes (x : BiasWin) (n : Nat) (t : State) (l : Layer) : Writes [.keyring] t (layerUpdated x n t l) := by
  unfold layerUpdated
  split
  · exact .of_mix rfl
  · exact .refl _ t

theorem biasApply_writes (x : BiasWin) (s : State) : Writes [.keyring, .bias] s (biasApply x s) := by
  rw [biasApply_eq]
  have hrewritten : Writes [.keyring] s (if stepP s 0x0503 (winStart s (x.w + 2)) = 1 then s
      else (winLayers s x).foldl (layerUpdated x (winStart s (x.w + 2))) s) :=
    .ite (fun _ => .refl _ s) fun _ => .foldl (layerUpdated_writes x _) _ s
  exact hrewritten.mono.trans (.of_mix rfl)

theorem krCopy_winMap (w : Nat) (f : BiasWin → BiasWin) (s : State) (k : Nat) : krCopy (winMap w f s) k = krCopy s k := rfl

theorem winMap_applied {w : Nat} {f : BiasWin → BiasWin} {s : State} {Q : BiasWin → Prop} (hf : ∀ y, Q (f y)) :
    ∀ y ∈ (winMap w f s).bias.wins, y.w = w → Q y := by
  intro y hy hyw
  obtain ⟨z, -, rfl⟩ := List.mem_map.1 hy
  split_ifs at hyw ⊢ with hz
  · exact hf z
  · exact absurd hyw hz

theorem layerUpdated_other {x : BiasWin} {l : Layer} {m : Nat} (h : l.layer ≠ m) (n : Nat) (t : State) (k e : Nat) :
    krFind (krCopy (layerUpdated x n t l) k) e m = krFind (krCopy t k) e m := by
  unfold layerUpdated
  split
  · rw [krCopy_krRewrite, krFind_copyRewritten_ne h]
  · rfl

/-- The arrays of layers that the window does not have stay. -/
theorem biasApply_other {x : BiasWin} {s : State} {m : Nat} (h : ∀ q ∈ winLayers s x, q.layer ≠ m) (k e : Nat) :
    krFind (krCopy (biasApply x s) k) e m = krFind (krCopy s k) e m := by
  have hkept (l : List Layer) (hl : ∀ q ∈ l, q.layer ≠ m) (n : Nat) :
      krFind (krCopy (l.foldl (layerUpdated x n) s) k) e m = krFind (krCopy s k) e m :=
    List.foldlRecOn (motive := fun t : State => krFind (krCopy t k) e m = krFind (krCopy s k) e m) _ _ rfl fun t ht q hq =>
      (layerUpdated_other (hl q hq) n t k e).trans ht
  rw [biasApply_eq, krCopy_winMap]
  split_ifs
  · rfl
  · exact hkept _ h _

/-- The one layer of a window gets its update, in every copy (R126). -/
theorem biasApply_layer {x : BiasWin} {s : State} {l : Layer} {q : Nat × List Nat} {a : KrArray} {k : Nat}
    (hgoes : stepP s 0x0503 (winStart s (x.w + 2)) ≠ 1) (hone : winLayers s x = [l])
    (hsum : (x.sums.find? fun y => decide (y.1 = l.layer)) = some q) (ha : krFind (krCopy s k) x.epoch l.layer = some a) :
    ∃ b, krFind (krCopy (biasApply x s) k) x.epoch l.layer = some b ∧ b.epoch = a.epoch ∧
      b.entries = biasLayer (stepP s 0x0501 (winStart s (x.w + 2))) (stepP s 0x0502 (winStart s (x.w + 2))) q.2 a.entries := by
  have hself := krFind_copyRewritten_self ha
    (biasLayer (stepP s 0x0501 (winStart s (x.w + 2))) (stepP s 0x0502 (winStart s (x.w + 2))) q.2)
  refine ⟨_, Eq.trans ?_ hself, rfl, rfl⟩
  rw [biasApply_eq, if_neg hgoes, hone, List.foldl_cons, List.foldl_nil]
  rw [krCopy_winMap, layerUpdated, hsum]
  dsimp only
  rw [krCopy_krRewrite]

/-! ### O43 -/

theorem exec_loopSumPost {s : State} (hlost : s.rst.rootLost = false) {w : Nat} {x : BiasWin}
    (hx : (s.bias.wins.find? fun x => decide (x.w = w)) = some x) : exec (.loopSumPost w) s =
      .next (if collLive s ∧ x.closed ∧ winFrozen s x.w = false ∧ x.posted = [] ∧ winScored s x ∧ postsFirst s x = false ∧
          (winLayers s x).isEmpty = false then
        (sortBy (fun (a b : Nat) => decide (a < b)) (winGroups s x)).foldl (fun t g => postLoop x g t)
          (winMap w (fun y => { y with posted := sortBy (fun (a b : Nat) => decide (a < b)) (winGroups s x) }) s)
      else s) := by
  rw [exec, execLoopSumPost, live_next hlost, hx]

theorem exec_biasUpdate {s : State} (hlost : s.rst.rootLost = false) {w : Nat} {x : BiasWin}
    (hx : (s.bias.wins.find? fun x => decide (x.w = w)) = some x) : exec (.biasUpdate w) s =
      .next (if winOwes s x ∧ winSummed s x ∧ stepTaken s (winStart s (w + 2)) ∧ scoredBelow s (winStart s (w + 2)) ∧
          switchComes s w = false then
        match krReadBad x.epoch ((winLayers s x).map (·.layer)) s with
        | some k => jobFault (0x10 + k) 0x0406 0 Where.none s
        | none => biasApply x s
      else s) := by
  rw [exec, execBiasUpdate, live_next hlost, hx] <;> rfl

/-- Settles O43: a post through the frames of the collectives, and an update through the arrays it rewrites. -/
theorem biasRowsComplete : Obligations.BiasRowsComplete := by
  unfold Obligations.BiasRowsComplete
  intro w s hlost
  refine ⟨fun x hx => ⟨fun hlive hclosed hfree hnot hscored hfirst hlayers => ?_, fun hno => ?_, ?_⟩, fun hnone => ⟨?_, ?_⟩⟩
  · have hw : x.w = w := by simpa using List.find?_some hx
    have hexec := exec_loopSumPost hlost hx
    rw [if_pos ⟨hlive, hclosed, by rw [hw]; exact hfree, hnot, hscored, hfirst, by simpa using hlayers⟩] at hexec
    have hset := winMap_applied (w := w) (s := s) (f := fun y => { y with posted := sortBy (fun (a b : Nat) => decide (a < b)) (winGroups s x) })
      (Q := fun y => y.posted = sortBy (fun (a b : Nat) => decide (a < b)) (winGroups s x)) fun _ => rfl
    obtain ⟨hkeyring, hslots, hnum, hepochs, hposts⟩ := LoopKept.foldl (fun t g => postLoop_loopKept x g t)
      (sortBy (fun (a b : Nat) => decide (a < b)) (winGroups s x))
      (winMap w (fun y => { y with posted := sortBy (fun (a b : Nat) => decide (a < b)) (winGroups s x) }) s)
    refine ⟨_, hexec, fun y hy hyw => ?_, hkeyring, hslots, hnum, hepochs⟩
    have hmem := List.mem_map_of_mem (f := fun y : BiasWin => (y.w, y.posted)) hy
    rw [show List.map _ _ = _ from hposts] at hmem
    obtain ⟨z, hz, hzy⟩ := List.mem_map.1 hmem
    obtain ⟨hzw, hzp⟩ := Prod.mk.inj hzy
    rw [← hzp]
    exact hset z hz (hzw.trans hyw)
  · have hw : x.w = w := by simpa using List.find?_some hx
    rw [exec_loopSumPost hlost hx, if_neg]
    rintro ⟨hlive, hclosed, hfree, hnot, hscored, hfirst, -⟩
    rw [hw] at hfree
    simp [hlive, hclosed, hfree, hnot, hscored, hfirst] at hno
  · intro n bad
    have hw : x.w = w := by simpa using List.find?_some hx
    have hexec := exec_biasUpdate hlost hx
    refine ⟨fun howes hsummed htaken hscored hswitch => ?_, fun hno => ?_⟩
    · rw [if_pos ⟨howes, hsummed, htaken, hscored, hswitch⟩] at hexec
      refine ⟨fun hgood => ?_, fun k hbad hlive => ?_⟩
      · rw [show krReadBad _ _ _ = none from hgood] at hexec
        have hwrites := biasApply_writes x s
        refine ⟨_, hexec, ?_, hwrites.eq_mix, fun k e l hl => biasApply_other hl k e, fun hfrozen => ?_,
          fun k l q a hgoes hone hsum ha => ?_⟩
        · rw [biasApply_eq, hw]
          exact winMap_applied fun _ => rfl
        · rw [biasApply_eq, hw, if_pos hfrozen]
          rfl
        · have hlayer := biasApply_layer (k := k) (by rw [hw]; exact hgoes) hone hsum ha
          rw [hw] at hlayer
          exact hlayer
      · rw [show krReadBad _ _ _ = some k from hbad] at hexec
        obtain ⟨hclosed, hfaulted⟩ : s.job.st ≠ .closed ∧ s.job.st ≠ .faulted := by simpa [collLive] using hlive
        obtain ⟨hst, -, hunit, hdetail, -⟩ := jobFault_names hclosed hfaulted (0x10 + k) 0x0406 0 Where.none
        exact ⟨_, hexec, hst, hunit, hdetail, (jobFault_loopKept ..).keyring⟩
    · rw [hexec, if_neg]
      rintro ⟨howes, hsummed, htaken, hscored, hswitch⟩
      rw [howes, hsummed, htaken, hscored, hswitch] at hno
      simp at hno
  · rw [exec, execLoopSumPost, live_next hlost, hnone]
  · rw [exec, execBiasUpdate, live_next hlost, hnone]

end Sys2Proof.Machine
end

section
/-! PROOFS. The tensor commands: tiles, their writes, and the end of a run (R94, R131, R191, R198 to R212). -/

namespace Sys2Proof.Machine

-- One declaration at a time: see the frames of the state's operations.
set_option Elab.async false

/-! ### Tiles (R211) -/

/-- The bytes that a tile writes. -/
def TTile.pieces (t : TTile) : List Piece := t.runs.map fun r => { pa := r.1, len := r.2 }

/-- Each tile writes within some pieces. -/
def TilesIn (w : List Piece) (l : List TTile) : Prop := ∀ t ∈ l, ∀ a, Covers t.pieces a → Covers w a

theorem cutRuns_in {w l : List Piece} (hl : ∀ a, Covers l a → Covers w a) (n : Nat) (bs : List Byte) :
    TilesIn w (cutRuns n l bs) := by
  induction n generalizing l bs with
  | zero => exact fun t ht => absurd ht List.not_mem_nil
  | succ n ih =>
    rw [cutRuns]
    split_ifs
    · exact fun t ht => absurd ht List.not_mem_nil
    · extract_lets head rest
      have hhead (a : Nat) (h : Covers (head.map fun r => { pa := r.1, len := r.2 }) a) : Covers l a := by
        revert h
        refine List.foldlRecOn (motive := fun x : List (Nat × Nat) × Nat =>
          Covers (x.1.map fun r => { pa := r.1, len := r.2 }) a → Covers l a) _ _ (fun h => ?_) fun x hx p hp h => ?_
        · obtain ⟨_, hq, -⟩ := h
          cases hq
        · split_ifs at h
          · exact hx h
          · obtain ⟨q, hq, hlo, hhi⟩ := h
            rw [List.map_append, List.mem_append] at hq
            rcases hq with hq | hq
            · exact hx ⟨q, hq, hlo, hhi⟩
            · rw [List.map_singleton, List.mem_singleton] at hq
              subst hq
              dsimp only at hlo hhi
              exact ⟨p, hp, hlo, by omega⟩
      have hrest (a : Nat) (h : Covers rest a) : Covers l a := by
        revert h
        refine List.foldlRecOn (motive := fun x : List Piece × Nat => Covers x.1 a → Covers l a) _ _ (fun h => ?_)
          fun x hx p hp h => ?_
        · obtain ⟨_, hq, -⟩ := h
          cases hq
        · split_ifs at h
          · exact hx h
          · obtain ⟨q, hq, hlo, hhi⟩ := h
            rcases List.mem_append.1 hq with hq | hq
            · exact hx ⟨q, hq, hlo, hhi⟩
            · rw [List.mem_singleton] at hq
              subst hq
              dsimp only at hlo hhi
              exact ⟨p, hp, by omega, by omega⟩
      intro t ht a ha
      rcases List.mem_cons.1 ht with rfl | ht
      · exact hl a (hhead a ha)
      · exact ih (fun a ha => hl a (hrest a ha)) _ t ht a ha

theorem rowCount_in {w : List Piece} {l : List TTile} (h : TilesIn w l) : TilesIn w (rowCount l) := by
  induction l with
  | nil => exact h
  | cons x r ih =>
    have hx := h x (List.mem_cons_self ..)
    cases r with
    | nil =>
      intro t ht
      rw [rowCount, List.mem_singleton] at ht
      subst ht
      exact hx
    | cons y r =>
      intro t ht
      rw [rowCount] at ht
      · rcases List.mem_cons.1 ht with rfl | ht
        · exact hx
        · exact ih (fun t ht => h t (List.mem_cons_of_mem _ ht)) t ht
      · simp

theorem tilesOf_in {w : List Piece} {l : List TEnt} (hl : ∀ e ∈ l, e.runs ⊆ w) (rows : Bool) : TilesIn w (tilesOf rows l) := by
  intro t ht
  obtain ⟨e, he, ht⟩ := List.mem_flatMap.1 ht
  have hcut := cutRuns_in (w := w) (l := e.runs) (fun a ha => ha.of_subset (hl e he)) (e.bytes.length / 4096 + 1) e.bytes
  dsimp only at ht
  split_ifs at ht
  · exact rowCount_in hcut t ht
  · exact hcut t ht

/-- Bytes that end open go with the last tile: as many tiles, of the same counts. -/
theorem tilesClose_counts (l : List TTile) (fix : List Piece) (m : Mem) :
    (tilesClose l fix m).map (·.count) = l.map (·.count) := by
  unfold tilesClose
  split_ifs
  · rfl
  · split
    · next h => rw [List.getLast?_eq_none_iff.1 h]
    · next t h =>
      obtain ⟨r, rfl⟩ := List.getLast?_eq_some_iff.1 h
      simp

theorem tilesClose_in {w : List Piece} {l : List TTile} {fix : List Piece} (hl : TilesIn w l) (hfix : ∀ a, Covers fix a → Covers w a)
    (m : Mem) : TilesIn w (tilesClose l fix m) := by
  unfold tilesClose
  split_ifs
  · exact hl
  · split
    · exact fun t ht => absurd ht List.not_mem_nil
    · next t h =>
      have ht := hl t (List.mem_of_getLast? h)
      intro u hu a ha
      rcases List.mem_append.1 hu with hu | hu
      · exact hl u (List.dropLast_subset _ hu) a ha
      · rw [List.mem_singleton] at hu
        subst hu
        obtain ⟨q, hq, hin⟩ := ha
        rw [TTile.pieces, List.map_append, List.map_map, List.mem_append] at hq
        rcases hq with hq | hq
        · exact ht a ⟨q, hq, hin⟩
        · obtain ⟨x, hx, rfl⟩ := List.mem_map.1 hq
          exact hfix a ⟨x, hx, hin⟩

theorem tileWrite_writes (t : TTile) (s : State) : Writes [.hostMem] s (tileWrite t s) := .of_mix rfl

/-- Tiles write no byte outside their pieces. -/
theorem memGet_tilesWritten_out {w : List Piece} {l : List TTile} (hl : TilesIn w l) {a : Nat} (ha : ¬ Covers w a) (s : State) :
    memGet (l.foldl (fun t x => tileWrite x t) s).hostMem a = memGet s.hostMem a := by
  refine List.foldlRecOn (motive := fun t : State => memGet t.hostMem a = memGet s.hostMem a) _ _ rfl fun t ht x hx => ?_
  rw [← ht]
  exact memGet_writePieces_out x.pieces x.bytes t.hostMem (not_covers_iff.1 fun h => ha (hl x hx a h))

/-! ### A run goes on (R131, R210, R211) -/

/-- A final reply to a command is queued. -/
def Answered (p : Packet) (n st r0 : Nat) (u : State) : Prop :=
  ∃ r ∈ u.latch.replies, r.tag = p.tag.toNat ∧ r.order = n ∧ r.status = st ∧ r.final = true ∧ r.r0 = r0

theorem finish_answered {p : Packet} {n : Nat} {s : State} (hopen : s.latch.opened.any (fun x => sameCmd x (openOf p n)) = true)
    (st r0 r1 : Nat) : Answered p n st r0 (finish (openOf p n) st r0 r1 0 0 s) := by
  rw [finish_of_open hopen]
  exact ⟨_, List.mem_append_right _ (List.mem_singleton_self _), rfl, rfl, rfl, rfl, rfl⟩

/-- What a tensor run writes. -/
def tensorFields : List Fld := [.hostMem, .keyway, .freeCtr, .tensors, .latch, .drip, .counters, .mport]

/-- The state's host memory is changed within some pieces, and nothing else but commands and counts. -/
def TensorKept (w : List Piece) (s u : State) : Prop :=
  Writes tensorFields s u ∧ ∀ a, ¬ Covers w a → memGet u.hostMem a = memGet s.hostMem a

/-- A run that goes on for `k` tiles ends with its last, or is set aside with those it still has (R211). -/
theorem tensorGo_goes {w : List Piece} {r : TensorRun} {p : Packet} {n : Nat} {s : State} (hcmd : r.cmd = openOf p n)
    (hopen : s.latch.opened.any (fun x => sameCmd x (openOf p n)) = true) (hl : TilesIn w r.tiles) (k : Nat) :
    TensorKept w s (tensorGo k r s) ∧ (r.tiles.length ≤ k → Answered p n 0 r.r0 (tensorGo k r s)) ∧
    (k < r.tiles.length → ∃ x ∈ (tensorGo k r s).tensors, x.cmd = r.cmd ∧ x.queued = r.queued ∧
      x.tiles.length = r.tiles.length - k ∧ x.done = r.done + tilesCount (r.tiles.take k)) := by
  unfold tensorGo
  extract_lets u rest
  have hout : Writes [.tensors] s { s with tensors := s.tensors.filter fun y => !sameCmd y.cmd r.cmd } := .of_mix rfl
  have hu : Writes [.hostMem, .tensors] s u := .after (.foldl (fun t x => tileWrite_writes x t) _ _) hout.mono
  have hmem (a : Nat) (ha : ¬ Covers w a) : memGet u.hostMem a = memGet s.hostMem a :=
    memGet_tilesWritten_out (fun t ht => hl t (List.mem_of_mem_take ht)) ha _
  have hrest : rest.length = r.tiles.length - k := List.length_drop
  clear_value u rest
  split_ifs with hend
  · have hends := mmuRetire_writes (finish r.cmd 0 r.r0 r.r1 0 0 u)
    have hall : Writes tensorFields s (mmuRetire (finish r.cmd 0 r.r0 r.r1 0 0 u)) :=
      .after hends (.after (finish_writes ..) hu.mono)
    have hnil : r.tiles.length - k = 0 := by rw [← hrest, List.isEmpty_iff.1 hend]; rfl
    refine ⟨⟨hall, fun a ha => ?_⟩, fun _ => ?_, fun hlt => by omega⟩
    · rw [hends.same .hostMem (by decide), (finish_writes ..).same .hostMem (by decide), hmem a ha]
    · rw [← hu.same .latch (by decide)] at hopen
      obtain ⟨x, hx, hwords⟩ := finish_answered hopen 0 r.r0 r.r1
      rw [← hcmd] at hx
      exact ⟨x, mmuRetire_repliesKept _ x hx, hwords⟩
  · have hcounts (t : State) : Writes [.counters] t ((List.range 4).foldl (fun t k => ctrInc (128 + 32 * k + 3) t) t) :=
      .foldl (fun _ _ => ctrInc_writes ..) _ t
    have hset : Writes [.tensors] u { u with tensors :=
      { r with tiles := rest, done := r.done + tilesCount (r.tiles.take k) } :: u.tensors } := .of_mix rfl
    have hpos : 0 < rest.length := List.length_pos_iff.2 fun h => hend (List.isEmpty_iff.2 h)
    refine ⟨⟨.after (hcounts _) (.after hset hu.mono), fun a ha => ?_⟩, fun hle => by omega, fun _ => ?_⟩
    · rw [(hcounts _).same .hostMem (by decide)]
      exact hmem a ha
    · rw [(hcounts _).same .tensors (by decide)]
      exact ⟨_, List.mem_cons_self .., rfl, rfl, hrest, rfl⟩

/-- The bytes that a run leaves open, where several elements meet or source and destination do. -/
def openPieces (t : TRun) (same arr : Bool) : List Piece :=
  (if same then [] else unionPieces t.shared) ++ if arr then [] else unionPieces (selfMeets t.wr)

theorem Covers.of_openPieces {t : TRun} {same arr : Bool} {a : Nat} (h : Covers (openPieces t same arr) a) : Covers t.wr a := by
  obtain ⟨p, hp, hin⟩ := h
  rcases List.mem_append.1 hp with hp | hp
  · split_ifs at hp
    · cases hp
    · exact (Covers.of_unionPieces ⟨p, hp, hin⟩).of_shared
  · split_ifs at hp
    · cases hp
    · exact (Covers.of_unionPieces ⟨p, hp, hin⟩).of_selfMeets

/-- The run as it starts to write its tiles: what is open has been picked (R190, R201). -/
def runPicked (t : TRun) (same arr : Bool) : State :=
  let f := if same then t.s else freePieces t.shared t.s
  if arr then f else settleTwice t.log.reverse f

theorem runPicked_writes (t : TRun) (same arr : Bool) : Writes [.hostMem, .freeCtr] t.s (runPicked t same arr) := by
  unfold runPicked
  extract_lets f
  have hf : Writes [.hostMem, .freeCtr] t.s f := .ite (fun _ => .refl _ _) fun _ => freePieces_writes ..
  exact .ite (fun _ => hf) fun _ => hf.trans (settleTwice_writes ..)

/-- Where every access translates and no request fails, the run's tiles are written. -/
theorem tensorRun_ok {t : TRun} (hbad : t.bad = none) (m : Mem) (k cls : Nat) (same arr rows : Bool) (c : OpenCmd) (r0 r1 : Nat) :
    tensorRun t m .ok k cls same arr rows c r0 r1 = tensorGo k
      { cmd := c, cls := cls, queued := none,
        tiles := tilesClose (tilesOf rows t.log.reverse) (openPieces t same arr) (runPicked t same arr).hostMem,
        done := 0, r0 := r0, r1 := r1 } { runPicked t same arr with hostMem := m } := by
  unfold tensorRun
  rw [hbad]
  rfl

/-- Poisoned source data stops the run before the first write derived from it (R212). -/
theorem tensorRun_poisoned {t : TRun} (hbad : t.bad = none) {e : IoErr} (he : isPoison e = true) (hrd : t.rd ≠ []) (m : Mem) (k cls : Nat)
    (same arr rows : Bool) (c : OpenCmd) (r0 r1 : Nat) : tensorRun t m (.bad e) k cls same arr rows c r0 r1 =
      let s := { t.s with hostMem := m }
      let l := t.log.reverse.takeWhile fun x => !x.meets (((reqsTo t.rd e s).getLast?).getD { pa := 0, len := 0 })
      finish c 0x0406 (if rows then l.length else sumN (l.map (·.bytes.length))) 0 0 0
        ((tilesOf rows l).foldl (fun u x => tileWrite x u) (readBroken t.rd e s)) := by
  unfold tensorRun
  rw [hbad]
  dsimp only
  rw [if_pos ⟨he, hrd⟩]

/-- What the statement says of a run that the command's accesses make. -/
def RunsTo (cmd : Io → Instr) (p : Packet) (k : Nat) (rows : Bool) (r0 : Nat) (t : TRun) (s : State) : Prop :=
  let log := t.log.reverse
  let keeps := fun (u : State) => (∀ x, (∀ q ∈ t.wr, x < q.pa ∨ q.pa + q.len ≤ x) → memGet u.hostMem x = memGet s.hostMem x) ∧
    u.job = s.job ∧ u.sp = s.sp ∧ u.slots = s.slots
  ((tilesOf rows log).length ≤ k → Completes (cmd .ok) s fun u => Answered p s.latch.order 0 r0 u ∧ keeps u) ∧
  (k < (tilesOf rows log).length → Completes (cmd .ok) s fun u => keeps u ∧
    ∃ r ∈ u.tensors, r.cmd = openOf p s.latch.order ∧ r.queued = none ∧ r.tiles.length = (tilesOf rows log).length - k ∧
      r.done = tilesCount ((tilesOf rows log).take k)) ∧
  (∀ e, isPoison e = true → t.rd ≠ [] →
    let m := ((reqsTo t.rd e { t.s with hostMem := s.hostMem }).getLast?).getD { pa := 0, len := 0 }
    let l := log.takeWhile fun x => !x.meets m
    Completes (cmd (.bad e)) s fun u =>
      Answered p s.latch.order 0x0406 (if rows then l.length else sumN (l.map (·.bytes.length))) u ∧ keeps u)

/-- The accesses of a command give all that is said of its run. -/
theorem runsTo_of_exec {cmd : Io → Instr} {p : Packet} {k : Nat} {rows : Bool} {r0 r1 cls : Nat} {same arr : Bool} {t : TRun}
    {s a : State} (ha : a = accept p s.latch.order 0 (takePacket p s)) (hbad : t.bad = none) (hgrows : TRun.Grows (TRun.start a) t)
    (hexec : ∀ io, exec (cmd io) s = .next (tensorRun t a.hostMem io k cls same arr rows (openOf p s.latch.order) r0 r1)) :
    RunsTo cmd p k rows r0 t s := by
  obtain ⟨hrun, hrunmem, hlog⟩ := hgrows.of_start
  have hopen : a.latch.opened.any (fun x => sameCmd x (openOf p s.latch.order)) = true := ha ▸ accept_opens ..
  have htaken : Writes [.latch, .counters, .drip, .recRing] s a := ha ▸ .after (accept_writes ..) (takePacket_writes ..)
  have hmem : a.hostMem = s.hostMem := htaken.same .hostMem (by decide)
  have hkeeps {v u : State} (hv : Writes [.keyway, .freeCtr, .hostMem] a v) (hvmem : v.hostMem = a.hostMem) (hu : TensorKept t.wr v u) :
      (∀ x, (∀ q ∈ t.wr, x < q.pa ∨ q.pa + q.len ≤ x) → memGet u.hostMem x = memGet s.hostMem x) ∧
        u.job = s.job ∧ u.sp = s.sp ∧ u.slots = s.slots := by
    obtain ⟨hwrites, hout⟩ := hu
    have hall : Writes (.recRing :: tensorFields) s u := .after hwrites (.after hv htaken.mono)
    refine ⟨fun x hx => ?_, hall.same .job (by decide), hall.same .sp (by decide), hall.same .slots (by decide)⟩
    rw [hout x (not_covers_iff.2 hx), hvmem, hmem]
  have hlogr : ∀ e ∈ t.log.reverse, e.runs ⊆ t.wr := fun e he => hlog e (List.mem_reverse.1 he)
  have hpicked := runPicked_writes t same arr
  have hcounts := tilesClose_counts (tilesOf rows t.log.reverse) (openPieces t same arr) (runPicked t same arr).hostMem
  have hlen : (tilesClose (tilesOf rows t.log.reverse) (openPieces t same arr) (runPicked t same arr).hostMem).length =
      (tilesOf rows t.log.reverse).length := by
    have := congrArg List.length hcounts
    rwa [List.length_map, List.length_map] at this
  have hin := tilesClose_in (tilesOf_in hlogr rows) (fun b hb => Covers.of_openPieces (same := same) (arr := arr) hb)
    (runPicked t same arr).hostMem
  have hset : Writes [.hostMem] (runPicked t same arr) { runPicked t same arr with hostMem := a.hostMem } := .of_mix rfl
  have hstart : Writes [.keyway, .freeCtr, .hostMem] a { runPicked t same arr with hostMem := a.hostMem } :=
    .after hset (.after hpicked hrun.mono)
  have hstarted := hexec .ok
  rw [tensorRun_ok hbad] at hstarted
  obtain ⟨hgoes, hends, haside⟩ := tensorGo_goes (w := t.wr) (p := p) (n := s.latch.order)
    (r := { cmd := openOf p s.latch.order, cls := cls, queued := none,
            tiles := tilesClose (tilesOf rows t.log.reverse) (openPieces t same arr) (runPicked t same arr).hostMem,
            done := 0, r0 := r0, r1 := r1 }) (s := { runPicked t same arr with hostMem := a.hostMem })
    rfl (by rw [← hstart.same .latch (by decide)] at hopen; exact hopen) hin k
  refine ⟨fun hle => ⟨_, hstarted, hends (by rw [hlen]; exact hle), hkeeps hstart rfl hgoes⟩, fun hlt => ?_, fun e he hrd => ?_⟩
  · obtain ⟨x, hx, hcmd, hqueued, htiles, hdone⟩ := haside (by rw [hlen]; exact hlt)
    refine ⟨_, hstarted, hkeeps hstart rfl hgoes, x, hx, hcmd, hqueued, by rw [htiles, hlen], ?_⟩
    rw [hdone, tilesCount, List.map_take, hcounts, ← List.map_take]
    exact Nat.zero_add _
  · have hpoisoned := hexec (.bad e)
    rw [tensorRun_poisoned hbad he hrd, hmem] at hpoisoned
    dsimp only at hpoisoned
    have hreset : Writes [.hostMem] t.s { t.s with hostMem := s.hostMem } := .of_mix rfl
    have hbroken := readBroken_writes t.rd e { t.s with hostMem := s.hostMem }
    have htiles (l : List TTile) (u : State) : Writes [.hostMem] u (l.foldl (fun u x => tileWrite x u) u) :=
      .foldl (fun u x => tileWrite_writes x u) _ u
    have hstopped (l : List TTile) : (l.foldl (fun u x => tileWrite x u)
        (readBroken t.rd e { t.s with hostMem := s.hostMem })).latch = a.latch := by
      rw [(htiles l _).same .latch (by decide), hbroken.same .latch (by decide)]
      exact hrun.same .latch (by decide)
    refine ⟨_, hpoisoned, finish_answered (by rw [hstopped]; exact hopen) _ _ _,
      hkeeps (v := { t.s with hostMem := s.hostMem }) (.after hreset hrun.mono) hmem.symm ⟨?_, fun x hx => ?_⟩⟩
    · exact .after (finish_writes ..) (.after (htiles ..) hbroken.mono)
    · rw [(finish_writes ..).same .hostMem (by decide),
        memGet_tilesWritten_out (tilesOf_in (fun y hy => hlogr y (List.takeWhile_subset _ hy)) rows) hx,
        hbroken.same .hostMem (by decide)]

/-! ### The accesses of the three commands -/

theorem unitSource_grows (src dst : Desc) (o : List Nat) (t : TRun) : TRun.Grows t (unitSource src dst o t).1 :=
  TRun.Grows.foldlFst (fun (a : TRun × List (List Elem)) i =>
    rowRead_grows src (if dst.planar then o.set 0 i else o) (dst.size 0) a.1) (List.range dst.unitRows) (t, ([] : List (List Elem)))

theorem copyUnit_grows (f : Option Fused) (src dst : Desc) (t : TRun) (o : List Nat) : TRun.Grows t (copyUnit f src dst t o) := by
  refine (unitSource_grows src dst o t).trans ?_
  unfold copyUnit
  extract_lets r vals
  split
  · exact unitWrite_grows ..
  · exact .ite (fun _ => unitWrite_grows ..) fun _ => unitWrite_grows ..

theorem indexAt_grows (ix : Desc) (n q : Nat) (t : TRun) : TRun.Grows t (indexAt ix n q t).1 := elemRead_grows ..

theorem rowCopy_grows (src dst : Desc) (q r : Nat) (t : TRun) : TRun.Grows t (rowCopy src dst q r t) := by
  refine (rowRead_grows src (src.outer q) (dst.size 0) t).trans ?_
  exact .ite (fun _ => unitWrite_grows ..) fun _ => .ite (fun _ => unitWrite_grows ..) fun _ => unitWrite_grows ..

theorem targets_grows (src ix dst : Desc) (t : TRun) : TRun.Grows t (targets src ix dst t).1 :=
  TRun.Grows.foldlFst (fun (a : TRun × List Nat) q => indexAt_grows ix dst.rows q a.1) (List.range src.rows) (t, ([] : List Nat))

theorem accRow_grows (src dst : Desc) (r : Nat) (ps : List Nat) (t : TRun) : TRun.Grows t (accRow src dst r ps t) := by
  unfold accRow
  extract_lets n cur q rows
  have hcur : TRun.Grows t cur.1 := tRun_now_grows (rowRead_grows dst (dst.outer r) n) t
  have hq : TRun.Grows cur.1 q.1 := TRun.Grows.foldlFst (fun (a : TRun × List (List Elem)) q =>
    rowRead_grows src (src.outer q) n a.1) ps (cur.1, ([] : List (List Elem)))
  refine (hcur.trans hq).trans ?_
  exact .ite (fun _ => unitWrite_grows ..) fun _ => unitWrite_grows ..

/-! ### A tensor command starts (R94, R210) -/

theorem fusedOf_takePacket (p q : Packet) (s : State) : fusedOf p (takePacket q s) = fusedOf p s := by
  have hjob : (takePacket q s).job = s.job := (takePacket_writes q s).same .job (by decide)
  have hparams : (takePacket q s).params = s.params := (takePacket_writes q s).same .params (by decide)
  have hpend : (takePacket q s).pendParams = s.pendParams := (takePacket_writes q s).same .pendParams (by decide)
  have hep : (takePacket q s).ep = s.ep := (takePacket_writes q s).same .ep (by decide)
  have hstep : curP (takePacket q s) 0x0019 = curP s 0x0019 := by
    simp only [curP, stepP, getP, hjob, hparams, hpend]
  rw [fusedOf, fusedOf, hstep, epochNow, epochNow, hep]

/-- A tensor command is held by brace, waits behind another of its class, or goes. -/
theorem exec_tensor {cmd : Instr} {op : Nat} {p : Packet} {x : Ext} {start : Nat → State → State} {c : Checks}
    {go : OpenCmd → State → State} {s : State} (hform : PacketForm cmd op p x start)
    (hstart : start s.latch.order (takePacket p s) =
      braceCmd op p x s.latch.order c (tensorBegin go p x s.latch.order) (takePacket p s))
    (h : RunsJob op p s) (hfree : entryFree s) (hshort : p.payloadLen.toNat ≤ 4096) (hlen : c.len p.payloadLen.toNat = true)
    (hrange : c.range = true) (hstate : c.state = none) (hranges : c.ranges = []) (hres : c.res = none) :
    let a := accept p s.latch.order 0 (takePacket p s)
    let alone := s.tensors.any (fun r => decide (r.cls = p.cls.toNat)) = false
    ((inBrace s = true → exec cmd s = .next (holdCmd .brace p x s.latch.order a)) ∧
     (inBrace s = false → ¬ alone → exec cmd s = .next { a with tensors := a.tensors ++
        [{ cmd := openOf p s.latch.order, cls := p.cls.toNat, queued := some (heldOf .after p x s.latch.order), tiles := [],
           done := 0, r0 := 0, r1 := 0 }] })) ∧
    (inBrace s = false → alone → exec cmd s = .next (go (openOf p s.latch.order) a)) := by
  extract_lets a alone
  have htaken : Writes [.latch, .counters, .drip, .recRing] s a := .after (accept_writes ..) (takePacket_writes ..)
  have hbrace : inBrace a = inBrace s := by
    unfold inBrace
    rw [htaken.same .pwr (by decide)]
  have htensors : a.tensors = s.tensors := htaken.same .tensors (by decide)
  have hexec : exec cmd s = .next (if inBrace a then holdCmd .brace p x s.latch.order a
      else tensorBegin go p x s.latch.order (openOf p s.latch.order) a) := by
    rw [hform.exec_start h.toRuns, hstart, braceCmd]
    refine congrArg _ (checked_runsJob h hshort hlen hrange hstate ?_ hres fun _ => hfree)
    rw [hranges]
    rfl
  rw [hexec, hbrace]
  refine ⟨⟨fun hin => by rw [if_pos hin], fun hout hbehind => ?_⟩, fun hout hfirst => ?_⟩
  · rw [if_neg (by rw [hout]; exact Bool.false_ne_true), tensorBegin, htensors, if_pos (Bool.eq_true_of_not_eq_false hbehind)]
  · have hnone : ¬ (s.tensors.any fun r => decide (r.cls = p.cls.toNat)) = true := by rw [hfirst]; exact Bool.false_ne_true
    rw [if_neg (by rw [hout]; exact Bool.false_ne_true), tensorBegin, htensors, if_neg hnone]

theorem runCopy_of_empty {p : Packet} {x : Ext} {c : OpenCmd} {s : State} (h : (descOf (pBody p) 64).empty = true) :
    runCopy p x c s = finish c 0 0 0 0 0 s := if_pos h

theorem runCopy_goes {p : Packet} {x : Ext} {c : OpenCmd} {s : State} (h : (descOf (pBody p) 64).empty = false) :
    runCopy p x c s =
      let t := (descOf (pBody p) 64).units.foldl (copyUnit (fusedOf p s) (descOf (pBody p) 0) (descOf (pBody p) 64)) (TRun.start s)
      tensorRun t s.hostMem x.io x.tiles p.cls.toNat (decide ((pBody p).take 64 = ((pBody p).drop 64).take 64)) false false c t.bytes 0 :=
  if_neg (by rw [h]; exact Bool.false_ne_true)

theorem runGather_of_empty {p : Packet} {x : Ext} {c : OpenCmd} {s : State} (h : (descOf (pBody p) 64).asIndex.empty = true) :
    runGather p x c s = finish c 0 0 0 0 0 s := if_pos h

theorem runGather_goes {p : Packet} {x : Ext} {c : OpenCmd} {s : State} (h : (descOf (pBody p) 64).asIndex.empty = false) :
    runGather p x c s =
      let src := (descOf (pBody p) 0).byRows
      let ix := (descOf (pBody p) 64).asIndex
      let dst := (descOf (pBody p) 128).byRows
      let t := (List.range dst.rows).foldl (fun t r => rowCopy src dst (indexAt ix src.rows r t).2 r (indexAt ix src.rows r t).1)
        (TRun.start s)
      tensorRun t s.hostMem x.io x.tiles p.cls.toNat (decide ((pBody p).take 64 = ((pBody p).drop 128).take 64)) false true c dst.rows 0 :=
  if_neg (by rw [h]; exact Bool.false_ne_true)

theorem runScatter_of_empty {p : Packet} {x : Ext} {c : OpenCmd} {s : State}
    (h : (descOf (pBody p) 64).asIndex.empty = true ∨ (descOf (pBody p) 0).byRows.rows = 0) :
    runScatter p x c s = finish c 0 0 (b01 (bit p.p0.toNat 0 && !s.job.desc.deterministic)) 0 0 s := if_pos h

/-- In index order, with a destination row, each target takes all its contributions at once (R206). -/
theorem runScatter_goes {p : Packet} {x : Ext} {c : OpenCmd} {s : State} (hindex : (descOf (pBody p) 64).asIndex.empty = false)
    (hsrc : (descOf (pBody p) 0).byRows.rows ≠ 0) (hdst : (descOf (pBody p) 128).byRows.rows ≠ 0)
    (horder : (bit p.p0.toNat 0 && !s.job.desc.deterministic) = false) :
    runScatter p x c s =
      let src := (descOf (pBody p) 0).byRows
      let dst := (descOf (pBody p) 128).byRows
      let y := targets src (descOf (pBody p) 64).asIndex dst (TRun.start s)
      let t := (dedup y.2).foldl (fun t r => accRow src dst r ((List.range src.rows).filter fun q => decide (y.2.getD q 0 = r)) t) y.1
      tensorRun t s.hostMem x.io x.tiles p.cls.toNat (decide ((pBody p).take 64 = ((pBody p).drop 128).take 64)) false true c
        (src.rows - (dedup y.2).length) 0 := by
  have hsome : ¬ ((descOf (pBody p) 64).asIndex.empty = true ∨ (descOf (pBody p) 0).byRows.rows = 0) := by
    rw [hindex]
    exact fun h => h.elim Bool.false_ne_true hsrc
  unfold runScatter
  dsimp only
  rw [if_neg hsome, horder, if_neg hdst, collisions, if_neg hdst, if_neg Bool.false_ne_true]
  rfl

/-- Settles O46. -/
theorem tensorCommandsComplete : Obligations.TensorCommandsComplete := by
  unfold Obligations.TensorCommandsComplete
  intro p io arr k s hfree n o b a alone answered keeps runs waits x cs cd
  have ha : a = accept p s.latch.order 0 (takePacket p s) := rfl
  have hjob : a.job = s.job := by
    have htaken : Writes [.latch, .counters, .drip, .recRing] s a := .after (accept_writes ..) (takePacket_writes ..)
    exact htaken.same .job (by decide)
  refine ⟨fun hruns hlen hrange => ?_, fun hruns hlen => ?_, fun hruns hlen hfmt => ?_⟩
  · have hexec (io : Io) := exec_tensor (cmd := .tensorCopy p io k) (go := runCopy p { Ext.ofIo io with tiles := k }) (fun _ => rfl)
      rfl hruns hfree (by omega) (decide_eq_true hlen) (by rw [fusedOf_takePacket]; exact hrange) rfl rfl rfl
    refine ⟨(hexec io).1, fun hout hfirst hempty => ?_, fun hout hfirst hsome hbad => ?_⟩
    · rw [(hexec io).2 hout hfirst, runCopy_of_empty hempty]
    · exact runsTo_of_exec ha hbad (.foldl (fun t o => copyUnit_grows (fusedOf p a) cs cd t o) _ _) fun io =>
        ((hexec io).2 hout hfirst).trans (congrArg _ (runCopy_goes hsome))
  · have hexec (io : Io) := exec_tensor (cmd := .gather p io k) (go := runGather p { Ext.ofIo io with tiles := k }) (fun _ => rfl)
      rfl hruns hfree (by omega) (decide_eq_true hlen) rfl rfl rfl rfl
    refine ⟨(hexec io).1, fun hout hfirst hempty => ?_, fun hout hfirst hsome hbad => ?_⟩
    · rw [(hexec io).2 hout hfirst, runGather_of_empty hempty]
    · exact runsTo_of_exec ha hbad (.foldl (fun t r => (indexAt_grows ..).trans (rowCopy_grows ..)) _ _) fun io =>
        ((hexec io).2 hout hfirst).trans (congrArg _ (runGather_goes hsome))
  · have hexec (io : Io) := exec_tensor (cmd := .scatterAcc p io arr k)
      (go := runScatter p { Ext.ofIo io with arrival := arr, tiles := k }) (fun _ => rfl)
      rfl hruns hfree (by omega) (decide_eq_true hlen) (decide_eq_true hfmt) rfl rfl rfl
    refine ⟨(hexec io).1, fun hout hfirst hempty => ?_, fun hout hfirst hindex hsrc horder hdst hbad => ?_⟩
    · rw [(hexec io).2 hout hfirst, runScatter_of_empty hempty, ← ha, hjob]
    · have hinorder : (bit p.p0.toNat 0 && !a.job.desc.deterministic) = false := by
        rw [hjob]
        rcases horder with h | h <;> simp [h]
      exact runsTo_of_exec ha hbad ((targets_grows ..).trans (.foldl (fun t r => accRow_grows ..) _ _)) fun io =>
        ((hexec io).2 hout hfirst).trans (congrArg _ (runScatter_goes hindex hsrc hdst hinorder))

end Sys2Proof.Machine
end

section
/-! PROOFS. The scoring of a step: from its rows to its selections (R96, R110 to R121, R144, R215). -/

namespace Sys2Proof.Machine

-- One declaration at a time: see the frames of the state's operations.
set_option Elab.async false

/-! ### Stage 2 begins -/

/-- A use holds a cell or waits for one. -/
def CellAsked (u : CellUse) (s : State) : Prop := (∃ h ∈ s.carafe.cells, h.use = u) ∨ ∃ w ∈ s.carafe.waits, w.use = u

theorem CellAsked.congr {u : CellUse} {s t : State} (h : t.carafe = s.carafe) (hs : CellAsked u s) : CellAsked u t := by
  unfold CellAsked
  rw [h]
  exact hs

/-- A request takes nothing from another. -/
theorem carafeAsk_keeps {u : CellUse} {s : State} (h : CellAsked u s) (o n cls ref : Nat) (use : CellUse) :
    CellAsked u (carafeAsk o n cls ref use s) := by
  unfold carafeAsk
  split
  · next c hc =>
    obtain ⟨a, rest, hfree⟩ := poolFor_free hc
    unfold CellAsked
    rw [takeCell_carafe hfree]
    exact h.imp (fun ⟨x, hx, hu⟩ => ⟨x, List.mem_append_left _ hx, hu⟩) id
  · exact h.imp id fun ⟨x, hx, hu⟩ => ⟨x, List.mem_append_left _ hx, hu⟩

/-- The requests of stage 2 for one token. -/
def tokenAsk (i n m : Nat) (c : StepCtx) (k : Nat) (s : State) : State :=
  carafeAsk 0 m c.cls 1 (.staging i c.step k) (carafeAsk 0 n c.cls 1 (.tile i c.step k) s)

theorem tokenAsk_writes (i n m : Nat) (c : StepCtx) (k : Nat) (s : State) : Writes [.carafe, .counters] s (tokenAsk i n m c k s) :=
  .after (carafeAsk_writes ..) (carafeAsk_writes ..)

theorem tokenAsk_asks (i n m : Nat) (c : StepCtx) (k : Nat) (s : State) :
    ∀ u ∈ [CellUse.tile i c.step k, CellUse.staging i c.step k], CellAsked u (tokenAsk i n m c k s) := by
  intro u hu
  rcases List.mem_cons.1 hu with rfl | hu
  · exact carafeAsk_keeps (carafeAsk_asks ..) ..
  · rw [List.mem_singleton.1 hu]
    exact carafeAsk_asks ..

theorem foldl_tokenAsk_asks (i n m : Nat) (c : StepCtx) (l : List Nat) (s : State) : ∀ k ∈ l,
    ∀ u ∈ [CellUse.tile i c.step k, CellUse.staging i c.step k], CellAsked u (l.foldl (fun t k => tokenAsk i n m c k t) s) := by
  have hkeeps {u : CellUse} (l : List Nat) (s : State) (h : CellAsked u s) :
      CellAsked u (l.foldl (fun t k => tokenAsk i n m c k t) s) :=
    List.foldlRecOn (motive := CellAsked u) _ _ h fun t ht k _ => carafeAsk_keeps (carafeAsk_keeps ht ..) ..
  induction l generalizing s with
  | nil => exact fun k hk => absurd hk List.not_mem_nil
  | cons a l ih =>
    intro k hk u hu
    rcases List.mem_cons.1 hk with rfl | hk
    · exact hkeeps l _ (tokenAsk_asks i n m c k s u hu)
    · exact ih _ k hk u hu

/-- Stage 2 begins: the slot's stage, and the requests of every token (R144, R215). -/
theorem stageTwo_begins {i : Nat} {c : StepCtx} {s : State} (hi : i < s.slots.length) (l : Layer) :
    Writes [.carafe, .counters, .slots, .drip] s (stageTwo i c l s) ∧
    slotAt (stageTwo i c l s) i = { slotAt s i with stage := 2 } ∧ (∀ q, q ≠ i → slotAt (stageTwo i c l s) q = slotAt s q) ∧
    ∀ k < c.nTok, ∀ u ∈ [CellUse.tile i c.step k, CellUse.staging i c.step k], CellAsked u (stageTwo i c l s) := by
  unfold stageTwo
  extract_lets n m asked _ moved
  have hasked : Writes [.carafe, .counters] s asked := .foldl (fun t k => tokenAsk_writes i n m c k t) _ s
  have hmoved : Writes [.slots] asked moved := setSlot_writes ..
  have htold : Writes [.drip] moved (dripStageAll i c.gen c.step 2 0 c.cls (dripStageAll i c.gen c.step 1 1 c.cls moved)) :=
    .after (dripStageAll_writes ..) (dripStageAll_writes ..)
  have hslot (q : Nat) : slotAt asked q = slotAt s q := slotAt_congr (hasked.same .slots (by decide)) q
  have hcells : ∀ k ∈ List.range c.nTok, ∀ u ∈ [CellUse.tile i c.step k, CellUse.staging i c.step k], CellAsked u asked :=
    foldl_tokenAsk_asks i n m c _ s
  have hlen : i < asked.slots.length := by rwa [hasked.same .slots (by decide)]
  have hself : slotAt moved i = { slotAt asked i with stage := 2 } := slotAt_setSlot_self hlen _
  refine ⟨.after htold (.after hmoved hasked.mono), ?_, fun q hq => ?_, fun k hk u hu => ?_⟩
  · exact (slotAt_congr (htold.same .slots (by decide)) i).trans
      (hself.trans (congrArg (fun x : Slot => { x with stage := 2 }) (hslot i)))
  · rw [slotAt_congr (htold.same .slots (by decide)), slotAt_setSlot_ne hq, hslot]
  · exact (hcells k (List.mem_range.2 hk) u hu).congr (htold.same .carafe (by decide))

theorem exec_stage1Complete {i : Nat} {c : StepCtx} {l : Layer} {s : State} (hlost : s.rst.rootLost = false)
    (hctx : (slotAt s i).ctx = some c) (hlayer : layerIn s c.epoch c.layer = some l) (hst : (slotAt s i).st = .scored)
    (hstage : (slotAt s i).stage = 1) (hawait : c.awaitCommit = false) (happ : applied s = true) (hrows : rowsIn c = true) :
    exec (.stage1Complete i) s = .next (stageTwo i c l s) := by
  rw [exec, execStage1Complete, live_next hlost]
  simp only [hctx, hlayer]
  rw [if_pos ⟨hst, hstage, hawait, happ, hrows⟩]

theorem exec_stage1Complete_rest {i : Nat} {c : StepCtx} {s : State} (hlost : s.rst.rootLost = false)
    (hctx : (slotAt s i).ctx = some c) (h : ¬ ((slotAt s i).st = .scored ∧ (slotAt s i).stage = 1 ∧ c.awaitCommit = false ∧
      applied s = true ∧ rowsIn c = true)) : exec (.stage1Complete i) s = .next s := by
  rw [exec, execStage1Complete, live_next hlost]
  simp only [hctx]
  split
  · rfl
  · rw [if_neg h]

/-! ### What scoring gives -/

/-- A scored token, as the step keeps it: an exited one selects nothing. -/
structure TokenScored (exits : List Nat) (t : Nat) (r : Scored) : Prop where
  token : r.sel.token = t
  exited : t ∈ exits → r.sel.exited = true
  picks : r.sel.exited = true → r.sel.picks = []
  fired : r.fired = true ↔ t ∉ exits ∧ r.sel.exited = true

theorem scoreAll_eq (inp : ScoreIn) (exits : List Nat) (rows : List (Nat × List Num)) (n : Nat) : ∃ f : Nat → Scored,
    scoreAll inp exits rows n = (List.range n).map f ∧ ∀ t, TokenScored exits t (f t) := by
  refine ⟨_, rfl, fun t => ?_⟩
  split_ifs with hexit
  · have hin : t ∈ exits := List.contains_iff_mem.1 hexit
    exact ⟨rfl, fun _ => rfl, fun _ => rfl, ⟨fun h => (by cases h), fun h => absurd hin h.1⟩⟩
  · have hout : t ∉ exits := fun h => hexit (List.contains_iff_mem.2 h)
    unfold scoreToken
    extract_lets l y op a ck lg on g ex w
    split_ifs
    · exact ⟨rfl, fun _ => rfl, fun _ => rfl, ⟨fun _ => ⟨hout, rfl⟩, fun _ => rfl⟩⟩
    · exact ⟨rfl, fun h => absurd h hout, fun h => (by cases h), ⟨fun h => (by cases h), fun h => (by cases h.2)⟩⟩

theorem numberRuns_fresh (dst n : Nat) {l : List Copy} (h : ∀ y ∈ l, y.sent = false ∧ y.answered = false) :
    ∀ y ∈ numberRuns dst n l, y.sent = false ∧ y.answered = false := by
  induction l generalizing dst n with
  | nil => exact fun y hy => absurd hy List.not_mem_nil
  | cons c r ih =>
    intro y hy
    rw [numberRuns] at hy
    rcases List.mem_cons.1 hy with rfl | hy
    · exact h c (List.mem_cons_self ..)
    · exact ih _ _ (fun y hy => h y (List.mem_cons_of_mem _ hy)) y hy

/-- The copies of a scored step have neither moved nor been answered. -/
theorem sortCopies_fresh (own : Nat) (ents : List DWord) (rs : List Scored) :
    ∀ y ∈ sortCopies (rs.flatMap fun r => copiesOf own ents r.sel), y.sent = false ∧ y.answered = false := by
  refine numberRuns_fresh _ _ fun y hy => ?_
  obtain ⟨r, -, hy⟩ := List.mem_flatMap.1 ((mem_sortBy ..).1 hy)
  obtain ⟨x, -, rfl⟩ := List.mem_map.1 hy
  exact ⟨rfl, rfl⟩

/-! ### What scoring writes -/

theorem cellWrite_writes (use : CellUse) (o : Nat) (b : List Byte) (s : State) :
    Writes [.sp, .spPoison, .counters] s (cellWrite use o b s) := by
  unfold cellWrite
  split
  · exact spWrite_writes ..
  · exact .refl _ s

theorem opBankPut_writes (l : List OpBank) (s : State) : Writes [.opBanks] s (opBankPut l s) := .of_mix rfl

theorem stageTiles_writes (i : Nat) (c : StepCtx) (wFmt : Nat) (rs : List Scored) (s : State) :
    Writes (.opBanks :: cellFields) s (stageTiles i c wFmt rs s) := by
  unfold stageTiles
  extract_lets len s₁ s₂
  have hwritten : Writes cellFields s s₁ := .foldl (fun t r => by
    extract_lets u
    have hu : Writes [.sp, .spPoison, .counters] t u := cellWrite_writes ..
    exact .ite (fun _ => hu.mono) fun _ => .after (cellWrite_writes ..) hu.mono) _ s
  exact .after (opBankPut_writes ..) (.after (freeCells_writes ..) hwritten.mono)

theorem setRef_writes (use : CellUse) (n : Nat) (s : State) : Writes cellFields s (setRef use n s) := by
  unfold setRef
  split
  · exact .refl _ s
  · exact .ite (fun _ => freeCell_writes ..) fun _ => .of_mix rfl

theorem winCount_writes (step epoch layer : Nat) (counts : List Nat) (s : State) :
    Writes [.bias] s (winCount step epoch layer counts s) := .of_mix rfl

/-- What the results of scoring write. -/
def scoredFields : List Fld := [.freeCtr, .opBanks, .carafe, .sp, .spPoison, .counters, .slots, .bias, .drip, .kft]

/-- The tokens whose probe fired (R117). -/
def firedTokens (rs : List Scored) : List Nat := (rs.filter (·.fired)).map (·.sel.token)

/-- The slot of a scored step: its exits with those of the tokens whose probe fired, and its new record. -/
def scoredSlot (c : StepCtx) (ents : List DWord) (own : Nat) (dig : List (Nat × Nat × Nat)) (rs : List Scored) (x : Slot) : Slot :=
  { x with
    stage := 12
    exits := x.exits ++ firedTokens rs
    ctx := some { c with
      sels := rs.map (·.sel), digests := dig, countsSent := true, aside := []
      held := c.held.add { VCounts.zero with tokensExited := (rs.filter (·.sel.exited)).length }
      copies := sortCopies (rs.flatMap fun r => copiesOf own ents r.sel) } }

theorem scored_result {i : Nat} {c : StepCtx} {s : State} (hctx : (slotAt s i).ctx = some c) (l : Layer) (ents : List DWord)
    (rs : List Scored) : Writes scoredFields s (scored i c l ents rs s) ∧
    (∃ own dig, slotAt (scored i c l ents rs s) i = scoredSlot c ents own dig rs (slotAt s i)) ∧
    ∀ q, q ≠ i → slotAt (scored i c l ents rs s) q = slotAt s q := by
  have hi := slotAt_lt hctx
  unfold scored
  extract_lets s₁ _ s₂ s₃ s₄ _ gone own dig s₅ s₆ _ s₇
  have h₁ : Writes [.counters] s s₁ := ctrAdd_writes ..
  have h₂ : Writes [.slots] s₁ s₂ := setSlot_writes ..
  have h₃ : Writes (.opBanks :: cellFields) s₂ s₃ :=
    .after (Writes.foldl (l := cellFields) (fun t r => setRef_writes ..) _ _) (stageTiles_writes ..)
  have h₄ : Writes [.bias] s₃ s₄ := .ite (fun _ => .refl _ _) fun _ => winCount_writes ..
  have h₅ : Writes [.slots] s₄ s₅ := ctxMap_writes ..
  have h₆ : Writes [.drip] s₅ s₆ := .foldl (fun t k => dripStageAll_writes ..) _ _
  have h₇ : Writes [.slots] s₆ s₇ := setSlot_writes ..
  have h₈ : Writes [.drip] s₇ (dripStageAll i c.gen c.step 12 0 c.cls s₇) := dripStageAll_writes ..
  have hslot₁ (q : Nat) : slotAt s₁ q = slotAt s q := slotAt_congr (h₁.same .slots (by decide)) q
  have hslot₂ : slotAt s₂ i = { slotAt s i with exits := (slotAt s i).exits ++ firedTokens rs } :=
    (slotAt_setSlot_self (by rw [h₁.same .slots (by decide)]; exact hi) _).trans
      (congrArg (fun x : Slot => { x with exits := x.exits ++ firedTokens rs }) (hslot₁ i))
  have hslot₄ (q : Nat) : slotAt s₄ q = slotAt s₂ q :=
    (slotAt_congr (h₄.same .slots (by decide)) q).trans (slotAt_congr (h₃.same .slots (by decide)) q)
  have hctx₄ : (slotAt s₄ i).ctx = some c := by rw [hslot₄, hslot₂, ← hctx]
  have hslot₅ := slotAt_ctxMap_self hctx₄ fun y =>
    { y with
      sels := rs.map (·.sel), digests := dig, held := y.held.add gone, aside := [],
      copies := sortCopies (rs.flatMap fun r => copiesOf own ents r.sel) }
  have hslot₆ (q : Nat) : slotAt s₆ q = slotAt s₅ q := slotAt_congr (h₆.same .slots (by decide)) q
  have hlen₆ : i < s₆.slots.length := slotAt_lt (c := _) (by rw [hslot₆, hslot₅])
  have hslot₇ : slotAt s₇ i = { slotAt s₆ i with stage := 12 } := slotAt_setSlot_self hlen₆ _
  have hslot₈ (q : Nat) : slotAt (dripStageAll i c.gen c.step 12 0 c.cls s₇) q = slotAt s₇ q :=
    slotAt_congr (h₈.same .slots (by decide)) q
  obtain ⟨hself, hothers⟩ := sendCounts_slots (i := i) (s := dripStageAll i c.gen c.step 12 0 c.cls s₇)
    (by rw [hslot₈, hslot₇, hslot₆, hslot₅]) false
  refine ⟨?_, ⟨own, dig, ?_⟩, fun q hq => ?_⟩
  · exact .after (sendCounts_writes ..) (.after h₈ (.after h₇ (.after h₆ (.after h₅ (.after h₄ (.after h₃ (.after h₂ h₁.mono)))))))
  · rw [hself, hslot₈, hslot₇, hslot₆, hslot₅, hslot₄, hslot₂]
    rfl
  · rw [hothers q hq, hslot₈, slotAt_setSlot_ne hq, hslot₆, slotAt_ctxMap_ne hq, hslot₄, slotAt_setSlot_ne hq, hslot₁]

theorem scoreCount_writes (l : Layer) (d n : Nat) (splits : Nat → Nat → Nat) (s : State) :
    Writes [.counters] s (scoreCount l d n splits s) :=
  .foldl (fun _ _ => .after (ctrAdd_writes ..) (.after (ctrAdd_writes ..) (ctrAdd_writes ..))) _ s

/-- The scores of a step, from its tokens' exits. -/
def ScoresOf (exits : List Nat) (n : Nat) (rs : List Scored) : Prop :=
  ∃ f : Nat → Scored, rs = (List.range n).map f ∧ ∀ t, TokenScored exits t (f t)

theorem ScoresOf.tokens {exits : List Nat} {n : Nat} {rs : List Scored} (h : ScoresOf exits n rs) :
    (rs.map (·.sel)).map (·.token) = List.range n := by
  obtain ⟨f, rfl, hf⟩ := h
  rw [List.map_map, List.map_map]
  exact (List.map_congr_left fun t _ => (hf t).token).trans (List.map_id' _)

theorem ScoresOf.sel {exits : List Nat} {n : Nat} {rs : List Scored} (h : ScoresOf exits n rs) {y : TokSel}
    (hy : y ∈ rs.map (·.sel)) : (y.token ∈ exits → y.exited = true) ∧ (y.exited = true → y.picks = []) := by
  obtain ⟨f, rfl, hf⟩ := h
  rw [List.map_map] at hy
  obtain ⟨t, -, rfl⟩ := List.mem_map.1 hy
  have ht := hf t
  exact ⟨fun hin => ht.exited (by rwa [← ht.token]), ht.picks⟩

/-- The tokens whose probe fired are those that exit in this step. -/
theorem ScoresOf.mem_fired {exits : List Nat} {n : Nat} {rs : List Scored} (h : ScoresOf exits n rs) (e : Nat) :
    e ∈ firedTokens rs ↔ e ∉ exits ∧ ∃ y ∈ rs.map (·.sel), y.token = e ∧ y.exited = true := by
  obtain ⟨f, rfl, hf⟩ := h
  unfold firedTokens
  simp only [List.map_map, List.mem_map, List.mem_filter]
  constructor
  · rintro ⟨r, ⟨⟨t, ht, rfl⟩, hfired⟩, rfl⟩
    obtain ⟨hout, hexited⟩ := (hf t).fired.1 hfired
    exact ⟨by rwa [(hf t).token], (f t).sel, ⟨t, ht, rfl⟩, rfl, hexited⟩
  · rintro ⟨hout, y, ⟨t, ht, rfl⟩, rfl, hexited⟩
    refine ⟨f t, ⟨⟨t, ht, rfl⟩, (hf t).fired.2 ⟨?_, hexited⟩⟩, rfl⟩
    have htoken : (f t).sel.token = t := (hf t).token
    rwa [Function.comp_apply, htoken] at hout

/-- The slot of a step is scored (R110 to R118). -/
theorem scoreStep_result {i : Nat} {c : StepCtx} {s : State} (hctx : (slotAt s i).ctx = some c) (l : Layer) (b : List Byte) :
    Writes scoredFields s (scoreStep i c l b s) ∧ (∀ q, q ≠ i → slotAt (scoreStep i c l b s) q = slotAt s q) ∧
    ∃ ents own dig rs, ScoresOf (slotAt s i).exits c.nTok rs ∧
      slotAt (scoreStep i c l b s) i = scoredSlot c ents own dig rs (slotAt s i) := by
  unfold scoreStep
  extract_lets inp rs s₁ s₂
  have h₁ : Writes [.counters] s s₁ := scoreCount_writes ..
  have h₂ : Writes [.counters, .freeCtr] s s₂ := .ite (fun _ => .after (.of_mix (l := [.freeCtr]) rfl) h₁.mono) fun _ => h₁.mono
  have hslot (q : Nat) : slotAt s₂ q = slotAt s q := slotAt_congr (h₂.same .slots (by decide)) q
  obtain ⟨hwrites, ⟨own, dig, hself⟩, hothers⟩ := scored_result (s := s₂) (by rw [hslot, hctx]) l inp.ents rs
  refine ⟨.after hwrites h₂.mono, fun q hq => (hothers q hq).trans (hslot q), inp.ents, own, dig, rs, scoreAll_eq .., ?_⟩
  rw [hself, hslot]

/-- The router is read, and scoring goes on with its bytes (R106). -/
theorem withRouter_reads {l : Layer} {d n : Nat} {s : State}
    (h : n = 0 ∨ (l.routerSrc = false ∧ routerPoison s l d = none) ∨
      (l.routerSrc = true ∧ ∃ u ps, xlateRange s 1 l.wAddr (routerBytes (routerDesc l d) d) false = (u, .ok ps)))
    (w : Where) (go : List Byte → State → State) :
    ∃ b u, Writes [.keyway, .counters] s u ∧ withRouter l d n .ok w go s = go b u := by
  unfold withRouter
  by_cases hn : n = 0
  · exact ⟨[], s, .refl _ s, if_pos hn⟩
  · dsimp only
    rw [if_neg hn]
    rcases h with h | ⟨hsrc, hclean⟩ | ⟨hsrc, u, ps, hrange⟩
    · exact absurd h hn
    · rw [if_neg (by rw [hsrc]; exact Bool.false_ne_true), hclean]
      exact ⟨_, _, (spCount_writes ..).mono, rfl⟩
    · rw [if_pos hsrc, hrange]
      refine ⟨_, u, ?_, rfl⟩
      have := xlateRange_writes s 1 l.wAddr (routerBytes (routerDesc l d) d) false
      rw [hrange] at this
      exact this.mono

theorem withRouter_poisoned {l : Layer} {d n k : Nat} {s : State} (hn : n ≠ 0) (hsrc : l.routerSrc = false)
    (hbad : routerPoison s l d = some k) (io : Io) (w : Where) (go : List Byte → State → State) :
    withRouter l d n io w go s = jobFault (0x10 + k) 0x0406 4 w s := by
  unfold withRouter
  dsimp only
  rw [if_neg hn, if_neg (by rw [hsrc]; exact Bool.false_ne_true), hbad]

/-- Scoring that is done, with nothing found by the slices' checks. -/
theorem exec_stepScoringDone {i : Nat} {c : StepCtx} {l : Layer} {s : State} (hlost : s.rst.rootLost = false)
    (hctx : (slotAt s i).ctx = some c) (hlayer : layerIn s c.epoch c.layer = some l) (hst : (slotAt s i).st = .scored)
    (hstage : (slotAt s i).stage = 2) (hbias : biasWaits s c.step = false) (htile : tileWaits s i c.step = false)
    (happ : applied s = true) (haside : setAside s i isScoring = false) (io : Io) : exec (.stepScoringDone i io []) s = .next
      (match krPoisoned s c.epoch c.layer with
        | some k => jobFault (0x10 + k) 0x0406 0 (whereSlot s i) s
        | none => withRouter l s.job.desc.d c.nTok io (whereSlot s i) (scoreStep i c l) s) := by
  rw [exec, execStepScoringDone, live_next hlost]
  simp only [hctx, hlayer]
  rw [if_pos ⟨hst, hstage, hbias, htile, happ, haside⟩]
  exact congrArg _ (if_neg (applied_lives happ).2)

end Sys2Proof.Machine
end

section
/-! PROOFS. The dispatch of a step: its copies to Spout and to their seats, until every one is out (R215 to R217, R224 to R230). -/

namespace Sys2Proof.Machine

-- One declaration at a time: see the frames of the state's operations.
set_option Elab.async false

/-! ### Parts of a list -/

theorem chunksOf_mem {α : Type} {n : Nat} (hn : 0 < n) {k : Nat} {l : List α} (hk : l.length ≤ k) {y : α} (hy : y ∈ l) :
    ∃ e ∈ chunksOf n k l, y ∈ e := by
  induction k generalizing l with
  | zero => exact absurd hy (by rw [List.length_eq_zero_iff.1 (Nat.le_zero.1 hk)]; exact List.not_mem_nil)
  | succ k ih =>
    have hne : l ≠ [] := List.ne_nil_of_mem hy
    rw [chunksOf, if_neg (by simpa using hne)]
    rw [← List.take_append_drop n l, List.mem_append] at hy
    rcases hy with hy | hy
    · exact ⟨_, List.mem_cons_self .., hy⟩
    · obtain ⟨e, he, hy⟩ := ih (by have := List.length_pos_iff.2 hne; rw [List.length_drop]; omega) hy
      exact ⟨e, List.mem_cons_of_mem _ he, hy⟩

theorem chunksOf_length {α : Type} {n : Nat} (hn : 0 < n) {k : Nat} {l : List α} (hk : l.length ≤ k) :
    (chunksOf n k l).length = ceilDiv l.length n := by
  induction k generalizing l with
  | zero =>
    rw [List.length_eq_zero_iff.1 (Nat.le_zero.1 hk), chunksOf, ceilDiv]
    exact (Nat.div_eq_of_lt (by simp; omega)).symm
  | succ k ih =>
    by_cases hne : l = []
    · subst hne
      rw [chunksOf, List.isEmpty_nil, if_pos rfl, ceilDiv]
      exact (Nat.div_eq_of_lt (by simp; omega)).symm
    · have hpos := List.length_pos_iff.2 hne
      rw [chunksOf, if_neg (by simpa using hne), List.length_cons, ih (by rw [List.length_drop]; omega), List.length_drop,
        ceilDiv, ceilDiv]
      by_cases hle : n ≤ l.length
      · rw [show l.length + n - 1 = (l.length - n + n - 1) + n by omega, Nat.add_div_right _ hn]
      · rw [Nat.div_eq_of_lt (show l.length - n + n - 1 < n by omega),
          show l.length + n - 1 = (l.length - 1) + n by omega, Nat.add_div_right _ hn,
          Nat.div_eq_of_lt (show l.length - 1 < n by omega)]

theorem splitEvery_mem {α : Type} {n : Nat} (hn : 0 < n) {l : List α} {y : α} (hy : y ∈ l) : ∃ e ∈ splitEvery n l, y ∈ e :=
  chunksOf_mem hn le_rfl hy

theorem splitEvery_length {α : Type} {n : Nat} (hn : 0 < n) (l : List α) : (splitEvery n l).length = ceilDiv l.length n :=
  chunksOf_length hn le_rfl

theorem markLast_length (l : List WorkEntry) : (markLast l).length = l.length := by
  induction l with
  | nil => rfl
  | cons e r ih =>
    cases r with
    | nil => rfl
    | cons x r => exact congrArg Nat.succ ih

theorem mem_zip_of_mem {α β : Type} {l : List α} {m : List β} (h : l.length = m.length) {x : α} (hx : x ∈ l) :
    ∃ p ∈ List.zip l m, p.1 = x := by
  rw [← List.map_fst_zip (l₁ := l) (l₂ := m) h.le] at hx
  obtain ⟨p, hp, rfl⟩ := List.mem_map.1 hx
  exact ⟨p, hp, rfl⟩

/-! ### The block's own copies go to Spout (R228 to R230) -/

/-- A change of a duty ends none. -/
theorem dutyMap_keeps {f : Duty → Duty} (hf : ∀ d, (f d).step = d.step) {n : Nat} {s : State} (h : (dutyAt s n).isSome = true)
    (step : Nat) : (dutyAt (dutyMap step f s) n).isSome = true := by
  obtain ⟨d, hd⟩ := Option.isSome_iff_exists.1 h
  have hstep : d.step = n := by simpa using List.find?_some hd
  have hmem := List.mem_of_find?_eq_some hd
  unfold dutyMap
  rw [dutyAt, List.find?_isSome]
  split_ifs with hsome
  · refine ⟨_, List.mem_map.2 ⟨d, hmem, rfl⟩, decide_eq_true ?_⟩
    split_ifs
    · rw [hf, hstep]
    · exact hstep
  · exact ⟨d, List.mem_append_left _ hmem, decide_eq_true hstep⟩

/-- Packets are put on Spout, and duties changed but not ended: nothing else. -/
structure SpoutFed (s t : State) : Prop where
  writes : Writes [.duties, .spout, .counters] s t
  spout : s.spout ⊆ t.spout
  duty : ∀ n, (dutyAt s n).isSome = true → (dutyAt t n).isSome = true

namespace SpoutFed

theorem refl (s : State) : SpoutFed s s := ⟨.refl _ s, fun _ h => h, fun _ h => h⟩

theorem trans {s t u : State} (hst : SpoutFed s t) (htu : SpoutFed t u) : SpoutFed s u :=
  ⟨hst.writes.trans htu.writes, fun _ h => htu.spout (hst.spout h), fun n h => htu.duty n (hst.duty n h)⟩

theorem ite {c : Prop} [Decidable c] {s t u : State} (ht : c → SpoutFed s t) (hu : ¬ c → SpoutFed s u) :
    SpoutFed s (if c then t else u) := by
  split_ifs with h
  · exact ht h
  · exact hu h

theorem foldl {α : Type} {f : State → α → State} (hf : ∀ t x, SpoutFed t (f t x)) (l : List α) (s : State) :
    SpoutFed s (l.foldl f s) :=
  List.foldlRecOn (motive := SpoutFed s) _ _ (.refl s) fun t ht x _ => ht.trans (hf t x)

theorem of_dutyMap {f : Duty → Duty} (hf : ∀ d, (f d).step = d.step) (step : Nat) (s : State) : SpoutFed s (dutyMap step f s) :=
  ⟨(dutyMap_writes step f s).mono, by rw [(dutyMap_writes step f s).same .spout (by decide)]; exact fun _ h => h,
    fun _ h => dutyMap_keeps hf h step⟩

end SpoutFed

theorem spoutPut_spout (k : SpoutPkt) (s : State) : (spoutPut k s).spout = s.spout ++ [k] :=
  (ctrAdd_writes ..).same .spout (by decide)

theorem spoutPut_fed (k : SpoutPkt) (s : State) : SpoutFed s (spoutPut k s) := by
  have hwrites : Writes [.spout, .counters] s (spoutPut k s) := .after (ctrAdd_writes ..) (.of_mix rfl)
  refine ⟨hwrites.mono, ?_, fun n h => ?_⟩
  · rw [spoutPut_spout]
    exact List.subset_append_left ..
  · rwa [dutyAt, hwrites.same .duties (by decide)]

theorem listPut_fed (d : Duty) (localSlot cls : Nat) (l : List WorkEntry) (s : State) : SpoutFed s (listPut d localSlot cls l s) :=
  .foldl (fun _ _ => spoutPut_fed ..) _ s

theorem tilesPut_fed (i : Nat) (c : StepCtx) (localSlot : Nat) (l : List Copy) (s : State) :
    SpoutFed s (tilesPut i c localSlot l s) :=
  .foldl (fun _ _ => spoutPut_fed ..) _ s

/-- The tile of a copy of the step in slot `i` waits on the copy's Spout (R228). -/
def TileQueued (i : Nat) (c : StepCtx) (y : Copy) (tile : List Byte) (t : State) : Prop :=
  ∃ k ∈ t.spout, k.kind = 0x12 ∧ k.slot = i ∧ k.step = c.step ∧ k.spout = y.localSlot % 4 ∧
    ∃ q ∈ k.tiles, q.1.token = y.token ∧ q.1.rank = y.rank ∧ q.2 = tile

theorem TileQueued.fed {i : Nat} {c : StepCtx} {y : Copy} {tile : List Byte} {s t : State} (h : TileQueued i c y tile s)
    (hst : SpoutFed s t) : TileQueued i c y tile t := by
  obtain ⟨k, hk, hrest⟩ := h
  exact ⟨k, hst.spout hk, hrest⟩

theorem tileRead_congr {s t : State} (hcarafe : t.carafe = s.carafe) (hsp : t.sp = s.sp) (hjob : t.job = s.job) (i step token : Nat) :
    tileRead t i step token = tileRead s i step token := by
  rw [tileRead, tileRead, tileCell, tileCell, tileLen, tileLen, hcarafe, hjob]
  split
  · rw [spRead, spRead, hsp]
  · rfl

theorem SpoutFed.tileRead {s t : State} (h : SpoutFed s t) (i step token : Nat) :
    tileRead t i step token = tileRead s i step token :=
  tileRead_congr (h.writes.same .carafe (by decide)) (h.writes.same .sp (by decide)) (h.writes.same .job (by decide)) ..

/-- A property that elements bring about and feeding keeps holds after all of them. -/
theorem foldl_fed_mem {α : Type} {f : State → α → State} {P : State → Prop} {l : List α} {s : State} {x : α}
    (hf : ∀ t x, SpoutFed t (f t x)) (hkeeps : ∀ t u, SpoutFed t u → P t → P u) (hx : x ∈ l)
    (hdone : ∀ t, SpoutFed s t → P (f t x)) : P (l.foldl f s) := by
  obtain ⟨l₁, l₂, rfl⟩ := List.append_of_mem hx
  rw [List.foldl_append, List.foldl_cons]
  exact hkeeps _ _ (.foldl hf l₂ _) (hdone _ (.foldl hf l₁ s))

theorem tilesPut_queues {i : Nat} {c : StepCtx} {y : Copy} {l : List Copy} (hy : y ∈ l) (s : State) :
    TileQueued i c y (tileRead s i c.step y.token) (tilesPut i c y.localSlot l s) := by
  obtain ⟨e, he, hy⟩ := splitEvery_mem (n := max 1 (65472 / pitchOf s.job.desc)) (by omega) hy
  refine foldl_fed_mem (fun _ _ => spoutPut_fed ..) (fun _ _ htu h => h.fed htu) he fun t ht => ?_
  unfold TileQueued
  rw [spoutPut_spout]
  refine ⟨_, List.mem_append_right _ (List.mem_singleton_self _), rfl, rfl, rfl, rfl, _, List.mem_map.2 ⟨y, hy, rfl⟩, rfl, rfl, ?_⟩
  exact ht.tileRead ..

theorem emitLocal_fed (i : Nat) (c : StepCtx) (s : State) (x : Nat × Nat) : SpoutFed s (emitLocal i c s x) := by
  unfold emitLocal
  extract_lets l es
  split
  · exact .refl s
  · refine .ite (fun _ => .refl s) fun _ => ?_
    extract_lets fin es' s₁ s₂
    have h₁ : SpoutFed s s₁ := SpoutFed.ite
      (fun _ => SpoutFed.of_dutyMap (f := fun d => { d with closed := x.1 :: d.closed }) (fun _ => rfl) ..) fun _ => .refl s
    have h₂ : SpoutFed s₁ s₂ := .foldl (fun t e => (listPut_fed ..).trans (tilesPut_fed ..)) _ _
    refine h₁.trans (h₂.trans (.of_dutyMap ?_ ..))
    exact fun _ => rfl

/-- A local slot's own copies go to its Spout, tile by tile (R230). -/
theorem emitLocal_queues {i : Nat} {c : StepCtx} {s : State} {y : Copy} {cap : Nat} (hduty : (dutyAt s c.step).isSome = true)
    (hy : y ∈ c.copies) (hdest : y.dest = ownSeat s) :
    TileQueued i c y (tileRead s i c.step y.token) (emitLocal i c s (y.localSlot, cap)) := by
  obtain ⟨d, hd⟩ := Option.isSome_iff_exists.1 hduty
  unfold emitLocal
  extract_lets l es
  rw [hd]
  dsimp -zeta only
  have hmine : y ∈ l := List.mem_filter.2 ⟨hy, decide_eq_true ⟨hdest, rfl⟩⟩
  rw [if_neg (by simpa using List.ne_nil_of_mem hmine)]
  extract_lets fin es' s₁ s₂
  have h₁ : SpoutFed s s₁ := SpoutFed.ite
    (fun _ => SpoutFed.of_dutyMap (f := fun d => { d with closed := y.localSlot :: d.closed }) (fun _ => rfl) ..) fun _ => .refl s
  have hcut : es.length = ceilDiv l.length (cap + 1) := (List.length_map ..).trans List.length_range
  have hlen : (splitEvery (cap + 1) l).length = es'.length := by
    rw [splitEvery_length (Nat.succ_pos cap), ← hcut]
    unfold es'
    split_ifs
    · exact (markLast_length es).symm
    · rfl
  obtain ⟨e, he, hin⟩ := splitEvery_mem (Nat.succ_pos cap) hmine
  obtain ⟨q, hq, rfl⟩ := mem_zip_of_mem hlen he
  have hqueued : TileQueued i c y (tileRead s i c.step y.token) s₂ := by
    refine foldl_fed_mem (fun t e => (listPut_fed ..).trans (tilesPut_fed ..)) (fun _ _ htu h => h.fed htu) hq fun t ht => ?_
    have hlisted := h₁.trans (ht.trans (listPut_fed d y.localSlot c.cls [q.2] t))
    rw [← hlisted.tileRead]
    exact tilesPut_queues hin _
  refine hqueued.fed (.of_dutyMap ?_ ..)
  exact fun _ => rfl

theorem emitLocal_of_empty {c : StepCtx} (h : c.copies = []) (i : Nat) (s : State) (x : Nat × Nat) : emitLocal i c s x = s := by
  unfold emitLocal
  rw [h]
  split
  · rfl
  · exact if_pos rfl

/-- Every own copy with a local slot goes to Spout. -/
theorem localsEmitted {i : Nat} {c : StepCtx} {s : State} (hduty : (dutyAt s c.step).isSome = true) (l : List (Nat × Nat)) :
    SpoutFed s (l.foldl (emitLocal i c) s) ∧ ∀ y ∈ c.copies, y.dest = ownSeat s → (∃ cap, (y.localSlot, cap) ∈ l) →
      TileQueued i c y (tileRead s i c.step y.token) (l.foldl (emitLocal i c) s) := by
  refine ⟨.foldl (emitLocal_fed i c) l s, fun y hy hdest ⟨cap, hcap⟩ => ?_⟩
  refine foldl_fed_mem (emitLocal_fed i c) (fun _ _ htu h => h.fed htu) hcap fun t ht => ?_
  rw [← ht.tileRead]
  refine emitLocal_queues (ht.duty _ hduty) hy (hdest.trans ?_)
  exact (getP_congr (ht.writes.same .params (by decide)) _).symm

/-! ### Copies are sent (R225) -/

/-- Spout's queue stays, and every slot's state, stage and generation. -/
structure PhaseKept (s t : State) : Prop where
  spout : t.spout = s.spout
  slot : ∀ q, (slotAt t q).st = (slotAt s q).st ∧ (slotAt t q).stage = (slotAt s q).stage ∧ (slotAt t q).gen = (slotAt s q).gen

namespace PhaseKept

theorem refl (s : State) : PhaseKept s s := ⟨rfl, fun _ => ⟨rfl, rfl, rfl⟩⟩

theorem trans {s t u : State} (hst : PhaseKept s t) (htu : PhaseKept t u) : PhaseKept s u := by
  refine ⟨htu.spout.trans hst.spout, fun q => ?_⟩
  obtain ⟨hst₁, hstage₁, hgen₁⟩ := hst.slot q
  obtain ⟨hst₂, hstage₂, hgen₂⟩ := htu.slot q
  exact ⟨hst₂.trans hst₁, hstage₂.trans hstage₁, hgen₂.trans hgen₁⟩

theorem ite {c : Prop} [Decidable c] {s t u : State} (ht : c → PhaseKept s t) (hu : ¬ c → PhaseKept s u) :
    PhaseKept s (if c then t else u) := by
  split_ifs with h
  · exact ht h
  · exact hu h

theorem foldl {α : Type} {f : State → α → State} (hf : ∀ t x, PhaseKept t (f t x)) (l : List α) (s : State) :
    PhaseKept s (l.foldl f s) :=
  List.foldlRecOn (motive := PhaseKept s) _ _ (.refl s) fun t ht x _ => ht.trans (hf t x)

theorem of_writes {l : List Fld} {s t : State} (h : Writes l s t) (hslots : .slots ∉ l := by decide)
    (hspout : .spout ∉ l := by decide) : PhaseKept s t :=
  ⟨h.same .spout hspout, fun q => by rw [slotAt_congr (h.same .slots hslots)]; exact ⟨rfl, rfl, rfl⟩⟩

/-- Slots that change their steps' records only. -/
theorem of_map {s t : State} {f : Slot → Slot} (hspout : t.spout = s.spout) (hslots : t.slots = s.slots.map f)
    (hidle : f Slot.idle = Slot.idle) (hf : ∀ x, (f x).st = x.st ∧ (f x).stage = x.stage ∧ (f x).gen = x.gen) : PhaseKept s t := by
  refine ⟨hspout, fun q => ?_⟩
  have hslot : slotAt t q = f (slotAt s q) := by
    rw [slotAt, slotAt, hslots, List.getD_eq_getElem?_getD, List.getD_eq_getElem?_getD, List.getElem?_map]
    cases s.slots[q]? with
    | none => exact hidle.symm
    | some x => rfl
  rw [hslot]
  exact hf _

theorem of_ctxMap (i : Nat) (f : StepCtx → StepCtx) (s : State) : PhaseKept s (ctxMap i f s) := by
  refine ⟨rfl, fun q => ?_⟩
  by_cases hq : q = i
  · subst hq
    by_cases hlt : q < s.slots.length
    · rw [ctxMap, slotAt_setSlot_self hlt]
      exact ⟨rfl, rfl, rfl⟩
    · have hsame : (ctxMap q f s).slots = s.slots := List.set_eq_of_length_le (by omega)
      rw [slotAt_congr hsame]
      exact ⟨rfl, rfl, rfl⟩
  · rw [slotAt_ctxMap_ne hq]
    exact ⟨rfl, rfl, rfl⟩

end PhaseKept

theorem ctxSettle_phaseKept (cancelled : Bool) (i : Nat) (s : State) : PhaseKept s (ctxSettle cancelled i s) := by
  unfold ctxSettle
  split
  · exact .refl s
  · exact (PhaseKept.of_ctxMap ..).trans (.of_writes (vaultSettle_writes ..))

theorem settleAll_phaseKept (s : State) : PhaseKept s (settleAll s) := by
  unfold settleAll
  extract_lets t
  have hsettled : PhaseKept s t := .foldl (fun u i => .ite (fun _ => ctxSettle_phaseKept ..) fun _ => .refl u) _ s
  clear_value t
  refine hsettled.trans (.trans (.of_writes (l := [.duties]) (.of_mix rfl)) (.foldl (fun u x => ?_) _ _))
  exact .ite (fun _ => .refl u) fun _ => .of_writes (vaultSettle_writes ..)

theorem faultedBy_phaseKept (e : Event) (s : State) : PhaseKept s (faultedBy e s) :=
  .of_map (f := fun x => { x with ctx := x.ctx.map fun c => { c with preemptCmds := [] } }) rfl rfl rfl fun _ => ⟨rfl, rfl, rfl⟩

theorem jobFault_phaseKept (unit status detail : Nat) (w : Where) (s : State) : PhaseKept s (jobFault unit status detail w s) := by
  refine jobFault_cases (motive := PhaseKept s) (.refl s) (fun e t ht => ?_) (fun e t ht => ?_)
  · exact (PhaseKept.of_writes ht).trans (.of_writes (secondary_counts e t).1)
  · rw [enterFaulted_eq]
    have hended : PhaseKept t (jobEnded t) :=
      (PhaseKept.of_writes (cmdsEnded_writes t)).trans ((settleAll_phaseKept _).trans (.of_writes (endWaits_writes ..)))
    exact (PhaseKept.of_writes ht).trans (hended.trans (faultedBy_phaseKept ..))

theorem releaseUse_phaseKept (use : CellUse) (n : Nat) (s : State) : PhaseKept s (releaseUse use n s) := by
  unfold releaseUse
  split
  · exact .ite (fun _ => .refl s) fun _ => jobFault_phaseKept ..
  · refine .ite (fun _ => jobFault_phaseKept ..) fun _ => .ite (fun _ => .of_writes (freeCell_writes ..)) fun _ => ?_
    exact .of_writes (l := [.carafe]) (.of_mix rfl)

theorem sendCopy_phaseKept (i : Nat) (c : StepCtx) (x : Copy) (s : State) : PhaseKept s (sendCopy i c x s) := by
  unfold sendCopy
  refine .ite (fun _ => jobFault_phaseKept ..) fun _ => ?_
  extract_lets idx h pitch _ r
  have hsent : PhaseKept s r.1 := .of_writes (sendMsg_writes ..)
  exact hsent.trans ((PhaseKept.of_ctxMap ..).trans (.of_ctxMap ..))

theorem sendCopies_phaseKept (i : Nat) (c : StepCtx) (l : List Copy) (s : State) : PhaseKept s (sendCopies i c l s) := by
  induction l generalizing s with
  | nil => exact .refl s
  | cons x r ih => exact .ite (fun _ => .refl s) fun _ => (sendCopy_phaseKept ..).trans (ih _)

theorem tilesAcked_phaseKept (i : Nat) (s : State) : PhaseKept s (tilesAcked i s) := by
  unfold tilesAcked
  split
  · exact .refl s
  · exact .foldl (fun t x => .ite (fun _ => (PhaseKept.of_ctxMap ..).trans (releaseUse_phaseKept ..)) fun _ => .refl t) _ s

theorem dispatchPump_phaseKept (i : Nat) (s : State) : PhaseKept s (dispatchPump i s) := by
  unfold dispatchPump
  split
  · exact .refl s
  · exact .ite (fun _ => (sendCopies_phaseKept ..).trans (tilesAcked_phaseKept ..)) fun _ => .refl s

/-- A step with no copy has none to send. -/
theorem dispatchPump_of_empty {i : Nat} {s : State} {c : StepCtx} (hctx : (slotAt s i).ctx = some c) (h : c.copies = []) :
    dispatchPump i s = s := by
  have hacked : tilesAcked i s = s := by
    unfold tilesAcked
    rw [hctx]
    dsimp only
    rw [h]
    rfl
  unfold dispatchPump
  rw [hctx]
  dsimp only
  rw [h]
  split_ifs
  · exact hacked
  · rfl

/-! ### Dispatch begins and ends -/

theorem slotMove_length (i : Nat) (st : SlotState) (s : State) : (slotMove i st s).slots.length = s.slots.length := by
  have hslots : (slotMove i st s).slots = (setSlot i { slotAt s i with st := st } s).slots :=
    (dripSlot_writes ..).same .slots (by decide)
  rw [hslots, setSlot, List.length_set]

/-- The slot is Dispatched, in stage 13 (R91, R224). -/
def dispatchBegun (i : Nat) (c : StepCtx) (s : State) : State :=
  let t := slotMove i .dispatched (dripStageAll i c.gen c.step 12 1 c.cls s)
  dripStageAll i c.gen c.step 13 0 c.cls (setSlot i { slotAt t i with stage := 13 } t)

theorem dispatchBegun_result {i : Nat} {c : StepCtx} {s : State} (hi : i < s.slots.length) :
    Writes [.slots, .drip] s (dispatchBegun i c s) ∧
    slotAt (dispatchBegun i c s) i = { slotAt s i with st := .dispatched, stage := 13 } := by
  unfold dispatchBegun
  extract_lets t
  have htold := dripStageAll_writes i c.gen c.step 12 1 c.cls s
  have hslots : (dripStageAll i c.gen c.step 12 1 c.cls s).slots = s.slots := htold.same .slots (by decide)
  have ht : Writes [.slots, .drip] s t := .after (slotMove_writes ..) htold.mono
  have hself : slotAt t i = { slotAt s i with st := .dispatched } :=
    (slotAt_slotMove_self (by rwa [hslots]) .dispatched).trans
      (congrArg (fun x : Slot => { x with st := .dispatched }) (slotAt_congr hslots i))
  have hlen : i < t.slots.length := by rwa [slotMove_length, hslots]
  have hend := dripStageAll_writes i c.gen c.step 13 0 c.cls (setSlot i { slotAt t i with stage := 13 } t)
  refine ⟨.after hend (.after (setSlot_writes ..) ht), ?_⟩
  rw [slotAt_congr (hend.same .slots (by decide)), slotAt_setSlot_self hlen, hself]

theorem exec_dispatchStart {i : Nat} {c : StepCtx} {d : Duty} {s : State} (hlost : s.rst.rootLost = false)
    (hctx : (slotAt s i).ctx = some c) (hduty : dutyAt s c.step = some d) (hst : (slotAt s i).st = .scored)
    (hstage : (slotAt s i).stage = 12) (hdone : exchangeDone s d = true) (happ : applied s = true)
    (hfree : c.copies = [] ∨ windowHeld s i c.step = false) : exec (.dispatchStart i) s = .next
      (dutyTidy (dispatchPump i
        ((localSlots (dispatchBegun i c s) c.epoch c.layer).foldl (emitLocal i c) (dispatchBegun i c s)))) := by
  have hwindow : c.copies.isEmpty = true ∨ windowHeld s i c.step = false := hfree.imp (fun h => by rw [h]; rfl) id
  rw [exec, execDispatchStart, live_next hlost]
  simp only [hctx, hduty]
  rw [if_pos ⟨hst, hstage, hdone, happ, hwindow⟩]
  rfl

theorem localSlots_congr {s t : State} (hkeys : t.keyring = s.keyring) (hparams : t.params = s.params) (epoch layer : Nat) :
    localSlots t epoch layer = localSlots s epoch layer := by
  have hentries : krEntries t epoch layer = krEntries s epoch layer := by rw [krEntries, krEntries, krCopy, krCopy, hkeys]
  have hown : ownSeat t = ownSeat s := getP_congr hparams _
  rw [localSlots, localSlots, hentries, hown]

/-- Every copy is out: the slot awaits its answers (R226). -/
theorem toAwaiting_result {i : Nat} {c : StepCtx} {s : State} (hctx : (slotAt s i).ctx = some c) :
    Writes [.slots, .drip] s (toAwaiting i s) ∧ slotAt (toAwaiting i s) i = { slotAt s i with st := .awaiting, stage := 15 } ∧
    ∀ q, q ≠ i → slotAt (toAwaiting i s) q = slotAt s q := by
  have hi := slotAt_lt hctx
  unfold toAwaiting
  rw [hctx]
  dsimp -zeta only
  extract_lets s₁ s₂
  have h₁ : Writes [.drip] s s₁ := dripStageAll_writes ..
  have hslots : s₁.slots = s.slots := h₁.same .slots (by decide)
  have h₂ : Writes [.slots, .drip] s s₂ := .after (slotMove_writes ..) h₁.mono
  have hself : slotAt s₂ i = { slotAt s i with st := .awaiting } :=
    (slotAt_slotMove_self (by rwa [hslots]) .awaiting).trans
      (congrArg (fun x : Slot => { x with st := .awaiting }) (slotAt_congr hslots i))
  have hlen : i < s₂.slots.length := by rwa [slotMove_length, hslots]
  have hend := dripStageAll_writes i c.gen c.step 15 0 c.cls (setSlot i { slotAt s₂ i with stage := 15 } s₂)
  refine ⟨.after hend (.after (setSlot_writes ..) h₂), ?_, fun q hq => ?_⟩
  · rw [slotAt_congr (hend.same .slots (by decide)), slotAt_setSlot_self hlen, hself]
  · rw [slotAt_congr (hend.same .slots (by decide)), slotAt_setSlot_ne hq, slotAt_slotMove_ne hq, slotAt_congr hslots]

theorem exec_dispatchAcked {i : Nat} {c : StepCtx} {s : State} (hlost : s.rst.rootLost = false) (hctx : (slotAt s i).ctx = some c)
    (hst : (slotAt s i).st = .dispatched) (happ : applied s = true) (hout : copiesOut s c = true) :
    exec (.dispatchAcked i) s = .next (toAwaiting i s) := by
  rw [exec, execDispatchAcked, live_next hlost]
  simp only [hctx]
  rw [if_pos ⟨hst, happ, hout⟩]

end Sys2Proof.Machine
end

section
/-! PROOFS. The combine of a step: its answers read, its rows written, its slot Done (R117, R119, R190, R236 to R239). -/

namespace Sys2Proof.Machine

-- One declaration at a time: see the frames of the state's operations.
set_option Elab.async false

/-! ### The bytes that a merge covers -/

theorem Covers.unionFrom {cur : Piece} {l : List Piece} (hsorted : (cur :: l).Pairwise fun p q => p.pa ≤ q.pa) {a : Nat}
    (h : Covers (cur :: l) a) : Covers (unionFrom cur l) a := by
  induction l generalizing cur with
  | nil => exact h
  | cons q r ih =>
    obtain ⟨hcur, hqr⟩ := List.pairwise_cons.1 hsorted
    obtain ⟨-, hr⟩ := List.pairwise_cons.1 hqr
    obtain ⟨x, hx, hlo, hhi⟩ := h
    have hfirst := hcur q (List.mem_cons_self ..)
    rw [Machine.unionFrom]
    split_ifs with hjoin
    · refine ih (List.pairwise_cons.2 ⟨fun y hy => hcur y (List.mem_cons_of_mem _ hy), hr⟩) ?_
      rcases List.mem_cons.1 hx with rfl | hx
      · exact ⟨_, List.mem_cons_self .., hlo, by dsimp only; omega⟩
      · rcases List.mem_cons.1 hx with rfl | hx
        · exact ⟨_, List.mem_cons_self .., by dsimp only; omega, by dsimp only; omega⟩
        · exact ⟨x, List.mem_cons_of_mem _ hx, hlo, hhi⟩
    · rcases List.mem_cons.1 hx with rfl | hx
      · exact ⟨x, List.mem_cons_self .., hlo, hhi⟩
      · exact (ih hqr ⟨x, hx, hlo, hhi⟩).of_subset (List.subset_cons_self ..)

/-- A merge covers all that the pieces cover. -/
theorem Covers.unionPieces {l : List Piece} {a : Nat} (h : Covers l a) : Covers (unionPieces l) a := by
  have hsorted : (sortBy (fun (p q : Piece) => decide (p.pa < q.pa)) l).Pairwise fun p q => p.pa ≤ q.pa := by
    refine (pairwise_sortBy (fun p q => ?_) (fun p q r => ?_) l).imp fun {p q} hpq => ?_
    · simp only [decide_eq_true_eq, decide_eq_false_iff_not]
      omega
    · simp only [decide_eq_false_iff_not]
      omega
    · simpa using hpq
  have hin : Covers (sortBy (fun (p q : Piece) => decide (p.pa < q.pa)) l) a := by
    obtain ⟨x, hx, hin⟩ := h
    exact ⟨x, mem_sortBy.2 hx, hin⟩
  unfold Machine.unionPieces
  split
  · next hnil =>
    rw [hnil] at hin
    exact hin
  · next p r hsort =>
    rw [hsort] at hin hsorted
    exact hin.unionFrom hsorted

/-! ### The output's writes (R238) -/

theorem tRun_poke_grows (t : TRun) (va off w code : Nat) : TRun.Grows t (t.poke va off w code) := by
  unfold TRun.poke
  extract_lets n k
  split_ifs
  · exact .refl t
  · have hrange := xlateRange_writes t.s 1 (va + off / 8) n true
    split
    · next s f h =>
      rw [h] at hrange
      exact .of_state hrange (some f)
    · next s l h =>
      rw [h] at hrange
      have hstate : TRun.Grows t { t with s := s } := .of_state hrange t.bad
      refine hstate.trans ⟨.of_mix rfl, List.subset_append_left .., fun a ha => ?_, fun e he => .inl he⟩
      exact memGet_writePieces_out l _ s.hostMem (not_covers_iff.1 fun h => ha (h.of_subset (List.subset_append_right ..)))

theorem tRun_touched_grows {f : TRun → TRun} (hf : ∀ t, TRun.Grows t (f t)) (t : TRun) : TRun.Grows t (t.touched f) := by
  obtain ⟨hwrites, -, hmem, -⟩ := hf { t with wr := [] }
  unfold TRun.touched
  extract_lets r l
  refine ⟨hwrites, List.subset_append_left .., fun a ha => ?_, fun e he => ?_⟩
  · exact hmem a fun h => ha (h.unionPieces.of_subset (List.subset_append_right ..))
  · rcases List.mem_cons.1 he with rfl | he
    · exact .inr (List.subset_append_right ..)
    · exact .inl he

theorem outPart_grows (d : Desc) (o : List Nat) (n : Nat) (l : List OutRow) (t : TRun) : TRun.Grows t (outPart d o n l t) := by
  unfold outPart
  extract_lets lines u v
  have hheader : TRun.Grows t v := .ite (fun _ => tRun_write_grows ..) fun _ => .refl t
  refine hheader.trans (tRun_touched_grows (fun t => .foldl (fun t r => .foldl (fun t i => ?_) _ t) _ t) v)
  extract_lets a line pl w
  have hcode : TRun.Grows t w := tRun_poke_grows ..
  exact .ite (fun _ => hcode.trans (tRun_poke_grows ..)) fun _ => hcode

theorem outUnit_grows (d : Desc) (dim : Nat) (rows : List OutRow) (t : TRun) (o : List Nat) :
    TRun.Grows t (outUnit d dim rows t o) := by
  unfold outUnit
  extract_lets n mine
  exact .ite (fun _ => .refl t) fun _ => .ite (fun _ => unitWrite_grows ..) fun _ => outPart_grows ..

theorem outWrite_grows (d : Desc) (dim : Nat) (rows : List OutRow) (lo hi : Nat) (t : TRun) :
    TRun.Grows t (outWrite d dim rows lo hi t) := .foldl (outUnit_grows d dim rows) _ t

/-- What is settled at the end lies in what all the rows write (R190, R238). -/
theorem outSettle_result (c : StepCtx) (s : State) : Writes [.hostMem, .freeCtr] s (outSettle c s) ∧
    ∀ a, ¬ Covers (outWrite (outDescOf c) s.job.desc.d c.outs 0 c.outs.length (TRun.start s)).wr a →
      memGet (outSettle c s).hostMem a = memGet s.hostMem a := by
  obtain ⟨-, -, hlog⟩ := (outWrite_grows (outDescOf c) s.job.desc.d c.outs 0 c.outs.length (TRun.start s)).of_start
  exact ⟨settleTwice_writes .., fun a ha =>
    memGet_settleTwice_out (fun h => ha (Covers.of_runs (fun e he => hlog e (List.mem_reverse.1 he)) h)) s⟩

/-! ### Rows are combined (R119, R237, R238) -/

/-- The rows from `c.outPos` to `hi` are written, and those of every row settled at the end. -/
theorem combineOn_result {i n : Nat} {c : StepCtx} {s : State} (hctx : (slotAt s i).ctx = some c) :
    let hi := min c.outs.length (c.outPos + rowsFree s i c.outPos n)
    let w := outWrite (outDescOf c) s.job.desc.d c.outs c.outPos hi (TRun.start s)
    let v := (List.range (hi - c.outPos)).foldl (fun u k => ctrInc (128 + 32 * ((c.outPos + k) % 4) + 7) u) w.s
    let again := (outWrite (outDescOf c) s.job.desc.d c.outs 0 c.outs.length (TRun.start v)).wr
    w.bad = none → Writes [.slots, .mport, .freeCtr, .hostMem, .keyway, .counters] s (combineOn i n s) ∧
      slotAt (combineOn i n s) i = { slotAt s i with ctx := some { c with outPos := hi } } ∧
      (∀ q, q ≠ i → slotAt (combineOn i n s) q = slotAt s q) ∧
      ∀ a, ¬ Covers w.wr a → (hi = c.outs.length → ¬ Covers again a) →
        memGet (combineOn i n s).hostMem a = memGet s.hostMem a := by
  intro hi w v again hbad
  obtain ⟨hrun, hmem, -⟩ := (outWrite_grows (outDescOf c) s.job.desc.d c.outs c.outPos hi (TRun.start s)).of_start
  have hv : Writes [.counters] w.s v := .foldl (fun _ _ => ctrInc_writes ..) _ _
  have hwritten : Writes [.freeCtr, .hostMem, .keyway, .counters] s v := .after hv hrun.mono
  obtain ⟨hsettled, hout⟩ := outSettle_result c v
  have hlast : Writes [.freeCtr, .hostMem, .keyway, .counters] s
      (if hi = c.outs.length ∧ c.outPos < hi then outSettle c v else v) := .ite (fun _ => .after hsettled hwritten) fun _ => hwritten
  have hmemlast (a : Nat) (ha : ¬ Covers w.wr a) (hagain : hi = c.outs.length → ¬ Covers again a) :
      memGet (if hi = c.outs.length ∧ c.outPos < hi then outSettle c v else v).hostMem a = memGet s.hostMem a := by
    have hbefore : memGet v.hostMem a = memGet s.hostMem a := by
      rw [hv.same .hostMem (by decide)]
      exact hmem a ha
    split_ifs with hend
    · rw [hout a ?_, hbefore]
      rw [show v.job = s.job from hwritten.same .job (by decide)]
      exact hagain hend.1
    · exact hbefore
  have heq : combineOn i n s = mportAsk true c.cls (.outRow i c.step) w.wr (ctxMap i (fun y => { y with outPos := hi })
      (if hi = c.outs.length ∧ c.outPos < hi then outSettle c v else v)) := by
    unfold combineOn
    rw [hctx]
    dsimp only
    rw [show (outWrite (outDescOf c) s.job.desc.d c.outs c.outPos (min c.outs.length (c.outPos + rowsFree s i c.outPos n))
      (TRun.start s)).bad = none from hbad]
  rw [heq]
  generalize (if hi = c.outs.length ∧ c.outPos < hi then outSettle c v else v) = u at hlast hmemlast
  have hask := mportAsk_writes true c.cls (.outRow i c.step) w.wr (ctxMap i (fun y => { y with outPos := hi }) u)
  have hslot (q : Nat) : slotAt u q = slotAt s q := slotAt_congr (hlast.same .slots (by decide)) q
  refine ⟨.after hask (.after (ctxMap_writes ..) hlast.mono), ?_, fun q hq => ?_, fun a ha hagain => ?_⟩
  · rw [slotAt_congr (hask.same .slots (by decide)), slotAt_ctxMap_self (c := c) (by rw [hslot, hctx]), hslot]
  · rw [slotAt_congr (hask.same .slots (by decide)), slotAt_ctxMap_ne hq, hslot]
  · rw [hask.same .hostMem (by decide)]
    exact hmemlast a ha hagain

/-- A slot that combines goes on with its rows (R130). -/
theorem exec_combineStart_on {i n : Nat} {s : State} (hlost : s.rst.rootLost = false) (hst : (slotAt s i).st = .combining)
    (hstage : (slotAt s i).stage = 16) (happ : applied s = true) (io : Io) :
    exec (.combineStart i n io []) s = .next (combineOn i n s) := by
  have hready : combineReady s i = false := by
    unfold combineReady
    split
    · rfl
    · rw [hst]
      rfl
  have hgoes := (applied_lives happ).2
  rw [exec, execCombineStart, live_next hlost]
  dsimp only
  rw [hready, if_neg Bool.false_ne_true, if_pos ⟨hst, happ⟩]
  simp [foundAll, hstage, hgoes]

theorem exec_combineStart_rest {i n : Nat} {s : State} (hlost : s.rst.rootLost = false) (hready : combineReady s i = false)
    (hst : (slotAt s i).st ≠ .combining) (io : Io) : exec (.combineStart i n io []) s = .next s := by
  rw [exec, execCombineStart, live_next hlost]
  dsimp only
  rw [hready, if_neg Bool.false_ne_true, if_neg fun h => hst h.1]

/-! ### The answers are read (R236, R237) -/

theorem combineEnter_result {i : Nat} {c : StepCtx} {s : State} (hctx : (slotAt s i).ctx = some c) :
    Writes [.slots, .drip] s (combineEnter i s) ∧ slotAt (combineEnter i s) i = { slotAt s i with st := .combining } := by
  unfold combineEnter
  rw [hctx]
  dsimp only
  have htold := dripStageAll_writes i c.gen c.step 15 1 c.cls s
  have hslots : (dripStageAll i c.gen c.step 15 1 c.cls s).slots = s.slots := htold.same .slots (by decide)
  refine ⟨.after (slotMove_writes ..) htold.mono, ?_⟩
  rw [slotAt_slotMove_self (by rw [hslots]; exact slotAt_lt hctx), slotAt_congr hslots]

theorem xlateAnswers_writes (c : StepCtx) (l : List (Nat × Nat)) (s : State) : Writes [.keyway] s (xlateAnswers c l s).1 := by
  induction l generalizing s with
  | nil => exact .refl _ s
  | cons x r ih =>
    rw [xlateAnswers]
    have hrange := xlateRange_writes s 0 (retVa s (retIdx s.job.desc c.step x.1 x.2) + 64) (tileLen s) false
    split
    · next u f h =>
      rw [h] at hrange
      exact hrange
    · next u l h =>
      rw [h] at hrange
      have hrest := hrange.trans (ih u)
      split
      · next v f h =>
        rw [h] at hrest
        exact hrest
      · next v q h =>
        rw [h] at hrest
        exact hrest

/-- The combined rows with their codes, from the answers that were read. -/
def rowsCombined (s : State) (c : StepCtx) (l : List ((Nat × Nat) × List Piece)) : List OutRow :=
  (combineRows s.job.desc c (sharedOf s c) (l.map fun a => (a.1, readPieces s.hostMem a.2))).map (outRow (outDescOf c))

theorem combineRead_result {i : Nat} {c : StepCtx} {s v : State} {l : List ((Nat × Nat) × List Piece)}
    (hctx : (slotAt s i).ctx = some c) (hread : xlateAnswers c (answersOf c) s = (v, .ok l)) :
    Writes [.slots, .drip, .keyway] s (combineRead i .ok s) ∧
    ∃ dig, slotAt (combineRead i .ok s) i =
      { slotAt s i with stage := 16, ctx := some { c with outs := rowsCombined s c l, outPos := 0, digests := dig } } := by
  have hv := xlateAnswers_writes c (answersOf c) s
  rw [hread] at hv
  have hslots : v.slots = s.slots := hv.same .slots (by decide)
  have hrows : rowsCombined v c l = rowsCombined s c l := by
    unfold rowsCombined sharedOf
    rw [layerIn_congr (congrArg (·.epochs) (hv.same .ep (by decide))), hv.same .job (by decide), hv.same .hostMem (by decide)]
  let dig := combineDigests (outDescOf c) (stepP v 0x0521 c.step) (rowsCombined v c l)
    ((l.map fun a => (a.1, readPieces v.hostMem a.2)).map (·.2))
  let u := setSlot i { slotAt v i with stage := 16 } v
  let w := ctxMap i (fun y => { y with outs := rowsCombined v c l, outPos := 0, digests := y.digests ++ dig }) u
  have heq : combineRead i .ok s = dripStageAll i c.gen c.step 16 0 c.cls w := by
    unfold combineRead
    rw [hctx]
    dsimp only
    rw [hread]
    rfl
  have hu : Writes [.slots, .keyway] s u := .after (setSlot_writes ..) hv.mono
  have hself : slotAt u i = { slotAt s i with stage := 16 } :=
    (slotAt_setSlot_self (by rw [hslots]; exact slotAt_lt hctx) _).trans
      (congrArg (fun x : Slot => { x with stage := 16 }) (slotAt_congr hslots i))
  have hw : slotAt w i = _ := slotAt_ctxMap_self (c := c) (by rw [hself, ← hctx]) _
  have htold := dripStageAll_writes i c.gen c.step 16 0 c.cls w
  rw [heq]
  refine ⟨.after htold (.after (ctxMap_writes ..) hu.mono), c.digests ++ dig, ?_⟩
  rw [slotAt_congr (htold.same .slots (by decide)), hw, hself, ← hrows]

/-- A slot whose answers are all in becomes Combining, and its rows go on from its answers (R236). -/
theorem exec_combineStart_enter {i n : Nat} {c : StepCtx} {s v : State} {l : List ((Nat × Nat) × List Piece)}
    (hlost : s.rst.rootLost = false) (hctx : (slotAt s i).ctx = some c) (hready : combineReady s i = true)
    (hstage : (slotAt s i).stage = 15) (hread : xlateAnswers c (answersOf c) (combineEnter i s) = (v, .ok l)) :
    exec (.combineStart i n .ok []) s = .next (combineOn i n (combineRead i .ok (combineEnter i s))) := by
  obtain ⟨hentered, hself⟩ := combineEnter_result hctx
  have happ : applied s = true := by
    unfold combineReady at hready
    rw [hctx] at hready
    simp only [Bool.and_eq_true] at hready
    exact hready.2
  have happlied : applied (combineEnter i s) = true := by
    rw [applied, hentered.same .job (by decide)]
    exact happ
  obtain ⟨hwrites, -⟩ := combineRead_result (by rw [hself, ← hctx]) hread
  have hgoes := (applied_lives happlied).2
  have hgone : (combineRead i .ok (combineEnter i s)).job.st ≠ .faulted := by
    rw [hwrites.same .job (by decide)]
    exact hgoes
  have hst : (slotAt (combineEnter i s) i).st = .combining := by rw [hself]
  have hlow : (slotAt (combineEnter i s) i).stage < 16 := by
    rw [hself]
    exact hstage.trans_lt (by decide)
  have hstep : (if (combineEnter i s).job.st ≠ .faulted ∧ (slotAt (combineEnter i s) i).stage < 16 then
      combineRead i .ok (combineEnter i s) else combineEnter i s) = combineRead i .ok (combineEnter i s) := if_pos ⟨hgoes, hlow⟩
  rw [exec, execCombineStart, live_next hlost]
  dsimp only
  rw [hready, if_pos rfl, if_pos ⟨hst, happlied⟩, foundAll, List.foldl_nil, hstep, if_neg hgone]

/-! ### The step ends (R91, R117, R400, R454) -/

theorem putDigests_writes (i : Nat) (c : StepCtx) (s : State) : Writes [.params, .recRing] s (putDigests i c s) := by
  unfold putDigests
  extract_lets codes t
  have ht : Writes [.params, .recRing] s t := .foldl (fun u x => by
    split
    · exact .refl _ u
    · split
      · exact .refl _ u
      · exact .after (setP_writes ..) (setP_writes ..).mono) _ s
  exact .ite (fun _ => ht.trans (.foldl (fun _ _ => (recPut_writes ..).mono) _ _)) fun _ => ht

/-- Settling a step changes its record only. -/
theorem ctxSettle_slots {i : Nat} {c : StepCtx} {s : State} (hctx : (slotAt s i).ctx = some c) (cancelled : Bool) :
    (∃ k, slotAt (ctxSettle cancelled i s) i = { slotAt s i with ctx := some k }) ∧
    ∀ q, q ≠ i → slotAt (ctxSettle cancelled i s) q = slotAt s q := by
  unfold ctxSettle
  rw [hctx]
  dsimp only
  have hslot (counts : VCounts) (t : State) (q : Nat) : slotAt (vaultSettle cancelled counts t) q = slotAt t q :=
    slotAt_congr ((vaultSettle_writes ..).same .slots (by decide)) q
  refine ⟨⟨{ c with held := VCounts.zero }, ?_⟩, fun q hq => ?_⟩
  · rw [hslot, slotAt_ctxMap_self hctx]
  · rw [hslot, slotAt_ctxMap_ne hq]

/-- What the end of a step writes. -/
def doneFields : List Fld :=
  [.params, .recRing, .drip, .counters, .latch, .slots, .vault, .carafe, .sp, .spPoison, .job, .kft]

theorem stepDone_result {i : Nat} {c k : StepCtx} {s : State} (hctx : (slotAt s i).ctx = some k) :
    Writes doneFields s (stepDone i c s) ∧
    slotAt (stepDone i c s) i = { slotAt s i with st := .done, ctx := none, stage := 0 } ∧
    (∀ q, q ≠ i → slotAt (stepDone i c s) q = slotAt s q) ∧
    (stepDone i c s).job = { s.job with lastDone := max s.job.lastDone c.step, closeFence := (stepDone i c s).job.closeFence } ∧
    (s.latch.opened.any (fun y => sameCmd y c.cmd) = true → ∃ r ∈ (stepDone i c s).latch.replies, r.tag = c.cmd.tag ∧
      r.order = c.cmd.order ∧ r.status = 0 ∧ r.final = true ∧ r.r0 = c.nTok) := by
  have hi := slotAt_lt hctx
  unfold stepDone
  extract_lets s₁ s₂ s₃ s₄ _ s₅ s₆
  have h₁ : Writes [.params, .recRing] s s₁ := putDigests_writes ..
  have h₂ : Writes [.params, .recRing, .drip] s s₂ := .after (dripStageAll_writes ..) h₁.mono
  have hcount : Writes [.params, .recRing, .drip, .counters] s (ctrInc 45 s₂) := .after (ctrInc_writes ..) h₂.mono
  have hfinish : Writes [.params, .recRing, .drip, .counters, .latch] s (finishStep i c 0 (ctrInc 45 s₂)) :=
    .after (finish_writes ..) hcount.mono
  have h₃ : Writes [.params, .recRing, .drip, .counters, .latch, .slots, .vault] s s₃ := .after (ctxSettle_writes ..) hfinish.mono
  have h₃₄ : Writes [.latch, .drip] s₃ s₄ := .foldl (fun _ _ => finish_writes ..) _ _
  have hset : Writes [.job] s₄ { s₄ with job := { s₄.job with lastDone := max s₄.job.lastDone c.step } } := .of_mix rfl
  have hrows := dropRows_writes i c.step { s₄ with job := { s₄.job with lastDone := max s₄.job.lastDone c.step } }
  have h₅ : Writes doneFields s s₅ := .after hrows (.after hset (.after h₃₄ h₃.mono))
  have h₅₆ : Writes [.slots, .drip] s₅ s₆ := slotMove_writes ..
  have hlast := setSlot_writes i { slotAt s₆ i with ctx := none, stage := 0 } s₆
  have hclose := closeTry_fencesOnly (setSlot i { slotAt s₆ i with ctx := none, stage := 0 } s₆)
  have hjob₄ : s₄.job = s.job := (h₃₄.same .job (by decide)).trans (h₃.same .job (by decide))
  have hslotf (q : Nat) : slotAt (finishStep i c 0 (ctrInc 45 s₂)) q = slotAt s q := slotAt_congr (hfinish.same .slots (by decide)) q
  obtain ⟨⟨x, hself₃⟩, hothers₃⟩ := ctxSettle_slots (i := i) (s := finishStep i c 0 (ctrInc 45 s₂)) (by rw [hslotf, hctx]) false
  have hslots₅ : s₅.slots = s₃.slots := (hrows.same .slots (by decide)).trans (h₃₄.same .slots (by decide))
  have hself₅ : slotAt s₅ i = { slotAt s i with ctx := some x } := by rw [slotAt_congr hslots₅, hself₃, hslotf]
  have hlen₅ : i < s₅.slots.length := slotAt_lt (c := x) (by rw [hself₅])
  have hself₆ : slotAt s₆ i = { slotAt s₅ i with st := .done } := slotAt_slotMove_self hlen₅ .done
  have hlen₆ : i < s₆.slots.length := by rwa [slotMove_length]
  have hjob : s₆.job = { s.job with lastDone := max s.job.lastDone c.step } := by
    rw [h₅₆.same .job (by decide), hrows.same .job (by decide), hjob₄]
  have hkept : RepliesKept (finishStep i c 0 (ctrInc 45 s₂)) (closeTry (setSlot i { slotAt s₆ i with ctx := none, stage := 0 } s₆)) := by
    refine fun r hr => hclose.replies r ?_
    rw [hlast.same .latch (by decide), h₅₆.same .latch (by decide), hrows.same .latch (by decide)]
    have hfinished : RepliesKept s₃ s₄ := .foldl (fun t c => finish_repliesKept _ _ _ _ _ _ _) _ _
    refine hfinished r ?_
    rw [(ctxSettle_writes false i (finishStep i c 0 (ctrInc 45 s₂))).same .latch (by decide)]
    exact hr
  refine ⟨.after hclose.writes (.after hlast (.after h₅₆ h₅)), ?_, fun q hq => ?_, ?_, fun hopen => ?_⟩
  · rw [slotAt_congr (hclose.writes.same .slots (by decide)), slotAt_setSlot_self hlen₆, hself₆, hself₅]
  · rw [slotAt_congr (hclose.writes.same .slots (by decide)), slotAt_setSlot_ne hq, slotAt_slotMove_ne hq, slotAt_congr hslots₅,
      hothers₃ q hq, hslotf]
  · rw [hclose.job, hlast.same .job (by decide), hjob]
  · have hopened : (ctrInc 45 s₂).latch.opened.any (fun y => sameCmd y c.cmd) = true := by
      rw [hcount.same .latch (by decide)]
      exact hopen
    have hreply : ∃ r ∈ (finishStep i c 0 (ctrInc 45 s₂)).latch.replies, r.tag = c.cmd.tag ∧ r.order = c.cmd.order ∧
        r.status = 0 ∧ r.final = true ∧ r.r0 = c.nTok := by
      rw [finishStep, finish_of_open hopened]
      exact ⟨_, List.mem_append_right _ (List.mem_singleton_self _), rfl, rfl, rfl, rfl, rfl⟩
    obtain ⟨r, hr, hwords⟩ := hreply
    exact ⟨r, hkept r hr, hwords⟩

theorem exec_combineDone {i : Nat} {c : StepCtx} {s : State} (hlost : s.rst.rootLost = false) (hctx : (slotAt s i).ctx = some c)
    (hst : (slotAt s i).st = .combining) (hstage : (slotAt s i).stage = 16) (happ : applied s = true)
    (hpos : c.outPos = c.outs.length) (hreq : reqOpen s (.outRow i c.step) = false) (io : Io) :
    exec (.combineDone i io) s = .next (if c.exitEn then maskDone i c io s else stepDone i c s) := by
  rw [exec, execCombineDone, live_next hlost]
  simp only [hctx]
  rw [if_pos ⟨hst, hstage, happ, hpos, hreq⟩]

theorem exec_combineDone_rest {i : Nat} {c : StepCtx} {s : State} (hlost : s.rst.rootLost = false)
    (hctx : (slotAt s i).ctx = some c) (h : c.outPos ≠ c.outs.length ∨ reqOpen s (.outRow i c.step) = true) (io : Io) :
    exec (.combineDone i io) s = .next s := by
  rw [exec, execCombineDone, live_next hlost]
  simp only [hctx]
  rw [if_neg]
  rintro ⟨-, -, -, hpos, hreq⟩
  rcases h with h | h
  · exact h hpos
  · rw [h] at hreq
    cases hreq

/-- With its exit mask written, the step ends as it does without one (R117, R238). -/
theorem maskDone_ok {i : Nat} {c : StepCtx} {s u : State} {ps : List Piece}
    (hrange : xlateRange s 1 c.exitVa (exitMask (slotAt s i) c.nTok).length true = (u, .ok ps)) :
    ∃ dig, maskDone i c .ok s = stepDone i { c with digests := dig }
      { u with hostMem := writePieces ps (exitMask (slotAt s i) c.nTok) u.hostMem } := by
  unfold maskDone
  dsimp only
  split_ifs
  · refine ⟨c.digests ++ [streamDigest 6 (exitMask (slotAt s i) c.nTok)], ?_⟩
    dsimp only
    rw [hrange] <;> rfl
  · refine ⟨c.digests, ?_⟩
    rw [hrange] <;> rfl

end Sys2Proof.Machine
end

section
/-! PROOFS. The stages of a step, from its rows to Done (R91, R96, R215 to R226, R236 to R239). -/

namespace Sys2Proof.Machine

-- One declaration at a time: see the frames of the state's operations.
set_option Elab.async false

/-- What scoring that is done leaves of a step (R110 to R118, R221). -/
theorem scoringDone_completes {i : Nat} {c : StepCtx} {l : Layer} {s : State} (hctx : (slotAt s i).ctx = some c)
    (hscored : exec (.stepScoringDone i .ok []) s =
      .next (withRouter l s.job.desc.d c.nTok .ok (whereSlot s i) (scoreStep i c l) s))
    (hrouter : c.nTok = 0 ∨ (l.routerSrc = false ∧ routerPoison s l s.job.desc.d = none) ∨ (l.routerSrc = true ∧
      ∃ u ps, xlateRange s 1 l.wAddr (routerBytes (routerDesc l s.job.desc.d) s.job.desc.d) false = (u, .ok ps))) :
    Completes (.stepScoringDone i .ok []) s fun t =>
      (slotAt t i).st = (slotAt s i).st ∧ (slotAt t i).stage = 12 ∧ (slotAt t i).gen = (slotAt s i).gen ∧ t.job = s.job ∧
      t.hostMem = s.hostMem ∧ (∀ q, q ≠ i → slotAt t q = slotAt s q) ∧
      ∃ k, (slotAt t i).ctx = some k ∧ k.countsSent = true ∧ k.sels.map (·.token) = List.range c.nTok ∧
        (∀ y ∈ k.sels, y.token ∈ (slotAt s i).exits → y.exited = true) ∧ (∀ y ∈ k.sels, y.exited = true → y.picks = []) ∧
        (∀ y ∈ k.copies, y.sent = false ∧ y.answered = false) ∧
        ∀ e, e ∈ (slotAt t i).exits ↔ e ∈ (slotAt s i).exits ∨
          (e ∉ (slotAt s i).exits ∧ ∃ y ∈ k.sels, y.token = e ∧ y.exited = true) := by
  obtain ⟨b, u, hu, hgoes⟩ := withRouter_reads hrouter (whereSlot s i) (scoreStep i c l)
  have hslot (q : Nat) : slotAt u q = slotAt s q := slotAt_congr (hu.same .slots (by decide)) q
  obtain ⟨hwrites, hothers, ents, own, dig, rs, hrs, hself⟩ := scoreStep_result (by rw [hslot, hctx]) l b
  rw [hslot] at hrs hself
  have hall : Writes (.keyway :: scoredFields) s (scoreStep i c l b u) := .after hwrites hu.mono
  refine ⟨_, hscored.trans (congrArg _ hgoes), ?_, ?_, ?_, hall.same .job (by decide), hall.same .hostMem (by decide),
    fun q hq => (hothers q hq).trans (hslot q), ?_⟩
  all_goals rw [hself]
  · rfl
  · rfl
  · rfl
  · refine ⟨_, rfl, rfl, hrs.tokens, fun y hy => (hrs.sel hy).1, fun y hy => (hrs.sel hy).2, sortCopies_fresh own ents rs, fun e => ?_⟩
    rw [← hrs.mem_fired e]
    exact List.mem_append

/-- What the start of dispatch leaves of a step (R91, R224, R230). -/
theorem dispatchStart_completes {i : Nat} {c : StepCtx} {d : Duty} {s : State} (hctx : (slotAt s i).ctx = some c)
    (hduty : dutyAt s c.step = some d) (hexec : exec (.dispatchStart i) s = .next (dutyTidy (dispatchPump i
      ((localSlots (dispatchBegun i c s) c.epoch c.layer).foldl (emitLocal i c) (dispatchBegun i c s))))) :
    Completes (.dispatchStart i) s fun t =>
      (slotAt t i).st = .dispatched ∧ (slotAt t i).stage = 13 ∧ (slotAt t i).gen = (slotAt s i).gen ∧
      (∀ y ∈ c.copies, y.dest = ownSeat s → (∃ cap, (y.localSlot, cap) ∈ localSlots s c.epoch c.layer) →
        TileQueued i c y (tileRead s i c.step y.token) t) ∧
      (c.copies = [] → t.job = s.job ∧ t.spout = s.spout ∧ t.kft = s.kft) := by
  obtain ⟨hbegun, hself⟩ := dispatchBegun_result (c := c) (slotAt_lt hctx)
  have hlocals : localSlots (dispatchBegun i c s) c.epoch c.layer = localSlots s c.epoch c.layer :=
    localSlots_congr (hbegun.same .keyring (by decide)) (hbegun.same .params (by decide)) ..
  have hdutyBegun : (dutyAt (dispatchBegun i c s) c.step).isSome = true := by
    rw [dutyAt, hbegun.same .duties (by decide), ← dutyAt, hduty]
    rfl
  rw [hlocals] at hexec
  obtain ⟨hfed, hqueued⟩ := localsEmitted (i := i) hdutyBegun (localSlots s c.epoch c.layer)
  have htidy := dutyTidy_writes (dispatchPump i ((localSlots s c.epoch c.layer).foldl (emitLocal i c) (dispatchBegun i c s)))
  have hempty (h : c.copies = []) (l : List (Nat × Nat)) : l.foldl (emitLocal i c) (dispatchBegun i c s) = dispatchBegun i c s :=
    List.foldlRecOn (motive := (· = dispatchBegun i c s)) _ _ rfl fun t ht x _ => (emitLocal_of_empty h i t x).trans ht
  have hphase := (dispatchPump_phaseKept i
    ((localSlots s c.epoch c.layer).foldl (emitLocal i c) (dispatchBegun i c s))).trans (.of_writes htidy)
  obtain ⟨hst, hstage, hgen⟩ := hphase.slot i
  have hslot : slotAt ((localSlots s c.epoch c.layer).foldl (emitLocal i c) (dispatchBegun i c s)) i =
      { slotAt s i with st := .dispatched, stage := 13 } := by rw [slotAt_congr (hfed.writes.same .slots (by decide)), hself]
  rw [hslot] at hst hstage hgen
  refine ⟨_, hexec, hst, hstage, hgen, fun y hy hdest hcap => ?_, fun hnone => ?_⟩
  · have hown : ownSeat (dispatchBegun i c s) = ownSeat s := getP_congr (hbegun.same .params (by decide)) _
    have htile := hqueued y hy (hdest.trans hown.symm) hcap
    rw [tileRead_congr (hbegun.same .carafe (by decide)) (hbegun.same .sp (by decide)) (hbegun.same .job (by decide))] at htile
    unfold TileQueued
    rw [hphase.spout]
    exact htile
  · have hpump : dispatchPump i (dispatchBegun i c s) = dispatchBegun i c s :=
      dispatchPump_of_empty (c := c) (by rw [hself, ← hctx]) hnone
    rw [hempty hnone, hpump] at htidy ⊢
    have hall : Writes [.duties, .vault, .slots, .drip] s (dutyTidy (dispatchBegun i c s)) := .after htidy hbegun.mono
    exact ⟨hall.same .job (by decide), hall.same .spout (by decide), hall.same .kft (by decide)⟩

/-- What the end of the combine leaves (R91, R117, R238). -/
theorem combineDone_completes {i : Nat} {c : StepCtx} {s u : State} {ps : List Piece} (hctx : (slotAt s i).ctx = some c)
    (hexec : exec (.combineDone i .ok) s = .next (if c.exitEn then maskDone i c .ok s else stepDone i c s))
    (hrange : c.exitEn = true → xlateRange s 1 c.exitVa (exitMask (slotAt s i) c.nTok).length true = (u, .ok ps)) :
    Completes (.combineDone i .ok) s fun t =>
      (slotAt t i).st = .done ∧ (slotAt t i).ctx = none ∧ (slotAt t i).gen = (slotAt s i).gen ∧
      (slotAt t i).exits = (slotAt s i).exits ∧ (∀ q, q ≠ i → slotAt t q = slotAt s q) ∧
      t.job = { s.job with lastDone := max s.job.lastDone c.step, closeFence := t.job.closeFence } ∧
      (s.latch.opened.any (fun y => sameCmd y c.cmd) = true →
        ∃ r ∈ t.latch.replies, r.tag = c.cmd.tag ∧ r.order = c.cmd.order ∧ r.status = 0 ∧ r.final = true ∧ r.r0 = c.nTok) ∧
      t.hostMem = (if c.exitEn then writePieces ps (exitMask (slotAt s i) c.nTok) s.hostMem else s.hostMem) := by
  refine ⟨_, hexec, ?_⟩
  cases hen : c.exitEn with
  | false =>
    obtain ⟨hwrites, hself, hothers, hjob, hreply⟩ := stepDone_result (c := c) hctx
    simp only [Bool.false_eq_true, if_false]
    rw [hself]
    exact ⟨rfl, rfl, rfl, rfl, hothers, hjob, hreply, hwrites.same .hostMem (by decide)⟩
  | true =>
    have hu := xlateRange_writes s 1 c.exitVa (exitMask (slotAt s i) c.nTok).length true
    rw [hrange hen] at hu
    obtain ⟨dig, hmask⟩ := maskDone_ok (hrange hen)
    simp only [if_true]
    rw [hmask]
    have hset : Writes [.keyway, .hostMem] s
        { u with hostMem := writePieces ps (exitMask (slotAt s i) c.nTok) u.hostMem } := .after (.of_mix (l := [.hostMem]) rfl) hu.mono
    have hslot (q : Nat) : slotAt { u with hostMem := writePieces ps (exitMask (slotAt s i) c.nTok) u.hostMem } q = slotAt s q :=
      slotAt_congr (hset.same .slots (by decide)) q
    have hjobs : u.job = s.job := hu.same .job (by decide)
    have hlatch : u.latch = s.latch := hu.same .latch (by decide)
    have hmem : u.hostMem = s.hostMem := hu.same .hostMem (by decide)
    obtain ⟨hwrites, hself, hothers, hjob, hreply⟩ := stepDone_result (c := { c with digests := dig }) (by rw [hslot, hctx])
    rw [hself, hslot]
    refine ⟨rfl, rfl, rfl, rfl, fun q hq => (hothers q hq).trans (hslot q), ?_, fun hopen => hreply ?_, ?_⟩
    · rw [← hjobs]
      exact hjob
    · rw [← hlatch] at hopen
      exact hopen
    · rw [hwrites.same .hostMem (by decide), ← hmem]

/-- Settles O42. -/
theorem stepStagesComplete : Obligations.StepStagesComplete := by
  unfold Obligations.StepStagesComplete
  intro i n c s _ hlost hctx x d
  refine ⟨fun l hlayer hst hstage hawait happ hrows => ?_, fun h => exec_stage1Complete_rest hlost hctx h,
    fun l hlayer hst hstage hbias htile happ haside => ⟨fun hclean hrouter => ?_, fun k io hbad => ?_, fun k io hclean hn hsrc hbad => ?_⟩,
    fun hst hstage happ y hduty hdone hfree => ?_, fun hst happ hout => ?_, fun v l hready hstage hread => ?_,
    fun hst hstage happ io hbad => ?_, fun hready hst io => exec_combineStart_rest hlost hready hst io,
    fun hst hstage happ hpos hreq u ps hrange => ?_, fun _ _ h io => exec_combineDone_rest hlost hctx h io⟩
  · obtain ⟨hwrites, hself, hothers, hcells⟩ := stageTwo_begins (c := c) (slotAt_lt hctx) l
    exact ⟨_, exec_stage1Complete hlost hctx hlayer hst hstage hawait happ hrows, hself, hothers, hwrites.same .job (by decide),
      hwrites.same .hostMem (by decide), hcells⟩
  · have hexec := exec_stepScoringDone hlost hctx hlayer hst hstage hbias htile happ haside .ok
    rw [hclean] at hexec
    obtain ⟨t, ht, hst', hrest⟩ := scoringDone_completes hctx hexec hrouter
    exact ⟨t, ht, hst'.trans hst, hrest⟩
  · have hexec := exec_stepScoringDone hlost hctx hlayer hst hstage hbias htile happ haside io
    rw [hbad] at hexec
    obtain ⟨hlive, hfirst⟩ := applied_lives happ
    obtain ⟨hfaulted, -, hunit, hdetail, -⟩ := jobFault_names hlive hfirst (0x10 + k) 0x0406 0 (whereSlot s i)
    exact ⟨_, hexec, hfaulted, hunit, hdetail⟩
  · have hexec := exec_stepScoringDone hlost hctx hlayer hst hstage hbias htile happ haside io
    rw [hclean] at hexec
    dsimp only at hexec
    rw [withRouter_poisoned hn hsrc hbad] at hexec
    obtain ⟨hlive, hfirst⟩ := applied_lives happ
    obtain ⟨hfaulted, -, hunit, hdetail, -⟩ := jobFault_names hlive hfirst (0x10 + k) 0x0406 4 (whereSlot s i)
    exact ⟨_, hexec, hfaulted, hunit, hdetail⟩
  · exact dispatchStart_completes hctx hduty (exec_dispatchStart hlost hctx hduty hst hstage hdone happ hfree)
  · obtain ⟨hwrites, hself, hothers⟩ := toAwaiting_result hctx
    exact ⟨_, exec_dispatchAcked hlost hctx hst happ hout, hself, hothers, hwrites.eq_mix⟩
  · obtain ⟨hentered, henter⟩ := combineEnter_result hctx
    obtain ⟨hwrites, dig, hself⟩ := combineRead_result (by rw [henter, ← hctx]) hread
    have hall : Writes [.slots, .drip, .keyway] s (combineRead i .ok (combineEnter i s)) := .after hwrites hentered.mono
    have hv := xlateAnswers_writes c (answersOf c) (combineEnter i s)
    have hrows : rowsCombined (combineEnter i s) c l = (combineRows s.job.desc c (sharedOf s c)
        (l.map fun a => (a.1, readPieces s.hostMem a.2))).map (outRow (outDescOf c)) := by
      unfold rowsCombined sharedOf
      rw [layerIn_congr (congrArg (·.epochs) (hentered.same .ep (by decide))), hentered.same .job (by decide),
        hentered.same .hostMem (by decide)]
    refine ⟨_, exec_combineStart_enter hlost hctx hready hstage hread, ?_, hall.same .job (by decide), hall.same .hostMem (by decide),
      hall.same .sp (by decide), hall.same .mport (by decide), hall.same .params (by decide), ?_⟩
    · rw [hself, henter]
    · rw [hself]
      exact ⟨{ c with outs := rowsCombined (combineEnter i s) c l, outPos := 0, digests := dig }, rfl, hrows⟩
  · obtain ⟨hwrites, hself, hothers, hmem⟩ := combineOn_result (n := n) hctx hbad
    refine ⟨_, exec_combineStart_on hlost hst hstage happ io, hself, hothers, hwrites.same .job (by decide), fun a ha hagain => ?_⟩
    exact hmem a (not_covers_iff.2 ha) fun hend => not_covers_iff.2 (hagain hend)
  · exact combineDone_completes hctx (exec_combineDone hlost hctx hst hstage happ hpos hreq .ok) hrange

end Sys2Proof.Machine
end
